-- ==== Sys2Proof/Word.lean ====
section
/-! DEFINITION. The plain words of the VX-2516 and the flat unit indices of R14. -/

namespace Sys2Proof

/-- A byte; every multi-byte field is little-endian unless R4 says otherwise (R3). -/
abbrev Byte := BitVec 8
/-- All registers are 32 bits wide (00_scope.md, bit fields). -/
abbrev Word := BitVec 32
abbrev DWord := BitVec 64
/-- The accumulator word of R92. -/
abbrev AW := BitVec 128
/-- SM3 hashes, 32-byte keys and nonces. -/
abbrev B256 := BitVec 256

/-- Clearing index 0–15. -/
abbrev Clr := Fin 16
/-- Tile index t = 24·n + j (R14). -/
abbrev Tile := Fin 96
/-- Link index l = 16·m + j (R14). -/
abbrev Lnk := Fin 64
/-- HBM stack HS0–HS15. -/
abbrev Stk := Fin 16
/-- Queue number 0–4,095. -/
abbrev Que := Fin 4096
/-- Key-table slot number. -/
abbrev SlotId := Fin 256

/-- A sparse table: key and entry pairs, keys strictly rising, no entry equal to
what an unlisted key reads as (the canonical form of `Tab.wf`). -/
abbrev Tab (α : Type) := List (Nat × α)

end Sys2Proof
end

