-- ==== Sys2Proof/Syntax.lean ====
section
/-! DEFINITION. The commands the VX-2516 takes, one constructor of `Instr` per row of
spec/opcode_table.json, and the records that arrive with them. -/

namespace Sys2Proof

/-! ## Tide records (chapter 02) -/

/-- A set-back need of the device at a mark: its reason code (R36) and its marks. -/
structure Need where
  reason : BitVec 4
  marks  : BitVec 8
deriving DecidableEq, Repr

/-- The mark record of R29, without its tag. -/
structure MarkRec where
  count    : BitVec 64
  shift    : BitVec 48
  pending  : BitVec 8
  holdover : Bool
  failover : Bool
  epoch    : BitVec 16
  source   : BitVec 20
  hop      : BitVec 8
deriving DecidableEq, Repr

/-- The return record of R31, without its tag. -/
structure RetRec where
  countLow   : BitVec 32
  setback    : BitVec 8
  late       : Bool
  failed     : Bool
  lateCount  : BitVec 16
  reqAddr    : BitVec 20
  reason     : BitVec 4
  failedAddr : BitVec 20
deriving DecidableEq, Repr

/-- The TIDE_IN mark frame of R26. -/
structure TideFrame where
  count : BitVec 64
  flags : BitVec 16
  crc   : BitVec 16
deriving DecidableEq, Repr

/-! ## The stand plan (chapter 03), field by field -/

/-- Plan header (R44). -/
structure PlanHeader where
  magic        : Word
  version      : BitVec 16
  sectionCount : BitVec 16
  totalLength  : Word
  flags        : Word
  planId       : BitVec 64
  serial       : Word
  setId        : Word
  addr         : Word
  reservedZero : Bool
deriving DecidableEq, Repr

/-- Directory entry (R44). -/
structure DirEntry where
  type         : Byte
  offset       : Word
  length       : Word
  reservedZero : Bool
deriving DecidableEq, Repr

/-- DEVICE section (R52). -/
structure PlanDevice where
  topoHash     : B256
  shaded       : Byte
  tamperPolicy : Byte
  reservedZero : Bool
deriving DecidableEq, Repr

/-- TIDE section (R23, R25, R53, R412). Its byte layout is not in the spec. -/
structure PlanTide where
  role      : BitVec 2
  periodNs  : Word
  outEn     : Bool
  parent    : BitVec 6
  altParent : BitVec 6
  altValid  : Bool
  depth     : Nat
  div       : BitVec 20
  delaysNs  : List Nat
deriving DecidableEq, Repr

/-- Clearing descriptor (R48), with its place among the sixteen. -/
structure PlanClearing where
  index        : Byte
  owner        : BitVec 6
  valid        : Bool
  arith        : Byte
  tiles        : BitVec 96
  queueBase    : BitVec 16
  queueCount   : BitVec 16
  flags        : Word
  reservedZero : Bool
deriving DecidableEq, Repr

/-- REGIONS descriptor (R51). -/
structure PlanRegion where
  clearing     : Byte
  mode         : Byte
  sector       : Byte
  first        : Word
  count        : Word
  reservedZero : Bool
deriving DecidableEq, Repr

/-- LINKS entry (R53). -/
structure PlanLink where
  group    : Byte
  data     : Byte
  strand   : Byte
  tidectl  : Byte
  cover    : Byte
  enabled  : Bool
  nbrAddr  : BitVec 20
  farLink  : Byte
  reservedZero : Bool
deriving DecidableEq, Repr

/-- FLOW entry (R54). -/
structure PlanFlow where
  src          : Byte
  dst          : Byte
  kind         : Byte
  contributors : BitVec 16
deriving DecidableEq, Repr

/-- KEY_POLICY entry (R56). -/
structure PlanKey where
  clearing   : Byte
  slotFirst  : Byte
  slotCount  : Byte
  source     : Byte
  bundleId   : BitVec 16
  rekeySteps : BitVec 16
deriving DecidableEq, Repr

/-- A collector slot that a stage fills, with the sending device and clearing (R265). -/
structure StageIn where
  slot : BitVec 12
  addr : BitVec 20
  clr  : BitVec 4
deriving DecidableEq, Repr

/-- A destination of a stage (R265): the link group toward its device, or 0xFF for this device, the
collector slot there and the clearing that owns it; for a copy, the object there. -/
structure StageOut where
  group  : Byte
  slot   : BitVec 12
  clr    : BitVec 4
  handle : Word
  off    : BitVec 48
deriving DecidableEq, Repr

/-- What the schedule names for a stage of a collective (R265, R270): its senders in order, its
destinations, and the earlier stage whose combined partial it sends. The spec gives this no layout. -/
structure PlanStage where
  ins       : List StageIn
  outs      : List StageOut
  partialOf : Option (BitVec 16)
deriving DecidableEq, Repr

/-- SCHEDULE activity entry (R57). -/
structure PlanAct where
  actId       : BitVec 16
  kind        : Byte
  clearing    : Byte
  startOff    : Word
  deadlineOff : Word
  preds       : List (BitVec 16)
  queue       : BitVec 16
  rflags      : BitVec 16
  stage       : PlanStage
deriving DecidableEq, Repr

/-- SCHEDULE template (R57). -/
structure PlanTemplate where
  templateId : BitVec 16
  base       : BitVec 64
  length     : Word
  acts       : List PlanAct
deriving DecidableEq, Repr

/-- STRANDLINE SAVE entry (R322). -/
structure PlanSave where
  clearing : Byte
  shadow   : Bool
  region   : BitVec 16
  first    : BitVec 64
  chunks   : Word
deriving DecidableEq, Repr

/-- STRANDLINE PEER entry (R322). -/
structure PlanPeer where
  addr     : BitVec 20
  shadow   : Bool
  region   : BitVec 16
  firstMib : Word
  sizeMib  : Word
deriving DecidableEq, Repr

/-- STRANDLINE section (R59, R322). -/
structure PlanStrand where
  k            : Byte
  role         : Byte
  d            : BitVec 16
  tauMinSteps  : BitVec 16
  tauMaxS      : BitVec 16
  buddy0       : BitVec 20
  buddy1       : BitVec 20
  shadowAddr   : BitVec 20
  shadowValid  : Bool
  lossClearing : Byte
  lossAct      : BitVec 16
  lossRa       : BitVec 64
  lossRegion   : BitVec 16
  template     : BitVec 16
  saves        : List PlanSave
  peers        : List PlanPeer
deriving DecidableEq, Repr

/-- ESCALATION section (R60): times in µs, windows in s. -/
structure PlanEsc where
  engTimeoutUs : Nat
  engCount     : Nat
  engWindowS   : Nat
  clrTimeoutUs : Nat
  clrCount     : Nat
  clrWindowS   : Nat
  fenced24h    : Nat
  cold24h      : Nat
deriving DecidableEq, Repr

/-- CLAIMS entry (R61). -/
structure PlanClaim where
  cls          : Byte
  section_     : Byte
  entry        : BitVec 16
  first        : Word
  last         : Word
  reservedZero : Bool
deriving DecidableEq, Repr

/-- A stand plan, its sections read into fields (R44–R63). The sections whose bytes
the spec does not lay out (TIDE, SCHEDULE's headers, ESCALATION, TRACE) are held as their fields. -/
structure StandPlan where
  /-- the plan's bytes as they were fetched -/
  raw        : List Byte
  header     : PlanHeader
  dir        : List DirEntry
  paddingZero : Bool
  /-- each section's length as its own layout gives it, in directory order (R45) -/
  layoutLens : List Nat
  device     : PlanDevice
  tide       : PlanTide
  clearings  : List PlanClearing
  gangs      : List Byte
  carveouts  : List (BitVec 1536)
  regions    : List PlanRegion
  linkMode   : Byte
  links      : List PlanLink
  fractions  : List (List Byte)
  ownerMask  : BitVec 64
  quorum     : Byte
  flows      : List PlanFlow
  keyPolicy  : List PlanKey
  templates  : List PlanTemplate
  strandline : Option PlanStrand
  escalation : Option PlanEsc
  claims     : List PlanClaim
  /-- TRACE entries: true for direction OUT (R401) -/
  trace      : Option (List Bool)
  report     : Word
  /-- SM3 of the public key of the signing key, and how many certificates SIGNER holds -/
  signerKey  : B256
  chainCerts : Nat
deriving DecidableEq, Repr

/-- A template header of SCHEDULE, which R57 gives fields and no bytes: where its entries start in the section,
and the stages of its entries. -/
structure TemplateHdr where
  templateId : BitVec 16
  base       : BitVec 64
  length     : Word
  entriesAt  : Nat
  count      : Nat
  stages     : List PlanStage
deriving DecidableEq, Repr

/-- What the loader reads from the parts of a plan that the spec gives fields and no bytes (TIDE, the template
headers and stages of SCHEDULE, ESCALATION, TRACE), with the lengths their own layouts give. -/
structure PlanFields where
  tide        : PlanTide
  tideLen     : Nat
  templates   : List TemplateHdr
  scheduleLen : Nat
  escalation  : Option PlanEsc
  escLen      : Nat
  trace       : Option (List Bool)
  traceLen    : Nat
deriving DecidableEq, Repr

/-- What the Ngatasel core finds when it verifies a fetched plan's signature and chain (R46, R47). -/
structure PlanVerdict where
  sigOk     : Bool
  chainOk   : Bool
  selfSigned : Bool
deriving DecidableEq, Repr

/-! ## Sweep programs and commands -/

/-- A rounding code of R81 as it stands in a field. -/
abbrev RoundCode := BitVec 3

/-- An ingress envelope as the device reads it: the header fields that it checks, and the opened payload (R223,
R285). -/
structure Envelope where
  magic      : Word
  owner      : Byte
  kind       : Byte
  gen        : BitVec 16
  addr       : Word
  wrapZero   : Bool
  payload    : List Byte
deriving DecidableEq, Repr

/-- The 320-byte parameter block of LAUNCH (R285). -/
structure LaunchParams where
  handles : List Word
  arg     : List Byte
deriving DecidableEq, Repr

/-! ## Thread instructions (chapter 07). Their encodings are Weakin's, so a command
carries the operation class of the instruction table and its operands. -/

/-- A hardware context: its core c = 32·t + i and its physical number 0–511. -/
structure CtxId where
  core : Fin 3072
  n    : Fin 512
deriving DecidableEq, Repr

inductive IntWidth where | w8 | w16 | w32 | w64
deriving DecidableEq, Repr

inductive IntOp where
  | add | sub | mul | mulhi | div | rem | shl | shr | rotl | and | or | xor
  | cmpEq | cmpLt | select | clz | popcount
deriving DecidableEq, Repr

inductive FpFmt where | h16 | b16 | s32 | d64
deriving DecidableEq, Repr

inductive FpOp where
  | add | sub | mul | fma | div | sqrt | min | max | cmpEq | cmpLt | cmpLe
deriving DecidableEq, Repr

/-- A scalar floating-point instruction: arithmetic, or a conversion of the class. -/
inductive ThreadFp where
  | arith (op : FpOp) (fmt : FpFmt)
  | convert (src dst : FpFmt)
  | toInt (src : FpFmt) (w : IntWidth) (signed : Bool)
  | fromInt (w : IntWidth) (signed : Bool) (dst : FpFmt)
deriving DecidableEq, Repr

/-- A vector instruction of eight 32-bit lanes. -/
inductive ThreadVec where
  | int (op : IntOp) (signed : Bool)
  | fp (op : FpOp)
  | toInt (signed : Bool) | fromInt (signed : Bool)
  | shuffle | broadcast | laneMask
deriving DecidableEq, Repr

inductive BranchKind where
  | always | ifZero | ifNotZero | call | ret
deriving DecidableEq, Repr

inductive AtomicOp where
  | add | minS | minU | maxS | maxU | and | or | xor | swap | cas
deriving DecidableEq, Repr

inductive SpecialReg where
  | tile | core | ctx | rank | nranks | clearing | launchSeq | vflags
deriving DecidableEq, Repr

/-- The rounding directions a vector instruction carries (R160). -/
inductive Rnd where | rne | rz | ru | rd | sr
deriving DecidableEq, Repr

/-- Datum predicates of IEEE 754-2019, 5.7.2. -/
inductive FpPred where
  | signMinus | normal | finite | zero | subnormal | infinite | nan | signaling | canonical
deriving DecidableEq, Repr

/-- The other operations that IEEE 754-2019 requires of a binary format (R77: its clauses 5.3 to 5.7). Integers have
the width of the format. Log entry 90 (DESIGN CHOICE). -/
inductive IeeeOp where
  | remainder | nextUp | nextDown | scaleB | logB
  /-- roundToIntegral in the instruction's direction, and TiesToAway; with the inexact flag of the Exact form -/
  | roundInt (exact : Bool) | roundIntAway
  /-- convertToInteger in the instruction's direction, or TiesToAway, and its Exact form -/
  | toInt (signed away exact : Bool) | fromInt (signed : Bool)
  /-- a comparison that holds for the relations of the mask: bit 0 less, 1 equal, 2 greater, 3 unordered -/
  | compare (rel : BitVec 4) (signaling : Bool)
  | class_ | is (p : FpPred) | radix | totalOrder (mag : Bool)
deriving DecidableEq, Repr

/-- A vector-unit operation (the table of the vector unit, R160, R308). -/
inductive VuOp where
  | arith (op : FpOp) (fmt : FpFmt) (rnd : Rnd)
  | ieee (op : IeeeOp) (fmt : FpFmt) (rnd : Rnd)
  | abs (fmt : FpFmt) | neg (fmt : FpFmt) | copySign (fmt : FpFmt)
  | convert (src dst : FpFmt) (rnd : Rnd)
  | loadReg (off : Nat) | storeReg (off : Nat) | draw (off : Nat) | clearFlags
deriving DecidableEq, Repr

/-- Operations whose result the spec leaves open for some operands: the free result is a function of the operation
and its operands (R11, R140). Log entry 4. -/
inductive OpenOp where
  | int (op : IntOp) (w : IntWidth) (signed : Bool)
  | fp (op : FpOp) (fmt : FpFmt) (rnd : Rnd)
  | ieee (op : IeeeOp) (fmt : FpFmt) (rnd : Rnd)
  | convert (src dst : FpFmt) (rnd : Rnd)
  | toInt (src : FpFmt) (w : IntWidth) (signed : Bool)
  | fadd | epilogue | token | pad
deriving DecidableEq, Repr

/-- A vector instruction with its registers (64 registers of 512 bytes, R161);
`dstOff` is the operand-store byte offset that R160 and R305 count draws by. -/
structure VuInstr where
  op : VuOp
  vd : Fin 64
  va : Fin 64
  vb : Fin 64
  vc : Fin 64
  dstOff : Nat
deriving DecidableEq, Repr

/-- How one symbol of a stored codeword comes back (R180): its number, 0–31 data and 32–35 check, and the exclusive or
with what was stored. -/
abbrev SymErr := Fin 36 × BitVec 16

/-- The outcome of the base die's RS(36,32) decoder (R180). -/
inductive Ecc where | clean | corrected | uncorrectable
deriving DecidableEq, Repr

/-- Where an HBM read failed to verify (R202): a data unit, a tag line, a tree node of a
level, or the root or epoch entry of the region in on-die SRAM. -/
inductive Level where | unit | tagLine | node (k : Fin 5) | root
deriving DecidableEq, Repr

/-- The status codes of R302. -/
inductive Status where
  | ok | aborted | staleObject | staleRole | uncorrectable | integrityLost | tamper
  | nanTrap | ownerDenied | quorumUnmet | timeout | planConflict | resetting | outOfService
deriving DecidableEq, Repr

/-! ## Keys, mailbox and SPDM (chapter 10) -/

/-- A bundle or release entry (R230), its flags and key included. -/
structure KeyEntry where
  slot     : SlotId
  attr     : BitVec 2
  owner    : BitVec 6
  bundleOk : Bool
  mask     : BitVec 16
  kcv      : BitVec 24
  keyLen   : Nat
  key      : B256
deriving DecidableEq, Repr

/-- A release blob as the core opens it (R232). -/
structure Release where
  wellLaid : Bool
  addr     : BitVec 20
  identity : B256
  nonce    : B256
  owner    : BitVec 6
  sigKey   : B256
  sigOk    : Bool
  entries  : List KeyEntry
deriving DecidableEq, Repr

/-- A set policy (10, Device Sets): the roster names, per owner ID, the SM3 hash of the
owner's key-service public key. -/
structure SetPolicy where
  setId    : Word
  ordering : Byte
  minSvn   : Byte
  pairs    : List (B256 × B256)
  roster   : List (BitVec 6 × B256)
  verifies : Bool
deriving DecidableEq, Repr

/-- What the admitter learns of a candidate from its chain and quote (R225). -/
structure Candidate where
  chainOk     : Bool
  sigOk       : Bool
  /-- the quote carries a nonce that this member issued within the last 60 s -/
  nonceOk     : Bool
  lcs         : Byte
  debugOpened : Bool
  lockdown    : Bool
  fwCtrl      : B256
  fwNgs       : B256
  fwSvn       : Byte
  setId       : Word
  setEpoch    : BitVec 16
  /-- the public half of the candidate's IDE, from its chain -/
  ide         : List Byte := []
deriving DecidableEq, Repr

/-- A rotation order (R227). -/
structure RotationOrder where
  setId  : Word
  epoch  : BitVec 16
  origin : BitVec 20
  sigOk  : Bool
deriving DecidableEq, Repr

/-- An admission blob as the candidate opens it (R225, R226). -/
structure AdmissionBlob where
  opens  : Bool
  sigOk  : Bool
  setKey : B256
  epoch  : BitVec 16
  policy : SetPolicy
  root   : B256
  addr   : BitVec 20
  order  : Option RotationOrder
deriving DecidableEq, Repr

/-- A slot named with the GEN the requester expects (R242). -/
structure SlotRef where
  slot : SlotId
  gen  : BitVec 12
deriving DecidableEq, Repr

/-- A firmware image (R240): TARGET (true for Ngatasel), SVN and plaintext hash of its header, the SM2 signature, and
the SM4-GCM ciphertext with its IV and tag. -/
structure FwImage where
  target   : Bool
  svn      : Byte
  hash     : B256
  sig      : List Byte
  iv       : List Byte
  cipher   : List Byte
  tag      : List Byte
deriving DecidableEq, Repr

/-! ## Links (chapter 11) -/

/-- The flit fields of R247 that every kind carries, as the receiver opens them. -/
structure FlitHdr where
  seq      : BitVec 48
  tag      : DWord
  vc       : BitVec 3
  dst      : BitVec 4
  dstKind  : BitVec 2
  dstGen   : BitVec 12
  ackSeq   : Word
  srcOwner : BitVec 6
  src      : BitVec 4
  stream   : BitVec 16
deriving DecidableEq, Repr

/-- HELLO (R257). -/
structure Hello where
  addr     : BitVec 20
  link     : BitVec 6
  identity : B256
  setId    : Word
  setEpoch : BitVec 16
  bench    : Bool
  planActive : Bool
  shaded   : Bool
  planTopo : B256
  /-- SET_PROOF, 16 bytes -/
  proof    : List Byte
deriving DecidableEq, Repr

/-- Why a link goes DOWN (R246, R260). -/
inductive DownCause where
  | lightLoss | fecErrors | tagFailures | replayHold | rekeyFail | laserLoss
deriving DecidableEq, Repr

/-- One entry of ROLE_UPDATE (R261). -/
structure RoleEntry where
  kind : BitVec 2
  unit : Byte
  gen  : BitVec 12
deriving DecidableEq, Repr

/-! ## Strandline (chapter 14) -/

/-- A manifest as it is stored (R327): its 80-byte header, the body's ciphertext, and its 16-byte tag. -/
structure SealedManifest where
  header : List Byte
  body   : List Byte
  tag    : List Byte
deriving DecidableEq, Repr

/-- A stored chunk (R325, R334): its number, its STRAND_INDEX, its 8-byte tag and its ciphertext. -/
structure ChunkCopy where
  chunk  : Nat
  index  : Word
  tag    : List Byte
  cipher : List Byte
deriving DecidableEq, Repr

/-- What a restore finds of a clearing (R339): its sealed manifest, with what the records of the body say (the spec
gives their TLV form no layout), and its sealed chunks. -/
structure RestoreImage where
  clearing  : Clr
  manifest  : SealedManifest
  roleGen   : BitVec 12
  genKcv    : BitVec 24
  copies    : List ChunkCopy
  /-- index, generation, region, base, size, creating context -/
  objects   : List (Nat × BitVec 12 × Nat × Nat × Nat × BitVec 16)
  /-- STATUS and the REPLAY, LOSS, CONV_NAN, NAN and SAT counts -/
  counters  : List Word
  /-- the trap record's fields in nine numbers, and its position -/
  trap      : Option (List Nat × BitVec 64)
  /-- queues, with the sequence number of the first command that had not started -/
  queues    : List (Que × Word)
deriving DecidableEq, Repr

/-- An allocated fence in a device record (R321). -/
structure FenceRecord where
  index   : BitVec 16
  gen     : BitVec 12
  sig     : Bool
  status  : BitVec 2
  owner   : BitVec 16
  grants  : List (BitVec 16)
deriving DecidableEq, Repr

/-- What a restore finds of the device (R321): its sealed manifest, with the last completed instance, the fences and
the loss log. -/
structure RestoreRecord where
  manifest : SealedManifest
  lastInst : Word
  fences   : List FenceRecord
  lossLog  : List (Word × AW)
deriving DecidableEq, Repr

/-! ## The commands -/

inductive LoReg where | tideCount | tidePos | tideShift | pwrEnergy
deriving DecidableEq, Repr

/-- The life-cycle states of R362. -/
inductive Lc where | maker | integrator | fielded | returned | scrapped
deriving DecidableEq, Repr

/-- The dies that carry sensors of the control die (R388). -/
inductive Die where | cd (n : Fin 4) | io (m : Fin 4) | ctrl
deriving DecidableEq, Repr

/-- The states of a TDI (R275). -/
inductive Tdi where | configUnlocked | configLocked | run | error
deriving DecidableEq, Repr

/-- A debug-authority response (R373). -/
structure DbgResp where
  wellLaid  : Bool
  scope     : Byte
  nonce     : B256
  identity  : B256
  bootId    : BitVec 64
  keyOk     : Bool
  sigOk     : Bool
deriving DecidableEq, Repr

/-- One constructor per row of spec/opcode_table.json, in the table's order. Operands are
what the sender or the event brings. -/
inductive Instr where
  -- 00 / 02: BAR0 accesses
  /-- `line`: ERR_LINE of an error that `hw` brings to MCX_ERR_INFO; `high`: the second half of a 64-bit access (R9) -/
  | registerWrite (off : BitVec 26) (data hw : Word) (line : BitVec 35 := 0) (high : Option (Word × Word) := none)
  | rcRegisterRead (off : BitVec 26) (hw : Word) (high : Option Word := none)
  | loRegisterReadLatch (reg : LoReg)
  | bar0MisalignedAccess (off : BitVec 26) (bytes : Nat) (write : Bool)
  | bar0ReservedAccess (off : BitVec 26) (write : Bool)
  -- 02: the tide
  | rootMarkTimer (needs : List Need)
  | tideInFrame (f : TideFrame) (onTime : Bool) (needs : List Need)
  | tideInFrameMissing (needs : List Need)
  | markRecord (link : Lnk) (r : MarkRec) (tag : DWord) (needs : List Need) (more : Bool := false)
  | returnRecord (link : Lnk) (r : RetRec) (tag : DWord) (rttNs : BitVec 20) (more : Bool := false)
  | mergeCutoff
  | markMissing (fourPeriods : Bool := false)
  | tideSetbackReq (marks : BitVec 8)
  -- 03: the stand plan
  | planLoad
  | planAbort
  | planCheck (raw : List Byte) (x : PlanFields)
  | planApply
  | granuleOverwriteDone (g : Fin 1536)
  -- 04–06: numbers, sweeps
  | numTrapRelease (n : Clr)
  /-- `header`, `payload`: what an INGRESS reads of its envelope (R223) -/
  | copyConvert (q : Que) (seq : Word) (header payload : List Byte)
  | sweepProgram (q : Que) (seq : Word)
  | sweep (t : Tile)
  | accAdd (t : Tile)
  | load (t : Tile) (idx : Nat)
  | store (t : Tile) (idx : Nat)
  | sweepCommit (t : Tile)
  | epilogueDone (t : Tile)
  | moverTransferDone (t : Tile) (idx : Nat)
  -- 07: thread cores; `reserved`: an undefined instruction, or one whose reserved field is not 0 (R162)
  | launch (q : Que) (seq : Word) (ps : LaunchParams)
  | launchStart (q : Que) (seq : Word)
  | launchComplete (q : Que) (seq : Word)
  | threadIntOp (c : CtxId) (op : IntOp) (w : IntWidth) (signed : Bool) (rd ra rb rc : Fin 32)
      (reserved : Bool := false)
  | threadFloatOp (c : CtxId) (op : ThreadFp) (rd ra rb rc : Fin 32) (reserved : Bool := false)
  | threadVectorOp (c : CtxId) (op : ThreadVec) (vd va vb vc : Fin 8) (imm : BitVec 64) (reserved : Bool := false)
  | threadBranch (c : CtxId) (k : BranchKind) (ra link : Fin 32) (target : BitVec 64) (reserved : Bool := false)
  | exit (c : CtxId) (reserved : Bool := false)
  | ld (c : CtxId) (rd : Fin 32) (w : IntWidth) (slot : Fin 16) (off : BitVec 64) (reserved : Bool := false)
  | st (c : CtxId) (rs : Fin 32) (w : IntWidth) (slot : Fin 16) (off : BitVec 64) (reserved : Bool := false)
  | ldn (c : CtxId) (vd : Fin 8) (slot : Fin 16) (off : BitVec 64) (reserved : Bool := false)
  | stn (c : CtxId) (vs : Fin 8) (slot : Fin 16) (off : BitVec 64) (reserved : Bool := false)
  | stnM (c : CtxId) (vs : Fin 8) (lanes : BitVec 8) (slot : Fin 16) (off : BitVec 64) (reserved : Bool := false)
  | ldt (c : CtxId) (rd : Fin 32) (w : IntWidth) (off : BitVec 64) (reserved : Bool := false)
  | stt (c : CtxId) (rs : Fin 32) (w : IntWidth) (off : BitVec 64) (reserved : Bool := false)
  | atomic (c : CtxId) (op : AtomicOp) (wide ret : Bool) (rd rs rc : Fin 32)
      (slot : Fin 16) (off : BitVec 64) (reserved : Bool := false)
  | fadd (c : CtxId) (ret : Bool) (rd rs : Fin 32) (slot : Fin 16) (off : BitVec 64) (reserved : Bool := false)
  | xinit (c : CtxId) (anchor : BitVec 10) (slot : Fin 16) (off : BitVec 64) (reserved : Bool := false)
  | xadd (c : CtxId) (fmt : FpFmt) (rs : Fin 32) (slot : Fin 16) (off : BitVec 64) (reserved : Bool := false)
  | barTile (c : CtxId) (reserved : Bool := false)
  | fenceT (c : CtxId) (reserved : Bool := false)
  | setop (c : CtxId) (rd : Fin 32) (desc : BitVec 64) (reserved : Bool := false)
  | vrun (c : CtxId) (rd : Fin 32) (block : BitVec 64) (stream : BitVec 16) (draws : Bool) (reserved : Bool := false)
  | wait (c : CtxId) (ra : Fin 32) (reserved : Bool := false)
  | rdsr (c : CtxId) (rd : Fin 32) (sr : SpecialReg) (clear : Bool := false) (reserved : Bool := false)
  | cvtAw (c : CtxId) (rd ra rb : Fin 32) (reserved : Bool := false)
  | memoryResponse (id : Nat)
  | setEngineOpStart (t : Tile)
  | setEngineOpDone (t : Tile)
  | vectorBlockStart (t : Tile) (code : List VuInstr)
  | vectorBlockDone (t : Tile)
  -- 08, 09: memory
  | homeSliceAccess (id : Nat)
  /-- `cells`, `transfer`: the symbols that the stack's cells, and that its lanes, have altered (R180) -/
  | hbmLineRead (hs : Stk) (sa : BitVec 37) (write partialWrite : Bool) (cells transfer : List SymErr)
      (level : Level) (forReq : Option Nat)
  | patrolRead (hs : Stk) (sa : BitVec 37) (errors : List SymErr)
  | stackTempSample (hs : Stk) (temp : BitVec 8)
  | mcxEpochRenew (clearing : BitVec 5) (region : BitVec 11)
  | epochRenewal (frame : Fin 17) (region : BitVec 11)
  | keySwap (slot : SlotId)
  | rekeySweepDone (n : Clr) (reached : Option (BitVec 11 × BitVec 35) := none)
  | integrityRepairDone (n : Clr) (ok : Bool)
  | scrubKeyErase (n : Clr)
  | scrubOverwriteStart (n : Clr)
  | scrubDone (n : Clr)
  -- 10: keys and attestation
  | getQuote (nonce : B256)
  | getCerts
  | setFound (root : B256) (p : SetPolicy) (addr : BitVec 20)
  | setAdmit (c : Candidate) (addr : BitVec 20)
  | setJoin (b : AdmissionBlob)
  | setRotate (o : RotationOrder)
  | setRetire
  | loadBundle (bytes : List Byte)
  | loadReleased (r : Release)
  | makeBundle (id : BitVec 16) (slots : List SlotRef)
  | swap (slots : List SlotRef) (pos : BitVec 64)
  | cancelSwap (slots : List SlotRef)
  | destroy (slots : List SlotRef)
  | fwStage (img : FwImage)
  | fwActivate
  | fwCommit
  | getVersion
  | getCapabilities
  | negotiateAlgorithms (sm2 sm3 sm4 : Bool)
  | getDigests
  | getCertificate (slot : BitVec 4)
  | spdmChallenge (nonce : B256)
  | getMeasurements (index : Byte) (nonce : B256) (signed : Bool := false)
  | keyExchange (ok : Bool) (data : List Byte := [])
  | finish (mac : List Byte)
  | heartbeat
  | keyUpdate
  | endSession
  -- 11: links
  | linkTrainingStart (l : Lnk)
  | keyx (l : Lnk) (chain : List Byte) (ephemeral : List Byte := [])
  | hello (l : Lnk) (h : Hello)
  | linkDown (l : Lnk) (why : DownCause)
  | linkRetrainTimer (l : Lnk)
  | lnkRetrain (l : Lnk)
  | linkRekey (l : Lnk)
  | flitSlotSend (l : Lnk)
  | dataFlit (l : Lnk) (h : FlitHdr) (handle : Word) (off : BitVec 48) (bytes : List Byte)
  | collFlit (l : Lnk) (h : FlitHdr) (slot : BitVec 12) (chunk : Word) (elem : BitVec 10)
      (fmt : Byte) (elems : List AW)
  | strandFlit (l : Lnk) (h : FlitHdr) (clearing : Byte) (part : BitVec 3) (fill : Bool)
      (off : BitVec 48) (bytes : List Byte) (strandIndex : Word) (last : Bool)
  | coverFlit (l : Lnk) (h : FlitHdr) (reserved : Option (Fin 10 × List Byte) := none)
  | nak (l : Lnk) (seq : BitVec 48)
  | ack (l : Lnk) (seq : BitVec 48)
  | ackIdleTimeout (l : Lnk)
  | credit (l : Lnk) (perVc : List Nat) (slots : List (BitVec 12))
  | roleUpdate (l : Lnk) (entries : List RoleEntry)
  | staleRole (l : Lnk) (stream : BitVec 16) (kind : BitVec 2) (unit : Byte) (dropped cur : BitVec 12)
  | flowDenied (l : Lnk) (stream : BitVec 16)
  | transferTimeout (q : Que) (seq : Word) (l : Lnk)
  | combineDone (q : Que) (seq : Word)
  | collectorDelivery (q : Que) (seq : Word)
  -- 12: host interface
  | dblTail (q : Que) (v : Word)
  | commandFetch (q : Que) (entry : BitVec 512) (dmaOk : Bool)
  | commandDecode (q : Que)
  | commandStart (q : Que) (seq : Word)
  | collective (q : Que) (seq : Word)
  | confluence (q : Que) (seq : Word)
  | fenceSignal (q : Que) (seq : Word)
  | fenceSignalled (q : Que) (seq : Word)
  | fenceWait (q : Que) (seq : Word)
  | tideWait (q : Que) (seq : Word)
  | objRetire (q : Que) (seq : Word)
  | objRetireDone (i : BitVec 20)
  | strandlineMark (q : Que) (seq : Word)
  | evalWindow (q : Que) (seq : Word)
  | completionPost
  | qcfgCqHead (q : Que) (v : Word)
  | queueEnable (q : Que) (ctrl : Word)
  | queueDisable (q : Que) (ctrl : Word)
  | queueResume (q : Que)
  | ctxDestroy (ctx : BitVec 16)
  | ctxDestroyDone
  | objCreate
  | fenceInit (f : BitVec 16) (owner : BitVec 16)
  | fenceReset (f : BitVec 16)
  | fenceFree (f : BitVec 16)
  | fncSignal (f : BitVec 16) (status : BitVec 2)
  | flr (fn : Fin 2)
  | d3hotReturn (fn : Fin 2)
  | tdispMessage (fn : Fin 2) (target : Tdi)
  | nonIdeTlpDrop (fn : Fin 2)
  | perstNAssert
  -- 14: strandline
  | manifestSend
  | saveDone (saveMs : Nat)
  | lossWordRecord
  | rollback
  | takeover
  | resume
  | restoreDeep
  | restoreDone (images : List RestoreImage) (record : RestoreRecord) (copyFound : Bool) (gapS : Nat)
  | lossVerify (inst : Word)
  -- 15: faults and resets
  | engineWatchdog (e : BitVec 16)
  | activityOverrun (act : BitVec 16) (inst : Word)
  | rstEngine (e : BitVec 16)
  | rstClearing (n : Clr)
  | rstCold
  | engineResetTimeout (e : BitVec 16)
  | clearingResetDone (n : Clr)
  | clearingResetTimeout (n : Clr)
  | neighbourFailed (l : Lnk)
  | commonsRepairDone (hs : Stk) (sa : BitVec 37) (ok : Bool) (copy : ChunkCopy)
  | sysRstNAssert
  | pwrOkDeassert
  | ngataselWatchdog (dump : List Byte)
  | controlDieEccError (dump : List Byte)
  | bootReady (failedLanes : List (Nat × Nat)) (laneAt : List (Nat × Fin 36) := [])
      (trngFail : Bool := false)
  -- 16: life cycle and debug
  | lcsAdvance (v : Word)
  | lcsBurnDone
  | dbgChallenge (scope : Byte)
  | dbgOpen (r : DbgResp)
  | debugScopeOpen
  | dbgReturn (r : DbgResp)
  | challengeExpiry
  | bypass
  | idcode
  | samplePreload (preload : Option (List Bool))
  | extest
  | clamp
  | highz
  | trace
  | ctrl (halt : Bool)
  | bist
  | linkLoop
  | memread (handle : Word) (off : BitVec 48) (st : Status)
  | ngsScan
  -- 17, 18: power, thermal, package
  | modeRequest (mode : BitVec 2)
  | modeCancel
  | modeChange
  | modeRampDone
  | powerSample (inputW : BitVec 16) (parts : List (BitVec 16)) (mainMv auxMv : BitVec 16) (energyJ : BitVec 64)
  | vinMainUndervolt
  | powerRemoval (auxToo : Bool)
  | overcurrent
  | stage2Fault
  | extFault (r : Fin 8)
  | dieTempSample (d : Die) (temp : BitVec 8)
  | vinMainApply
  | pwrOkRise (strapBoot strapTide : Bool)
  | sysRstNRelease (images : List FwImage)
  | i3cPrivateWrite (bytes : List Byte)
  | i3cPrivateRead (words : Nat)
  | setdasa (addr : BitVec 7)
  | entdaa (addr : BitVec 7)
  | traceTriggerEdge (heldNs : Nat)
  | engineResetDone (e : BitVec 16)
  | fencingDone (n : Clr)
  | mailboxRequestDone
  | objRequestDone
  | deepStrandlineDone (q : Que) (seq : Word)
  | perstNRelease
  | opticalTrainingDone (l : Lnk) (failed : BitVec 9)
deriving DecidableEq, Repr

end Sys2Proof
end

