-- ==== Sys2Proof/Decode.lean ====
section
/-! DEFINITION. Commands as words: spec/opcode_table.json gives no row any bits, because the
rows are register accesses, flits, pin and timer events and not encoded instructions. -/

namespace Sys2Proof

/-- The command that the low `nbits` bits of `w` spell by the opcode table. No row of the
table gives bits, so no word spells a command. The 64-byte commands that queues carry are
operands of COMMAND_FETCH, decoded by `Sys2Proof.Machine` from the layout of R285. -/
def decodeTableWord (_nbits _w : Nat) : Option Instr := none

end Sys2Proof
end

