-- ==== Sys2Proof/Config.lean ====
section
/-! DEFINITION. What the spec leaves open: the free values, and the cryptographic functions
it takes from other standards. Every constant here has no body, so no proof can see a value. -/

namespace Sys2Proof.Config

/-- The byte that memory nothing has written returns (R208: not defined, not deterministic),
for the `n`-th such read and its address. Log entry 3. -/
opaque freeByte : Nat → Nat → Byte
/-- The free 64-bit values of the `n`-th draw, by index. Log entry 4. -/
opaque free64 : Nat → Nat → DWord
/-- The unstated result of an operation on its operands. Log entry 4. -/
opaque opResult : OpenOp → List Nat → DWord
/-- The `n`-th draw of the Ngatasel TRNG or DRBG (R210, R224, R306). Log entry 5. -/
opaque trng : Nat → B256
/-- The free draw for index `i` of the `n`-th element run that names STREAM 0xFFFF (R306). Log
entry 5. -/
opaque freeDraw : Nat → Nat → BitVec 24
/-- The fixed implementation of the rounded-path activation with code `c` on an S32 input
(R132: within 2 ulp; the bits are not given). Log entry 6. -/
opaque rounded : Nat → Word → Word

/-- SM3 (GB/T 32905), uninterpreted. Log entry 2. -/
opaque sm3 : List Byte → B256
/-- SM4 (GB/T 32907): key, block. -/
opaque sm4 : BitVec 128 → BitVec 128 → BitVec 128
/-- The KDF of GB/T 32918.4: secret, label and data bytes; the first 256 bits. -/
opaque kdf : B256 → List Byte → B256
/-- X.509 chains (R46, R47, RFC 5280), uninterpreted: the length that the encodings of a SIGNER section declare,
how many certificates it holds, the public key of its signing key, whether the chain verifies up to a root with this
SM3 hash, and whether its one certificate is self-signed. Log entry 2. -/
opaque chainLen : List Byte → Nat
opaque chainCount : List Byte → Nat
opaque chainKey : List Byte → List Byte
opaque chainReaches : List Byte → B256 → Bool
opaque chainSelfSigned : List Byte → Bool
/-- Word 0–7 of the root secret that the part came with (R210). -/
opaque rootWord : Nat → Word
/-- The KDF of GB/T 32918.4 (R211): secret and label; 320 bits. Log entry 2. -/
opaque kdf320 : B256 → List Byte → BitVec 320
/-- SM2 (GB/T 32918): the public half of a private key, and the public-key encryption of a byte string under a public
key with the `n`-th random value. Log entry 2. -/
opaque sm2Public : Nat → List Byte
opaque sm2Encrypt : List Byte → Nat → List Byte → List Byte
/-- The plaintext of an admission blob from its fields (R225), whose byte layout the spec does not give.
Log entry 65 (DESIGN CHOICE). -/
opaque admissionBytes : List Nat → List Byte
/-- The firmware key and the Ifehar firmware signing key (R240), and the bytes of an image's header from TARGET, SVN and
hash, to which the spec gives no layout. Log entry 64 (DEDUCED). -/
opaque fwKey : BitVec 128
opaque fwSigner : List Byte
opaque fwHeader : List Nat → List Byte
/-- The bytes of an SPDM message from its code and its fields, and the shared secret that the device's `n`-th ephemeral
key agrees with a requester's exchange data (R238). Log entry 126 (PRESUMED). -/
opaque spdmBytes : Nat → List (List Byte) → List Byte
opaque spdmAgree : Nat → List Byte → B256
/-- SM3 of the running control-die and Ngatasel firmware (R234). -/
opaque fwCtrl : B256
opaque fwNgs : B256
/-- SVN of the running firmware and FUSE_SVN as fused before service (R234); an SVN is 0–127 (R240). -/
opaque fwSvn : BitVec 7
opaque fuseSvn : BitVec 7
/-- SM3 of a set policy's plan authority root certificate, of the BENCH signing key (R234). -/
opaque rootHash : B256 → B256
/-- The part's serial in PID[15:0] and Ifehar's JEP106 code (R400, R372). -/
opaque partSerial : BitVec 16
opaque jep106 : BitVec 11
/-- The SM2 signature (r, s) over a hash under a private key, with the core's `n`-th random value (R211). -/
opaque sm2Sign : Nat → Nat → B256 → B256 × B256

/-- The bytes of a TLV record of a manifest: its TYPE and its fields. R327 gives the records no byte
layout. Log entry 8. -/
opaque tlv : Byte → List Nat → List Byte

/-- The loss record of an instance and its word (R331): its offset and its bytes, to which the spec gives no
layout. Log entry 8. -/
opaque lossRecord : Word → AW → Nat × List Byte

/-- The SM3 hash of Ifehar's debug authority public key, fused for the ordering code (R374), and the SM2
verification of a signature under a public key over a hash. Log entry 2. -/
opaque debugAuthority : B256
opaque sm2Verify : List Byte → B256 → List Byte → Bool

/-- The block versions of the survey table (R279), by block, and the identity certificate chain under the production
authority or, for the VX-2516-SE, the sample one (R2, R211): the spec gives the bytes of neither. Log entry 10. -/
opaque blockVersion : Nat → BitVec 16
opaque idChain : Bool → List Byte

/-- The link key exchange of GB/T 32918.3 (R256), uninterpreted: whether a far credential chain verifies to the
Ifehar authority of an ordering code, this device's own credential chain, the public half of its `n`-th ephemeral key,
and the two session keys that its `n`-th ephemeral key agrees with a far ephemeral key and chain (this end's sending
key first). Log entry 2. -/
opaque linkChainOk : Bool → List Byte → Bool
opaque linkChain : List Byte
opaque ephemeral : Nat → List Byte
opaque linkKeys : Nat → List Byte → List Byte → B256
/-- What an unreplaced failed lane returns in place of its symbol, for the `n`-th read (R182). Log entry 120. -/
opaque laneWord : Nat → BitVec 16
/-- The payload of a CTRL flit whose operation R263 gives fields and no bytes. Log entry 110 (DESIGN CHOICE). -/
opaque ctrlPayload : Nat → List Nat → List Byte
/-- The IV of a tide record's own tag (R29, R31), which the spec does not give, from the record's bytes.
Log entry 111 (DESIGN CHOICE). -/
opaque recordIv : List Byte → List Byte
/-- The step key of a command whose generator slot has gone between its decode and its start, for the `n`-th free
value (R307). Log entry 129 (DESIGN CHOICE). -/
opaque goneKey : Nat → BitVec 128

end Sys2Proof.Config
end

