-- ==== Sys2Proof/Machine/Fmt.lean ====
section
/-! DEFINITION. The number formats, rounding and conversions of chapter 04, on exact values: a
finite value is (−1)^neg · m · 2^e with a natural m. -/

namespace Sys2Proof

/-! ## Formats (R71, R124) -/

inductive Fmt where
  | f4 | f6m | f6e | f8m | f8e | i8 | b16 | h16 | s32 | d64 | aw | x8
deriving DecidableEq, Repr

/-- The format codes of R124. -/
def Fmt.ofCode (c : Nat) : Option Fmt :=
  match c with
  | 0 => some .f4 | 1 => some .f6m | 2 => some .f6e | 3 => some .f8m | 4 => some .f8e | 5 => some .i8
  | 6 => some .b16 | 7 => some .h16 | 8 => some .s32 | 9 => some .d64 | 10 => some .aw
  | 11 => some .x8 | _ => none

def Fmt.bits : Fmt → Nat
  | .f4 => 4 | .f6m => 6 | .f6e => 6 | .f8m => 8 | .f8e => 8 | .i8 => 8 | .b16 => 16 | .h16 => 16
  | .s32 => 32 | .d64 => 64 | .aw => 128 | .x8 => 8

/-- Mantissa bits. -/
def Fmt.man : Fmt → Nat
  | .f4 => 1 | .f6m => 3 | .f6e => 2 | .f8m => 3 | .f8e => 2 | .b16 => 7 | .h16 => 10 | .s32 => 23
  | .d64 => 52 | _ => 0

/-- The exponent of the smallest non-zero magnitude. -/
def Fmt.lsb : Fmt → Int
  | .f4 => -1 | .f6m => -3 | .f6e => -4 | .f8m => -9 | .f8e => -16 | .b16 => -133 | .h16 => -24
  | .s32 => -149 | .d64 => -1074 | _ => 0

/-- The exponent of the largest binade with finite values. -/
def Fmt.top : Fmt → Int
  | .f4 => 2 | .f6m => 2 | .f6e => 4 | .f8m => 8 | .f8e => 15 | .b16 => 127 | .h16 => 15
  | .s32 => 127 | .d64 => 1023 | .i8 => 7 | _ => 0

/-- The code of the largest finite magnitude. -/
def Fmt.maxCode : Fmt → Nat
  | .f4 => 0x7 | .f6m => 0x1F | .f6e => 0x1F | .f8m => 0x7E | .f8e => 0x7B | .b16 => 0x7F7F
  | .h16 => 0x7BFF | .s32 => 0x7F7FFFFF | .d64 => 0x7FEFFFFFFFFFFFFF | .i8 => 127 | _ => 0

/-- F4, F6M, F6E, F8M, F8E. -/
def Fmt.short : Fmt → Bool
  | .f4 => true | .f6m => true | .f6e => true | .f8m => true | .f8e => true | _ => false

/-- B16, H16, S32, D64: an exponent field of ones holds infinities and NaNs. -/
def Fmt.long : Fmt → Bool
  | .b16 => true | .h16 => true | .s32 => true | .d64 => true | _ => false

def Fmt.sgn (f : Fmt) : Nat := 2 ^ (f.bits - 1)

/-- The code of +∞ in a long format. -/
def Fmt.infCode (f : Fmt) : Nat := f.maxCode + 1

/-! ## Exact values -/

inductive Val where
  /-- (−1)^neg · m · 2^e -/
  | fin (neg : Bool) (m : Nat) (e : Int)
  | inf (neg : Bool)
  /-- sign, quiet bit, and the `w` payload bits below it -/
  | nan (neg quiet : Bool) (payload w : Nat)
  /-- an overflowing finite value (R93: SAT) -/
  | over (neg : Bool)
deriving DecidableEq, Repr

def Val.zero (neg : Bool) : Val := .fin neg 0 0
def Val.qnan : Val := .nan false true 0 0
def Val.ofInt (i : Int) : Val := .fin (decide (i < 0)) i.natAbs 0

def Val.isNan : Val → Bool
  | .nan _ _ _ _ => true
  | _ => false

def Val.isSnan : Val → Bool
  | .nan _ q _ _ => !q
  | _ => false

def Val.isZero : Val → Bool
  | .fin _ m _ => m == 0
  | _ => false

def Val.isInf : Val → Bool
  | .inf _ => true
  | _ => false

def Val.neg? : Val → Bool
  | .fin n _ _ => n | .inf n => n | .nan n _ _ _ => n | .over n => n

def Val.setNeg (b : Bool) : Val → Val
  | .fin _ m e => .fin b m e | .inf _ => .inf b | .nan _ q p w => .nan b q p w | .over _ => .over b

/-- floor(log2) of the magnitude of a finite non-zero value. -/
def floorLog2 (m : Nat) (e : Int) : Int := (Nat.log2 m : Int) + e

/-- The value of a code (R72, R408). -/
def Fmt.value (f : Fmt) (code : Nat) : Val :=
  let c := code % 2 ^ f.bits
  match f with
  | .i8 => if c < 128 then .fin false c 0 else .fin true (256 - c) 0
  | .x8 => if c = 255 then .qnan else .fin false 1 (c - 127)
  | .aw => .zero false
  | _ =>
    let neg := f.sgn ≤ c
    let mag := c % f.sgn
    let man := mag % 2 ^ f.man
    let ex := mag / 2 ^ f.man
    if f.long && f.infCode ≤ mag then
      if man = 0 then .inf neg
      else .nan neg (man.testBit (f.man - 1)) (man % 2 ^ (f.man - 1)) (f.man - 1)
    else if f = .f8m && mag = 0x7F then .nan neg true 0 0
    else if f = .f8e && 0x7C ≤ mag then .nan neg true 0 0
    else if ex = 0 then .fin neg man f.lsb
    else .fin neg (2 ^ f.man + man) (f.lsb + (ex - 1 : Nat))

/-! ## Rounding (R79, R80) -/

inductive Rm where | rne | rz | ru | rd | sr
deriving DecidableEq, Repr

/-- The codes of ARITH[4:2]; 0x7 and the reserved codes are resolved before. -/
def Rm.ofCode (c : Nat) : Rm :=
  match c with | 1 => .rz | 2 => .ru | 3 => .rd | 4 => .sr | _ => .rne

/-- m · 2^e over the quantum 2^q: the integer part, and the fraction as rem/den. -/
def quantise (m : Nat) (e q : Int) : Nat × Nat × Nat :=
  if q ≤ e then (m * 2 ^ (e - q).toNat, 0, 1)
  else
    let den := 2 ^ (q - e).toNat
    (m / den, m % den, den)

/-- Whether the magnitude rounds away from zero; `odd` is the lower neighbour's parity and `draw` the
24-bit draw of SR. -/
def roundsUp (rm : Rm) (neg odd : Bool) (rem den draw : Nat) : Bool :=
  match rm with
  | .rne => den < 2 * rem || (2 * rem == den && odd)
  | .rz => false
  | .ru => rem != 0 && !neg
  | .rd => rem != 0 && neg
  | .sr => draw < rem * 2 ^ 24 / den

/-- The result of rounding a non-zero magnitude to a format's significand, the exponent unbounded
above: its code as if larger codes continued, and the inexact mark. -/
def Fmt.roundMag (f : Fmt) (rm : Rm) (draw : Nat) (neg : Bool) (m : Nat) (e : Int) : Nat × Bool :=
  let q := max (floorLog2 m e - f.man) f.lsb
  let x := quantise m e q
  let n := if roundsUp rm neg (x.1 % 2 == 1) x.2.1 x.2.2 draw then x.1 + 1 else x.1
  (n + (q - f.lsb).toNat * 2 ^ f.man, x.2.1 != 0)

/-- The magnitude exceeds the format's max finite. -/
def Fmt.above (f : Fmt) (m : Nat) (e : Int) : Bool :=
  let x := f.roundMag .rz 0 false m e
  f.maxCode < x.1 || (f.maxCode == x.1 && x.2)

/-- R84: a finite input overflows. -/
def Fmt.overflows (f : Fmt) (rm : Rm) (neg : Bool) (m : Nat) (e : Int) : Bool :=
  if rm = .sr then f.above m e else decide (f.maxCode < (f.roundMag rm 0 neg m e).1)

/-- IEEE 754 overflow: whether the result is infinite (R84). -/
def overflowsToInf (rm : Rm) (neg : Bool) : Bool :=
  match rm with
  | .rne => true | .sr => true | .rz => false | .ru => !neg | .rd => neg

/-- A code with its sign. -/
def Fmt.signed (f : Fmt) (neg : Bool) (mag : Nat) : Nat := if neg then mag + f.sgn else mag

/-! ## Conversion to a plain format (R82–R86, R408) -/

/-- The arithmetic modes of R48. -/
inductive Mode where | fastSat | fastIeee | strict
deriving DecidableEq, Repr

def Mode.ofCode (c : Nat) : Mode := match c with | 1 => .fastIeee | 2 => .strict | _ => .fastSat

/-- A NaN in a destination format, and its conversion NaN (R83, R408). -/
def Fmt.nanCode (f : Fmt) (md : Mode) (neg : Bool) (p w : Nat) : Nat :=
  if f.long then
    let quiet := f.infCode + 2 ^ (f.man - 1)
    if md = .strict then
      let w' := f.man - 1
      f.signed neg (quiet + (if w ≤ w' then p * 2 ^ (w' - w) else p / 2 ^ (w - w')))
    else quiet
  else
    match f with
    | .f8m => if md = .strict then f.signed neg 0x7F else 0x7F
    | .f8e => if md = .strict then f.signed neg 0x7F else 0x7F
    | .x8 => 0xFF
    | _ => 0

/-- An overflowing finite value in a destination format (R84). -/
def Fmt.overCode (f : Fmt) (md : Mode) (rm : Rm) (neg : Bool) : Nat :=
  if f = .i8 then (if neg then 0x80 else 127)
  else if f.long && md != .fastSat && overflowsToInf rm neg then f.signed neg f.infCode
  else f.signed neg f.maxCode

/-- The code of a finite value in a short or long format (R79, R84, R85). -/
def Fmt.finCode (f : Fmt) (md : Mode) (rm : Rm) (draw : Nat) (neg : Bool) (m : Nat) (e : Int) : Nat :=
  if m = 0 then f.signed neg 0
  else if md ≠ .strict && floorLog2 m e < f.lsb then f.signed neg 0
  else if f.overflows rm neg m e then f.overCode md rm neg
  else f.signed neg (f.roundMag rm draw neg m e).1

/-- A finite value to I8 (R84, R86). -/
def i8Code (rm : Rm) (draw : Nat) (neg : Bool) (m : Nat) (e : Int) : Nat :=
  let x := quantise m e 0
  let n := if roundsUp rm neg (x.1 % 2 == 1) x.2.1 x.2.2 draw then x.1 + 1 else x.1
  if neg then (256 - min n 128) % 256 else min n 127

/-- A finite value to X8 (R408). -/
def x8Code (rm : Rm) (draw : Nat) (m : Nat) (e : Int) : Nat :=
  let l := floorLog2 m e
  if l < -127 then 0
  else
    let x := quantise m e l
    -- lo has the code l + 127; hi = 2·lo, and the fraction (x − lo)/lo is rem/den over integer part 1
    let code := (l + 127).toNat
    let up := roundsUp rm false (code % 2 == 1) x.2.1 x.2.2 draw
    min (if up then code + 1 else code) 254

/-- Conversion of a value into a plain format: the code, and whether it counts as a conversion NaN
(R83–R87, R408). -/
def Fmt.convert (f : Fmt) (md : Mode) (rm : Rm) (draw : Nat) (v : Val) : Nat × Bool :=
  match v with
  | .nan neg _ p w => (f.nanCode md neg p w, true)
  | .inf neg =>
    if f = .x8 then (if neg then (0xFF, true) else (0xFE, false))
    else if f.long then (f.signed neg f.infCode, false)
    else if f = .i8 then (f.overCode md rm neg, false)
    else if md = .fastSat then (f.signed neg f.maxCode, false)
    else if f = .f8m || f = .f8e then (f.nanCode md neg 0 0, true)
    else (f.signed neg f.maxCode, true)
  | .over neg =>
    if f = .x8 then (if neg then (0xFF, true) else (0xFE, false)) else (f.overCode md rm neg, false)
  | .fin neg m e =>
    if f = .x8 then
      if m = 0 then (0, false)
      else if neg then (0xFF, true)
      else (x8Code rm draw m e, false)
    else if f = .i8 then (i8Code rm draw neg m e, false)
    else (f.finCode md rm draw neg m e, false)

/-! ## Blocked destinations (R88, R413) -/

/-- A value of a block after R84 has replaced its infinities: in FAST-SAT an ∞ is the source format's
max finite, or, of an accumulator word, larger than every finite value. -/
def blockInput (src : Fmt) (md : Mode) (v : Val) : Val :=
  match v with
  | .inf neg =>
    if md = .fastSat then
      if src.long then (match src.value src.maxCode with | .fin _ m e => .fin neg m e | x => x)
      else .over neg
    else v
  | _ => v

/-- Compare two finite magnitudes: the first is less. -/
def magLt (m : Nat) (e : Int) (n : Nat) (g : Int) : Bool :=
  if e ≤ g then m < n * 2 ^ (g - e).toNat else m * 2 ^ (e - g).toNat < n

/-- The largest finite magnitude of a block. -/
def maxMag : List Val → Nat × Int
  | [] => (0, 0)
  | .fin _ m e :: vs =>
    let x := maxMag vs
    if magLt x.1 x.2 m e then (m, e) else x
  | _ :: vs => maxMag vs

/-- The block's scale (R88). -/
def blockScale (f : Fmt) (vs : List Val) : Nat :=
  if vs.any fun v => match v with | .over _ => true | _ => false then 254
  else
    let x := maxMag vs
    if x.1 = 0 then 0x7F
    else
      let e := max 0 (min 254 (floorLog2 x.1 x.2 - f.top + 127))
      let up := f.maxCode < (f.roundMag .ru 0 false x.1 (x.2 - (e - 127))).1
      (if e < 254 && up then e + 1 else e).toNat

/-- One block of up to 32 values into a blocked short format: the scale, the codes, and which elements
count as conversion NaNs. -/
def convertBlock (f src : Fmt) (md : Mode) (rm : Rm) (draws : List Nat) (vs : List Val) :
    Nat × List Nat × List Bool :=
  let ws := vs.map (blockInput src md)
  let bad := ws.map fun v => v.isNan || v.isInf
  if bad.any id then (0xFF, vs.map fun _ => 0, bad)
  else
    let s := blockScale f ws
    let codes := (ws.zip draws).map fun x =>
      match x.1 with
      | .fin neg m e => (f.convert md rm x.2 (.fin neg m (e - ((s : Int) - 127)))).1
      | v => (f.convert md rm x.2 v).1
    (s, codes, bad)

/-! ## Blocked sources (R75) -/

/-- The value of an element under its block's scale. Under scale 0xFF every element is a NaN of sign 0, in STRICT
clearings too, where R83 keeps a sign: the spec gives such an element none. Log entry 116 (DESIGN CHOICE). -/
def scaled (x : Nat) (v : Val) : Val :=
  if x = 255 then .qnan
  else match v with
    | .fin neg m e => .fin neg m (e + ((x : Int) - 127))
    | v => v

/-! ## Packing (R73) -/

/-- The little-endian bits of bytes. -/
def bitsVal : List Byte → Nat
  | [] => 0
  | b :: bs => b.toNat + 256 * bitsVal bs

/-- Bytes of `n` elements of a format. -/
def Fmt.bytesOf (f : Fmt) (n : Nat) : Nat :=
  match f with
  | .f4 => (n + 1) / 2
  | .f6m => (n + 3) / 4 * 3
  | .f6e => (n + 3) / 4 * 3
  | _ => n * (f.bits / 8)

/-- Where element `i` lies: the byte offset of its group, the group's bytes, and its bit offset. -/
def Fmt.place (f : Fmt) (i : Nat) : Nat × Nat × Nat :=
  match f with
  | .f4 => (i / 2, 1, 4 * (i % 2))
  | .f6m => (i / 4 * 3, 3, 6 * (i % 4))
  | .f6e => (i / 4 * 3, 3, 6 * (i % 4))
  | _ => (i * (f.bits / 8), f.bits / 8, 0)

/-- The code of element `i` of an array of bytes. -/
def Fmt.codeAt (f : Fmt) (bs : List Byte) (i : Nat) : Nat :=
  let p := f.place i
  bitsVal ((bs.drop p.1).take p.2.1) / 2 ^ p.2.2 % 2 ^ f.bits

/-- The first `n` codes of an array of bytes. -/
def Fmt.unpack (f : Fmt) (n : Nat) (bs : List Byte) : List Nat :=
  match f with
  | .f4 => (bs.flatMap fun b => [b.toNat % 16, b.toNat / 16]).take n
  | .f6m => (sixes n bs).take n
  | .f6e => (sixes n bs).take n
  | _ => whole (f.bits / 8) n bs
where
  /-- Groups of three bytes hold four elements. -/
  sixes : Nat → List Byte → List Nat
    | 0, _ => []
    | k + 1, bs =>
      let w := bitsVal (bs.take 3)
      if bs.isEmpty then []
      else [w % 64, w / 64 % 64, w / 4096 % 64, w / 262144 % 64] ++ sixes k (bs.drop 3)
  whole (b : Nat) : Nat → List Byte → List Nat
    | 0, _ => []
    | n + 1, bs => bitsVal (bs.take b) :: whole b n (bs.drop b)

def bytesLe : Nat → Nat → List Byte
  | 0, _ => []
  | n + 1, v => BitVec.ofNat 8 v :: bytesLe n (v / 256)

/-- Codes packed into bytes, padded at the end with the code 0. -/
def Fmt.pack (f : Fmt) (cs : List Nat) : List Byte :=
  match f with
  | .f4 => pairs cs
  | .f6m => quads cs
  | .f6e => quads cs
  | _ => cs.flatMap (bytesLe (f.bits / 8))
where
  pairs : List Nat → List Byte
    | [] => []
    | [a] => [BitVec.ofNat 8 a]
    | a :: b :: cs => BitVec.ofNat 8 (a + 16 * b) :: pairs cs
  quads : List Nat → List Byte
    | [] => []
    | [a] => bytesLe 3 a
    | [a, b] => bytesLe 3 (a + 64 * b)
    | [a, b, c] => bytesLe 3 (a + 64 * b + 4096 * c)
    | a :: b :: c :: d :: cs => bytesLe 3 (a + 64 * b + 4096 * c + 262144 * d) ++ quads cs

end Sys2Proof
end

