-- ==== Sys2Proof/Machine/State.lean ====
section
/-! DEFINITION. The state of the VX-2516: every register, table, store and queue that the
spec gives the device, block by block, as plain data, and its value after reset. -/

namespace Sys2Proof.Machine
open Sys2Proof

/-! ## Why a step stops -/

/-- Faults. -/
inductive Fault where
  /-- Raised by HBM_LINE_READ, PATROL_READ and COMMONS_REPAIR_DONE for a stack address at or
  above 96 GiB, which R164 and R172 say no stack has. Safe: the machine stops. -/
  | noSuchMemory
deriving DecidableEq, Repr

/-- Refusals. -/
inductive Refusal where
  /-- Raised only by an arm of `exec` whose command has no meaning yet. Safe. -/
  | notModelled (mnemonic : String)
deriving DecidableEq, Repr

/-! ## Completions and what leaves the device -/

/-- The DETAIL codes of R302. -/
inductive Detail where
  | none | decode | contextDestroyed | queueDisabled | clearingHalted | flr | fenceAbandoned
  | fenceError | ingressTag | notScheduled | epochOverrun | alreadySignalled
deriving DecidableEq, Repr

/-- A completion record (R295), PHASE apart, with the queue whose ring it goes to. -/
structure Completion where
  queue   : Que
  seq     : Word
  userTag : Word
  status  : Status
  detail  : Detail
  context : BitVec 16
  opcode  : Byte
  source  : Nat
  info    : BitVec 64
  rank    : BitVec 21
  irq     : Bool
  /-- its place among all completions, in completion order (R298) -/
  ord     : Nat
deriving DecidableEq, Repr

/-- Control messages (the control operations of R263's table). -/
inductive CtrlMsg where
  /-- the HELLO payload of R257, 96 bytes -/
  | hello (payload : List Byte)
  /-- the key-exchange message and credential chain of R256 -/
  | keyx (message : List Byte)
  | nak (seq : BitVec 48)
  | roleUpdate (entries : List RoleEntry)
  | staleRole (stream : BitVec 16) (kind : BitVec 2) (unit : Byte) (dropped cur : BitVec 12)
  | flowDenied (stream : BitVec 16)
  | credit (perVc : List Nat) (slots : List (BitVec 12))
  | ack (seq : BitVec 48)
deriving DecidableEq, Repr

/-- A tide record waiting for, or inside, a TIDE flit (R247). -/
inductive TideRec where
  | mark (r : MarkRec)
  | ret (r : RetRec)
deriving DecidableEq, Repr

/-- The body of a flit to send (R247). -/
inductive TxBody where
  | data (handle : Word) (off : Nat) (bytes : List Byte)
  | coll (slot : BitVec 12) (chunk : Nat) (elem : Nat) (fmt : Byte) (elems : List AW)
  | strand (clearing : Byte) (part : BitVec 3) (fill : Bool) (off : Nat) (bytes : List Byte)
  | tide (rs : List TideRec)
  | ctrl (m : CtrlMsg)
  | cover
deriving DecidableEq, Repr

/-- A flit waiting in a virtual channel, with the transfer it belongs to. -/
structure TxFlit where
  vc       : Nat
  /-- source clearing, 16 for none, and its owner -/
  clearing : Nat
  owner    : BitVec 6
  /-- destination clearing; none where DST_KIND is 3 -/
  dst      : Option (BitVec 4)
  stream   : BitVec 16
  queue    : Nat
  cmdSeq   : Word
  body     : TxBody
deriving DecidableEq, Repr

/-- A flit as it was sent: SEQ, the ACK_SEQ and DST_GEN it carries, the key epoch that sealed it, what it carries,
and its 256 bytes on the fibre (R247, R249). -/
structure SentFlit where
  seq      : BitVec 48
  ack      : Word
  gen      : BitVec 12
  keyEpoch : Nat
  flit     : TxFlit
  wire     : List Byte
deriving DecidableEq, Repr

/-- A quote (R234), its 48-byte clearing entries as records. -/
structure QuoteEntry where
  state   : BitVec 3
  owner   : BitVec 6
  roleGen : BitVec 12
  arith   : Byte
  kflags  : BitVec 4
  measure : B256
deriving DecidableEq, Repr

structure Quote where
  ordering    : Byte
  lcs         : Byte
  flags       : BitVec 16
  addr        : BitVec 20
  nonce       : B256
  identity    : B256
  fwCtrl      : B256
  fwNgs       : B256
  fwSvn       : Byte
  fuseSvn     : Byte
  stagedSvn   : Byte
  staged      : B256
  planHash    : B256
  armedHash   : B256
  authority   : B256
  serial      : Word
  setId       : Word
  setEpoch    : BitVec 16
  contained   : BitVec 16
  degradedPcs : BitVec 16
  firstAct    : BitVec 16
  tidePos     : BitVec 64
  topo        : B256
  entries     : List QuoteEntry
deriving DecidableEq, Repr

/-- The mailbox results of R242. -/
inductive SecRes where
  | ok | malformed | denied | kcvMismatch | stale | busy | badSignature | tooLate | notMember
  | lifecycle | rollback
deriving DecidableEq, Repr

/-- The body of a mailbox response. -/
inductive SecBody where
  | empty
  | quote (q : Quote) (sig : B256 × B256)
  | certs (ordering : Byte)
  | deniedRow (row : Nat)
  | admission (addr : BitVec 20) (epoch : BitVec 16) (blob : List Byte) (order : Option RotationOrder)
  | bundle (id : BitVec 16) (epoch : BitVec 16) (slots : List SlotId) (blob : List Byte)
deriving DecidableEq, Repr

/-- The DMTF value types of R238. -/
inductive MeasKind where | mutableFirmware | firmwareConfig | hardwareConfig | rawBits
deriving DecidableEq, Repr

/-- The requests of the SPDM responder (R238). -/
inductive SpdmReq where
  | getVersion | getCapabilities
  | negotiateAlgorithms (sm2 sm3 sm4 : Bool)
  | getDigests
  | getCertificate (slot : BitVec 4)
  | challenge (nonce : B256)
  | getMeasurements (index : Byte) (nonce : B256) (signed : Bool)
  | keyExchange (ok : Bool) (data : List Byte)
  | finish (mac : List Byte)
  | heartbeat | keyUpdate | endSession
deriving DecidableEq, Repr

/-- An SPDM response (R238). -/
inductive SpdmResp where
  | version (v : Byte)
  | capabilities
  | algorithms
  | digests (slot0 : B256)
  | certificate (chain : List Byte)
  | challengeAuth (nonce : B256) (sig : B256 × B256)
  /-- a measurement, its DMTF value type, its bytes, and a signature where one was asked for -/
  | measurement (index : Byte) (kind : MeasKind) (value : List Byte) (sig : Option (B256 × B256))
  | keyExchangeRsp (sig : B256 × B256) (verify : List Byte)
  | finishRsp | heartbeatAck | keyUpdateAck | endSessionAck
  | error
  /-- a Scrapped device's answer to every attestation request (R211) -/
  | lifecycle
deriving DecidableEq, Repr

/-- What the device drives on its links, pins and buses, in the order it drives it.
Log entry 18 (DESIGN CHOICE). -/
inductive Output where
  | tideOut (f : TideFrame)
  | tideReturn (countLow : Word) (setback : BitVec 8) (lateAny : Bool) (crc : BitVec 16)
  | auxPulse
  | tracePulse
  | msix (vector : Nat)
  | flit (l : Lnk) (wire : List Byte)
  | idle (l : Lnk)
  /-- a completion record at its bus address (R295) -/
  | ringRecord (addr : BitVec 64) (bytes : List Byte)
  | fetchPlan (src : BitVec 64) (len : Word)
  | envelope (addr : BitVec 64) (bytes : List Byte)
  | deepWrite (addr : BitVec 64) (bytes : List Byte)
  | ibi (src : BitVec 5)
  | i3cData (ws : List Word)
  | spdm (r : SpdmResp)
  | tap (code : Byte)
  | tapData (bits : BitVec 32)
  | tapLine (st : Status) (bytes : List Byte)
  | gpio (z : Bool)
  | pcieLinkReset
deriving DecidableEq, Repr

/-! ## BAR0 and PCIe (R3–R10, R272–R279) -/

structure Bus where
  readData  : Word
  /-- the high word of the last 64-bit read (R9) -/
  readHigh  : Word
  hiCount   : Word
  hiPos     : Word
  hiShift   : Word
  hiEnergy  : Word
  tdi       : Tab Tdi
  /-- TLPs dropped outside IDE, counted under AER, per function (R274) -/
  aerDrops  : Tab Nat
  x8x8      : Bool
  perst     : Bool
  cfgReady  : Bool
deriving DecidableEq, Repr

/-- Log entry 15 (DESIGN CHOICE). -/
def Bus.reset : Bus :=
  { readData := 0, readHigh := 0, hiCount := 0, hiPos := 0, hiShift := 0, hiEnergy := 0, tdi := [], aerDrops := [],
    x8x8 := false, perst := false, cfgReady := true }

/-- The blocks with an EVENT and an EVENT_EN register. -/
inductive Blk where | tide | plan | mem | mcx | sec | lnk | stl | flt | pwr | thm | dbl
deriving DecidableEq, Repr

structure Ev where
  ev : Word
  en : Word
deriving DecidableEq, Repr

def Ev.reset : Ev := { ev := 0, en := 0 }

structure Events where
  tide : Ev
  plan : Ev
  mem  : Ev
  mcx  : Ev
  sec  : Ev
  lnk  : Ev
  stl  : Ev
  flt  : Ev
  pwr  : Ev
  thm  : Ev
  dbl  : Ev
deriving DecidableEq, Repr

def Events.reset : Events :=
  { tide := Ev.reset, plan := Ev.reset, mem := Ev.reset, mcx := Ev.reset, sec := Ev.reset,
    lnk := Ev.reset, stl := Ev.reset, flt := Ev.reset, pwr := Ev.reset, thm := Ev.reset,
    dbl := Ev.reset }

/-! ## The tide (chapter 02) -/

structure Tide where
  /-- the role now played: the plan's, changed by failover (R40, R41) -/
  isSource   : Bool
  following  : Bool
  count      : BitVec 64
  pos        : BitVec 64
  shift      : BitVec 48
  pendingSb  : BitVec 8
  epoch      : BitVec 16
  source     : BitVec 20
  hop        : BitVec 8
  parent     : BitVec 6
  alt        : BitVec 6
  altValid   : Bool
  locked     : Bool
  holdover   : Bool
  lost       : Bool
  split      : Bool
  firstSeen  : Bool
  missing    : Nat
  /-- no card frame accepted since the plan took effect (R27) -/
  cardFirst  : Bool
  cardMissed : Nat
  hostReq    : BitVec 8
  /-- the host's request has been in a return, so held marks reduce it (R36, R43) -/
  hostSent   : Bool
  lastMarks  : BitVec 8
  lastReason : BitVec 4
  lateCount  : Word
  missCount  : Word
  authCount  : Word
  retLateCount : Word
  rttNs      : BitVec 20
  /-- the record pending for the parent, answering the current mark (R31) -/
  upward     : Option RetRec
  /-- the root's merge windows: of this mark, and of the next (R32) -/
  window     : Option RetRec
  nextWindow : Option RetRec
  cutoff     : Bool
  /-- GPIO_TIDE_AUX is high impedance until the next mark (R401) -/
  auxHiZ     : Bool
  needs      : List Need
deriving DecidableEq, Repr

def Tide.reset : Tide :=
  { isSource := false, following := false, count := 0, pos := 0, shift := 0, pendingSb := 0,
    epoch := 0, source := 0, hop := 0, parent := 0, alt := 0, altValid := false,
    locked := false, holdover := false,
    lost := false, split := false, firstSeen := false, missing := 0, cardFirst := true,
    cardMissed := 0, hostReq := 0, hostSent := false, lastMarks := 0, lastReason := 0, lateCount := 0, missCount := 0,
    authCount := 0, retLateCount := 0, rttNs := 0, upward := none, window := none,
    nextWindow := none, cutoff := false, auxHiZ := false, needs := [] }

/-! ## The plan loader and the schedule (chapter 03) -/

/-- PLAN_STATUS.STATE. -/
inductive PlanSt where | empty | fetching | checking | armed | active | failed
deriving DecidableEq, Repr

structure PlanRegs where
  srcLo    : Word
  srcHi    : Word
  len      : Word
  applyLo  : Word
  applyHi  : Word
  st       : PlanSt
  reason   : Byte
  section_ : Byte
  entry    : BitVec 16
  confA    : Word
  confB    : Word
  confRes  : Word
  active   : Option StandPlan
  armed    : Option StandPlan
  /-- the clearings the armed plan changes (R67) -/
  changed  : BitVec 16
  /-- what the BENCH plan's signer adopted: the armed plan was checked as a takeover load -/
  takeoverLoad : Bool
  /-- a mark since the plan was armed has reached PLAN_APPLY_POS, and the apply belongs to that mark (R66) -/
  due      : Bool
  held     : Bool
  /-- granules given up whose overwrite runs, with the clearing that waits for each (R68) -/
  overwrites : List (Nat × Nat)
deriving DecidableEq, Repr

def PlanRegs.reset : PlanRegs :=
  { srcLo := 0, srcHi := 0, len := 0, applyLo := 0, applyHi := 0, st := .empty, reason := 0,
    section_ := 0, entry := 0, confA := 0, confB := 0, confRes := 0, active := none, armed := none,
    changed := 0, takeoverLoad := false, due := false, held := false, overwrites := [] }

/-- One activity of one template instance that has started (R34, R35). -/
structure ActRun where
  act       : BitVec 16
  inst      : Word
  clearing  : Nat
  startPos  : Nat
  deadline  : Nat
  startMark : BitVec 64
  late      : Bool
  counted   : Bool
  /-- a save, shadow or deep activity: the device's part of it has ended -/
  done      : Bool
deriving DecidableEq, Repr

/-- An instance of an activity whose start position has been reached while a predecessor was not complete, and
whether its deadline has passed (R34, R35). -/
structure ActWait where
  act  : BitVec 16
  inst : Nat
  late : Bool
deriving DecidableEq, Repr

structure Sched where
  /-- the first instance of each activity whose start position has not been reached, by ACT_ID -/
  nextInst : Tab Nat
  /-- instances whose start position has been reached and that have not started -/
  waits    : List ActWait
  runs     : List ActRun
  /-- instances of which a reset has aborted a command: they can no longer complete (R351) -/
  dead     : List (BitVec 16 × Word)
  /-- what RESUME has added to every BASE (R340) -/
  delta    : Nat
deriving DecidableEq, Repr

def Sched.reset : Sched := { nextInst := [], waits := [], runs := [], dead := [], delta := 0 }

/-! ## Clearings (R48, R197, R207, R354–R356, NUM, MCX, MEM_CLR) -/

/-- The quote STATE codes of R234. -/
inductive ClrSt where | absent | active | resetting | scrubbing | fenced | contained | halted
deriving DecidableEq, Repr

/-- A NaN event that waits for the next mark, or that the trap record holds (R111–R113).
Log entry 45 (DEDUCED). -/
structure NanEvent where
  source  : Nat
  tile    : Nat
  queue   : Nat
  seq     : Word
  sweep   : Nat
  row     : Nat
  col     : Nat
  k       : Nat
  stopped : Bool
deriving DecidableEq, Repr

structure Num where
  status   : Word
  replay   : Word
  loss     : Word
  convNan  : Word
  nan      : Word
  sat      : Word
  trap     : Option NanEvent
  trapPos  : BitVec 64
  release  : Bool
  events   : List NanEvent
deriving DecidableEq, Repr

def Num.reset : Num :=
  { status := 0, replay := 0, loss := 0, convNan := 0, nan := 0, sat := 0, trap := none,
    trapPos := 0, release := false, events := [] }

/-- An MCX frame (chapter 09): frames 0–15 of the clearings, 16 of the strandline reserve. -/
structure McxFrame where
  scrub     : Bool
  rekey     : Bool
  repair    : Bool
  contained : Bool
  waitKeys  : Bool
  kg        : Bool
  tamper    : Word
  ue        : Word
  ilost     : Word
  overrun   : Word
  nodeMiss  : Word
  errInfo   : Word
  errLine   : BitVec 35
  sweepPos  : BitVec 35
  /-- the scrub has erased the old keys (step 2), and its overwrite runs (step 3) -/
  erased    : Bool
  overwriting : Bool
  /-- the open quarantine (R205): region, first and last region address -/
  quarantine : List (Nat × Nat × Nat)
  /-- subtrees poisoned with cause 0x01 by a failed tag line or node (R202): region, first and last region
  address -/
  tampered   : List (Nat × Nat × Nat)
  /-- the region, in plan order, that the running rekey sweep has reached (R200) -/
  sweepRegion : Nat := 0
  /-- a generated replacement of the pair waits for the running sweep (R201, R205, R220) -/
  rekeyWaits : Bool := false
deriving DecidableEq, Repr

def McxFrame.reset : McxFrame :=
  { scrub := false, rekey := false, repair := false, contained := false, waitKeys := false,
    kg := false, tamper := 0, ue := 0, ilost := 0, overrun := 0, nodeMiss := 0,
    errInfo := 0, errLine := 0, sweepPos := 0, erased := false, overwriting := false,
    quarantine := [], tampered := [] }

structure Clearing where
  st         : ClrSt
  roleGen    : BitVec 12
  /-- out of service under R356 -/
  oos        : Bool
  engResets  : List Nat
  clrResets  : List Nat
  lastEngine : BitVec 16
  num        : Num
  memHit     : Word
  memMiss    : Word
  memFar     : Word
  memNarrow  : Word
  measure    : B256
  /-- the old owner and the granules of the old carve-out that a scrub works on -/
  scrubOwner : BitVec 6
  scrubGs    : List Nat
  /-- the tiles that a scrub zeroes: those of the old plan (R207) -/
  scrubTiles : List Nat := []
  /-- its fencing runs (R354) -/
  fencing    : Bool
deriving DecidableEq, Repr

def Clearing.reset : Clearing :=
  { st := .absent, roleGen := 0, oos := false, engResets := [], clrResets := [],
    lastEngine := 0xFFFF, num := Num.reset, memHit := 0, memMiss := 0, memFar := 0, memNarrow := 0,
    measure := 0, scrubOwner := 0, scrubGs := [], fencing := false }

/-! ## Tiles (chapters 06, 07) -/

/-- An instruction of a sweep program (R125–R127), its fields decoded. -/
inductive SwInstr where
  | sweep (fmtA fmtB : Nat) (blkA blkB transA transB accInit epi : Bool)
      (aOff bOff aScale bScale slot k : Nat)
      (act epiFmt : Nat) (epiBlk epiAxis : Bool) (scaleKind biasKind : Nat) (round : RoundCode)
      (dst param : Nat)
  | load (fmtMem : Nat) (blkMem : Bool) (fmtSram : Nat) (blkSram acc kaxis : Bool) (round : RoundCode)
      (bcast member sram mover : Nat) (handle : Word) (objOff rows cols pitch scaleDelta : Nat)
  | store (fmtMem : Nat) (blkMem : Bool) (fmtSram : Nat) (blkSram acc kaxis : Bool) (round : RoundCode)
      (member sram mover : Nat) (handle : Word) (objOff rows cols pitch scaleDelta : Nat)
  | accAdd (d s : Nat)
deriving DecidableEq, Repr

/-- A sweep or ACC_ADD in flight on a gang: its index in the program and, per member tile,
the start words of its slot (the replay buffer) and the anchored words it will add into. -/
structure Flight where
  idx    : Nat
  isAdd  : Bool
  slot   : Nat
  start  : List (Nat × List AW)
  work   : List (Nat × List AW)
  replays : Nat
deriving DecidableEq, Repr

/-- A LOAD or STORE whose transfer runs: its index, and the outcome that ends it. -/
structure MoveRun where
  idx    : Nat
  status : Status
  detail : Detail
  info   : BitVec 64
deriving DecidableEq, Repr

/-- The program a sequencer runs (R123). -/
structure Prog where
  queue    : Que
  seq      : Word
  clearing : Nat
  members  : List Nat
  rows     : Nat
  cols     : Nat
  instrs   : List SwInstr
  srStream : BitVec 16
  stepKey  : BitVec 128
  issued   : List Nat
  done     : List Nat
  flights  : List Flight
  epilogues : List Nat
  movers   : List MoveRun
  stopped  : Bool
  status   : Status
  detail   : Detail
  info     : BitVec 64
deriving DecidableEq, Repr

/-- A set-engine operation (R154): its queueing context and its descriptor's offset. -/
structure SetOp where
  ctx   : Nat
  rd    : Nat
  desc  : Nat
  gen   : BitVec 12
deriving DecidableEq, Repr

structure VuBlock where
  ctx    : Nat
  rd     : Nat
  block  : Nat
  stream : BitVec 16
  token  : DWord
  gen    : BitVec 12
deriving DecidableEq, Repr

/-- The exponent bound that a write recorded for a block of up to 32 elements, by the format and row pitch of the
panel written (R96, R122). -/
structure BlockBound where
  fmt   : Fmt
  pitch : Nat
  n     : Nat
  bound : Option Int
deriving DecidableEq, Repr

structure TileSt where
  /-- the operand store: bytes 0 to 8 MiB − 1 (R120) -/
  op       : Tab Byte
  /-- the recorded bounds: by twice the bit address of a block's first element, plus 1 for a block along a column.
  Log entry 115 (DEDUCED) -/
  bounds   : List (Nat × BlockBound)
  /-- the accumulator store: word 1,024·slot + 32·i + j (R120) -/
  acc      : Tab AW
  prog     : Option Prog
  setq     : List SetOp
  /-- the result of the operation that the set engine runs: count, status, position -/
  setRun   : Option DWord
  vecq     : List VuBlock
  /-- the block that the vector unit runs: the stores and the flags it ends with -/
  vecRun   : Option (List (Nat × Byte) × BitVec 5)
  /-- role generation of the tile group (R261) -/
  gen      : BitVec 12
deriving DecidableEq, Repr

/-- Log entry 15 (DESIGN CHOICE). -/
def TileSt.reset : TileSt :=
  { op := [], bounds := [], acc := [], prog := none, setq := [], setRun := none, vecq := [], vecRun := none,
    gen := 0 }

/-! ## Thread contexts (chapter 07) -/

/-- What a context waits for by destination register (the scoreboard of R138, R140). -/
inductive Dest where
  | x (r : Nat) | v (r : Nat) | none
deriving DecidableEq, Repr

structure Ctx where
  launch   : Option Nat
  slotIdx  : Nat
  x        : Tab DWord
  v        : Tab B256
  pc       : DWord
  outstanding : List Dest
  atBarrier : Bool
  exited   : Bool
  vflags   : BitVec 5
deriving DecidableEq, Repr

/-- Log entry 15 (DESIGN CHOICE). -/
def Ctx.reset : Ctx :=
  { launch := none, slotIdx := 0, x := [], v := [], pc := 0, outstanding := [], atBarrier := false,
    exited := false, vflags := 0 }

inductive LaunchPh where | running | stopping
deriving DecidableEq, Repr

structure LaunchSt where
  id       : Nat
  queue    : Que
  seq      : Word
  clearing : Nat
  tiles    : BitVec 96
  perCore  : Nat
  handles  : List Word
  arg      : List Byte
  tsFirst  : Nat
  tsCount  : Nat
  srStream : BitVec 16
  stepKey  : BitVec 128
  entry    : DWord
  ph       : LaunchPh
  status   : Status
  detail   : Detail
  info     : BitVec 64
  rank     : BitVec 21
deriving DecidableEq, Repr

/-! ## Memory (chapters 08, 09) -/

/-- The kinds of access of R176 that wait at a home slice. -/
inductive AccKind where
  | ld (w : Nat) | st (bytes : List Byte) | ldn | stn (bytes : List Byte) | stnM (lanes : BitVec 8) (bytes : List Byte)
  | atomic (op : AtomicOp) (wide : Bool) (a b : DWord) | fadd (a : Word)
  | xinit (anchor : BitVec 10) | xadd (fmt : FpFmt) (a : DWord)
deriving DecidableEq, Repr

/-- A memory request of a thread context, from issue to response (R146, R176, R358). -/
structure MemReq where
  id       : Nat
  ctx      : Nat
  tile     : Nat
  gen      : BitVec 12
  clearing : Nat
  /-- the clearing whose thread made the request -/
  asker    : Nat
  handle   : Word
  region   : Nat
  ra       : Nat
  kind     : AccKind
  dest     : Dest
  served   : Bool
  status   : Status
  detail   : Detail
  result   : List Byte
deriving DecidableEq, Repr

/-- The tag fields of a unit (R191): poison cause (0 for none), KG, LOCAL, WCNT, and the epoch in
which it was last written, whose parity is EPB. The MAC that stands beside them is `Dev.tagWord`'s.
Log entry 119 (DESIGN CHOICE). -/
structure UnitMeta where
  cause  : Byte
  kg     : Bool
  loc    : BitVec 6
  wcnt   : BitVec 3
  epoch  : BitVec 50
  /-- the counters are the unit's own; where false they are those of its region's `base` -/
  own    : Bool := false
  /-- no rekey sweep rewrote the unit before its key was destroyed: it fails its MAC (R197, R200) -/
  dead   : Bool := false
deriving DecidableEq, Repr

def UnitMeta.reset : UnitMeta := { cause := 0, kg := false, loc := 0, wcnt := 0, epoch := 0 }

/-- A shared-cache line: its sectors' valid and dirty bits (R173), the clearing and region it
belongs to, its region address, and the bytes of its dirty sectors; a clean sector holds what
memory holds. -/
structure CacheLine where
  valid    : BitVec 4
  dirty    : BitVec 4
  frame    : Nat
  region   : Nat
  ra       : Nat
  bytes    : Tab (Option Byte)
  /-- which of its clearing's ways holds the line, from 0 (R174) -/
  way      : Nat := 0
deriving DecidableEq, Repr

def CacheLine.reset : CacheLine := 
  { valid := 0, dirty := 0, frame := 0, region := 0, ra := 0, bytes := [] }

/-- The counters of a tree node (R193): MAJOR, MINOR by child slot, and KG. -/
structure NodeSt where
  major  : BitVec 50
  minors : Tab (BitVec 6)
  kg     : Bool
deriving DecidableEq, Repr

def NodeSt.reset : NodeSt := { major := 0, minors := [], kg := false }

structure RegionSt where
  epoch   : BitVec 50
  /-- the counters of the units that have none of their own: those of a region just formed, or where carry passes
  (R326) and rekey sweeps (R200) took them -/
  base    : UnitMeta
  salt    : BitVec 64
  /-- a renewal has been asked for, at the mark of this count (R198) -/
  renew   : Bool
  renewAt : BitVec 64
  /-- the nodes of the counter tree, by 8·index + level, and the root (R192–R194) -/
  nodes   : Tab NodeSt
  root    : NodeSt
  formed  : Bool
deriving DecidableEq, Repr

def RegionSt.reset : RegionSt :=
  { epoch := 0, base := UnitMeta.reset, salt := 0, renew := false, renewAt := 0, nodes := [], root := NodeSt.reset,
    formed := false }

/-- An entry of a compute die's metadata cache (R196): a tag line (level 0) or a tree node of a level, by its index. -/
structure MetaLine where
  die    : Nat
  frame  : Nat
  region : Nat
  level  : Nat
  idx    : Nat
  dirty  : Bool
deriving DecidableEq, Repr

/-- Per-stack state (R180–R183). -/
structure StackSt where
  therm    : BitVec 2
  train    : BitVec 2
  tempNow  : Byte
  tempMax  : Byte
  below    : Nat
  ce       : Word
  ue       : Word
  derate   : Word
  ueAddr   : Word
  spared   : Byte
  unspared : Byte
  worstPc  : BitVec 6
  degraded : Nat
  /-- corrected symbols since training, by pseudo-channel (R182) -/
  symbols  : Tab Nat
  /-- the training state by pseudo-channel, 0 OK to 3 FAILED, and one more than the symbol of a DEGRADED one's
  unreplaced lane (R182) -/
  pcs      : Tab (BitVec 2) := []
  badLane  : Tab Nat := []
deriving DecidableEq, Repr

def StackSt.reset : StackSt :=
  { therm := 0, train := 0, tempNow := 0, tempMax := 0, below := 0, ce := 0, ue := 0, derate := 0,
    ueAddr := 0, spared := 0, unspared := 0, worstPc := 0, degraded := 0, symbols := [] }

/-- A Commons repair (R359): the physical line, and the accesses that wait for it by queue, sequence number
and the INFO that they would complete with. Log entry 40 (DEDUCED). -/
structure Repair where
  line    : Nat
  holders : List (Nat × Word × BitVec 64)
deriving DecidableEq, Repr

structure Mem where
  /-- what the data lines decipher to, by physical byte g·2^30 + GO (R171); an unlisted byte has
  never been written and reads as a free value (R208). What the stacks store is `Dev.storedUnit`.
  Log entry 119 (DESIGN CHOICE) -/
  hbm      : Tab (Option Byte)
  meta_    : Tab UnitMeta
  /-- the base dies' lists of uncorrectable lines, by physical line (R181) -/
  ueList   : List Nat
  cache    : Tab CacheLine
  regions  : Tab RegionSt
  stk      : Tab StackSt
  reqs     : List MemReq
  nextReq  : Nat
  ceThresh : BitVec 16
  epochSel : Word
  frames   : Tab McxFrame
  lockdown : Bool
  repairs  : List Repair
  /-- ways per slice by 64·clearing + die (R174) -/
  ways     : Tab Nat
  /-- where the stored bytes of a sealed line differ from what the engine wrote, by physical line: an alteration that
  the base die's code did not correct (R180) -/
  flaws    : Tab (BitVec 512) := []
  /-- the metadata caches (R196) -/
  mcache   : List MetaLine := []
deriving DecidableEq, Repr

def Mem.reset : Mem :=
  { hbm := [], meta_ := [], ueList := [], cache := [], regions := [], stk := [], reqs := [],
    nextReq := 0, ceThresh := 0x0100, epochSel := 0, frames := [], lockdown := false, repairs := [],
    ways := [] }

/-! ## Keys (chapter 10) -/

/-- A second key beside KEY (R218), with the fields it came with. Log entry 63 (DEDUCED). -/
structure Shadow where
  key  : B256
  kcv  : BitVec 24
  attr : BitVec 2
  owner : BitVec 6
  mask : BitVec 16
  source : BitVec 2
  bundleOk : Bool
deriving DecidableEq, Repr

/-- A slot record (R212). -/
structure Slot where
  loaded   : Bool
  key      : B256
  attr     : BitVec 2
  owner    : BitVec 6
  mask     : BitVec 16
  gen      : BitVec 12
  source   : BitVec 2
  kcv      : BitVec 24
  bundleOk : Bool
  shadow   : Option Shadow
  swapPos  : Option (BitVec 64)
  /-- held for the armed plan (R216) -/
  held     : Bool
  /-- the swap has acted and the shadow holds the outgoing key (R218) -/
  outgoing : Bool
deriving DecidableEq, Repr

def Slot.reset : Slot :=
  { loaded := false, key := 0, attr := 0, owner := 0, mask := 0, gen := 0, source := 0, kcv := 0,
    bundleOk := false, shadow := none, swapPos := none, held := false, outgoing := false }

/-- A mailbox request being served: its code, its result and its response body (R242). -/
structure SecJob where
  code : BitVec 16
  res  : SecRes
  body : SecBody
deriving DecidableEq, Repr

structure SetMember where
  setId   : Word
  epoch   : BitVec 16
  addr    : BitVec 20
  root    : B256
  policy  : SetPolicy
  /-- the origin whose order the current epoch's key came under (R227) -/
  origin  : Option (BitVec 20)
deriving DecidableEq, Repr

structure FwImg where
  target : Bool
  svn    : Byte
  hash   : B256
deriving DecidableEq, Repr

/-- The firmware (R240, R241): a staged image, whether it is to run, and the images activated since
manufacture; none where the running one is the one the part came with. -/
structure FwState where
  staged    : Option FwImg
  activated : Bool
  ctrl      : Option B256
  ngs       : Option B256
  svn       : Option Byte
  /-- FW_COMMIT burn records: target SVN and whether DONE is burnt (R366) -/
  commits   : List (Byte × Bool)
deriving DecidableEq, Repr

structure Sec where
  slots    : Tab Slot
  job      : Option SecJob
  rsp      : Option SecJob
  rspValid : Bool
  result   : Byte
  code     : BitVec 16
  trngFail : Bool
  member   : Option SetMember
  /-- the address adopted from a BENCH plan (R228) -/
  benchAddr : BitVec 20
  /-- the role address of a takeover (R337) -/
  takeover : Option (BitVec 20)
  slotSel  : Byte
  req      : Tab Word
  /-- TAG of the request that was accepted last (R242) -/
  tag      : Word
  /-- quote nonces signed, newest first, with their time in µs (R232) -/
  nonces   : List (B256 × Nat)
  fw       : FwState
  debugOpened : Bool
  /-- the keys of the die-to-die bridges and of UCIe, drawn at each cold reset: 6 between compute dies, 4 to the
  control die, 4 to the I/O dies (R16) -/
  dieKeys  : List (BitVec 128)
deriving DecidableEq, Repr

def FwState.reset : FwState :=
  { staged := none, activated := false, ctrl := none, ngs := none, svn := none, commits := [] }

def Sec.reset : Sec :=
  { slots := [], job := none, rsp := none, rspValid := false, result := 0, code := 0,
    trngFail := false, member := none, benchAddr := 0, takeover := none, slotSel := 0, req := [], tag := 0,
    nonces := [], fw := FwState.reset, debugOpened := false, dieKeys := [] }

/-- The SPDM responder (R238): what has been negotiated, and the session. Log entry 60 (DESIGN CHOICE). -/
structure Spdm where
  version  : Bool
  caps     : Bool
  algs     : Bool
  /-- none, handshaking (false) or established (true) -/
  session  : Option Bool
  keyGen   : Nat
  /-- the transcripts: the negotiation, the certificate requests, the measurements, and the key exchange -/
  logA     : List Byte
  logB     : List Byte
  logL     : List Byte
  logK     : List Byte
  /-- the secret that the session's keys come from -/
  secret   : B256
  /-- requests that wait for the core, in order of arrival (R239) -/
  waiting  : List SpdmReq
deriving DecidableEq, Repr

def Spdm.reset : Spdm :=
  { version := false, caps := false, algs := false, session := none, keyGen := 0, logA := [], logB := [],
    logL := [], logK := [], secret := 0, waiting := [] }

/-! ## Links (chapter 11) -/

inductive LnkSt where | down | optical | keyx | hello | up
deriving DecidableEq, Repr

inductive Admit where | none | member | bench | foreign
deriving DecidableEq, Repr

structure Link where
  st        : LnkSt
  adm     : Admit
  spare     : BitVec 4
  failed    : BitVec 9
  laserOk   : Bool
  light     : Bool
  roleGen   : BitVec 12
  farAddr   : BitVec 20
  farLink   : BitVec 6
  farIdent  : B256
  txSeq     : BitVec 48
  rxSeq     : BitVec 48
  retx      : Word
  tagFail   : Word
  downs     : Word
  fec       : Word
  rekeys    : Word
  /-- consecutive tag failures, and the SEQ from which the far end must resend (R249) -/
  tagRun    : Nat
  awaiting  : Bool
  /-- sent and not yet acknowledged, oldest first (R249) -/
  replay    : List SentFlit
  resend    : List SentFlit
  tideQ     : List TideRec
  txq       : List TxFlit
  /-- credits spent per virtual channel (R255) -/
  spent     : Tab Nat
  /-- the slot of the running frame, and shares displaced by TIDE flits (R251, R253) -/
  slot      : BitVec 6
  displaced : List Nat
  /-- the plan entry and fractions that the running frame follows (R251) -/
  frame     : Option (PlanLink × List Byte)
  /-- credits to return by virtual channel, and collector slots to release (R255, R266) -/
  owed      : Tab Nat
  released  : List (BitVec 12)
  rekeying  : Bool
  keyEpoch  : Nat
  /-- the session keys by key epoch, this end's sending key and its receiving key, and the SM3 hash of the key
  exchange's transcript (R247, R250, R257) -/
  keys      : List (BitVec 128 × BitVec 128)
  transcript : B256
  /-- flits received since ACK_SEQ was last sent (R263) -/
  ackDue    : Bool
  retrainDue : Bool
  /-- tide child tracking (R31, R352) -/
  child     : Bool
  retSeen   : Bool
  retFailed : Bool
  badMarks  : Nat
deriving DecidableEq, Repr

def Link.reset : Link :=
  { st := .down, adm := .none, spare := 0xF, failed := 0, laserOk := false, light := false,
    roleGen := 0, farAddr := 0, farLink := 0, farIdent := 0, txSeq := 0, rxSeq := 0, retx := 0,
    tagFail := 0, downs := 0, fec := 0, rekeys := 0, tagRun := 0, awaiting := false, replay := [],
    resend := [], tideQ := [], txq := [], spent := [], slot := 0, displaced := [], frame := none,
    owed := [], released := [],
    rekeying := false, keyEpoch := 0, keys := [], transcript := 0, ackDue := false, retrainDue := false, child := false,
    retSeen := false, retFailed := false, badMarks := 0 }

/-- A collector slot (R266): the chunk it takes, how many elements are in, and the elements. -/
structure CollSlot where
  chunk : Nat
  got   : Nat
  elems : Tab AW
deriving DecidableEq, Repr

def CollSlot.reset : CollSlot := { chunk := 0, got := 0, elems := [] }

/-- A chunk that waits to be sent: where, its number, and its elements. -/
structure TxChunk where
  out   : StageOut
  idx   : Nat
  words : List AW
deriving DecidableEq, Repr

/-- How a stage carries its elements (R267): words, S32, B16, or object bytes. -/
inductive Carry where | exact | s32 | b16 | copy
deriving DecidableEq, Repr

/-- A collective stage or confluence in progress (R265–R270). -/
structure Xfer where
  queue    : Que
  seq      : Word
  clearing : Nat
  stream   : BitVec 16
  confl    : Bool
  carry    : Carry
  count    : Nat
  ins      : List StageIn
  /-- the chunk that the combining set takes now, and its sum once combined -/
  chunk    : Nat
  sum      : Option (List AW)
  waiting  : List TxChunk
  /-- forwarded results so far -/
  partial_ : List AW
  /-- a NaN stopped the source's conversion under TRAP_STOP: only the blocks below it go (R87) -/
  trapped  : Bool := false
deriving DecidableEq, Repr

structure LnkBlk where
  links     : Tab Link
  stale     : Word
  flowDeny  : Word
  nbrSel    : BitVec 6
  /-- last generation received, by link, unit kind and unit (R261) -/
  nbrGens   : Tab (BitVec 12)
  colls     : Tab CollSlot
  xfers     : List Xfer
  /-- far collector slots that hold a chunk of ours not yet released, by link group (R266) -/
  farBusy   : List (Byte × BitVec 12)
  /-- combined partials kept for a later stage, by ACT_ID (R269) -/
  partials  : Tab (List AW)
  nextStream : BitVec 16
  /-- the discovered hash when it was last computed (R70) -/
  lastTopo  : B256
deriving DecidableEq, Repr

/-- Log entry 15 (DESIGN CHOICE). -/
def LnkBlk.reset : LnkBlk :=
  { links := [], stale := 0, flowDeny := 0, nbrSel := 0, nbrGens := [], colls := [], xfers := [],
    farBusy := [], partials := [], nextStream := 0, lastTopo := 0 }

/-! ## Queues, objects, fences (chapter 12) -/

/-- The life of a fetched command (R282, R283): fetched; decoded but for the part of its decode
that its opcode's own row does; decoded; started; running. A completed command leaves the list.
Log entry 33 (DEDUCED). -/
inductive CmdPh where | fetched | decoding | decoded | started | running
deriving DecidableEq, Repr

structure Cmd where
  seq   : Word
  raw   : BitVec 512
  ph    : CmdPh
  /-- handles the command references until it completes (R289) -/
  refs  : List Word
  /-- its completion source (R285, R297) -/
  src   : Nat
  /-- the mark at which it was decoded, and its latched step key (R307) -/
  decodedAt : BitVec 64
  stepKey : BitVec 128
  /-- a SWEEP_PROGRAM's decoded program, a LAUNCH's parameter block -/
  prog  : List SwInstr
  params : Option LaunchParams
deriving DecidableEq, Repr

inductive QSt where | disabled | running | stopped | draining
deriving DecidableEq, Repr

structure Queue where
  ringLo   : Word
  ringHi   : Word
  cqLo     : Word
  cqHi     : Word
  log2     : BitVec 5
  prio     : BitVec 2
  port     : Bool
  vector   : BitVec 11
  irqAll   : Bool
  /-- the ENABLE field of QCFG_CTRL -/
  enable   : Bool
  st       : QSt
  clearing : BitVec 4
  unbound  : Bool
  ringErr  : Bool
  tail     : BitVec 16
  head     : BitVec 16
  cqTail   : BitVec 16
  cqHead   : BitVec 16
  phase    : Bool
  seq      : Word
  outstanding : Nat
  cmds     : List Cmd
  /-- a command since the previous FENCE_SIGNAL completed with a status other than OK (R292) -/
  spanBad  : Bool
deriving DecidableEq, Repr

def Queue.reset : Queue :=
  { ringLo := 0, ringHi := 0, cqLo := 0, cqHi := 0, log2 := 6, prio := 0, port := false,
    vector := 0x010, irqAll := false, enable := false, st := .disabled, clearing := 0, unbound := false,
    ringErr := false, tail := 0, head := 0, cqTail := 0, cqHead := 0, phase := true, seq := 0,
    outstanding := 0, cmds := [], spanBad := false }

inductive ObjSt where | free | live | retiring
deriving DecidableEq, Repr

structure Obj where
  st       : ObjSt
  gen      : BitVec 12
  clearing : BitVec 4
  region   : BitVec 11
  owner    : BitVec 6
  mode     : BitVec 2
  sector   : Bool
  base     : Nat
  size     : Nat
  ctx      : BitVec 16
  refs     : Nat
  /-- the retire commands that wait for it: queue and sequence number -/
  retire   : List (Que × Word)
deriving DecidableEq, Repr

def Obj.reset : Obj :=
  { st := .free, gen := 0, clearing := 0, region := 0, owner := 0, mode := 0, sector := false,
    base := 0, size := 0, ctx := 0, refs := 0, retire := [] }

structure Fence where
  alloc  : Bool
  sig    : Bool
  status : BitVec 2
  gen    : BitVec 12
  owner  : BitVec 16
  grant0 : BitVec 16
  grant1 : BitVec 16
  grant2 : BitVec 16
  grant3 : BitVec 16
deriving DecidableEq, Repr

def Fence.reset : Fence :=
  { alloc := false, sig := false, status := 0, gen := 0, owner := 0, grant0 := 0, grant1 := 0,
    grant2 := 0, grant3 := 0 }

structure HostBlk where
  queues  : Tab Queue
  objs    : Tab Obj
  fences  : Tab Fence
  /-- the completion sources' FIFOs, source 0–104 (R297) -/
  fifos   : Tab (List Completion)
  nextOrd : Nat
  lastSrc : Nat
  /-- by priority class, one above the queue whose command was decoded last (R282) -/
  rr      : Tab Nat
  ctxBusy : Bool
  ctxNum  : BitVec 16
  deadCtx : List (BitVec 16)
  reqWhere : Word
  reqSizeLo : Word
  reqSizeHi : Word
  objBusy : Bool
  objRes  : BitVec 3
  objHandle : Word
  objBase : BitVec 64
  objSel  : BitVec 20
  /-- the outcome a running create will report: result, handle, base -/
  objNext : BitVec 3 × Word × BitVec 64
deriving DecidableEq, Repr

/-- Log entry 15 (DESIGN CHOICE). -/
def HostBlk.reset : HostBlk :=
  { queues := [], objs := [], fences := [], fifos := [], nextOrd := 0, lastSrc := 104,
    rr := [], ctxBusy := false,
    ctxNum := 0, deadCtx := [], reqWhere := 0, reqSizeLo := 0, reqSizeHi := 0, objBusy := false,
    objRes := 0, objHandle := 0, objBase := 0, objSel := 0, objNext := (0, 0, 0) }

/-! ## Strandline (chapter 14) -/

/-- STL_STATUS.STATE. -/
inductive StlSt where | idle | stageA | stageB | rollback | fill | replay | takeover
deriving DecidableEq, Repr

/-- A peer area's copy (R325, R330). Log entry 75 (DEDUCED). -/
structure PeerCopy where
  index    : Word
  complete : Bool
  bytes    : Tab Byte
deriving DecidableEq, Repr

def PeerCopy.reset : PeerCopy := { index := 0xFFFFFFFF, complete := false, bytes := [] }

/-- A manifest as it stood at a mark (R327): its clearing or 0xFF, its header, its plain body. -/
structure Manifest where
  clearing : Byte
  header   : List Byte
  body     : List Byte
deriving DecidableEq, Repr

structure Stl where
  st        : StlSt
  deep      : Bool
  fullNext  : Bool
  index     : Word
  committed : Word
  costMs    : Int
  mtbfS     : Int
  tauRec    : Word
  interval  : Word
  intervalNew : Option Word
  /-- I0 of R333 -/
  i0        : Nat
  intPosLo  : Word
  intPosHi  : Word
  takeAddr  : Word
  rbIndex   : Word
  resPosLo  : Word
  resPosHi  : Word
  result    : BitVec 4
  op        : BitVec 3
  resClr    : Byte
  verify    : BitVec 2
  deepNeed  : BitVec 64
  hostSrcLo : Word
  hostSrcHi : Word
  hostLenLo : Word
  hostLenHi : Word
  fillDone  : BitVec 64
  /-- newest index each buddy acknowledged COMPLETE -/
  buddyIdx0 : Word
  buddyIdx1 : Word
  peers     : Tab PeerCopy
  /-- dirty chunks per buddy, and the running save set: 2^40·clearing + chunk -/
  dirty0    : List Nat
  dirty1    : List Nat
  /-- chunks of each buddy's save set still to be read, and chunk entries (R325) still to be sent -/
  pend0     : List Nat
  pend1     : List Nat
  ent0      : List (Nat × List Byte)
  ent1      : List (Nat × List Byte)
  /-- chunks of the SHADOW ranges still to be sent to the standby, their entries, and the deadline at which
  the sends stop (R329) -/
  pendS     : List Nat
  entS      : List (Nat × List Byte)
  shadowEnd : Option Nat
  /-- the manifests of the running save, whether this stage has sent them, and those of a deep strandline
  whose activity has started -/
  manifests : List Manifest
  manifestsSent : Bool
  deepMan   : List Manifest
  /-- loss log, newest first: instance and the 16-byte word (R331) -/
  lossLog   : List (Word × AW)
  salt      : BitVec 64
  restored  : Bool
  lastInst  : Word
  stageDeadline : Option Nat
  stopAt    : Bool
deriving DecidableEq, Repr

def Stl.reset : Stl :=
  { st := .idle, deep := false, fullNext := false, index := 0xFFFFFFFF,
    committed := 0xFFFFFFFF, costMs := 0, mtbfS := 86400, tauRec := 0, interval := 0,
    intervalNew := none, i0 := 0, intPosLo := 0, intPosHi := 0, takeAddr := 0, rbIndex := 0xFFFFFFFF,
    resPosLo := 0, resPosHi := 0, result := 0, op := 0, resClr := 0, verify := 0, deepNeed := 0,
    hostSrcLo := 0, hostSrcHi := 0, hostLenLo := 0, hostLenHi := 0, fillDone := 0,
    buddyIdx0 := 0xFFFFFFFF, buddyIdx1 := 0xFFFFFFFF, peers := [], dirty0 := [], dirty1 := [],
    pend0 := [], pend1 := [], ent0 := [], ent1 := [],
    pendS := [], entS := [], shadowEnd := none, manifests := [], manifestsSent := false, deepMan := [], lossLog := [], salt := 0, restored := false,
    lastInst := 0, stageDeadline := none, stopAt := false }

/-! ## Faults (chapter 15) -/

structure LogEntry where
  time     : Nat
  type     : Byte
  clearing : Byte
  engine   : BitVec 16
  status   : Byte
  roleGen  : BitVec 12
  tide     : BitVec 64
  info     : BitVec 64
deriving DecidableEq, Repr

def LogEntry.reset : LogEntry :=
  { time := 0, type := 0, clearing := 0, engine := 0, status := 0, roleGen := 0, tide := 0, info := 0 }

structure Flt where
  oos       : Bool
  /-- failed by a cliff, a CRITICAL die, an overcurrent or a stage 2 fault (R352, R384, R388) -/
  cliff     : Bool
  nbrFailed : Word
  staleReply : Word
  log       : Tab LogEntry
  logHead   : BitVec 10
  wrapped   : Bool
  logSel    : BitVec 10
  dump      : List Byte
  dumpCause : BitVec 7
  dumpValid : Bool
  ready     : Bool
  /-- the requested resets that run: an engine index, or 2^16 + a clearing (RST_STATUS.BUSY) -/
  rstFor    : List Nat
  rstResult : BitVec 2
  cause     : BitVec 7
  /-- times in µs of the cold resets and of the fencings since power was applied (R356) -/
  colds     : List Nat
  fencings  : List Nat
  /-- engine resets in progress -/
  engBusy   : List (BitVec 16)
  /-- request generation of the copy and collective channels (R358), by engine index -/
  chanGen   : Tab Nat
deriving DecidableEq, Repr

/-- Log entry 16 (DESIGN CHOICE). -/
def Flt.reset : Flt :=
  { oos := false, cliff := false, nbrFailed := 0, staleReply := 0, log := [], logHead := 0,
    wrapped := false, logSel := 0, dump := [], dumpCause := 0, dumpValid := false, ready := false,
    rstFor := [], rstResult := 0, cause := 1, colds := [], fencings := [], engBusy := [],
    chanGen := [] }

/-! ## Life cycle and debug (chapter 16) -/

/-- A transition record Tk (R364). -/
structure BurnRec where
  target : Word
  done   : Word
deriving DecidableEq, Repr

def BurnRec.reset : BurnRec := { target := 0, done := 0 }

structure Lcs where
  /-- the state shown, and the antifuse words -/
  st        : Lc
  code0     : Word
  code1     : Word
  code2     : Word
  recs      : Tab BurnRec
  rootZeroed : Bool
  /-- the 24 words of the root secret's array, 8 per copy (R210, R364); none listed: as the part came -/
  root      : List Word
  returnPending : Bool
  burning   : Bool
  /-- an accepted advance that waits for an FW_COMMIT burn (R376) -/
  waiting   : Option Lc
  invalidSeen : Bool
  resumed   : Bool
  result    : BitVec 4
  /-- LCS_PROGRESS: done, total, target, record -/
  progDone  : BitVec 5
  progTotal : BitVec 5
  progTarget : BitVec 3
  progRec   : BitVec 3
deriving DecidableEq, Repr

/-- The device as Ifehar ships it (R1, R362): Integrator, T0 burnt from Maker.
Log entry 16 (DESIGN CHOICE). -/
def Lcs.reset : Lcs :=
  { st := .integrator, code0 := 0x0000FFFF, code1 := 0x0000FFFF, code2 := 0x0000FFFF,
    recs := [(0, { target := 0x0000FFFF, done := 0xFFFFFFFF })], rootZeroed := false, root := [],
    returnPending := false, burning := false, waiting := none, invalidSeen := false, resumed := false, result := 0,
    progDone := 5, progTotal := 5, progTarget := 1, progRec := 0 }

structure Challenge where
  scope  : Byte
  nonce  : B256
  issued : Nat
  /-- the 192 bytes of DBG_CHAL -/
  bytes  : List Byte
deriving DecidableEq, Repr

structure Dbg where
  opened  : Bool
  /-- accepted and waiting for the abort interval to end (R375) -/
  opening : Option Byte
  chal    : Option Challenge
  scope   : Byte
  result  : BitVec 4
  bootId  : BitVec 64
  resp    : Tab Word
  /-- the TAP instruction register, the boundary-scan register and the CTRL halt -/
  tapIr   : Byte
  bsr     : List Bool
  cpHalted : Bool
  traceFired : Nat
deriving DecidableEq, Repr

/-- Log entry 15 (DESIGN CHOICE). -/
def Dbg.reset : Dbg :=
  { opened := false, opening := none, chal := none, scope := 0, result := 0, bootId := 0, resp := [],
    tapIr := 0xFF, bsr := [], cpHalted := false, traceFired := 0 }

/-! ## Power and thermal (chapter 17), pins (chapter 18) -/

/-- Log entry 82 (DEDUCED). -/
structure Pwr where
  cur      : BitVec 2
  target   : BitVec 2
  pending  : Bool
  ramping  : Bool
  /-- the mode of the ramping change -/
  rampTo   : BitVec 2
  posLo    : Word
  posHi    : Word
  mainOk   : Bool
  auxOk    : Bool
  stage1   : Bool
  ocp      : Bool
  stage2   : Bool
  inNow    : BitVec 16
  inMax    : BitVec 16
  mainMv   : BitVec 16
  auxMv    : BitVec 16
  limit    : BitVec 16
  ramp     : Byte
  stepNs   : BitVec 7
  shapeNew : Option (Byte × BitVec 7)
  parts    : List (BitVec 16)
  energy   : BitVec 64
  extCount : BitVec 4
  extFault : Byte
  avs      : Bool
  /-- PWR_MODE_DEFAULT of the boot configuration block, when valid (R379) -/
  bootMode : Option (BitVec 2)
deriving DecidableEq, Repr

/-- Log entry 16 (DESIGN CHOICE). -/
def Pwr.reset : Pwr :=
  { cur := 2, target := 0, pending := false, ramping := false, rampTo := 0, posLo := 0, posHi := 0,
    mainOk := false, auxOk := false, stage1 := false, ocp := false, stage2 := false, inNow := 0,
    inMax := 0, mainMv := 0, auxMv := 0, limit := 0x0C80, ramp := 0x28, stepNs := 0,
    shapeNew := none, parts := [], energy := 0, extCount := 0, extFault := 0, avs := false,
    bootMode := none }

/-- A die's thermal state (R388). -/
structure DieSt where
  st    : BitVec 2
  now   : Byte
  max   : Byte
  below : Nat
deriving DecidableEq, Repr

def DieSt.reset : DieSt := { st := 0, now := 0, max := 0, below := 0 }

structure Thm where
  /-- dies: 0–3 CD, 4–7 IO, 8 the control die -/
  dies   : Tab DieSt
  warnCd : Byte
  warnIo : Byte
  warnCt : Byte
deriving DecidableEq, Repr

def Thm.reset : Thm := { dies := [], warnCd := 0x64, warnIo := 0x50, warnCt := 0x5F }

structure Pins where
  powered   : Bool
  inReset   : Bool
  /-- PWR_OK is high -/
  pwrOk     : Bool
  strapBoot : Bool
  strapTide : Bool
  alertN    : Bool
  thermTrip : Bool
  i3cOff    : BitVec 24
  i3cAddr   : Option (BitVec 7)
  /-- the ordering code: false SC, true SE -/
  orderingSe : Bool
deriving DecidableEq, Repr

/-- Log entries 15 (DESIGN CHOICE), 16 (DESIGN CHOICE). -/
def Pins.reset : Pins :=
  { powered := true, inReset := false, pwrOk := true, strapBoot := false, strapTide := false, alertN := false,
    thermTrip := false, i3cOff := 0, i3cAddr := none, orderingSe := false }

/-! ## The device and the state -/

structure Dev where
  /-- the model's counter of free values drawn -/
  free     : Nat
  /-- control-die time since power was applied, in µs (R360) -/
  timeUs   : Nat
  bus      : Bus
  ev       : Events
  tide     : Tide
  plan     : PlanRegs
  sched    : Sched
  clrs     : Tab Clearing
  tiles    : Tab TileSt
  ctxs     : Tab Ctx
  launches : List LaunchSt
  nextLaunch : Nat
  mem      : Mem
  sec      : Sec
  spdm     : Spdm
  lnk      : LnkBlk
  host     : HostBlk
  stl      : Stl
  flt      : Flt
  lcs      : Lcs
  dbg      : Dbg
  pwr      : Pwr
  thm      : Thm
  pins     : Pins
  /-- what the device has driven on its links, pins and buses, oldest first -/
  outbox   : List Output
deriving DecidableEq, Repr

/-- The device right after reset: power applied, before HBM and link training end.
Log entry 15 (DESIGN CHOICE). -/
def Dev.reset : Dev :=
  { free := 0, timeUs := 0, bus := Bus.reset, ev := Events.reset, tide := Tide.reset,
    plan := PlanRegs.reset, sched := Sched.reset, clrs := [], tiles := [], ctxs := [],
    launches := [], nextLaunch := 0, mem := Mem.reset, sec := Sec.reset, spdm := Spdm.reset,
    lnk := LnkBlk.reset, host := HostBlk.reset, stl := Stl.reset, flt := Flt.reset,
    lcs := Lcs.reset, dbg := Dbg.reset, pwr := Pwr.reset, thm := Thm.reset, pins := Pins.reset,
    outbox := [] }

/-- The whole state: the commands that wait, first in first out, and the device. -/
structure State where
  pending : List Instr
  dev     : Dev
deriving DecidableEq, Repr

/-- The machine right after reset: no command waits. Log entries 15 (DESIGN CHOICE), 16 (DESIGN CHOICE). -/
def State.reset : State := { pending := [], dev := Dev.reset }

end Sys2Proof.Machine
end

