-- ==== Sys2Proof/Machine/Tab.lean ====
section
/-! DEFINITION. Sparse tables in canonical form: keys strictly rising, and no entry equal
to the default `d` that an unlisted key reads as. Equal tables are equal data. -/

namespace Sys2Proof

/-- The entry of key `k`; `d` where the table lists none. Log entry 12 (DESIGN CHOICE). -/
def Tab.get {α : Type} (d : α) : Tab α → Nat → α
  | [], _ => d
  | p :: t, k => if p.1 = k then p.2 else Tab.get d t k

/-- The table with `v` at key `k`; writing the default removes the entry. Log entry 12 (DESIGN CHOICE). -/
def Tab.set {α : Type} [DecidableEq α] (d : α) : Tab α → Nat → α → Tab α
  | [], k, v => if v = d then [] else [(k, v)]
  | p :: t, k, v =>
    if k < p.1 then (if v = d then p :: t else (k, v) :: p :: t)
    else if k = p.1 then (if v = d then t else (k, v) :: t)
    else p :: Tab.set d t k v

/-- The table with the entry of `k` changed by `f`. Log entry 12 (DESIGN CHOICE). -/
def Tab.mod {α : Type} [DecidableEq α] (d : α) (t : Tab α) (k : Nat) (f : α → α) : Tab α :=
  Tab.set d t k (f (Tab.get d t k))

/-- `vs` at the keys `k`, `k + 1`, …. -/
def Tab.setRun {α : Type} [DecidableEq α] (d : α) (t : Tab α) (k : Nat) : List α → Tab α
  | [] => t
  | v :: vs => Tab.setRun d (Tab.set d t k v) (k + 1) vs

/-- The table without its entries whose key satisfies `p`. Log entry 12 (DESIGN CHOICE). -/
def Tab.drop {α : Type} (t : Tab α) (p : Nat → Bool) : Tab α := t.filter (fun e => !p e.1)

/-- The table with every entry changed by `f`; an entry that becomes the default leaves it. -/
def Tab.each {α : Type} [DecidableEq α] (d : α) (t : Tab α) (f : Nat → α → α) : Tab α :=
  (t.map fun e => (e.1, f e.1 e.2)).filter fun e => decide (e.2 ≠ d)

/-- The canonical form: every key at least `lo`, keys strictly rising, no default listed. -/
def Tab.wfFrom {α : Type} [DecidableEq α] (d : α) (lo : Nat) : Tab α → Bool
  | [] => true
  | p :: t => decide (lo ≤ p.1) && decide (p.2 ≠ d) && Tab.wfFrom d (p.1 + 1) t

/-- Log entry 12 (DESIGN CHOICE). -/
def Tab.wf {α : Type} [DecidableEq α] (d : α) (t : Tab α) : Bool := Tab.wfFrom d 0 t

end Sys2Proof
end

