-- ==== Sys2Proof/Machine/Ops.lean ====
section
/-! DEFINITION. The operations every command shares: running on a powered device, table access,
events and ALERT_N, the error log, queries of the active plan, and completing commands. -/

/-! ## Queries of a plan and codes of R302 -/

namespace Sys2Proof

/-- The valid descriptor of clearing `n` in a plan. -/
def StandPlan.clr (p : StandPlan) (n : Nat) : Option PlanClearing :=
  match p.clearings[n]? with
  | some c => if c.valid then some c else none
  | none => none

def StandPlan.tileClr (p : StandPlan) (t : Nat) : Option Nat :=
  (List.range 16).find? fun n => match p.clr n with | some c => c.tiles.getLsbD t | none => false

def PlanClearing.hasQueue (c : PlanClearing) (q : Nat) : Bool :=
  c.queueBase.toNat ≤ q && q < c.queueBase.toNat + c.queueCount.toNat

def StandPlan.queueClr (p : StandPlan) (q : Nat) : Option Nat :=
  (List.range 16).find? fun n => match p.clr n with | some c => c.hasQueue q | none => false

/-- An activity of a plan with its template. -/
def StandPlan.activity (p : StandPlan) (a : BitVec 16) : Option (PlanTemplate × PlanAct) :=
  p.templates.findSome? fun t => (t.acts.find? (·.actId == a)).map fun x => (t, x)

def Status.code : Status → Nat
  | .ok => 0 | .aborted => 1 | .staleObject => 2 | .staleRole => 3 | .uncorrectable => 4
  | .integrityLost => 5 | .tamper => 6 | .nanTrap => 7 | .ownerDenied => 8 | .quorumUnmet => 9
  | .timeout => 10 | .planConflict => 11 | .resetting => 12 | .outOfService => 13

end Sys2Proof

namespace Sys2Proof.Machine
open Sys2Proof

abbrev Out := Host.Outcome State Fault Refusal

/-! ## Running -/

/-- The device runs: supplied, out of reset and not tripped. Otherwise it runs nothing and answers
nothing (R384, R389). Log entries 13 (DEDUCED), 81 (DEDUCED). -/
def Dev.running (d : Dev) : Bool := d.pins.powered && !d.pins.inReset && !d.pins.thermTrip

/-- The effect `f` on a running device; a device without power or in reset ignores the command.
Log entry 13 (DEDUCED). -/
def act (s : State) (f : Dev → Dev) : Out :=
  if s.dev.running then .next { s with dev := f s.dev } else .next s

/-- An effect that needs no running device: supplies and reset balls. -/
def always (s : State) (f : Dev → Dev) : Out := .next { s with dev := f s.dev }

/-- An effect that names memory that may not exist. -/
def actMem (s : State) (there : Bool) (f : Dev → Dev) : Out :=
  if s.dev.running then
    if there then .next { s with dev := f s.dev } else .fault .noSuchMemory
  else .next s

/-- No command waits: the control die's clock advances by 1 µs. Log entry 1 (DESIGN CHOICE). -/
def idle (s : State) : Out :=
  act s fun d => { d with timeUs := d.timeUs + 1 }

/-! ## Small arithmetic -/

/-- Increment, saturating at all ones (R42's counters). -/
def satInc {w : Nat} (v : BitVec w) : BitVec w := if v = BitVec.allOnes w then v else v + 1

/-- Sum, saturating at all ones. -/
def satAdd {w : Nat} (v : BitVec w) (n : Nat) : BitVec w :=
  if v.toNat + n < 2 ^ w then BitVec.ofNat w (v.toNat + n) else BitVec.allOnes w

/-- A value with one bit set. -/
def setBit {w : Nat} (v : BitVec w) (i : Nat) : BitVec w := v ||| BitVec.ofNat w (2 ^ i)

def clrBit {w : Nat} (v : BitVec w) (i : Nat) : BitVec w := v &&& ~~~(BitVec.ofNat w (2 ^ i))

/-- A bit with the value `b`. -/
def putBit {w : Nat} (v : BitVec w) (i : Nat) (b : Bool) : BitVec w :=
  if b then setBit v i else clrBit v i

def b2n (b : Bool) : Nat := if b then 1 else 0

/-- The indices of the set bits below `n`. -/
def bitsOf (v n : Nat) : List Nat := (List.range n).filter (fun i => v.testBit i)

/-- Little-endian bytes of `v`, `n` of them (R3). -/
def leBytes : Nat → Nat → List Byte
  | 0, _ => []
  | n + 1, v => BitVec.ofNat 8 v :: leBytes n (v / 256)

/-- The value of little-endian bytes. -/
def leVal : List Byte → Nat
  | [] => 0
  | b :: bs => b.toNat + 256 * leVal bs

/-! ## CRC-16 of the tide frames (R26) -/

/-- CRC-16, polynomial 0x1021: one bit. -/
def crc16Bit (c : BitVec 16) (b : Bool) : BitVec 16 :=
  if (c.getLsbD 15).xor b then (c <<< 1) ^^^ 0x1021#16 else c <<< 1

def crc16Byte (c : BitVec 16) (b : Byte) : BitVec 16 :=
  (List.range 8).foldl (fun c i => crc16Bit c (b.getLsbD (7 - i))) c

/-- CRC-16 of a byte string, initial value 0xFFFF. -/
def crc16 (bs : List Byte) : BitVec 16 := bs.foldl crc16Byte 0xFFFF#16

/-- The CRC of a mark frame over its bytes 0–9. -/
def frameCrc (count : BitVec 64) (flags : BitVec 16) : BitVec 16 :=
  crc16 (leBytes 8 count.toNat ++ leBytes 2 flags.toNat)

/-! ## Tables of the device -/

def Dev.clr (d : Dev) (n : Nat) : Clearing := Tab.get Clearing.reset d.clrs n
def Dev.modClr (d : Dev) (n : Nat) (f : Clearing → Clearing) : Dev :=
  { d with clrs := Tab.mod Clearing.reset d.clrs n f }
def Dev.tile (d : Dev) (t : Nat) : TileSt := Tab.get TileSt.reset d.tiles t
def Dev.modTile (d : Dev) (t : Nat) (f : TileSt → TileSt) : Dev :=
  { d with tiles := Tab.mod TileSt.reset d.tiles t f }
def Dev.ctx (d : Dev) (k : Nat) : Ctx := Tab.get Ctx.reset d.ctxs k
def Dev.modCtx (d : Dev) (k : Nat) (f : Ctx → Ctx) : Dev :=
  { d with ctxs := Tab.mod Ctx.reset d.ctxs k f }
def Dev.link (d : Dev) (l : Nat) : Link := Tab.get Link.reset d.lnk.links l
def Dev.modLink (d : Dev) (l : Nat) (f : Link → Link) : Dev :=
  { d with lnk := { d.lnk with links := Tab.mod Link.reset d.lnk.links l f } }
def Dev.queue (d : Dev) (q : Nat) : Queue := Tab.get Queue.reset d.host.queues q
def Dev.modQueue (d : Dev) (q : Nat) (f : Queue → Queue) : Dev :=
  { d with host := { d.host with queues := Tab.mod Queue.reset d.host.queues q f } }
def Dev.obj (d : Dev) (i : Nat) : Obj := Tab.get Obj.reset d.host.objs i
def Dev.modObj (d : Dev) (i : Nat) (f : Obj → Obj) : Dev :=
  { d with host := { d.host with objs := Tab.mod Obj.reset d.host.objs i f } }
def Dev.fence (d : Dev) (i : Nat) : Fence := Tab.get Fence.reset d.host.fences i
def Dev.modFence (d : Dev) (i : Nat) (f : Fence → Fence) : Dev :=
  { d with host := { d.host with fences := Tab.mod Fence.reset d.host.fences i f } }
def Dev.slot (d : Dev) (i : Nat) : Slot := Tab.get Slot.reset d.sec.slots i
def Dev.modSlot (d : Dev) (i : Nat) (f : Slot → Slot) : Dev :=
  { d with sec := { d.sec with slots := Tab.mod Slot.reset d.sec.slots i f } }
def Dev.frame (d : Dev) (n : Nat) : McxFrame := Tab.get McxFrame.reset d.mem.frames n
def Dev.modFrame (d : Dev) (n : Nat) (f : McxFrame → McxFrame) : Dev :=
  { d with mem := { d.mem with frames := Tab.mod McxFrame.reset d.mem.frames n f } }
/-- Region `r` of frame `f` is kept under key 2048·f + r. -/
def regKey (f r : Nat) : Nat := 2048 * f + r
def Dev.region (d : Dev) (k : Nat) : RegionSt := Tab.get RegionSt.reset d.mem.regions k
def Dev.modRegion (d : Dev) (k : Nat) (f : RegionSt → RegionSt) : Dev :=
  { d with mem := { d.mem with regions := Tab.mod RegionSt.reset d.mem.regions k f } }
def Dev.stack (d : Dev) (k : Nat) : StackSt := Tab.get StackSt.reset d.mem.stk k
def Dev.modStack (d : Dev) (k : Nat) (f : StackSt → StackSt) : Dev :=
  { d with mem := { d.mem with stk := Tab.mod StackSt.reset d.mem.stk k f } }
def Dev.modNum (d : Dev) (n : Nat) (f : Num → Num) : Dev :=
  d.modClr n fun c => { c with num := f c.num }

/-! ## What the device drives -/

/-- Log entry 18 (DESIGN CHOICE). -/
def Dev.emit (d : Dev) (o : Output) : Dev := { d with outbox := d.outbox ++ [o] }

/-! ## Events, interrupts and ALERT_N (R278, R390) -/

def Events.get (e : Events) : Blk → Ev
  | .tide => e.tide | .plan => e.plan | .mem => e.mem | .mcx => e.mcx | .sec => e.sec
  | .lnk => e.lnk | .stl => e.stl | .flt => e.flt | .pwr => e.pwr | .thm => e.thm | .dbl => e.dbl

def Events.set (e : Events) (b : Blk) (v : Ev) : Events :=
  match b with
  | .tide => { e with tide := v } | .plan => { e with plan := v } | .mem => { e with mem := v }
  | .mcx => { e with mcx := v } | .sec => { e with sec := v } | .lnk => { e with lnk := v }
  | .stl => { e with stl := v } | .flt => { e with flt := v } | .pwr => { e with pwr := v }
  | .thm => { e with thm := v } | .dbl => { e with dbl := v }

/-- The block event vectors of R278. -/
def Blk.vector : Blk → Nat
  | .flt => 0 | .tide => 1 | .plan => 2 | .mem => 3 | .mcx => 3 | .sec => 4 | .lnk => 5
  | .stl => 6 | .pwr => 7 | .thm => 7 | .dbl => 9

/-- The event bits of a block that assert ALERT_N: MEM CLIFF; MCX TAMPER and LOCKDOWN; FLT
FENCED, OUT_OF_SERVICE and NEIGHBOUR_FAILED; PWR OCP and STAGE2_FAULT; THM WARN and CRITICAL. -/
def Blk.alertMask : Blk → Word
  | .mem => 0x10 | .mcx => 0x81 | .flt => 0x4C | .pwr => 0x24 | .thm => 0x05 | _ => 0

def Events.alerts (e : Events) (b : Blk) : Bool := (e.get b).ev &&& b.alertMask != 0

/-- THM_ALERT_SRC[4:0]: MEM, MCX, FLT, THM, PWR. -/
def Events.alertSrc (e : Events) : BitVec 5 :=
  BitVec.ofNat 5 (b2n (e.alerts .mem) + 2 * b2n (e.alerts .mcx) + 4 * b2n (e.alerts .flt)
    + 8 * b2n (e.alerts .thm) + 16 * b2n (e.alerts .pwr))

/-- ALERT_N follows the alerting event bits, and an in-band interrupt goes out when it
asserts (R390, R400). -/
def Dev.updateAlert (d : Dev) : Dev :=
  let a := d.ev.alertSrc != 0
  let d' : Dev := { d with pins := { d.pins with alertN := a } }
  if a && !d.pins.alertN then d'.emit (.ibi d.ev.alertSrc) else d'

/-- An event occurs: its bit is set, the block's vector goes out when EVENT_EN holds the bit,
and ALERT_N follows. -/
def Dev.raise (d : Dev) (b : Blk) (bit : Nat) : Dev :=
  let e := d.ev.get b
  let d : Dev := { d with ev := d.ev.set b { e with ev := setBit e.ev bit } }
  let d := if e.en.getLsbD bit then d.emit (.msix b.vector) else d
  d.updateAlert

/-- An event occurs when `c` holds. -/
def Dev.raiseIf (d : Dev) (c : Bool) (b : Blk) (bit : Nat) : Dev := if c then d.raise b bit else d

/-! ## Free values and random draws -/

/-- A value the spec leaves open. Log entries 4 (DESIGN CHOICE), 90 (DESIGN CHOICE). -/
def Dev.freeVal (d : Dev) : DWord := Config.free64 d.free 0
/-- Log entry 4 (DESIGN CHOICE). -/
def Dev.tick (d : Dev) : Dev := { d with free := d.free + 1 }
/-- A TRNG draw. Log entry 5 (DESIGN CHOICE). -/
def Dev.random (d : Dev) : B256 := Config.trng d.free

/-! ## The active plan -/

def Dev.planActive (d : Dev) : Bool := d.plan.active.isSome

def Dev.planClr (d : Dev) (n : Nat) : Option PlanClearing := d.plan.active.bind (·.clr n)

/-- The owner of clearing `n`; 0 where there is none. -/
def Dev.ownerOf (d : Dev) (n : Nat) : BitVec 6 :=
  match d.planClr n with
  | some c => c.owner
  | none => 0

/-- The clearings of the active plan. -/
def Dev.clearings (d : Dev) : List Nat := (List.range 16).filter fun n => (d.planClr n).isSome

/-- The clearing that holds tile `t`. -/
def Dev.tileClr (d : Dev) (t : Nat) : Option Nat := d.plan.active.bind (·.tileClr t)

/-- The clearing whose queue range holds `q` (R281). -/
def Dev.queueClr (d : Dev) (q : Nat) : Option Nat := d.plan.active.bind (·.queueClr q)

/-- The tiles of clearing `n`. -/
def Dev.tilesOf (d : Dev) (n : Nat) : List Nat :=
  match d.planClr n with
  | some c => bitsOf c.tiles.toNat 96
  | none => []

def Dev.activity (d : Dev) (a : BitVec 16) : Option (PlanTemplate × PlanAct) :=
  d.plan.active.bind (·.activity a)

/-- The device's role address (R228): adopted by a takeover, by a BENCH plan, or the member's. -/
def Dev.addr (d : Dev) : BitVec 20 :=
  match d.sec.takeover with
  | some a => a
  | none => match d.sec.member with
    | some m => m.addr
    | none => d.sec.benchAddr

/-- ARITH mode of clearing `n`: 0 FAST-SAT, 1 FAST-IEEE, 2 STRICT. -/
def Dev.arithMode (d : Dev) (n : Nat) : Nat :=
  match d.planClr n with
  | some c => c.arith.toNat % 4
  | none => 0

/-- Default rounding of clearing `n` (R48). -/
def Dev.defRound (d : Dev) (n : Nat) : Nat :=
  match d.planClr n with
  | some c => c.arith.toNat / 4 % 8
  | none => 0

/-- NaN trap code of clearing `n`: 0 off, 1 TRAP_STOP, 2 TRAP_CONTINUE. -/
def Dev.nanTrap (d : Dev) (n : Nat) : Nat :=
  match d.planClr n with
  | some c => c.arith.toNat / 32 % 4
  | none => 0

/-- The thresholds of R60 as the active plan sets them. -/
def defaultEsc : PlanEsc :=
  { engTimeoutUs := 200, engCount := 8, engWindowS := 60, clrTimeoutUs := 50000, clrCount := 3,
    clrWindowS := 600, fenced24h := 2, cold24h := 3 }

def Dev.esc (d : Dev) : PlanEsc := (d.plan.active.bind (·.escalation)).getD defaultEsc

/-! ## The error log (R360) -/

/-- Log entry 56 (DEDUCED). -/
def Dev.logEvent (d : Dev) (type : Byte) (clearing : Nat) (engine : BitVec 16) (status : Byte)
    (info : BitVec 64) : Dev :=
  let e : LogEntry :=
    { time := d.timeUs, type := type, clearing := BitVec.ofNat 8 clearing, engine := engine,
      status := status, roleGen := if clearing < 16 then (d.clr clearing).roleGen else 0,
      tide := d.tide.count, info := info }
  { d with flt := { d.flt with
      log := Tab.set LogEntry.reset d.flt.log d.flt.logHead.toNat e,
      logHead := d.flt.logHead + 1,
      wrapped := d.flt.wrapped || d.flt.logHead == 1023 } }

/-! ## Failure and service (R352, R356) -/

/-- The device is out of service: under R356, or while a reopening is in force (R375). -/
def Dev.retired (d : Dev) : Bool := d.flt.oos || d.sec.debugOpened

/-- A device is failed when it is out of service or at a cliff, CRITICAL, OCP or stage 2 fault. -/
def Dev.failed (d : Dev) : Bool := d.retired || d.flt.cliff

/-- The state of a clearing that opens: none is ACTIVE on a device that has failed or is locked down (R185, R206). -/
def Dev.openState (d : Dev) : ClrSt := if d.failed || d.mem.lockdown then .halted else .active

/-- The copies that a failed device holds for its peers are lost (R352, R345). Log entry 75 (DEDUCED). -/
def Dev.loseCopies (d : Dev) : Dev :=
  let had := d.stl.peers.any (·.2.complete)
  let d : Dev := { d with stl := { d.stl with peers := [] } }
  d.raiseIf had .stl 8

/-- A pseudo-channel ended training FAILED (R182). Log entry 85 (DEDUCED). -/
def Dev.trainFailed (d : Dev) : Bool := d.mem.stk.any fun x => x.2.train == 3

/-- A clearing's commands complete OUT_OF_SERVICE: fenced, out of service, or the device is; so do all
commands of a Scrapped device (R369). Log entries 35 (DEDUCED), 85 (DEDUCED). -/
def Dev.outOfService (d : Dev) (n : Nat) : Bool :=
  d.failed || d.lcs.st == .scrapped || d.trainFailed || (d.clr n).oos || (d.clr n).st == .fenced || (d.clr n).fencing

/-! ## Status codes (R302) -/

def Detail.code : Detail → Nat
  | .none => 0 | .decode => 1 | .contextDestroyed => 2 | .queueDisabled => 3
  | .clearingHalted => 4 | .flr => 5 | .fenceAbandoned => 6 | .fenceError => 7 | .ingressTag => 8
  | .notScheduled => 9 | .epochOverrun => 10 | .alreadySignalled => 11

end Sys2Proof.Machine
end

