-- ==== Sys2Proof/Machine/Crypto.lean ====
section
/-! DEFINITION. Byte strings (R4), and the constructions over the uninterpreted SM3 and SM4 that the spec takes from
other standards: SM4-GCM, HMAC-SM3 and the polynomial hash over GF(2^64) of R190. Log entry 109 (PRESUMED). -/

namespace Sys2Proof.Machine
open Sys2Proof

/-! ## Byte strings (R4): byte 0 of a 256-bit string is its most significant byte -/

def strByte (k : B256) (i : Nat) : Byte := BitVec.ofNat 8 (k.toNat / 2 ^ (8 * (31 - i)))
def strBytes (k : B256) (n : Nat) : List Byte := (List.range n).map (strByte k)
def ascii (s : String) : List Byte := s.toList.map fun c => BitVec.ofNat 8 c.toNat
/-- `n` bytes, most significant first. -/
def beBytes (n v : Nat) : List Byte := (leBytes n v).reverse
/-- The number whose most significant byte is first. -/
def beVal (bs : List Byte) : Nat := leVal bs.reverse
def zeros (n : Nat) : List Byte := List.replicate n 0
/-- The 256-bit string of 32 bytes. -/
def strOf (bs : List Byte) : B256 := BitVec.ofNat 256 (beVal bs)
/-- The first 128 bits of a 256-bit string: a 16-byte key. -/
def firstHalf (k : B256) : BitVec 128 := k.extractLsb' 128 128
/-- Byte by byte exclusive or, as long as the shorter. -/
def xorBytes (a b : List Byte) : List Byte := (a.zip b).map fun x => x.1 ^^^ x.2

/-! ## SM4 in counter mode and GCM -/

/-- The 128-bit block of 16 bytes, the first most significant; a shorter string ends in zeros. -/
def blockOf (bs : List Byte) : BitVec 128 := BitVec.ofNat 128 (beVal ((bs ++ zeros 16).take 16))
def blockBytes (b : BitVec 128) : List Byte := beBytes 16 b.toNat

/-- The blocks of a byte string, the last one padded with zeros. -/
def blocksOf (bs : List Byte) : List (BitVec 128) :=
  (List.range ((bs.length + 15) / 16)).map fun i => blockOf ((bs.drop (16 * i)).take 16)

/-- Multiplication in GF(2^128) with the polynomial and bit order of GCM. -/
def gf128Mul (x y : BitVec 128) : BitVec 128 :=
  ((List.range 128).foldl (fun (zv : BitVec 128 × BitVec 128) i =>
    (if x.getMsbD i then zv.1 ^^^ zv.2 else zv.1,
     if zv.2.getLsbD 0 then (zv.2 >>> 1) ^^^ 0xE1000000000000000000000000000000#128 else zv.2 >>> 1)) (0, y)).1

def ghash (h : BitVec 128) (bs : List (BitVec 128)) : BitVec 128 :=
  bs.foldl (fun y b => gf128Mul (y ^^^ b) h) 0

/-- The counter block `i` under a 12-byte IV. -/
def gcmCounter (iv : List Byte) (i : Nat) : BitVec 128 := blockOf ((iv ++ zeros 12).take 12 ++ beBytes 4 i)

/-- `n` bytes of the keystream under a 12-byte IV. -/
def gcmStream (key : BitVec 128) (iv : List Byte) (n : Nat) : List Byte :=
  ((List.range ((n + 15) / 16)).flatMap fun i => blockBytes (Config.sm4 key (gcmCounter iv (i + 2)))).take n

/-- Encryption and decryption are the same exclusive or with the keystream. -/
def gcmCrypt (key : BitVec 128) (iv text : List Byte) : List Byte := xorBytes text (gcmStream key iv text.length)

/-- The 16-byte tag over additional data and a ciphertext. -/
def gcmTag (key : BitVec 128) (iv aad cipher : List Byte) : List Byte :=
  let h := Config.sm4 key 0
  let lens := blockOf (beBytes 8 (8 * aad.length) ++ beBytes 8 (8 * cipher.length))
  blockBytes (ghash h (blocksOf aad ++ blocksOf cipher ++ [lens]) ^^^ Config.sm4 key (gcmCounter iv 1))

/-- Ciphertext and tag of a plaintext. -/
def gcmSeal (key : BitVec 128) (iv aad plain : List Byte) : List Byte :=
  let c := gcmCrypt key iv plain
  c ++ gcmTag key iv aad c

/-- `n` bytes of a sealed string from byte `i`. -/
def sealed (key : BitVec 128) (iv aad plain : List Byte) (i n : Nat) : List Byte :=
  ((gcmSeal key iv aad plain).drop i).take n

/-- A ciphertext with its tag opens: the tag fits. -/
def gcmOpens (key : BitVec 128) (iv aad cipher tag : List Byte) : Bool :=
  tag == (gcmTag key iv aad cipher).take tag.length

/-! ## HMAC-SM3 (R257) -/

/-- HMAC with the 64-byte block of SM3; the key is no longer than a block. -/
def hmac (key text : List Byte) : B256 :=
  let k := (key ++ zeros 64).take 64
  let inner := Config.sm3 (k.map (· ^^^ 0x36) ++ text)
  Config.sm3 (k.map (· ^^^ 0x5C) ++ strBytes inner 32)

/-! ## GF(2^64) (R190) -/

/-- Multiplication modulo x^64 + x^4 + x^3 + x + 1, bit i of a word standing for x^i. -/
def gf64Mul (a b : DWord) : DWord :=
  ((List.range 64).foldl (fun (zv : DWord × DWord) i =>
    (if a.getLsbD i then zv.1 ^^^ zv.2 else zv.1,
     if zv.2.getMsbD 0 then (zv.2 <<< 1) ^^^ 0x1B#64 else zv.2 <<< 1)) (0, b)).1

/-- The polynomial hash of a list of words under key `h`. -/
def gf64Hash (h : DWord) (ws : List DWord) : DWord := ws.foldl (fun y w => gf64Mul (y ^^^ w) h) 0

/-! ## The root secret and the identity (R210, R211) -/

/-- Word `i` of the root secret's array. Log entry 128 (DESIGN CHOICE). -/
def Lcs.rootAt (x : Lcs) (i : Nat) : Word := x.root.getD i (Config.rootWord (i % 8))

/-- The root secret: the bitwise majority of its three copies. Log entry 128 (DESIGN CHOICE). -/
def Lcs.secret (x : Lcs) : B256 :=
  strOf ((List.range 8).flatMap fun i =>
    let a := x.rootAt i
    let b := x.rootAt (8 + i)
    let c := x.rootAt (16 + i)
    leBytes 4 ((a &&& b) ||| (a &&& c) ||| (b &&& c)).toNat)

/-- A new root secret in three copies. Log entry 128 (DESIGN CHOICE). -/
def Lcs.putSecret (x : Lcs) (k : B256) : Lcs :=
  { x with root := (List.range 24).map fun i => BitVec.ofNat 32 (leVal ((strBytes k 32).drop (4 * (i % 8)) |>.take 4)) }

/-- The order of the SM2 curve. Log entry 109 (PRESUMED). -/
def sm2Order : Nat := 0xFFFFFFFEFFFFFFFFFFFFFFFFFFFFFFFF7203DF6B21C6052B53BBF40939D54123

/-- An identity private key (R211). -/
def Dev.privateKey (d : Dev) (label : String) : Nat :=
  1 + (Config.kdf320 d.lcs.secret (ascii label)).toNat % (sm2Order - 1)
def Dev.ids (d : Dev) : Nat := d.privateKey "VX-IDS"
def Dev.ide (d : Dev) : Nat := d.privateKey "VX-IDE"
/-- SM3 of the IDS public key (R234). -/
def Dev.identity (d : Dev) : B256 := Config.sm3 (Config.sm2Public d.ids)

/-- The IDS signature over a byte string. -/
def Dev.sign (d : Dev) (bs : List Byte) : B256 × B256 := Config.sm2Sign d.ids d.free (Config.sm3 bs)

end Sys2Proof.Machine
end

