-- ==== Sys2Proof/Machine/PlanBytes.lean ====
section
/-! DEFINITION. The bytes of a stand plan (R44–R63, R322): the header, the directory and the sections whose layout
the spec gives, read into the fields that the loader checks. -/

namespace Sys2Proof.Machine
open Sys2Proof

/-- The `n`-byte little-endian number at offset `at_`. -/
def numAt (bs : List Byte) (at_ n : Nat) : Nat := leVal ((bs.drop at_).take n)

/-- All bytes from `at_` on, `n` of them, are 0. -/
def zerosAt (bs : List Byte) (at_ n : Nat) : Bool := ((bs.drop at_).take n).all (· == 0)

/-- The `n` entries of `size` bytes that start at offset `at_`. -/
def entriesAt (bs : List Byte) (at_ size n : Nat) : List (List Byte) :=
  (List.range n).map fun i => (bs.drop (at_ + size * i)).take size

/-! ## Header and directory (R44) -/

/-- The 64-byte header. -/
def readHeader (bs : List Byte) : PlanHeader :=
  { magic := BitVec.ofNat 32 (numAt bs 0 4), version := BitVec.ofNat 16 (numAt bs 4 2),
    sectionCount := BitVec.ofNat 16 (numAt bs 6 2), totalLength := BitVec.ofNat 32 (numAt bs 8 4),
    flags := BitVec.ofNat 32 (numAt bs 12 4), planId := BitVec.ofNat 64 (numAt bs 16 8),
    serial := BitVec.ofNat 32 (numAt bs 24 4), setId := BitVec.ofNat 32 (numAt bs 28 4),
    addr := BitVec.ofNat 32 (numAt bs 32 4), reservedZero := zerosAt bs 36 28 }

def readDirEntry (e : List Byte) : DirEntry :=
  { type := BitVec.ofNat 8 (numAt e 0 1), offset := BitVec.ofNat 32 (numAt e 4 4),
    length := BitVec.ofNat 32 (numAt e 8 4), reservedZero := zerosAt e 1 3 && zerosAt e 12 4 }

/-- The directory from byte 64 on; at most 16 entries (R44). -/
def readDir (bs : List Byte) : List DirEntry :=
  (entriesAt bs 64 16 (min 16 (numAt bs 6 2))).map readDirEntry

/-- The bytes of the section with this type. -/
def sectionOf (bs : List Byte) (dir : List DirEntry) (t : Nat) : List Byte :=
  match dir.find? fun e => e.type.toNat == t with
  | some e => (bs.drop e.offset.toNat).take e.length.toNat
  | none => []

/-- Every byte outside the header, the directory and the sections is 0. -/
def paddingOk (bs : List Byte) (dir : List DirEntry) : Bool :=
  bs.zipIdx.all fun x => x.1 == 0 || x.2 < 64 + 16 * dir.length ||
    dir.any fun e => e.offset.toNat ≤ x.2 && x.2 < e.offset.toNat + e.length.toNat

/-! ## Sections -/

/-- DEVICE (R52). -/
def readDevice (s : List Byte) : PlanDevice :=
  { topoHash := strOf (s.take 32), shaded := BitVec.ofNat 8 (numAt s 32 1),
    tamperPolicy := BitVec.ofNat 8 (numAt s 33 1), reservedZero := zerosAt s 34 30 }

/-- A clearing descriptor (R48). -/
def readClearing (e : List Byte) : PlanClearing :=
  let owner := numAt e 1 1
  { index := BitVec.ofNat 8 (numAt e 0 1), owner := BitVec.ofNat 6 owner, valid := owner.testBit 7,
    arith := BitVec.ofNat 8 (numAt e 2 1), tiles := BitVec.ofNat 96 (numAt e 4 12),
    queueBase := BitVec.ofNat 16 (numAt e 16 2), queueCount := BitVec.ofNat 16 (numAt e 18 2),
    flags := BitVec.ofNat 32 (numAt e 20 4),
    reservedZero := !owner.testBit 6 && zerosAt e 3 1 && zerosAt e 24 8 }

/-- A REGIONS descriptor (R51). -/
def readRegion (e : List Byte) : PlanRegion :=
  { clearing := BitVec.ofNat 8 (numAt e 0 1), mode := BitVec.ofNat 8 (numAt e 1 1),
    sector := BitVec.ofNat 8 (numAt e 2 1), first := BitVec.ofNat 32 (numAt e 4 4),
    count := BitVec.ofNat 32 (numAt e 8 4), reservedZero := zerosAt e 3 1 && zerosAt e 12 4 }

/-- A link entry (R53). -/
def readLink (e : List Byte) : PlanLink :=
  { group := BitVec.ofNat 8 (numAt e 0 1), data := BitVec.ofNat 8 (numAt e 1 1),
    strand := BitVec.ofNat 8 (numAt e 2 1), tidectl := BitVec.ofNat 8 (numAt e 3 1),
    cover := BitVec.ofNat 8 (numAt e 4 1), enabled := (numAt e 5 1).testBit 0,
    nbrAddr := BitVec.ofNat 20 (numAt e 6 3), farLink := BitVec.ofNat 8 (numAt e 9 1),
    reservedZero := numAt e 5 1 / 2 == 0 && numAt e 6 3 / 2 ^ 20 == 0 && zerosAt e 10 2 }

/-- A FLOW entry (R54). -/
def readFlow (e : List Byte) : PlanFlow :=
  { src := BitVec.ofNat 8 (numAt e 0 1), dst := BitVec.ofNat 8 (numAt e 1 1),
    kind := BitVec.ofNat 8 (numAt e 2 1), contributors := BitVec.ofNat 16 (numAt e 4 2) }

/-- A KEY_POLICY entry (R56). -/
def readKey (e : List Byte) : PlanKey :=
  { clearing := BitVec.ofNat 8 (numAt e 0 1), slotFirst := BitVec.ofNat 8 (numAt e 1 1),
    slotCount := BitVec.ofNat 8 (numAt e 2 1), source := BitVec.ofNat 8 (numAt e 3 1),
    bundleId := BitVec.ofNat 16 (numAt e 4 2), rekeySteps := BitVec.ofNat 16 (numAt e 6 2) }

/-- A CLAIMS entry (R61). -/
def readClaim (e : List Byte) : PlanClaim :=
  { cls := BitVec.ofNat 8 (numAt e 0 1), section_ := BitVec.ofNat 8 (numAt e 2 1),
    entry := BitVec.ofNat 16 (numAt e 4 2), first := BitVec.ofNat 32 (numAt e 8 4),
    last := BitVec.ofNat 32 (numAt e 12 4),
    reservedZero := zerosAt e 1 1 && zerosAt e 3 1 && zerosAt e 6 2 }

/-- An activity entry (R57), with the stage that the schedule names for it. -/
def readAct (e : List Byte) (stage : PlanStage) : PlanAct :=
  { actId := BitVec.ofNat 16 (numAt e 0 2), kind := BitVec.ofNat 8 (numAt e 2 1),
    clearing := BitVec.ofNat 8 (numAt e 3 1), startOff := BitVec.ofNat 32 (numAt e 4 4),
    deadlineOff := BitVec.ofNat 32 (numAt e 8 4),
    preds := (List.range 4).map fun i => BitVec.ofNat 16 (numAt e (12 + 2 * i) 2),
    queue := BitVec.ofNat 16 (numAt e 20 2), rflags := BitVec.ofNat 16 (numAt e 22 2), stage := stage }

/-- A template: its header, and its 24-byte entries from the section. -/
def readTemplate (s : List Byte) (h : TemplateHdr) : PlanTemplate :=
  { templateId := h.templateId, base := h.base, length := h.length,
    acts := (entriesAt s h.entriesAt 24 h.count).zipIdx.map fun x =>
      readAct x.1 ((h.stages[x.2]?).getD { ins := [], outs := [], partialOf := none }) }

/-- A SAVE entry (R322). -/
def readSave (e : List Byte) : PlanSave :=
  { clearing := BitVec.ofNat 8 (numAt e 0 1), shadow := (numAt e 1 1).testBit 0,
    region := BitVec.ofNat 16 (numAt e 2 2), first := BitVec.ofNat 64 (numAt e 4 8),
    chunks := BitVec.ofNat 32 (numAt e 12 4) }

/-- A PEER entry (R322). -/
def readPeer (e : List Byte) : PlanPeer :=
  { addr := BitVec.ofNat 20 (numAt e 0 4), shadow := (numAt e 0 4).testBit 30,
    region := BitVec.ofNat 16 (numAt e 4 2), firstMib := BitVec.ofNat 32 (numAt e 8 4),
    sizeMib := BitVec.ofNat 32 (numAt e 12 4) }

/-- STRANDLINE (R322). -/
def readStrand (s : List Byte) : PlanStrand :=
  let saves := numAt s 34 2
  { k := BitVec.ofNat 8 (numAt s 0 1), role := BitVec.ofNat 8 (numAt s 1 1), d := BitVec.ofNat 16 (numAt s 2 2),
    tauMinSteps := BitVec.ofNat 16 (numAt s 4 2), tauMaxS := BitVec.ofNat 16 (numAt s 6 2),
    buddy0 := BitVec.ofNat 20 (numAt s 8 4), buddy1 := BitVec.ofNat 20 (numAt s 12 4),
    shadowAddr := BitVec.ofNat 20 (numAt s 16 4), shadowValid := (numAt s 16 4).testBit 31,
    lossClearing := BitVec.ofNat 8 (numAt s 20 1), lossAct := BitVec.ofNat 16 (numAt s 22 2),
    lossRa := BitVec.ofNat 64 (numAt s 24 8), lossRegion := BitVec.ofNat 16 (numAt s 32 2),
    template := BitVec.ofNat 16 (numAt s 38 2),
    saves := (entriesAt s 64 16 saves).map readSave,
    peers := (entriesAt s (64 + 16 * saves) 16 (numAt s 36 2)).map readPeer }

/-! ## Lengths (R45) -/

/-- The length of `fixed` bytes and whole entries of `size` bytes that lies nearest below `n`; `fixed` at least. -/
def wholeEntries (n fixed size : Nat) : Nat := fixed + (n - fixed) / size * size

/-- The length that a section's own layout gives (R45); sections of fixed size have it from the check itself. -/
def layoutLen (x : PlanFields) (t : Nat) (s : List Byte) : Nat :=
  match t with
  | 0x02 => x.tideLen
  | 0x05 => wholeEntries s.length 0 16
  | 0x07 => wholeEntries s.length 9 8
  | 0x08 => wholeEntries s.length 0 8
  | 0x09 => x.scheduleLen
  | 0x0A => 64 + 16 * (numAt s 34 2 + numAt s 36 2)
  | 0x0B => x.escLen
  | 0x0C => wholeEntries s.length 0 16
  | 0x0D => x.traceLen
  | 0x0E => 4
  | 0x0F => Config.chainLen s
  | _ => s.length

/-! ## The plan -/

/-- The plan that the loader reads from the fetched bytes. A section that the directory does not name reads as
zeros; FORMAT refuses such a plan where the section is required. Log entry 23 (DESIGN CHOICE). -/
def readPlan (raw : List Byte) (x : PlanFields) : StandPlan :=
  let dir := readDir raw
  let sec (t : Nat) : List Byte := sectionOf raw dir t
  let has (t : Nat) : Bool := dir.any fun e => e.type.toNat == t
  let whole (t fixed size : Nat) : List (List Byte) := entriesAt (sec t) fixed size (((sec t).length - fixed) / size)
  { raw := raw, header := readHeader raw, dir := dir, paddingZero := paddingOk raw dir,
    layoutLens := dir.map fun e => layoutLen x e.type.toNat (sec e.type.toNat),
    device := readDevice (sec 1), tide := x.tide,
    clearings := (entriesAt (sec 3) 0 32 16).map readClearing,
    gangs := (List.range 12).map fun i => BitVec.ofNat 8 (numAt (sec 3) (512 + i) 1),
    carveouts := (entriesAt (sec 4) 0 192 17).map fun e => BitVec.ofNat 1536 (leVal e),
    regions := (whole 5 0 16).map readRegion,
    linkMode := BitVec.ofNat 8 (numAt (sec 6) 0 1),
    links := (entriesAt (sec 6) 1 12 64).map readLink,
    fractions := entriesAt (sec 6) 769 16 64,
    ownerMask := BitVec.ofNat 64 (numAt (sec 7) 0 8), quorum := BitVec.ofNat 8 (numAt (sec 7) 8 1),
    flows := (whole 7 9 8).map readFlow, keyPolicy := (whole 8 0 8).map readKey,
    templates := x.templates.map (readTemplate (sec 9)),
    strandline := if has 10 then some (readStrand (sec 10)) else none,
    escalation := if has 11 then x.escalation else none,
    claims := (whole 12 0 16).map readClaim,
    trace := if has 13 then x.trace else none,
    report := BitVec.ofNat 32 (numAt (sec 14) 0 4),
    signerKey := Config.sm3 (Config.chainKey (sec 15)), chainCerts := Config.chainCount (sec 15) }

/-- The bytes that the plan hash covers: from byte 0 up to the first byte of SIGNATURE (R46). -/
def hashedBytes (p : StandPlan) : List Byte :=
  match p.dir.find? fun e => e.type == 0xFF with
  | some e => p.raw.take e.offset.toNat
  | none => p.raw

/-- The plan hash (R46). -/
def planHash (p : StandPlan) : B256 := Config.sm3 (hashedBytes p)

/-- What verifying the fetched plan finds: the signature over the plan hash under the SIGNER key (R46), and whether
the chain reaches the plan authority root that the set enrolled with. -/
def planVerdict (p : StandPlan) (root : Option B256) : PlanVerdict :=
  let chain := sectionOf p.raw p.dir 15
  { sigOk := Config.sm2Verify (Config.chainKey chain) (planHash p) (sectionOf p.raw p.dir 255),
    chainOk := match root with
      | some r => Config.chainReaches chain (Config.rootHash r)
      | none => false,
    selfSigned := Config.chainSelfSigned chain }

end Sys2Proof.Machine
end

