-- ==== Sys2Proof/Machine/Operands.lean ====
section
/-! DEFINITION. The fields of a 64-byte command (R285), handles (R287, R291) and format codes
(R124). -/

namespace Sys2Proof.Machine
open Sys2Proof

/-- Bytes `b` to `b + n − 1` of a command, little-endian (R3). -/
def fld (raw : BitVec 512) (b n : Nat) : Nat := raw.toNat / 2 ^ (8 * b) % 2 ^ (8 * n)

/-! ## The header -/

def Cmd.opcode (c : Cmd) : Nat := fld c.raw 0 1
def Cmd.irq (c : Cmd) : Bool := (fld c.raw 1 1).testBit 0
def Cmd.barrier (c : Cmd) : Bool := (fld c.raw 1 1).testBit 1
def Cmd.context (c : Cmd) : BitVec 16 := BitVec.ofNat 16 (fld c.raw 2 2)
def Cmd.actId (c : Cmd) : BitVec 16 := BitVec.ofNat 16 (fld c.raw 4 2)
def Cmd.userTag (c : Cmd) : Word := BitVec.ofNat 32 (fld c.raw 8 4)
def Cmd.inst (c : Cmd) : Word := BitVec.ofNat 32 (fld c.raw 12 4)
def Cmd.word (c : Cmd) (b : Nat) : Word := BitVec.ofNat 32 (fld c.raw b 4)

/-- ACT_ID 0xFFFF: an unscheduled command (R283). Log entry 50 (DEDUCED). -/
def Cmd.unscheduled (c : Cmd) : Bool := c.actId == 0xFFFF

/-! ## Reserved fields (R285: reserved bytes must be 0) -/

/-- Bytes `b` to `b + n − 1` are 0. -/
def zeroBytes (raw : BitVec 512) (b n : Nat) : Bool := fld raw b n == 0

/-- The reserved bits and bytes of the header and of the opcode's body are 0. -/
def reservedZero (raw : BitVec 512) : Bool :=
  fld raw 1 1 / 4 == 0 && zeroBytes raw 6 2 &&
  match fld raw 0 1 with
  | 1 => fld raw 30 1 / 32 == 0 && fld raw 31 1 / 32 == 0 && fld raw 38 1 / 8 == 0
  | 2 => zeroBytes raw 29 1 && zeroBytes raw 32 32
  | 3 => zeroBytes raw 52 12
  | 4 => fld raw 18 1 / 8 == 0 && fld raw 19 1 / 16 == 0 && zeroBytes raw 54 10
  | 5 => zeroBytes raw 17 1 && zeroBytes raw 19 1 && zeroBytes raw 31 1 &&
      fld raw 18 1 / 8 == 0 && zeroBytes raw 40 24
  | 6 => zeroBytes raw 20 44
  | 7 => fld raw 20 1 / 2 == 0 && zeroBytes raw 21 43
  | 8 => zeroBytes raw 24 40
  | 9 => zeroBytes raw 20 44
  | 10 => fld raw 16 1 / 2 == 0 && zeroBytes raw 17 7 && zeroBytes raw 40 24
  | 11 => zeroBytes raw 26 2 && zeroBytes raw 44 20
  | _ => true

/-! ## Handles -/

def objIndex (h : Word) : Nat := h.toNat % 2 ^ 20
def objGen (h : Word) : BitVec 12 := h.extractLsb' 20 12
def objHandle (i : Nat) (g : BitVec 12) : Word := BitVec.ofNat 32 (2 ^ 20 * g.toNat + i)
def fenceIndex (h : Word) : Nat := h.toNat % 2 ^ 16
def fenceGen (h : Word) : BitVec 12 := h.extractLsb' 16 12
def fenceHandle (i : Nat) (g : BitVec 12) : Word := BitVec.ofNat 32 (2 ^ 16 * g.toNat + i)

/-- The handle names a LIVE object of its generation (decode check 6). -/
def Dev.liveHandle (d : Dev) (h : Word) : Bool :=
  (d.obj (objIndex h)).st == .live && (d.obj (objIndex h)).gen == objGen h

/-- The handle's object, held LIVE or RETIRING by the references of R289. -/
def Dev.heldHandle (d : Dev) (h : Word) : Bool :=
  (d.obj (objIndex h)).st != .free && (d.obj (objIndex h)).gen == objGen h

/-- The fence handle is current (R286 check 8). -/
def Dev.fenceCurrent (d : Dev) (h : Word) : Bool :=
  (d.fence (fenceIndex h)).alloc && (d.fence (fenceIndex h)).gen == fenceGen h &&
    h.toNat / 2 ^ 28 == 0

end Sys2Proof.Machine
end

