-- ==== Sys2Proof/Machine/Cmds.lean ====
section
/-! DEFINITION. The shared operations on commands in flight: completing one, aborting many,
signalling a fence, references of objects, and activities. -/

namespace Sys2Proof.Machine
open Sys2Proof

/-- Command `seq` of queue `q`, while it is fetched and not complete. -/
def Dev.cmd (d : Dev) (q : Nat) (seq : Word) : Option Cmd :=
  (d.queue q).cmds.find? fun c => c.seq == seq

def Dev.modCmd (d : Dev) (q : Nat) (seq : Word) (f : Cmd → Cmd) : Dev :=
  d.modQueue q fun u => { u with cmds := u.cmds.map fun c => if c.seq = seq then f c else c }

/-- Every fetched command that is not complete, with its queue. -/
def Dev.cmds (d : Dev) : List (Nat × Cmd) :=
  d.host.queues.flatMap fun p => p.2.cmds.map fun c => (p.1, c)

/-- Every earlier command of the queue has completed. -/
def Dev.earlierDone (d : Dev) (q : Nat) (seq : Word) : Bool :=
  match (d.queue q).cmds with
  | c :: _ => c.seq == seq
  | [] => true

/-- The first of two statuses in the order UNCORRECTABLE, INTEGRITY_LOST, TAMPER (R202); an
earlier status of another kind stands (R302). -/
def worse (a b : Status) : Status :=
  match a, b with
  | .ok, x => x
  | x, .ok => x
  | .uncorrectable, _ => .uncorrectable
  | .integrityLost, .uncorrectable => .uncorrectable
  | .tamper, .uncorrectable => .uncorrectable
  | .tamper, .integrityLost => .integrityLost
  | x, _ => x

/-! ## References (R289) -/

def Dev.addRefs (d : Dev) (hs : List Word) : Dev :=
  hs.foldl (fun d h => d.modObj (objIndex h) fun o => { o with refs := o.refs + 1 }) d

def Dev.dropRefs (d : Dev) (hs : List Word) : Dev :=
  hs.foldl (fun d h => d.modObj (objIndex h) fun o =>
    if o.gen = objGen h then { o with refs := o.refs - 1 } else o) d

/-! ## Activities (R34, R35, R351) -/

/-- The started run of an activity's instance. -/
def Dev.run (d : Dev) (a : BitVec 16) (i : Word) : Option ActRun :=
  d.sched.runs.find? fun r => r.act == a && r.inst == i

def Dev.modRun (d : Dev) (a : BitVec 16) (i : Word) (f : ActRun → ActRun) : Dev :=
  { d with sched := { d.sched with
      runs := d.sched.runs.map fun r => if r.act = a && r.inst = i then f r else r } }

/-- An instance that a reset has broken can no longer complete (R351). Log entry 7 (DEDUCED). -/
def Dev.deadAct (d : Dev) (a : BitVec 16) (i : Word) : Bool := d.sched.dead.contains (a, i)

/-- A reset aborts command `c`: its activity's instance can no longer complete (R351). -/
def Dev.breakAct (d : Dev) (c : Cmd) : Dev :=
  if c.unscheduled then d
  else { d with sched := { d.sched with dead := (c.actId, c.inst) :: d.sched.dead } }

/-- Commands of an activity's instance that have been decoded and have not completed.
Log entry 7 (DEDUCED). -/
def Dev.actBusy (d : Dev) (a : BitVec 16) (i : Word) : Bool :=
  d.cmds.any fun p => p.2.actId == a && p.2.inst == i && p.2.ph != .fetched

/-! ## Completing a command (R295, R297) -/

def Dev.completion (q : Nat) (c : Cmd) (st : Status) (det : Detail) (info : BitVec 64)
    (rank : BitVec 21) (ord : Nat) : Completion :=
  { queue := Fin.ofNat 4096 q, seq := c.seq, userTag := c.userTag, status := st, detail := det,
    context := c.context, opcode := BitVec.ofNat 8 c.opcode, source := c.src, info := info,
    rank := rank, irq := c.irq, ord := ord }

/-- The record of a completed command that still waits takes this outcome. -/
def Dev.amend (d : Dev) (q : Nat) (c : Cmd) (st : Status) (det : Detail) (info : BitVec 64) (rank : BitVec 21) :
    Dev :=
  let put (r : Completion) : Completion :=
    if r.queue.val = q && r.seq = c.seq then { r with status := st, detail := det, info := info, rank := rank }
    else r
  { d with host := { d.host with fifos := Tab.mod [] d.host.fifos c.src (·.map put) } }

/-- The record of a completed command enters its source's FIFO; its references end; its queue's
span notes a status other than OK (R292). A command that its own access has already ended, through the
TAMPER policy, has one record, with the access's outcome (R302). Log entry 36 (DEDUCED). -/
def Dev.completeCmd (d : Dev) (q : Nat) (c : Cmd) (st : Status) (det : Detail)
    (info : BitVec 64) (rank : BitVec 21) : Dev :=
  if (d.cmd q c.seq).isNone then d.amend q c st det info rank
  else
    let d := d.modQueue q fun u =>
      { u with cmds := u.cmds.filter (fun x => x.seq != c.seq),
               spanBad := u.spanBad || st != .ok }
    let d := d.dropRefs c.refs
    let r := Dev.completion q c st det info rank d.host.nextOrd
    { d with host := { d.host with
        fifos := Tab.mod [] d.host.fifos c.src (· ++ [r]), nextOrd := d.host.nextOrd + 1 } }

/-- An access of command `seq` failed, and its failure has ended the command: the record shows the failure.
Log entry 38 (DEDUCED). -/
def Dev.blame (d₀ d : Dev) (q : Nat) (seq : Word) (st : Status) (det : Detail) (info : BitVec 64)
    (rank : BitVec 21) : Dev :=
  match d₀.cmd q seq with
  | some c => if (d.cmd q seq).isNone then d.amend q c st det info rank else d
  | none => d

/-- Complete command `seq` of queue `q`, when it is in flight. -/
def Dev.finish (d : Dev) (q : Nat) (seq : Word) (st : Status) (det : Detail)
    (info : BitVec 64) : Dev :=
  match d.cmd q seq with
  | some c => d.completeCmd q c st det info 0
  | none => d

def Dev.finishOk (d : Dev) (q : Nat) (seq : Word) : Dev := d.finish q seq .ok .none 0

/-- Completion source FIFO entries in use: records that wait, and started commands that hold a
reserved entry (R297). Log entry 34 (DEDUCED). -/
def Dev.fifoUse (d : Dev) (src : Nat) : Nat :=
  (Tab.get [] d.host.fifos src).length +
    (d.cmds.filter fun p => p.2.src == src && (p.2.ph == .started || p.2.ph == .running)).length

/-! ## Launches and programs that a command runs -/

/-- The launch of a command. -/
def Dev.launchOf (d : Dev) (q : Nat) (seq : Word) : Option LaunchSt :=
  d.launches.find? fun l => l.queue.val == q && l.seq == seq

/-- A launch ends: its contexts are freed and zeroed, and its requests, set-engine operations and
vector blocks end with it. -/
def Dev.freeLaunch (d : Dev) (id : Nat) : Dev :=
  let gone (k : Nat) : Bool := (d.ctx k).launch == some id
  { d with
    launches := d.launches.filter fun l => l.id != id,
    mem := { d.mem with reqs := d.mem.reqs.filter fun r => !gone r.ctx },
    tiles := Tab.each TileSt.reset d.tiles fun _ x =>
      { x with
        setRun := match x.setq with
          | o :: _ => if gone o.ctx then none else x.setRun
          | [] => none,
        setq := x.setq.filter (fun o => !gone o.ctx),
        vecRun := match x.vecq with
          | b :: _ => if gone b.ctx then none else x.vecRun
          | [] => none,
        vecq := x.vecq.filter (fun b => !gone b.ctx) },
    ctxs := Tab.drop d.ctxs gone }

/-- The tile whose sequencer runs the program of a command. -/
def Dev.progTile (d : Dev) (q : Nat) (seq : Word) : Option Nat :=
  (d.tiles.find? fun p => match p.2.prog with
    | some g => g.queue.val == q && g.seq == seq
    | none => false).map (·.1)

def Dev.modProg (d : Dev) (t : Nat) (f : Prog → Prog) : Dev :=
  d.modTile t fun s => { s with prog := s.prog.map f }

def TileSt.setSlot (s : TileSt) (slot : Nat) (ws : List AW) : TileSt :=
  { s with acc := Tab.setRun 0 s.acc (1024 * slot) ws }

/-- Flights that are discarded leave their slots as they started: the start words, or fresh ones (R135, R353). -/
def Dev.discardFlights (d : Dev) (fs : List Flight) : Dev :=
  fs.foldl (fun d f => f.start.foldl (fun d x => d.modTile x.1 fun s => s.setSlot f.slot x.2) d) d

/-- Drop a program without waiting for its sweeps, as a reset does: their slots keep their start words (R353). -/
def Dev.dropProg (d : Dev) (t : Nat) : Dev :=
  (d.discardFlights (match (d.tile t).prog with | some g => g.flights | none => [])).modTile t
    fun s => { s with prog := none }

/-! ## Transfers over the links (R265–R270) -/

def Dev.coll (d : Dev) (c : Nat) : CollSlot := Tab.get CollSlot.reset d.lnk.colls c
def Dev.modColl (d : Dev) (c : Nat) (f : CollSlot → CollSlot) : Dev :=
  { d with lnk := { d.lnk with colls := Tab.mod CollSlot.reset d.lnk.colls c f } }

/-- A collector slot is zeroed and released: the release goes back to the sending device on the lowest
UP link to it (R222, R266). -/
def Dev.releaseSlot (d : Dev) (i : StageIn) : Dev :=
  let d := d.modColl i.slot.toNat fun _ => CollSlot.reset
  match d.lnk.links.find? fun p => p.2.st == .up && p.2.farAddr == i.addr with
  | some p => d.modLink p.1 fun k => { k with released := k.released ++ [i.slot] }
  | none => d

/-- A flit of the command; strandline flits, on virtual channel 2, belong to none. -/
def TxFlit.of (f : TxFlit) (q : Nat) (seq : Word) : Bool :=
  f.vc < 4 && f.vc != 2 && f.queue == q && f.cmdSeq == seq

/-- A command's flits that have not been sent leave the links. -/
def Dev.dropFlits (d : Dev) (q : Nat) (seq : Word) : Dev :=
  { d with lnk := { d.lnk with
      links := Tab.each Link.reset d.lnk.links fun _ k => { k with txq := k.txq.filter fun f => !f.of q seq } } }

/-- The transfer of a command. -/
def Dev.xfer (d : Dev) (q : Nat) (seq : Word) : Option Xfer :=
  d.lnk.xfers.find? fun x => x.queue.val == q && x.seq == seq

def Dev.modXfer (d : Dev) (q : Nat) (seq : Word) (f : Xfer → Xfer) : Dev :=
  { d with lnk := { d.lnk with
      xfers := d.lnk.xfers.map fun x => if x.queue.val == q && x.seq == seq then f x else x } }

/-- The collector slots that the schedule names for a command's stage and that no transfer's combining set
holds: a holding's that is out of service, or all of them where the command has no transfer. -/
def Dev.loneSlots (d : Dev) (q : Nat) (seq : Word) : List StageIn :=
  match d.cmd q seq with
  | none => []
  | some c =>
    if c.opcode = 4 || c.opcode = 5 then
      match d.activity c.actId with
      | some x => x.2.stage.ins.filter fun i => !d.lnk.xfers.any fun y => y.ins.any fun j => j.slot == i.slot
      | none => []
    else []

/-- The transfer of a command leaves, with its unsent flits; the slots outside every combining set are zeroed
(R222). -/
def Dev.closeXfer (d : Dev) (q : Nat) (seq : Word) : Dev :=
  let d := (d.loneSlots q seq).foldl Dev.releaseSlot d
  let d : Dev := { d with lnk := { d.lnk with
    xfers := d.lnk.xfers.filter fun y => !(y.queue.val == q && y.seq == seq) } }
  d.dropFlits q seq

/-- The transfer of a command stops: the slots of its combining set are zeroed too. -/
def Dev.dropXfer (d : Dev) (q : Nat) (seq : Word) : Dev :=
  let d := match d.xfer q seq with
    | none => d
    | some x => x.ins.foldl Dev.releaseSlot d
  d.closeXfer q seq

/-! ## Aborts (R137, R299) -/

/-- What stopped a command that is still ending, where something has: its failure was the first in time
(R302). Log entry 38 (DEDUCED). -/
def Dev.firstFailure (d : Dev) (q : Nat) (c : Cmd) : Option (Status × Detail × BitVec 64 × BitVec 21) :=
  match (d.progTile q c.seq).bind fun t => (d.tile t).prog, d.launchOf q c.seq with
  | some g, _ => if g.status = .ok then none else some (g.status, g.detail, g.info, 0)
  | none, some l => if l.ph = .stopping then some (l.status, l.detail, l.info, l.rank) else none
  | none, none => none

/-- Abort one command at once, with what runs it. Log entry 38 (DEDUCED). -/
def Dev.kill (d : Dev) (q : Nat) (c : Cmd) (st : Status) (det : Detail) : Dev :=
  let x := (d.firstFailure q c).getD (st, det, 0, 0)
  let d := match d.progTile q c.seq with
    | some t => d.dropProg t
    | none => d
  let d := match d.launchOf q c.seq with
    | some l => d.freeLaunch l.id
    | none => d
  (d.dropXfer q c.seq).completeCmd q c x.1 x.2.1 x.2.2.1 x.2.2.2

/-- A program stops: it issues nothing further, and its status is the first in time, or by the order of
R202. Log entry 38 (DEDUCED). -/
def Prog.stop (g : Prog) (st : Status) (det : Detail) (info : BitVec 64) : Prog :=
  if g.status = .ok || (g.status = st && g.info = 0) || worse g.status st ≠ g.status then
    { g with stopped := true, status := st, detail := det, info := info }
  else { g with stopped := true }

/-- Abort one command. A SWEEP_PROGRAM with sweeps or epilogues in flight issues
nothing further and completes when they end (R137); every other command ends at once.
Log entry 38 (DEDUCED). -/
def Dev.abort (d : Dev) (q : Nat) (c : Cmd) (st : Status) (det : Detail) : Dev :=
  match d.progTile q c.seq with
  | some t => match (d.tile t).prog with
    | some g =>
      if g.flights.isEmpty && g.epilogues.isEmpty then d.kill q c st det
      else d.modProg t fun g => g.stop st det 0
    | none => d.kill q c st det
  | none => d.kill q c st det

/-- Abort every command that `p` picks, in queue and ring order. Log entry 38 (DEDUCED). -/
def Dev.abortWhere (d : Dev) (p : Nat → Cmd → Bool) (st : Status) (det : Detail) : Dev :=
  (d.cmds.filter fun x => p x.1 x.2).foldl (fun d x => d.abort x.1 x.2 st det) d

/-- As `abortWhere`, without waiting for sweeps: what a reset does. Log entry 38 (DEDUCED). -/
def Dev.killWhere (d : Dev) (p : Nat → Cmd → Bool) (st : Status) (det : Detail) : Dev :=
  (d.cmds.filter fun x => p x.1 x.2).foldl (fun d x => d.kill x.1 x.2 st det) d

/-- The commands of clearing `n`. -/
def Dev.ofClr (d : Dev) (n : Nat) (q : Nat) (_ : Cmd) : Bool := d.queueClr q == some n

/-! ## Fences (R292, R293) -/

/-- Complete a FENCE_WAIT whose fence is signalled, and stop its queue when it asks (R293). -/
def Dev.completeWait (d : Dev) (q : Nat) (c : Cmd) (status : BitVec 2) : Dev :=
  if status = 0 then d.completeCmd q c .ok .none 0 0
  else
    let det : Detail := if status = 1 then .fenceAbandoned else .fenceError
    let d := d.completeCmd q c .aborted det 0 0
    if (fld c.raw 20 1).testBit 0 && (d.queue q).st == .running then
      (d.modQueue q fun u => { u with st := .stopped }).raise .dbl 2
    else d

/-- The running FENCE_WAITs on a fence handle. -/
def Dev.waiters (d : Dev) (h : Word) : List (Nat × Cmd) :=
  d.cmds.filter fun p => p.2.opcode == 7 && p.2.ph == .running && p.2.word 16 == h

/-- Fence `f` becomes SIGNALLED with a status, and its waiters complete. -/
def Dev.signalFence (d : Dev) (f : Nat) (status : BitVec 2) : Dev :=
  let h := fenceHandle f (d.fence f).gen
  let d := d.modFence f fun x => { x with sig := true, status := status }
  (d.waiters h).foldl (fun d p => d.completeWait p.1 p.2 status) d

/-! ## Draining queues (R300) -/

/-- A queue has no command in flight and no record that waits. -/
def Dev.drained (d : Dev) (q : Nat) : Bool :=
  (d.queue q).cmds.isEmpty && d.host.fifos.all fun f => f.2.all (·.queue.val != q)

/-- A DRAINING queue is DISABLED once its last completion is posted (DBL_EVENT.QUEUE_DISABLED). -/
def Dev.settle (d : Dev) (q : Nat) : Dev :=
  if (d.queue q).st == .draining && d.drained q then
    (d.modQueue q fun u => { u with st := .disabled }).raise .dbl 6
  else d

/-- A queue is disabled: fetching stops and its commands abort. -/
def Dev.disableQueue (d : Dev) (q : Nat) (det : Detail) : Dev :=
  if (d.queue q).st == .disabled then d
  else
    let d := d.modQueue q fun u => { u with st := .draining }
    (d.abortWhere (fun x _ => x == q) .aborted det).settle q

/-! ## Halting clearings -/

/-- A clearing halts: its commands complete with the status, and an ACTIVE clearing shows the new
state (a HALTED one may still become CONTAINED). -/
def Dev.haltClr (d : Dev) (n : Nat) (show_ : ClrSt) (st : Status) (det : Detail) : Dev :=
  let d := d.modClr n fun c =>
    if c.st = .active || (c.st = .halted && show_ = .contained) then { c with st := show_ } else c
  d.abortWhere (d.ofClr n) st det

/-- Every clearing halts, and its commands complete with the status. -/
def Dev.haltAll (d : Dev) (st : Status) (det : Detail) : Dev :=
  (List.range 16).foldl (fun d n => d.haltClr n .halted st det) d

end Sys2Proof.Machine
end

