-- ==== Sys2Proof/Machine/Geometry.lean ====
section
/-! DEFINITION. Where things lie: regions, the interleave over granules and the home die
(R166, R169–R173), the tag units, and the way partition (R174). -/

namespace Sys2Proof

/-- The REGIONS descriptors of frame `f` (a clearing, or 16 for the strandline reserve), in plan
order. -/
def StandPlan.regionsOf (p : StandPlan) (f : Nat) : List PlanRegion :=
  p.regions.filter fun r => r.clearing.toNat == f

def StandPlan.region (p : StandPlan) (f r : Nat) : Option PlanRegion := (p.regionsOf f)[r]?

/-- The granules of mask `f`, ascending (R50). -/
def StandPlan.granules (p : StandPlan) (f : Nat) : List Nat :=
  match p.carveouts[f]? with
  | some m => bitsBelow m.toNat 1536
  | none => []
where
  bitsBelow (v n : Nat) : List Nat := (List.range n).filter (fun i => v.testBit i)

/-- The granules of a region: FIRST and COUNT within the ascending list (R51). -/
def StandPlan.regionGranules (p : StandPlan) (f : Nat) (r : PlanRegion) : List Nat :=
  ((p.granules f).drop r.first.toNat).take r.count.toNat

/-- The sort key of the interleave order (R171). -/
def granuleKey (g : Nat) : Nat := 16 * (g % 96) + g / 96

def insertGranule (g : Nat) : List Nat → List Nat
  | [] => [g]
  | x :: xs => if granuleKey g ≤ granuleKey x then g :: x :: xs else x :: insertGranule g xs

/-- The interleave order of a region's granules (R171). -/
def interleave (gs : List Nat) : List Nat := gs.foldr insertGranule []

/-- Data space per granule in MiB (R169). -/
def PlanRegion.dataMiB (r : PlanRegion) : Nat :=
  match r.mode.toNat, r.sector.toNat with
  | 0, 0 => 894 | 0, _ => 764
  | 1, 0 => 960 | 1, _ => 896
  | _, _ => 1024

/-- Bytes of the region's data space. -/
def PlanRegion.dataBytes (r : PlanRegion) : Nat := 2 ^ 20 * (r.dataMiB * r.count.toNat)

/-- Bytes of a unit: a line, or a sector in a region with SECTOR (chapter 09). -/
def PlanRegion.unit (r : PlanRegion) : Nat := if r.sector = 0 then 64 else 32

/-- The physical byte g·2^30 + GO of region address `ra` (R171). -/
def locateIn (order : List Nat) (ra : Nat) : Option Nat :=
  let n := order.length
  if n = 0 then none
  else
    let c := ra / 4096
    (order[c % n]?).map fun g => 2 ^ 30 * g + 4096 * (c / n) + ra % 4096

def StandPlan.locate (p : StandPlan) (f r ra : Nat) : Option Nat :=
  (p.region f r).bind fun d => locateIn (interleave (p.regionGranules f d)) ra

/-! ## The layout of the metadata (R192) -/

/-- Bytes of a tag, and the units whose tags fill a tag line. -/
def PlanRegion.tagBytes (r : PlanRegion) : Nat := if r.mode = 1 then 4 else 8
def PlanRegion.lineUnits (r : PlanRegion) : Nat := 64 / r.tagBytes

/-- Nodes of each level of the tree: level 1 counts tag lines, every further one nodes. -/
def PlanRegion.levelNodes (r : PlanRegion) : Nat → Nat
  | 0 => r.dataBytes / r.unit / 8
  | k + 1 => (r.levelNodes k + 63) / 64

/-- The top level: the first with at most 64 nodes. -/
def PlanRegion.topLevel (r : PlanRegion) : Nat :=
  ((List.range 5).find? fun k => decide (r.levelNodes (k + 1) ≤ 64)).getD 4 + 1

/-- The region address of a unit's tag, of the tree area and of a node of a level. -/
def PlanRegion.tagAddr (r : PlanRegion) (ra : Nat) : Nat := r.dataBytes + ra / r.unit * r.tagBytes
def PlanRegion.treeBase (r : PlanRegion) : Nat :=
  r.dataBytes + 2 ^ 20 * ((if r.sector = 0 then 128 else 256) * r.count.toNat)
def PlanRegion.nodeAddr (r : PlanRegion) (k i : Nat) : Nat :=
  r.treeBase + 64 * (((List.range (k - 1)).map fun j => r.levelNodes (j + 1)).foldl (· + ·) 0 + i)

/-- The region address of a metadata line: a tag line (level 0) or a node. -/
def PlanRegion.metaAddr (r : PlanRegion) (level i : Nat) : Nat :=
  if level = 0 then r.dataBytes + 64 * i else r.nodeAddr level i

/-- The index of the tag line or node of a level that covers a region address. -/
def PlanRegion.metaIdx (r : PlanRegion) (level ra : Nat) : Nat := ra / r.unit / r.lineUnits / 64 ^ level

/-- Data bytes below a tag line or node of a level. -/
def PlanRegion.metaSpan (r : PlanRegion) (level : Nat) : Nat := r.lineUnits * 64 ^ level * r.unit

/-- The levels, from the tag line up, that a unit of the region is verified through (chapter 09). -/
def PlanRegion.metaLevels (r : PlanRegion) : List Nat :=
  if r.mode = 2 then [] else if r.mode = 1 then [0] else List.range (r.topLevel + 1)

/-- What the line at a region address is: the level, 0 for a tag line, and its index; none for a data line. -/
def PlanRegion.metaLineAt (r : PlanRegion) (ra : Nat) : Option (Nat × Nat) :=
  if ra < r.dataBytes || r.mode = 2 then none
  else if r.mode = 1 || ra < r.treeBase then some (0, (ra - r.dataBytes) / 64)
  else go ((ra - r.treeBase) / 64) r.topLevel 1
where
  go (i : Nat) : Nat → Nat → Option (Nat × Nat)
    | 0, _ => none
    | fuel + 1, k => if i < r.levelNodes k then some (k, i) else go (i - r.levelNodes k) fuel (k + 1)

/-! ## In the stacks -/

/-- The stack and the stack address of a physical byte (R171). -/
def stackOf (pa : Nat) : Nat := pa / 2 ^ 30 / 96
def stackAddr (pa : Nat) : Nat := 2 ^ 30 * (pa / 2 ^ 30 % 96) + pa % 2 ^ 30

/-- The physical byte of a stack address. -/
def physOf (s sa : Nat) : Nat := 2 ^ 30 * (96 * s + sa / 2 ^ 30) + sa % 2 ^ 30

/-- A stack has 96 GiB (R164). -/
def stackSize : Nat := 96 * 2 ^ 30

/-- The in-stack parts of a stack address (R172): pseudo-channel, bank, row, pair. -/
def saPseudoChannel (sa : Nat) : Nat := (sa / 2 ^ 7 % 64) ^^^ (sa / 2 ^ 16 % 64)
def saBank (sa : Nat) : Nat := (sa / 2 ^ 16 % 64) ^^^ (sa / 2 ^ 22 % 64)
def saRow (sa : Nat) : Nat := sa / 2 ^ 22
def saPair (sa : Nat) : Nat := sa / 2 ^ 13 % 8

/-- The compute dies on which a clearing holds tiles, ascending. -/
def diesOf (tiles : Nat) : List Nat :=
  (List.range 4).filter fun n => tiles / 2 ^ (24 * n) % 2 ^ 24 != 0

/-- The home die of a line on stack `s` for a clearing with these tiles (R166). -/
def homeDie (tiles s : Nat) : Nat :=
  let ds := diesOf tiles
  if ds.contains (s / 4) then s / 4 else (ds[s % ds.length]?).getD (s / 4)

/-- Home slice and set of a 128-byte line number (R173). -/
def sliceOf (p : Nat) : Nat :=
  (p % 32) ^^^ (p / 2 ^ 5 % 32) ^^^ (p / 2 ^ 10 % 32) ^^^ (p / 2 ^ 15 % 32) ^^^ (p / 2 ^ 20 % 32)
    ^^^ (p / 2 ^ 25 % 32) ^^^ (p / 2 ^ 30 % 16)
def setOf (p : Nat) : Nat := p / 2 ^ 5 % 1024

/-- Ways per slice that clearing `n` receives on a die (R174). -/
def StandPlan.waysOf (p : StandPlan) (n die : Nat) : Nat :=
  let t (c : Nat) : Nat :=
    match p.clr c with
    | some d => popcount (d.tiles.toNat / 2 ^ (24 * die) % 2 ^ 24) 24
    | none => 0
  let cs := (List.range 16).filter fun c => t c != 0
  let k := cs.length
  let total := (cs.map t).foldl (· + ·) 0
  if !cs.contains n then 0
  else
    let w (c : Nat) : Nat := 1 + (16 - k) * t c / total
    let left := 16 - (cs.map w).foldl (· + ·) 0
    w n + (if ((cs.takeWhile (· != n)).length < left) then 1 else 0)
where
  popcount (v n : Nat) : Nat := ((List.range n).filter fun i => v.testBit i).length

end Sys2Proof

namespace Sys2Proof.Machine
open Sys2Proof

/-- Region `r` of frame `f` in the active plan. -/
def Dev.planRegion (d : Dev) (f r : Nat) : Option PlanRegion :=
  d.plan.active.bind fun p => p.region f r

/-- The physical byte of a region address under the active plan. -/
def Dev.phys (d : Dev) (f r ra : Nat) : Option Nat := d.plan.active.bind fun p => p.locate f r ra

/-- The frame, region and region address of a physical byte under the active plan. -/
def Dev.findPa (d : Dev) (pa : Nat) : Option (Nat × Nat × Nat × PlanRegion) :=
  let g := pa / 2 ^ 30
  match d.plan.active with
  | none => none
  | some p => (List.range 17).findSome? fun f => (p.regionsOf f).zipIdx.findSome? fun x =>
      let order := interleave (p.regionGranules f x.1)
      (order.findIdx? (· == g)).map fun i =>
        (f, x.2, 4096 * (pa % 2 ^ 30 / 4096 * order.length + i) + pa % 4096, x.1)

/-- The frame's owner: its clearing's, or 0 for the strandline reserve. -/
def Dev.frameOwner (d : Dev) (f : Nat) : BitVec 6 := if f < 16 then d.ownerOf f else 0

/-- The home die of a physical byte of frame `f` (R166). -/
def Dev.homeOf (d : Dev) (f pa : Nat) : Nat :=
  match d.planClr f with
  | some c => homeDie c.tiles.toNat (stackOf pa)
  | none => stackOf pa / 4

/-- The home die of the object's first line, which names its copy source (R285). -/
def Dev.copySource (d : Dev) (h : Word) : Nat :=
  let o := d.obj (objIndex h)
  match d.phys o.clearing.toNat o.region.toNat o.base with
  | some pa => 96 + d.homeOf o.clearing.toNat pa
  | none => 104

end Sys2Proof.Machine
end

