-- ==== Sys2Proof/Machine/KeyOps.lean ====
section
/-! DEFINITION. The shared operations on the key table: check values, memory pairs, destroying
slots, bindings (R213–R219, R243) and measuring clearings (R235). -/

namespace Sys2Proof.Machine
open Sys2Proof

/-- The key check value (R213): the first three bytes of SM3("VX-KCV" ‖ key bytes). -/
def kcvOf (k : B256) (len : Nat) : BitVec 24 :=
  (Config.sm3 (ascii "VX-KCV" ++ strBytes k len)).extractLsb' 232 24

/-- A key's length by attribute: 16 bytes for E, D and W, 32 for K (R212). -/
def keyLenOf (attr : BitVec 2) : Nat := if attr = 3 then 32 else 16

/-! ## Which slots a plan names -/

/-- The slots that the KEY_POLICY entries of clearing `n` name, ascending. -/
def policySlots (p : StandPlan) (n : Nat) : List Nat :=
  (List.range 256).filter fun s => p.keyPolicy.any fun e =>
    e.clearing.toNat == n && e.slotFirst.toNat ≤ s && s < e.slotFirst.toNat + e.slotCount.toNat

/-- Some KEY_POLICY entry of the plan names slot `s`. -/
def slotNamed (p : StandPlan) (s : Nat) : Bool :=
  p.keyPolicy.any fun e =>
    e.slotFirst.toNat ≤ s && s < e.slotFirst.toNat + e.slotCount.toNat

/-- The lowest loaded slot of the frame with an attribute: of the clearing's policy slots whose
owner is the clearing's (R187), or system slot 3 (E) or 4 (D) for the reserve (R325). -/
def Dev.keySlot (d : Dev) (f : Nat) (attr : BitVec 2) : Option Nat :=
  if f < 16 then
    match d.plan.active with
    | some p => (policySlots p f).find? fun s =>
        let x := d.slot s
        x.loaded && !x.held && x.attr == attr && x.owner == d.ownerOf f
    | none => none
  else
    let s := if attr = 0 then 3 else 4
    if (d.slot s).loaded then some s else none

/-- The memory pair of a frame holds keys (R188). -/
def Dev.pairLoaded (d : Dev) (f : Nat) : Bool := (d.keySlot f 0).isSome && (d.keySlot f 1).isSome

/-- The checks of R188 for an access by clearing `by_` to frame `f`: both slots of the pair hold
keys and the slot used admits the requester. -/
def Dev.keyAllows (d : Dev) (f by_ : Nat) (write : Bool) : Bool :=
  match d.keySlot f 0, d.keySlot f 1 with
  | some e, some o =>
    if 16 ≤ f then true
    else if write then (d.slot e).mask.getLsbD by_ else (d.slot o).mask.getLsbD by_
  | _, _ => false

/-! ## Bindings (R215) -/

/-- A READ_GRANT of the plan names clearing `n` as its holding. -/
def granted (p : StandPlan) (n : Nat) : Bool :=
  p.flows.any fun f => f.kind == 1 && f.dst.toNat == n

/-- A READ_GRANT of the active plan from clearing `src` to clearing `dst`. -/
def Dev.readGrant (d : Dev) (src dst : Nat) : Bool :=
  match d.plan.active with
  | some p => p.flows.any fun f => f.kind == 1 && f.src.toNat == src && f.dst.toNat == dst
  | none => false

/-- OWNER and MASK of a key fit the plan (R215). -/
def bindingFits (p : StandPlan) (attr : BitVec 2) (owner : BitVec 6) (mask : BitVec 16) : Bool :=
  (List.range 16).all fun n =>
    if mask.getLsbD n then
      match p.clr n with
      | some c => c.owner == owner || (attr == 1 && owner == 0 && granted p n)
      | none => false
    else true

/-! ## Measuring clearings (R235) -/

def PlanClearing.bytes (c : PlanClearing) : List Byte :=
  [c.index, BitVec.ofNat 8 (c.owner.toNat + 128 * b2n c.valid), c.arith, 0] ++
    leBytes 12 c.tiles.toNat ++ leBytes 2 c.queueBase.toNat ++ leBytes 2 c.queueCount.toNat ++
    leBytes 4 c.flags.toNat ++ zeros 8

def PlanRegion.bytes (r : PlanRegion) : List Byte :=
  [r.clearing, r.mode, r.sector, 0] ++ leBytes 4 r.first.toNat ++ leBytes 4 r.count.toNat ++ zeros 4

def PlanFlow.bytes (f : PlanFlow) : List Byte :=
  [f.src, f.dst, f.kind, 0] ++ leBytes 2 f.contributors.toNat ++ zeros 2

def PlanKey.bytes (k : PlanKey) : List Byte :=
  [k.clearing, k.slotFirst, k.slotCount, k.source] ++ leBytes 2 k.bundleId.toNat ++
    leBytes 2 k.rekeySteps.toNat

/-- The flow names clearing `n`: as source, destination or contributor. -/
def PlanFlow.names (f : PlanFlow) (n : Nat) : Bool :=
  f.src.toNat == n || f.dst.toNat == n || f.contributors.getLsbD n

def slotRecord (s : Nat) (x : Slot) : List Byte :=
  [BitVec.ofNat 8 s, x.attr.setWidth 8, x.owner.setWidth 8, x.source.setWidth 8] ++
    leBytes 2 x.mask.toNat ++ leBytes 2 x.gen.toNat ++ beBytes 3 x.kcv.toNat ++ zeros 5

/-- MEASURE of clearing `n`: SM3 over the bytes that R235 lists. -/
def Dev.measureOf (d : Dev) (p : StandPlan) (n : Nat) : B256 :=
  match p.clr n with
  | none => 0
  | some c => Config.sm3 (PlanClearing.bytes c ++ leBytes 192 ((p.carveouts[n]?).getD 0).toNat ++
      (p.regionsOf n).flatMap PlanRegion.bytes ++
      (p.flows.filter (PlanFlow.names · n)).flatMap PlanFlow.bytes ++
      (p.keyPolicy.filter (·.clearing.toNat == n)).flatMap PlanKey.bytes ++
      (policySlots p n).flatMap fun s => slotRecord s (d.slot s))

/-- Re-measure clearing `n`. -/
def Dev.remeasure (d : Dev) (n : Nat) : Dev :=
  match d.plan.active with
  | some p => d.modClr n fun c => { c with measure := d.measureOf p n }
  | none => d

/-- Re-measure every clearing whose KEY_POLICY names slot `s`. -/
def Dev.remeasureSlot (d : Dev) (s : Nat) : Dev :=
  match d.plan.active with
  | some p => (List.range 16).foldl
      (fun d n => if (policySlots p n).contains s then d.remeasure n else d) d
  | none => d

/-! ## Destroying slots (R219, R243) -/

/-- A slot's key and shadow are destroyed and a pending swap is cancelled; GEN stays (R212). -/
def Dev.wipeSlot (d : Dev) (s : Nat) : Dev :=
  let pend := (d.slot s).swapPos.isSome
  let d := d.modSlot s fun x => { Slot.reset with gen := x.gen }
  (d.raiseIf pend .sec 3).remeasureSlot s

/-- Destruction other than by DESTROY raises KEY_DESTROYED (R243). -/
def Dev.destroySlot (d : Dev) (s : Nat) : Dev :=
  if (d.slot s).loaded || (d.slot s).shadow.isSome then (d.wipeSlot s).raise .sec 4 else d

/-- Every slot that `p` picks is destroyed. -/
def Dev.destroySlots (d : Dev) (p : Nat → Slot → Bool) : Dev :=
  (d.sec.slots.filter fun x => p x.1 x.2).foldl (fun d x => d.destroySlot x.1) d

/-- Remove a clearing from its old owner's slots (step 2 of R207): its MASK bit clears, and a slot
that then names no clearing is destroyed. -/
def Dev.leaveSlots (d : Dev) (n : Nat) (owner : BitVec 6) : Dev :=
  (d.sec.slots.filter fun x =>
      16 ≤ x.1 && x.2.mask.getLsbD n && !x.2.held && x.2.owner == owner).foldl
    (fun d x =>
      let d := d.modSlot x.1 fun y => { y with mask := clrBit y.mask n }
      if (d.slot x.1).mask = 0 then d.destroySlot x.1 else d.remeasureSlot x.1) d

/-- The set key and membership are destroyed (R229). -/
def Dev.leaveSet (d : Dev) : Dev :=
  let d : Dev := ({ d with sec := { d.sec with member := none } } : Dev).raiseIf d.sec.member.isSome .sec 5
  d.destroySlots fun s _ => s < 16

end Sys2Proof.Machine
end

