-- ==== Sys2Proof/Machine/Sealed.lean ====
section
/-! DEFINITION. Sealed memory as it lies in the stacks (chapter 09): engine keys, counter blocks, keystream and MACs
(R189, R190, R217), tags, the counter tree and its addresses (R191–R194), the metadata cache (R196), and the code of
the base dies (R180). `Mem.hbm` holds what the lines decipher to; the stored bytes are computed here from it and from
the counters. Log entry 119 (DESIGN CHOICE). -/

namespace Sys2Proof.Machine
open Sys2Proof

/-! ## Units -/

/-- The key of the tag unit that holds a physical byte: the 32-byte block, or the first block of
the 64-byte line where the region has no SECTOR. -/
def unitKey (unit pa : Nat) : Nat := if unit = 32 then pa / 32 else pa / 64 * 2

def Dev.unitMeta (d : Dev) (k : Nat) : UnitMeta := Tab.get UnitMeta.reset d.mem.meta_ k
def Dev.modUnit (d : Dev) (k : Nat) (f : UnitMeta → UnitMeta) : Dev :=
  { d with mem := { d.mem with meta_ := Tab.mod UnitMeta.reset d.mem.meta_ k f } }

/-- The tag fields of unit `k` of a region: its own counters, or those of the region's base. -/
def Dev.metaAt (d : Dev) (f r k : Nat) : UnitMeta :=
  let u := d.unitMeta k
  if u.own then u else { (d.region (regKey f r)).base with cause := u.cause, dead := u.dead }

/-- The unit's counters become its own. -/
def Dev.setMeta (d : Dev) (f r k : Nat) (g : UnitMeta → UnitMeta) : Dev :=
  let u := g (d.metaAt f r k)
  d.modUnit k fun _ => { u with own := true }

/-- The renewal that a region was asked for has met a mark (R198). -/
def Dev.renewDue (d : Dev) (f r : Nat) : Bool :=
  let x := d.region (regKey f r)
  x.renew && d.tide.count != x.renewAt

/-- The epoch of a region: one more from the mark at which its renewal takes effect. -/
def Dev.epochOf (d : Dev) (f r : Nat) : BitVec 50 :=
  let e := (d.region (regKey f r)).epoch
  if d.renewDue f r then e + 1 else e

/-- The epoch that a unit's EPB names: E where it equals E mod 2, else E − 1 (R197). -/
def epochFrom (e : Nat) (epb : Bool) : Nat := if (e % 2 == 1) == epb then e else e - 1

/-! ## Engine keys, counter blocks and keystream (R189, R217) -/

/-- The key K of a region under a slot key. -/
def engineKeyOf (slotKey : B256) (dev f r : Nat) (salt : DWord) : BitVec 128 :=
  firstHalf (Config.sm3 (strBytes slotKey 16 ++ ascii "VX-MEMK" ++ leBytes 3 dev ++ [BitVec.ofNat 8 f] ++
    leBytes 2 r ++ leBytes 8 salt.toNat))

/-- The device's address in counter blocks and engine keys: its membership's, or the address of a BENCH plan (R228). -/
def Dev.memAddr (d : Dev) : BitVec 20 :=
  match d.sec.member with
  | some m => m.addr
  | none => d.sec.benchAddr

/-- The slot key of a frame's pair for a KG: the current one, or the outgoing one in the shadow (R200, R218). -/
def Dev.pairKey (d : Dev) (f : Nat) (attr : BitVec 2) (kg : Bool) : Option B256 :=
  (d.keySlot f attr).bind fun s =>
    let x := d.slot s
    if kg = (d.frame f).kg then some x.key
    else if x.outgoing then x.shadow.map (·.key) else none

def Dev.engineKey (d : Dev) (f r : Nat) (attr : BitVec 2) (kg : Bool) : Option (BitVec 128) :=
  let x := d.region (regKey f r)
  if x.formed then (d.pairKey f attr kg).map fun k => engineKeyOf k d.memAddr.toNat f r x.salt else none

/-- The fields of a counter block. -/
structure Counter where
  b     : Nat
  pl    : Nat
  dev   : Nat
  owner : Nat
  pad   : Bool
  minor : Nat
  mode  : Nat
  loc   : Nat
  high  : Nat
deriving DecidableEq, Repr

def Counter.block (c : Counter) : BitVec 128 :=
  BitVec.ofNat 128 (c.b + 2 ^ 2 * c.pl + 2 ^ 37 * c.dev + 2 ^ 57 * c.owner + 2 ^ 63 * b2n c.pad + 2 ^ 64 * c.minor +
    2 ^ 70 * c.mode + 2 ^ 72 * c.loc + 2 ^ 78 * c.high)

/-- The counters of a node, and of the root. -/
def Dev.node (d : Dev) (f r : Nat) (rg : PlanRegion) (level i : Nat) : NodeSt :=
  let x := d.region (regKey f r)
  if rg.topLevel < level then x.root else Tab.get NodeSt.reset x.nodes (8 * i + level)

/-- The counter of a unit's keystream: its LOCAL and its leaf's MAJOR, its WCNT and the epoch that its EPB names, or
the region's epoch alone. -/
def Dev.unitCounter (d : Dev) (f r : Nat) (rg : PlanRegion) (ra pa : Nat) : Counter :=
  let u := d.metaAt f r (unitKey rg.unit pa)
  let c : Counter :=
    { b := 0, pl := pa / 64, dev := d.memAddr.toNat, owner := (d.frameOwner f).toNat, pad := false, minor := 0,
      mode := rg.mode.toNat + 1, loc := 0, high := (d.epochOf f r).toNat }
  if rg.mode = 0 then { c with loc := u.loc.toNat, high := (d.node f r rg 1 (rg.metaIdx 1 ra)).major.toNat }
  else if rg.mode = 1 then
    { c with loc := u.wcnt.toNat, high := epochFrom (d.epochOf f r).toNat (u.epoch.getLsbD 0) }
  else c

/-- The keystream of a unit: four blocks of a line, or the two of a sector. -/
def keystream (key : BitVec 128) (c : Counter) (unit pa : Nat) : List Byte :=
  let first := if unit = 32 then pa % 64 / 32 * 2 else 0
  (List.range (unit / 16)).flatMap fun i => blockBytes (Config.sm4 key { c with b := first + i }.block)

/-! ## MACs (R190) -/

/-- The 64-bit words of a byte string, little-endian. -/
def wordsOf (bs : List Byte) : List DWord :=
  (List.range (bs.length / 8)).map fun i => BitVec.ofNat 64 (leVal ((bs.drop (8 * i)).take 8))

/-- The pad P of a counter, and the tag T of bytes under it. -/
def macPad (key : BitVec 128) (c : Counter) : DWord := (Config.sm4 key { c with pad := true }.block).extractLsb' 64 64
def macOf (key : BitVec 128) (c : Counter) (bytes : List Byte) : DWord :=
  let h := (Config.sm4 key 0).extractLsb' 64 64
  gf64Hash h (wordsOf bytes ++ [BitVec.ofNat 64 (c.owner + 2 ^ 6 * c.mode)]) ^^^ macPad key c

/-- A stored tag under a new counter, without the data. -/
def rePad (key : BitVec 128) (old new : Counter) (t : DWord) : DWord := t ^^^ macPad key old ^^^ macPad key new

/-- Bits of the MAC that a mode stores. -/
def macBits (mode : Byte) : Nat := if mode = 1 then 26 else 56

/-- The pad counter of a unit: its sector index, and the MINOR of its tag line's slot. -/
def Dev.macCounter (d : Dev) (f r : Nat) (rg : PlanRegion) (ra pa : Nat) : Counter :=
  let c := d.unitCounter f r rg ra pa
  let slot := rg.metaIdx 0 ra
  { c with
    b := if rg.unit = 32 then pa % 64 / 32 else 0,
    minor := if rg.mode = 0 then (Tab.get 0 (d.node f r rg 1 (slot / 64)).minors (slot % 64)).toNat else 0 }

/-- The bytes of a unit as the stack stores them. -/
def Dev.storedUnit (d : Dev) (f r : Nat) (rg : PlanRegion) (ra pa : Nat) (key : BitVec 128) : List Byte :=
  let plain := (List.range rg.unit).map fun i => (Tab.get none d.mem.hbm (pa + i)).getD (Config.freeByte d.free (pa + i))
  xorBytes plain (keystream key (d.unitCounter f r rg ra pa) rg.unit pa)

/-- The part of a line's flaw that lies in the unit at a physical byte. -/
def Dev.unitFlaw (d : Dev) (unit pa : Nat) : BitVec 512 :=
  let x := Tab.get 0 d.mem.flaws (pa / 64)
  if unit = 32 then (x >>> (256 * (pa % 64 / 32))) &&& (BitVec.ofNat 512 (2 ^ 256 - 1)) else x

/-- The tag of a unit's stored bytes, with an exclusive or of them that the engine reads instead. -/
def Dev.unitTag (d : Dev) (f r : Nat) (rg : PlanRegion) (ra pa : Nat) (key : BitVec 128) (flaw : BitVec 512) : Nat :=
  (macOf key (d.macCounter f r rg ra pa)
    (xorBytes (d.storedUnit f r rg ra pa key) (leBytes 64 flaw.toNat))).toNat % 2 ^ macBits rg.mode

/-- The tag word of a unit (R191): MAC or cause, LOCAL or WCNT and EPB, KG and POISON. -/
def Dev.tagWord (d : Dev) (f r : Nat) (rg : PlanRegion) (ra pa : Nat) (key : BitVec 128) : Nat :=
  let u := d.metaAt f r (unitKey rg.unit pa)
  let mac := if u.cause = 0 then d.unitTag f r rg ra pa key 0 else u.cause.toNat
  if rg.mode = 0 then mac + 2 ^ 56 * u.loc.toNat + 2 ^ 62 * b2n u.kg + 2 ^ 63 * b2n (u.cause != 0)
  else mac + 2 ^ 26 * u.wcnt.toNat + 2 ^ 29 * b2n (u.epoch.getLsbD 0) + 2 ^ 30 * b2n u.kg + 2 ^ 31 * b2n (u.cause != 0)

/-- The 64 bytes of a tag line, in unit order. -/
def Dev.tagLine (d : Dev) (f r : Nat) (rg : PlanRegion) (line : Nat) (key : Bool → Option (BitVec 128)) : List Byte :=
  (List.range rg.lineUnits).flatMap fun i =>
    let ra := (line * rg.lineUnits + i) * rg.unit
    leBytes rg.tagBytes (match d.phys f r ra with
      | some pa => d.tagWord f r rg ra pa ((key (d.metaAt f r (unitKey rg.unit pa)).kg).getD 0)
      | none => 0)

/-- A tree node as a number of 512 bits (R193), with a MAC. -/
def NodeSt.word (x : NodeSt) (mac : Nat) : Nat :=
  x.major.toNat + ((List.range 64).map fun i => 2 ^ (50 + 6 * i) * (Tab.get 0 x.minors i).toNat).foldl (· + ·) 0 +
    2 ^ 434 * b2n x.kg + 2 ^ 456 * mac

/-- The pad counter of a node: its parent's MAJOR and its own slot's MINOR (R193). -/
def Dev.nodeCounter (d : Dev) (f r : Nat) (rg : PlanRegion) (level i pa : Nat) : Counter :=
  let up := d.node f r rg (level + 1) (i / 64)
  { b := 0, pl := pa / 64, dev := d.memAddr.toNat, owner := (d.frameOwner f).toNat, pad := true,
    minor := (Tab.get 0 up.minors (i % 64)).toNat, mode := 0, loc := 0, high := up.major.toNat }

/-- The MAC over 64 bytes of a node, whose own MAC field is read as 0. -/
def Dev.nodeMac (d : Dev) (f r : Nat) (rg : PlanRegion) (level i pa : Nat) (key : BitVec 128) (bytes : List Byte) : Nat :=
  (macOf key (d.nodeCounter f r rg level i pa) (bytes.take 57 ++ zeros 7)).toNat % 2 ^ 56

/-- The 64 bytes of a node as the stack stores them. -/
def Dev.storedNode (d : Dev) (f r : Nat) (rg : PlanRegion) (level i pa : Nat) (key : BitVec 128) : List Byte :=
  let x := d.node f r rg level i
  leBytes 64 (x.word (d.nodeMac f r rg level i pa key (leBytes 64 (x.word 0))))

/-- A node read with an exclusive or of its stored bytes verifies. -/
def Dev.nodeFits (d : Dev) (f r : Nat) (rg : PlanRegion) (level i pa : Nat) (flaw : BitVec 512) : Bool :=
  flaw == 0 ||
    match d.engineKey f r 1 (d.node f r rg level i).kg with
    | none => false
    | some key =>
      let bs := xorBytes (d.storedNode f r rg level i pa key) (leBytes 64 flaw.toNat)
      leVal bs / 2 ^ 456 == d.nodeMac f r rg level i pa key bs

/-! ## Verifying a unit (R190, R197, R200, R202) -/

/-- The pair's two slots seal and open under different keys, or the key that the unit's KG names is gone. -/
def Dev.keyFails (d : Dev) (f : Nat) (kg : Bool) : Bool :=
  d.pairLoaded f && (match d.pairKey f 0 kg, d.pairKey f 1 kg with
    | some e, some o => firstHalf e != firstHalf o
    | _, _ => true)

/-- A SEALED_EPOCH unit last written before the previous epoch fails its MAC (R197). -/
def Dev.epochStale (d : Dev) (f r : Nat) (rg : PlanRegion) (k : Nat) : Bool :=
  rg.mode == 1 &&
    (let e := (d.epochOf f r).toNat
     let u := d.metaAt f r k
     u.epoch.toNat != epochFrom e (u.epoch.getLsbD 0))

/-- The unit's stored bytes have been altered, and the tag over what the engine reads is another. -/
def Dev.flawFails (d : Dev) (f r : Nat) (rg : PlanRegion) (ra pa : Nat) : Bool :=
  let x := d.unitFlaw rg.unit pa
  x != 0 &&
    match d.engineKey f r 1 (d.metaAt f r (unitKey rg.unit pa)).kg with
    | some key => d.unitTag f r rg ra pa key x != d.unitTag f r rg ra pa key 0
    | none => true

/-- A tag line or node above the unit lies altered in its stack. Log entry 121 (DEDUCED). -/
def Dev.pathFlawed (d : Dev) (f r : Nat) (rg : PlanRegion) (ra : Nat) : Bool :=
  !d.mem.flaws.isEmpty && rg.metaLevels.any fun k =>
    match d.phys f r (rg.metaAddr k (rg.metaIdx k ra)) with
    | some pa => Tab.get 0 d.mem.flaws (pa / 64) != 0
    | none => false

/-- The MAC of a unit fails. -/
def Dev.unitFails (d : Dev) (f r : Nat) (rg : PlanRegion) (ra pa : Nat) : Bool :=
  let k := unitKey rg.unit pa
  rg.mode != 2 && (d.epochStale f r rg k || (d.metaAt f r k).dead || d.keyFails f (d.metaAt f r k).kg ||
    d.flawFails f r rg ra pa || d.pathFlawed f r rg ra)

/-! ## Counting a write (R195, R197) -/

def Dev.modNode (d : Dev) (f r : Nat) (rg : PlanRegion) (level i : Nat) (g : NodeSt → NodeSt) : Dev :=
  d.modRegion (regKey f r) fun x =>
    if rg.topLevel < level then { x with root := g x.root }
    else { x with nodes := Tab.mod NodeSt.reset x.nodes (8 * i + level) g }

/-- Every unit of a leaf has LOCAL 0: its 512 lines are sealed anew. -/
def Dev.zeroLocals (d : Dev) (f r : Nat) (rg : PlanRegion) (leaf : Nat) : Dev :=
  (List.range 512).foldl (fun d i => match d.phys f r ((512 * leaf + i) * rg.unit) with
    | some pa => d.setMeta f r (unitKey rg.unit pa) fun u => { u with loc := 0 }
    | none => d) d

/-- MAJOR of a node increments, and its MINORs start at 0; a leaf's units start at LOCAL 0. Log entry 122 (DEDUCED). -/
def Dev.bumpMajor (d : Dev) (f r : Nat) (rg : PlanRegion) (level i : Nat) : Dev :=
  let d := d.modNode f r rg level i fun x => { x with major := x.major + 1, minors := [], kg := (d.frame f).kg }
  if level = 1 then d.zeroLocals f r rg i else d

def Dev.metaHit (d : Dev) (f r level i : Nat) : Bool :=
  d.mem.mcache.any fun m => m.frame == f && m.region == r && m.level == level && m.idx == i

def Dev.dirtyMeta (d : Dev) (f r level i : Nat) : Dev :=
  { d with mem := { d.mem with mcache := d.mem.mcache.map fun m =>
      if m.frame == f && m.region == r && m.level == level && m.idx == i then { m with dirty := true } else m } }

/-- A tag line or node of a SEALED_FULL region is written back: its MINOR in its parent increments, and a parent
outside the cache is written back in its turn. -/
def Dev.writeBackMeta (f r : Nat) (rg : PlanRegion) : Nat → Nat → Nat → Dev → Dev
  | 0, _, _, d => d
  | fuel + 1, level, i, d =>
    if rg.mode ≠ 0 || rg.topLevel < level then d
    else
      let up := i / 64
      let d := if Tab.get 0 (d.node f r rg (level + 1) up).minors (i % 64) = 63 then d.bumpMajor f r rg (level + 1) up
        else d.modNode f r rg (level + 1) up fun x =>
          { x with minors := Tab.mod 0 x.minors (i % 64) (· + 1), kg := (d.frame f).kg }
      if d.metaHit f r (level + 1) up then d.dirtyMeta f r (level + 1) up
      else Dev.writeBackMeta f r rg fuel (level + 1) up d

/-- The home die of a metadata line, and the set of its cache that holds it. -/
def Dev.metaDie (d : Dev) (f r : Nat) (rg : PlanRegion) (level i : Nat) : Nat :=
  match d.phys f r (rg.metaAddr level i) with
  | some pa => d.homeOf f pa
  | none => 0
def metaSet (level i : Nat) : Nat := (i + level) % 4096

/-- The frame's ways of a die's metadata cache, divided as the shared cache's. -/
def Dev.metaWays (d : Dev) (f die : Nat) : Nat :=
  match d.plan.active with
  | some p => p.waysOf f die
  | none => 0

/-- A metadata line is filled; where its clearing's ways of the set are full, a free one of its lines goes, written back
if it is dirty. Log entry 123 (DESIGN CHOICE). -/
def Dev.fillMeta (d : Dev) (f r : Nat) (rg : PlanRegion) (level i : Nat) : Dev :=
  let die := d.metaDie f r rg level i
  let ways := d.metaWays f die
  if ways = 0 || d.metaHit f r level i then d
  else
    let rivals := d.mem.mcache.filter fun m =>
      m.die == die && m.frame == f && metaSet m.level m.idx == metaSet level i
    let d := if rivals.length < ways then d
      else match rivals[d.freeVal.toNat % rivals.length]? with
        | none => d
        | some v =>
          let d : Dev := { d with mem := { d.mem with mcache := d.mem.mcache.filter (· != v) } }
          let d := d.tick
          match v.dirty, d.planRegion f v.region with
          | true, some rv => Dev.writeBackMeta f v.region rv 7 v.level v.idx d
          | _, _ => d
    { d with mem := { d.mem with mcache := d.mem.mcache ++
        [{ die := die, frame := f, region := r, level := level, idx := i, dirty := false }] } }

/-- An access to a unit goes through its tag line and nodes: a missing level is a miss, filled from the top down; a
write leaves its tag line dirty, or, where nothing of it can be cached, writes it through (R196). -/
def Dev.touchMeta (d : Dev) (f r : Nat) (rg : PlanRegion) (ra : Nat) (write : Bool) : Dev :=
  let levels := rg.metaLevels
  let miss := levels.any fun k => !d.metaHit f r k (rg.metaIdx k ra)
  let d := if miss then d.modFrame f fun x => { x with nodeMiss := satInc x.nodeMiss } else d
  let d := levels.reverse.foldl (fun d k => d.fillMeta f r rg k (rg.metaIdx k ra)) d
  if !write || levels.isEmpty then d
  else if d.metaHit f r 0 (rg.metaIdx 0 ra) then d.dirtyMeta f r 0 (rg.metaIdx 0 ra)
  else Dev.writeBackMeta f r rg 7 0 (rg.metaIdx 0 ra) d

/-- The write of a unit advances its counters: LOCAL in SEALED_FULL, with the leaf's MAJOR where it would pass 63; EPB
and WCNT in SEALED_EPOCH. False where the write is refused as the ninth of its epoch. -/
def Dev.countWrite (d : Dev) (f r : Nat) (rg : PlanRegion) (ra k : Nat) : Dev × Bool :=
  let kg := (d.frame f).kg
  let u := d.metaAt f r k
  if rg.mode = 1 then
    let e := d.epochOf f r
    if u.epoch.getLsbD 0 = e.getLsbD 0 && u.wcnt = 7 then
      ((d.modFrame f fun x => { x with overrun := satInc x.overrun }).raise .mcx 3, false)
    else
      let w := if u.epoch.getLsbD 0 = e.getLsbD 0 then u.wcnt + 1 else 0
      ((d.touchMeta f r rg ra true).setMeta f r k fun u =>
        { u with wcnt := w, epoch := e, kg := kg, dead := false }, true)
  else if rg.mode = 0 then
    let d := d.touchMeta f r rg ra true
    let d := if u.loc = 63 then d.bumpMajor f r rg 1 (rg.metaIdx 1 ra) else d
    (d.setMeta f r k fun u => { u with loc := u.loc + 1, kg := kg, dead := false }, true)
  else (d, true)

/-- The write of a whole unit leaves nothing of an alteration of its line's part. -/
def Dev.clearFlaw (d : Dev) (unit pa : Nat) : Dev :=
  { d with mem := { d.mem with flaws := Tab.mod 0 d.mem.flaws (pa / 64) fun x =>
      if unit = 32 then x &&& ~~~ (BitVec.ofNat 512 (2 ^ 256 - 1) <<< (256 * (pa % 64 / 32))) else 0 } }

/-! ## The base dies' code: RS(36,32) over GF(2^16) (R180) -/

/-- Multiplication modulo x^16 + x^12 + x^3 + x + 1. -/
def gf16Mul (a b : BitVec 16) : BitVec 16 :=
  ((List.range 16).foldl (fun (zv : BitVec 16 × BitVec 16) i =>
    (if a.getLsbD i then zv.1 ^^^ zv.2 else zv.1,
     if zv.2.getMsbD 0 then (zv.2 <<< 1) ^^^ 0x100B#16 else zv.2 <<< 1)) (0, b)).1

def gf16Pow (a : BitVec 16) : Nat → BitVec 16
  | 0 => 1
  | n + 1 => gf16Mul a (gf16Pow a n)

/-- The inverse: a^(2^16 − 2), the product of a^2, a^4, …, a^(2^15). -/
def gf16Inv (a : BitVec 16) : BitVec 16 :=
  ((List.range 15).foldl (fun (x : BitVec 16 × BitVec 16) _ =>
    let s := gf16Mul x.2 x.2
    (gf16Mul x.1 s, s)) (1, a)).1

/-- What an error pattern puts on symbol `j`. -/
def errAt (es : List SymErr) (j : Nat) : BitVec 16 :=
  es.foldl (fun x e => if e.1.val = j then x ^^^ e.2 else x) 0

/-- Syndrome `t`: the pattern read as a polynomial at x^t. The code's roots are x^0 to x^3. Log entry 120 (DESIGN
CHOICE). -/
def syndrome (es : List SymErr) (t : Nat) : BitVec 16 :=
  (List.range 36).foldl (fun s j =>
    let e := errAt es j
    if e = 0 then s else s ^^^ gf16Mul e (gf16Pow 2 (j * t))) 0

/-- The one or two symbols, with what they are off by, that have these syndromes. -/
def rsOne (s : Nat → BitVec 16) : Option (List (Nat × BitVec 16)) :=
  ((List.range 36).find? fun j =>
    let a := gf16Pow 2 j
    gf16Mul (s 0) a == s 1 && gf16Mul (s 1) a == s 2 && gf16Mul (s 2) a == s 3).map fun j => [(j, s 0)]

def rsTwo (s : Nat → BitVec 16) : Option (List (Nat × BitVec 16)) :=
  (List.range 36).findSome? fun i => (List.range i).findSome? fun j =>
    let a := gf16Pow 2 i
    let b := gf16Pow 2 j
    let det := a ^^^ b
    let fd := s 1 ^^^ gf16Mul a (s 0)
    let ed := gf16Mul (s 0) det ^^^ fd
    if gf16Mul ed (gf16Mul a a) ^^^ gf16Mul fd (gf16Mul b b) == gf16Mul (s 2) det &&
        gf16Mul ed (gf16Pow a 3) ^^^ gf16Mul fd (gf16Pow b 3) == gf16Mul (s 3) det then
      let inv := gf16Inv det
      some [(i, gf16Mul ed inv), (j, gf16Mul fd inv)]
    else none

/-- What the decoder makes of a pattern: its outcome, the symbols it corrects, and how the data it passes on then differ
from what was stored. -/
structure RsOut where
  ecc  : Ecc
  syms : Nat
  flaw : BitVec 512
deriving DecidableEq, Repr

/-- The data symbols of a pattern as a difference of 64 bytes. -/
def errData (es : Nat → BitVec 16) : BitVec 512 :=
  (List.range 32).foldl (fun x j => x ||| ((es j).setWidth 512 <<< (16 * j))) 0

/-- The bounded-distance decoder: a pattern of one or two symbols is corrected; another one is reported, corrected into
another codeword, or, where it is a codeword, passed as clean. -/
def rsDecode (es : List SymErr) : RsOut :=
  let e := errAt es
  let s := syndrome es
  if (List.range 36).all (fun j => e j == 0) then { ecc := .clean, syms := 0, flaw := 0 }
  else if s 0 = 0 && s 1 = 0 && s 2 = 0 && s 3 = 0 then { ecc := .clean, syms := 0, flaw := errData e }
  else match (rsOne s).orElse fun _ => rsTwo s with
    | none => { ecc := .uncorrectable, syms := 0, flaw := 0 }
    | some fix =>
      let off (j : Nat) : BitVec 16 := fix.foldl (fun x y => if y.1 = j then x ^^^ y.2 else x) 0
      { ecc := .corrected, syms := fix.length, flaw := errData fun j => e j ^^^ off j }

/-- The SEC-DED outcome of a root or epoch entry: one flipped bit is corrected (R194). -/
def secDed (es : List SymErr) : Ecc :=
  let bits := es.foldl (fun n e => n + ((List.range 16).filter e.2.getLsbD).length) 0
  if bits = 0 then .clean else if bits = 1 then .corrected else .uncorrectable

end Sys2Proof.Machine
end

