-- ==== Sys2Proof/Machine/MemOps.lean ====
section
/-! DEFINITION. The shared operations on HBM and the shared cache: unit states and integrity
errors (R195, R197, R202–R206), reading and writing ranges, and the save-set waits (R328). -/

namespace Sys2Proof.Machine
open Sys2Proof

/-! ## Units -/

/-- The status of a poison cause (R191). -/
def causeStatus (c : Byte) : Status :=
  if c = 0 then .ok else if c = 1 then .tamper else if c = 2 then .uncorrectable else .integrityLost

/-- A region address lies in the frame's open quarantine (R205). -/
def Dev.quarantined (d : Dev) (f r ra : Nat) : Bool :=
  (d.frame f).quarantine.any fun q => q.1 == r && q.2.1 ≤ ra && ra ≤ q.2.2

/-- The poison cause of the unit `k` at a region address: its tag's, or TAMPER of its subtree. -/
def Dev.causeAt (d : Dev) (f r ra k : Nat) : Byte :=
  if (d.unitMeta k).cause = 0 && (d.frame f).tampered.any fun q => q.1 == r && q.2.1 ≤ ra && ra ≤ q.2.2 then 1
  else (d.unitMeta k).cause

/-- A poisoned range without the region addresses `lo` to `hi` of region `r`. -/
def cutRange (r lo hi : Nat) (q : Nat × Nat × Nat) : List (Nat × Nat × Nat) :=
  if q.1 ≠ r || q.2.2 < lo || hi < q.2.1 then [q]
  else (if q.2.1 < lo then [(r, q.2.1, lo - 1)] else []) ++ if hi < q.2.2 then [(r, hi + 1, q.2.2)] else []

/-- The restore path clears a unit's poison, of its own tag or of its subtree, and its mark in the base die's list
(R204). -/
def Dev.clearPoison (d : Dev) (f r : Nat) (rg : PlanRegion) (u pa : Nat) : Dev :=
  let d := (d.modUnit (unitKey rg.unit pa) fun m => { m with cause := 0 }).clearFlaw rg.unit pa
  let d := d.modFrame f fun x => { x with tampered := x.tampered.flatMap (cutRange r u (u + rg.unit - 1)) }
  { d with mem := { d.mem with ueList := d.mem.ueList.filter (· != pa / 64) } }

/-- What reading the unit at a region address resolves to (R202), apart from errors that a stack
reports at this read. -/
def Dev.unitStatus (d : Dev) (f r ra : Nat) (rg : PlanRegion) (pa : Nat) : Status :=
  let k := unitKey rg.unit pa
  if d.quarantined f r ra then .integrityLost
  else if d.mem.ueList.contains (pa / 64) then .uncorrectable
  else if d.causeAt f r ra k ≠ 0 && rg.mode ≠ 2 then causeStatus (d.causeAt f r ra k)
  else if d.unitFails f r rg ra pa then .tamper
  else .ok

/-! ## Errors and the TAMPER policy -/

/-- MCX_ERR_INFO and MCX_ERR_LINE latch the frame's first error since VALID was cleared. -/
def Dev.latchErr (d : Dev) (f : Nat) (st : Status) (r level : Nat) (partialW write : Bool)
    (line : Nat) : Dev :=
  d.modFrame f fun x =>
    if x.errInfo.getLsbD 31 then x
    else { x with
      errInfo := BitVec.ofNat 32 (st.code + 2 ^ 8 * r + 2 ^ 19 * level + 2 ^ 22 * b2n partialW
        + 2 ^ 23 * b2n write + 2 ^ 31),
      errLine := BitVec.ofNat 35 line }

/-- The TAMPER policy of the plan's DEVICE section: true for LOCKDOWN. -/
def Dev.lockdownPolicy (d : Dev) : Bool :=
  match d.plan.active with
  | some p => p.device.tamperPolicy == 1
  | none => false

/-- TAMPER acts (R206): CONTAIN halts the owning clearing, LOCKDOWN halts every clearing and
destroys every key slot and the membership. Log entry 38 (DEDUCED). -/
def Dev.tamper (d : Dev) (f : Nat) : Dev :=
  let d := d.raise .mcx 0
  let d := d.modFrame f fun x => { x with tamper := satInc x.tamper }
  if d.lockdownPolicy then
    let d := d.haltAll .aborted .clearingHalted
    let d := (d.destroySlots fun _ _ => true).leaveSet
    let d : Dev := { d with mem := { d.mem with lockdown := true } }
    d.raise .mcx 7
  else
    let d := d.modFrame f fun x => { x with contained := true }
    if f < 16 then d.haltClr f .contained .tamper .none else d

/-- Poison a unit with a cause; a unit that is poisoned keeps its cause (R202). -/
def Dev.poison (d : Dev) (k : Nat) (cause : Byte) : Dev :=
  d.modUnit k fun u => if u.cause = 0 then { u with cause := cause } else u

/-- A data unit's MAC fails: the unit is poisoned with cause 0x01 and the policy acts. -/
def Dev.unitTamper (d : Dev) (f r ra k : Nat) (partialW write : Bool) : Dev :=
  ((d.poison k 1).latchErr f .tamper r 0 partialW write (ra / 64)).tamper f

/-- A base die reports an uncorrectable line: it counts, and the first latches (R180). -/
def Dev.reportUe (d : Dev) (pa : Nat) : Dev :=
  let d := d.modStack (stackOf pa) fun x =>
    { x with ue := satInc x.ue,
             ueAddr := if x.ueAddr.getLsbD 31 then x.ueAddr
               else BitVec.ofNat 32 (2 ^ 31 + pa % 2 ^ 30 / 64 * 2 ^ 7 + pa / 2 ^ 30 % 96) }
  d.raise .mem 1

/-- A data unit is uncorrectable: it is poisoned with cause 0x02, or, without tags, its line is marked in the
base die's list. -/
def Dev.unitUncorrectable (d : Dev) (f r ra pa k : Nat) (mode : Byte) (partialW write : Bool) : Dev :=
  let d := (d.latchErr f .uncorrectable r 0 partialW write (ra / 64)).reportUe pa
  if mode = 2 then
    { d with mem := { d.mem with
        ueList := if d.mem.ueList.contains (pa / 64) then d.mem.ueList else pa / 64 :: d.mem.ueList } }
  else ((d.poison k 2).modFrame f fun x => { x with ue := satInc x.ue }).raise .mcx 1

/-! ## The strandline's saved ranges (R322, R323, R328) -/

/-- The saved chunk of a region address, as 2^40·clearing + chunk of its save image. -/
def chunkKey (p : StandPlan) (f r ra : Nat) : Option Nat :=
  match p.strandline with
  | none => none
  | some s => go (s.saves.filter fun e => e.clearing.toNat == f) 0
where
  go : List PlanSave → Nat → Option Nat
    | [], _ => none
    | e :: es, base =>
      let c := (ra - e.first.toNat) / 4096
      if e.region.toNat = r && e.first.toNat ≤ ra && c < e.chunks.toNat then
        some (2 ^ 40 * f + base + c)
      else go es (base + e.chunks.toNat)

/-- The chunk at a region address awaits the read of a save stage or shadow activity, or a deep strandline is
due, so a write to it waits (R328, R335). Log entries 39 (DESIGN CHOICE), 75 (DEDUCED). -/
def Dev.writeWaits (d : Dev) (f r ra : Nat) : Bool :=
  match d.plan.active.bind fun p => chunkKey p f r ra with
  | some k => !d.stl.deepMan.isEmpty || d.stl.pend0.contains k || d.stl.pend1.contains k ||
      d.stl.pendS.contains k
  | none => false

/-- A buddy holds the chunk as memory held it: its copy is COMPLETE and the chunk is clean for it.
Log entry 40 (DEDUCED). -/
def Dev.buddyHas (d : Dev) (k : Nat) : Bool :=
  (d.stl.buddyIdx0 != 0xFFFFFFFF && !d.stl.dirty0.contains k) ||
    (d.stl.buddyIdx1 != 0xFFFFFFFF && !d.stl.dirty1.contains k)

/-- A line of the range is under a Commons repair, so a write to it waits (R359). Log entry 40 (DEDUCED). -/
def Dev.underRepair (d : Dev) (f r ra n : Nat) : Bool :=
  d.mem.repairs.any fun x => (List.range (n / 64 + 2)).any fun i =>
    d.phys f r (min (ra + 64 * i) (ra + n - 1)) |>.any fun pa => pa / 64 == x.line

/-- A write to a range of a region waits for a save stage or a repair. Log entry 40 (DEDUCED). -/
def Dev.rangeWaits (d : Dev) (f r ra n : Nat) : Bool :=
  d.underRepair f r ra n || (List.range (n / 4096 + 2)).any fun i =>
    d.writeWaits f r (min (ra + 4096 * i) (ra + n - 1))

/-- A write marks its chunk dirty for every buddy (R328). -/
def Dev.markDirty (d : Dev) (f r ra : Nat) : Dev :=
  match d.plan.active.bind fun p => chunkKey p f r ra with
  | some k =>
    let add (l : List Nat) : List Nat := if l.contains k then l else k :: l
    { d with stl := { d.stl with dirty0 := add d.stl.dirty0, dirty1 := add d.stl.dirty1 } }
  | none => d

/-! ## Bytes -/

/-- The cache line of a physical byte (R173). -/
def Dev.line (d : Dev) (pa : Nat) : CacheLine := Tab.get CacheLine.reset d.mem.cache (pa / 128)
def Dev.modLine (d : Dev) (pa : Nat) (f : CacheLine → CacheLine) : Dev :=
  { d with mem := { d.mem with cache := Tab.mod CacheLine.reset d.mem.cache (pa / 128) f } }

/-- The byte that memory holds at a physical address, through the home slice: the dirty sector's
byte, else HBM's; none where nothing has written it, and everywhere once LOCKDOWN has destroyed the keys (R206). -/
def Dev.byteAt (d : Dev) (pa : Nat) : Option Byte :=
  let l := d.line pa
  if d.mem.lockdown then none
  else if l.dirty.getLsbD (pa % 128 / 32) then Tab.get none l.bytes (pa % 128)
  else Tab.get none d.mem.hbm pa

/-- The byte a read returns; a free value where nothing has written it (R208).
Log entry 3 (DESIGN CHOICE). -/
def Dev.readByte (d : Dev) (pa : Nat) : Byte := (d.byteAt pa).getD (Config.freeByte d.free pa)

def Dev.putHbm (d : Dev) (pa : Nat) (b : Option Byte) : Dev :=
  { d with mem := { d.mem with hbm := Tab.set none d.mem.hbm pa b } }

/-- Write one byte where the line lives: into a dirty sector of the home slice, else into HBM. -/
def Dev.putByte (d : Dev) (pa : Nat) (b : Byte) : Dev :=
  if (d.line pa).dirty.getLsbD (pa % 128 / 32) then
    d.modLine pa fun l => { l with bytes := Tab.set none l.bytes (pa % 128) (some b) }
  else d.putHbm pa (some b)

/-- Make the sector of a physical byte dirty in its home slice: its bytes are now the slice's. -/
def Dev.dirtySector (d : Dev) (pa : Nat) : Dev :=
  let s := pa % 128 / 32
  let base := pa / 32 * 32
  if (d.line pa).dirty.getLsbD s then d
  else
    let old := (List.range 32).map fun i => Tab.get none d.mem.hbm (base + i)
    d.modLine pa fun l =>
      { l with dirty := setBit l.dirty s, bytes := Tab.setRun none l.bytes (32 * s) old }

/-- The home slice holds every sector of `n` bytes at a physical address (a hit). -/
def Dev.cached (d : Dev) (pa n : Nat) : Bool :=
  n != 0 && (List.range ((pa % 32 + n + 31) / 32)).all fun i =>
    (d.line (pa + 32 * i)).valid.getLsbD ((pa + 32 * i) % 128 / 32)

/-- The bytes of a range of a region; free values where nothing has written, and where the range
leaves the region. Log entry 3 (DESIGN CHOICE). -/
def Dev.readRange (d : Dev) (f r ra n : Nat) : List Byte :=
  let order := match d.plan.active.bind fun p => (p.region f r).map fun x => p.regionGranules f x with
    | some gs => interleave gs
    | none => []
  (List.range n).map fun i =>
    match locateIn order (ra + i) with
    | some pa => d.readByte pa
    | none => Config.freeByte d.free (ra + i)

/-- The units of a range: the region address of each unit's first byte. -/
def unitsOf (unit ra n : Nat) : List Nat :=
  if n = 0 then []
  else (List.range ((ra + n - 1) / unit - ra / unit + 1)).map fun i => (ra / unit + i) * unit

/-- The outcome of an access: its status, its DETAIL, and the address of the unit that gave it. -/
structure Hit where
  status : Status
  detail : Detail
  addr   : Nat
deriving DecidableEq, Repr

def Hit.ok : Hit := { status := .ok, detail := .none, addr := 0 }

/-- The outcome of two accesses in turn: the order of R202, else the first failure. -/
def Hit.then_ (a b : Hit) : Hit :=
  if a.status = .ok then b else if worse a.status b.status = a.status then a else b

/-- What reading a range meets, and the device after its errors have acted (R202). -/
def Dev.checkRange (d : Dev) (f r ra n : Nat) : Dev × Hit :=
  match d.planRegion f r with
  | none => (d, Hit.ok)
  | some rg => (unitsOf rg.unit ra n).foldl (fun x u =>
      match x.1.phys f r u with
      | none => x
      | some pa =>
        let hit := x.1.cached pa rg.unit
        let st := if hit then .ok else x.1.unitStatus f r u rg pa
        let k := unitKey rg.unit pa
        let fresh := x.1.causeAt f r u k == 0
        let d := if hit then x.1 else x.1.touchMeta f r rg u false
        let d := if st = .tamper && fresh && rg.mode != 2 then d.unitTamper f r u k false false
          else if st = .uncorrectable && (fresh || rg.mode == 2) && !x.1.quarantined f r u then
            d.unitUncorrectable f r u pa k rg.mode false false
          else d
        (d, x.2.then_ { status := st, detail := .none, addr := u })) (d, Hit.ok)

/-- Write the bytes that fall into one unit, which begins at region address `u`; `rmw` makes it a
read-modify-write whatever the bytes cover (R203). -/
def Dev.writeUnit (d : Dev) (f r : Nat) (rg : PlanRegion) (rmw : Bool) (u ra : Nat) (bytes : List Byte) :
    Dev × Status × Detail :=
  match d.phys f r u with
  | none => (d, .ok, .none)
  | some pa =>
    let k := unitKey rg.unit pa
    let lo := max u ra
    let hi := min (u + rg.unit) (ra + bytes.length)
    let full := !rmw && lo == u && hi == u + rg.unit
    let st := d.unitStatus f r u rg pa
    let poisoned := d.causeAt f r u k ≠ 0 && rg.mode ≠ 2
    let mine := ((bytes.drop (lo - ra)).take (hi - lo)).zipIdx
    if d.cached (pa + (lo - u)) (hi - lo) then
      -- a hit: the sectors are overwritten in the slice and marked dirty (R176)
      let d := mine.foldl (fun d b =>
        (d.dirtySector (pa + (lo - u) + b.2)).putByte (pa + (lo - u) + b.2) b.1) d
      (d.markDirty f r u, .ok, .none)
    else if st ≠ .ok && (poisoned || st = .integrityLost) then (d, st, .none)
    else if st ≠ .ok && !full then
      -- a partial write whose old unit fails does not merge (R203)
      if st = .tamper then (d.unitTamper f r u k true true, .tamper, .none)
      else (d.unitUncorrectable f r u pa k rg.mode true true, .uncorrectable, .none)
    else
      let x := d.countWrite f r rg u k
      if x.2 then
        let d := mine.foldl (fun d b => d.putByte (pa + (lo - u) + b.2) b.1) (x.1.clearFlaw rg.unit pa)
        let d : Dev := { d with mem := { d.mem with
          ueList := d.mem.ueList.filter (· != pa / 64) } }
        (d.markDirty f r u, .ok, .none)
      else (x.1, .aborted, .epochOverrun)

/-- Write a range of a region, unit by unit in ascending address. Log entry 48 (DEDUCED). -/
def Dev.writeRange (d : Dev) (f r ra : Nat) (bytes : List Byte) : Dev × Hit :=
  match d.planRegion f r with
  | none => (d, Hit.ok)
  | some rg => (unitsOf rg.unit ra bytes.length).foldl (fun x u =>
      let y := x.1.writeUnit f r rg false u ra bytes
      (y.1, x.2.then_ { status := y.2.1, detail := y.2.2, addr := u })) (d, Hit.ok)

/-! ## Objects -/

/-- The bytes of an object. -/
def Dev.readObj (d : Dev) (o : Obj) (off n : Nat) : List Byte :=
  d.readRange o.clearing.toNat o.region.toNat (o.base + off) n
def Dev.checkObj (d : Dev) (o : Obj) (off n : Nat) : Dev × Hit :=
  d.checkRange o.clearing.toNat o.region.toNat (o.base + off) n
def Dev.writeObj (d : Dev) (o : Obj) (off : Nat) (bytes : List Byte) : Dev × Hit :=
  d.writeRange o.clearing.toNat o.region.toNat (o.base + off) bytes

/-- The bytes lie within the object. -/
def Obj.holds (o : Obj) (off n : Nat) : Bool := off + n ≤ o.size

/-- A write to part of the object waits for a save stage (R328). -/
def Dev.objWaits (d : Dev) (o : Obj) (off n : Nat) : Bool :=
  n != 0 && d.rangeWaits o.clearing.toNat o.region.toNat (o.base + off) n

/-- INFO of a completion (R302): handle and line offset for UNCORRECTABLE, INTEGRITY_LOST and TAMPER, the
handle for OWNER_DENIED. -/
def hitInfo (h : Word) (o : Obj) (x : Hit) : BitVec 64 :=
  match x.status with
  | .uncorrectable => BitVec.ofNat 64 (h.toNat + 2 ^ 32 * ((x.addr - o.base) / 64 % 2 ^ 32))
  | .integrityLost => BitVec.ofNat 64 (h.toNat + 2 ^ 32 * ((x.addr - o.base) / 64 % 2 ^ 32))
  | .tamper => BitVec.ofNat 64 (h.toNat + 2 ^ 32 * ((x.addr - o.base) / 64 % 2 ^ 32))
  | .ownerDenied => h.setWidth 64
  | _ => 0

/-! ## Commons repair (R359) -/

/-- An access of a scheduled command waits for the repair of a physical line. Log entry 40 (DEDUCED). -/
def Dev.holdRepair (d : Dev) (line : Nat) (who : Nat × Word × BitVec 64) : Dev :=
  let rs := d.mem.repairs
  let put (r : Repair) : Repair :=
    if r.line = line && !r.holders.contains who then { r with holders := r.holders ++ [who] } else r
  { d with mem := { d.mem with
      repairs := if rs.any (·.line == line) then rs.map put
        else rs ++ [{ line := line, holders := [who] }] } }

/-! ## Contents that are lost -/

/-- The granules' bytes, tags and list entries are gone: crypto-erased or overwritten. -/
def Dev.eraseGranules (d : Dev) (gs : List Nat) : Dev :=
  let gone (pa : Nat) : Bool := gs.contains (pa / 2 ^ 30)
  { d with mem := { d.mem with
      hbm := Tab.drop d.mem.hbm gone,
      meta_ := Tab.drop d.mem.meta_ (fun k => gone (k * 32)),
      flaws := Tab.drop d.mem.flaws (fun l => gone (l * 64)),
      cache := Tab.drop d.mem.cache (fun k => gone (k * 128)),
      ueList := d.mem.ueList.filter fun l => !gone (l * 64) } }

/-- The granules of a region under the active plan. -/
def Dev.granulesOf (d : Dev) (f r : Nat) : List Nat :=
  match d.plan.active with
  | some p => match p.region f r with
    | some rg => p.regionGranules f rg
    | none => []
  | none => []

/-- The data of a region becomes undefined (R199): its bytes are free values until next written.
Log entry 55 (DEDUCED). -/
def Dev.forgetRegion (d : Dev) (f r : Nat) : Dev :=
  let gs := d.granulesOf f r
  { d with mem := { d.mem with hbm := Tab.drop d.mem.hbm fun pa => gs.contains (pa / 2 ^ 30) } }

/-- The shared-cache lines of a frame are invalidated; dirty lines are discarded (R178). -/
def Dev.dropLines (d : Dev) (f : Nat) : Dev :=
  { d with mem := { d.mem with cache := d.mem.cache.filter fun p => p.2.frame != f } }

/-- Write back a line's dirty sectors into HBM, sealing each unit. -/
def Dev.writeBack (d : Dev) (key : Nat) : Dev :=
  let l := Tab.get CacheLine.reset d.mem.cache key
  let d : Dev := { d with mem := { d.mem with
    cache := Tab.set CacheLine.reset d.mem.cache key { l with dirty := 0, bytes := [] } } }
  match d.planRegion l.frame l.region with
  | none => d
  | some rg =>
    let secs := (List.range 4).filter fun i => l.dirty.getLsbD i
    let units := (secs.map fun i => unitKey rg.unit (key * 128 + 32 * i)).dedup
    units.foldl (fun d k =>
      let off := k * 32 - key * 128
      let ra := l.ra + off
      let bad := d.causeAt l.frame l.region ra k ≠ 0 && rg.mode ≠ 2 || d.quarantined l.frame l.region ra
      if bad then d
      else
        let x := d.countWrite l.frame l.region rg ra k
        if x.2 then
          (l.bytes.filter fun b => off ≤ b.1 && b.1 < off + rg.unit).foldl
            (fun d b => d.putHbm (key * 128 + b.1) b.2) (x.1.clearFlaw rg.unit (k * 32))
        else x.1) d

end Sys2Proof.Machine
end

