-- ==== Sys2Proof/Machine/Panels.lean ====
section
/-! DEFINITION. Where a sweep program's panels and scale planes lie in a tile's stores (R120, R121,
R125, R126, R133). -/

namespace Sys2Proof.Machine
open Sys2Proof

def opBytes : Nat := 8 * 2 ^ 20
def accBytes : Nat := 4 * 2 ^ 20
def roundTo16 (n : Nat) : Nat := (n + 15) / 16 * 16
def roundTo64 (n : Nat) : Nat := (n + 63) / 64 * 64

/-- The row pitch of a panel of `cols` elements. -/
def rowPitch (f : Fmt) (cols : Nat) : Nat := roundTo16 (f.bytesOf cols)
def panelBytes (f : Fmt) (rows cols : Nat) : Nat := rows * rowPitch f cols
/-- A scale plane of `lines` lines for `k` elements along K. -/
def planeBytes (lines k : Nat) : Nat := lines * roundTo16 ((k + 31) / 32)

def fmtOr (c : Nat) : Fmt := (Fmt.ofCode c).getD .s32

/-- The operand-store ranges that a SWEEP reads: both panels and their scale planes. -/
def sweepReads (i : SwInstr) : List (Nat × Nat) :=
  match i with
  | .sweep fa fb blkA blkB tA tB _ _ aOff bOff aS bS _ k _ _ _ _ _ _ _ _ _ =>
    let panel (f : Nat) (kMajor : Bool) : Nat :=
      if kMajor then panelBytes (fmtOr f) k 32 else panelBytes (fmtOr f) 32 k
    [(aOff, panel fa tA), (bOff, panel fb (!tB))] ++
      (if blkA then [(aS, planeBytes 32 k)] else []) ++ (if blkB then [(bS, planeBytes 32 k)] else [])
  | _ => []

/-- The ranges that an epilogue reads and writes: its record, its output panel and scale plane. -/
def epiParam (i : SwInstr) : List (Nat × Nat) :=
  match i with
  | .sweep _ _ _ _ _ _ _ true _ _ _ _ _ _ _ _ _ _ _ _ _ _ param => [(param, 64)]
  | _ => []

def epiWrites (i : SwInstr) : List (Nat × Nat) :=
  match i with
  | .sweep _ _ _ _ _ _ _ true _ _ _ _ _ _ _ ef eb _ _ _ _ dst _ =>
    let p := panelBytes (fmtOr ef) 32 32
    [(dst, p)] ++ (if eb then [(dst + roundTo64 p, planeBytes 32 32)] else [])
  | _ => []

/-- The store range of a LOAD or STORE, with its scale plane: true for the accumulator store. -/
def moveRange (i : SwInstr) : Option (Bool × List (Nat × Nat)) :=
  let area (f : Nat) (blk acc kax : Bool) (sram rows cols : Nat) : Bool × List (Nat × Nat) :=
    let p := panelBytes (fmtOr f) rows cols
    (acc, [(sram, p)] ++
      (if blk then [(sram + roundTo64 p, if kax then planeBytes cols rows else planeBytes rows cols)]
       else []))
  match i with
  | .load _ _ f blk acc kax _ _ _ sram _ _ _ rows cols _ _ => some (area f blk acc kax sram rows cols)
  | .store _ _ f blk acc kax _ _ sram _ _ _ rows cols _ _ => some (area f blk acc kax sram rows cols)
  | _ => none

end Sys2Proof.Machine
end

