-- ==== Sys2Proof/Machine/ResetOps.lean ====
section
/-! DEFINITION. Gangs (R118, R119), role generations (R261), and the resets as shared operations:
engine reset, clearing recovery reset, fencing, scrub and their counts (R207, R348–R358). -/

namespace Sys2Proof

/-! ## Gangs (R118): members in row-major order, with gang rows and columns -/

/-- The gangs of a half with code `h`; `a` is 0 for LEFT and 2 for RIGHT. -/
def halfGangs (h a : Nat) : List (List Nat × Nat × Nat) :=
  let one (t : Nat) : List Nat × Nat × Nat := ([t], 1, 1)
  let top : List Nat × Nat × Nat := ([a, a + 1], 1, 2)
  let bottom : List Nat × Nat × Nat := ([a + 4, a + 5], 1, 2)
  let left : List Nat × Nat × Nat := ([a, a + 4], 2, 1)
  let right : List Nat × Nat × Nat := ([a + 1, a + 5], 2, 1)
  match h with
  | 0 => [one a, one (a + 1), one (a + 4), one (a + 5)]
  | 1 => [top, bottom]
  | 2 => [left, right]
  | 3 => [([a, a + 1, a + 4, a + 5], 2, 2)]
  | 4 => [top, one (a + 4), one (a + 5)]
  | 5 => [bottom, one a, one (a + 1)]
  | 6 => [left, one (a + 1), one (a + 5)]
  | _ => [right, one a, one (a + 4)]

/-- The gangs of a gang region with this gang table code. -/
def regionGangs (code : Nat) : List (List Nat × Nat × Nat) :=
  match code / 64 with
  | 0 => halfGangs (code % 8) 0 ++ halfGangs (code / 8 % 8) 2
  | 1 => [([0, 1, 2, 3], 1, 4), ([4, 5, 6, 7], 1, 4)]
  | _ => [([0, 1, 2, 3, 4, 5, 6, 7], 2, 4)]

/-- The gang of tile `t`: its member tiles, leader first, and its rows and columns. -/
def StandPlan.gangOf (p : StandPlan) (t : Nat) : List Nat × Nat × Nat :=
  let code := match p.gangs[t / 8]? with | some c => c.toNat | none => 0
  match (regionGangs code).find? fun g => g.1.contains (t % 8) with
  | some g => (g.1.map (t / 8 * 8 + ·), g.2)
  | none => ([t], 1, 1)

end Sys2Proof

namespace Sys2Proof.Machine
open Sys2Proof

def Dev.gangOf (d : Dev) (t : Nat) : List Nat × Nat × Nat :=
  match d.plan.active with
  | some p => p.gangOf t
  | none => ([t], 1, 1)

/-- The gang leader of a tile. -/
def Dev.leader (d : Dev) (t : Nat) : Nat := (d.gangOf t).1.headD t

/-- The role generation of a tile's group, held at its leader (R261). -/
def Dev.tileGen (d : Dev) (t : Nat) : BitVec 12 := (d.tile (d.leader t)).gen

/-! ## Control flits and role updates -/

/-- A CTRL flit waits on a link, in virtual channel 5 (R255). -/
def Dev.sendCtrl (d : Dev) (l : Nat) (m : CtrlMsg) : Dev :=
  let f : TxFlit := 
    { vc := 5, clearing := 16, owner := 0, dst := none, stream := 0, queue := 0, cmdSeq := 0, body := .ctrl m }
  d.modLink l fun k => { k with txq := k.txq ++ [f] }

/-- UP and admitted MEMBER or BENCH (R258). -/
def Dev.linkUsable (d : Dev) (l : Nat) : Bool :=
  (d.link l).st == .up && ((d.link l).adm == .member || (d.link l).adm == .bench)

/-- ROLE_UPDATE goes out on every admitted link (R261). -/
def Dev.announce (d : Dev) (es : List RoleEntry) : Dev :=
  ((List.range 64).filter d.linkUsable).foldl (fun d l => d.sendCtrl l (.roleUpdate es)) d

/-- The tile group of tile `t` takes its next role generation. -/
def Dev.bumpGroup (d : Dev) (t : Nat) : Dev :=
  let d := d.modTile (d.leader t) fun s => { s with gen := s.gen + 1 }
  d.announce [{ kind := 1, unit := BitVec.ofNat 8 (d.leader t), gen := d.tileGen t }]

/-- The engine indices of the copy and collective channels of clearing `n` (R348). -/
def channels (n : Nat) : List Nat :=
  (List.range 4).flatMap fun u => [0x5000 + 16 * u + n, 0x6000 + 16 * u + n]

/-- A copy or collective channel takes its next request generation (R358). -/
def Dev.bumpChan (d : Dev) (e : Nat) : Dev :=
  { d with flt := { d.flt with chanGen := Tab.mod 0 d.flt.chanGen e (fun g => (g + 1) % 4096) } }

/-- Clearing `n` takes its next role generation, and with it its tile groups and the request
generations of its channels. -/
def Dev.bumpClr (d : Dev) (n : Nat) : Dev :=
  let d := d.modClr n fun c => { c with roleGen := c.roleGen + 1 }
  let d := (channels n).foldl Dev.bumpChan d
  let d := d.announce [{ kind := 0, unit := BitVec.ofNat 8 n, gen := (d.clr n).roleGen }]
  ((d.tilesOf n).filter fun t => d.leader t == t).foldl Dev.bumpGroup d

/-! ## Wiping engines -/

/-- Tile SRAM, accumulators, replay buffers and engine state are zeroed; the role generation of
the group stays. -/
def Dev.wipeTile (d : Dev) (t : Nat) : Dev :=
  d.modTile t fun s => { TileSt.reset with gen := s.gen }

/-- The commands of a list complete with a status, and activities they belong to are broken
(R351). The requests in flight stay, to be dropped as stale when their responses come (R358). -/
def Dev.resetCmds (d : Dev) (cs : List (Nat × Cmd)) (st : Status) (det : Detail) : Dev :=
  let reqs := d.mem.reqs
  let d := cs.foldl (fun d x => (d.breakAct x.2).kill x.1 x.2 st det) d
  let d : Dev := { d with mem := { d.mem with reqs := reqs } }
  d.raiseIf (cs.any fun x => !x.2.unscheduled) .flt 5

/-! ## Counting resets (R356) -/

/-- The times of a list that lie within the last `win` seconds. -/
def recent (now win : Nat) (ts : List Nat) : List Nat := ts.filter fun t => now < t + win * 1000000

/-- Seconds of the 24 h windows. -/
def daySec : Nat := 86400

/-- The device goes out of service (R356): it halts every clearing and completes every command. -/
def Dev.deviceOut (d : Dev) : Dev :=
  let d : Dev := { d with flt := { d.flt with oos := true } }
  let d := (d.haltAll .outOfService .none).loseCopies
  (d.logEvent 0x08 0xFF 0xFFFF 0 0).raise .flt 3

/-! ## The clearing recovery reset (R353, R354) -/

/-- A clearing recovery reset begins: RESETTING, commands aborted, lines and tile SRAM gone, the
next role generation. It is logged and counted; the one that reaches the count takes the clearing
out of service. -/
def Dev.recoveryReset (d : Dev) (n : Nat) : Dev :=
  let d := d.resetCmds (d.cmds.filter fun x => d.queueClr x.1 == some n) .aborted .clearingHalted
  let e := d.esc
  let times := d.timeUs :: recent d.timeUs e.clrWindowS (d.clr n).clrResets
  let out := e.clrCount ≤ times.length
  let d := d.modClr n fun c =>
    { c with st := .resetting, measure := 0, clrResets := times, oos := c.oos || out }
  let d := (d.dropLines n).bumpClr n
  let d := (d.tilesOf n).foldl Dev.wipeTile d
  let d : Dev := { d with flt := { d.flt with
    engBusy := d.flt.engBusy.filter fun x => !belongs d n x.toNat } }
  let d := (d.logEvent 0x04 n 0xFFFF 1 0).raise .flt 1
  if out then (d.logEvent 0x07 n 0xFFFF 0 0).raise .flt 3 else d
where
  /-- An engine index names an engine of the clearing. -/
  belongs (d : Dev) (n e : Nat) : Bool :=
    if e / 4096 < 5 then d.tileClr (e / 16 % 256) == some n else e % 16 == n

/-! ## The engine reset (R348, R353, R354) -/

/-- The clearing to which an engine index belongs; none where it names no engine. -/
def Dev.engineClr (d : Dev) (e : Nat) : Option Nat :=
  let kind := e / 4096
  let u := e / 16 % 256
  let ch := e % 16
  if kind < 5 then if u < 96 && ch == 0 then d.tileClr u else none
  else if kind < 7 then if u < 4 && (d.planClr ch).isSome then some ch else none
  else none

/-- The tiles on which a launch has work for an engine kind: its contexts' cores, its set-engine
operations, its vector blocks. -/
def Dev.launchOn (d : Dev) (l : LaunchSt) (kind t : Nat) : Bool :=
  let mine (k : Nat) : Bool := (d.ctx k).launch == some l.id
  if kind = 2 then l.tiles.getLsbD t
  else if kind = 3 then (d.tile t).setq.any (mine ·.ctx)
  else (d.tile t).vecq.any (mine ·.ctx)

/-- A command is at work on an engine. -/
def Dev.onEngine (d : Dev) (e : Nat) (q : Nat) (c : Cmd) : Bool :=
  let kind := e / 4096
  let u := e / 16 % 256
  if kind < 2 then
    match d.progTile q c.seq with
    | some t => (d.gangOf t).1.contains u
    | none => false
  else if kind < 5 then
    match d.launchOf q c.seq with
    | some l => d.launchOn l kind u
    | none => false
  else
    (c.ph == .started || c.ph == .running) && c.src == (if kind = 5 then 96 else 100) + u &&
      d.queueClr q == some (e % 16)

/-- The operand-store bytes that a transfer in progress writes become undefined (R353).
Log entry 3 (DESIGN CHOICE). -/
def Dev.scramble (d : Dev) (t off n : Nat) : Dev :=
  let vs := (List.range n).map fun i => Config.freeByte d.free (off + i)
  (d.modTile t fun s => { s with op := Tab.setRun 0 s.op off vs }).tick

/-- The operand-store ranges that a program's running LOADs write. -/
def moverRanges (g : Prog) : List (Nat × Nat) :=
  g.movers.flatMap fun m => match g.instrs[m.idx]? with
    | some (SwInstr.load a b c d acc e f g h i j k l m n o p) =>
      if acc then [] else ((moveRange (.load a b c d acc e f g h i j k l m n o p)).map (·.2)).getD []
    | _ => []

/-- An engine reset begins (R354). It is logged and counted; the one that reaches the count
becomes a clearing recovery reset. -/
def Dev.engineReset (d : Dev) (e : Nat) : Dev :=
  match d.engineClr e with
  | none => d
  | some n =>
    let t := e / 16 % 256
    let esc := d.esc
    let times := d.timeUs :: recent d.timeUs esc.engWindowS (d.clr n).engResets
    let d := d.modClr n fun c =>
      { c with engResets := times, lastEngine := BitVec.ofNat 16 e }
    if esc.engCount ≤ times.length then d.recoveryReset n
    else
      let ranges := match (d.tile (d.leader t)).prog with
        | some g => if e / 4096 < 2 then moverRanges g else []
        | none => []
      let d := d.resetCmds (d.cmds.filter fun x => d.onEngine e x.1 x.2) .aborted .none
      let d := ranges.foldl (fun d r => d.scramble t r.1 r.2) d
      let d := if e / 4096 < 5 then d.bumpGroup t else d.bumpChan e
      let d : Dev := { d with flt := { d.flt with
        engBusy := d.flt.engBusy ++ [BitVec.ofNat 16 e] } }
      (d.logEvent 0x02 n (BitVec.ofNat 16 e) 1 0).raise .flt 0

/-! ## Fencing (R353, R354) -/

/-- The Commons repairs in a clearing's carve-out end with its fencing: the held accesses complete
OUT_OF_SERVICE (R357). -/
def Dev.endRepairs (d : Dev) (n : Nat) : Dev :=
  let gs := match d.plan.active with | some p => p.granules n | none => []
  let mine (r : Repair) : Bool := gs.contains (r.line * 64 / 2 ^ 30)
  let rs := d.mem.repairs.filter mine
  let d : Dev := { d with mem := { d.mem with repairs := d.mem.repairs.filter fun r => !mine r } }
  (rs.flatMap (·.holders)).foldl (fun d w => match d.cmd w.1 w.2.1 with
    | some c => d.kill w.1 c .outOfService .none
    | none => d) d

/-- Fencing of a clearing begins: its commands complete OUT_OF_SERVICE, its lines are invalidated
and it leaves its key slots. -/
def Dev.startFencing (d : Dev) (n : Nat) : Dev :=
  let d := d.endRepairs n
  let d := d.resetCmds (d.cmds.filter fun x => d.queueClr x.1 == some n) .outOfService .none
  let d := d.modClr n fun c => { c with fencing := true }
  (d.dropLines n).leaveSlots n (d.ownerOf n)

/-- Fencing completes: the clearing reads FENCED under its next role generation, and the fencing
counts. A second fencing is a device-level fault; a fenced compute-die path, which R18 names beside it, arises in no
rule, and the model has none. Log entry 118 (DESIGN CHOICE). -/
def Dev.fenced (d : Dev) (n : Nat) : Dev :=
  let d := d.modClr n fun c => { c with st := .fenced, fencing := false, measure := 0 }
  let d := d.bumpClr n
  let d := (d.logEvent 0x06 n 0xFFFF 13 0).raise .flt 2
  let times := d.timeUs :: recent d.timeUs daySec d.flt.fencings
  let d : Dev := { d with flt := { d.flt with fencings := times } }
  if d.esc.fenced24h ≤ times.length then d.deviceOut else d

/-! ## Objects and regions whose contents end (R290, R68) -/

/-- The next object generation (R287: 0xFFF is never used). -/
def nextGen (g : BitVec 12) : BitVec 12 := if g = 0xFFE then 0 else g + 1

def Dev.freeObj (d : Dev) (i : Nat) : Dev :=
  d.modObj i fun o => { Obj.reset with gen := nextGen o.gen }

/-- Every object that `p` picks becomes FREE with its next generation. -/
def Dev.freeObjs (d : Dev) (p : Obj → Bool) : Dev :=
  (d.host.objs.filter fun x => x.2.st != .free && p x.2).foldl (fun d x => d.freeObj x.1) d

/-- A region is formed anew: counters 0, a fresh salt, units not yet written. -/
def Dev.formRegion (d : Dev) (f r : Nat) : Dev :=
  let d := d.eraseGranules (d.granulesOf f r)
  let d : Dev := { d with mem := { d.mem with
    mcache := d.mem.mcache.filter fun m => m.frame != f || m.region != r } }
  (d.modRegion (regKey f r) fun _ =>
    { RegionSt.reset with salt := d.random.setWidth 64, formed := true }).tick

/-- The region entries of a frame are gone. -/
def Dev.dropRegions (d : Dev) (f : Nat) : Dev :=
  { d with mem := { d.mem with
      regions := Tab.drop d.mem.regions fun k => k / 2048 == f,
      mcache := d.mem.mcache.filter fun m => m.frame != f } }

/-! ## The scrub (R207) -/

/-- Step 1: the clearing halts and its lines are invalidated. `gs` is its old carve-out. -/
def Dev.startScrub (d : Dev) (n : Nat) (owner : BitVec 6) (gs tiles : List Nat) : Dev :=
  let d := d.modClr n fun c =>
    { c with st := .scrubbing, measure := 0, scrubOwner := owner, scrubGs := gs, scrubTiles := tiles, oos := false,
             engResets := [], clrResets := [] }
  (d.dropLines n).modFrame n fun x =>
    { x with scrub := true, rekey := false, repair := false, contained := false, quarantine := [],
             tampered := [],
             erased := false, overwriting := false, waitKeys := false, sweepPos := 0 }

end Sys2Proof.Machine
end

