-- ==== Sys2Proof/Machine/Manifests.lean ====
section
/-! DEFINITION. What a strandline holds (R321–R327): the save activities and chunks of a plan, the completion
of an activity, and the manifests. -/

namespace Sys2Proof.Machine
open Sys2Proof

/-! ## The plan's saves -/

/-- The KIND 3 activities of the strandline's TEMPLATE, in order: stage A, stage B, shadow. -/
def saveActs (p : StandPlan) : List PlanAct :=
  match p.strandline with
  | some s => match p.templates.find? (·.templateId == s.template) with
    | some t => t.acts.filter (·.kind == 3)
    | none => []
  | none => []

/-- The number of save stages: K. -/
def stageCount (p : StandPlan) : Nat :=
  match p.strandline with
  | some s => if s.k = 1 then 1 else 2
  | none => 0

/-- An activity's place among the save activities. -/
def stageOf (p : StandPlan) (a : BitVec 16) : Option Nat := (saveActs p).findIdx? (·.actId == a)

/-- Every chunk of every save image. -/
def allChunks (p : StandPlan) : List Nat :=
  match p.strandline with
  | some s => (List.range 16).flatMap fun n =>
      (List.range (((s.saves.filter (·.clearing.toNat == n)).map (·.chunks.toNat)).foldl (· + ·) 0)).map
        (2 ^ 40 * n + ·)
  | none => []

/-- The chunks of the SHADOW ranges, where the plan names a standby for them (R322, R329). -/
def shadowChunks (p : StandPlan) : List Nat :=
  match p.strandline with
  | some s =>
    if s.shadowValid then (List.range 16).flatMap fun n => go n (s.saves.filter (·.clearing.toNat == n)) 0
    else []
  | none => []
where
  go (n : Nat) : List PlanSave → Nat → List Nat
    | [], _ => []
    | e :: es, base =>
      (if e.shadow then (List.range e.chunks.toNat).map (2 ^ 40 * n + base + ·) else []) ++
        go n es (base + e.chunks.toNat)

/-! ## Completion of an activity -/

/-- The run's instance is complete: its saves' parts have ended, or no decoded command of it is
left and no reset has broken it. Log entry 7 (DEDUCED). -/
def Dev.runComplete (d : Dev) (r : ActRun) : Bool :=
  !d.deadAct r.act r.inst &&
  match d.activity r.act with
  | some (_, a) => if a.kind = 3 || a.kind = 6 then r.done else !d.actBusy r.act r.inst
  | none => true

/-! ## Manifests (R321, R327) -/

/-- Instances of an activity that are complete from the first on. Log entry 7 (DEDUCED). -/
def Dev.doneActs (d : Dev) (a : PlanAct) : Nat :=
  ((d.sched.runs.filter fun r => r.act == a.actId && !d.runComplete r).map (·.inst.toNat)).foldl min
    (Tab.get 0 d.sched.nextInst a.actId.toNat)

/-- The last completed instance of a template; 0xFFFF_FFFF for none. -/
def Dev.lastDone (d : Dev) (t : PlanTemplate) : Word :=
  match t.acts.map d.doneActs with
  | [] => 0xFFFFFFFF
  | n :: ns => BitVec.ofNat 32 (ns.foldl min n) - 1

/-- The first command of a queue that has not started. -/
def firstUnstarted (u : Queue) : Option Cmd :=
  u.cmds.find? fun c => c.ph != .started && c.ph != .running

def queueTlv (q : Nat) (u : Queue) : List Byte :=
  Config.tlv 1 (q :: match firstUnstarted u with
    | some c => [c.seq.toNat, c.userTag.toNat, c.context.toNat]
    | none => [u.seq.toNat])

def fenceTlv (i : Nat) (f : Fence) : List Byte :=
  Config.tlv 2 [(fenceHandle i f.gen).toNat, b2n f.sig, f.status.toNat, f.owner.toNat, f.grant0.toNat,
    f.grant1.toNat, f.grant2.toNat, f.grant3.toNat]

def objTlv (i : Nat) (o : Obj) : List Byte :=
  Config.tlv 3 [(objHandle i o.gen).toNat, o.region.toNat, o.base, o.size, o.ctx.toNat]

def NanEvent.fields (e : NanEvent) : List Nat :=
  [e.source, e.tile, e.queue, e.seq.toNat, e.sweep, e.row, e.col, e.k, b2n e.stopped]

def Num.fields (x : Num) : List Nat :=
  [x.status.toNat, x.replay.toNat, x.loss.toNat, x.convNan.toNat, x.nan.toNat, x.sat.toNat] ++
    (match x.trap with | some e => e.fields | none => []) ++ [x.trapPos.toNat]

/-- The plain body of clearing `n`'s manifest. Log entry 8 (DESIGN CHOICE). -/
def Dev.clrBody (d : Dev) (n : Nat) : List Byte :=
  (d.host.queues.filter fun u => d.queueClr u.1 == some n).flatMap (fun u => queueTlv u.1 u.2) ++
    (d.host.objs.filter fun o => o.2.st != .free && o.2.clearing.toNat == n).flatMap
      (fun o => objTlv o.1 o.2) ++
    (match d.keySlot n 3 with
      | some s => Config.tlv 4 [s, (d.slot s).gen.toNat, (d.slot s).kcv.toNat]
      | none => []) ++
    Config.tlv 6 ((d.clr n).roleGen.toNat :: Num.fields (d.clr n).num)

/-- The plain body of the device record. Log entry 8 (DESIGN CHOICE). -/
def Dev.recordBody (d : Dev) (p : StandPlan) (pos : Nat) : List Byte :=
  (d.host.fences.filter fun f => f.2.alloc).flatMap (fun f => fenceTlv f.1 f.2) ++
    p.templates.flatMap (fun t => Config.tlv 5 [t.templateId.toNat, (d.lastDone t).toNat, pos]) ++
    match d.sec.member with
    | some m => Config.tlv 7 [m.setId.toNat, m.epoch.toNat]
    | none => []

/-- Chunks of clearing `n`'s save image. -/
def imageChunks (p : StandPlan) (n : Nat) : Nat :=
  match p.strandline with
  | some s => ((s.saves.filter (·.clearing.toNat == n)).map (·.chunks.toNat)).foldl (· + ·) 0
  | none => 0

/-- The 80-byte header, COMPLETE apart. -/
def Dev.manifestHeader (d : Dev) (p : StandPlan) (clearing : Nat) (index : Word) (deep : Bool)
    (bodyLen : Nat) : List Byte :=
  ascii "VXSL" ++ leBytes 2 1 ++ leBytes 1 clearing ++
    leBytes 1 (if clearing < 16 then (d.ownerOf clearing).toNat else 0) ++ leBytes 4 d.addr.toNat ++
    leBytes 4 index.toNat ++ leBytes 2 (match d.sec.member with | some m => m.epoch.toNat | none => 0) ++
    leBytes 2 (2 * b2n deep + 4 * b2n (deep || d.stl.fullNext)) ++ leBytes 8 d.stl.salt.toNat ++
    leBytes 8 d.tide.pos.toNat ++ leBytes 4 (if clearing < 16 then imageChunks p clearing else 0) ++
    leBytes 8 bodyLen ++ strBytes (planHash p) 32

/-- Log entries 8 (DESIGN CHOICE), 74 (DEDUCED). -/
def Dev.manifestOf (d : Dev) (p : StandPlan) (index : Word) (deep : Bool) (clearing : Nat)
    (body : List Byte) : Manifest :=
  { clearing := BitVec.ofNat 8 clearing,
    header := d.manifestHeader p clearing index deep body.length, body := body }

/-- The manifests at this mark: the device record's, then each valid clearing's. Log entry 74 (DEDUCED). -/
def Dev.manifestsAt (d : Dev) (p : StandPlan) (index : Word) (deep : Bool) : List Manifest :=
  d.manifestOf p index deep 0xFF (d.recordBody p d.tide.pos.toNat) ::
    d.clearings.map fun n => d.manifestOf p index deep n (d.clrBody n)

/-- Bytes of a deep strandline with these manifests (R334). Log entry 74 (DEDUCED). -/
def deepBytes (p : StandPlan) (ms : List Manifest) : Nat :=
  (ms.map fun m => 80 + m.body.length + 16).foldl (· + ·) 0 + (allChunks p).length * 4112

/-- STL_DEEP_NEED: bytes of the next deep strandline (R335). Log entry 74 (DEDUCED). -/
def Dev.deepNeed (d : Dev) : Nat :=
  match d.plan.active with
  | some p => deepBytes p (d.manifestsAt p d.stl.index true)
  | none => 0

/-! ## Strand keys (R324, R325) -/

/-- The strand key under a set key of ROLE_ADDR, CLEARING, OWNER and STRAND_SALT. -/
def strandKeyOf (set : B256) (addr clearing owner salt : Nat) : BitVec 128 :=
  (Config.kdf set (ascii "VX-STRD" ++ leBytes 3 addr ++ leBytes 1 clearing ++ leBytes 1 owner ++
    leBytes 8 salt)).extractLsb' 128 128

/-- The strand key of a clearing, or of the device record for 0xFF. -/
def Dev.strandKey (d : Dev) (clearing : Nat) : BitVec 128 :=
  strandKeyOf (d.slot 0).key d.addr.toNat clearing (if clearing < 16 then (d.ownerOf clearing).toNat else 0)
    d.stl.salt.toNat

def strandIv (index : Word) (chunk : Nat) : List Byte := beBytes 4 index.toNat ++ beBytes 4 chunk ++ zeros 4

/-- A manifest as it travels: header, encrypted body, 16-byte tag. -/
def Dev.manifestBytes (d : Dev) (index : Word) (m : Manifest) : List Byte :=
  m.header ++ sealed (d.strandKey m.clearing.toNat) (strandIv index 0xFFFFFFFF) m.header m.body 0
    (m.body.length + 16)

/-! ## Opening a stored manifest (R324, R325, R327, R339) -/

/-- The set key of an epoch: the current one's, or the previous one's while it is kept (R226). -/
def Dev.epochKey (d : Dev) (epoch : Nat) : Option B256 :=
  match d.sec.member with
  | some m =>
    if epoch = m.epoch.toNat then some (d.slot 0).key
    else if (d.slot 1).loaded && epoch + 1 == m.epoch.toNat then some (d.slot 1).key
    else none
  | none => if epoch = 0 then some (d.slot 0).key else none

end Sys2Proof.Machine

namespace Sys2Proof
open Sys2Proof.Machine

/-- `n` bytes of the header from byte `i`. -/
def SealedManifest.field (m : SealedManifest) (i n : Nat) : Nat := leVal ((m.header.drop i).take n)

/-- The header that the tag covers: COMPLETE, which the receiver sets, is 0. -/
def SealedManifest.aad (m : SealedManifest) : List Byte := m.header.set 18 (m.header.getD 18 0 &&& 0xFE)

/-- The strand key that a header names. -/
def SealedManifest.key (m : SealedManifest) (set : B256) : BitVec 128 :=
  strandKeyOf set (m.field 8 3) (m.field 6 1) (m.field 7 1) (m.field 20 8)

/-- MAGIC, VERSION, BODY_LENGTH, and the role, clearing and owner that a header must name. -/
def SealedManifest.names (m : SealedManifest) (addr clearing owner : Nat) : Bool :=
  m.header.length == 80 && m.header.take 4 == ascii "VXSL" && m.field 4 2 == 1 && m.field 6 1 == clearing &&
    m.field 7 1 == owner && m.field 8 4 == addr && m.field 40 8 == m.body.length

/-- The body opens under a strand key. -/
def SealedManifest.opens (m : SealedManifest) (key : BitVec 128) : Bool :=
  m.tag.length == 16 &&
    gcmOpens key (strandIv (BitVec.ofNat 32 (m.field 12 4)) 0xFFFFFFFF) m.aad m.body m.tag

/-- A stored chunk opens under a strand key. -/
def ChunkCopy.opens (c : ChunkCopy) (key : BitVec 128) : Bool :=
  c.cipher.length == 4096 && c.tag.length == 8 && gcmOpens key (strandIv c.index c.chunk) [] c.cipher c.tag

/-- The bytes of a chunk by their offset in the save image. -/
def ChunkCopy.bytes (c : ChunkCopy) (key : BitVec 128) : List (Nat × Byte) :=
  (gcmCrypt key (strandIv c.index c.chunk) c.cipher).zipIdx.map fun b => (4096 * c.chunk + b.2, b.1)

end Sys2Proof

namespace Sys2Proof.Machine
open Sys2Proof

/-- A stored chunk of a clearing as the current set key, or the key of the epoch before, opens it (R226, R324).
Log entry 40 (DEDUCED). -/
def Dev.openChunk (d : Dev) (clearing : Nat) (c : ChunkCopy) : Option (List Byte) :=
  let old := if (d.slot 1).loaded then
      [strandKeyOf (d.slot 1).key d.addr.toNat clearing (d.ownerOf clearing).toNat d.stl.salt.toNat]
    else []
  ((d.strandKey clearing :: old).find? c.opens).map fun k => gcmCrypt k (strandIv c.index c.chunk) c.cipher

/-- Why a manifest of a clearing and owner does not open: EPOCH_GONE, BAD_TAG or PLAN_MISMATCH.
Log entry 77 (DEDUCED). -/
def Dev.manifestFail (d : Dev) (p : StandPlan) (m : SealedManifest) (clearing owner : Nat) : Option (BitVec 4) :=
  match d.epochKey (m.field 16 2) with
  | none => some 7
  | some k =>
    if !m.names d.addr.toNat clearing owner || !m.opens (m.key k) then some 4
    else if m.header.drop 48 ≠ strBytes (planHash p) 32 then some 3
    else none

/-- The strand key of an image, from its manifest. -/
def Dev.imageKey (d : Dev) (x : RestoreImage) : BitVec 128 :=
  x.manifest.key ((d.epochKey (x.manifest.field 16 2)).getD 0)

end Sys2Proof.Machine
end

