-- ==== Sys2Proof/Machine/Mark.lean ====
section
/-! DEFINITION. What a device does at a tide mark (chapters 02, 03, 05, 10, 14): the schedule
position, activities and deadlines, saves, the trap records, scheduled rekeys, and the return
record. -/

namespace Sys2Proof.Machine
open Sys2Proof

/-! ## Links that carry the tide -/

/-- Enabled by the active plan (R53). -/
def Dev.linkEnabled (d : Dev) (l : Nat) : Bool :=
  match d.plan.active with
  | some p => match p.links[l]? with
    | some e => e.enabled
    | none => false
  | none => false

/-- A flit of virtual channel `vc` is taken in order on an UP link (R249, R255, R263): the next SEQ is
expected, an acknowledgement is due, and, on the credited channels, a credit. -/
def Dev.rxFlit (d : Dev) (l vc : Nat) (credit : Bool) : Dev :=
  if (d.link l).st != .up then d
  else d.modLink l fun k =>
    { k with rxSeq := k.rxSeq + 1, awaiting := false, tagRun := 0, ackDue := true,
             owed := if credit then Tab.mod 0 k.owed vc (· + 1) else k.owed }

/-- A record of a TIDE flit (R247: up to seven in one): the flit is taken with its last record, and `more` says
that others of the same flit follow this one. -/
def Dev.rxTide (d : Dev) (l : Nat) (more : Bool) : Dev := if more then d else d.rxFlit l 4 true

/-- The forwarding links (R30): usable, enabled, and not the parent of a follower. -/
def Dev.forwardLinks (d : Dev) : List Nat :=
  (List.range 64).filter fun l =>
    d.linkUsable l && d.linkEnabled l && !(d.tide.following && l == d.tide.parent.toNat)

/-- A tide record waits for the link's next flit slot (R253). -/
def Dev.sendTide (d : Dev) (l : Nat) (r : TideRec) : Dev :=
  d.modLink l fun k => { k with tideQ := k.tideQ ++ [r] }

/-- Log entry 31 (DEDUCED). -/
def Dev.forwardMark (d : Dev) (r : MarkRec) : Dev :=
  d.forwardLinks.foldl (fun d l => d.sendTide l (.mark r)) d

/-! ## Set-back needs (R35, R36, R43) -/

/-- The larger need; of equal ones, the lower reason code. -/
def betterNeed (a b : Need) : Need :=
  if a.marks.toNat < b.marks.toNat then b
  else if b.marks.toNat < a.marks.toNat then a
  else if b.reason.toNat < a.reason.toNat then b else a

def noNeed : Need := { reason := 0, marks := 0 }

/-- Some activity of this device is late (R35): a run, or an instance that has not started. -/
def Dev.anyLate (d : Dev) : Bool := d.sched.runs.any (·.late) || d.sched.waits.any (·.late)

/-- A need that the device can have: a thermal one while a stack is DERATED (R184). -/
def Dev.needStands (d : Dev) (n : Need) : Bool :=
  n.marks != 0 && (n.reason != 1 || d.mem.stk.any fun x => x.2.therm == 1)

/-- The needs of a mark: for each reason, the larger of what the projections bring and of what the device repeats,
which is its last request reduced by the marks held since (R36). -/
def Dev.standing (d : Dev) (needs : List Need) (held : Nat) : List Need :=
  (List.range 16).filterMap fun k =>
    let reason := BitVec.ofNat 4 k
    let most (ns : List Need) : Nat := ((ns.filter (·.reason == reason)).map (·.marks.toNat)).foldl max 0
    let n : Need := { reason := reason, marks := BitVec.ofNat 8 (max (most needs) (most d.tide.needs - held)) }
    if d.needStands n then some n else none

/-- This device's own need at a mark: the host's request, one mark for late activities, and the needs that its
projections (R184, R100 and their like) bring or that it repeats. A failed device asks for none (R352).
Log entry 59 (DESIGN CHOICE). -/
def Dev.ownNeed (d : Dev) (needs : List Need) : Need :=
  if d.failed then noNeed
  else
    let host : Need := { reason := 0, marks := d.tide.hostReq }
    let late : Need := { reason := 5, marks := 1 }
    let all := (needs ++ [host] ++ (if d.anyLate then [late] else [])).filter
      (·.marks ≠ 0)
    match all with
    | [] => noNeed
    | n :: ns => ns.foldl betterNeed n

/-! ## Return records (R31) -/

/-- Merge two return records that answer one mark. -/
def mergeRet (a b : RetRec) : RetRec :=
  let first := b.setback.toNat < a.setback.toNat ||
    (a.setback == b.setback && a.reqAddr.toNat ≤ b.reqAddr.toNat)
  { countLow := a.countLow,
    setback := if first then a.setback else b.setback,
    late := a.late || b.late, failed := a.failed || b.failed,
    lateCount := satAdd a.lateCount b.lateCount.toNat,
    reqAddr := if first then a.reqAddr else b.reqAddr,
    reason := if first then a.reason else b.reason,
    failedAddr :=
      if a.failed && b.failed then
        if a.failedAddr.toNat ≤ b.failedAddr.toNat then a.failedAddr else b.failedAddr
      else if a.failed then a.failedAddr
      else if b.failed then b.failedAddr else 0 }

def mergeInto (w : Option RetRec) (r : RetRec) : Option RetRec :=
  match w with
  | some a => some (mergeRet a r)
  | none => some r

/-- FAILED_ADDR is the device's own address when the device itself is failed (R31). -/
def Dev.ownFailed (d : Dev) (r : RetRec) : RetRec :=
  if d.failed then { r with failed := true, failedAddr := d.addr } else r

/-- The device's own return record for the mark it has just taken. Log entry 59 (DESIGN CHOICE). -/
def Dev.ownReturn (d : Dev) (n : Need) : RetRec :=
  let late := d.failed || d.anyLate
  { countLow := d.tide.count.setWidth 32, setback := n.marks, late := late, failed := d.failed,
    lateCount := if late then 1 else 0,
    reqAddr := if n.marks = 0 then 0 else d.addr,
    reason := if n.marks = 0 then 0 else n.reason,
    failedAddr := if d.failed then d.addr else 0 }

/-- Send the return record: a source merges it for its own mark, a follower sends it to its
parent. -/
def Dev.sendReturn (d : Dev) (needs : List Need) : Dev :=
  let n := d.ownNeed needs
  let r := d.ownReturn n
  let d : Dev := { d with tide := { d.tide with
    lastMarks := if n.marks = 0 then d.tide.lastMarks else n.marks,
    lastReason := if n.marks = 0 then d.tide.lastReason else n.reason,
    needs := needs, hostSent := d.tide.hostReq != 0,
    upward := some r } }
  if d.tide.isSource then { d with tide := { d.tide with window := mergeInto d.tide.window r } }
  else if d.tide.following then d.sendTide d.tide.parent.toNat (.ret r)
  else d

/-! ## Children (R31, R352) -/

/-- At a mark, each child whose return to the last mark was missing, unverified, or carried its own
FAILED counts one bad mark. -/
def Dev.countChildren (d : Dev) : Dev :=
  let count (k : Link) : Link :=
    if k.child then
      { k with
        badMarks := if k.retSeen && !k.retFailed then 0 else k.badMarks + 1,
        retSeen := false, retFailed := false }
    else k
  { d with lnk := { d.lnk with links := Tab.each Link.reset d.lnk.links fun _ k => count k } }

/-! ## TIDE_OUT and the auxiliary pulse (R28, R401) -/

/-- The claimant of GPIO_TIDE_AUX in a plan: its section type. -/
def ballClaim (p : StandPlan) : Option Byte :=
  (p.claims.find? fun c => c.cls == 1 && c.first.toNat == 0).map (·.section_)

/-- A save stage of plan `a` runs: an apply waits for its end (R345). -/
def Dev.stageRuns (d : Dev) (a : StandPlan) : Bool :=
  d.sched.runs.any fun r => !r.done && (stageOf a r.act).any (· < stageCount a)

/-- The changed clearings of the armed plan. -/
def Dev.changedClrs (d : Dev) : List Nat := (List.range 16).filter d.plan.changed.getLsbD

/-- The apply of the armed plan is committed at this mark (R66, R68): the mark has reached PLAN_APPLY_POS, and no
save stage and no RESETTING clearing postpones it. -/
def Dev.applyCommits (d : Dev) : Bool :=
  match d.plan.active with
  | some a => d.plan.due && d.plan.st == .armed && !d.stageRuns a &&
      !d.changedClrs.any fun n => (d.clr n).st == .resetting
  | none => false

/-- A changed clearing that is fenced fails the apply (R68). -/
def Dev.fencedChange (d : Dev) : Option Nat :=
  d.changedClrs.find? fun n => (d.clr n).st == .fenced || (d.clr n).fencing

/-- The armed plan takes effect at this mark and changes the ball's claimant (R401). -/
def Dev.claimChanges (d : Dev) : Bool :=
  match d.plan.armed, d.plan.active with
  | some a, some p => d.applyCommits && d.fencedChange.isNone && ballClaim a != ballClaim p
  | _, _ => false

/-- The pulse of the tide auxiliary output (R28, R401). -/
def Dev.auxPulse (d : Dev) : Dev :=
  match d.plan.active with
  | some p =>
    if ballClaim p == some 2 && p.tide.div ≠ 0 && d.tide.count.toNat % p.tide.div.toNat == 0 &&
        !d.claimChanges then d.emit .auxPulse
    else d
  | none => d

/-- TIDE_OUT's frame with its CRC (R28); its CARD_FLAGS bit TIME_VALID is a free value. Log entry 32 (DESIGN CHOICE). -/
def Dev.tideOut (d : Dev) : Dev :=
  match d.plan.active with
  | some p => if p.tide.outEn then
      let flags : BitVec 16 := if d.freeVal.getLsbD 0 then 1 else 0
      (d.emit (.tideOut { count := d.tide.count, flags := flags, crc := frameCrc d.tide.count flags })).tick else d
  | none => d

/-! ## Strandline saves at their start marks (R326, R328, R333, R334) -/

/-- Instance `i` of TEMPLATE holds a save (R333). -/
def Dev.savesIn (d : Dev) (i : Nat) : Bool :=
  d.stl.interval ≠ 0 && d.stl.i0 ≤ i && (i - d.stl.i0) % d.stl.interval.toNat == 0 &&
    d.stl.index != 0xFFFFFFFE

/-- The carry pass (R326): the epoch of each reserve region that holds peer areas advances, and its
current units are rewritten unchanged under the new epoch. Log entry 57 (DEDUCED). -/
def Dev.carryPass (d : Dev) (shadow : Bool) : Dev :=
  match d.plan.active.bind (·.strandline) with
  | none => d
  | some s =>
    let rs := ((s.peers.filter (·.shadow == shadow)).map (·.region.toNat)).dedup
    rs.foldl (fun d r =>
      let gs := d.granulesOf 16 r
      let e := (d.region (regKey 16 r)).epoch
      let d := d.modRegion (regKey 16 r) fun x =>
        { x with epoch := e + 1,
                 base := if x.base.epoch = e then { x.base with epoch := e + 1, wcnt := 0 } else x.base }
      let carry (k : Nat) (u : UnitMeta) : UnitMeta :=
        if gs.contains (k * 32 / 2 ^ 30) && u.epoch = e then { u with epoch := e + 1, wcnt := 0 } else u
      { d with mem := { d.mem with meta_ := Tab.each UnitMeta.reset d.mem.meta_ carry } }) d

/-- A new interval takes effect at the first instance whose base lies at or after its position. -/
def Dev.newInterval (d : Dev) (i base : Nat) : Dev :=
  match d.stl.intervalNew with
  | some n =>
    if (d.stl.intPosHi ++ d.stl.intPosLo).toNat ≤ base then
      { d with stl := { d.stl with interval := n, i0 := i, intervalNew := none } }
    else d
  | none => d

/-- A save starts: the save sets are fixed from the dirty bits, which clear (R328). -/
def Dev.beginSave (d : Dev) (p : StandPlan) (deadline : Nat) : Dev :=
  let sets := if d.stl.fullNext then (allChunks p, allChunks p)
    else (d.stl.dirty0.reverse, d.stl.dirty1.reverse)
  { d with stl := { d.stl with
      st := .stageA, index := d.stl.index + 1, fullNext := false,
      dirty0 := [], dirty1 := [], pend0 := sets.1,
      pend1 := if stageCount p = 2 then sets.2 else [], ent0 := [], ent1 := [],
      manifests := d.manifestsAt p (d.stl.index + 1) false,
      manifestsSent := false, stageDeadline := some deadline } }

/-! ## Activities (R34, R35) -/

/-- The shadow activity starts (R329): its chunks go to the standby until its deadline. -/
def Dev.beginShadow (d : Dev) (p : StandPlan) (deadline : Nat) : Dev :=
  { d with stl := { d.stl with pendS := shadowChunks p, entS := [], shadowEnd := some deadline } }

/-- The position at which instance `i` of a template begins (R57, R340). -/
def Dev.instBase (d : Dev) (t : PlanTemplate) (i : Nat) : Nat :=
  t.base.toNat + i * t.length.toNat + d.sched.delta

/-- What the start of a save, shadow or deep activity does. True where the activity has nothing to
do in this instance. Log entry 57 (DEDUCED). -/
def Dev.startStrand (d : Dev) (p : StandPlan) (t : PlanTemplate) (a : PlanAct) (i deadline : Nat) :
    Dev × Bool :=
  if a.kind = 3 then
    match stageOf p a.actId with
    | some 0 =>
      let d := d.newInterval i (d.instBase t i)
      let s := (d.beginSave p deadline).carryPass false
      if d.savesIn i then (s, false) else (d, true)
    | some 1 =>
      if stageCount p = 2 then
        let b : Dev := { d with stl := { d.stl with st := .stageB, manifestsSent := false } }
        if d.savesIn i then (b.carryPass false, false) else (d, true)
      else if d.savesIn i then ((d.carryPass true).beginShadow p deadline, true) else (d, true)
    | _ => if d.savesIn i then ((d.carryPass true).beginShadow p deadline, true) else (d, true)
  else if a.kind = 6 then
    let dd := match p.strandline with | some s => s.d.toNat | none => 0
    if d.savesIn i && d.stl.index.toNat % dd == 0 then
      ({ d with stl := { d.stl with deepMan := d.manifestsAt p d.stl.index true } }, false)
    else (d, true)
  else (d, false)

/-- Every predecessor of instance `i` has started and is complete (R34, R58). -/
def Dev.predsDone (d : Dev) (a : PlanAct) (i : Nat) : Bool :=
  a.preds.all fun q =>
    q == 0xFFFF || match d.run q (BitVec.ofNat 32 i) with
      | some r => d.runComplete r
      | none => false

/-- Instance `i` of an activity starts (R34); `late` where its deadline passed before. -/
def Dev.startRun (d : Dev) (p : StandPlan) (t : PlanTemplate) (a : PlanAct) (i : Nat) (late : Bool) : Dev :=
  let deadline := d.instBase t i + a.deadlineOff.toNat
  let x := d.startStrand p t a i deadline
  let r : ActRun :=
    { act := a.actId, inst := BitVec.ofNat 32 i, clearing := a.clearing.toNat, startPos := d.tide.pos.toNat,
      deadline := deadline, startMark := d.tide.count, late := late, counted := late, done := x.2 }
  { x.1 with sched := { x.1.sched with runs := x.1.sched.runs ++ [r] } }

/-- An instance that has waited for a predecessor starts once every one is complete. -/
def Dev.startWaits (d : Dev) (p : StandPlan) (t : PlanTemplate) (a : PlanAct) : Dev :=
  (d.sched.waits.filter fun w => w.act == a.actId).foldl (fun d w =>
    if d.predsDone a w.inst then
      ({ d with sched := { d.sched with waits := d.sched.waits.filter (· != w) } } : Dev).startRun p t a w.inst w.late
    else d) d

/-- The start position of the next instance of an activity is reached. After ROLLBACK's stop no instance beyond
the last one starts. -/
def Dev.reached (d : Dev) (t : PlanTemplate) (a : PlanAct) (i : Nat) : Bool :=
  d.instBase t i + a.startOff.toNat ≤ d.tide.pos.toNat && !(d.stl.stopAt && d.stl.lastInst.toNat + 1 < i)

/-- Every instance whose start position has been reached starts, or waits for a predecessor (R34). LENGTH is at
least 1, so no more than `fuel` = position + 1 of them are due. -/
def Dev.startDue (p : StandPlan) (t : PlanTemplate) (a : PlanAct) : Nat → Dev → Dev
  | 0, d => d
  | fuel + 1, d =>
    let i := Tab.get 0 d.sched.nextInst a.actId.toNat
    if d.reached t a i then
      let d : Dev := { d with sched := { d.sched with nextInst := Tab.set 0 d.sched.nextInst a.actId.toNat (i + 1) } }
      let d := if d.predsDone a i then d.startRun p t a i false
        else { d with sched := { d.sched with waits := d.sched.waits ++ [{ act := a.actId, inst := i, late := false }] } }
      Dev.startDue p t a fuel d
    else d

/-- The start of one activity's instances at a mark. -/
def Dev.startAct (d : Dev) (p : StandPlan) (t : PlanTemplate) (a : PlanAct) : Dev :=
  Dev.startDue p t a (d.tide.pos.toNat + 1) (d.startWaits p t a)

/-- A recovery runs: from ROLLBACK, TAKEOVER or RESTORE_DEEP until RESUME (R337–R340). -/
def Dev.recovering (d : Dev) : Bool :=
  d.stl.restored || d.stl.st == .rollback || d.stl.st == .fill || d.stl.st == .takeover

/-- A standby runs no template until its takeover, and no device runs one during a recovery (R59, R336,
R340). -/
def Dev.runsTemplates (d : Dev) (p : StandPlan) : Bool :=
  !d.recovering && match p.strandline with
    | some s => s.role == 0 || d.sec.takeover.isSome
    | none => true

def Dev.startActs (d : Dev) : Dev :=
  match d.plan.active with
  | some p =>
    if d.runsTemplates p then
      p.templates.foldl (fun d t => t.acts.foldl (fun d a => d.startAct p t a) d) d
    else d
  | none => d

/-- A run is late: past its deadline and not complete. The shadow activity is never late (R329). -/
def Dev.runLate (d : Dev) (r : ActRun) : Bool :=
  r.deadline ≤ d.tide.pos.toNat && !d.runComplete r

/-- An instance that waits for a predecessor is past its deadline. -/
def Dev.waitLate (d : Dev) (w : ActWait) : Bool :=
  match d.activity w.act with
  | some x => d.instBase x.1 w.inst + x.2.deadlineOff.toNat ≤ d.tide.pos.toNat
  | none => false

/-- Deadlines (R35): each late deadline counts once and raises LATE. Runs that are complete and two
instances old, and that no instance waits for, are forgotten. -/
def Dev.deadlines (d : Dev) : Dev :=
  let fresh := (d.sched.runs.filter fun r => d.runLate r && !r.counted).length +
    (d.sched.waits.filter fun w => d.waitLate w && !w.late).length
  let runs := (d.sched.runs.map fun r =>
    { r with late := d.runLate r, counted := r.counted || d.runLate r }).filter fun r =>
      !(d.runComplete r && r.deadline ≤ d.tide.pos.toNat &&
        r.inst.toNat + 2 < Tab.get 0 d.sched.nextInst r.act.toNat &&
        !d.sched.waits.any fun w => w.inst == r.inst.toNat)
  let d : Dev := { d with
    sched := { d.sched with
      runs := runs, waits := d.sched.waits.map fun w => { w with late := w.late || d.waitLate w } },
    tide := { d.tide with lateCount := satAdd d.tide.lateCount fresh } }
  d.raiseIf (fresh != 0) .tide 0

/-! ## Saves commit (R330) -/

/-- At its deadline the shadow activity stops sending. -/
def Dev.endShadow (d : Dev) : Dev :=
  match d.stl.shadowEnd with
  | some dl =>
    if dl ≤ d.tide.pos.toNat then { d with stl := { d.stl with pendS := [], shadowEnd := none } } else d
  | none => d

def Dev.commitSave (d : Dev) : Dev :=
  match d.stl.stageDeadline with
  | some dl =>
    if dl < d.tide.pos.toNat then
      ({ d with stl := { d.stl with committed := d.stl.index, stageDeadline := none } } : Dev).raise
        .stl 1
    else d
  | none => d

/-! ## Trap records (R111–R115) -/

/-- The fixed order in which NaN events latch (R113). Log entry 45 (DEDUCED). -/
def nanKey (e : NanEvent) : List Nat := [e.queue, e.seq.toNat, e.sweep, e.row, e.col, e.k]

def lexLt : List Nat → List Nat → Bool
  | a :: as, b :: bs => decide (a < b) || (a == b && lexLt as bs)
  | _, _ => false

def firstNan : List NanEvent → Option NanEvent
  | [] => none
  | e :: es => match firstNan es with
    | none => some e
    | some x => if lexLt (nanKey x) (nanKey e) then some x else some e

/-- At a mark, a pending release empties the record first, and then the first of the events since
the previous mark latches into an empty record (R113, R115). -/
def latchNum (pos : BitVec 64) (n : Num) : Num :=
  let kept := if n.release then none else n.trap
  match kept with
  | some e => { n with release := false, events := [], trap := some e }
  | none => match firstNan n.events with
    | some e => { n with release := false, events := [], trap := some e, trapPos := pos }
    | none => { n with release := false, events := [], trap := none,
                       trapPos := if n.release then 0 else n.trapPos }

def Dev.latchTraps (d : Dev) : Dev :=
  (List.range 16).foldl (fun d n => d.modNum n (latchNum d.tide.pos)) d

/-! ## Scheduled rekeys (R220) -/

/-- The clearing's first template. -/
def firstTemplate (p : StandPlan) (n : Nat) : Option PlanTemplate :=
  p.templates.find? fun t => t.acts.any (·.clearing.toNat == n)

/-- The base of an instance `i ≥ 1` with `i mod s = 0` was passed between two positions. -/
def Dev.rekeyDue (d : Dev) (t : PlanTemplate) (s : Nat) (old new : Nat) : Bool :=
  let b := t.base.toNat + d.sched.delta
  if new < b || s = 0 || t.length = 0 then false
  else
    let i := (new - b) / t.length.toNat
    i != 0 && i % s == 0 && old < b + i * t.length.toNat

/-- A fresh pair enters both shadows, to be swapped at this position (R218, R220).
Log entry 55 (DEDUCED). -/
def Dev.rekeyPair (d : Dev) (n : Nat) : Dev :=
  match d.keySlot n 0, d.keySlot n 1 with
  | some e, some o =>
    if (d.slot e).shadow.isSome || (d.slot o).shadow.isSome then
      d.modFrame n fun x => { x with rekeyWaits := true }
    else if d.sec.trngFail then d
    else
      let k := d.random
      let put (x : Slot) : Slot :=
        { x with
          shadow := some { key := k, kcv := kcvOf k 16, attr := x.attr, owner := x.owner, mask := x.mask,
                           source := 3, bundleOk := false },
          swapPos := some d.tide.pos }
      ((d.modSlot e put).modSlot o put).tick
  | _, _ => d

def Dev.rekeys (d : Dev) (old : Nat) : Dev :=
  match d.plan.active with
  | some p => p.keyPolicy.foldl (fun d k =>
      match firstTemplate p k.clearing.toNat with
      | some t =>
        if d.rekeyDue t k.rekeySteps.toNat old d.tide.pos.toNat then d.rekeyPair k.clearing.toNat
        else d
      | none => d) d
  | none => d

/-! ## Waits, counters, settings -/

/-- TIDE_WAITs whose POSITION is reached complete (R285). Log entry 73 (DEDUCED). -/
def Dev.endTideWaits (d : Dev) : Dev :=
  (d.cmds.filter fun p => p.2.opcode == 8 && p.2.ph == .running &&
      decide (fld p.2.raw 16 8 ≤ d.tide.pos.toNat)).foldl
    (fun d p => d.completeCmd p.1 p.2 .ok .none 0 0) d

/-- MEM_DERATE_MARKS counts the marks a stack spends DERATED; PWR_SHAPE takes effect. -/
def Dev.markCounters (d : Dev) : Dev :=
  let count (k : StackSt) : StackSt := if k.therm = 1 then { k with derate := satInc k.derate } else k
  let d : Dev := { d with mem := { d.mem with stk := Tab.each StackSt.reset d.mem.stk fun _ k => count k } }
  match d.pwr.shapeNew with
  | some (r, s) => { d with pwr := { d.pwr with ramp := r, stepNs := s, shapeNew := none } }
  | none => d

/-! ## Taking a mark -/

/-- The schedule effects of a mark whose position does not decrease. At an apply mark, activities start once the
armed plan has taken effect. -/
def Dev.schedule (d : Dev) (old : Nat) : Dev :=
  let d := d.latchTraps
  let d := d.commitSave.endShadow
  let d := d.rekeys old
  let d := if d.applyCommits then d else d.startActs
  let d := d.deadlines
  let d := d.endTideWaits
  let d : Dev := { d with stl := { d.stl with deepNeed := BitVec.ofNat 64 d.deepNeed } }
  d.markCounters

/-- The host's request shrinks by the marks already held since it was first sent (R36). -/
def heldHost (t : Tide) (shift : BitVec 48) : BitVec 8 :=
  let held := shift.toNat - t.shift.toNat
  if t.hostSent && t.firstSeen then BitVec.ofNat 8 (t.hostReq.toNat - held) else t.hostReq

/-- A device takes a mark: R33's position, or TIDE_SPLIT where it would decrease; then the schedule
and the return record. `hop` is the device's depth. The record that splits is taken all the same: its count, shift
and epoch show, and LOCKED reads 1. Log entries 31 (DEDUCED), 117 (DESIGN CHOICE). -/
def Dev.takeMark (d : Dev) (r : MarkRec) (hop : BitVec 8) (needs : List Need) : Dev :=
  let d := d.countChildren
  let old := d.tide.pos
  let pos := r.count - r.shift.setWidth 64
  let splits := d.tide.firstSeen && decide (pos.toNat < old.toNat)
  let from_ := if d.tide.firstSeen then old.toNat else pos.toNat
  let shift₀ := if d.tide.firstSeen then d.tide.shift else r.shift
  let d : Dev := { d with tide := { d.tide with
    hostReq := heldHost d.tide r.shift,
    count := r.count, shift := r.shift, pendingSb := r.pending, epoch := r.epoch,
    source := r.source, hop := hop, locked := true, missing := 0, firstSeen := true,
    auxHiZ := false } }
  let d : Dev := { d with plan := { d.plan with
    due := d.plan.st == .armed && !splits && decide ((d.plan.applyHi ++ d.plan.applyLo).toNat ≤ pos.toNat) } }
  let d := d.auxPulse.tideOut
  let needs := d.standing needs (r.shift.toNat - shift₀.toNat)
  if splits then
    let d : Dev := { d with tide := { d.tide with split := true } }
    ((d.raise .tide 6).haltAll .aborted .clearingHalted).sendReturn needs
  else
    let d : Dev := { d with tide := { d.tide with pos := pos } }
    (d.schedule from_).sendReturn needs

end Sys2Proof.Machine
end

