-- ==== Sys2Proof/Machine/PlanLoad.lean ====
section
/-! DEFINITION. The plan loader's checks, in the order of R65 (chapter 03). Each check answers the
section type and the entry of the first failure. -/

namespace Sys2Proof

/-! ## Check 3: FORMAT (R44, R45) -/

/-- A failure's place: section type and entry. -/
abbrev Place := Nat × Nat

/-- The first place of a list of conditions that fails. -/
def firstFail : List (Bool × Nat × Nat) → Option Place
  | [] => none
  | c :: cs => if c.1 then firstFail cs else some c.2

/-- The first failure of a list. -/
def firstSome : List (Option Place) → Option Place
  | [] => none
  | some x :: _ => some x
  | none :: xs => firstSome xs

/-- Every entry of a list, numbered, is tested. -/
def failIn {α : Type} (section_ : Nat) (p : α → Bool) (xs : List α) : Option Place :=
  (xs.zipIdx.find? fun x => !p x.1).map fun x => (section_, x.2)

/-- The fixed section sizes of R45. -/
def fixedLen (type : Nat) : Option Nat :=
  match type with
  | 0x01 => some 64 | 0x03 => some 524 | 0x04 => some 3264 | 0x06 => some 1793 | 0xFF => some 64
  | _ => none

def requiredSections : List Nat := [1, 2, 3, 4, 5, 6, 7, 8, 9, 12, 14, 15, 255]
def optionalSections : List Nat := [10, 11, 13]

/-- Sections may lie in any order of offset; none overlaps another (R45). -/
def noOverlap : List (Nat × Nat) → Bool
  | [] => true
  | x :: xs => xs.all (fun y => x.1 + x.2 ≤ y.1 || y.1 + y.2 ≤ x.1) && noOverlap xs

def ascendingTypes : List DirEntry → Bool
  | e :: f :: es => decide (e.type.toNat < f.type.toNat) && ascendingTypes (f :: es)
  | _ => true

def StandPlan.hasSection (p : StandPlan) (t : Nat) : Bool := p.dir.any fun e => e.type.toNat == t

/-- Log entry 23 (DESIGN CHOICE). -/
def StandPlan.formatFail (p : StandPlan) (planLen : Nat) : Option Place :=
  let h := p.header
  let n := p.dir.length
  let total := h.totalLength.toNat
  let sig := p.dir.getLast?
  firstSome [firstFail [
    (h.magic == 0x4C505356 && h.version == 1 && h.flags.toNat / 2 == 0 &&
      h.addr.toNat / 2 ^ 20 == 0 && h.reservedZero, 0, 0),
    (h.sectionCount.toNat == n && 13 ≤ n && n ≤ 16, 0, 0),
    (total == planLen && total ≤ 16777216, 0, 0),
    (ascendingTypes p.dir && p.dir.all (fun e => e.reservedZero && e.offset.toNat % 64 == 0 &&
      64 + 16 * n ≤ e.offset.toNat && e.offset.toNat + e.length.toNat ≤ total), 0, 0),
    (p.dir.all (fun e => (requiredSections ++ optionalSections).contains e.type.toNat) &&
      requiredSections.all p.hasSection, 0, 0),
    (noOverlap (p.dir.map fun e => (e.offset.toNat, e.length.toNat)) && p.paddingZero, 0, 0),
    ((match sig with
      | some e => e.type == 0xFF && e.offset.toNat + e.length.toNat == total
      | none => false), 0xFF, 0),
    (p.strandline.isSome == p.hasSection 10 && p.escalation.isSome == p.hasSection 11 &&
      p.trace.isSome == p.hasSection 13, 0, 0)],
    p.dir.zipIdx.findSome? fun x =>
      if some x.1.length.toNat == (fixedLen x.1.type.toNat <|> p.layoutLens[x.2]?) then none
      else some (x.1.type.toNat, 0)]

/-! ## Check 5: SIGNER (R46, R47) -/

def StandPlan.bench (p : StandPlan) : Bool := p.header.flags.getLsbD 0

/-- R47 is met: one self-signed certificate, no owner but 0, no sealed bundle, DEVICE_SET_ID 0. -/
def StandPlan.benchRules (p : StandPlan) (v : PlanVerdict) : Bool :=
  v.selfSigned && p.chainCerts == 1 && p.header.setId == 0 &&
    (List.range 16).all (fun n => match p.clr n with | some c => c.owner == 0 | none => true) &&
    p.ownerMask.toNat / 2 == 0 && p.keyPolicy.all (fun k => k.source != 0)

/-! ## Check 8: TIDE (R24, R25, R412) -/

def StandPlan.tideFail (p : StandPlan) (strap : Bool) : Option Place :=
  let auxClaimed := p.claims.any fun c =>
    c.cls == 1 && c.section_ == 2 && c.first.toNat == 0
  firstFail [
    (p.tide.role != 2 || strap, 2, 0),
    (1000 ≤ p.tide.periodNs.toNat && p.tide.periodNs.toNat ≤ 1000000, 2, 0),
    (p.tide.depth ≤ 63, 2, 0),
    (!auxClaimed || p.tide.div != 0, 2, 0)]

/-! ## Check 10: STRUCTURE (R48–R53, R56, R59, R61, R118, R322, R350) -/

/-- R48 for the valid descriptor at position `n`. -/
def PlanClearing.ok (c : PlanClearing) (n : Nat) : Bool :=
  !c.valid ||
    (c.arith.toNat % 4 != 3 && c.arith.toNat / 4 % 8 ≤ 4 && c.arith.toNat / 32 % 4 != 3 &&
      c.arith.toNat / 128 == 0 && c.index.toNat == n && c.queueCount != 0 && c.tiles != 0 &&
      c.flags.toNat / 2 == 0 && c.reservedZero && c.queueBase.toNat + c.queueCount.toNat ≤ 4096)

/-- A gang table code that R118 accepts. -/
def gangCodeOk (c : Byte) : Bool :=
  c.toNat / 64 == 0 || (c.toNat / 64 != 3 && c.toNat % 64 == 0)

/-- The clearing whose queue range overlaps an earlier one (R49). -/
def StandPlan.queueOverlap (p : StandPlan) : Option Nat :=
  (List.range 16).find? fun n => (List.range n).any fun m =>
    match p.clr m, p.clr n with
    | some a, some b => !(a.queueBase.toNat + a.queueCount.toNat ≤ b.queueBase.toNat ||
        b.queueBase.toNat + b.queueCount.toNat ≤ a.queueBase.toNat)
    | _, _ => false

/-- The lowest clearing that holds a part of a gang of this region and not the whole (R49). -/
def StandPlan.gangSplit (p : StandPlan) (region : Nat) : Option Nat :=
  let code := match p.gangs[region]? with | some c => c.toNat | none => 0
  (List.range 16).find? fun n => match p.clr n with
    | some c => (regionGangs code).any fun g =>
        !(g.1.all (fun t => c.tiles.getLsbD (8 * region + t)) ||
          g.1.all (fun t => !c.tiles.getLsbD (8 * region + t)))
    | none => false

/-- R50 for mask `f`. -/
def StandPlan.maskOk (p : StandPlan) (f : Nat) (m : BitVec 1536) : Bool :=
  f == 16 || (match p.clr f with | some _ => m != 0 | none => m == 0)

/-- R51: one descriptor, apart from its fit in the carve-out. An empty region is refused.
Log entry 104 (DESIGN CHOICE). -/
def PlanRegion.ok (r : PlanRegion) : Bool :=
  r.clearing.toNat ≤ 16 && r.mode.toNat ≤ 2 && r.sector.toNat ≤ 1 &&
    !(r.mode == 2 && r.sector == 1) && r.reservedZero && r.count != 0 &&
    !(r.clearing == 16 && r.mode != 1)

/-- The REGIONS descriptor that overlaps an earlier one of its frame or leaves the carve-out (R51). -/
def StandPlan.regionStray (p : StandPlan) : Option Nat :=
  (p.regions.zipIdx.find? fun x =>
    let r := x.1
    (p.granules r.clearing.toNat).length < r.first.toNat + r.count.toNat ||
      (p.regions.take x.2).any fun y => y.clearing == r.clearing &&
        !(y.first.toNat + y.count.toNat ≤ r.first.toNat || r.first.toNat + r.count.toNat ≤ y.first.toNat)).map (·.2)

/-- A frame whose carve-out its regions do not cover, by the place of its last descriptor, 0 where it has none (R51). -/
def StandPlan.regionGap (p : StandPlan) : Option Nat :=
  ((List.range 17).find? fun f =>
    ((p.regionsOf f).map (·.count.toNat)).foldl (· + ·) 0 != (p.granules f).length).map fun f =>
      (((p.regions.zipIdx.filter fun x => x.1.clearing.toNat == f).map (·.2)).getLast?).getD 0

/-- R53 for an enabled link; FAR_LINK names one of 64 links. Log entry 105 (DESIGN CHOICE). -/
def PlanLink.ok (e : PlanLink) (ports : Bool) : Bool :=
  !e.enabled ||
    (e.data.toNat + e.strand.toNat + e.tidectl.toNat + e.cover.toNat == 64 && e.tidectl != 0 &&
      e.group.toNat < (if ports then 32 else 64) && e.farLink.toNat < 64 && e.reservedZero)

/-- The links of a port are consecutive, 1, 2, 4, 8 or 16 of them, from a multiple of their number
(R53). -/
def StandPlan.portOk (p : StandPlan) (g : Nat) : Bool :=
  let ls := (p.links.zipIdx.filter fun e => e.1.enabled && e.1.group.toNat == g).map (·.2)
  match ls with
  | [] => true
  | l :: _ => [1, 2, 4, 8, 16].contains ls.length && l % ls.length == 0 &&
      ls == (List.range ls.length).map (l + ·)

/-- R53 for the clearing fractions of group `g`. -/
def fractionsOk (ports : Bool) (g : Nat) (fs : List Byte) : Bool :=
  let sum := (fs.map (·.toNat)).foldl (· + ·) 0
  sum ≤ 64 && !(ports && 32 ≤ g && sum != 0)

def StandPlan.linkUp (p : StandPlan) (l : BitVec 6) : Bool :=
  match p.links[l.toNat]? with
  | some e => e.enabled
  | none => false

/-- The lowest enabled link of a group. -/
def StandPlan.firstLink (p : StandPlan) (g : Nat) : Nat :=
  ((p.links.zipIdx.find? fun e => e.1.enabled && e.1.group.toNat == g).map (·.2)).getD 0

/-- A link that TIDE names as parent or alternate parent and that is not enabled (R53). -/
def StandPlan.parentDown (p : StandPlan) : Option (BitVec 6) :=
  if p.tide.role == 1 || p.tide.role == 2 then none
  else if !p.linkUp p.tide.parent then some p.tide.parent
  else if p.tide.altValid && !p.linkUp p.tide.altParent then some p.tide.altParent
  else none

/-- R56 for one entry: of a valid clearing, with content slots (0x10–0xFF, R212).
Log entries 42 (DEDUCED), 106 (DESIGN CHOICE). -/
def StandPlan.keyOk (p : StandPlan) (k : PlanKey) : Bool :=
  (p.clr k.clearing.toNat).isSome && k.slotCount != 0 && 16 ≤ k.slotFirst.toNat &&
    k.slotFirst.toNat + k.slotCount.toNat ≤ 256 && k.source.toNat ≤ 1

/-- R59 and the fixed part of R322. -/
def StandPlan.strandOk (p : StandPlan) (s : PlanStrand) : Bool :=
  let self := p.header.addr.setWidth 20
  (s.k == 1 || s.k == 2) && s.role.toNat ≤ 1 && s.d != 0 && s.tauMinSteps != 0 &&
    1 ≤ s.tauMaxS.toNat && s.tauMaxS.toNat ≤ 600 && s.buddy0 != self &&
    (if s.k = 2 then s.buddy1 != self && s.buddy1 != s.buddy0 else s.buddy1 == 0) &&
    s.saves.length ≤ 256 && s.peers.length ≤ 8 && s.lossClearing.toNat < 16 &&
    (match p.templates.find? (·.templateId == s.template) with
     | some t => t.acts.any fun a => a.actId == s.lossAct && a.kind == 0 && a.clearing == s.lossClearing
     | none => false)

/-- R322 for a SAVE entry: inside its region's data space, which is not CIPHER_ONLY. -/
def StandPlan.saveOk (p : StandPlan) (e : PlanSave) : Bool :=
  e.first.toNat % 4096 == 0 && e.clearing.toNat < 16 &&
    match p.region e.clearing.toNat e.region.toNat with
    | some r => r.mode != 2 && e.first.toNat + 4096 * e.chunks.toNat ≤ r.dataBytes
    | none => false

/-- R322 for a PEER entry: inside the data space of a reserve region. -/
def StandPlan.peerOk (p : StandPlan) (e : PlanPeer) : Bool :=
  match p.region 16 e.region.toNat with
  | some r => 2 ^ 20 * (e.firstMib.toNat + e.sizeMib.toNat) ≤ r.dataBytes
  | none => false

/-- No two ranges of one space overlap: (space, first, length). -/
def rangesApart : List (Nat × Nat × Nat) → Bool
  | [] => true
  | x :: xs => xs.all (fun y => x.1 != y.1 || x.2.1 + x.2.2 ≤ y.2.1 || y.2.1 + y.2.2 ≤ x.2.1) &&
      rangesApart xs

/-- The number of resources of a claim class (R61). -/
def classSize (c : Nat) : Nat :=
  match c with
  | 1 => 2 | 2 => 64 | 3 => 16 | 4 => 4096 | 5 => 1536 | 6 => 512 | 7 => 96 | 8 => 1536 | 9 => 256
  | _ => 0

def PlanClaim.ok (c : PlanClaim) : Bool :=
  c.reservedZero && c.first.toNat ≤ c.last.toNat && c.last.toNat < classSize c.cls.toNat

/-- A resource is claimed by a feature (R61). Log entry 42 (DEDUCED). -/
def StandPlan.claimed (p : StandPlan) (cls index section_ : Nat) (entry : Option Nat) : Bool :=
  p.claims.any fun c => c.cls.toNat == cls && c.section_.toNat == section_ &&
    (match entry with | some e => c.entry.toNat == e | none => true) &&
    c.first.toNat ≤ index && index ≤ c.last.toNat

/-- The enabled links of a group. -/
def StandPlan.linksIn (p : StandPlan) (g : Nat) : List Nat :=
  (p.links.zipIdx.filter fun e => e.1.enabled && e.1.group.toNat == g).map (·.2)

/-- An activity's stage claims the collector slots it fills, and its kind claims virtual channel 1 of the links
that it sends on (R255, R265). Log entry 42 (DEDUCED). -/
def StandPlan.stageClaimed (p : StandPlan) (a : PlanAct) (i : Nat) : Bool :=
  a.stage.ins.all (fun x => p.claimed 4 x.slot.toNat 9 (some i)) &&
    a.stage.outs.all fun o => o.group == 0xFF ||
      (p.linksIn o.group.toNat).all fun l => p.claimed 6 (8 * l + 1) 9 none

/-- Features claim what they use: the watchdog timer of each clearing (R350), TIDE_OUT, the trace trigger's ball, the
collector slots and channels of the schedule's stages, and virtual channel 2 of the links with a STRAND share where
the plan has a strandline. Log entry 42 (DEDUCED). -/
def StandPlan.usesClaimed (p : StandPlan) : Option Place :=
  firstSome [
    (List.range 16).findSome? fun n =>
      if (p.clr n).isSome && !p.claimed 3 n 3 (some n) then some (3, n) else none,
    if p.tide.outEn && !p.claimed 1 1 2 none then some (2, 0) else none,
    match p.trace with
    | some ts => if ts != [] && !p.claimed 1 0 13 none then some (13, 0) else none
    | none => none,
    ((p.templates.flatMap (·.acts)).zipIdx.find? fun x => !p.stageClaimed x.1 x.2).map fun x => (9, x.2),
    if p.strandline.isSome && (p.links.zipIdx.any fun e => e.1.enabled && e.1.strand != 0 &&
        !p.claimed 6 (8 * e.2 + 2) 10 none) then some (10, 0) else none]

/-- R322 for the STRANDLINE section. -/
def StandPlan.strandFail (p : StandPlan) (s : PlanStrand) : Option Place :=
  firstSome [
    firstFail [(p.strandOk s, 10, 0),
      (rangesApart (s.saves.map saveRange), 10, 0), (rangesApart (s.peers.map peerRange), 10, 0)],
    failIn 10 p.saveOk s.saves, failIn 10 p.peerOk s.peers]
where
  saveRange (e : PlanSave) : Nat × Nat × Nat :=
    (2048 * e.clearing.toNat + e.region.toNat, e.first.toNat, 4096 * e.chunks.toNat)
  peerRange (e : PlanPeer) : Nat × Nat × Nat := (e.region.toNat, e.firstMib.toNat, e.sizeMib.toNat)

def StandPlan.linksFail (p : StandPlan) : Option Place :=
  firstSome [
    firstFail [(p.linkMode.toNat ≤ 1 && p.links.length == 64 && p.fractions.length == 64, 6, 0)],
    failIn 6 (fun e => PlanLink.ok e (p.linkMode == 1)) p.links,
    if p.linkMode = 1 then ((List.range 32).find? fun g => !p.portOk g).map fun g => (6, p.firstLink g) else none,
    (p.fractions.zipIdx.find? fun x => !fractionsOk (p.linkMode == 1) x.2 x.1).map fun x => (6, x.2),
    p.parentDown.map fun l => (6, l.toNat)]

/-- Log entry 23 (DESIGN CHOICE). -/
def StandPlan.structureFail (p : StandPlan) : Option Place :=
  firstSome [
    (p.clearings.zipIdx.find? fun x => !PlanClearing.ok x.1 x.2).map fun x => (3, x.2),
    failIn 3 gangCodeOk p.gangs,
    firstFail [
      (p.clearings.length == 16 && p.carveouts.length == 17, 3, 0),
      (p.gangs.length == 12, 3, 0)],
    p.queueOverlap.map fun n => (3, n), ((List.range 12).findSome? p.gangSplit).map fun n => (3, n),
    (p.carveouts.zipIdx.find? fun x => !p.maskOk x.2 x.1).map fun x => (4, x.2),
    failIn 5 PlanRegion.ok p.regions,
    p.regionStray.map fun i => (5, i), p.regionGap.map fun i => (5, i),
    firstFail [(p.device.shaded.toNat ≤ 1 && p.device.tamperPolicy.toNat ≤ 1 && p.device.reservedZero, 1, 0)],
    p.linksFail,
    failIn 8 p.keyOk p.keyPolicy,
    match p.strandline with
    | none => none
    | some s => p.strandFail s,
    failIn 12 PlanClaim.ok p.claims, p.usesClaimed]

/-! ## Check 11: FLOW (R54, R55, R221) -/

def StandPlan.isCommons (p : StandPlan) (n : Nat) : Bool :=
  match p.clr n with | some c => c.owner == 0 | none => false

def StandPlan.isHolding (p : StandPlan) (n : Nat) : Bool :=
  match p.clr n with | some c => c.owner != 0 | none => false

/-- The contributors of a CONFLUENCE are at least Q holdings, each of a different owner (R55). -/
def StandPlan.contributorsOk (p : StandPlan) (f : PlanFlow) : Bool :=
  let ns := (List.range 16).filter fun n => f.contributors.getLsbD n
  let owners := ns.map fun n => match p.clr n with | some c => c.owner.toNat | none => 0
  ns.all p.isHolding && p.quorum.toNat ≤ ns.length && owners.dedup.length == owners.length

/-- The permitted flows of R54. A CONFLUENCE whose DST is not 0xFF is refused. Log entry 107 (DESIGN CHOICE). -/
def StandPlan.flowOk (p : StandPlan) (f : PlanFlow) : Bool :=
  match f.kind.toNat with
  | 1 => p.isCommons f.src.toNat && p.isHolding f.dst.toNat
  | 2 => p.isCommons f.src.toNat && f.dst == 0xFF && p.contributorsOk f
  | 3 => p.isHolding f.src.toNat && f.dst == 0xFF
  | 4 => p.isCommons f.src.toNat && f.dst == 0xFF
  | 5 => (p.clr f.src.toNat).isSome && f.dst == 0xFF
  | _ => false

def StandPlan.flowFail (p : StandPlan) (policy : Option SetPolicy) : Option Place :=
  let roster := match policy with
    | some s => (List.range 64).all fun o =>
        !p.ownerMask.getLsbD o || s.roster.any (·.1.toNat == o)
    | none => true
  firstSome [firstFail [
    ((p.clearings.filter (·.valid)).all (fun c => p.ownerMask.getLsbD c.owner.toNat), 7, 0),
    (roster, 7, 0), (2 ≤ p.quorum.toNat && p.quorum.toNat ≤ 63, 7, 0)],
    failIn 7 p.flowOk p.flows]

/-! ## Check 12: SCHEDULE (R57, R58, R312, R329) -/

def StandPlan.acts (p : StandPlan) : List PlanAct := p.templates.flatMap (·.acts)

/-- R57 and R58 for one entry of a template, whose earlier entries are `before`. -/
def StandPlan.actOk (p : StandPlan) (t : PlanTemplate) (before : List PlanAct) (a : PlanAct) : Bool :=
  a.actId != 0xFFFF && a.kind.toNat ≤ 6 && a.startOff.toNat ≤ t.length.toNat &&
    a.startOff.toNat ≤ a.deadlineOff.toNat &&
    a.deadlineOff.toNat - a.startOff.toNat ≤ t.length.toNat &&
    a.preds.all (fun q => q == 0xFFFF || before.any (·.actId == q)) &&
    (match p.clr a.clearing.toNat with
     | some c => c.hasQueue a.queue.toNat && (a.kind != 5 || c.flags.getLsbD 0)
     | none => false) &&
    ((a.kind != 1 && a.kind != 2) || a.rflags.getLsbD 0 || a.rflags.getLsbD 1)

def StandPlan.templateFail (p : StandPlan) (t : PlanTemplate) (base : Nat) : Option Place :=
  (t.acts.zipIdx.find? fun x => !p.actOk t (t.acts.take x.2) x.1).map fun x => (9, base + x.2)

/-- R329: stage B follows stage A, and the next save's stage A follows the last stage.
Log entry 42 (DEDUCED). -/
def StandPlan.stagesOk (p : StandPlan) (s : PlanStrand) : Bool :=
  match p.templates.find? (·.templateId == s.template) with
  | none => false
  | some t =>
    match t.acts.filter (·.kind == 3) with
    | a :: rest =>
      if s.k = 1 then a.deadlineOff.toNat ≤ t.length.toNat + a.startOff.toNat
      else match rest with
        | b :: _ => b.preds.contains a.actId && decide (a.deadlineOff.toNat < b.startOff.toNat) &&
            b.deadlineOff.toNat ≤ t.length.toNat + a.startOff.toNat
        | [] => false
    | [] => false

def templatesFail (p : StandPlan) : List PlanTemplate → Nat → Option Place
  | [], _ => none
  | t :: ts, base => firstSome [p.templateFail t base, templatesFail p ts (base + t.acts.length)]

/-- The entry whose ACT_ID an earlier entry has (R57). -/
def StandPlan.idTwice (p : StandPlan) : Option Nat :=
  (p.acts.zipIdx.find? fun x => (p.acts.take x.2).any (·.actId == x.1.actId)).map (·.2)

/-- The first entry of a template whose LENGTH is 0 (R57). -/
def lengthZero : List PlanTemplate → Nat → Option Nat
  | [], _ => none
  | t :: ts, base => if t.length = 0 then some base else lengthZero ts (base + t.acts.length)

def StandPlan.scheduleFail (p : StandPlan) : Option Place :=
  firstSome [firstFail [(p.templates.length ≤ 16 && p.acts.length ≤ 4096, 9, 0)],
    (lengthZero p.templates 0).map fun i => (9, i), p.idTwice.map fun i => (9, i),
    templatesFail p p.templates 0,
    match p.strandline with
    | some s => if p.stagesOk s then none else some (9, 0)
    | none => none]

/-! ## Check 13: ESCALATION (R60) -/

/-- `e` is equal to or tighter than `o`, and no timeout or count is under its minimum. -/
def PlanEsc.tighter (e o : PlanEsc) : Bool :=
  50 ≤ e.engTimeoutUs && e.engTimeoutUs ≤ o.engTimeoutUs && 1 ≤ e.engCount &&
    e.engCount ≤ o.engCount && o.engWindowS ≤ e.engWindowS && 10000 ≤ e.clrTimeoutUs &&
    e.clrTimeoutUs ≤ o.clrTimeoutUs && 1 ≤ e.clrCount && e.clrCount ≤ o.clrCount &&
    o.clrWindowS ≤ e.clrWindowS && 1 ≤ e.fenced24h && e.fenced24h ≤ o.fenced24h && 1 ≤ e.cold24h &&
    e.cold24h ≤ o.cold24h

/-! ## Check 14: PLAN_CONFLICT (R61, R62) -/

/-- A claim: class, first and last index, claimant section and entry, and where it is made. -/
structure Claim where
  cls      : Nat
  first    : Nat
  last     : Nat
  section_ : Nat
  entry    : Nat
  place    : Place
deriving DecidableEq, Repr

/-- The claims in the order of R61: implicit claims of CLEARINGS, CARVEOUTS and KEY_POLICY, then the
CLAIMS entries. -/
def StandPlan.allClaims (p : StandPlan) : List Claim :=
  let bits (cls sect entry v n : Nat) : List Claim :=
    ((List.range n).filter (fun i => v.testBit i)).map fun i =>
      { cls := cls, first := i, last := i, section_ := sect, entry := entry, place := (sect, entry) }
  (p.clearings.zipIdx.flatMap fun x => if x.1.valid then bits 7 3 x.2 x.1.tiles.toNat 96 else []) ++
  (p.carveouts.zipIdx.flatMap fun x => bits 8 4 x.2 x.1.toNat 1536) ++
  (p.keyPolicy.zipIdx.map fun x =>
    { cls := 9, first := x.1.slotFirst.toNat, last := x.1.slotFirst.toNat + x.1.slotCount.toNat - 1,
      section_ := 8, entry := x.2, place := (8, x.2) }) ++
  p.claims.zipIdx.map fun x =>
    { cls := x.1.cls.toNat, first := x.1.first.toNat, last := x.1.last.toNat,
      section_ := x.1.section_.toNat, entry := x.1.entry.toNat, place := (12, x.2) }

/-- The lowest class and index at which a claim meets a later one of a list. -/
def meetings (c : Claim) (ds : List Claim) : List (Nat × Nat) :=
  ds.filterMap fun e =>
    if c.cls = e.cls && decide (max c.first e.first ≤ min c.last e.last) then
      some (c.cls, max c.first e.first)
    else none

def allMeetings : List Claim → List (Nat × Nat)
  | [] => []
  | c :: cs => meetings c cs ++ allMeetings cs

def lowest : List (Nat × Nat) → Option (Nat × Nat)
  | [] => none
  | x :: xs => match lowest xs with
    | none => some x
    | some y => if x.1 < y.1 || (x.1 == y.1 && decide (x.2 ≤ y.2)) then some x else some y

/-- The conflict that R62 reports: claimants A and B, and the resource. -/
def StandPlan.conflict (p : StandPlan) : Option (Claim × Claim × Nat × Nat) :=
  let cs := p.allClaims
  match lowest (allMeetings cs) with
  | none => none
  | some r =>
    match cs.filter fun c => c.cls == r.1 && c.first ≤ r.2 && r.2 ≤ c.last with
    | a :: b :: _ => some (a, b, r)
    | _ => none

/-! ## Check 15: REPORT (R63) -/

def StandPlan.reportFail (p : StandPlan) : Option Place :=
  let b (i : Nat) : Bool := p.report.getLsbD i
  let claimed := b 3
  let acts := p.acts.zipIdx
  if claimed != (b 0 && b 1 && b 2) then some (14, 0)
  else if !claimed then none
  else (acts.find? fun x =>
    ((x.1.kind == 1 || x.1.kind == 2) && !x.1.rflags.getLsbD 0 && !x.1.rflags.getLsbD 1) ||
      ((x.1.kind == 0 || x.1.kind == 5) && !x.1.rflags.getLsbD 2)).map fun x => (9, x.2)

/-! ## Check 16: REPLACEMENT (R67) -/

/-- The SCHEDULE entries that name clearing `n`, each with its template's header, so that a change of the header
alone changes the clearing. Log entry 108 (DESIGN CHOICE). -/
def StandPlan.actsOf (p : StandPlan) (n : Nat) : List (BitVec 16 × BitVec 64 × Word × PlanAct) :=
  p.templates.flatMap fun t => (t.acts.filter (·.clearing.toNat == n)).map fun a =>
    (t.templateId, t.base, t.length, a)

/-- The flow names clearing `n` as source, destination or contributor. -/
def PlanFlow.about (f : PlanFlow) (n : Nat) : Bool :=
  f.src.toNat == n || f.dst.toNat == n || f.contributors.getLsbD n

/-- The codes of the gang regions that hold any of the clearing's tiles. -/
def StandPlan.gangCodesOf (p : StandPlan) (n : Nat) : List (Nat × Byte) :=
  match p.clr n with
  | some c => (p.gangs.zipIdx.filter fun x => c.tiles.toNat / 2 ^ (8 * x.2) % 256 != 0).map
      fun x => (x.2, x.1)
  | none => []

/-- Descriptor, carve-out, regions and KEY_POLICY entries of clearing `n` agree. -/
def sameShape (a b : StandPlan) (n : Nat) : Bool :=
  a.clr n == b.clr n && (a.carveouts[n]?) == (b.carveouts[n]?) && a.regionsOf n == b.regionsOf n &&
    a.keyPolicy.filter (·.clearing.toNat == n) == b.keyPolicy.filter (·.clearing.toNat == n)

/-- Clearing `n` is changed between two plans (R67); in a takeover load only its shape counts
(R337). -/
def clrChanged (a b : StandPlan) (takeover : Bool) (n : Nat) : Bool :=
  !sameShape a b n ||
    (!takeover &&
      (a.flows.filter (·.about n) != b.flows.filter (·.about n) || a.actsOf n != b.actsOf n ||
        a.gangCodesOf n != b.gangCodesOf n ||
        (a.quorum != b.quorum && a.flows.any fun f => f.kind == 2 && f.about n)))

/-- PLAN_CHANGED: the clearings of either plan that are changed. -/
def changedMask (a b : StandPlan) (takeover : Bool) : BitVec 16 :=
  ((List.range 16).filter fun n =>
      ((a.clr n).isSome || (b.clr n).isSome) && clrChanged a b takeover n).foldl
    (fun m n => m ||| BitVec.ofNat 16 (2 ^ n)) 0

/-- A link entry without the fields that a re-cabling replacement may change. -/
def PlanLink.fixed (e : PlanLink) : PlanLink := { e with nbrAddr := 0, farLink := 0 }

/-- The clearing, if any, whose change lets a claim change: the claimant's clearing. -/
def StandPlan.claimOwner (p : StandPlan) (c : PlanClaim) : Option Nat :=
  match c.section_.toNat with
  | 3 => some c.entry.toNat
  | 4 => some c.entry.toNat
  | 8 => (p.keyPolicy[c.entry.toNat]?).map (·.clearing.toNat)
  | 9 => (p.acts[c.entry.toNat]?).map (·.clearing.toNat)
  | _ => none

/-- The claim is kept with the same claimant feature, class and range. An activity keeps its claim
under its ACT_ID. -/
def StandPlan.keepsClaim (p : StandPlan) (old : StandPlan) (c : PlanClaim) : Bool :=
  p.claims.any fun x => x.cls == c.cls && x.section_ == c.section_ && x.first == c.first &&
    x.last == c.last &&
    (if c.section_ = 9 then
      ((p.acts[x.entry.toNat]?).map (·.actId)) == ((old.acts[c.entry.toNat]?).map (·.actId))
     else x.entry == c.entry)

/-- A section is identical in both plans (R67). -/
def sectionSame (a b : StandPlan) (t : Nat) : Bool :=
  match t with
  | 1 => a.device == b.device
  | 2 => a.tide == b.tide
  | 3 => a.clearings == b.clearings && a.gangs == b.gangs
  | 4 => a.carveouts == b.carveouts
  | 5 => a.regions == b.regions
  | 6 => a.linkMode == b.linkMode && a.links == b.links && a.fractions == b.fractions
  | 7 => a.ownerMask == b.ownerMask && a.quorum == b.quorum && a.flows == b.flows
  | 8 => a.keyPolicy == b.keyPolicy
  | 9 => a.templates == b.templates
  | 10 => a.strandline == b.strandline
  | 11 => a.escalation == b.escalation
  | 13 => a.trace == b.trace
  | 14 => a.report == b.report
  | _ => false

/-- CLAIMS: what an unchanged clearing or an identical section uses keeps its claim. LINKS counts as identical apart
from the fields that a re-cabling replacement may change. -/
def claimsKept (a b : StandPlan) (changed : BitVec 16) : Bool :=
  a.claims.all fun c =>
    let identical := c.section_ == 6 || sectionSame a b c.section_.toNat
    let unchanged := match a.claimOwner c with
      | some n => !changed.getLsbD n
      | none => false
    !(identical || unchanged) || b.keepsClaim a c

/-- The templates without the entries of changed clearings; one that held nothing else is left out. -/
def StandPlan.keptTemplates (p : StandPlan) (changed : BitVec 16) : List PlanTemplate :=
  p.templates.filterMap fun t =>
    let acts := t.acts.filter fun a => !changed.getLsbD a.clearing.toNat
    if acts.isEmpty && !t.acts.isEmpty then none else some { t with acts := acts }

/-- What no changed clearing explains is equal: the descriptors of undefined clearings, the gang codes of regions
without a tile of a changed clearing, and the regions, keys, flows and entries of the others, in their order (R67). -/
def otherwiseSame (a b : StandPlan) (changed : BitVec 16) : Option Place :=
  let still (n : Nat) : Bool := !changed.getLsbD n
  let moved (p : StandPlan) (region : Nat) : Bool := (List.range 16).any fun n => changed.getLsbD n &&
    match p.clr n with
    | some c => c.tiles.toNat / 2 ^ (8 * region) % 256 != 0
    | none => false
  let aboutNone (f : PlanFlow) : Bool := !(List.range 16).any fun n => changed.getLsbD n && f.about n
  firstSome [
    ((List.range 16).find? fun n => still n && (a.clearings[n]?) != (b.clearings[n]?)).map fun n => (3, n),
    ((List.range 12).find? fun r => (a.gangs[r]?) != (b.gangs[r]?) && !moved a r && !moved b r).map fun r => (3, r),
    firstFail [
      (a.regions.filter (fun r => still r.clearing.toNat) == b.regions.filter (fun r => still r.clearing.toNat), 5, 0),
      (a.flows.filter aboutNone == b.flows.filter aboutNone, 7, 0),
      (a.keyPolicy.filter (fun k => still k.clearing.toNat) == b.keyPolicy.filter (fun k => still k.clearing.toNat),
        8, 0),
      (a.keptTemplates changed == b.keptTemplates changed, 9, 0)]]

/-- The permitted differences of a replacement `b` of plan `a` (R67). -/
def replacementFail (a b : StandPlan) (escDefault : PlanEsc) : Option Place :=
  let changed := changedMask a b false
  firstSome [firstFail [
    (a.header.flags == b.header.flags && a.header.setId == b.header.setId &&
      a.header.addr == b.header.addr, 0, 0),
    ({ a.device with topoHash := 0 } == { b.device with topoHash := 0 }, 1, 0),
    (a.tide == b.tide, 2, 0),
    ((a.carveouts[16]?) == (b.carveouts[16]?), 4, 16),
    (a.regionsOf 16 == b.regionsOf 16, 5, 0),
    (a.linkMode == b.linkMode && a.links.map PlanLink.fixed == b.links.map PlanLink.fixed &&
      a.fractions == b.fractions, 6, 0),
    (a.strandline == b.strandline, 10, 0),
    ((b.escalation.getD escDefault).tighter (a.escalation.getD escDefault), 11, 0),
    (claimsKept a b changed, 12, 0)],
    otherwiseSame a b changed]

end Sys2Proof
end

