-- ==== Sys2Proof/Machine/PlanCmds.lean ====
section
/-! DEFINITION. The commands of the plan loader: load, abort, the ordered checks, and the apply
mark (R65–R70). -/

namespace Sys2Proof.Machine
open Sys2Proof

/-! ## The neighbour table's hash (R259) -/

/-- The record of link `l` in the discovered hash: E holds on a usable link that the plan enables. -/
def Dev.topoRecord (d : Dev) (enabled : Nat → Bool) (l : Nat) : List Byte :=
  let k := d.link l
  if d.linkUsable l && enabled l then
    [BitVec.ofNat 8 l, 1] ++ leBytes 3 k.farAddr.toNat ++ [BitVec.ofNat 8 k.farLink.toNat, 0, 0]
  else [BitVec.ofNat 8 l, 0, 0, 0, 0, 0, 0, 0]

def Dev.topoHash (d : Dev) (enabled : Nat → Bool) : B256 :=
  Config.sm3 ((List.range 64).flatMap (d.topoRecord enabled))

def StandPlan.linkOn (p : StandPlan) (l : Nat) : Bool :=
  match p.links[l]? with
  | some e => e.enabled
  | none => false

/-- The neighbour record that a plan's link entry expects (R259). -/
def planTopoRecord (e : PlanLink) (l : Nat) : List Byte :=
  if e.enabled then [BitVec.ofNat 8 l, 1] ++ leBytes 3 e.nbrAddr.toNat ++ [e.farLink, 0, 0]
  else [BitVec.ofNat 8 l, 0, 0, 0, 0, 0, 0, 0]

/-- SM3 of the expected neighbour table over the plan's own LINKS entries (R52, R259). -/
def expectedTopo (p : StandPlan) : B256 :=
  Config.sm3 (p.links.zipIdx.flatMap fun x => planTopoRecord x.1 x.2)

/-- The discovered hash that LNK_TOPO and the quote carry. -/
def Dev.discovered (d : Dev) : B256 :=
  match d.plan.active with
  | some p => d.topoHash (StandPlan.linkOn p)
  | none => d.topoHash fun _ => true

/-- TOPO_CHANGED (R70): while a plan is active, the discovered hash changed to a value other than the
active plan's TOPO_HASH. Log entry 89 (DEDUCED). -/
def Dev.topoUpdate (d : Dev) : Dev :=
  let h := d.discovered
  let changed := h != d.lnk.lastTopo
  let d' : Dev := { d with lnk := { d.lnk with lastTopo := h } }
  match d.plan.active with
  | some p => d'.raiseIf (changed && h != p.device.topoHash) .plan 3
  | none => d'

/-! ## The end of a load -/

/-- PLAN_REJECT and the CONFLICT registers, and LOAD_DONE. -/
def Dev.loadDone (d : Dev) (reason : Byte) (at_ : Place) : Dev :=
  let d : Dev := { d with plan :=
    { d.plan with
      reason := reason, section_ := BitVec.ofNat 8 at_.1, entry := BitVec.ofNat 16 at_.2,
      confA := 0, confB := 0, confRes := 0 } }
  d.raise .plan 0

/-- A load fails: STATE FAILED, and nothing is armed. Log entry 25 (DESIGN CHOICE). -/
def Dev.loadFails (d : Dev) (reason : Byte) (at_ : Place) : Dev :=
  let d : Dev := { d with plan := { d.plan with st := .failed, armed := none, changed := 0, due := false } }
  d.loadDone reason at_

/-- Keys held for a plan that is cancelled are destroyed (R216). Log entry 26 (DEDUCED). -/
def Dev.dropHeld (d : Dev) : Dev := d.destroySlots fun _ x => x.held

/-- A plan is FETCHING, CHECKING or ARMED. -/
def Dev.loading (d : Dev) : Bool :=
  d.plan.st == .fetching || d.plan.st == .checking || d.plan.st == .armed

/-- A FAILED pseudo-channel: the device accepts no stand plan (R182). Log entry 24 (DEDUCED). -/
def Dev.refusesPlans (d : Dev) : Bool := d.retired || d.trainFailed

/-! ## PLAN_LOAD and PLAN_ABORT -/

/-- PLAN_LOAD (R65 checks 1 and 2, R69): before READY the device accepts no load; a load in progress
stands and this one is BUSY. Log entry 24 (DEDUCED). -/
def doPlanLoad (d : Dev) : Dev :=
  if d.loading then d.loadDone 0x10 (0, 0)
  else if d.lcs.st = .scrapped then d.loadFails 0x06 (0, 0)
  else if !d.flt.ready then d
  else if d.refusesPlans then d.loadFails 0x13 (0, 0)
  else
    let d : Dev := { d with plan := { d.plan with st := .fetching } }
    d.emit (.fetchPlan (d.plan.srcHi ++ d.plan.srcLo) d.plan.len)

def execPlanLoad (s : State) : Out := act s doPlanLoad

/-- PLAN_ABORT (R69): cancels a plan that is FETCHING, CHECKING or ARMED. In the mark of the apply it loses. -/
def doPlanAbort (d : Dev) : Dev :=
  if d.loading && !d.applyCommits then (d.loadFails 0x12 (0, 0)).dropHeld else d

def execPlanAbort (s : State) : Out := act s doPlanAbort

/-! ## The checks in order -/

/-- The load is a takeover load (R337): the standby's plan is active and TAKEOVER has been given. -/
def Dev.takeoverLoading (d : Dev) : Bool := d.stl.st == .takeover && d.planActive

/-- Checks 2 to 13 and 15, 16 of R65 around the conflict of check 14: the reason and place of the
first failure. -/
def Dev.signerFail (d : Dev) (p : StandPlan) (v : PlanVerdict) : Bool :=
  if p.bench then d.sec.member.isSome || !p.benchRules v
  else d.sec.member.isNone || !v.chainOk

/-- Check 6: set and role address (R228). -/
def Dev.addressed (d : Dev) (p : StandPlan) : Bool :=
  match d.sec.member with
  | none => true
  | some m => p.header.setId == m.setId && p.header.addr.setWidth 20 == d.addr

/-- Check 7: PLAN_SERIAL; skipped in a takeover load. -/
def Dev.serialOk (d : Dev) (p : StandPlan) : Bool :=
  match d.plan.active with
  | some a => d.takeoverLoading || decide (a.header.serial.toNat < p.header.serial.toNat)
  | none => true

/-- A named reason, where the check fails. -/
def failWith (reason : Byte) : Option Place → Option (Byte × Place)
  | some x => some (reason, x)
  | none => none

def failIf (bad : Bool) (reason : Byte) (at_ : Place) : Option (Byte × Place) :=
  if bad then some (reason, at_) else none

/-- Checks 2 to 13. Log entries 24 (DEDUCED), 25 (DESIGN CHOICE). -/
def Dev.checkEarly (d : Dev) (p : StandPlan) (v : PlanVerdict) : List (Option (Byte × Place)) :=
  [failIf (d.lcs.st == .scrapped) 0x06 (0, 0),
    failIf d.refusesPlans 0x13 (0, 0),
    failWith 0x01 (p.formatFail d.plan.len.toNat),
    failIf (!v.sigOk) 0x02 (0xFF, 0),
    failIf (d.signerFail p v) 0x03 (0x0F, 0),
    failIf (!d.addressed p) 0x05 (0, 0),
    failIf (!d.serialOk p) 0x04 (0, 0),
    failWith 0x07 (p.tideFail d.pins.strapTide),
    failIf (p.device.topoHash != d.topoHash (StandPlan.linkOn p)) 0x08 (1, 0),
    failWith 0x09 (firstSome [p.structureFail, firstFail [(p.device.topoHash == expectedTopo p, 1, 0)]]),
    failWith 0x0A (p.flowFail (d.sec.member.map (·.policy))),
    failWith 0x0B p.scheduleFail,
    failIf (!(p.escalation.getD defaultEsc).tighter defaultEsc) 0x0D (11, 0)]

/-- Checks 15 and 16. Log entry 25 (DESIGN CHOICE). -/
def Dev.checkLate (d : Dev) (p : StandPlan) : List (Option (Byte × Place)) :=
  [failWith 0x0E p.reportFail,
    match d.plan.active with
    | some a =>
      if d.takeoverLoading then none else failWith 0x0F (replacementFail a p defaultEsc)
    | none => none]

/-- Log entry 25 (DESIGN CHOICE). -/
def firstReject : List (Option (Byte × Place)) → Option (Byte × Place)
  | [] => none
  | some x :: _ => some x
  | none :: xs => firstReject xs

/-! ## Taking effect (R66, R68) -/

/-- The state of the strandline under a plan that has just taken effect: a new STRAND_SALT, and a full
save next (R324). Log entry 26 (DEDUCED). -/
def Dev.newSalt (d : Dev) : Dev :=
  ({ d with stl := { d.stl with salt := d.random.setWidth 64, fullNext := true } } : Dev).tick

/-- The tide role of a plan (R23). -/
def Dev.takeRole (d : Dev) (p : StandPlan) : Dev :=
  { d with tide :=
    { d.tide with
      isSource := p.tide.role == 1 || p.tide.role == 2,
      following := p.tide.role == 0 || p.tide.role == 3,
      parent := p.tide.parent, alt := p.tide.altParent, altValid := p.tide.altValid,
      missing := 0, cardFirst := true, cardMissed := 0, holdover := false } }

/-- Regions of clearing or reserve `f` of the active plan are formed. -/
def Dev.formAll (d : Dev) (f : Nat) : Dev :=
  match d.plan.active with
  | some p => (List.range (p.regionsOf f).length).foldl (fun d r => d.formRegion f r) d
  | none => d

/-- A clearing that is new is formed, measured and ACTIVE. -/
def Dev.openClearing (d : Dev) (n : Nat) : Dev :=
  let d := d.formAll n
  (d.modClr n fun c => { c with st := d.openState, oos := false }).remeasure n

/-- The ways of every clearing on every die (R174). A clearing that loses ways on a die writes back and
invalidates its lines there (R175). -/
def Dev.partition (d : Dev) (p : StandPlan) : Dev :=
  (List.range 64).foldl (fun d i =>
    let n := i / 4
    let die := i % 4
    let new := p.waysOf n die
    let old := Tab.get 0 d.mem.ways (64 * n + die)
    let d := if new < old then
        let ks := (d.mem.cache.filter fun l =>
          l.2.frame == n && new ≤ l.2.way && d.homeOf n (l.1 * 128) == die).map (·.1)
        let d := ks.foldl (fun d k => d.writeBack k) d
        { d with mem := { d.mem with cache := Tab.drop d.mem.cache ks.contains } }
      else d
    { d with mem := { d.mem with ways := Tab.set 0 d.mem.ways (64 * n + die) new } }) d

/-- A clearing that the slot serves is being scrubbed away from the slot's owner: step 2 of the scrub takes the
clearing out of the slot's MASK (R207). -/
def Dev.leaving (d : Dev) (x : Slot) : Bool :=
  (List.range 16).any fun n => x.mask.getLsbD n && (d.frame n).scrub && (d.clr n).scrubOwner == x.owner

/-- Content slots that fit the plan no longer, or that it does not name, are destroyed (R215). -/
def Dev.dropUnfit (d : Dev) (p : StandPlan) : Dev :=
  d.destroySlots fun s x =>
    16 ≤ s && !x.held && !d.leaving x && (!slotNamed p s || !bindingFits p x.attr x.owner x.mask)

/-- R215 at an apply mark: a content slot that no longer fits, or that no KEY_POLICY entry names, is
destroyed; the slots of a clearing whose scrub starts leave in its step 2 instead. A key held for
the plan stays. -/
def Dev.rebind (d : Dev) (p : StandPlan) : Dev :=
  let d : Dev := { d with sec := { d.sec with
    slots := Tab.each Slot.reset d.sec.slots fun _ x => { x with held := false } } }
  let d := d.dropUnfit p
  { d with sec := { d.sec with
      slots := Tab.each Slot.reset d.sec.slots fun _ x => match x.shadow with
        | some y =>
          if x.outgoing || d.leaving x || bindingFits p y.attr y.owner y.mask then x
          else { x with shadow := none, swapPos := none }
        | none => x } }

/-- The schedule of a changed clearing starts afresh: its activities' first instance is the first whose
base lies at or after the apply mark. -/
def Dev.reschedule (d : Dev) (p : StandPlan) (changed : BitVec 16) (pos : Nat) : Dev :=
  let first (t : PlanTemplate) : Nat :=
    let b := t.base.toNat + d.sched.delta
    if pos ≤ b then 0 else (pos - b + t.length.toNat - 1) / t.length.toNat
  let next := p.templates.foldl (fun m t => t.acts.foldl (fun m a =>
    if changed.getLsbD a.clearing.toNat then Tab.set 0 m a.actId.toNat (first t) else m) m)
    d.sched.nextInst
  let gone (a : BitVec 16) : Bool :=
    match d.activity a with
    | some x => changed.getLsbD x.2.clearing.toNat
    | none => true
  { d with sched := { d.sched with
      nextInst := next,
      waits := d.sched.waits.filter (fun w => !gone w.act),
      runs := d.sched.runs.filter (fun r => !changed.getLsbD r.clearing && !gone r.act),
      dead := d.sched.dead.filter (fun x => !gone x.1) } }

/-- The regions that a kept clearing does not keep are formed anew, and their objects are FREE. -/
def Dev.renewRegions (d : Dev) (a p : StandPlan) (n : Nat) : Dev :=
  let olds := a.regionsOf n
  let news := p.regionsOf n
  (List.range (max olds.length news.length)).foldl (fun d r =>
    let same := match olds[r]?, news[r]? with
      | some x, some y => x == y && a.regionGranules n x == p.regionGranules n y
      | _, _ => false
    if same then d
    else
      let d := d.freeObjs fun o => o.clearing.toNat == n && o.region.toNat == r
      if r < news.length then d.formRegion n r
      else d.modRegion (regKey n r) fun _ => RegionSt.reset) d

/-- The engine resets that run in clearing `n`, on its tiles or in its channels, end with its own reset. -/
def Dev.endEngineResets (d : Dev) (n : Nat) (tiles : List Nat) : Dev :=
  let mine (e : Nat) : Bool := if e / 4096 < 5 then tiles.contains (e / 16 % 256) else e % 16 == n
  { d with flt := { d.flt with engBusy := d.flt.engBusy.filter fun x => !mine x.toNat } }

/-- One changed clearing at the apply mark, the new plan being active: scrub, recovery reset, or a new
clearing. Its commands have ended and its generation has changed. -/
def Dev.changeClr (d : Dev) (a p : StandPlan) (n : Nat) : Dev :=
  let given := (a.granules n).filter fun g => !(p.granules n).contains g
  let holder (g : Nat) : Nat := ((List.range 17).find? fun f => (p.granules f).contains g).getD 255
  let waits := given.map fun g => (g, holder g)
  let d : Dev := { d with plan := { d.plan with overwrites := d.plan.overwrites ++ waits } }
  match a.clr n, p.clr n with
  | none, none => d
  | none, some _ => d.openClearing n
  | some c, new =>
    let d := d.endEngineResets n (bitsOf c.tiles.toNat 96)
    let keeps := match new with | some c' => c'.owner == c.owner | none => false
    if keeps then
      let d := d.modClr n fun x =>
        { x with st := .resetting, measure := 0, oos := false, engResets := [], clrResets := [] }
      let d := (bitsOf c.tiles.toNat 96 ++ d.tilesOf n).foldl Dev.wipeTile (d.dropLines n)
      ((d.renewRegions a p n).logEvent 0x04 n 0xFFFF 1 0).raise .flt 1
    else
      let d := d.freeObjs fun o => o.clearing.toNat == n
      let d := d.modClr n fun x =>
        { x with num := Num.reset, memHit := 0, memMiss := 0, memFar := 0, memNarrow := 0 }
      d.startScrub n c.owner (a.granules n) (bitsOf c.tiles.toNat 96)

/-- Each link whose entry changed takes a new endpoint generation (R67, R261). -/
def Dev.recable (d : Dev) (a p : StandPlan) : Dev :=
  ((List.range 64).filter fun l => (a.links[l]?) != (p.links[l]?)).foldl (fun d l =>
    let d := d.modLink l fun k => { k with roleGen := k.roleGen + 1 }
    d.announce [{ kind := 2, unit := BitVec.ofNat 8 l, gen := (d.link l).roleGen }]) d

/-- TAP codes that only a device without an active plan accepts give way to the bypass register
(R402, R407). -/
def Dev.tapLeaves (d : Dev) : Dev :=
  if [0x03, 0x04, 0x05].contains d.dbg.tapIr.toNat then
    { d with dbg := { d.dbg with tapIr := 0xFF } }
  else d

/-- What every plan that takes effect does: it is the active plan, its guarantee is as CLAIMED, the
ways and the slots are fitted to it, and queues outside every range are disabled. -/
def Dev.activate (d : Dev) (p : StandPlan) : Dev :=
  let d : Dev := { d with plan :=
    { d.plan with
      active := some p, armed := none, st := .active, changed := 0, due := false, held := p.report.getLsbD 3 } }
  let d := (d.partition p).tapLeaves
  let d := (d.host.queues.filter fun q => (p.queueClr q.1).isNone).foldl
    (fun d q => d.disableQueue q.1 .queueDisabled) d
  let d := if p.bench && d.sec.member.isNone then
      { d with sec := { d.sec with benchAddr := p.header.addr.setWidth 20 } }
    else d
  d.raise .plan 1

/-- The first plan takes effect at once (R66): the tide role is taken up and every clearing opens. TIDE_STATUS.LOST
clears here and nowhere else. Log entry 102 (DESIGN CHOICE). -/
def Dev.applyFirst (d : Dev) (p : StandPlan) : Dev :=
  let d := (d.activate p).takeRole p
  let d : Dev := { d with
    sched := Sched.reset,
    tide := { d.tide with firstSeen := false, split := false, lost := false } }
  let d := (List.range 16).foldl (fun d n => if (p.clr n).isSome then d.openClearing n else d) d
  let d : Dev := { d with stl := { d.stl with
    interval := match p.strandline with | some s => s.tauMinSteps.setWidth 32 | none => 0, i0 := 0 } }
  ((d.formAll 16).newSalt.rebind p).topoUpdate

/-- Every clearing that shows a measurement is measured again (R235, R236). -/
def Dev.remeasureAll (d : Dev) : Dev :=
  ((List.range 16).filter fun n =>
    let s := (d.clr n).st
    s != .resetting && s != .scrubbing && s != .fenced).foldl Dev.remeasure d

/-- The replacement takes effect at an apply mark (R68); a takeover load also takes up its own tide
role. -/
def Dev.applyReplacement (d : Dev) (a p : StandPlan) : Dev :=
  let changed := d.plan.changed
  let takeover := d.plan.takeoverLoad
  let ns := (List.range 16).filter changed.getLsbD
  let d := d.killWhere (fun q _ => match a.queueClr q with
    | some n => changed.getLsbD n
    | none => false) .aborted .clearingHalted
  let d := ns.foldl Dev.bumpClr d
  let hiZ := ballClaim a != ballClaim p
  let d := (ns.foldl Dev.dropLines d).activate p
  let d := if takeover then d.takeRole p else d
  let d : Dev := if takeover then
      { d with stl := { d.stl with
          st := .fill, fillDone := 0, i0 := 0,
          interval := match p.strandline with | some s => s.tauMinSteps.setWidth 32 | none => 0 } }
    else d
  let d := ns.foldl (fun d n => d.changeClr a p n) d
  let d := (d.reschedule p changed d.tide.pos.toNat).recable a p
  let d : Dev := { d with tide := { d.tide with auxHiZ := hiZ || d.tide.auxHiZ } }
  (d.newSalt.rebind p).remeasureAll.topoUpdate

/-! ## PLAN_CHECK -/

/-- The plan passes every check: ARMED, and in effect at once when no plan is active (R66). A device
that stopped at TIDE_SPLIT accepts marks again. Log entry 27 (DEDUCED). -/
def Dev.armPlan (d : Dev) (p : StandPlan) : Dev :=
  let take := d.takeoverLoading
  let changed := match d.plan.active with
    | some a => changedMask a p take
    | none => 0
  let d : Dev := { d with
    plan := { d.plan with st := .armed, armed := some p, changed := changed, takeoverLoad := take, due := false },
    tide := { d.tide with
      split := false, firstSeen := d.tide.firstSeen && !d.tide.split } }
  let d := d.loadDone 0 (0, 0)
  match d.plan.active with
  | some _ => d
  | none => d.applyFirst p

/-- PLAN_CHECK (R65): the fetched plan is checked in order; the first failure is recorded, and a plan
without one is armed. -/
def doPlanCheck (p : StandPlan) (v : PlanVerdict) (d : Dev) : Dev :=
  if d.plan.st ≠ .fetching then d
  else match firstReject (d.checkEarly p v) with
    | some x => d.loadFails x.1 x.2
    | none => match p.conflict with
      | some c =>
        let d := d.loadFails 0x0C c.2.1.place
        { d with plan := { d.plan with
            confA := BitVec.ofNat 32 (c.1.section_ + 65536 * c.1.entry),
            confB := BitVec.ofNat 32 (c.2.1.section_ + 65536 * c.2.1.entry),
            confRes := BitVec.ofNat 32 (c.2.2.1 + 256 * c.2.2.2) } }
      | none => match firstReject (d.checkLate p) with
        | some x => d.loadFails x.1 x.2
        | none => d.armPlan p

/-- The fetched bytes are read, their signature and chain are verified, and the plan is checked.
Log entries 22 (DESIGN CHOICE), 23 (DESIGN CHOICE). -/
def execPlanCheck (raw : List Byte) (x : PlanFields) (s : State) : Out :=
  act s fun d =>
    let p := readPlan raw x
    doPlanCheck p (planVerdict p (d.sec.member.map (·.root))) d

/-! ## PLAN_APPLY and GRANULE_OVERWRITE_DONE -/

/-- PLAN_APPLY (R66, R68): at the first mark that reaches PLAN_APPLY_POS. A changed clearing that is RESETTING, or a
save stage that runs (R345), postpones it to the next mark; one that is fenced fails it with CLEARING_FENCED. The
activities due at the mark start once the outcome stands. Log entry 26 (DEDUCED). -/
def doPlanApply (d : Dev) : Dev :=
  match d.plan.active, d.plan.armed with
  | some a, some p =>
    if !d.applyCommits then { d with plan := { d.plan with due := false } }
    else match d.fencedChange with
      | some n => (d.loadFails 0x11 (3, n)).dropHeld.startActs
      | none => (d.applyReplacement a p).startActs
  | _, _ => d

def execPlanApply (s : State) : Out := act s doPlanApply

/-- GRANULE_OVERWRITE_DONE (R68): the overwrite of a granule ends, and the granule enters the clearing
that waits for it. -/
def doGranuleOverwriteDone (g : Fin 1536) (d : Dev) : Dev :=
  if d.plan.overwrites.any (·.1 == g.val) then
    let d := d.eraseGranules [g.val]
    { d with plan := { d.plan with
        overwrites := d.plan.overwrites.filter (·.1 != g.val) } }
  else d

def execGranuleOverwriteDone (g : Fin 1536) (s : State) : Out := act s (doGranuleOverwriteDone g)

end Sys2Proof.Machine
end

