-- ==== Sys2Proof/Machine/Quote.lean ====
section
/-! DEFINITION. The quote (R234–R237) and the firmware versions (R240, R241). -/

namespace Sys2Proof

/-- The quote code of a life-cycle state (R234). -/
def Lc.code : Lc → Nat
  | .maker => 0 | .integrator => 1 | .fielded => 2 | .returned => 3 | .scrapped => 4

end Sys2Proof

namespace Sys2Proof.Machine
open Sys2Proof

/-! ## Firmware images (R240) -/

/-- The header of an image, which its signature and the tag cover. Log entry 64 (DEDUCED). -/
def FwImage.header (i : FwImage) : List Byte := Config.fwHeader [b2n i.target, i.svn.toNat, i.hash.toNat]

/-- The IV, the tag and the SVN have their lengths. Log entry 64 (DEDUCED). -/
def FwImage.wellLaid (i : FwImage) : Bool := i.iv.length == 12 && i.tag.length == 16 && decide (i.svn.toNat ≤ 127)

/-- The signature verifies, the ciphertext opens under the firmware key, and the plaintext has the header's hash.
Log entry 64 (DEDUCED). -/
def FwImage.verifies (i : FwImage) : Bool :=
  Config.sm2Verify Config.fwSigner (Config.sm3 (FwImage.header i)) i.sig &&
    gcmOpens Config.fwKey i.iv (FwImage.header i) i.cipher i.tag &&
    Config.sm3 (gcmCrypt Config.fwKey i.iv i.cipher) == i.hash

/-! ## Firmware versions -/

/-- SVN of the running firmware. -/
def Dev.fwSvn (d : Dev) : Byte := d.sec.fw.svn.getD (Config.fwSvn.setWidth 8)

/-- FUSE_SVN (R366): the largest target whose DONE word is burnt, or what the part came with. -/
def Dev.fuseSvn (d : Dev) : Byte :=
  (d.sec.fw.commits.filter (·.2)).foldl (fun m r => if m.toNat < r.1.toNat then r.1 else m)
    (Config.fuseSvn.setWidth 8)

/-- Every begun FW_COMMIT record has its DONE word (R366). -/
def Dev.commitsEnded (d : Dev) : Dev :=
  { d with sec := { d.sec with fw := { d.sec.fw with commits := d.sec.fw.commits.map fun r => (r.1, true) } } }

/-- The image for one target among those that came. -/
def imageFor (images : List FwImage) (target : Bool) : Option FwImage := images.find? (·.target == target)

/-- Both targets have an image that passes R240. Log entry 64 (DEDUCED). -/
def Dev.imagesBoot (d : Dev) (images : List FwImage) : Bool :=
  [false, true].all fun t => match imageFor images t with
    | some i => FwImage.wellLaid i && FwImage.verifies i && decide (d.fuseSvn.toNat ≤ i.svn.toNat)
    | none => false

/-- The images run: their measured hashes, and the lower of their SVNs. Log entry 64 (DEDUCED). -/
def Dev.takeImages (d : Dev) (images : List FwImage) : Dev :=
  match imageFor images false, imageFor images true with
  | some c, some n =>
    { d with sec := { d.sec with fw := { d.sec.fw with
        ctrl := some c.hash, ngs := some n.hash, svn := some (if c.svn.toNat ≤ n.svn.toNat then c.svn else n.svn) } } }
  | _, _ => d

def Dev.fwCtrl (d : Dev) : B256 := d.sec.fw.ctrl.getD Config.fwCtrl
def Dev.fwNgs (d : Dev) : B256 := d.sec.fw.ngs.getD Config.fwNgs
def Dev.stagedSvn (d : Dev) : Byte := match d.sec.fw.staged with | some x => x.svn | none => 0
def Dev.stagedHash (d : Dev) : B256 := match d.sec.fw.staged with | some x => x.hash | none => 0

def Dev.orderingCode (d : Dev) : Byte := if d.pins.orderingSe then 1 else 0

/-! ## The quote -/

/-- The STATE code of a clearing entry (R234). -/
def ClrSt.code : ClrSt → Nat
  | .absent => 0 | .active => 1 | .resetting => 2 | .scrubbing => 3 | .fenced => 4 | .contained => 5
  | .halted => 6

/-- MEASURE reads as zeros in these states (R236). -/
def ClrSt.unmeasured (s : ClrSt) : Bool := s == .resetting || s == .scrubbing || s == .fenced

/-- A pair of bits that form MCX_CLR_STATE_n's REKEY, REPAIR, KG and WAIT_KEYS. -/
def McxFrame.kflags (x : McxFrame) : BitVec 4 :=
  BitVec.ofNat 4 (b2n x.rekey + 2 * b2n x.repair + 4 * b2n x.kg + 8 * b2n x.waitKeys)

/-- Log entry 66 (DEDUCED). -/
def Dev.quoteEntry (d : Dev) (n : Nat) : QuoteEntry :=
  let c := d.clr n
  { state := BitVec.ofNat 3 (ClrSt.code c.st), owner := d.ownerOf n, roleGen := c.roleGen,
    arith := match d.planClr n with | some x => x.arith | none => 0,
    kflags := (d.frame n).kflags, measure := if c.st.unmeasured then 0 else c.measure }

/-- The clearings that are CONTAINED (R206). -/
def Dev.containedMask (d : Dev) : Nat :=
  (List.range 17).foldl (fun m n => if (d.frame n).contained then m + 2 ^ n else m) 0

/-- Log entry 66 (DEDUCED). -/
def Dev.benchActive (d : Dev) : Bool := match d.plan.active with | some p => p.bench | none => false

def Dev.quoteFlags (d : Dev) : BitVec 16 :=
  let claimed := match d.plan.active with | some p => p.report.getLsbD 3 | none => false
  BitVec.ofNat 16 (b2n d.sec.debugOpened + 2 * b2n d.sec.fw.staged.isSome + 4 * b2n d.benchActive
    + 8 * b2n claimed + 16 * b2n d.plan.held + 32 * b2n d.mem.lockdown + 64 * b2n d.planActive
    + 128 * b2n (d.plan.st == .armed) + 256 * b2n d.sec.member.isSome
    + 512 * b2n (d.frame 16).contained)

/-- SM3 of the plan authority root certificate, or of the BENCH signing key. -/
def Dev.authority (d : Dev) : B256 :=
  match d.sec.member, d.plan.active with
  | some m, _ => Config.rootHash m.root
  | none, some p => if p.bench then p.signerKey else 0
  | none, none => 0

def hashOf : Option StandPlan → B256
  | some p => planHash p
  | none => 0

/-- The quote over a nonce, every field sampled at one instant (R234). -/
def Dev.quote (d : Dev) (nonce : B256) : Quote :=
  let act := d.plan.active
  { ordering := d.orderingCode, lcs := BitVec.ofNat 8 d.lcs.st.code, flags := d.quoteFlags,
    addr := d.addr, nonce := nonce, identity := d.identity, fwCtrl := d.fwCtrl, fwNgs := d.fwNgs,
    fwSvn := d.fwSvn, fuseSvn := d.fuseSvn, stagedSvn := d.stagedSvn, staged := d.stagedHash,
    planHash := hashOf act, armedHash := hashOf d.plan.armed, authority := d.authority,
    serial := match act with | some p => p.header.serial | none => 0,
    setId := match d.sec.member with | some m => m.setId | none => 0,
    setEpoch := match d.sec.member with | some m => m.epoch | none => 0,
    contained := BitVec.ofNat 16 d.containedMask,
    degradedPcs := BitVec.ofNat 16 ((List.range 16).foldl (fun n s => n + (d.stack s).degraded) 0),
    firstAct := match act with | some p => p.report.extractLsb' 16 16 | none => 0xFFFF,
    tidePos := d.tide.pos, topo := d.discovered,
    entries := (List.range 16).map d.quoteEntry }

def QuoteEntry.bytes (e : QuoteEntry) : List Byte :=
  [e.state.setWidth 8, e.owner.setWidth 8] ++ leBytes 2 e.roleGen.toNat ++
    [e.arith, e.kflags.setWidth 8] ++ zeros 10 ++ strBytes e.measure 32

/-- Bytes 8–15 of a quote. -/
def Quote.device (q : Quote) : List Byte :=
  [q.ordering, q.lcs] ++ leBytes 2 q.flags.toNat ++ leBytes 4 q.addr.toNat

/-- Bytes 0–1,119 of a quote. -/
def Quote.bytes (q : Quote) : List Byte :=
  ascii "VXQT" ++ leBytes 2 1 ++ leBytes 2 0x4A0 ++ q.device ++ strBytes q.nonce 32 ++
    strBytes q.identity 32 ++ strBytes q.fwCtrl 32 ++ strBytes q.fwNgs 32 ++
    [q.fwSvn, q.fuseSvn, q.stagedSvn, 0] ++ strBytes q.staged 32 ++ strBytes q.planHash 32 ++
    strBytes q.armedHash 32 ++ strBytes q.authority 32 ++ leBytes 4 q.serial.toNat ++
    leBytes 4 q.setId.toNat ++ leBytes 2 q.setEpoch.toNat ++ leBytes 2 q.contained.toNat ++
    leBytes 2 q.degradedPcs.toNat ++ leBytes 2 q.firstAct.toNat ++ leBytes 8 q.tidePos.toNat ++
    strBytes q.topo 32 ++ zeros 20 ++ q.entries.flatMap QuoteEntry.bytes

/-- A signed quote; the device remembers the last eight nonces it signed (R232). -/
def Dev.signQuote (d : Dev) (nonce : B256) : Dev × Quote × (B256 × B256) :=
  let q := d.quote nonce
  (({ d with sec := { d.sec with nonces := ((nonce, d.timeUs) :: d.sec.nonces).take 8 } } : Dev).tick,
    q, d.sign q.bytes)

end Sys2Proof.Machine
end

