-- ==== Sys2Proof/Machine/Cold.lean ====
section
/-! DEFINITION. The fuses of the life cycle (R362–R366), the cold reset and the boot (R353, R355, R356, R365,
R370), as shared operations. -/

namespace Sys2Proof

/-! ## Fuse words (R362, R364) -/

/-- The code word of a life-cycle state. -/
def Lc.word : Lc → Word
  | .maker => 0x00000000 | .integrator => 0x0000FFFF | .fielded => 0x00FFFFFF | .returned => 0x0FFFFFFF
  | .scrapped => 0xFFFFFFFF

/-- The state that a code word names. -/
def lcOf (w : Word) : Option Lc :=
  if w = 0x00000000 then some .maker
  else if w = 0x0000FFFF then some .integrator
  else if w = 0x00FFFFFF then some .fielded
  else if w = 0x0FFFFFFF then some .returned
  else if w = 0xFFFFFFFF then some .scrapped
  else none

/-- The words of a burn sequence: 29 for Scrapped, 5 for any other state. Log entry 95 (DEDUCED). -/
def Lc.words : Lc → Nat
  | .scrapped => 29
  | _ => 5

end Sys2Proof

namespace Sys2Proof.Machine
open Sys2Proof

/-- Word `i` of a sequence of which `n` words are burnt, the next one with the bits of `mask`. An antifuse bit
only ever goes from 0 to 1 (chapter 16). Log entry 95 (DEDUCED). -/
def burnt (n i : Nat) (mask old final : Word) : Word :=
  if i < n then old ||| final else if i = n then old ||| (final &&& mask) else old

/-- The fuses with `n` words of the sequence to `t` in record `k` burnt, the next in part.
Log entry 95 (DEDUCED). -/
def Lcs.burn (x : Lcs) (t : Lc) (k n : Nat) (mask : Word) : Lcs :=
  let r := Tab.get BurnRec.reset x.recs k
  { x with
    code0 := burnt n 1 mask x.code0 t.word, code1 := burnt n 2 mask x.code1 t.word,
    code2 := burnt n 3 mask x.code2 t.word,
    rootZeroed := x.rootZeroed || (t == .scrapped && decide (28 ≤ n)),
    root := if t = .scrapped then (List.range 24).map fun i => burnt n (4 + i) mask (x.rootAt i) 0xFFFFFFFF else x.root,
    recs := Tab.set BurnRec.reset x.recs k
      { target := burnt n 0 mask r.target t.word,
        done := burnt n (t.words - 1) mask r.done 0xFFFFFFFF },
    progDone := BitVec.ofNat 5 n, progTotal := BitVec.ofNat 5 t.words,
    progTarget := BitVec.ofNat 3 t.code, progRec := BitVec.ofNat 3 k }

/-- The whole sequence. Log entry 95 (DEDUCED). -/
def Lcs.burnAll (x : Lcs) (t : Lc) (k : Nat) : Lcs := x.burn t k t.words 0

/-- The lowest transition record whose TARGET is 0; T7 serves Scrapped alone. Log entry 86 (DEDUCED). -/
def Lcs.freeRec (x : Lcs) (t : Lc) : Option Nat :=
  (List.range (if t = .scrapped then 8 else 7)).find? fun k => (Tab.get BurnRec.reset x.recs k).target == 0

/-- The record that a sequence to `t` takes; with every record used, Scrapped takes T7. -/
def Lcs.recFor (x : Lcs) (t : Lc) : Nat := (x.freeRec t).getD 7

/-- A running sequence stops short: some number of its words is burnt, and the next in part. How far it
came is a free value. Log entry 80 (DEDUCED). -/
def Lcs.interrupt (x : Lcs) (t : Lc) (n : Nat) (mask : Word) : Lcs :=
  if x.burning then { x.burn t x.progRec.toNat (n % t.words) mask with burning := false } else x

/-! ## The start (R365, R366) -/

/-- The highest record with a non-zero TARGET. -/
def Lcs.lastRec (x : Lcs) : Option Nat :=
  (List.range 8).reverse.find? fun k => (Tab.get BurnRec.reset x.recs k).target != 0

/-- An interrupted sequence is resumed, or abandoned when its TARGET is no code. Log entry 80 (DEDUCED). -/
def Lcs.resume (x : Lcs) : Lcs :=
  match x.lastRec with
  | none => x
  | some k =>
    let r := Tab.get BurnRec.reset x.recs k
    if r.done = 0xFFFFFFFF then x
    else match lcOf r.target with
      | some t => { x.burnAll t k with resumed := true }
      | none => { x with recs := Tab.set BurnRec.reset x.recs k { r with done := 0xFFFFFFFF } }

/-- The code word that at least two of C0–C2 hold. -/
def Lcs.voted (x : Lcs) : Option Word :=
  if x.code0 = x.code1 || x.code0 = x.code2 then some x.code0
  else if x.code1 = x.code2 then some x.code1
  else none

/-- The state is voted; an invalid vote is Scrapped, and the Scrapped sequence runs in T7. -/
def Lcs.vote (x : Lcs) : Lcs :=
  match x.voted.bind lcOf with
  | some t => { x with st := t }
  | none => { x.burnAll .scrapped 7 with st := .scrapped, invalidSeen := true }

/-- A pending return burns the Returned sequence (R370). -/
def Lcs.giveBack (x : Lcs) : Lcs :=
  if x.returnPending && x.st == .fielded then
    { x.burnAll .returned (x.recFor .returned) with st := .returned, returnPending := false }
  else { x with returnPending := false }

/-- What the boot logic does with the life-cycle fuses before any firmware runs. -/
def Lcs.start (x : Lcs) : Lcs :=
  ({ x with burning := false, waiting := none, resumed := false, invalidSeen := false, result := 0 } : Lcs).resume.vote.giveBack

/-- The boot logic completes an interrupted FW_COMMIT (R366), and the staged image that was activated runs
unless its SVN is below FUSE_SVN (R240, R241). TARGET true is the Ngatasel image.
Log entries 64 (DEDUCED), 79 (DEDUCED). -/
def Dev.startFirmware (d : Dev) : Dev :=
  let d := d.commitsEnded
  let f := d.sec.fw
  let f : FwState := match f.staged with
    | some i =>
      if f.activated && decide (d.fuseSvn.toNat ≤ i.svn.toNat) then
        { f with svn := some i.svn, ctrl := if i.target then f.ctrl else some i.hash,
                 ngs := if i.target then some i.hash else f.ngs }
      else f
    | none => f
  { d with sec := { d.sec with fw := { f with staged := none, activated := false } } }

/-- The first start in Maker state draws the root secret, once the TRNG has passed its health tests (R210).
Log entry 128 (DESIGN CHOICE). -/
def Dev.makeRoot (d : Dev) : Dev :=
  if d.lcs.st = .maker && d.lcs.root.isEmpty && !d.sec.trngFail then
    ({ d with lcs := d.lcs.putSecret d.random } : Dev).tick
  else d

/-- The core draws the keys of the die boundaries (R16). -/
def Dev.drawDieKeys (d : Dev) : Dev :=
  { d with
    sec := { d.sec with dieKeys := (List.range 14).map fun i => (Config.trng (d.free + i)).setWidth 128 },
    free := d.free + 14 }

/-- The boot: fuses, firmware, the die keys, and a BOOT_ID from the TRNG (R365, R373, R386). A Returned device wipes its
stacks, tiles and tables (R371): the cold reset has left them empty. Log entry 80 (DEDUCED). -/
def Dev.boot (d : Dev) : Dev :=
  let d : Dev := { d with lcs := d.lcs.start }
  let d := d.startFirmware
  (({ d with dbg := { d.dbg with bootId := d.random.setWidth 64 } } : Dev).tick).drawDieKeys

/-! ## Life-cycle advances (R368) and the TAP's gate (R372) -/

/-- The TAP instruction with this code answers in the present state. -/
def Dev.tapAllowed (d : Dev) (code : Byte) : Bool :=
  let scan := [0x02, 0x03, 0x04, 0x05].contains code.toNat
  if code = 0x01 || code = 0xFF then true
  else match d.lcs.st with
    | .maker => true
    | .integrator => code != 0x30
    | .returned => code != 0x30
    | .scrapped => false
    | .fielded => d.dbg.opened &&
        ((scan && d.dbg.scope.getLsbD 0) || (code == 0x10 && d.dbg.scope.getLsbD 1) ||
          (code == 0x11 && d.dbg.scope.getLsbD 2) || (code == 0x12 && d.dbg.scope.getLsbD 3) ||
          (code == 0x13 && d.dbg.scope.getLsbD 4))

/-- An instruction that is no longer permitted gives way to the bypass register. -/
def Dev.tapGate (d : Dev) : Dev :=
  if d.tapAllowed d.dbg.tapIr then d
  else { d with dbg := { d.dbg with tapIr := 0xFF, cpHalted := false } }

/-- Every key-table slot is destroyed, and with them the membership (R243, R229). -/
def Dev.destroyAll (d : Dev) : Dev := ((d.destroySlots fun _ _ => true).leaveSet).raise .sec 4

/-- Engine keys and salts are destroyed, so that no line opens again (R217). -/
def Dev.forgetMemory (d : Dev) : Dev :=
  { d with mem := { d.mem with
      hbm := [], cache := [], meta_ := [], flaws := [], regions := [], mcache := [] } }

/-- An advance acts: the target shows at once, every clearing halts, the keys go, and the burn begins.
Log entry 86 (DEDUCED). -/
def Dev.advance (d : Dev) (t : Lc) : Dev :=
  let d : Dev := { d with lcs := { d.lcs with
    st := t, burning := true, waiting := none, progDone := 0, progTotal := BitVec.ofNat 5 t.words,
    progTarget := BitVec.ofNat 3 t.code, progRec := BitVec.ofNat 3 (d.lcs.recFor t),
    returnPending := d.lcs.returnPending && t != .scrapped } }
  ((d.tapGate.haltAll .aborted .clearingHalted).destroyAll).forgetMemory

/-! ## The cold reset (R353, R355, R356) -/

/-- The fuses when the device loses its state: a running burn stops short. -/
def Dev.fuses (d : Dev) : Lcs :=
  let t := match d.lcs.progTarget.toNat with
    | 0 => Lc.maker | 1 => .integrator | 2 => .fielded | 3 => .returned | _ => .scrapped
  d.lcs.interrupt t d.freeVal.toNat ((Config.free64 d.free 1).setWidth 32)

/-- What a cold reset leaves in the fault block: the log, the dump and the counts (R353).
Log entry 79 (DEDUCED). -/
def Flt.kept (f : Flt) (cause : Nat) (oos cliff : Bool) (colds : List Nat) : Flt :=
  { Flt.reset with
    oos := oos, cliff := cliff, log := f.log, logHead := f.logHead, wrapped := f.wrapped, logSel := f.logSel,
    dump := f.dump, dumpCause := f.dumpCause, dumpValid := f.dumpValid, cause := BitVec.ofNat 7 cause,
    colds := colds, fencings := f.fencings }

/-- What a cold reset leaves in the power block: the energy, the boot configuration, and an overcurrent that
has acted (R379, R384). Log entry 79 (DEDUCED). -/
def Pwr.kept (p : Pwr) : Pwr :=
  { Pwr.reset with
    cur := p.bootMode.getD 2, energy := p.energy, bootMode := p.bootMode, extCount := p.extCount,
    ocp := p.ocp }

/-- The device with everything gone that a cold reset does not keep. Log entry 79 (DEDUCED). -/
def Dev.wiped (d : Dev) (cause : Nat) (oos : Bool) (colds : List Nat) : Dev :=
  { Dev.reset with
    free := d.free + 1, timeUs := d.timeUs, outbox := d.outbox,
    bus := { Bus.reset with x8x8 := d.bus.x8x8, perst := d.bus.perst, cfgReady := !d.bus.perst },
    sec := { Sec.reset with fw := d.sec.fw },
    flt := d.flt.kept cause oos d.pwr.ocp colds,
    lcs := d.fuses,
    pwr := d.pwr.kept,
    pins := { d.pins with alertN := false, i3cOff := 0, i3cAddr := none } }

/-- A cold reset up to the boot: it counts, it is logged, and the one that reaches the count leaves the
device out of service. No completion is posted. Log entry 79 (DEDUCED). -/
def Dev.coldWipe (d : Dev) (cause : Nat) : Dev :=
  let colds := d.timeUs :: recent d.timeUs daySec d.flt.colds
  let out := decide (d.esc.cold24h ≤ colds.length)
  let d := d.logEvent 0x09 0xFF 0xFFFF 0 (BitVec.ofNat 64 cause)
  let d := if out && !d.flt.oos then d.logEvent 0x08 0xFF 0xFFFF 0 0 else d
  let was := d.flt.oos
  (d.wiped cause (was || out) colds).raiseIf (out && !was) .flt 3

/-- A cold reset with its boot. Log entry 79 (DEDUCED). -/
def Dev.coldReset (d : Dev) (cause : Nat) : Dev := (d.coldWipe cause).boot

/-- Power is removed: only fuses, flash and, while VIN_AUX is present, the THERM_TRIP_N latch hold anything
(R353, R384, R389). Log entries 79 (DEDUCED), 80 (DEDUCED). -/
def Dev.unpowered (d : Dev) (auxToo : Bool) : Dev :=
  { Dev.reset with
    free := d.free + 1, outbox := d.outbox,
    bus := { Bus.reset with x8x8 := d.bus.x8x8, perst := d.bus.perst, cfgReady := false },
    sec := { Sec.reset with fw := d.sec.fw },
    lcs := { d.fuses with returnPending := false },
    pwr := { d.pwr.kept with energy := 0, ocp := false },
    pins := { Pins.reset with
      powered := false, inReset := true, pwrOk := false, strapBoot := d.pins.strapBoot,
      strapTide := d.pins.strapTide, thermTrip := d.pins.thermTrip && !auxToo,
      orderingSe := d.pins.orderingSe } }

end Sys2Proof.Machine
end

