-- ==== Sys2Proof/Machine/LinkOps.lean ====
section
/-! DEFINITION. The shared operations on the Dyunzen links: acknowledgements, taking a link down, the order
in which a flit is checked, and the notices a receiver sends (R247–R263). -/

namespace Sys2Proof.Machine
open Sys2Proof

/-! ## Groups -/

/-- The plan entry of link `l`. -/
def Dev.linkEntry (d : Dev) (l : Nat) : Option PlanLink := d.plan.active.bind fun p => p.links[l]?

/-- The I/O die of a link is CRITICAL: it carries only TIDE and CTRL flits (R388). -/
def Dev.ioCritical (d : Dev) (l : Nat) : Bool := (Tab.get DieSt.reset d.thm.dies (4 + l / 16)).st == 2

/-- UP, admitted, and enabled by the plan: it carries every share (R258). -/
def Dev.linkCarries (d : Dev) (l : Nat) : Bool := d.linkUsable l && d.linkEnabled l && !d.ioCritical l

/-- The far end of a link is the one of the plan's entry. -/
def Dev.linkMatch (d : Dev) (l : Nat) : Bool :=
  let k := d.link l
  match d.linkEntry l with
  | some e => k.st == .up && k.farAddr == e.nbrAddr && k.farLink.toNat == e.farLink.toNat
  | none => false

/-- The link carries its DATA and STRAND shares: one whose far end differs from its entry carries only TIDECTL and
COVER (R70). -/
def Dev.linkMoves (d : Dev) (l : Nat) : Bool := d.linkCarries l && d.linkMatch l

/-- The links of group `g` that carry every share, ascending. -/
def Dev.groupLinks (d : Dev) (g : Byte) : List Nat :=
  (List.range 64).filter fun l => d.linkMoves l && (match d.linkEntry l with
    | some e => e.group == g
    | none => false)

/-- The links of a group that lie, at the far end, on the I/O die of a collector slot (R266). -/
def Dev.slotLinks (d : Dev) (g : Byte) (slot : BitVec 12) : List Nat :=
  (d.groupLinks g).filter fun l => (d.link l).farLink.toNat / 16 == slot.toNat / 1024

/-- The usable links to a device. -/
def Dev.linksTo (d : Dev) (addr : BitVec 20) : List Nat :=
  (List.range 64).filter fun l => d.linkMoves l && (d.link l).farAddr == addr

/-- Put flits on links in turn, in ascending link order (R266). -/
def Dev.stripe (d : Dev) (ls : List Nat) (fs : List TxFlit) : Dev :=
  fs.zipIdx.foldl (fun d f => match ls[f.2 % ls.length]? with
    | some l => d.modLink l fun k => { k with txq := k.txq ++ [f.1] }
    | none => d) d

/-! ## Acknowledgement (R249) -/

/-- Everything up to the flit whose SEQ[31:0] is `ack` is acknowledged; an ACK_SEQ that names no flit in
the replay buffer frees nothing. -/
def freeReplay (ack : Word) (rs : List SentFlit) : List SentFlit :=
  match rs.findIdx? fun f => f.seq.setWidth 32 == ack with
  | some i => rs.drop (i + 1)
  | none => rs

def Dev.acked (d : Dev) (l : Nat) (ack : Word) : Dev :=
  d.modLink l fun k =>
    let rest := freeReplay ack k.replay
    { k with replay := rest, resend := k.resend.filter fun f => rest.any (·.seq == f.seq) }

/-! ## Going DOWN (R260) -/

/-- The links that may carry a flit of a DOWN link: of its group, and for COLL on its slot's I/O die.
Log entry 70 (DEDUCED). -/
def Dev.otherLinks (d : Dev) (g : Byte) (b : TxBody) : List Nat :=
  match b with
  | .coll slot _ _ _ _ => d.slotLinks g slot
  | .data _ _ _ => d.groupLinks g
  | .strand _ _ _ _ _ => d.groupLinks g
  | _ => []

/-- Only DATA, COLL and STRAND flits outlive their link. Log entry 70 (DEDUCED). -/
def TxBody.moves : TxBody → Bool
  | .data _ _ _ => true
  | .coll _ _ _ _ _ => true
  | .strand _ _ _ _ _ => true
  | _ => false

/-- Put a flit on another link of its group; where none may carry it, it waits on the DOWN link. -/
def Dev.moveFlit (d : Dev) (l : Nat) (g : Byte) (f : TxFlit) : Dev :=
  let dest := match d.otherLinks g f.body with
    | x :: _ => x
    | [] => l
  d.modLink dest fun k => { k with txq := k.txq ++ [f] }

/-- A link goes DOWN: what it held unacknowledged or unsent moves to its group, it forgets its session, and
it retrains after 100 µs. Log entry 70 (DEDUCED). -/
def Dev.takeDown (d : Dev) (l : Nat) : Dev :=
  let k := d.link l
  let fs := (k.replay.map (·.flit) ++ k.txq).filter fun f => f.body.moves
  let g := match d.linkEntry l with | some e => e.group | none => 0xFF
  let d := d.modLink l fun k =>
    { k with st := .down, adm := .none, replay := [], resend := [], txq := [], tideQ := [], spent := [],
             owed := [], awaiting := false, tagRun := 0, rekeying := false, ackDue := false,
             retrainDue := true, displaced := [], frame := none, keys := [], transcript := 0 }
  fs.foldl (fun d f => d.moveFlit l g f) d

/-- The far device of a link that goes DOWN is one that the strandline needs, and no other link reaches
it (STL_EVENT.PEER_FAIL). -/
def Dev.peerGone (d : Dev) (addr : BitVec 20) : Bool :=
  (d.linksTo addr).isEmpty && match d.plan.active.bind (·.strandline) with
    | some s => s.buddy0 == addr || (s.k == 2 && s.buddy1 == addr) || s.peers.any (·.addr == addr)
    | none => false

/-- A link that was UP goes DOWN: counted, with LINK_DOWN, and the neighbour table changes. -/
def Dev.linkFails (d : Dev) (l : Nat) : Dev :=
  let was := d.link l
  let d := d.takeDown l
  if was.st = .up then
    let d := (d.modLink l fun k => { k with downs := satInc k.downs }).raise .lnk 1
    (d.raiseIf (d.peerGone was.farAddr) .stl 3).topoUpdate
  else d

/-! ## Receiving a flit (R249, R262, R263) -/

/-- NAK with the SEQ that the receiver waits for. -/
def Dev.sendNak (d : Dev) (l : Nat) : Dev := d.sendCtrl l (.nak (d.link l).rxSeq)

/-- A tag failure, or a flit out of order: it is dropped, and NAK goes out once. Sixteen tag failures in a
row take the link DOWN. -/
def Dev.tagFails (d : Dev) (l : Nat) (tagOk : Bool) : Dev :=
  let k := d.link l
  let d := d.modLink l fun k =>
    { k with awaiting := true,
             tagFail := if tagOk then k.tagFail else satInc k.tagFail,
             tagRun := if tagOk then k.tagRun else k.tagRun + 1 }
  let d := if k.awaiting then d else d.sendNak l
  if 16 ≤ (d.link l).tagRun then d.linkFails l else d

/-- A flit is taken in order, and its ACK_SEQ frees the replay buffer. -/
def Dev.takeFlit (d : Dev) (l : Nat) (h : FlitHdr) (credit : Bool) : Dev :=
  (d.rxFlit l h.vc.toNat credit).acked l h.ackSeq

/-- The current generation of a flit's destination unit (R261, R262): the flit names its destination by
clearing, and for DST_KIND 1 any tile group of the clearing. None where the generation fits.
Log entry 70 (DEDUCED). -/
def Dev.staleGen (d : Dev) (l : Nat) (h : FlitHdr) : Option (BitVec 12) :=
  let n := h.dst.toNat
  let differs (g : BitVec 12) : Option (BitVec 12) := if h.dstGen = g then none else some g
  if h.dstKind = 0 then differs (d.clr n).roleGen
  else if h.dstKind = 1 then
    let gens := (d.tilesOf n).map d.tileGen
    if gens.contains h.dstGen then none else some (gens.headD 0)
  else if h.dstKind = 2 then differs (d.link l).roleGen
  else none

/-- A flit with an old generation is dropped, counted and noticed (R262). -/
def Dev.dropStale (d : Dev) (l : Nat) (h : FlitHdr) (cur : BitVec 12) : Dev :=
  let unit : Byte := if h.dstKind = 2 then BitVec.ofNat 8 l else h.dst.setWidth 8
  let d : Dev := { d with lnk := { d.lnk with stale := satInc d.lnk.stale } }
  (d.raise .lnk 6).sendCtrl l (.staleRole h.stream h.dstKind unit h.dstGen cur)

/-- LNK_FLOW_DENY_COUNT. -/
def Dev.countDeny (d : Dev) : Dev := { d with lnk := { d.lnk with flowDeny := satInc d.lnk.flowDeny } }

/-- A flit that breaks the flow rule is dropped, counted and noticed (R263). -/
def Dev.denyFlow (d : Dev) (l : Nat) (h : FlitHdr) : Dev :=
  (d.countDeny.raise .lnk 7).sendCtrl l (.flowDenied h.stream)

/-- A DATA, COLL or STRAND flit in the order of R262: tag and SEQ, DST_GEN, flow rule, effect. A link that
does not carry such flits drops them (R258). -/
def Dev.receive (d : Dev) (l : Nat) (h : FlitHdr) (tagOk : Bool) (allowed : Dev → Bool) (eff : Dev → Dev) : Dev :=
  if (d.link l).st != .up then d
  else if !tagOk || h.seq != (d.link l).rxSeq then d.tagFails l tagOk
  else
    let d := d.takeFlit l h true
    if !d.linkCarries l then d
    else match d.staleGen l h with
      | some cur => d.dropStale l h cur
      | none => if allowed d then eff d else d.denyFlow l h

end Sys2Proof.Machine
end

