-- ==== Sys2Proof/Machine/Ieee.lean ====
section
/-! DEFINITION. IEEE 754-2019 operations on B16, H16, S32 and D64 (R77): exact results rounded once,
tininess detected after rounding, and the five status flags. -/

namespace Sys2Proof

/-! ## Status flags: bit 0 INVALID, 1 DIVBYZERO, 2 OVERFLOW, 3 UNDERFLOW, 4 INEXACT -/

abbrev FpFlags := BitVec 5

def flInvalid : FpFlags := 1
def flDivZero : FpFlags := 2
def flOverflow : FpFlags := 4
def flUnderflow : FpFlags := 8
def flInexact : FpFlags := 16

/-- A result: its code and the flags it raises. -/
abbrev FpRes := Nat × FpFlags

/-- The rounded magnitude lies below the smallest normal when rounded with an unbounded exponent. -/
def Fmt.tinyAfter (f : Fmt) (rm : Rm) (draw : Nat) (neg : Bool) (m : Nat) (e : Int) : Bool :=
  let q := floorLog2 m e - f.man
  let x := quantise m e q
  let n := if roundsUp rm neg (x.1 % 2 == 1) x.2.1 x.2.2 draw then x.1 + 1 else x.1
  floorLog2 n q < f.lsb + f.man

/-- A finite exact result, rounded once (R77). -/
def Fmt.roundFin (f : Fmt) (rm : Rm) (draw : Nat) (neg : Bool) (m : Nat) (e : Int) : FpRes :=
  if m = 0 then (f.signed neg 0, 0)
  else
    let r := f.roundMag rm draw neg m e
    if f.overflows rm neg m e then
      (f.signed neg (if overflowsToInf rm neg then f.infCode else f.maxCode),
        flOverflow ||| flInexact)
    else if r.2 then
      (f.signed neg r.1,
        flInexact ||| (if f.tinyAfter rm draw neg m e then flUnderflow else 0))
    else (f.signed neg r.1, 0)

/-- A quiet NaN of the format; its sign and payload, which the standard leaves open, are `free`. -/
def Fmt.freeNan (f : Fmt) (free : Nat) : Nat :=
  f.signed (free % 2 == 1) (f.infCode + 2 ^ (f.man - 1) + free / 2 % 2 ^ (f.man - 1))

def anySnan (vs : List Val) : Bool := vs.any Val.isSnan

/-- The NaN result of an operation with a NaN operand. -/
def Fmt.nanRes (f : Fmt) (free : Nat) (vs : List Val) : FpRes :=
  (f.freeNan free, if anySnan vs then flInvalid else 0)

/-- An invalid operation. -/
def Fmt.invalidRes (f : Fmt) (free : Nat) : FpRes := (f.freeNan free, flInvalid)

/-! ## Exact sums and products -/

/-- (−1)^neg · m · 2^e as an integer multiple of 2^g, for g ≤ e. -/
def scaledInt (neg : Bool) (m : Nat) (e g : Int) : Int :=
  let i : Int := (m : Int) * 2 ^ (e - g).toNat
  if neg then -i else i

/-- The exact sum of two finite values, with the sign that the direction gives a zero sum. -/
def addFin (rm : Rm) (n1 : Bool) (m1 : Nat) (e1 : Int) (n2 : Bool) (m2 : Nat) (e2 : Int) :
    Bool × Nat × Int :=
  let g := min e1 e2
  let s := scaledInt n1 m1 e1 g + scaledInt n2 m2 e2 g
  if s = 0 then
    ((if m1 = 0 && m2 = 0 && n1 == n2 then n1 else rm == .rd), 0, g)
  else (decide (s < 0), s.natAbs, g)

/-- a · b + c (fusedMultiplyAdd); addition is a · 1 + c. -/
def Fmt.fma (f : Fmt) (rm : Rm) (draw free : Nat) (a b c : Val) : FpRes :=
  let vs := [a, b, c]
  match a, b, c with
  | .fin n1 m1 e1, .fin n2 m2 e2, .fin n3 m3 e3 =>
    let s := addFin rm (n1 != n2) (m1 * m2) (e1 + e2) n3 m3 e3
    f.roundFin rm draw s.1 s.2.1 s.2.2
  | .fin _ _ _, .fin _ _ _, .inf n => (f.signed n f.infCode, 0)
  | a, b, c =>
    let invalidProduct := (a.isInf && b.isZero) || (a.isZero && b.isInf)
    if vs.any Val.isNan then
      let r := f.nanRes free vs
      (r.1, r.2 ||| (if invalidProduct && !(a.isNan || b.isNan) then flInvalid else 0))
    else if invalidProduct then f.invalidRes free
    else
      -- an infinite product
      let n := a.neg? != b.neg?
      match c with
      | .inf k => if k == n then (f.signed n f.infCode, 0) else f.invalidRes free
      | _ => (f.signed n f.infCode, 0)

def Fmt.add (f : Fmt) (rm : Rm) (draw free : Nat) (a b : Val) : FpRes :=
  f.fma rm draw free a (.fin false 1 0) b

def Fmt.sub (f : Fmt) (rm : Rm) (draw free : Nat) (a b : Val) : FpRes :=
  f.fma rm draw free a (.fin false 1 0) (if b.isNan then b else b.setNeg (!b.neg?))

def Fmt.mul (f : Fmt) (rm : Rm) (draw free : Nat) (a b : Val) : FpRes :=
  match a, b with
  | .fin n1 m1 e1, .fin n2 m2 e2 => f.roundFin rm draw (n1 != n2) (m1 * m2) (e1 + e2)
  | a, b =>
    if a.isNan || b.isNan then f.nanRes free [a, b]
    else if a.isZero || b.isZero then f.invalidRes free
    else (f.signed (a.neg? != b.neg?) f.infCode, 0)

/-! ## Division and square root: enough quotient bits, and a sticky bit below them -/

def Fmt.div (f : Fmt) (rm : Rm) (draw free : Nat) (a b : Val) : FpRes :=
  match a, b with
  | .fin n1 m1 e1, .fin n2 m2 e2 =>
    let n := n1 != n2
    if m2 = 0 then
      if m1 = 0 then f.invalidRes free else (f.signed n f.infCode, flDivZero)
    else if m1 = 0 then (f.signed n 0, 0)
    else
      -- 2^k · m1 / m2 has at least man + 27 significant bits
      let k := f.man + 28 + (Nat.log2 m2 + 1)
      let q := m1 * 2 ^ k / m2
      let sticky := if m1 * 2 ^ k % m2 = 0 then 0 else 1
      f.roundFin rm draw n (2 * q + sticky) (e1 - e2 - k - 1)
  | a, b =>
    if a.isNan || b.isNan then f.nanRes free [a, b]
    else if a.isInf && b.isInf then f.invalidRes free
    else if a.isInf then (f.signed (a.neg? != b.neg?) f.infCode, 0)
    else (f.signed (a.neg? != b.neg?) 0, 0)

/-- floor(√n) for n < 4^k. -/
def isqrt (n : Nat) : Nat → Nat → Nat
  | 0, r => r
  | k + 1, r => isqrt n k (if (r + 2 ^ k) * (r + 2 ^ k) ≤ n then r + 2 ^ k else r)

def Fmt.sqrt (f : Fmt) (rm : Rm) (draw free : Nat) (a : Val) : FpRes :=
  match a with
  | .fin neg m e =>
    if m = 0 then (f.signed neg 0, 0)
    else if neg then f.invalidRes free
    else
      -- make the exponent even and give the root man + 27 bits or more
      let k := 2 * (f.man + 28)
      let odd := if (e - k) % 2 = 0 then 0 else 1
      let x := m * 2 ^ (k + odd)
      let r := isqrt x (Nat.log2 x / 2 + 1) 0
      let sticky := if r * r = x then 0 else 1
      f.roundFin rm draw false (2 * r + sticky) ((e - k - odd) / 2 - 1)
  | .inf neg => if neg then f.invalidRes free else (f.infCode, 0)
  | a => f.nanRes free [a]

/-! ## Comparison, minimum and maximum -/

/-- a < b, for values that are not NaN. -/
def Val.lt (a b : Val) : Bool :=
  match a, b with
  | .fin n1 m1 e1, .fin n2 m2 e2 =>
    let g := min e1 e2
    scaledInt n1 m1 e1 g < scaledInt n2 m2 e2 g
  | .inf n, .inf k => n && !k
  | .inf n, _ => n
  | .over n, .over k => n && !k
  | .over n, .inf k => if k then false else true && (n || !k)
  | .over n, _ => n
  | _, .inf n => !n
  | _, .over n => !n
  | _, _ => false

def Val.eqv (a b : Val) : Bool := !a.isNan && !b.isNan && !a.lt b && !b.lt a

/-- minimum and maximum: −0 lies below +0. With one NaN operand, whether the NaN or the number answers depends on
which of the standard's operations this is, which `free` leaves open. Log entry 90 (DESIGN CHOICE). -/
def Fmt.minMax (f : Fmt) (big : Bool) (free : Nat) (a b : Val) (ca cb : Nat) : FpRes :=
  if a.isNan || b.isNan then
    (if (a.isNan && b.isNan) || free % 2 == 0 then f.freeNan (free / 2) else if a.isNan then cb else ca,
      if anySnan [a, b] then flInvalid else 0)
  else
    let first := if a.eqv b then a.neg? != big else a.lt b != big
    (if first then ca else cb, 0)

/-! ## Integer conversions -/

/-- A value rounded to an integer. Log entry 90 (DESIGN CHOICE). -/
def Val.toInt (rm : Rm) (draw : Nat) : Val → Option (Int × Bool)
  | .fin neg m e =>
    let x := quantise m e 0
    let n := if roundsUp rm neg (x.1 % 2 == 1) x.2.1 x.2.2 draw then x.1 + 1 else x.1
    some (if neg then -(n : Int) else n, x.2.1 != 0)
  | _ => none

/-! ## The other required operations (IEEE 754-2019, 5.3 to 5.7) -/

/-- remainder: x − y·n with n the integer nearest x/y, ties to even; a zero has the sign of x. -/
def Fmt.remainder (f : Fmt) (free : Nat) (a b : Val) : FpRes :=
  match a, b with
  | .fin n1 m1 e1, .fin _ m2 e2 =>
    if m2 = 0 then f.invalidRes free
    else
      let g := min e1 e2
      let x := m1 * 2 ^ (e1 - g).toNat
      let y := m2 * 2 ^ (e2 - g).toNat
      let up := roundsUp .rne false (x / y % 2 == 1) (x % y) y 0
      f.roundFin .rne 0 (n1 != (up && x % y != 0)) (if up then y - x % y else x % y) g
  | .fin n m e, .inf _ => f.roundFin .rne 0 n m e
  | a, b => if a.isNan || b.isNan then f.nanRes free [a, b] else f.invalidRes free

/-- Whether a magnitude with a fraction rem/den rounds up to an integer: in a direction, or to nearest with ties
away. -/
def integerUp (rm : Rm) (away neg odd : Bool) (rem den : Nat) : Bool :=
  if away then decide (den ≤ 2 * rem) else roundsUp rm neg odd rem den 0

/-- A finite value rounded to an integer: its magnitude, and whether it is inexact. -/
def integerOf (rm : Rm) (away neg : Bool) (m : Nat) (e : Int) : Nat × Bool :=
  let x := quantise m e 0
  (if integerUp rm away neg (x.1 % 2 == 1) x.2.1 x.2.2 then x.1 + 1 else x.1, x.2.1 != 0)

/-- roundToIntegral; the Exact form signals inexact. -/
def Fmt.roundInt (f : Fmt) (rm : Rm) (away exact : Bool) (free : Nat) (v : Val) : FpRes :=
  match v with
  | .fin n m e =>
    let x := integerOf rm away n m e
    ((f.roundFin .rne 0 n x.1 0).1, if exact && x.2 then flInexact else 0)
  | .inf n => (f.signed n f.infCode, 0)
  | v => f.nanRes free [v]

/-- nextUp on a code: the least value above. -/
def Fmt.nextUp (f : Fmt) (free c : Nat) : FpRes :=
  let mag := c % f.sgn
  if (f.value c).isNan then f.nanRes free [f.value c]
  else if mag = 0 then (1, 0)
  else if f.sgn ≤ c % 2 ^ f.bits then (f.signed true (mag - 1), 0)
  else (min (mag + 1) f.infCode, 0)

/-- A code with its sign changed. -/
def Fmt.negCode (f : Fmt) (c : Nat) : Nat := f.signed (decide (c % 2 ^ f.bits < f.sgn)) (c % f.sgn)

/-- nextDown(x) is −nextUp(−x). -/
def Fmt.nextDown (f : Fmt) (free c : Nat) : FpRes :=
  if (f.value c).isNan then f.nanRes free [f.value c] else (f.negCode (f.nextUp free (f.negCode c)).1, 0)

/-- scaleB(x, N), N given as a value of the format; `free` for an N that is no integer.
Log entry 90 (DESIGN CHOICE). -/
def Fmt.scaleB (f : Fmt) (rm : Rm) (free : Nat) (x n : Val) : FpRes :=
  if x.isNan || n.isNan then f.nanRes free [x, n]
  else match x, n with
    | .fin s m e, .fin sn mn en =>
      let i := quantise mn en 0
      if i.2.1 ≠ 0 then (free % 2 ^ f.bits, 0)
      else
        let k : Int := min i.1 65536
        f.roundFin rm 0 s m (e + if sn then -k else k)
    | .inf s, .fin _ _ _ => (f.signed s f.infCode, 0)
    | _, _ => (free % 2 ^ f.bits, 0)

/-- logB(x) as a value of the format. Log entry 90 (DESIGN CHOICE). -/
def Fmt.logB (f : Fmt) (free : Nat) (x : Val) : FpRes :=
  match x with
  | .fin _ m e =>
    if m = 0 then (f.signed true f.infCode, flDivZero)
    else f.roundFin .rne 0 (decide (floorLog2 m e < 0)) (floorLog2 m e).natAbs 0
  | .inf _ => (f.infCode, 0)
  | v => f.nanRes free [v]

/-- The relation of two values as a mask: 1 less, 2 equal, 4 greater, 8 unordered. -/
def relation (x y : Val) : BitVec 4 :=
  if x.isNan || y.isNan then 8 else if x.lt y then 1 else if y.lt x then 4 else 2

/-- The order of totalOrder on codes: sign and magnitude. -/
def Fmt.totalKey (f : Fmt) (c : Nat) : Int :=
  if f.sgn ≤ c % 2 ^ f.bits then -((c % f.sgn : Nat) : Int) - 1 else ((c % f.sgn : Nat) : Int)

/-- The class of a code, 0 to 9 in the order of the standard's list. Log entry 90 (DESIGN CHOICE). -/
def Fmt.classOf (f : Fmt) (c : Nat) : Nat :=
  match f.value c with
  | .nan _ q _ _ => if q then 1 else 0
  | .inf n => if n then 2 else 9
  | v =>
    let mag := c % f.sgn
    let k := if mag = 0 then 2 else if mag < 2 ^ f.man then 1 else 0
    if v.neg? then 3 + k else 8 - k

end Sys2Proof
end

