-- ==== Sys2Proof/Machine/Acc.lean ====
section
/-! DEFINITION. The accumulator word of chapter 05: its layout, its value, terms, sweeps in FAST and
STRICT mode, word sums and exact atomics. -/

namespace Sys2Proof

/-! ## Layout (R92) -/

structure Acc where
  w    : Int
  a    : Int
  nan  : Bool
  esc  : Bool
  escs : Bool
  loss : Bool
  sat  : Bool
  anch : Bool
deriving DecidableEq, Repr

def Acc.fresh : Acc :=
  { w := 0, a := 0, nan := false, esc := false, escs := false, loss := false, sat := false, anch := false }

def signedOf (n w : Nat) : Int := if n < 2 ^ (w - 1) then n else (n : Int) - 2 ^ w

def Acc.ofWord (v : BitVec 128) : Acc :=
  { w := signedOf (v.toNat % 2 ^ 112) 112, a := signedOf (v.toNat / 2 ^ 112 % 1024) 10,
    nan := v.getLsbD 122, esc := v.getLsbD 123, escs := v.getLsbD 124, loss := v.getLsbD 125,
    sat := v.getLsbD 126, anch := v.getLsbD 127 }

def Acc.word (x : Acc) : BitVec 128 :=
  let bit (b : Bool) (i : Nat) : Nat := if b then 2 ^ i else 0
  BitVec.ofNat 128 ((x.w % 2 ^ 112).toNat + 2 ^ 112 * (x.a % 1024).toNat + bit x.nan 122 +
    bit x.esc 123 + bit x.escs 124 + bit x.loss 125 + bit x.sat 126 + bit x.anch 127)

/-- Anchored, or read as if it were (R93). -/
def Acc.anchored (x : Acc) : Bool := x.anch || x.w != 0

def wMax : Int := 2 ^ 111 - 1
def wMin : Int := -(2 ^ 111)
def fits112 (i : Int) : Bool := wMin ≤ i && i ≤ wMax

/-! ## The STRICT form (R109) -/

/-- The word of an S32 value. -/
def strictWord (c : Nat) : Acc :=
  let v := Fmt.s32.value c
  { w := c, a := -512, nan := v.isNan, esc := v.isInf, escs := v.isInf && v.neg?, loss := false,
    sat := false, anch := true }

def Acc.isStrict (x : Acc) : Bool :=
  0 ≤ x.w && x.w < 2 ^ 32 && x == strictWord x.w.toNat

/-- The value of a word under R93, as a conversion in direction `rm` reads it (R106, R107); a finite STRICT word is
its S32 value, with its sign (R107, R109). -/
def Acc.val (x : Acc) (rm : Rm) : Val :=
  if x.nan then .qnan
  else if x.esc then .inf x.escs
  else if x.sat then .over (decide (x.w < 0))
  else if x.isStrict then Fmt.s32.value x.w.toNat
  else if !x.anchored then .zero false
  else if x.w = 0 then .zero (rm == .rd)
  else .fin (decide (x.w < 0)) x.w.natAbs x.a

/-! ## Terms (R94, R95) -/

/-- What a term is. -/
inductive Term where
  | nan
  | inf (neg : Bool)
  | fin (neg : Bool) (m : Nat) (e : Int)
deriving DecidableEq, Repr

/-- The term of two operands: NaN or invalid, infinite, or an exact product. -/
def term (a b : Val) : Term :=
  match a, b with
  | .fin n1 m1 e1, .fin n2 m2 e2 => .fin (n1 != n2) (m1 * m2) (e1 + e2)
  | a, b =>
    if a.isNan || b.isNan || a.isZero || b.isZero then .nan else .inf (a.neg? != b.neg?)

/-- The flags of R94 that a NaN or infinite term sets. Log entry 52 (DESIGN CHOICE). -/
def Acc.flag (x : Acc) : Term → Acc
  | .nan => { x with nan := true }
  | .inf neg =>
    if !x.esc then { x with esc := true, escs := neg }
    else if x.escs = neg then x else { x with nan := true }
  | .fin _ _ _ => x

/-- floor(v / 2^a) for a finite term, and whether it is inexact (R95). -/
def floorAt (neg : Bool) (m : Nat) (e a : Int) : Int × Bool :=
  if a ≤ e then (scaledInt neg m e a, false)
  else
    let den : Int := 2 ^ (a - e).toNat
    let i : Int := if neg then -(m : Int) else m
    (i / den, i % den != 0)

/-- The finite terms' contribution at anchor `a`, and whether any lost bits. -/
def contribution (a : Int) : List Term → Int × Bool
  | [] => (0, false)
  | .fin neg m e :: ts =>
    let x := floorAt neg m e a
    let r := contribution a ts
    (x.1 + r.1, x.2 || r.2)
  | _ :: ts => contribution a ts

/-! ## A FAST sweep of one element (R96–R99) -/

def clampAnchor (i : Int) : Int := max (-511) (min 511 i)

/-- The anchor predicted at issue (R96); `emax` is none for −∞. -/
def Acc.anchorAt (x : Acc) (emax : Option Int) : Acc :=
  if x.anch then x
  else if x.w ≠ 0 then { x with anch := true }
  else match emax with
    | some e => { x with a := clampAnchor (e - 91), anch := true }
    | none => x

/-- One pass of a sweep over an element (R98, R99): the word with the terms added, or, where the window
overflows, the word that the replay starts from, and whether it overflowed. Log entry 49 (DEDUCED). -/
def Acc.pass (x : Acc) (ts : List Term) : Acc × Bool :=
  let c := contribution x.a ts
  let s := x.w + c.1
  if x.sat then ({ x with loss := x.loss || c.2 }, false)
  else if fits112 s then ({ x with w := s, loss := x.loss || c.2 }, false)
  else if 511 < x.a + 24 then ({ x with w := if s < 0 then wMin else wMax, sat := true }, true)
  else ({ x with w := x.w / 2 ^ 24, a := x.a + 24, loss := x.loss || x.w % 2 ^ 24 != 0 }, true)

/-- The first NaN lane of R111: the lowest k whose term is a NaN or invalid term, else the lowest whose
infinity opposes the reference sign. -/
def nanLane (start : Acc) (ts : List Term) : Nat :=
  match ts.findIdx? (· == .nan) with
  | some k => k
  | none =>
    let signs := ts.filterMap fun t => match t with | .inf n => some n | _ => none
    let ref := if start.esc then start.escs else signs.headD false
    (ts.findIdx? (· == .inf (!ref))).getD 0

/-! ## STRICT words and sweeps (R108, R109) -/

/-- Write back ANCH 1 for a window that is not zero (R93). -/
def keepAnchored (w : BitVec 128) : BitVec 128 := if w.extractLsb' 0 112 = 0 then w else w ||| 1#128 <<< 127

/-- The S32 value that a STRICT sweep starts from: a STRICT word's own, else the word under R106 with
RNE. -/
def Acc.strictStart (x : Acc) (md : Mode) : Nat :=
  if x.isStrict then x.w.toNat else (Fmt.s32.convert md .rne 0 (x.val .rne)).1

/-- The start words that a STRICT sweep converts under R106: the indices of NaN words, which are conversion NaNs
(R83), and how many words have LOSS. -/
def strictNans (ws : List (BitVec 128)) : List Nat :=
  (ws.zipIdx.filter fun w => let x := Acc.ofWord w.1; !x.isStrict && (x.val .rne).isNan).map (·.2)
def strictLosses (ws : List (BitVec 128)) : Nat :=
  (ws.filter fun w => let x := Acc.ofWord w; !x.isStrict && x.loss).length

/-- A FAST sweep that starts from a STRICT word: fresh but for its flags, with its value as one term
(R109). -/
def Acc.fromStrict (x : Acc) : Acc × Option Val :=
  ({ Acc.fresh with nan := x.nan, esc := x.esc, escs := x.escs },
    match Fmt.s32.value x.w.toNat with
    | .fin n m e => some (.fin n m e)
    | _ => none)

/-- Quiet a NaN operand into S32, its payload kept (R108). -/
def quietS32 (v : Val) : Nat :=
  match v with
  | .nan neg _ p w => Fmt.s32.nanCode .strict neg p w
  | _ => 0x7FC00000

/-- One step c ← round32(c + a·b) (R108). -/
def strictStep (rm : Rm) (c : Nat) (a b : Val) : FpRes :=
  let v := Fmt.s32.value c
  let fl : FpFlags := if anySnan [v, a, b] then flInvalid else 0
  if v.isNan then (quietS32 v, fl)
  else if a.isNan then (quietS32 a, fl)
  else if b.isNan then (quietS32 b, fl)
  else
    let r := Fmt.s32.fma rm 0 0 a b v
    if r.2 &&& flInvalid ≠ 0 then (0x7FC00000, r.2) else r

/-- The steps of a STRICT element in ascending k: the value, the flags, and the k of the first step that
made it NaN. Log entry 49 (DEDUCED). -/
def strictSweep (rm : Rm) : List (Val × Val) → Nat → Nat → FpFlags → Option Nat → Nat × FpFlags × Option Nat
  | [], _, c, fl, first => (c, fl, first)
  | p :: ps, k, c, fl, first =>
    let r := strictStep rm c p.1 p.2
    let now := (Fmt.s32.value r.1).isNan && !(Fmt.s32.value c).isNan
    strictSweep rm ps (k + 1) r.1 (fl ||| r.2) (if now && first.isNone then some k else first)

/-! ## Word sums (R103) -/

/-- Move a window from anchor `a` to `b`: left exactly, or right with floor; true where bits go. -/
def realign (w a b : Int) : Int × Bool :=
  if b ≤ a then (w * 2 ^ (a - b).toNat, false)
  else (w / 2 ^ (b - a).toNat, w % 2 ^ (b - a).toNat != 0)

/-- The common anchor and the sum; SAT where it would pass 511. -/
def sumAt (x y : Acc) : Nat → Int → Acc
  | 0, _ => x
  | fuel + 1, ac =>
    let xs := realign x.w x.a ac
    let ys := realign y.w y.a ac
    let s := xs.1 + ys.1
    if fits112 xs.1 && fits112 ys.1 && fits112 s then
      { x with w := s, a := ac, anch := true, loss := x.loss || xs.2 || ys.2 }
    else if 511 < ac + 24 then
      { x with w := if s < 0 then wMin else wMax, a := ac, anch := true, sat := true,
               loss := x.loss || xs.2 || ys.2 }
    else sumAt x y fuel (ac + 24)

def Acc.add (x y : Acc) : Acc :=
  let f : Acc := { x with nan := x.nan || y.nan, loss := x.loss || y.loss, sat := x.sat || y.sat }
  let f := if y.esc then f.flag (.inf y.escs) else f
  if !x.anchored && !y.anchored then { f with w := 0, a := min x.a y.a, anch := false }
  else if !y.anchored then { f with w := x.w, a := x.a, anch := true }
  else if !x.anchored then { f with w := y.w, a := y.a, anch := true }
  else sumAt f y 45 (min x.a y.a)

/-! ## A value as a word (R409) -/

def Acc.ofVal (v : Val) : Acc :=
  match v with
  | .nan _ _ _ _ => { Acc.fresh with nan := true }
  | .inf neg => { Acc.fresh with esc := true, escs := neg }
  | .over neg => { Acc.fresh with w := if neg then wMin else wMax, a := 511, sat := true, anch := true }
  | .fin neg m e =>
    if m = 0 then Acc.fresh
    else
      let a := clampAnchor (floorLog2 m e + 1 - 91)
      let x := floorAt neg m e a
      if floorLog2 m e < a + 111 then { Acc.fresh with w := x.1, a := a, anch := true, loss := x.2 }
      else { Acc.fresh with w := if neg then wMin else wMax, a := a, anch := true, sat := true, loss := x.2 }

/-! ## Exact atomics (R150, R151) -/

/-- XADD of a value into a cell. Log entry 52 (DESIGN CHOICE). -/
def Acc.xadd (x : Acc) (v : Val) : Acc :=
  if !x.anch then { x with nan := true }
  else match v with
    | .nan _ _ _ _ => { x with nan := true }
    | .inf neg => x.flag (.inf neg)
    | .over _ => { x with sat := true }
    | .fin neg m e =>
      if m = 0 then x
      else if x.a + 91 ≤ floorLog2 m e then { x with sat := true }
      else
        let c := floorAt neg m e x.a
        { x with w := signedOf ((x.w + c.1) % 2 ^ 112).toNat 112, loss := x.loss || c.2 }

/-- XINIT's cell. -/
def xinitCell (anchor : BitVec 10) : Acc := { Acc.fresh with a := anchor.toInt, anch := true }

/-! ## Block exponent bounds (R96) -/

/-- The bound of a block: floor_log2 of its largest finite magnitude, plus 1; none for −∞. -/
def blockBound (vs : List Val) : Option Int :=
  let x := maxMag vs
  if x.1 = 0 then none else some (floorLog2 x.1 x.2 + 1)

def maxOpt (a b : Option Int) : Option Int :=
  match a, b with
  | some x, some y => some (max x y)
  | none, y => y
  | x, none => x

def addOpt (a b : Option Int) : Option Int :=
  match a, b with
  | some x, some y => some (x + y)
  | _, _ => none

/-- emax of an element: the largest sum of the two operands' block bounds along K. -/
def emaxOf (as bs : List (Option Int)) : Option Int :=
  ((as.zip bs).map fun p => addOpt p.1 p.2).foldl maxOpt none

end Sys2Proof
end

