-- ==== Sys2Proof/Machine/Draw.lean ====
section
/-! DEFINITION. The keyed generator (R303–R307), the determinism guarantee (R64), conversions of
whole windows (R80, R87, R88), and numeric events (R87, R106, R111). -/

namespace Sys2Proof.Machine
open Sys2Proof

/-! ## The generator -/

/-- The generator slot of a clearing (R303); its MASK admits the clearing (R212). Log entry 127 (DEDUCED). -/
def Dev.genSlot (d : Dev) (n : Nat) : Option Nat := (d.keySlot n 3).filter fun s => (d.slot s).mask.getLsbD n

/-- The step key of a command of clearing `n` with an INSTANCE (R304); open where the generator slot has gone since the
command's decode. Log entry 129 (DESIGN CHOICE). -/
def Dev.stepKeyOf (d : Dev) (n : Nat) (inst : Word) : BitVec 128 :=
  match d.genSlot n with
  | some s =>
    (Config.kdf (d.slot s).key
      (ascii "VX-GEN" ++ [BitVec.ofNat 8 n] ++ leBytes 4 inst.toNat)).extractLsb' 128 128
  | none => Config.goneKey d.free

/-- The draw of R305 for USE `use` at an index. -/
def keyedDraw (key : BitVec 128) (stream : BitVec 16) (use index : Nat) : Nat :=
  let block : BitVec 128 :=
    BitVec.ofNat 128 (2 ^ 112 * stream.toNat + 2 ^ 108 * use + index / 4 % 2 ^ 46)
  (Config.sm4 key block).toNat / 2 ^ (104 - 32 * (index % 4)) % 2 ^ 24

/-- The draw at an index; STREAM 0xFFFF selects free draws (R306). Log entry 5 (DESIGN CHOICE). -/
def Dev.drawAt (d : Dev) (key : BitVec 128) (stream : BitVec 16) (use index : Nat) : Nat :=
  if stream = 0xFFFF then (Config.freeDraw d.free index).toNat else keyedDraw key stream use index

/-- An ordinary floating-point atomic or a free draw ends the guarantee of a plan that claims it
(R64). -/
def Dev.loseHeld (d : Dev) : Dev :=
  if d.plan.held then ({ d with plan := { d.plan with held := false } } : Dev).raise .plan 2 else d

/-- Draws were taken from a stream: free ones end the guarantee, and the next free draws differ. -/
def Dev.drew (d : Dev) (used : Bool) (stream : BitVec 16) : Dev :=
  if used && stream == 0xFFFF then d.loseHeld.tick else d

/-! ## Rounding and mode of a clearing (R81) -/

/-- A rounding code that a command may name: not 0x5 or 0x6. -/
def roundOk (c : Nat) : Bool := c != 5 && c != 6 && c < 8

def Dev.rounding (d : Dev) (n code : Nat) : Rm := Rm.ofCode (if code = 7 then d.defRound n else code)

def Dev.mode (d : Dev) (n : Nat) : Mode := Mode.ofCode (d.arithMode n)

/-! ## Windows of elements -/

/-- A list in runs of `k`; `fuel` bounds the number of runs. -/
def runs {α : Type} (k : Nat) : Nat → List α → List (List α)
  | 0, _ => []
  | fuel + 1, xs => if xs.isEmpty then [] else xs.take k :: runs k fuel (xs.drop k)

/-- The columns of rows of equal length. -/
def columns {α : Type} (cols : Nat) (rows : List (List α)) : List (List α) :=
  (List.range cols).map fun j => rows.filterMap fun r => r[j]?

/-- A converted window: its codes by row, its scale lines, and the row-major indices of its conversion
NaNs, ascending. -/
structure Conv where
  codes  : List (List Nat)
  scales : List (List Nat)
  nans   : List Nat
deriving DecidableEq, Repr

/-- One line along K into a blocked format: scales, codes, conversion NaNs. -/
def convertLine (f src : Fmt) (md : Mode) (rm : Rm) (xs : List (Val × Nat)) :
    List Nat × List Nat × List Bool :=
  let bs := (runs 32 xs.length xs).map fun b => convertBlock f src md rm (b.map (·.2)) (b.map (·.1))
  (bs.map (·.1), bs.flatMap (·.2.1), bs.flatMap (·.2.2))

/-- Conversion of a window of values into a format, plain or blocked along rows (`kaxis` false) or
columns; `draw` gives the draw of a row-major index. -/
def convertWindow (f src : Fmt) (blocked kaxis : Bool) (md : Mode) (rm : Rm) (cols : Nat)
    (draw : Nat → Nat) (rows : List (List Val)) : Conv :=
  let drawn := rows.zipIdx.map fun r => r.1.zipIdx.map fun v =>
    (v.1, if rm = .sr then draw (r.2 * cols + v.2) else 0)
  let nansOf (marks : List (List Bool)) : List Nat :=
    marks.zipIdx.flatMap fun r => (r.1.zipIdx.filter (·.1)).map fun b => r.2 * cols + b.2
  if !blocked then
    let rs := drawn.map fun r => r.map fun v => f.convert md rm v.2 v.1
    { codes := rs.map fun r => r.map (·.1), scales := [], nans := nansOf (rs.map fun r => r.map (·.2)) }
  else if !kaxis then
    let rs := drawn.map (convertLine f src md rm)
    { codes := rs.map (·.2.1), scales := rs.map (·.1), nans := nansOf (rs.map (·.2.2)) }
  else
    let cs := (columns cols drawn).map (convertLine f src md rm)
    { codes := columns rows.length (cs.map (·.2.1)), scales := cs.map (·.1),
      nans := nansOf (columns rows.length (cs.map (·.2.2))) }

/-- How many elements of destination row `r` are written when the first conversion NaN under TRAP_STOP
has index `limit` (R87): whole blocks of 32 that lie below it. -/
def keptInRow (limit : Option Nat) (cols r : Nat) : Nat :=
  match limit with
  | none => cols
  | some x =>
    if (r + 1) * cols ≤ x then cols
    else if r * cols ≤ x then (x - r * cols) / 32 * 32
    else 0

/-! ## Numeric events -/

/-- Conversion NaNs count, and under every trap setting the first is an event for the trap record
(R87, R112). `src` is 2 for an epilogue and 3 for a mover or a copy. Log entry 45 (DEDUCED). -/
def Dev.convNans (d : Dev) (n src tile q : Nat) (seq : Word) (sweep : Nat) (nans : List Nat) : Dev :=
  match nans with
  | [] => d
  | k :: _ =>
    let e : NanEvent :=
      { source := src, tile := tile, queue := q, seq := seq, sweep := sweep, row := 0, col := 0, k := k,
        stopped := d.nanTrap n == 1 }
    d.modNum n fun x =>
      { x with convNan := satAdd x.convNan nans.length, status := setBit x.status 0,
               events := x.events ++ [e] }

/-- Conversions from words with LOSS count (R106). -/
def Dev.lossConversions (d : Dev) (n k : Nat) : Dev :=
  d.modNum n fun x => { x with loss := satAdd x.loss k }

/-- The limit that TRAP_STOP sets on what a conversion writes. -/
def Dev.trapLimit (d : Dev) (n : Nat) (nans : List Nat) : Option Nat :=
  if d.nanTrap n = 1 then nans.head? else none

end Sys2Proof.Machine
end

