-- ==== Sys2Proof/Machine/SweepOps.lean ====
section
/-! DEFINITION. Sweep programs as shared operations: instruction layouts (R125–R127), decode checks
(R123), panels (R121), issue conditions (R129), windows in memory (R126, R414), and the end of a
program (R135, R137, R410, R411). -/

namespace Sys2Proof.Machine
open Sys2Proof

/-! ## Layouts (R125–R127) -/

/-- Bytes `b` to `b + n − 1` of an instruction, little-endian. -/
def ib (bs : List Byte) (b n : Nat) : Nat := leVal ((bs.drop b).take n)

def parseSweep (bs : List Byte) : Option SwInstr :=
  let epi := (ib bs 3 1).testBit 1
  let blkA := (ib bs 1 1).testBit 4
  let blkB := (ib bs 2 1).testBit 4
  let ok := ib bs 1 1 / 64 == 0 && ib bs 2 1 / 64 == 0 && ib bs 3 1 / 4 == 0 && ib bs 11 1 / 16 == 0 &&
    ib bs 15 1 / 64 == 0 && ib bs 19 1 / 16 == 0 && ib bs 19 1 / 4 % 4 != 3 &&
    ib bs 20 3 / 2 ^ 20 == 0 && ib bs 23 1 / 8 == 0 && ib bs 27 1 == 0 && ib bs 31 1 == 0 &&
    (blkA || ib bs 12 3 == 0) && (blkB || ib bs 16 3 == 0) &&
    (epi || (ib bs 11 1 == 0 && ib bs 15 1 == 0 && ib bs 19 1 == 0 && ib bs 23 1 == 0 &&
      ib bs 24 3 == 0 && ib bs 28 3 == 0))
  if ok then
    some (.sweep (ib bs 1 1 % 16) (ib bs 2 1 % 16) blkA blkB ((ib bs 1 1).testBit 5)
      ((ib bs 2 1).testBit 5) ((ib bs 3 1).testBit 0) epi (ib bs 4 3) (ib bs 8 3) (ib bs 12 3)
      (ib bs 16 3) (ib bs 7 1) (ib bs 20 3) (ib bs 11 1) (ib bs 15 1 % 16) ((ib bs 15 1).testBit 4)
      ((ib bs 15 1).testBit 5) (ib bs 19 1 % 4) (ib bs 19 1 / 4 % 4)
      (BitVec.ofNat 3 (ib bs 23 1)) (ib bs 24 3) (ib bs 28 3))
  else none

def parseMove (bs : List Byte) (store : Bool) : Option SwInstr :=
  let blkM := (ib bs 1 1).testBit 4
  let mode := ib bs 3 1
  let ok := ib bs 1 1 / 32 == 0 && ib bs 2 1 / 128 == 0 && ib bs 7 1 / 16 == 0 && ib bs 23 1 == 0 &&
    ib bs 27 1 == 0 && (blkM || ib bs 28 4 == 0) && !(store && mode / 8 % 4 != 0)
  let acc := (ib bs 2 1).testBit 5
  let kax := (ib bs 2 1).testBit 6
  let blkS := (ib bs 2 1).testBit 4
  let rnd : BitVec 3 := BitVec.ofNat 3 mode
  if !ok then none
  else if store then
    some (.store (ib bs 1 1 % 16) blkM (ib bs 2 1 % 16) blkS acc kax rnd (mode / 32) (ib bs 4 3)
      (ib bs 7 1) (BitVec.ofNat 32 (ib bs 8 4)) (ib bs 12 6) (ib bs 18 2) (ib bs 20 3) (ib bs 24 3)
      (ib bs 28 4))
  else
    some (.load (ib bs 1 1 % 16) blkM (ib bs 2 1 % 16) blkS acc kax rnd (mode / 8 % 4) (mode / 32)
      (ib bs 4 3) (ib bs 7 1) (BitVec.ofNat 32 (ib bs 8 4)) (ib bs 12 6) (ib bs 18 2) (ib bs 20 3)
      (ib bs 24 3) (ib bs 28 4))

/-- One 32-byte instruction; none where OPC is undefined or a reserved field is not 0. -/
def parseInstr (bs : List Byte) : Option SwInstr :=
  match ib bs 0 1 with
  | 1 => parseSweep bs
  | 2 => parseMove bs false
  | 3 => parseMove bs true
  | 4 =>
    if ib bs 1 6 == 0 && ib bs 9 23 == 0 then some (.accAdd (ib bs 7 1) (ib bs 8 1)) else none
  | _ => none

/-- The instructions of a program's bytes; none where one does not parse. -/
def parseProgram : Nat → List Byte → Option (List SwInstr)
  | 0, _ => some []
  | n + 1, bs =>
    match parseInstr (bs.take 32), parseProgram n (bs.drop 32) with
    | some i, some is => some (i :: is)
    | _, _ => none

/-! ## Decode checks (R78, R123) -/

/-- Pairing groups of R78. -/
def pairGroup (f : Fmt) : Nat :=
  if f.short then 1 else match f with | .i8 => 2 | .b16 => 3 | .h16 => 3 | .s32 => 4 | _ => 0

def fits (size : Nat) (rs : List (Nat × Nat)) : Bool := rs.all fun r => r.1 + r.2 ≤ size

/-- A mover or copy accepts the pair: every format of R71, blocked only for short formats; a word
converts into any format, and only a word into a word. -/
def moveFormats (src dst : Fmt) (blkS blkD : Bool) : Bool :=
  (!blkS || src.short) && (!blkD || dst.short) && (dst != .aw || (src == .aw))

/-- The mover queue is claimed for the clearing (R61): by the clearing, or by an activity of it.
Log entry 42 (DEDUCED). -/
def Dev.moverClaimed (d : Dev) (n t mover : Nat) : Bool :=
  match d.plan.active with
  | some p => p.claims.any fun c => c.cls == 5 && c.first.toNat ≤ 16 * t + mover &&
      16 * t + mover ≤ c.last.toNat &&
      (match c.section_.toNat with
       | 3 => c.entry.toNat == n
       | 9 => ((p.templates.flatMap (·.acts))[c.entry.toNat]?).map (·.clearing.toNat) == some n
       | _ => false)
  | none => false

/-- The members that a LOAD writes (BCAST, MEMBER). -/
def loadMembers (g : List Nat × Nat × Nat) (bcast member : Nat) : List Nat :=
  let picked (x : Nat × Nat) : Bool :=
    match bcast with
    | 0 => true
    | 1 => x.2 / g.2.2 == member
    | 2 => x.2 % g.2.2 == member
    | _ => x.2 == member
  (g.1.zipIdx.filter picked).map (·.1)

/-- The window of a LOAD or STORE lies within its object. -/
def windowFits (o : Obj) (f : Fmt) (blk kax : Bool) (off rows cols pitch delta : Nat) : Bool :=
  let last := off + (rows - 1) * pitch + f.bytesOf cols
  let plane := if kax then cols * ((rows + 31) / 32) else rows * ((cols + 31) / 32)
  last ≤ o.size && (!blk || off + delta + plane ≤ o.size)

/-- The checks of R123 for one instruction of clearing `n` on a gang. -/
def Dev.instrOk (d : Dev) (n : Nat) (g : List Nat × Nat × Nat) (i : SwInstr) : Bool :=
  let known (c : Nat) : Bool := (Fmt.ofCode c).isSome
  match i with
  | .sweep fa fb blkA blkB _ _ _ epi aOff bOff aS bS _ _ act ef eb _ _ _ rnd dst param =>
    known fa && known fb && pairGroup (fmtOr fa) != 0 && pairGroup (fmtOr fa) == pairGroup (fmtOr fb) &&
      (!blkA || (fmtOr fa).short) && (!blkB || (fmtOr fb).short) &&
      fits opBytes (sweepReads i) && [aOff, bOff, aS, bS, dst, param].all (· % 64 == 0) &&
      (!epi || (known ef && act ≤ 9 && (!eb || (fmtOr ef).short) &&
        ((fmtOr ef).short || [Fmt.i8, .b16, .h16, .s32].contains (fmtOr ef)) &&
        roundOk rnd.toNat && fits opBytes (epiParam i) && fits opBytes (epiWrites i)))
  | .load fm blkM fs blkS acc kax rnd bcast member sram mover h off rows cols pitch delta =>
    known fm && known fs && moveFormats (fmtOr fm) (fmtOr fs) blkM blkS && roundOk rnd.toNat &&
      1 ≤ rows && 1 ≤ cols && (!acc || (fs == 10 && fm == 10 && !blkS)) &&
      (if acc then sram % 16 == 0 && (moveRange i).all (fun r => fits accBytes r.2)
       else sram % 64 == 0 && (moveRange i).all (fun r => fits opBytes r.2)) &&
      (match bcast with
       | 0 => true | 1 => member < g.2.1 | 2 => member < g.2.2 | _ => member < g.1.length) &&
      (loadMembers g bcast member).all (fun t => d.moverClaimed n t mover) &&
      windowFits (d.obj (objIndex h)) (fmtOr fm) blkM kax off rows cols pitch delta
  | .store fm blkM fs blkS acc kax rnd member sram mover h off rows cols pitch delta =>
    known fm && known fs && moveFormats (fmtOr fs) (fmtOr fm) blkS blkM && roundOk rnd.toNat &&
      1 ≤ rows && 1 ≤ cols && (!acc || (fs == 10 && !blkS)) &&
      (if acc then sram % 16 == 0 && (moveRange i).all (fun r => fits accBytes r.2)
       else sram % 64 == 0 && (moveRange i).all (fun r => fits opBytes r.2)) &&
      member < g.1.length &&
      (match g.1[member]? with | some t => d.moverClaimed n t mover | none => false) &&
      windowFits (d.obj (objIndex h)) (fmtOr fm) blkM kax off rows cols pitch delta
  | .accAdd a b => a < 256 && b < 256

/-- The handles of a program. Log entry 49 (DEDUCED). -/
def progHandles (is : List SwInstr) : List (Word × Bool) :=
  is.filterMap fun i => match i with
    | .load _ _ _ _ _ _ _ _ _ _ _ h _ _ _ _ _ => some (h, false)
    | .store _ _ _ _ _ _ _ _ _ _ h _ _ _ _ _ => some (h, true)
    | _ => none

/-- An instruction rounds stochastically in clearing `n`. -/
def Dev.usesSr (d : Dev) (n : Nat) (i : SwInstr) : Bool :=
  match i with
  | .sweep _ _ _ _ _ _ _ epi _ _ _ _ _ _ _ _ _ _ _ _ rnd _ _ => epi && d.rounding n rnd.toNat == .sr
  | .load fm bm fs bs _ _ rnd _ _ _ _ _ _ _ _ _ _ =>
    !(fm == fs && bm == bs) && d.rounding n rnd.toNat == .sr
  | .store fm bm fs bs _ _ rnd _ _ _ _ _ _ _ _ _ =>
    !(fm == fs && bm == bs) && d.rounding n rnd.toNat == .sr
  | .accAdd _ _ => false

/-! ## Reading panels -/

/-- Bytes of the operand store; past its end the value is free. -/
def TileSt.read (s : TileSt) (free off n : Nat) : List Byte :=
  (List.range n).map fun i =>
    if off + i < opBytes then Tab.get 0 s.op (off + i) else Config.freeByte free (off + i)

/-- The bytes of a recorded block meet a range. -/
def BlockBound.meets (b : BlockBound) (key off n : Nat) : Bool :=
  let at_ := key / 2
  let hits (bit bits : Nat) : Bool := bit < 8 * (off + n) && 8 * off < bit + bits
  if key % 2 = 0 then hits at_ (b.n * b.fmt.bits)
  else (List.range b.n).any fun i => hits (at_ + 8 * b.pitch * i) b.fmt.bits

/-- Write bytes into the operand store, as far as it reaches; bounds recorded of what they replace go.
Log entry 115 (DEDUCED). -/
def TileSt.write (s : TileSt) (off : Nat) (bs : List Byte) : TileSt :=
  { s with
    op := Tab.setRun 0 s.op off (bs.take (opBytes - off)), bounds := s.bounds.filter fun b => !b.2.meets b.1 off bs.length }

/-- Word `k` of the accumulator store. -/
def TileSt.word (s : TileSt) (k : Nat) : AW := Tab.get 0 s.acc k
def TileSt.slotWords (s : TileSt) (slot : Nat) : List AW :=
  (List.range 1024).map fun k => s.word (1024 * slot + k)

/-- The 32 lines of an operand, each of `k` elements along K: from 32 rows of `k` elements, or, `kMajor`,
from `k` rows of 32. -/
def operandLines (s : TileSt) (f : Fmt) (blk kMajor : Bool) (off scale k : Nat) : List (List Val) :=
  let codes := if kMajor then
      columns 32 ((List.range k).map fun r => f.unpack 32 (s.read 0 (off + r * rowPitch f 32) (f.bytesOf 32)))
    else (List.range 32).map fun r => f.unpack k (s.read 0 (off + r * rowPitch f k) (f.bytesOf k))
  codes.zipIdx.map fun line =>
    let sp := roundTo16 ((k + 31) / 32)
    line.1.zipIdx.map fun c =>
      let v := f.value c.1
      if blk then scaled (Tab.get 0 s.op (scale + line.2 * sp + c.2 / 32)).toNat v else v

/-- A panel that was written records the bounds of its blocks along rows and along columns, block scales apart
(R122). -/
def TileSt.recordBounds (s : TileSt) (f : Fmt) (off cols : Nat) (codes : List (List Nat)) : TileSt :=
  let pitch := rowPitch f cols
  let block (cs : List Nat) : BlockBound :=
    { fmt := f, pitch := pitch, n := cs.length, bound := blockBound (cs.map f.value) }
  let alongRows := codes.zipIdx.flatMap fun r => (runs 32 cols r.1).zipIdx.map fun b =>
    (2 * (8 * (off + r.2 * pitch) + 32 * b.2 * f.bits), block b.1)
  let alongCols := (columns cols codes).zipIdx.flatMap fun c => (runs 32 c.1.length c.1).zipIdx.map fun b =>
    (2 * (8 * (off + 32 * b.2 * pitch) + c.2 * f.bits) + 1, block b.1)
  { s with bounds := alongRows ++ alongCols ++ s.bounds }

/-- The bound of the block that begins at a key: the one recorded, or, where no panel of this shape was written,
that of the elements as they stand. Log entry 115 (DEDUCED). -/
def TileSt.boundAt (s : TileSt) (f : Fmt) (pitch key : Nat) (now : List Val) : Option Int :=
  match s.bounds.find? fun b => b.1 == key && b.2.fmt == f && b.2.pitch == pitch with
  | some b => b.2.bound
  | none => blockBound now

/-- The block exponent bounds along K of an operand's 32 lines, block scales included (R96). -/
def operandBounds (s : TileSt) (f : Fmt) (blk kMajor : Bool) (off scale k : Nat) : List (List (Option Int)) :=
  let pitch := if kMajor then rowPitch f 32 else rowPitch f k
  (operandLines s f false kMajor off scale k).zipIdx.map fun line =>
    (runs 32 k line.1).zipIdx.map fun b =>
      let key := if kMajor then 2 * (8 * (off + 32 * b.2 * pitch) + line.2 * f.bits) + 1
        else 2 * (8 * (off + line.2 * pitch) + 32 * b.2 * f.bits)
      let e := s.boundAt f pitch key b.1
      if blk then
        let x := (Tab.get 0 s.op (scale + line.2 * roundTo16 ((k + 31) / 32) + b.2)).toNat
        if x = 255 then none else e.map (· + (x - 127))
      else e

/-! ## Issue (R129) -/

def overlaps (a b : List (Nat × Nat)) : Bool :=
  a.any fun x => b.any fun y => x.1 < y.1 + y.2 && y.1 < x.1 + x.2

/-- As `overlaps`, on whole 4 KiB pages. -/
def pagesOverlap (a b : List (Nat × Nat)) : Bool :=
  let pages (l : List (Nat × Nat)) : List (Nat × Nat) := (l.filter (·.2 != 0)).map fun x =>
    (4096 * (x.1 / 4096), 4096 * ((x.1 + x.2 + 4095) / 4096) - 4096 * (x.1 / 4096))
  overlaps (pages a) (pages b)

/-- Operand-store ranges that an instruction writes, and reads. -/
def opWrites (i : SwInstr) : List (Nat × Nat) :=
  match i with
  | .load _ _ _ _ acc _ _ _ _ _ _ _ _ _ _ _ _ =>
    if acc then [] else (moveRange i).elim [] (·.2)
  | i => epiWrites i

def opReads (i : SwInstr) : List (Nat × Nat) :=
  match i with
  | .store _ _ _ _ acc _ _ _ _ _ _ _ _ _ _ _ => if acc then [] else (moveRange i).elim [] (·.2)
  | i => sweepReads i ++ epiParam i

/-- The scale and bias vectors that an epilogue reads, by its parameter record as it stands (R129, R131). -/
def epiVectors (s : TileSt) (rows cols : Nat) (i : SwInstr) : List (Nat × Nat) :=
  match i with
  | .sweep _ _ _ _ _ _ _ true _ _ _ _ _ _ _ _ _ _ sk bk _ _ param =>
    let vec (kind byRow off : Nat) : List (Nat × Nat) :=
      if kind = 0 then [] else [(leVal (s.read 0 (param + off) 3), 128 * if kind = byRow then rows else cols)]
    (if sk = 1 then [] else vec sk 2 4) ++ vec bk 1 8
  | _ => []

/-- Operand-store ranges that an instruction reads in some member. -/
def Dev.readsOf (d : Dev) (g : Prog) (i : SwInstr) : List (Nat × Nat) :=
  opReads i ++ g.members.flatMap fun m => epiVectors (d.tile m) g.rows g.cols i

/-- Accumulator-store bytes that an instruction touches. -/
def accTouches (i : SwInstr) : List (Nat × Nat) :=
  let slot (k : Nat) : Nat × Nat := (16384 * k, 16384)
  match i with
  | .sweep _ _ _ _ _ _ _ _ _ _ _ _ s _ _ _ _ _ _ _ _ _ _ => [slot s]
  | .accAdd a b => [slot a, slot b]
  | i => match moveRange i with
    | some (true, rs) => rs
    | _ => []

def isCalc (i : SwInstr) : Bool :=
  match i with
  | .sweep _ _ _ _ _ _ _ _ _ _ _ _ _ _ _ _ _ _ _ _ _ _ _ => true
  | .accAdd _ _ => true
  | _ => false

def moverOf (i : SwInstr) : Option Nat :=
  match i with
  | .load _ _ _ _ _ _ _ _ _ _ m _ _ _ _ _ _ => some m
  | .store _ _ _ _ _ _ _ _ _ m _ _ _ _ _ _ => some m
  | _ => none

/-- The instructions before `idx` that are not complete. -/
def Prog.earlier (g : Prog) (idx : Nat) : List (Nat × SwInstr) :=
  ((g.instrs.zipIdx.take idx).filter fun x => !g.done.contains x.2).map fun x => (x.2, x.1)

/-- The next SWEEP or ACC_ADD in program order. -/
def Prog.nextCalc (g : Prog) : Option (Nat × SwInstr) :=
  (g.instrs.zipIdx.find? fun x => isCalc x.1 && !g.issued.contains x.2).map fun x => (x.2, x.1)

/-- The conditions of R129 under which a SWEEP or ACC_ADD issues; `reads` gives what an instruction reads. -/
def Prog.calcReady (g : Prog) (reads : SwInstr → List (Nat × Nat)) (idx : Nat) (i : SwInstr) : Bool :=
  let es := g.earlier idx
  !g.stopped && g.flights.length < 2 &&
    es.all (fun e => !pagesOverlap (opWrites e.2) (reads i) && !overlaps (accTouches e.2) (accTouches i) &&
      !pagesOverlap (opWrites e.2 ++ reads e.2) (epiWrites i))

/-- No earlier instruction that is incomplete writes the parameter record of an epilogue that has not been issued: its
vectors are known. -/
def Prog.recordKnown (g : Prog) (e : Nat × SwInstr) : Bool :=
  g.issued.contains e.1 || (g.earlier e.1).all fun x => !overlaps (opWrites x.2) (epiParam e.2)

/-- The conditions of R129 under which a LOAD or STORE issues. -/
def Prog.moveReady (g : Prog) (reads : SwInstr → List (Nat × Nat)) (idx : Nat) (i : SwInstr) (store : Bool) : Bool :=
  let es := g.earlier idx
  let earlierInQueue := g.instrs.zipIdx.take idx
  !g.stopped && !g.issued.contains idx &&
    earlierInQueue.all (fun x => moverOf x.1 != moverOf i || g.issued.contains x.2) &&
    (if store then
      es.all (fun e => !isCalc e.2 || g.epilogues.contains e.1) &&
        es.all (fun e => !overlaps (opWrites e.2) (opReads i) &&
          !(match e.2 with
            | .load _ _ _ _ true _ _ _ _ _ _ _ _ _ _ _ _ => overlaps (accTouches e.2) (accTouches i)
            | _ => false))
     else es.all fun e => !overlaps (opWrites e.2 ++ reads e.2) (opWrites i) && g.recordKnown e &&
        !overlaps (accTouches e.2) (accTouches i))

/-! ## The end of a program -/

/-- Everything issued has completed, and nothing more will issue: the command completes. -/
def Dev.progEnd (d : Dev) (t : Nat) : Dev :=
  match (d.tile t).prog with
  | none => d
  | some g =>
    let quiet := g.flights.isEmpty && g.epilogues.isEmpty && g.movers.isEmpty
    if quiet && (g.stopped || g.instrs.length ≤ g.done.length) then
      (d.dropProg t).finish g.queue.val g.seq g.status g.detail g.info
    else d

/-! ## Windows and panels as codes (R121, R126, R414) -/

/-- The codes of a window by row, and its scale lines along K by line. -/
structure Raw where
  codes  : List (List Nat)
  scales : List (List Nat)
deriving DecidableEq, Repr

/-- The byte ranges of a window within its object: its rows, and its scale plane when blocked. -/
def windowRanges (f : Fmt) (blk kax : Bool) (off rows cols pitch delta : Nat) : List (Nat × Nat) :=
  ((List.range rows).map fun r => (off + r * pitch, f.bytesOf cols)) ++
    (if blk then
      [(off + delta, if kax then cols * ((rows + 31) / 32) else rows * ((cols + 31) / 32))]
     else [])

/-- Scale lines and blocks per line of a window. -/
def planeShape (kax : Bool) (rows cols : Nat) : Nat × Nat :=
  if kax then (cols, (rows + 31) / 32) else (rows, (cols + 31) / 32)

/-- A window read through `read`, which gives the bytes at an offset: rows `pitch` apart, and scale
lines `linePitch` apart from `plane` on. -/
def rawWith (read : Nat → Nat → List Byte) (f : Fmt) (blk kax : Bool) (off rows cols pitch plane : Nat)
    (packed : Bool) : Raw :=
  let p := planeShape kax rows cols
  let lp := if packed then p.2 else roundTo16 p.2
  { codes := (List.range rows).map fun r => f.unpack cols (read (off + r * pitch) (f.bytesOf cols)),
    scales := if blk then
        (List.range p.1).map fun l => (read (plane + l * lp) p.2).map fun b => b.toNat
      else [] }

/-- A window of an object. -/
def Dev.rawWindow (d : Dev) (o : Obj) (f : Fmt) (blk kax : Bool) (off rows cols pitch delta : Nat) : Raw :=
  rawWith (d.readObj o) f blk kax off rows cols pitch (off + delta) true

/-- A panel of the operand store. Log entry 3 (DESIGN CHOICE). -/
def TileSt.rawPanel (s : TileSt) (free : Nat) (f : Fmt) (blk kax : Bool) (off rows cols : Nat) : Raw :=
  rawWith (s.read free) f blk kax off rows cols (rowPitch f cols) (off + roundTo64 (panelBytes f rows cols))
    false

/-- A panel of accumulator words, at a byte offset of the accumulator store. -/
def TileSt.rawWords (s : TileSt) (off rows cols : Nat) : Raw :=
  { codes := (List.range rows).map fun r => (List.range cols).map fun c =>
      (s.word (off / 16 + r * cols + c)).toNat,
    scales := [] }

/-- The value of one code, with its loss mark; words convert under R106 in direction `rm`. -/
def codeVal (f : Fmt) (rm : Rm) (c : Nat) : Val × Bool :=
  if f = .aw then
    let x := Acc.ofWord (BitVec.ofNat 128 c)
    (x.val rm, x.loss)
  else (f.value c, false)

/-- The values of a window, block scales applied, with loss marks. -/
def Raw.vals (x : Raw) (f : Fmt) (blk kax : Bool) (rm : Rm) : List (List (Val × Bool)) :=
  x.codes.zipIdx.map fun r => r.1.zipIdx.map fun c =>
    let v := codeVal f rm c.1
    if blk then
      let l := if kax then c.2 else r.2
      let b := (if kax then r.2 else c.2) / 32
      (scaled (((x.scales[l]?).getD [])[b]?.getD 0) v.1, v.2)
    else v

/-- A window converted to a format, or copied unconverted where the formats are the same; with the number
of words with LOSS that were converted (R106). -/
def convertRaw (src dst : Fmt) (blkS blkD kax : Bool) (md : Mode) (rm : Rm) (cols : Nat) (draw : Nat → Nat)
    (x : Raw) : Conv × Nat :=
  if src = dst && blkS == blkD then ({ codes := x.codes, scales := x.scales, nans := [] }, 0)
  else
    let vs := x.vals src blkS kax rm
    (convertWindow dst src blkD kax md rm cols draw (vs.map fun r => r.map (·.1)),
      (vs.map fun r => (r.filter (·.2)).length).foldl (· + ·) 0)

/-- What reading ranges of an object meets. -/
def Dev.checkRanges (d : Dev) (o : Obj) (rs : List (Nat × Nat)) : Dev × Hit :=
  rs.foldl (fun x r =>
    let y := x.1.checkObj o r.1 r.2
    (y.1, x.2.then_ y.2)) (d, Hit.ok)

/-- The writes of converted codes and scale lines, by the limit of R87: (offset, bytes). -/
def windowWrites (f : Fmt) (blk kax : Bool) (cols : Nat) (rowOff : Nat → Nat) (planeOff linePitch : Nat)
    (limit : Option Nat) (c : Conv) : List (Nat × List Byte) :=
  let rows := c.codes.length
  let els := c.codes.zipIdx.map fun r => (rowOff r.2, f.pack (r.1.take (keptInRow limit cols r.2)))
  let kept (line b : Nat) : Bool :=
    if kax then
      (List.range (min 32 (rows - 32 * b))).all fun i => line < keptInRow limit cols (32 * b + i)
    else min (32 * b + 32) cols ≤ keptInRow limit cols line
  let sc := if blk then
      c.scales.zipIdx.flatMap fun l => (l.1.zipIdx.filter fun x => kept l.2 x.2).map fun x =>
        (planeOff + l.2 * linePitch + x.2, [BitVec.ofNat 8 x.1])
    else []
  (els ++ sc).filter (!·.2.isEmpty)

/-- The padding of a panel's written rows and scale lines, which is 0 (R121). -/
def panelPads (f : Fmt) (cols : Nat) (rowOff : Nat → Nat) (planeOff : Nat) (limit : Option Nat) (c : Conv) :
    List (Nat × List Byte) :=
  let pad (used : Nat) : List Byte := List.replicate (roundTo16 used - used) 0
  let rows := (c.codes.zipIdx.filter fun r => keptInRow limit cols r.2 == cols).map fun r =>
    (rowOff r.2 + f.bytesOf cols, pad (f.bytesOf cols))
  rows ++ if limit.isSome then [] else c.scales.zipIdx.map fun l =>
    (planeOff + l.2 * roundTo16 l.1.length + l.1.length, pad l.1.length)

/-- A converted panel enters the operand store at an offset. -/
def TileSt.putPanel (s : TileSt) (f : Fmt) (blk kax : Bool) (off rows cols : Nat) (limit : Option Nat)
    (c : Conv) : TileSt :=
  let plane := off + roundTo64 (panelBytes f rows cols)
  let rowOff (r : Nat) : Nat := off + r * rowPitch f cols
  let lp := roundTo16 (planeShape kax rows cols).2
  let s := (windowWrites f blk kax cols rowOff plane lp limit c ++ panelPads f cols rowOff plane limit c).foldl
    (fun s w => s.write w.1 w.2) s
  if limit.isSome then s else s.recordBounds f off cols c.codes

/-- Words enter the accumulator store at a byte offset. -/
def TileSt.putWords (s : TileSt) (off : Nat) (c : Conv) : TileSt :=
  { s with acc := Tab.setRun 0 s.acc (off / 16) (c.codes.flatten.map (BitVec.ofNat 128)) }

/-- Write pieces into an object, in order. Log entry 48 (DEDUCED). -/
def Dev.writePieces (d : Dev) (o : Obj) (ws : List (Nat × List Byte)) : Dev × Hit :=
  ws.foldl (fun x w =>
    let y := x.1.writeObj o w.1 w.2
    (y.1, x.2.then_ y.2)) (d, Hit.ok)

/-- Some piece waits for a save stage (R328). -/
def Dev.piecesWait (d : Dev) (o : Obj) (ws : List (Nat × List Byte)) : Bool :=
  ws.any fun w => d.objWaits o w.1 w.2.length

/-- The chunks that a waiting write needs move to the head of stage A's reads (R328).
Log entry 39 (DESIGN CHOICE). -/
def Dev.hurry (d : Dev) (f r ra n : Nat) : Dev :=
  let ks := (List.range (n / 4096 + 2)).filterMap fun i =>
    d.plan.active.bind fun p => chunkKey p f r (min (ra + 4096 * i) (ra + n - 1))
  { d with stl := { d.stl with
      pend0 := (d.stl.pend0.filter ks.contains) ++ d.stl.pend0.filter fun k => !ks.contains k } }

def Dev.hurryPieces (d : Dev) (o : Obj) (ws : List (Nat × List Byte)) : Dev :=
  ws.foldl (fun d w => d.hurry o.clearing.toNat o.region.toNat (o.base + w.1) w.2.length) d

/-! ## Reading and writing windows for a command -/

def deniedHit : Hit := { status := .ownerDenied, detail := .none, addr := 0 }

/-- A command of clearing `n` reads ranges of the object of handle `h`: what it meets, or none where the
scheduled command `who` waits for the repair of a Commons object (R188, R202, R359).
Log entry 48 (DEDUCED). -/
def Dev.tryRead (d : Dev) (n : Nat) (who : Option (Nat × Word)) (h : Word) (o : Obj) (rs : List (Nat × Nat)) :
    Dev × Option Hit :=
  if !d.keyAllows o.clearing.toNat n false then (d, some deniedHit)
  else
    let x := d.checkRanges o rs
    match who, d.phys o.clearing.toNat o.region.toNat x.2.addr with
    | some w, some pa =>
      if x.2.status = .uncorrectable && o.owner == 0 then
        (x.1.holdRepair (pa / 64) (w.1, w.2, hitInfo h o x.2), none)
      else (x.1.tick, some x.2)
    | _, _ => (x.1.tick, some x.2)

/-- The command that a repair holds: a scheduled one. -/
def Cmd.holder (c : Cmd) (q : Nat) : Option (Nat × Word) := if c.unscheduled then none else some (q, c.seq)

/-- A command of clearing `n` writes pieces of an object: what it meets, or none where the write waits for
a save stage (R328). -/
def Dev.tryWrite (d : Dev) (n : Nat) (o : Obj) (ws : List (Nat × List Byte)) : Dev × Option Hit :=
  if !d.keyAllows o.clearing.toNat n true then (d, some deniedHit)
  else if d.piecesWait o ws then (d.hurryPieces o ws, none)
  else
    let x := d.writePieces o ws
    (x.1, some x.2)

end Sys2Proof.Machine
end

