-- ==== Sys2Proof/Machine/Debug.lean ====
section
/-! DEFINITION. The commands of the life cycle, the debug reopening and the test access port (chapter 16, R401,
R402). -/

namespace Sys2Proof.Machine
open Sys2Proof

/-! ## LCS_ADVANCE (R367, R368, R376) -/

/-- The state that a FROM or TARGET code names. -/
def lcCode (n : Nat) : Option Lc :=
  if n = 0 then some .maker else if n = 1 then some .integrator else if n = 2 then some .fielded
  else if n = 3 then some .returned else if n = 4 then some .scrapped else none

/-- The transitions that LCS_ADVANCE may make. Log entry 86 (DEDUCED). -/
def lcMoves (a b : Lc) : Bool :=
  match a, b with
  | .maker, .integrator => true
  | .integrator, .fielded => true
  | .scrapped, _ => false
  | _, .scrapped => true
  | _, _ => false

/-- An FW_COMMIT burns its words. -/
def Dev.commitBurns (d : Dev) : Bool := d.sec.fw.commits.any (!·.2)

/-- Log entry 86 (DEDUCED). -/
def Dev.lcsAnswer (d : Dev) (r : BitVec 4) : Dev := { d with lcs := { d.lcs with result := r } }

/-- LCS_ADVANCE as written. Log entry 86 (DEDUCED). -/
def doLcsAdvance (v : Word) (d : Dev) : Dev :=
  if !v.getLsbD 31 then d
  else if d.lcs.burning || d.lcs.waiting.isSome then d.lcsAnswer 3
  else if (v.extractLsb' 0 3).toNat ≠ d.lcs.st.code then d.lcsAnswer 1
  else match lcCode (v.extractLsb' 4 3).toNat with
    | none => d.lcsAnswer 2
    | some t =>
      if !lcMoves d.lcs.st t || (t != .scrapped && (d.lcs.freeRec t).isNone) then d.lcsAnswer 2
      else
        let d := d.lcsAnswer 0
        if d.commitBurns then { d with lcs := { d.lcs with waiting := some t } } else d.advance t

def execLcsAdvance (v : Word) (s : State) : Out := act s (doLcsAdvance v)

/-- LCS_BURN_DONE: every word of the sequence is burnt, and the device takes a cold reset (cause 0x07). -/
def doLcsBurnDone (d : Dev) : Dev :=
  if d.lcs.burning then
    let d : Dev := { d with lcs := { d.lcs.burnAll d.lcs.st d.lcs.progRec.toNat with burning := false } }
    d.coldReset 0x07
  else d

def execLcsBurnDone (s : State) : Out := act s doLcsBurnDone

/-! ## Reopening debug (R373–R375) -/

def Dev.dbgAnswer (d : Dev) (r : BitVec 4) : Dev := { d with dbg := { d.dbg with result := r } }

/-- DBG_STATUS.BUSY: an accepted OPEN has not opened its scope yet. Log entry 87 (DEDUCED). -/
def Dev.dbgBusy (d : Dev) : Bool := d.dbg.opening.isSome

/-- The challenge's bytes (R373): 128, and the IDS signature. -/
def Dev.challengeBytes (d : Dev) (scope : Byte) (nonce : B256) : List Byte :=
  let bs := ascii "VXDC" ++ leBytes 2 1 ++ [d.orderingCode, BitVec.ofNat 8 d.lcs.st.code] ++
    leBytes 4 d.addr.toNat ++ [scope, 0, 0, 0] ++ strBytes nonce 32 ++ strBytes d.identity 32 ++
    [d.fwSvn, 0, 0, 0] ++ leBytes 8 d.dbg.bootId.toNat ++ zeros 36
  let sig := d.sign bs
  bs ++ strBytes sig.1 32 ++ strBytes sig.2 32

/-- DBG_CMD CHALLENGE: a new challenge replaces the old one. A Scrapped device has no identity to sign with
(R211, R369). Log entry 87 (DEDUCED). -/
def doDbgChallenge (scope : Byte) (d : Dev) : Dev :=
  if d.dbgBusy || d.lcs.st == .scrapped then d
  else
    ({ d with dbg :=
      { d.dbg with
        chal := some
          { scope := scope, nonce := d.random, issued := d.timeUs, bytes := d.challengeBytes scope d.random },
        result := 0 } } : Dev).tick

def execDbgChallenge (scope : Byte) (s : State) : Out := act s (doDbgChallenge scope)

/-- The challenge while it is valid: 600 s from its issue. Log entry 87 (DEDUCED). -/
def Dev.challenge (d : Dev) : Option Challenge :=
  d.dbg.chal.filter fun c => decide (d.timeUs < c.issued + 600000000)

/-- The first check of R374 that a response fails; `shape` is what OPEN or RETURN asks of SCOPE_GRANT.
Log entry 97 (DESIGN CHOICE). -/
def Dev.respFails (d : Dev) (r : DbgResp) (shape : Bool) : Option (BitVec 4) :=
  if d.lcs.st ≠ .fielded then some 6
  else if !r.wellLaid || !shape then some 1
  else match d.challenge with
    | none => some 2
    | some c =>
      if r.nonce ≠ c.nonce || r.identity ≠ d.identity || r.bootId ≠ d.dbg.bootId then some 3
      else if !r.keyOk || !r.sigOk then some 4
      else if r.scope &&& ~~~c.scope ≠ 0 then some 5
      else if d.dbg.opened || d.lcs.returnPending then some 7
      else none

/-- An accepted OPEN: no key stays, every clearing halts, admitted links go DOWN, and the device is out of
service (R375). Log entry 87 (DEDUCED). -/
def Dev.reopen (d : Dev) (scope : Byte) : Dev :=
  let d : Dev := { d with
    dbg := { d.dbg with chal := none, result := 0, opening := some scope },
    sec := { d.sec with debugOpened := true } }
  let d := (d.destroyAll.haltAll .aborted .clearingHalted).loseCopies
  let d := ((List.range 64).filter d.linkUsable).foldl Dev.linkFails d
  (d.logEvent 0x08 0xFF 0xFFFF 0 0).raise .flt 3

/-- DBG_CMD OPEN. Log entry 87 (DEDUCED). -/
def doDbgOpen (r : DbgResp) (d : Dev) : Dev :=
  if d.dbgBusy then d
  else match d.respFails r ((r.scope &&& 0xE0) == 0 && r.scope != 0) with
    | some e => d.dbgAnswer e
    | none => d.reopen r.scope

def execDbgOpen (r : DbgResp) (s : State) : Out := act s (doDbgOpen r)

/-- DEBUG_SCOPE_OPEN: at the end of the abort interval no command of the time before is left.
Log entry 87 (DEDUCED). -/
def doDebugScopeOpen (d : Dev) : Dev :=
  match d.dbg.opening with
  | some sc =>
    if d.tiles.any fun t => t.2.prog.isSome then d
    else { d with dbg := { d.dbg with opening := none, opened := true, scope := sc } }
  | none => d

def execDebugScopeOpen (s : State) : Out := act s doDebugScopeOpen

/-- DBG_CMD RETURN (R370): the return waits for the next cold reset. Without a free transition record below
T7 the request is refused with LIFECYCLE. Log entry 86 (DEDUCED). -/
def doDbgReturn (r : DbgResp) (d : Dev) : Dev :=
  if d.dbgBusy then d
  else match d.respFails r (r.scope == 0x80) with
    | some e => d.dbgAnswer e
    | none =>
      if (d.lcs.freeRec .returned).isNone then d.dbgAnswer 6
      else
        { d with
          dbg := { d.dbg with chal := none, result := 0 }, lcs := { d.lcs with returnPending := true } }

def execDbgReturn (r : DbgResp) (s : State) : Out := act s (doDbgReturn r)

/-- CHALLENGE_EXPIRY. Log entry 87 (DEDUCED). -/
def execChallengeExpiry (s : State) : Out := act s fun d => { d with dbg := { d.dbg with chal := none } }

/-! ## The TAP (R372, R402) -/

/-- The TAP selects an instruction, or the bypass register where it is not permitted. The reserve of R402:
EXTEST, CLAMP and HIGHZ only while no plan is active. Log entry 43 (DEDUCED). -/
def Dev.tapSelect (d : Dev) (code : Byte) (f : Dev → Dev) : Dev :=
  let ball := [0x03, 0x04, 0x05].contains code.toNat
  let ok := d.tapAllowed code && !(ball && d.planActive)
  let c : Byte := if ok then code else 0xFF
  let d := ({ d with dbg := { d.dbg with tapIr := c } } : Dev).emit (.tap c)
  if ok then f d else d

def execBypass (s : State) : Out := act s fun d => d.tapSelect 0xFF id

/-- IDCODE: stepping 0, part 0x2516, the JEP106 code and 1. -/
def idCode : BitVec 32 := BitVec.ofNat 32 (0x2516 * 2 ^ 12 + Config.jep106.toNat * 2 + 1)

def execIdcode (s : State) : Out := act s fun d => d.tapSelect 0x01 fun d => d.emit (.tapData idCode)

/-- The signal balls of the boundary-scan register (R402): 33 of R398, TIDE_IN, REFCLK_SYS and TIDE_OUT.
Log entry 88 (DESIGN CHOICE). -/
def bsrCells : Nat := 36

/-- SAMPLE/PRELOAD: the cells take the given bits, or a sample of their balls, which is a free value.
Log entries 43 (DEDUCED), 88 (DESIGN CHOICE). -/
def doSamplePreload (preload : Option (List Bool)) (d : Dev) : Dev :=
  d.tapSelect 0x02 fun d =>
    let bits := match preload with
      | some bs => (bs ++ List.replicate bsrCells false).take bsrCells
      | none => (List.range bsrCells).map fun i => (Config.free64 d.free i).getLsbD 0
    ({ d with dbg := { d.dbg with bsr := bits } } : Dev).tick

def execSamplePreload (preload : Option (List Bool)) (s : State) : Out := act s (doSamplePreload preload)

/-- Log entry 43 (DEDUCED). -/
def execExtest (s : State) : Out := act s fun d => d.tapSelect 0x03 id

/-- Log entry 43 (DEDUCED). -/
def execClamp (s : State) : Out := act s fun d => d.tapSelect 0x04 id

/-- Log entry 43 (DEDUCED). -/
def execHighz (s : State) : Out := act s fun d => d.tapSelect 0x05 id

def execTrace (s : State) : Out := act s fun d => d.tapSelect 0x10 id

/-- CTRL: the command processors halt or run on; halted, they fetch, decode and start nothing.
Log entry 88 (DESIGN CHOICE). -/
def execCtrl (halt : Bool) (s : State) : Out :=
  act s fun d => d.tapSelect 0x11 fun d => { d with dbg := { d.dbg with cpHalted := halt } }

/-- Every clearing of the plan is halted. Log entry 88 (DESIGN CHOICE). -/
def Dev.allHalted (d : Dev) : Bool :=
  d.clearings.all fun n => [ClrSt.halted, .fenced, .contained].contains (d.clr n).st

/-- BIST overwrites HBM: its contents are free values, and nothing of it is poisoned or cached.
Log entry 88 (DESIGN CHOICE). -/
def doBist (d : Dev) : Dev :=
  d.tapSelect 0x12 fun d =>
    if d.allHalted then ({ d with mem := { d.mem with hbm := [], meta_ := [], cache := [], flaws := [] } } : Dev).tick else d

def execBist (s : State) : Out := act s doBist

def execLinkLoop (s : State) : Out := act s fun d => d.tapSelect 0x13 id

/-- MEMREAD (R363): one 64-byte line of an object of a clearing under a BENCH plan, or the status of a line
that fails verification. `st` is what the line's verification finds; POISON stays as it was.
Log entry 88 (DESIGN CHOICE). -/
def doMemread (h : Word) (off : Nat) (st : Status) (d : Dev) : Dev :=
  d.tapSelect 0x20 fun d =>
    let o := d.obj (objIndex h)
    let at_ := off / 64 * 64
    if !d.benchActive || o.st == .free || o.gen != objGen h || !o.holds at_ 64 then d
    else if (d.keySlot o.clearing.toNat 1).isNone then d.emit (.tapLine .ownerDenied [])
    else
      let found := worse st (d.checkObj o at_ 64).2.status
      if found = .ok then (d.emit (.tapLine .ok (d.readObj o at_ 64))).tick else d.emit (.tapLine found [])

def execMemread (handle : Word) (off : BitVec 48) (st : Status) (s : State) : Out :=
  act s (doMemread handle off.toNat st)

/-- NGS_SCAN: the Ngatasel scan, which R363 keeps from every secret cell. -/
def execNgsScan (s : State) : Out := act s fun d => d.tapSelect 0x30 id

/-! ## The trace trigger's ball (R401) -/

/-- GPIO_TIDE_AUX is a TRACE entry's input. -/
def Dev.traceIn (d : Dev) : Bool :=
  match d.plan.active with
  | some p => match p.claims.find? fun c => c.cls == 1 && c.first.toNat == 0, p.trace with
    | some c, some es => c.section_ == 13 && es[c.entry.toNat]? == some false
    | _, _ => false
  | none => false

/-- TRACE_TRIGGER_EDGE: a rising edge held 20 ns fires the trigger. -/
def doTraceTriggerEdge (heldNs : Nat) (d : Dev) : Dev :=
  if d.traceIn && !d.tide.auxHiZ && 20 ≤ heldNs then
    { d with dbg := { d.dbg with traceFired := d.dbg.traceFired + 1 } }
  else d

def execTraceTriggerEdge (heldNs : Nat) (s : State) : Out := act s (doTraceTriggerEdge heldNs)

end Sys2Proof.Machine
end

