-- ==== Sys2Proof/Machine/Wire.lean ====
section
/-! DEFINITION. The bytes that travel on the links and their seals: tide records (R29, R31), flits (R247, R248), HELLO
(R257), and the envelopes of R223 and R285. -/

namespace Sys2Proof.Machine
open Sys2Proof

/-! ## Session keys (R247, R250) -/

/-- The sending key, and the receiving key, of the epoch that a sequence number lies in. -/
def Link.txKey (k : Link) (seq : BitVec 48) : BitVec 128 := ((k.keys[seq.toNat / 2 ^ 32]?).getD (0, 0)).1
def Link.rxKey (k : Link) (seq : BitVec 48) : BitVec 128 := ((k.keys[seq.toNat / 2 ^ 32]?).getD (0, 0)).2

/-- The IV of a flit: SEQ most significant byte first, the sender's link index, five zeros (R248). Log entry 112
(DEDUCED). -/
def flitIv (seq : BitVec 48) (link : Nat) : List Byte := beBytes 6 seq.toNat ++ [BitVec.ofNat 8 link] ++ zeros 5

/-! ## Tide records (R29, R31) -/

/-- Bytes 0–23 of a mark record. -/
def MarkRec.bytes (r : MarkRec) : List Byte :=
  leBytes 8 r.count.toNat ++ leBytes 6 r.shift.toNat ++ [r.pending, BitVec.ofNat 8 (b2n r.holdover + 2 * b2n r.failover)] ++
    leBytes 2 r.epoch.toNat ++ leBytes 3 r.source.toNat ++ [r.hop, 0, 0]

/-- Bytes 0–15 of a return record. -/
def RetRec.bytes (r : RetRec) : List Byte :=
  leBytes 4 r.countLow.toNat ++ [r.setback, BitVec.ofNat 8 (b2n r.late + 2 * b2n r.failed)] ++
    leBytes 2 r.lateCount.toNat ++ leBytes 3 r.reqAddr.toNat ++ [r.reason.setWidth 8] ++
    leBytes 3 r.failedAddr.toNat ++ [0]

/-- The tag of a record under a session key: the first 8 bytes of the SM4-GCM tag over its bytes. Log entry 111
(DESIGN CHOICE). -/
def recordTag (key : BitVec 128) (bytes : List Byte) : List Byte := (gcmTag key (Config.recordIv bytes) bytes []).take 8

/-- The 32 bytes that a record fills in a TIDE flit; a return record ends in zeros (R247). -/
def TideRec.bytes (key : BitVec 128) : TideRec → List Byte
  | .mark r => MarkRec.bytes r ++ recordTag key (MarkRec.bytes r)
  | .ret r => RetRec.bytes r ++ recordTag key (RetRec.bytes r) ++ zeros 8

/-- A received record verifies under the key of its link. -/
def Dev.recordOpens (d : Dev) (l : Nat) (bytes : List Byte) (tag : DWord) : Bool :=
  leBytes 8 tag.toNat == recordTag ((d.link l).rxKey (d.link l).rxSeq) bytes

/-! ## CTRL flits (R257, R263) -/

/-- CTRL_OP, and the payload. Log entry 110 (DESIGN CHOICE). -/
def CtrlMsg.wire : CtrlMsg → Nat × List Byte
  | .hello p => (1, p)
  | .keyx m => (2, m)
  | .nak seq => (3, Config.ctrlPayload 3 [seq.toNat])
  | .roleUpdate es => (4, Config.ctrlPayload 4 (es.flatMap fun e => [e.kind.toNat, e.unit.toNat, e.gen.toNat]))
  | .staleRole s k u g c => (5, Config.ctrlPayload 5 [s.toNat, k.toNat, u.toNat, g.toNat, c.toNat])
  | .flowDenied s => (6, Config.ctrlPayload 6 [s.toNat])
  | .credit v ss => (7, Config.ctrlPayload 7 (v ++ ss.map (·.toNat)))
  | .ack seq => (8, Config.ctrlPayload 8 [seq.toNat])

/-- HELLO payload bytes 0–79. -/
def helloFields (addr : BitVec 20) (link : Nat) (identity : B256) (setId : Word) (epoch : BitVec 16)
    (bench planActive shaded : Bool) (topo : B256) : List Byte :=
  ascii "VXHL" ++ leBytes 3 addr.toNat ++ [BitVec.ofNat 8 link] ++ strBytes identity 32 ++ leBytes 4 setId.toNat ++
    leBytes 2 epoch.toNat ++ [BitVec.ofNat 8 (b2n bench + 2 * b2n planActive + 4 * b2n shaded), 0] ++ strBytes topo 32

/-- SET_PROOF under a slot 0x02 key (R257). -/
def setProof (key : B256) (fields : List Byte) (transcript : B256) : List Byte :=
  (strBytes (hmac (strBytes key 32) (fields ++ strBytes transcript 32)) 32).take 16

/-! ## Flits (R247) -/

/-- The codes of R124 for a chunk's format: an accumulator word's 16 bytes, S32's 4, B16's 2. -/
def elemBytes (fmt : Nat) (w : AW) : List Byte := leBytes (if fmt = 8 then 4 else if fmt = 6 then 2 else 16) w.toNat

/-- KIND, the 12 bytes of DESC, and the payload. -/
def TxBody.wire (key : BitVec 128) : TxBody → Nat × List Byte × List Byte
  | .data h off bs => (1, leBytes 4 h.toNat ++ leBytes 6 off ++ [BitVec.ofNat 8 bs.length, 0], bs)
  | .coll slot chunk elem fmt es =>
    (2, leBytes 2 slot.toNat ++ leBytes 4 chunk ++ leBytes 2 elem ++ [BitVec.ofNat 8 es.length, fmt, 0, 0],
      es.flatMap (elemBytes fmt.toNat))
  | .strand c part fill off bs =>
    (3, [c, BitVec.ofNat 8 (part.toNat + 8 * b2n fill), 0, 0] ++ leBytes 6 off ++ [BitVec.ofNat 8 bs.length, 0], bs)
  | .tide rs => (4, zeros 12, rs.flatMap (TideRec.bytes key))
  | .ctrl m => (5, [BitVec.ofNat 8 m.wire.1] ++ zeros 11, m.wire.2)
  | .cover => (6, zeros 12, [])

/-- Bytes 0–247 of a flit in clear. -/
def flitPlain (body : Nat × List Byte × List Byte) (vc dst kind gen ack owner src stream : Nat) : List Byte :=
  [BitVec.ofNat 8 (body.1 + 16 * vc), BitVec.ofNat 8 (dst + 16 * kind)] ++ leBytes 2 gen ++ leBytes 4 ack ++
    [BitVec.ofNat 8 owner, BitVec.ofNat 8 src] ++ leBytes 2 stream ++ body.2.1 ++ (body.2.2 ++ zeros 224).take 224

/-- The 256 bytes of a flit: ciphertext, and the first 8 bytes of the tag. -/
def flitWire (key : BitVec 128) (iv plain : List Byte) : List Byte :=
  (gcmCrypt key iv plain) ++ (gcmTag key iv [] (gcmCrypt key iv plain)).take 8

/-- The flit that a link sends under the next SEQ: its clear bytes. -/
def Link.plainOf (k : Link) (f : TxFlit) (ack : Word) (gen : BitVec 12) : List Byte :=
  flitPlain (f.body.wire (k.txKey k.txSeq)) f.vc (match f.dst with | some n => n.toNat | none => 0)
    (if f.dst.isSome then 0 else 3) gen.toNat ack.toNat f.owner.toNat (f.clearing % 16) f.stream.toNat

/-- A received flit verifies: its fields and its KIND, DESC and payload, sealed under the key and the next SEQ of
its direction, have the tag that came. -/
def Dev.wireOpens (d : Dev) (l : Nat) (h : FlitHdr) (body : Nat × List Byte × List Byte) : Bool :=
  let k := d.link l
  let key := k.rxKey h.seq
  let iv := flitIv h.seq k.farLink.toNat
  let plain := flitPlain body h.vc.toNat h.dst.toNat h.dstKind.toNat h.dstGen.toNat h.ackSeq.toNat
    h.srcOwner.toNat h.src.toNat h.stream.toNat
  gcmOpens key iv [] (gcmCrypt key iv plain) (leBytes 8 h.tag.toNat)

/-- A received flit verifies that carries `b`. -/
def Dev.flitOpens (d : Dev) (l : Nat) (h : FlitHdr) (b : TxBody) : Bool :=
  d.wireOpens l h (b.wire ((d.link l).rxKey h.seq))

/-- A flit of a reserved KIND, 0x0 or 0x7–0xF: the KIND, and its bytes 12–247 (R247). -/
def reservedWire (r : Fin 10 × List Byte) : Nat × List Byte × List Byte :=
  (if r.1.val = 0 then 0 else r.1.val + 6, (r.2 ++ zeros 12).take 12, r.2.drop 12)

/-! ## Envelopes (R223, R285) -/

/-- The egress envelope: a one-time key from the TRNG, wrapped under the W slot, and the payload sealed under it. -/
def envelopeBytes (kind owner gen addr : Nat) (wrapKey oneTime : BitVec 128) (wrapIv payloadIv payload : List Byte) :
    List Byte :=
  let head := ascii "VXEG" ++ [BitVec.ofNat 8 owner, BitVec.ofNat 8 kind] ++ leBytes 2 gen ++ leBytes 4 addr
  let front := head ++ wrapIv ++ gcmSeal wrapKey wrapIv head (blockBytes oneTime) ++ payloadIv ++ leBytes 8 payload.length
  front ++ gcmSeal oneTime payloadIv front payload

/-- The key of an ingress payload: from the lowest K slot of the owner, and envelope bytes 0–23. -/
def ingressKey (k : B256) (env : List Byte) : BitVec 128 :=
  firstHalf (Config.kdf k (ascii "VX-INGR" ++ env.take 24))

/-- An ingress envelope read into its fields, its payload opened under a key. -/
def readEnvelope (key : BitVec 128) (env : List Byte) : Envelope :=
  { magic := BitVec.ofNat 32 (leVal (env.take 4)), owner := env.getD 4 0, kind := env.getD 5 0,
    gen := BitVec.ofNat 16 (leVal ((env.drop 6).take 2)), addr := BitVec.ofNat 32 (leVal ((env.drop 8).take 4)),
    wrapZero := ((env.drop 12).take 44).all (· == 0),
    payload := gcmCrypt key ((env.drop 56).take 12) ((env.drop 76).take (leVal ((env.drop 68).take 8))) }

/-- The tag that follows the payload fits; bytes 0–75 are its additional data. -/
def envelopeOpens (key : BitVec 128) (env : List Byte) : Bool :=
  let n := leVal ((env.drop 68).take 8)
  let tag := (env.drop (76 + n)).take 16
  tag.length == 16 && gcmOpens key ((env.drop 56).take 12) (env.take 76) ((env.drop 76).take n) tag

end Sys2Proof.Machine
end

