-- ==== Sys2Proof/Machine/Strand.lean ====
section
/-! DEFINITION. The strandline (chapter 14): what a save sends and receives, its end, the loss log, deep
strandlines, and recovery. -/

namespace Sys2Proof.Machine
open Sys2Proof

/-! ## Chunks (R323, R325) -/

def Dev.strand (d : Dev) : Option PlanStrand := d.plan.active.bind (·.strandline)

/-- The frame, region and region address of chunk 2^40·n + c: the inverse of `chunkKey`. -/
def chunkPlace (p : StandPlan) (key : Nat) : Option (Nat × Nat × Nat) :=
  match p.strandline with
  | none => none
  | some s => go (s.saves.filter fun e => e.clearing.toNat == key / 2 ^ 40) (key % 2 ^ 40)
where
  go : List PlanSave → Nat → Option (Nat × Nat × Nat)
    | [], _ => none
    | e :: es, c =>
      if c < e.chunks.toNat then some (key / 2 ^ 40, e.region.toNat, e.first.toNat + 4096 * c)
      else go es (c - e.chunks.toNat)

/-- The bytes of a chunk, where it reads without error; a chunk that does not waits for its repair
(R345). -/
def Dev.readChunk (d : Dev) (key : Nat) : Dev × Option (List Byte) :=
  match d.plan.active.bind fun p => chunkPlace p key with
  | none => (d, none)
  | some x =>
    let y := d.checkRange x.1 x.2.1 x.2.2 4096
    if y.2.status = .ok then (y.1.tick, some (y.1.readRange x.1 x.2.1 x.2.2 4096)) else (y.1, none)

/-- The ciphertext of a chunk at an index, and its 8-byte tag (R325). -/
def Dev.sealChunk (d : Dev) (key : Nat) (index : Word) (bs : List Byte) : List Byte × List Byte :=
  let k := d.strandKey (key / 2 ^ 40)
  let iv := strandIv index (key % 2 ^ 40)
  (sealed k iv [] bs 0 4096, sealed k iv [] bs 4096 8)

/-! ## Sending (R329) -/

/-- A STRAND flit: DST_KIND is 3, for the reserve belongs to no clearing. -/
def Dev.strandTx (d : Dev) (clearing : Nat) (part : BitVec 3) (off : Nat) (bs : List Byte) : TxFlit :=
  { vc := 2, clearing := if clearing < 16 then clearing else 16,
    owner := if clearing < 16 then d.ownerOf clearing else 0, dst := none, stream := 0, queue := 0,
    cmdSeq := 0, body := .strand (BitVec.ofNat 8 clearing) part false off bs }

/-- The flits of a string of bytes from an offset on, 224 bytes each. -/
def Dev.strandFlits (d : Dev) (clearing : Nat) (part : BitVec 3) (off : Nat) (bs : List Byte) : List TxFlit :=
  (List.range ((bs.length + 223) / 224)).map fun i =>
    d.strandTx clearing part (off + 224 * i) ((bs.drop (224 * i)).take 224)

/-- What a running save, or the shadow activity, has still to send. Log entry 39 (DESIGN CHOICE). -/
inductive SendSet where | stageA | stageB | shadow
deriving DecidableEq, Repr

def Stl.pend (s : Stl) : SendSet → List Nat
  | .stageA => s.pend0 | .stageB => s.pend1 | .shadow => s.pendS
def Stl.ent (s : Stl) : SendSet → List (Nat × List Byte)
  | .stageA => s.ent0 | .stageB => s.ent1 | .shadow => s.entS
def Stl.putPend (s : Stl) (w : SendSet) (l : List Nat) : Stl :=
  match w with
  | .stageA => { s with pend0 := l } | .stageB => { s with pend1 := l } | .shadow => { s with pendS := l }
def Stl.putEnt (s : Stl) (w : SendSet) (l : List (Nat × List Byte)) : Stl :=
  match w with
  | .stageA => { s with ent0 := l } | .stageB => { s with ent1 := l } | .shadow => { s with entS := l }

def SendSet.addr (w : SendSet) (s : PlanStrand) : BitVec 20 :=
  match w with
  | .stageA => s.buddy0 | .stageB => s.buddy1 | .shadow => s.shadowAddr

/-- The set whose sends run now toward a device. Log entry 39 (DESIGN CHOICE). -/
def Dev.sendSet (d : Dev) (addr : BitVec 20) : Option SendSet :=
  match d.strand with
  | none => none
  | some s =>
    if d.stl.st = .stageA && s.buddy0 == addr then some .stageA
    else if d.stl.st = .stageB && s.buddy1 == addr then some .stageB
    else if d.stl.shadowEnd.isSome && s.shadowAddr == addr then some .shadow
    else none

/-- Read the next chunk of a set, or take its next chunk entry, and put its flits on the link.
Log entries 39 (DESIGN CHOICE), 75 (DEDUCED). -/
def Dev.pullSet (d : Dev) (l : Nat) (w : SendSet) : Dev :=
  let send (d : Dev) (fs : List TxFlit) : Dev := d.modLink l fun k => { k with txq := k.txq ++ fs }
  match d.stl.pend w with
  | c :: cs =>
    match d.readChunk c with
    | (d, none) => { d with stl := d.stl.putPend w (cs ++ [c]) }
    | (d, some bs) =>
      let x := d.sealChunk c d.stl.index bs
      let e := (c, x.2 ++ leBytes 4 d.stl.index.toNat)
      let d : Dev := { d with stl := (d.stl.putPend w cs).putEnt w (d.stl.ent w ++ [e]) }
      send d (d.strandFlits (c / 2 ^ 40) 0 (4096 * (c % 2 ^ 40)) x.1)
  | [] =>
    match d.stl.ent w with
    | e :: es =>
      let d : Dev := { d with stl := d.stl.putEnt w es }
      send d (d.strandFlits (e.1 / 2 ^ 40) 1 (12 * (e.1 % 2 ^ 40)) e.2)
    | [] => d

/-- A STRAND slot of a link with nothing queued takes what the running save has to send. A failed device
sends no strandline (R352). Log entry 39 (DESIGN CHOICE). -/
def Dev.pullStrand (d : Dev) (l : Nat) : Dev :=
  if d.failed || (d.link l).txq.any (·.vc == 2) then d
  else match d.sendSet (d.link l).farAddr with
    | some w => d.pullSet l w
    | none => d

/-- A STRAND flit of a save, not of a fill or of the loss log. -/
def TxFlit.isSave (f : TxFlit) : Bool :=
  match f.body with
  | .strand _ part fill _ _ => part != 3 && !fill
  | _ => false

/-- No save flit toward the device is unsent or unacknowledged. -/
def Dev.strandAcked (d : Dev) (addr : BitVec 20) : Bool :=
  d.lnk.links.all fun p => p.2.farAddr != addr ||
    (p.2.txq.all (fun f => !f.isSave) && p.2.replay.all fun f => !f.flit.isSave)

/-- Every chunk and entry of a set has been sent and acknowledged. -/
def Dev.setSent (d : Dev) (w : SendSet) (s : PlanStrand) : Bool :=
  (d.stl.pend w).isEmpty && (d.stl.ent w).isEmpty && d.strandAcked (w.addr s)

/-- The manifests go to a device, striped over the links that reach it. -/
def Dev.sendManifests (d : Dev) (addr : BitVec 20) : Dev :=
  let fs := d.stl.manifests.flatMap fun m =>
    d.strandFlits m.clearing.toNat 2 0 (d.manifestBytes d.stl.index m)
  d.stripe (d.linksTo addr) fs

/-- The set of the stage that runs. Log entry 39 (DESIGN CHOICE). -/
def Dev.stageSet (d : Dev) : Option SendSet :=
  if d.stl.st = .stageA then some .stageA else if d.stl.st = .stageB then some .stageB else none

/-- MANIFEST_SEND (R329): once a stage's chunks and entries are acknowledged, its manifests go out; so do the
shadow activity's. -/
def doManifestSend (d : Dev) : Dev :=
  match d.strand with
  | none => d
  | some s =>
    let stage := match d.stageSet with
      | some w => if !d.stl.manifestsSent && d.setSent w s && !(d.linksTo (w.addr s)).isEmpty
          then some w else none
      | none => none
    match stage with
    | some w =>
      let d : Dev := { d with stl := { d.stl with manifestsSent := true } }
      d.sendManifests (w.addr s)
    | none =>
      if d.stl.shadowEnd.isSome && d.setSent .shadow s && !(d.linksTo s.shadowAddr).isEmpty then
        let d : Dev := { d with stl := { d.stl with shadowEnd := none } }
        d.sendManifests s.shadowAddr
      else d

def execManifestSend (s : State) : Out := act s doManifestSend

/-! ## The end of a stage and of a save (R329, R332, R333) -/

/-- The stage's sends have ended: its manifests are acknowledged. -/
def Dev.sendsDone (d : Dev) (w : SendSet) (s : PlanStrand) : Bool :=
  d.stl.manifestsSent && d.setSent w s

/-- The commands that name an activity's instance and run complete OK. -/
def Dev.endMarks (d : Dev) (a : BitVec 16) (inst : Word) : Dev :=
  (d.cmds.filter fun x => x.2.opcode == 10 && x.2.ph == .running && x.2.actId == a && x.2.inst == inst).foldl
    (fun d x => d.completeCmd x.1 x.2 .ok .none 0 0) d

/-- The device's part of the running instances of an activity has ended. -/
def Dev.endRuns (d : Dev) (a : BitVec 16) : Dev :=
  (d.sched.runs.filter fun r => r.act == a && !r.done).foldl
    (fun d r => (d.modRun a r.inst fun r => { r with done := true }).endMarks a r.inst) d

def Dev.endStage (d : Dev) (k : Nat) : Dev :=
  match d.plan.active.bind fun p => (saveActs p)[k]? with
  | some a => d.endRuns a.actId
  | none => d

/-- A peer's copy has begun and is not COMPLETE. -/
def PeerCopy.begun (c : PeerCopy) : Bool := c.index != 0xFFFFFFFF && !c.complete

/-- A buddy has acknowledged a whole copy; stage A of two ends when its sends have ended and no copy that a
peer has begun is incomplete. Log entry 75 (DEDUCED). -/
def Dev.settleStage (d : Dev) : Dev :=
  match d.strand, d.stageSet with
  | some s, some w =>
    if d.sendsDone w s then
      let d : Dev := { d with stl := if w = .stageA then { d.stl with buddyIdx0 := d.stl.index }
        else { d.stl with buddyIdx1 := d.stl.index } }
      if w = .stageA && s.k != 1 && d.stl.peers.all (fun c => !c.2.begun) then d.endStage 0 else d
    else d
  | _, _ => d

/-- Every peer area but the shadow copies holds this index COMPLETE. -/
def Dev.receiptsDone (d : Dev) (s : PlanStrand) : Bool :=
  s.peers.zipIdx.all fun e => e.1.shadow ||
    (let c := Tab.get PeerCopy.reset d.stl.peers e.2
     c.complete && c.index == d.stl.index)

/-- The quotient by 8 of R332: the spec does not say how it rounds, so a free value does where it is not
exact. Log entry 76 (DESIGN CHOICE). -/
def Dev.eighth (d : Dev) (x : Int) : Int :=
  x / 8 + (if x % 8 = 0 then 0 else if d.freeVal.getLsbD 0 then 1 else 0)

/-- STL_TAU_REC (R332): round(√(2·(c/1000)·m) / step) between τ_min and nmax, computed exactly.
Log entry 76 (DESIGN CHOICE). -/
def tauRec (costMs mtbfS : Int) (length periodNs tauMin tauMax : Nat) : Nat :=
  let u := length * periodNs
  if u = 0 then 0
  else
    let n := (Nat.sqrt (8 * costMs.toNat * mtbfS.toNat * 10 ^ 15 / (u * u)) + 1) / 2
    let nmax := max 1 (tauMax * 10 ^ 9 / u)
    min (max n tauMin) nmax

/-- STL_TAU_REC follows C and M. Log entry 76 (DESIGN CHOICE). -/
def Dev.updateTau (d : Dev) : Dev :=
  match d.plan.active with
  | none => d
  | some p => match p.strandline with
    | none => d
    | some s => match p.templates.find? (·.templateId == s.template) with
      | none => d
      | some t => { d with stl := { d.stl with
          tauRec := BitVec.ofNat 32 (tauRec d.stl.costMs d.stl.mtbfS t.length.toNat p.tide.periodNs.toNat
            s.tauMinSteps.toNat s.tauMaxS.toNat) } }

/-- SAVE_DONE: the last stage's sends and receipts have ended.
Log entries 75 (DEDUCED), 76 (DESIGN CHOICE). -/
def doSaveDone (saveMs : Nat) (d : Dev) : Dev :=
  match d.strand, d.stageSet with
  | some s, some w =>
    let last := if s.k = 1 then SendSet.stageA else SendSet.stageB
    if w = last && d.sendsDone w s && d.receiptsDone s then
      let d := (d.settleStage).endStage (if s.k = 1 then 0 else 1)
      let c := d.stl.costMs + d.eighth (saveMs - d.stl.costMs)
      let d : Dev := { d with stl := { d.stl with st := .idle, costMs := c } }
      (d.tick.updateTau).raise .stl 0
    else d
  | _, _ => d

def execSaveDone (saveMs : Nat) (s : State) : Out := act s (doSaveDone saveMs)

/-! ## The loss log (R331, R342) -/

/-- The 16-byte loss word. -/
def Dev.lossWord (d : Dev) (s : PlanStrand) : AW :=
  BitVec.ofNat 128 (leVal (d.readRange s.lossClearing.toNat s.lossRegion.toNat s.lossRa.toNat 16))

/-- The loss activity's complete instances that the log does not hold; the first replayed one is compared before it is
logged (R342). Log entry 77 (DEDUCED). -/
def Dev.newLoss (d : Dev) (s : PlanStrand) : Option ActRun :=
  d.sched.runs.find? fun r => r.act == s.lossAct && d.runComplete r &&
    !(d.stl.lossLog.any (·.1 == r.inst)) && !(d.stl.st == .replay && r.inst == d.stl.lastInst + 1)

/-- A loss record goes to a buddy. Log entry 8 (DESIGN CHOICE). -/
def Dev.sendLoss (d : Dev) (inst : Word) (w : AW) (addr : BitVec 20) : Dev :=
  let x := Config.lossRecord inst w
  d.stripe (d.linksTo addr) (d.strandFlits 0xFF 3 x.1 x.2)

/-- LOSS_WORD_RECORD (R331): the log keeps its last 16 entries; a replayed instance that it holds stays for
LOSS_VERIFY. -/
def doLossWordRecord (d : Dev) : Dev :=
  match d.strand with
  | none => d
  | some s => match d.newLoss s with
    | none => d
    | some r =>
      let w := d.lossWord s
      let d : Dev := { d with stl := { d.stl with
        lossLog := ((r.inst, w) :: d.stl.lossLog).take 16 } }
      let d := d.tick.sendLoss r.inst w s.buddy0
      if s.k = 1 then d else d.sendLoss r.inst w s.buddy1

def execLossWordRecord (s : State) : Out := act s doLossWordRecord

/-- LOSS_VERIFY (R342, R343): the first replayed instance's loss word against the log.
Log entry 77 (DEDUCED). -/
def doLossVerify (inst : Word) (d : Dev) : Dev :=
  match d.strand with
  | none => d
  | some s =>
    let ended := match d.run s.lossAct inst with
      | some r => d.runComplete r
      | none => false
    if d.stl.st ≠ .replay || inst ≠ d.stl.lastInst + 1 || !ended then d
    else
      let w := d.lossWord s
      let d : Dev := { d.tick with stl := { d.stl with st := .idle } }
      match d.stl.lossLog.find? (·.1 == inst) with
      | none => ({ d with stl := { d.stl with verify := 3 } } : Dev).raise .stl 7
      | some e =>
        if e.2 = w then ({ d with stl := { d.stl with verify := 1 } } : Dev).raise .stl 5
        else ({ d with stl := { d.stl with verify := 2, stopAt := true } } : Dev).raise .stl 6

def execLossVerify (inst : Word) (s : State) : Out := act s (doLossVerify inst)

/-! ## STRANDLINE_MARK (R333–R335) -/

/-- A deep strandline without room: nothing is written, and its activity ends. Log entry 74 (DEDUCED). -/
def Dev.dropDeep (d : Dev) (a : BitVec 16) : Dev :=
  ({ d with stl := { d.stl with deep := false, deepMan := [] } } : Dev).endRuns a

/-- A started STRANDLINE_MARK. Log entry 74 (DEDUCED). -/
def Dev.runStrandMark (d : Dev) (p : StandPlan) (q : Nat) (c : Cmd) (a : PlanAct) : Dev :=
  let deep := (fld c.raw 16 1).testBit 0
  let ended := match d.run c.actId c.inst with
    | some r => r.done
    | none => true
  if (deep && a.kind ≠ 6) || (!deep && a.kind ≠ 3) then d.completeCmd q c .aborted .decode 0 0
  else if ended then d.completeCmd q c .ok .none 0 0
  else if deep && fld c.raw 32 8 < deepBytes p d.stl.deepMan then
    (d.completeCmd q c .aborted .decode 0 0).dropDeep a.actId
  else
    let d := d.modCmd q c.seq fun y => { y with ph := .running }
    if deep then { d with stl := { d.stl with deep := true } } else d

def doStrandlineMark (q : Nat) (seq : Word) (d : Dev) : Dev :=
  match d.cmd q seq, d.plan.active with
  | some c, some p =>
    if c.opcode = 10 && c.ph = .started then
      match d.activity c.actId with
      | some x => d.runStrandMark p q c x.2
      | none => d
    else d
  | _, _ => d

def execStrandlineMark (q : Que) (seq : Word) (s : State) : Out := act s (doStrandlineMark q.val seq)

/-- The deep record of a chunk (R334). -/
def Dev.deepRecord (d : Dev) (index : Word) (key : Nat) (bs : List Byte) : List Byte :=
  let x := d.sealChunk key index bs
  leBytes 1 (key / 2 ^ 40) ++ zeros 3 ++ leBytes 4 (key % 2 ^ 40) ++ x.2 ++ x.1

/-- The deep records of a list of chunks, while each reads without error. -/
def Dev.deepRecords (index : Word) : List Nat → Dev → Dev × Option (List Byte)
  | [], d => (d, some [])
  | k :: ks, d => match d.readChunk k with
    | (d, none) => (d, none)
    | (d, some bs) => match Dev.deepRecords index ks d with
      | (d', some rest) => (d', some (d.deepRecord index k bs ++ rest))
      | (d', none) => (d', none)

/-- DEEP_STRANDLINE_DONE: manifests and deep records have gone to the host buffer. -/
def doDeepStrandlineDone (q : Nat) (seq : Word) (d : Dev) : Dev :=
  match d.cmd q seq, d.plan.active with
  | some c, some p =>
    if c.opcode = 10 && c.ph = .running && (fld c.raw 16 1).testBit 0 && d.stl.deep then
      let ms := d.stl.deepMan.flatMap fun m => d.manifestBytes d.stl.index m
      match Dev.deepRecords d.stl.index (allChunks p) d with
      | (d, none) => d
      | (d, some rs) =>
        let d := d.emit (.deepWrite (BitVec.ofNat 64 (fld c.raw 24 8)) (ms ++ rs))
        ((d.dropDeep c.actId).raise .stl 2)
    else d
  | _, _ => d

def execDeepStrandlineDone (q : Que) (seq : Word) (s : State) : Out := act s (doDeepStrandlineDone q.val seq)

/-! ## Receiving a strandline (R325, R329, R330) -/

/-- The peer entry of a sender and its place; a flit of a shadow copy and one of a save both match. -/
def peerOf (s : PlanStrand) (addr : BitVec 20) : Option (PlanPeer × Nat) :=
  s.peers.zipIdx.find? fun e => e.1.addr == addr

/-- Bytes for the manifests and the loss log of a peer area (R325). -/
def manifestRoom : Nat := 64 * 2 ^ 20

/-- The flit's bytes land within the peer area. -/
def PlanPeer.holds (e : PlanPeer) (part off n : Nat) : Bool :=
  let size := 2 ^ 20 * e.sizeMib.toNat
  if part = 0 then off + n + manifestRoom ≤ size
  else if part = 1 then off + n + manifestRoom ≤ size
  else off + n ≤ manifestRoom

/-- The key of a byte of a peer's copy: its clearing, its PART and its offset. -/
def copyKey (clearing part off : Nat) : Nat := 2 ^ 48 * (clearing * 8 + part) + off

/-- A copy takes a flit: the first flit of a new save clears COMPLETE, and the last manifest sets it.
Log entry 75 (DEDUCED). -/
def PeerCopy.take (c : PeerCopy) (clearing part off : Nat) (bs : List Byte) (index : Word) (last : Bool) :
    PeerCopy :=
  let bytes := Tab.setRun 0 c.bytes (copyKey clearing part off) bs
  if part = 3 then { c with bytes := bytes }
  else
    { index := index, bytes := bytes,
      complete := (c.index == index && c.complete) || (last && part == 2) }

/-- A save or loss flit of a peer: stored in its area. A copy that a new save overwrites while it is
incomplete is lost (STL_EVENT.COPY_LOST). Log entry 75 (DEDUCED). -/
def Dev.storeStrand (d : Dev) (p : Nat) (clearing part off : Nat) (bs : List Byte) (index : Word)
    (last : Bool) : Dev :=
  let c := Tab.get PeerCopy.reset d.stl.peers p
  let lost := part != 3 && c.index != index && c.begun
  let d : Dev := { d with stl := { d.stl with
    peers := Tab.set PeerCopy.reset d.stl.peers p (c.take clearing part off bs index last) } }
  d.raiseIf lost .stl 8

/-- STRAND flits are accepted from the peers that the plan names into their areas, and, of a fill, from the
buddies while a restore runs (R263, R325). -/
def Dev.strandAllowed (d : Dev) (addr : BitVec 20) (part : Nat) (fill : Bool) (off n : Nat) : Bool :=
  match d.strand with
  | none => false
  | some s =>
    if fill then
      (s.buddy0 == addr || (s.k != 1 && s.buddy1 == addr)) && (d.stl.st == .rollback || d.stl.st == .fill || !d.mem.repairs.isEmpty)
    else match peerOf s addr with
      | some e => part ≤ 3 && 1 ≤ n && n ≤ 224 && PlanPeer.holds e.1 part off n
      | none => false

/-- Log entry 78 (DESIGN CHOICE). -/
def Dev.takeStrand (d : Dev) (addr : BitVec 20) (clearing part : Nat) (fill : Bool) (off : Nat)
    (bs : List Byte) (index : Word) (last : Bool) : Dev :=
  if fill then { d with stl := { d.stl with fillDone := d.stl.fillDone + BitVec.ofNat 64 bs.length } }
  else match d.strand.bind fun s => peerOf s addr with
    | some e => d.storeStrand e.2 clearing part off bs index last
    | none => d

/-- A contained reserve, or a failed device, takes no copy (R206, R352). -/
def Dev.keepsCopies (d : Dev) : Bool := !d.failed && !(d.frame 16).contained

/-- STRAND_FLIT. -/
def doStrandFlit (l : Nat) (h : FlitHdr) (tagOk : Bool) (clearing part : Nat) (fill : Bool) (off : Nat) (bs : List Byte)
    (index : Word) (last : Bool) (d : Dev) : Dev :=
  let addr := (d.link l).farAddr
  (d.receive l h tagOk (fun d => d.strandAllowed addr part fill off bs.length) fun d =>
    if d.keepsCopies then d.takeStrand addr clearing part fill off bs index last else d).settleStage

def execStrandFlit (l : Lnk) (h : FlitHdr) (clearing : Byte) (part : BitVec 3) (fill : Bool)
    (off : BitVec 48) (bytes : List Byte) (strandIndex : Word) (last : Bool) (s : State) : Out :=
  act s fun d => doStrandFlit l.val h (d.flitOpens l.val h (.strand clearing part fill off.toNat bytes)) clearing.toNat
    part.toNat fill off.toNat bytes strandIndex last d

/-! ## STL_CMD (R337, R338, R340, R347) -/

def Dev.stlResult (d : Dev) (res : BitVec 4) (op : BitVec 3) (clearing : Byte) : Dev :=
  { d with stl := { d.stl with result := res, op := op, resClr := clearing } }

/-- STL_CMD is discarded with BUSY while STATE is ROLLBACK, FILL or TAKEOVER. -/
def Dev.stlBusy (d : Dev) : Bool :=
  d.stl.st == .rollback || d.stl.st == .fill || d.stl.st == .takeover

def Dev.stlCmd (d : Dev) (op : BitVec 3) (f : Dev → Dev) : Dev := if d.stlBusy then d.stlResult 5 op 0 else f d

/-- A running save, shadow activity and deep strandline are given up. -/
def Dev.dropSaves (d : Dev) : Dev :=
  { d with stl := { d.stl with
      pend0 := [], pend1 := [], ent0 := [], ent1 := [], pendS := [], entS := [], shadowEnd := none,
      manifests := [], manifestsSent := false, deep := false, deepMan := [], stageDeadline := none,
      stopAt := false, restored := false, fillDone := 0 } }

/-- A restore begins: every clearing takes a recovery reset. Log entry 77 (DEDUCED). -/
def Dev.beginRestore (d : Dev) (st : StlSt) (op : BitVec 3) : Dev :=
  let d := d.clearings.foldl Dev.recoveryReset d
  let d := d.dropSaves
  { d with stl := { d.stl with st := st, op := op } }

/-- Log entry 77 (DEDUCED). -/
def doRollback (d : Dev) : Dev :=
  d.stlCmd 1 fun d => if d.strand.isSome then d.beginRestore .rollback 1 else d.stlResult 1 1 0xFF

def execRollback (s : State) : Out := act s doRollback

/-- Log entry 77 (DEDUCED). -/
def doTakeover (d : Dev) : Dev :=
  d.stlCmd 2 fun d => match d.strand with
    | some s =>
      if s.role = 1 then
        let d : Dev := { d with
          sec := { d.sec with takeover := some (d.stl.takeAddr.setWidth 20) },
          stl := { d.stl with st := .takeover } }
        d.newSalt.stlResult 0 2 0
      else d.stlResult 6 2 0
    | none => d.stlResult 6 2 0

def execTakeover (s : State) : Out := act s doTakeover

/-- RESUME (R340): Δ shifts every BASE so that the instance after the last completed one of TEMPLATE starts at
STL_RESUME_POS. Log entry 77 (DEDUCED). -/
def doResume (d : Dev) : Dev :=
  d.stlCmd 3 fun d => match d.plan.active with
    | none => d.stlResult 5 3 0
    | some p => match p.strandline with
      | none => d.stlResult 5 3 0
      | some s =>
        if !d.stl.restored then d.stlResult 5 3 0
        else
          let pos := (d.stl.resPosHi ++ d.stl.resPosLo).toNat
          let next := (d.stl.lastInst + 1).toNat
          let delta := match p.templates.find? (·.templateId == s.template) with
            | some t => pos - d.instBase t next
            | none => 0
          let d : Dev := { d with
            sched := { d.sched with delta := d.sched.delta + delta },
            stl := { d.stl with st := .replay, verify := 0, restored := false } }
          (d.reschedule p 0xFFFF pos).stlResult 0 3 0

def execResume (s : State) : Out := act s doResume

def doRestoreDeep (d : Dev) : Dev :=
  d.stlCmd 4 fun d => if d.strand.isSome then d.beginRestore .fill 4 else d.stlResult 1 4 0xFF

def execRestoreDeep (s : State) : Out := act s doRestoreDeep

/-! ## RESTORE_DONE (R339) -/

/-- The firmware restore path writes a byte of a clearing's save image, and clears poison (R204). -/
def Dev.restoreByte (d : Dev) (p : StandPlan) (n : Nat) (x : Nat × Byte) : Dev :=
  match (chunkPlace p (2 ^ 40 * n + x.1 / 4096)) with
  | none => d
  | some y => match d.phys y.1 y.2.1 (y.2.2 + x.1 % 4096), d.planRegion y.1 y.2.1 with
    | some pa, some rg =>
      let ra := y.2.2 + x.1 % 4096
      let u := ra / rg.unit * rg.unit
      (d.clearPoison y.1 y.2.1 rg u (pa - (ra - u))).putByte pa x.2
    | _, _ => d

/-- Each unit that the restore writes is sealed once. -/
def Dev.sealRestored (d : Dev) (p : StandPlan) (n : Nat) (bs : List (Nat × Byte)) : Dev :=
  let units := (bs.filterMap fun x => match chunkPlace p (2 ^ 40 * n + x.1 / 4096) with
    | some y => match d.planRegion y.1 y.2.1 with
      | some rg => some (y.2.1, (y.2.2 + x.1 % 4096) / rg.unit * rg.unit)
      | none => none
    | none => none).dedup
  units.foldl (fun d u => match d.planRegion n u.1, d.phys n u.1 u.2 with
    | some rg, some pa => (d.countWrite n u.1 rg u.2 (unitKey rg.unit pa)).1
    | _, _ => d) d

/-- The object table of a clearing is replaced: the manifest's objects return, every other is FREE under its
next generation. Log entry 77 (DEDUCED). -/
def Dev.restoreObjs (d : Dev) (n : Nat) (os : List (Nat × BitVec 12 × Nat × Nat × Nat × BitVec 16)) : Dev :=
  let d := d.freeObjs fun o => o.clearing.toNat == n
  os.foldl (fun (d : Dev) o =>
    let r := o.2.2.1
    let rg := d.planRegion n r
    d.modObj o.1 fun _ =>
      { st := .live, gen := o.2.1, clearing := BitVec.ofNat 4 n, region := BitVec.ofNat 11 r,
        owner := d.ownerOf n, mode := match rg with | some x => x.mode.setWidth 2 | none => 0,
        sector := match rg with | some x => x.sector != 0 | none => false,
        base := o.2.2.2.1, size := o.2.2.2.2.1, ctx := o.2.2.2.2.2, refs := 0, retire := [] }) d

def restoredTrap (f : List Nat) : NanEvent :=
  let a (i : Nat) : Nat := f.getD i 0
  { source := a 0, tile := a 1, queue := a 2, seq := BitVec.ofNat 32 (a 3), sweep := a 4, row := a 5,
    col := a 6, k := a 7, stopped := a 8 != 0 }

def restoredNum (x : RestoreImage) : Num :=
  let c (i : Nat) : Word := x.counters.getD i 0
  { status := c 0, replay := c 1, loss := c 2, convNan := c 3, nan := c 4, sat := c 5,
    trap := x.trap.map fun t => restoredTrap t.1,
    trapPos := match x.trap with | some t => t.2 | none => 0, release := false, events := [] }

/-- The failure of R339 that stops a clearing's restore: of its manifest, its keys, or a chunk's tag.
Log entry 77 (DEDUCED). -/
def Dev.restoreFail (d : Dev) (p : StandPlan) (x : RestoreImage) : Option (BitVec 4) :=
  let n := x.clearing.val
  let kcvOk := match d.keySlot n 3 with
    | some s => (d.slot s).kcv == x.genKcv
    | none => x.genKcv == 0
  match d.manifestFail p x.manifest n (d.ownerOf n).toNat with
  | some r => some r
  | none =>
    if !kcvOk || !d.pairLoaded n then some 2
    else if !x.copies.all fun c => c.opens (d.imageKey x) then some 4
    else none

/-- Steps 3 to 5 for one clearing. Log entry 77 (DEDUCED). -/
def Dev.restoreClr (d : Dev) (p : StandPlan) (x : RestoreImage) : Dev :=
  let n := x.clearing.val
  let bs := x.copies.flatMap fun c => c.bytes (d.imageKey x)
  let d := bs.foldl (fun (d : Dev) b => d.restoreByte p n b) d
  let d := d.sealRestored p n bs
  let d := (d.restoreObjs n x.objects).modNum n fun _ => restoredNum x
  let d := (d.host.queues.filter fun q => d.queueClr q.1 == some n).foldl (fun (d : Dev) q =>
    d.modQueue q.1 fun u => { u with st := .disabled, cmds := [] }) d
  x.queues.foldl (fun (d : Dev) q => d.modQueue q.1.val fun u =>
    { u with st := .disabled, seq := q.2, cmds := [] }) d

/-- A role's clearing takes the generation of the failed role's manifest plus 1 (R337). -/
def Dev.roleClr (d : Dev) (x : RestoreImage) : Dev :=
  let n := x.clearing.val
  let g := x.roleGen + 1
  let d := d.modClr n fun c => { c with roleGen := g }
  let d := d.announce [{ kind := 0, unit := BitVec.ofNat 8 n, gen := g }]
  ((d.tilesOf n).filter fun t => d.leader t == t).foldl (fun (d : Dev) t =>
    (d.modTile t fun s => { s with gen := g }).announce
      [{ kind := 1, unit := BitVec.ofNat 8 t, gen := g }]) d

/-- The fences return as the record has them; any other fence is released. Log entry 77 (DEDUCED). -/
def Dev.restoreFences (d : Dev) (fs : List FenceRecord) : Dev :=
  let gone := Tab.drop d.host.fences fun _ => true
  let freed : Tab Fence := d.host.fences.foldl (fun t f => Tab.set Fence.reset t f.1
    { Fence.reset with gen := f.2.gen }) gone
  let put (t : Tab Fence) (f : FenceRecord) : Tab Fence :=
    let g (i : Nat) : BitVec 16 := f.grants.getD i 0
    Tab.set Fence.reset t f.index.toNat
      { alloc := true, sig := f.sig, status := f.status, gen := f.gen, owner := f.owner, grant0 := g 0,
        grant1 := g 1, grant2 := g 2, grant3 := g 3 }
  { d with host := { d.host with fences := fs.foldl put freed } }

/-- The valid clearings, each with its image. -/
def Dev.imagesFor (d : Dev) (images : List RestoreImage) : List (Nat × Option RestoreImage) :=
  d.clearings.map fun n => (n, images.find? (·.clearing.val == n))

/-- Every clearing that opens is restored; the first failure of the others. Log entry 77 (DEDUCED). -/
def Dev.restoreAll (d : Dev) (p : StandPlan) (images : List RestoreImage) (role : Bool) :
    Dev × Option (BitVec 4 × Nat) :=
  (d.imagesFor images).foldl (fun (a : Dev × Option (BitVec 4 × Nat)) x =>
    match x.2 with
    | none => (a.1, a.2.orElse fun _ => some (1, x.1))
    | some i => match a.1.restoreFail p i with
      | some r => (a.1, a.2.orElse fun _ => some (r, x.1))
      | none => ((if role then (a.1.restoreClr p i).roleClr i else a.1.restoreClr p i), a.2)) (d, none)

/-- RESTORE_DONE: no copy, a failure, or the restored device.
Log entries 76 (DESIGN CHOICE), 78 (DESIGN CHOICE). -/
def doRestoreDone (images : List RestoreImage) (r : RestoreRecord) (copyFound : Bool) (gapS : Nat)
    (d : Dev) : Dev :=
  match d.plan.active with
  | none => d
  | some p =>
    if d.stl.st ≠ .rollback && d.stl.st ≠ .fill then d
    else
      let role := d.stl.st == .fill && d.stl.op == 2
      let op := d.stl.op
      let idle (d : Dev) : Dev := { d with stl := { d.stl with st := .idle } }
      if !copyFound then (idle d).stlResult 1 op 0xFF
      else match d.restoreAll p images role with
        | (x, some f) => (idle x).stlResult f.1 op (BitVec.ofNat 8 f.2)
        | (x, none) => match d.manifestFail p r.manifest 0xFF 0 with
          | some f => (idle x).stlResult f op 0xFF
          | none =>
            let d := x.restoreFences r.fences
            let m := d.stl.mtbfS + d.eighth (gapS - d.stl.mtbfS)
            let d : Dev := { d with stl := { d.stl with
              lastInst := r.lastInst, restored := true, mtbfS := m,
              lossLog := if role then r.lossLog.take 16 else d.stl.lossLog,
              index := if role then d.stl.rbIndex else d.stl.index,
              committed := if role then d.stl.rbIndex else d.stl.committed } }
            (((idle d).tick.newSalt.updateTau).stlResult 0 op 0).raise .stl 4

def execRestoreDone (images : List RestoreImage) (record : RestoreRecord) (copyFound : Bool) (gapS : Nat)
    (s : State) : Out := act s (doRestoreDone images record copyFound gapS)

end Sys2Proof.Machine
end

