-- ==== Sys2Proof/Machine/Activation.lean ====
section
/-! DEFINITION. The rounded-path activations of R132: fixed functions of an S32 input whose bits the spec leaves open
within an error bound. The true functions are computed in fixed point with 700 fractional bits. Log entry 6. -/

namespace Sys2Proof

/-! ## Fixed point -/

def fxBits : Nat := 700
def fxOne : Int := 2 ^ 700
def fxMul (a b : Int) : Int := a * b / fxOne
def fxDiv (a b : Int) : Int := a * fxOne / b

/-- A finite value in fixed point, exact for every S32 value. -/
def fxOf (n : Bool) (m : Nat) (e : Int) : Int := scaledInt n m e (-700)

/-- e^t by its series on t/2^16, squared 16 times; for |t| ≤ 512. -/
def fxExp (t : Int) : Int :=
  let r := t / 2 ^ 16
  let s := (List.range 48).foldl (fun (acc : Int) i => fxOne + fxMul r acc / ((48 - i : Nat) : Int)) fxOne
  (List.range 16).foldl (fun (y : Int) _ => fxMul y y) s

/-- arctan(1/k) by its series. -/
def fxAtanInv (k : Int) : Int :=
  ((List.range 160).foldl (fun (x : Int × Int) i =>
    (x.1 + (if i % 2 = 0 then x.2 else -x.2) / ((2 * i + 1 : Nat) : Int), x.2 / (k * k))) (0, fxOne / k)).1

def fxPi : Int := 16 * fxAtanInv 5 - 4 * fxAtanInv 239
def fxSqrt (v : Int) : Int := (isqrt (v * fxOne).toNat 800 0 : Nat)

/-! ## The true functions (R132) -/

/-- 1 / (1 + e^−x); its limits beyond ±512. -/
def fxSigmoid (x : Int) : Int :=
  if 512 * fxOne < x then fxOne else if x < -512 * fxOne then 0 else fxDiv fxOne (fxOne + fxExp (-x))

/-- (e^2x − 1) / (e^2x + 1). -/
def fxTanh (x : Int) : Int :=
  if 256 * fxOne < x then fxOne else if x < -256 * fxOne then -fxOne
  else fxDiv (fxExp (2 * x) - fxOne) (fxExp (2 * x) + fxOne)

/-- 0.5(1 + erf(x/√2)): 0.5 and the density times x + x³/3 + x⁵/15 + …; its limits beyond ±20. -/
def fxPhi (x : Int) : Int :=
  if 20 * fxOne < x then fxOne else if x < -20 * fxOne then 0
  else
    let sq := fxMul x x
    let sum := ((List.range 1000).foldl (fun (y : Int × Int) i =>
      (y.1 + y.2, fxMul y.2 sq / ((2 * i + 3 : Nat) : Int))) (0, x)).1
    fxOne / 2 + fxMul (fxDiv (fxExp (-sq / 2)) (fxSqrt (2 * fxPi))) sum

/-- The activation with code `c` at x. -/
def fxAct (c : Nat) (x : Int) : Int :=
  match c with
  | 3 => -- 0.5x(1 + tanh u) = x · sigmoid(2u)
    if 512 * fxOne < x then x else if x < -512 * fxOne then 0
    else
      let u := fxMul (fxSqrt (fxDiv (2 * fxOne) fxPi)) (x + fxMul x (fxMul x x) * 44715 / 1000000)
      fxMul x (fxSigmoid (2 * u))
  | 4 => fxMul x (fxPhi x)
  | 5 => fxMul x (fxSigmoid x)
  | 6 => fxSigmoid x
  | _ => fxTanh x

/-- The bound of R132 in ulps of S32. -/
def actUlps (c : Nat) : Nat := if c = 7 then 1 else 2

/-- A value lies within the bound of the true result `y`, an ulp being that of y's binade. -/
def withinUlps (k : Nat) (v : Val) (y : Int) : Bool :=
  match v with
  | .fin n m e =>
    let q : Int := max (floorLog2 y.natAbs (-700) - 23) (-149)
    let ulp := fxOf false 1 q
    decide ((fxOf n m e - y).natAbs ≤ (k * ulp + ulp / 2 ^ 20).toNat)
  | _ => false

/-- The fixed implementation: free within the bound of R132. -/
def roundedBits (c : Nat) (x : Word) : Nat :=
  match Fmt.s32.value x.toNat with
  | .fin n m e =>
    let y := fxAct c (fxOf n m e)
    let free := (Config.rounded c x).toNat
    if withinUlps (actUlps c) (Fmt.s32.value free) y then free
    else (Fmt.s32.roundFin .rne 0 (decide (y < 0)) y.natAbs (-700)).1
  | _ => (Config.rounded c x).toNat

end Sys2Proof
end

