-- ==== Sys2Proof/Machine/ThreadArith.lean ====
section
/-! DEFINITION. The arithmetic of the thread cores' scalar and 8-lane units (R140, R144, R162). -/

namespace Sys2Proof

/-! ## Integer arithmetic -/

def IntWidth.bits : IntWidth → Nat
  | .w8 => 8 | .w16 => 16 | .w32 => 32 | .w64 => 64

/-- An operand at its width. -/
def intOf (w : Nat) (signed : Bool) (v : Nat) : Int :=
  let u := v % 2 ^ w
  if signed && 2 ^ (w - 1) ≤ u then (u : Int) - 2 ^ w else u

/-- A result at its width, extended to 64 bits by its signedness. -/
def intTo (w : Nat) (signed : Bool) (i : Int) : DWord := BitVec.ofInt 64 (intOf w signed (i % 2 ^ w).toNat)

/-- Leading zeros of a value of `w` bits. -/
def leadingZeros (w v : Nat) : Nat := if v = 0 then w else w - 1 - Nat.log2 v

/-- An integer operation; `free` stands where the spec states no result: a shift by the width or more,
and a quotient outside the width. Division by zero gives 0 (R162). Log entry 90 (DESIGN CHOICE). -/
def intOp (op : IntOp) (w : Nat) (signed : Bool) (free : DWord) (a b c : Nat) : DWord :=
  let x := intOf w signed a
  let y := intOf w signed b
  let ua := a % 2 ^ w
  let ub := b % 2 ^ w
  let out (i : Int) : DWord := intTo w signed i
  let flag (p : Bool) : DWord := if p then 1 else 0
  match op with
  | .add => out (x + y)
  | .sub => out (x - y)
  | .mul => out (x * y)
  | .mulhi => out (x * y / 2 ^ w)
  | .div => if y = 0 then 0 else if signed && x == -(2 ^ (w - 1)) && y == -1 then free else out (x.tdiv y)
  | .rem => if y = 0 then 0 else out (x.tmod y)
  | .shl => if ub < w then out (ua * 2 ^ ub : Nat) else free
  | .shr => if ub < w then out (x / 2 ^ ub) else free
  | .rotl => let k := ub % w; out ((ua * 2 ^ k % 2 ^ w + ua / 2 ^ (w - k) : Nat) : Int)
  | .and => out ((ua &&& ub : Nat) : Int)
  | .or => out ((ua ||| ub : Nat) : Int)
  | .xor => out ((ua ^^^ ub : Nat) : Int)
  | .cmpEq => flag (x == y)
  | .cmpLt => flag (x < y)
  | .select => if ua = 0 then out (intOf w signed c) else out y
  | .clz => out (leadingZeros w ua : Nat)
  | .popcount => out (((List.range w).filter fun i => ua.testBit i).length : Nat)

/-! ## Floating point (R144) -/

def FpFmt.fmt : FpFmt → Fmt
  | .h16 => .h16 | .b16 => .b16 | .s32 => .s32 | .d64 => .d64

def boolNat (b : Bool) : Nat := if b then 1 else 0

/-- S32 and D64 are the scalar formats (R78). -/
def FpFmt.scalar : FpFmt → Bool
  | .s32 => true | .d64 => true | _ => false

/-- A floating-point operation of R77 on codes; comparisons answer 1 or 0. -/
def fpOp (op : FpOp) (f : Fmt) (rm : Rm) (free a b c : Nat) : FpRes :=
  let x := f.value a
  let y := f.value b
  let z := f.value c
  let cmp (p : Bool) : FpRes := (boolNat (!x.isNan && !y.isNan && p), if anySnan [x, y] then flInvalid else 0)
  -- an ordered comparison signals on a quiet NaN too
  let ord (p : Bool) : FpRes := (boolNat (!x.isNan && !y.isNan && p), if x.isNan || y.isNan then flInvalid else 0)
  match op with
  | .add => f.add rm 0 free x y
  | .sub => f.sub rm 0 free x y
  | .mul => f.mul rm 0 free x y
  | .fma => f.fma rm 0 free x y z
  | .div => f.div rm 0 free x y
  | .sqrt => f.sqrt rm 0 free x
  | .min => f.minMax false free x y a b
  | .max => f.minMax true free x y a b
  | .cmpEq => cmp (x.eqv y)
  | .cmpLt => ord (x.lt y)
  | .cmpLe => ord (!y.lt x)

/-- Conversion between long formats as IEEE 754-2019 converts; `draw` is SR's. -/
def fpConvert (src dst : Fmt) (rm : Rm) (draw free a : Nat) : FpRes :=
  match src.value a with
  | .fin n m e => dst.roundFin rm draw n m e
  | .inf n => (dst.signed n dst.infCode, 0)
  | v => dst.nanRes free [v]

/-- A value to an integer of a width; `free` where it does not fit or is no number.
Log entry 90 (DESIGN CHOICE). -/
def fpToInt (src : Fmt) (w : Nat) (signed : Bool) (free : DWord) (a : Nat) : DWord :=
  match (src.value a).toInt .rne 0 with
  | some x =>
    let lo : Int := if signed then -(2 ^ (w - 1)) else 0
    let hi : Int := if signed then 2 ^ (w - 1) - 1 else 2 ^ w - 1
    if lo ≤ x.1 && x.1 ≤ hi then intTo w signed x.1 else free
  | none => free

/-- The unstated result of an operation: free, and the same for the same operands at their width (R11, R140).
Log entry 4. -/
def openResult (op : OpenOp) (w : Nat) (vs : List Nat) : DWord := Config.opResult op (vs.map (· % 2 ^ w))

/-- Datum predicates of a code (IEEE 754-2019, 5.7.2); every code is canonical. -/
def FpPred.holds (p : FpPred) (f : Fmt) (c : Nat) : Bool :=
  let v := f.value c
  let k := f.classOf c
  match p with
  | .signMinus => v.neg?
  | .normal => k == 3 || k == 8
  | .finite => 3 ≤ k && k ≤ 8
  | .zero => k == 5 || k == 6
  | .subnormal => k == 4 || k == 7
  | .infinite => v.isInf
  | .nan => v.isNan
  | .signaling => v.isSnan
  | .canonical => true

/-- An operation of `IeeeOp` on codes; predicates and comparisons answer 1 or 0. Log entry 90 (DESIGN CHOICE). -/
def ieeeOp (op : IeeeOp) (f : Fmt) (rm : Rm) (free a b : Nat) : FpRes :=
  let x := f.value a
  let y := f.value b
  let w := f.bits
  match op with
  | .remainder => f.remainder free x y
  | .nextUp => f.nextUp free a
  | .nextDown => f.nextDown free a
  | .scaleB => f.scaleB rm free x y
  | .logB => f.logB free x
  | .roundInt exact => f.roundInt rm false exact free x
  | .roundIntAway => f.roundInt rm true false free x
  | .toInt signed away exact => match x with
    | .fin n m e =>
      let i := integerOf rm away n m e
      let v : Int := if n then -(i.1 : Int) else i.1
      let lo : Int := if signed then -(2 ^ (w - 1)) else 0
      let hi : Int := if signed then 2 ^ (w - 1) - 1 else 2 ^ w - 1
      if lo ≤ v && v ≤ hi then ((v % 2 ^ w).toNat, if exact && i.2 then flInexact else 0)
      else (free % 2 ^ w, flInvalid)
    | _ => (free % 2 ^ w, flInvalid)
  | .fromInt signed =>
    let i := intOf w signed a
    f.roundFin rm 0 (decide (i < 0)) i.natAbs 0
  | .compare rel signaling =>
    (boolNat (rel &&& relation x y != 0),
      if anySnan [x, y] || (signaling && (x.isNan || y.isNan)) then flInvalid else 0)
  | .class_ => (f.classOf a, 0)
  | .is p => (boolNat (p.holds f a), 0)
  | .radix => (2, 0)
  | .totalOrder mag =>
    let k (c : Nat) : Int := f.totalKey (if mag then c % f.sgn else c)
    (boolNat (decide (k a ≤ k b)), 0)

/-- A scalar floating-point instruction on two or three registers; none for a format that the scalar unit
does not accept, which is an undefined instruction (R78, R162). -/
def threadFp (op : ThreadFp) (a b c : DWord) : Option DWord :=
  match op with
  | .arith op f =>
    if f.scalar then
      let free := openResult (.fp op f .rne) f.fmt.bits [a.toNat, b.toNat, c.toNat]
      some (BitVec.ofNat 64 (fpOp op f.fmt .rne free.toNat a.toNat b.toNat c.toNat).1)
    else none
  | .convert s t =>
    if s.scalar && t.scalar then
      let free := openResult (.convert s t .rne) s.fmt.bits [a.toNat]
      some (BitVec.ofNat 64 (fpConvert s.fmt t.fmt .rne 0 free.toNat a.toNat).1)
    else none
  | .toInt s w signed =>
    if s.scalar then
      some (fpToInt s.fmt w.bits signed (openResult (.toInt s w signed) s.fmt.bits [a.toNat]) a.toNat)
    else none
  | .fromInt w signed t =>
    if t.scalar then
      let i := intOf w.bits signed a.toNat
      some (BitVec.ofNat 64 (t.fmt.roundFin .rne 0 (decide (i < 0)) i.natAbs 0).1)
    else none

/-! ## Eight 32-bit lanes -/

def lane (v : B256) (i : Nat) : Nat := v.toNat / 2 ^ (32 * i) % 2 ^ 32
def lanes (f : Nat → Nat) : B256 :=
  BitVec.ofNat 256 (((List.range 8).map fun i => f i % 2 ^ 32 * 2 ^ (32 * i)).foldl (· + ·) 0)

/-- A vector instruction, lane by lane: the integer and S32 operations, with the conversions between S32 and 32-bit
integers. Log entry 53 (DESIGN CHOICE). -/
def threadVec (op : ThreadVec) (a b c : B256) (imm : BitVec 64) : B256 :=
  let ops (i : Nat) : List Nat := [lane a i, lane b i, lane c i]
  match op with
  | .int op signed => lanes fun i =>
      (intOp op 32 signed (openResult (.int op .w32 signed) 32 (ops i)) (lane a i) (lane b i) (lane c i)).toNat
  | .fp op => lanes fun i =>
      (fpOp op .s32 .rne (openResult (.fp op .s32 .rne) 32 (ops i)).toNat (lane a i) (lane b i) (lane c i)).1
  | .toInt signed => lanes fun i =>
      (fpToInt .s32 32 signed (openResult (.toInt .s32 .w32 signed) 32 [lane a i]) (lane a i)).toNat
  | .fromInt signed => lanes fun i =>
      let v := intOf 32 signed (lane a i)
      (Fmt.s32.roundFin .rne 0 (decide (v < 0)) v.natAbs 0).1
  | .shuffle => lanes fun i => lane a (imm.toNat / 8 ^ i % 8)
  | .broadcast => lanes fun _ => lane a (imm.toNat % 8)
  | .laneMask => lanes fun i => if imm.getLsbD i then 2 ^ 32 - 1 else 0

end Sys2Proof
end

