-- ==== Sys2Proof/Machine/Epilogue.lean ====
section
/-! DEFINITION. A sweep over a gang's elements (R96–R99, R108–R111) and the epilogue (R131–R134), as
functions of words and tile stores. -/

namespace Sys2Proof.Machine
open Sys2Proof

/-! ## One element of a sweep -/

/-- What one pass over an element leaves: the word to commit, or after an overflow the word that the
replay starts from; whether it overflowed; the first NaN lane where NAN is new; STRICT flags. -/
structure ElemRes where
  word  : AW
  ovf   : Bool
  lane  : Option Nat
  flags : FpFlags
deriving DecidableEq, Repr

/-- The anchored start word of a FAST element (R96, R109). -/
def fastStart (x : Acc) (as bs : List (Option Int)) : Acc :=
  if x.isStrict then
    let y := x.fromStrict
    let own : Option Int := match y.2 with
      | some (.fin _ m e) => if m = 0 then none else some (floorLog2 m e + 1)
      | _ => none
    y.1.anchorAt (maxOpt (emaxOf as bs) own)
  else x.anchorAt (emaxOf as bs)

/-- One pass of a FAST element from its start word and its anchored word. -/
def fastElem (start work : AW) (as bs : List Val) : ElemRes :=
  let x := Acc.ofWord start
  let own : List Term := if x.isStrict then
      (match x.fromStrict.2 with | some (.fin n m e) => [.fin n m e] | _ => [])
    else []
  let ts := (as.zip bs).map fun p => term p.1 p.2
  let r := (Acc.ofWord work).pass (own ++ ts)
  let y := if r.2 then r.1 else ts.foldl Acc.flag r.1
  { word := y.word, ovf := r.2, lane := if y.nan && !x.nan then some (nanLane x ts) else none, flags := 0 }

/-- A STRICT element (R108, R109). -/
def strictElem (md : Mode) (rm : Rm) (start : AW) (as bs : List Val) : ElemRes :=
  let x := Acc.ofWord start
  let r := strictSweep rm (as.zip bs) 0 (x.strictStart md) 0 none
  let y := strictWord r.1
  { word := y.word, ovf := false, lane := if y.nan && !x.nan then some (r.2.2.getD 0) else none,
    flags := r.2.1 }

/-! ## One member tile of a sweep -/

/-- The lines of a SWEEP's two operands in a tile's operand store (R121). -/
def sweepLines (s : TileSt) (i : SwInstr) : List (List Val) × List (List Val) :=
  match i with
  | .sweep fa fb blkA blkB tA tB _ _ aOff bOff aS bS _ k _ _ _ _ _ _ _ _ _ =>
    (operandLines s (fmtOr fa) blkA tA aOff aS k, operandLines s (fmtOr fb) blkB (!tB) bOff bS k)
  | _ => ([], [])

/-- The bounds along K of a SWEEP's two operands (R96, R122). -/
def sweepBounds (s : TileSt) (i : SwInstr) : List (List (Option Int)) × List (List (Option Int)) :=
  match i with
  | .sweep fa fb blkA blkB tA tB _ _ aOff bOff aS bS _ k _ _ _ _ _ _ _ _ _ =>
    (operandBounds s (fmtOr fa) blkA tA aOff aS k, operandBounds s (fmtOr fb) blkB (!tB) bOff bS k)
  | _ => ([], [])

/-- Every pair of rows i and columns j with the element's index 32·i + j. -/
def crossed {α β γ : Type} (as : List α) (bs : List β) (f : α → β → γ) : List γ :=
  as.flatMap fun a => bs.map fun b => f a b

/-- The start words of a tile's slot: fresh under ACC_INIT. -/
def slotStart (s : TileSt) (init : Bool) (slot : Nat) : List AW :=
  if init then List.replicate 1024 0 else s.slotWords slot

/-- The words with the anchors predicted at issue; K = 0 and STRICT sweeps predict none. -/
def predict (md : Mode) (s : TileSt) (i : SwInstr) (k : Nat) (start : List AW) : List AW :=
  if md = .strict || k = 0 then start
  else
    let bs := sweepBounds s i
    let pairs := crossed bs.1 bs.2 Prod.mk
    (start.zip pairs).map fun x => (fastStart (Acc.ofWord x.1) x.2.1 x.2.2).word

/-- One pass of a sweep over a tile: its elements in row-major order. With K = 0 the words stay, but for R93's
ANCH. -/
def tilePass (md : Mode) (rm : Rm) (s : TileSt) (i : SwInstr) (k : Nat) (start work : List AW) :
    List ElemRes :=
  if k = 0 then start.map fun w => { word := keepAnchored w, ovf := false, lane := none, flags := 0 }
  else
    let ls := sweepLines s i
    let pairs := crossed ls.1 ls.2 Prod.mk
    ((start.zip work).zip pairs).map fun x =>
      if md = .strict then strictElem md rm x.1.1 x.2.1 x.2.2 else fastElem x.1.1 x.1.2 x.2.1 x.2.2

/-- An ACC_ADD over a tile (R127). -/
def tileAdd (s : TileSt) (dst src : Nat) : List ElemRes :=
  ((s.slotWords dst).zip (s.slotWords src)).map fun w =>
    let x := Acc.ofWord w.1
    let y := x.add (Acc.ofWord w.2)
    { word := y.word, ovf := false, lane := if y.nan && !x.nan then some 0 else none, flags := 0 }

/-! ## Epilogue stages on exact values (R131, R134) -/

/-- Scale: s · v. `bad` is the NaN of an invalid operation or a NaN parameter. Log entry 46 (DEDUCED). -/
def scaleVal (bad s v : Val) : Val :=
  if v.isNan then v
  else if s.isNan then bad
  else match v, s with
    | .over n, s => if s.isZero then .zero false else .over (n != s.neg?)
    | .fin n1 m1 e1, .fin n2 m2 e2 => .fin (n1 != n2) (m1 * m2) (e1 + e2)
    | v, s => if v.isZero || s.isZero then bad else .inf (v.neg? != s.neg?)

/-- Bias: v + b. Log entry 46 (DEDUCED). -/
def biasVal (bad : Val) (rm : Rm) (b v : Val) : Val :=
  if v.isNan then v
  else if b.isNan then bad
  else match v, b with
    | .over n, _ => .over n
    | .fin n1 m1 e1, .fin n2 m2 e2 =>
      let s := addFin rm n1 m1 e1 n2 m2 e2
      .fin s.1 s.2.1 s.2.2
    | .inf n, .inf k => if n = k then .inf n else bad
    | .inf n, _ => .inf n
    | _, b => b

/-- v > 0. -/
def Val.positive (v : Val) : Bool := !v.neg? && !v.isZero && !v.isNan

/-- The limit of a rounded-path activation at ±∞; a SAT word on the positive side of GELU and SiLU stays
overflowing finite (R134). Log entry 6 (DESIGN CHOICE). -/
def actLimit (c : Nat) (v : Val) : Val :=
  if c = 6 then (if v.neg? then .zero false else .fin false 1 0)
  else if c = 7 then .fin v.neg? 1 0
  else if v.neg? then .zero true
  else v

/-- A function of the rounded path: the value rounded to S32 with RNE, then the fixed function (R131,
R132). Log entry 6 (DESIGN CHOICE). -/
def roundedAct (c : Nat) (v : Val) : Val :=
  match v with
  | .fin n m e =>
    let x := (Fmt.s32.roundFin .rne 0 n m e).1
    match Fmt.s32.value x with
    | .inf k => actLimit c (.inf k)
    | _ => Fmt.s32.value (roundedBits c (BitVec.ofNat 32 x))
  | v => actLimit c v

/-- min(max(v, LO), HI); HI when LO > HI. -/
def clampVal (lo hi v : Val) : Val :=
  if hi.lt lo then hi
  else match v with
    | .over n => if n then lo else hi
    | v => if v.lt lo then lo else if hi.lt v then hi else v

/-- Stage 3 (R132, R134). Log entry 6 (DESIGN CHOICE). -/
def activate_ (bad : Val) (c : Nat) (alpha lo hi v : Val) : Val :=
  if v.isNan then v
  else match c with
    | 0 => v
    | 1 => if Val.positive v then v else .zero false
    | 2 => if alpha.isNan then bad else if Val.positive v then v
      else match v with
        | .over n => .over (n != alpha.neg?)
        | v => scaleVal bad alpha v
    | 8 => if lo.isNan || hi.isNan then bad else clampVal lo hi v
    | 9 => (match v with
      | .fin _ m e => .fin false (m * m) (e + e)
      | .inf _ => .inf false
      | .over _ => .over false
      | v => v)
    | c => roundedAct c v

/-! ## The epilogue of one member -/

/-- The NaN that an epilogue stage forms: its sign and payload are free. -/
def freeNanVal (f : DWord) : Val := .nan (f.getLsbD 0) true (f.toNat / 2 % 2 ^ 22) 22

/-- Stages 1 to 3 on one member's words: the values by row, and how many words have LOSS. The member is
in gang row `p` and gang column `q`. The sign and payload of a NaN that a stage forms are free, and depend on the
element's word and parameters alone. -/
def epiVals (s : TileSt) (act sk bk : Nat) (rm : Rm) (param p q : Nat) (words : List AW) : List (List Val) × Nat :=
  let at_ (off : Nat) : Nat := leVal (s.read 0 off 4)
  let vecS := leVal (s.read 0 (param + 4) 3)
  let vecB := leVal (s.read 0 (param + 8) 3)
  let scale (i j : Nat) : Option Nat :=
    match sk with
    | 0 => none
    | 1 => some (at_ param)
    | 2 => some (at_ (vecS + 4 * (32 * p + i)))
    | _ => some (at_ (vecS + 4 * (32 * q + j)))
  let bias (i j : Nat) : Option Nat :=
    match bk with
    | 0 => none
    | 1 => some (at_ (vecB + 4 * (32 * p + i)))
    | _ => some (at_ (vecB + 4 * (32 * q + j)))
  let elem (i j : Nat) (w : AW) : Val :=
    let ps := (scale i j).toList ++ (bias i j).toList ++ [at_ (param + 12), at_ (param + 16), at_ (param + 20)]
    let bad := freeNanVal (openResult .epilogue 128 (w.toNat :: ps))
    let v := (Acc.ofWord w).val rm
    let v := match scale i j with | some x => scaleVal bad (Fmt.s32.value x) v | none => v
    let v := match bias i j with | some x => biasVal bad rm (Fmt.s32.value x) v | none => v
    activate_ bad act (Fmt.s32.value (at_ (param + 12))) (Fmt.s32.value (at_ (param + 16)))
      (Fmt.s32.value (at_ (param + 20))) v
  ((runs 32 32 words).zipIdx.map fun r => r.1.zipIdx.map fun w => elem r.2 w.2 w.1,
    (words.filter fun w => (Acc.ofWord w).loss).length)

/-- A member's converted output enters its operand store (R133): the rows with their padding, then the
scale plane, one byte to a line. The limit of R87 counts within the member's own panel. Log entry 44 (DEDUCED). -/
def TileSt.putEpilogue (s : TileSt) (f : Fmt) (blk cols_ : Bool) (dst : Nat) (limit : Option Nat) (c : Conv) :
    TileSt :=
  let pitch := rowPitch f 32
  let plane := dst + roundTo64 (panelBytes f 32 32)
  let s := c.codes.zipIdx.foldl (fun s r =>
    let k := keptInRow limit 32 r.2
    let bs := f.pack (r.1.take k)
    s.write (dst + r.2 * pitch) (if k = 32 then bs ++ List.replicate (pitch - bs.length) 0 else bs)) s
  let whole (l : Nat) : Bool :=
    if cols_ then (List.range 32).all fun i => l < keptInRow limit 32 i
    else keptInRow limit 32 l == 32
  let s := if blk then
      c.scales.zipIdx.foldl (fun s l =>
        if whole l.2 then
          s.write (plane + 16 * l.2) (BitVec.ofNat 8 (l.1.headD 0) :: List.replicate 15 0)
        else s) s
    else s
  if limit.isSome then s else s.recordBounds f dst 32 c.codes

end Sys2Proof.Machine
end

