-- ==== Sys2Proof/Machine/Sweeps.lean ====
section
/-! DEFINITION. The commands of chapters 04 to 06: conversions and sweep programs. -/

namespace Sys2Proof.Machine
open Sys2Proof

/-! ## NUM_TRAP_RELEASE (R114, R115) -/

def execNumTrapRelease (n : Clr) (s : State) : Out :=
  act s fun d => d.modNum n.val fun x => { x with release := true }

/-! ## COPY_CONVERT (R90, R223, R285) -/

structure CopyArgs where
  srcH  : Word
  dstH  : Word
  src   : Fmt
  dst   : Fmt
  blkS  : Bool
  blkD  : Bool
  srcOff : Nat
  dstOff : Nat
  srcDelta : Nat
  dstDelta : Nat
  dir   : Nat
  count : Nat
deriving DecidableEq, Repr

def Cmd.copyArgs (c : Cmd) : CopyArgs :=
  { srcH := c.word 16, dstH := c.word 20, src := fmtOr (fld c.raw 30 1 % 16),
    dst := fmtOr (fld c.raw 31 1 % 16), blkS := (fld c.raw 30 1).testBit 4,
    blkD := (fld c.raw 31 1).testBit 4, srcOff := fld c.raw 24 6, dstOff := fld c.raw 32 6,
    srcDelta := fld c.raw 48 4, dstDelta := fld c.raw 52 4, dir := fld c.raw 39 1,
    count := fld c.raw 40 6 }

/-- The bytes of a one-dimensional window: its elements, and its scale plane. -/
def lineRanges (f : Fmt) (blk : Bool) (off count delta : Nat) : List (Nat × Nat) :=
  windowRanges f blk false off 1 count 0 delta

/-- Ranges of two objects in region addresses meet. -/
def meet (a b : Obj) (x y : List (Nat × Nat)) : Bool :=
  a.clearing == b.clearing && a.region == b.region &&
    x.any fun r => y.any fun t =>
      a.base + r.1 < b.base + t.1 + t.2 && b.base + t.1 < a.base + r.1 + r.2

/-- The overlap rule of R90. Log entry 51 (DEDUCED). -/
def Dev.overlapOk (d : Dev) (a : CopyArgs) : Bool :=
  let o := d.obj (objIndex a.srcH)
  let p := d.obj (objIndex a.dstH)
  let x := lineRanges a.src a.blkS a.srcOff a.count a.srcDelta
  let y := lineRanges a.dst a.blkD a.dstOff a.count a.dstDelta
  let same := o.base + a.srcOff == p.base + a.dstOff && a.dst.bits ≤ a.src.bits
  let planes := o.base + a.srcOff + a.srcDelta == p.base + a.dstOff + a.dstDelta
  !meet o p x y ||
    (same && !meet o p (x.drop 1) (y.take 1) && !meet o p (x.take 1) (y.drop 1) &&
      (planes || !meet o p (x.drop 1) (y.drop 1)))

/-- The checks of COPY_CONVERT at decode (R78, R81, R90, R303). Log entry 51 (DEDUCED). -/
def Dev.copyOk (d : Dev) (n : Nat) (c : Cmd) : Bool :=
  let a := c.copyArgs
  let known (b : Nat) : Bool := (Fmt.ofCode (fld c.raw b 1 % 16)).isSome
  let sr := !(a.src == a.dst && a.blkS == a.blkD) && d.rounding n (fld c.raw 38 1) == .sr
  known 30 && known 31 && moveFormats a.src a.dst a.blkS a.blkD && roundOk (fld c.raw 38 1) &&
    a.dir ≤ 2 && (!sr || (d.genSlot n).isSome) &&
    (a.dir == 2 || fits (d.obj (objIndex a.srcH)).size
      (lineRanges a.src a.blkS a.srcOff a.count a.srcDelta)) &&
    (a.dir == 1 || fits (d.obj (objIndex a.dstH)).size
      (lineRanges a.dst a.blkD a.dstOff a.count a.dstDelta)) &&
    (a.dir != 0 || d.overlapOk a)

/-- Bytes laid at offsets of a payload; a byte that nothing covers is free. Log entry 51 (DEDUCED). -/
def layBytes (free : Nat) (ws : List (Nat × List Byte)) : List Byte :=
  let len := (ws.map fun w => w.1 + w.2.length).foldl max 0
  (List.range len).map fun i =>
    match ws.findSome? fun w => if w.1 ≤ i then w.2[i - w.1]? else none with
    | some b => b
    | none => Config.freeByte free i

/-- The wrap key of an egress (R223): KIND, owner, and the W slot of the clearing's flow.
Log entry 51 (DEDUCED). -/
def Dev.egress (d : Dev) (n : Nat) : Option (Nat × Nat × Nat) :=
  let owner := (d.ownerOf n).toNat
  let kind := if owner = 0 then 4 else 3
  let flow := match d.plan.active with
    | some p => p.flows.any fun f => f.kind.toNat == kind && f.src.toNat == n
    | none => false
  if flow then ((d.keySlot n 2).filter fun s => (d.slot s).mask.getLsbD n).map fun s => (kind, owner, s) else none

/-- An envelope leaves the device, sealed under a one-time key (R223). Log entry 51 (DEDUCED). -/
def Dev.sendEnvelope (d : Dev) (addr : BitVec 64) (k : Nat × Nat × Nat) (payload : List Byte) : Dev :=
  let w := d.slot k.2.2
  let draw := d.random
  let ivs := strBytes (Config.trng (d.free + 1)) 24
  let bytes := envelopeBytes k.1 k.2.1 w.gen.toNat d.addr.toNat (firstHalf w.key) (firstHalf draw) (ivs.take 12)
    (ivs.drop 12) payload
  { d.emit (.envelope addr bytes) with free := d.free + 2 }

/-- The payload key of the ingress envelopes of a clearing (R285). -/
def Dev.ingressKeyOf (d : Dev) (q : Nat) (env : List Byte) : BitVec 128 :=
  match (d.queueClr q).bind d.genSlot with
  | some s => ingressKey (d.slot s).key env
  | none => 0

/-- The header of an ingress envelope fits the destination (R285). Log entry 51 (DEDUCED). -/
def Dev.ingressOk (d : Dev) (n : Nat) (e : Envelope) : Bool :=
  e.magic == 0x47455856 && e.kind == 8 && e.owner.toNat == (d.ownerOf n).toNat && e.gen == 0 &&
    e.addr == d.addr.setWidth 32 && e.wrapZero && e.payload.length ≤ 2 ^ 20

/-- The elements of a payload. -/
def payloadRaw (a : CopyArgs) (bs : List Byte) : Raw :=
  rawWith (fun o k => (bs.drop o).take k) a.src a.blkS false a.srcOff 1 a.count 0 (a.srcOff + a.srcDelta) true

/-- Convert and deliver, from the elements read; none of the outcome where the write waits.
Log entries 48 (DEDUCED), 51 (DEDUCED). -/
def Dev.copyTo (d : Dev) (n q : Nat) (c : Cmd) (a : CopyArgs) (x : Raw) : Dev :=
  let rm := d.rounding n (fld c.raw 38 1)
  let stream : BitVec 16 := BitVec.ofNat 16 (fld c.raw 46 2)
  let y := convertRaw a.src a.dst a.blkS a.blkD false (d.mode n) rm a.count
    (d.drawAt c.stepKey stream 0) x
  let limit := d.trapLimit n y.1.nans
  let base := if a.dir = 1 then 0 else a.dstOff
  let ws := windowWrites a.dst a.blkD false a.count (fun _ => base) (base + a.dstDelta) 0 limit y.1
  let note (d : Dev) : Dev :=
    ((d.convNans n 3 0 q c.seq 0 y.1.nans).lossConversions n y.2).drew
      (rm == .sr && !(a.src == a.dst && a.blkS == a.blkD)) stream
  let last (d : Dev) : Dev :=
    if limit.isSome then (note d).completeCmd q c .nanTrap .none 0 0
    else (note d).completeCmd q c .ok .none 0 0
  if a.dir = 1 then
    match d.egress n with
    | none => d.completeCmd q c .ownerDenied .none 0 0
    | some k => last (if ws.isEmpty && limit.isSome then d
        else d.sendEnvelope (BitVec.ofNat 64 (fld c.raw 56 8)) k (layBytes d.free ws))
  else
    let o := d.obj (objIndex a.dstH)
    match d.tryWrite n o ws with
    | (d, none) => d
    | (d, some h) =>
      if h.status = .ok then last d
      else (note d).completeCmd q c h.status h.detail (hitInfo a.dstH o h) 0

/-- COPY_CONVERT: a started conversion runs. An INGRESS brings the envelope that its DMA read and the
outcome of its tag. Log entry 51 (DEDUCED). -/
def doCopyConvert (q : Nat) (seq : Word) (env : Envelope) (tagOk : Bool) (d : Dev) : Dev :=
  match d.cmd q seq, d.queueClr q with
  | some c, some n =>
    if c.opcode != 1 || c.ph != .started then d
    else
      let a := c.copyArgs
      if a.dir = 2 then
        if !d.ingressOk n env || !fits env.payload.length
            (lineRanges a.src a.blkS a.srcOff a.count a.srcDelta) then
          d.completeCmd q c .aborted .decode 0 0
        else if (d.genSlot n).isNone then d.completeCmd q c .ownerDenied .none 0 0
        else if !tagOk then d.completeCmd q c .aborted .ingressTag 0 0
        else d.copyTo n q c a (payloadRaw a env.payload)
      else if a.dir = 1 && (d.egress n).isNone then d.completeCmd q c .ownerDenied .none 0 0
      else
        let o := d.obj (objIndex a.srcH)
        match d.tryRead n (c.holder q) a.srcH o (lineRanges a.src a.blkS a.srcOff a.count a.srcDelta) with
        | (d, none) => d
        | (d, some h) =>
          if h.status = .ok then
            d.copyTo n q c a (d.rawWindow o a.src a.blkS false a.srcOff 1 a.count 0 a.srcDelta)
          else d.completeCmd q c h.status .none (hitInfo a.srcH o h) 0
  | _, _ => d

/-- Log entry 22 (DESIGN CHOICE). -/
def execCopyConvert (q : Que) (seq : Word) (header payload : List Byte) (s : State) : Out :=
  act s fun d =>
    let envelope := header ++ payload
    let key := d.ingressKeyOf q.val envelope
    doCopyConvert q.val seq (readEnvelope key envelope) (envelopeOpens key envelope) d

/-! ## SWEEP_PROGRAM (R119, R123, R136, R303) -/

/-- The handles of a program's LOADs and STOREs, whatever else its bytes hold: true for a STORE.
Log entry 49 (DEDUCED). -/
def rawHandles : Nat → List Byte → List (Word × Bool)
  | 0, _ => []
  | n + 1, bs =>
    let opc := ib bs 0 1
    (if opc = 2 || opc = 3 then [(BitVec.ofNat 32 (ib bs 8 4), opc == 3)] else []) ++
      rawHandles n (bs.drop 32)

/-- Check 7 of R286 for a program's handle: of the clearing, or a Commons object that a LOAD reads under a
READ_GRANT. -/
def Dev.handleOwned (d : Dev) (n : Nat) (h : Word) (store : Bool) : Bool :=
  let o := d.obj (objIndex h)
  o.clearing.toNat == n || (!store && o.owner == 0 && d.readGrant o.clearing.toNat n)

/-- The checks of R119, R123 and R303 on a parsed program. -/
def Dev.programOk (d : Dev) (n t : Nat) (is : List SwInstr) : Bool :=
  d.tileClr t == some n && d.leader t == t && is.all (d.instrOk n (d.gangOf t)) &&
    (!(is.any (d.usesSr n)) || (d.genSlot n).isSome)

/-- The rest of a SWEEP_PROGRAM's decode: its program is read and checked whole. Log entry 49 (DEDUCED). -/
def Dev.decodeProgram (d : Dev) (n q : Nat) (c : Cmd) : Dev :=
  let h := c.word 16
  let o := d.obj (objIndex h)
  let off := 32 * fld c.raw 20 4
  let count := fld c.raw 24 4
  let t := fld c.raw 28 1
  if count = 0 || 65536 < count || !o.holds off (32 * count) then d.completeCmd q c .aborted .decode 0 0
  else match d.tryRead n (c.holder q) h o [(off, 32 * count)] with
    | (d, none) => d
    | (d, some x) =>
      if x.status ≠ .ok then d.completeCmd q c x.status .none (hitInfo h o x) 0
      else
        let bs := d.readObj o off (32 * count)
        let hs := rawHandles count bs
        match hs.find? fun x => !d.liveHandle x.1 with
        | some x => d.completeCmd q c .staleObject .none (x.1.setWidth 64) 0
        | none => match hs.find? fun x => !d.handleOwned n x.1 x.2 with
          | some x => d.completeCmd q c .ownerDenied .none (x.1.setWidth 64) 0
          | none => match parseProgram count bs with
            | none => d.completeCmd q c .aborted .decode 0 0
            | some is =>
              if d.programOk n t is then
                let refs := hs.map (·.1)
                (d.addRefs refs).modCmd q c.seq fun x =>
                  { x with ph := .decoded, refs := x.refs ++ refs, prog := is }
              else d.completeCmd q c .aborted .decode 0 0

/-- The order of R136 among commands that name one tile: start mark, queue, sequence number. -/
def Dev.progKey (d : Dev) (q : Nat) (c : Cmd) : List Nat :=
  let mark := if c.unscheduled then c.decodedAt.toNat + 1
    else match d.run c.actId c.inst with
      | some r => r.startMark.toNat
      | none => c.decodedAt.toNat + 1
  [mark, q, c.seq.toNat]

/-- The command's start mark has come: its activity runs, or it is unscheduled. -/
def Dev.markKnown (d : Dev) (c : Cmd) : Bool := c.unscheduled || (d.run c.actId c.inst).isSome

/-- Every command for the same tile that is earlier in that order has completed, those not yet started too. -/
def Dev.programFirst (d : Dev) (q : Nat) (c : Cmd) : Bool :=
  (d.cmds.filter fun x => x.2.opcode == 2 && fld x.2.raw 28 1 == fld c.raw 28 1 &&
    (x.2.ph == .started || x.2.ph == .running || (x.2.ph == .decoded && d.markKnown x.2))).all fun x =>
      (x.1 == q && x.2.seq == c.seq) || lexLt (d.progKey q c) (d.progKey x.1 x.2)

/-- The sequencer of the gang takes the program. -/
def Dev.installProgram (d : Dev) (n q : Nat) (c : Cmd) : Dev :=
  let t := fld c.raw 28 1
  let g := d.gangOf t
  let p : Prog :=
    { queue := Fin.ofNat 4096 q, seq := c.seq, clearing := n, members := g.1, rows := g.2.1, cols := g.2.2,
      instrs := c.prog, srStream := BitVec.ofNat 16 (fld c.raw 30 2), stepKey := c.stepKey, issued := [],
      done := [], flights := [], epilogues := [], movers := [], stopped := false, status := .ok,
      detail := .none, info := 0 }
  (d.modTile t fun s => { s with prog := some p }).modCmd q c.seq fun x => { x with ph := .running }

/-- Log entry 33 (DEDUCED). -/
def doSweepProgram (q : Nat) (seq : Word) (d : Dev) : Dev :=
  match d.cmd q seq, d.queueClr q with
  | some c, some n =>
    if c.opcode != 2 then d
    else if c.ph = .decoding then d.decodeProgram n q c
    else if c.ph = .started && (d.tile (fld c.raw 28 1)).prog.isNone && d.programFirst q c then
      d.installProgram n q c
    else d
  | _, _ => d

def execSweepProgram (q : Que) (seq : Word) (s : State) : Out := act s (doSweepProgram q.val seq)

/-! ## SWEEP and ACC_ADD issue (R129, R130) -/

/-- The rounding of STRICT steps (R108): the clearing's default, RNE for SR. -/
def Dev.stepRound (d : Dev) (n : Nat) : Rm :=
  match d.rounding n 7 with
  | .sr => .rne
  | rm => rm

/-- A SWEEP issues: start words are saved in the replay buffers and anchors predicted.
Log entry 47 (DEDUCED). -/
def Dev.issueSweep (d : Dev) (t : Nat) (g : Prog) (idx : Nat) (i : SwInstr) (init : Bool) (slot k : Nat) : Dev :=
  let start := g.members.map fun m => (m, slotStart (d.tile m) init slot)
  let work := start.map fun x => (x.1, predict (d.mode g.clearing) (d.tile x.1) i k x.2)
  let f : Flight := { idx := idx, isAdd := false, slot := slot, start := start, work := work, replays := 0 }
  d.modProg t fun p => { p with issued := p.issued ++ [idx], flights := p.flights ++ [f] }

/-- The next SWEEP of the program that tile `t` leads issues once R129's conditions hold. -/
def doSweep (t : Nat) (d : Dev) : Dev :=
  match (d.tile t).prog with
  | none => d
  | some g => match g.nextCalc with
    | some (idx, .sweep fa fb bA bB tA tB init epi ao bo as bs slot k ac ef eb ea sk bk rnd dst pr) =>
      let i : SwInstr := .sweep fa fb bA bB tA tB init epi ao bo as bs slot k ac ef eb ea sk bk rnd dst pr
      if g.calcReady (d.readsOf g) idx i then d.issueSweep t g idx i init slot k else d
    | _ => d

def execSweep (t : Tile) (s : State) : Out := act s (doSweep t.val)

/-- The next ACC_ADD issues. -/
def doAccAdd (t : Nat) (d : Dev) : Dev :=
  match (d.tile t).prog with
  | none => d
  | some g => match g.nextCalc with
    | some (idx, .accAdd a b) =>
      if g.calcReady (d.readsOf g) idx (.accAdd a b) then
        let start := g.members.map fun m => (m, (d.tile m).slotWords a)
        let f : Flight := { idx := idx, isAdd := true, slot := a, start := start, work := [], replays := 0 }
        d.modProg t fun p => { p with issued := p.issued ++ [idx], flights := p.flights ++ [f] }
      else d
    | _ => d

def execAccAdd (t : Tile) (s : State) : Out := act s (doAccAdd t.val)

/-! ## SWEEP_COMMIT (R98, R99, R110–R112, R130, R135) -/

/-- What a flight's pass leaves on each member. -/
def Dev.flightPass (d : Dev) (g : Prog) (f : Flight) : List (Nat × List ElemRes) :=
  let n := g.clearing
  match g.instrs[f.idx]? with
  | some (.sweep fa fb bA bB tA tB init epi ao bo as bs slot k ac ef eb ea sk bk rnd dst pr) =>
    (f.start.zip f.work).map fun x => (x.1.1,
      tilePass (d.mode n) (d.stepRound n) (d.tile x.1.1)
        (.sweep fa fb bA bB tA tB init epi ao bo as bs slot k ac ef eb ea sk bk rnd dst pr) k x.1.2 x.2.2)
  | some (.accAdd a b) => f.start.map fun x => (x.1, tileAdd (d.tile x.1) a b)
  | _ => []

/-- Sticky conditions and counters of a commit (R110, the NUM block). -/
def numCommit (start word : List AW) (flags : FpFlags) (x : Num) : Num :=
  let news (p : Acc → Bool) : Nat :=
    ((start.zip word).filter fun w => p (Acc.ofWord w.2) && !p (Acc.ofWord w.1)).length
  let st := putBit x.status 1 (x.status.getLsbD 1 || news (·.esc) != 0)
  let st := putBit st 2 (st.getLsbD 2 || news (·.loss) != 0)
  let st := putBit st 3 (st.getLsbD 3 || news (·.sat) != 0)
  { x with status := st ||| ((flags &&& 0x1D).setWidth 32 <<< 8), sat := satAdd x.sat (news (·.sat)) }

/-- The NaN events of a commit, one for each element whose NAN is new, in gang coordinates (R111).
Log entry 45 (DEDUCED). -/
def commitEvents (g : Prog) (f : Flight) (strict stop : Bool) (outs : List (Nat × List ElemRes)) :
    List NanEvent :=
  outs.zipIdx.flatMap fun o =>
    (o.1.2.zipIdx.filterMap fun e => e.1.lane.map fun k => (e.2, k)).map fun e =>
      { source := b2n strict, tile := o.1.1, queue := g.queue.val, seq := g.seq, sweep := f.idx,
        row := 32 * (o.2 / g.cols) + e.1 / 32, col := 32 * (o.2 % g.cols) + e.1 % 32, k := e.2,
        stopped := stop }

/-- The words of a flight are committed: written to the slot, their conditions noted. -/
def Dev.commitWords (d : Dev) (g : Prog) (f : Flight) (outs : List (Nat × List ElemRes)) : Dev :=
  let d := outs.foldl (fun d o => d.modTile o.1 fun s => s.setSlot f.slot (o.2.map (·.word))) d
  let start := f.start.flatMap (·.2)
  let word := outs.flatMap fun o => o.2.map (·.word)
  let flags := (outs.flatMap (·.2)).foldl (fun a e => a ||| e.flags) 0
  d.modNum g.clearing (numCommit start word flags)

/-- The conversions of a STRICT sweep's start words count: their conversion NaNs, an event for each member, and
their losses (R83, R106, R109). Log entry 45 (DEDUCED). -/
def Dev.strictStarts (d : Dev) (g : Prog) (f : Flight) : Dev :=
  f.start.foldl (fun d s => (d.convNans g.clearing 1 s.1 g.queue.val g.seq f.idx (strictNans s.2)).lossConversions
    g.clearing (strictLosses s.2)) d

/-- A flight converts its start words: a STRICT sweep with terms. -/
def Dev.startsStrict (d : Dev) (g : Prog) (f : Flight) : Bool :=
  d.mode g.clearing == .strict && match g.instrs[f.idx]? with
    | some (.sweep _ _ _ _ _ _ _ _ _ _ _ _ _ k _ _ _ _ _ _ _ _ _) => k != 0
    | _ => false

/-- A pass without overflow commits. Log entry 47 (DEDUCED). -/
def Dev.commitFlight (d : Dev) (t : Nat) (g : Prog) (f : Flight) (outs : List (Nat × List ElemRes)) : Dev :=
  let n := g.clearing
  let stop := d.nanTrap n == 1
  let d := d.commitWords g f outs
  let strict := d.startsStrict g f
  let d := if strict then d.strictStarts g f else d
  let badStart := stop && strict && f.start.any fun s => !(strictNans s.2).isEmpty
  let halt (d : Dev) : Dev :=
    ((d.discardFlights (g.flights.drop 1)).modProg t fun p =>
      { p with flights := [], done := p.done ++ [f.idx] }.stop .nanTrap .none 0).progEnd t
  let epi := match g.instrs[f.idx]? with
    | some (.sweep _ _ _ _ _ _ _ e _ _ _ _ _ _ _ _ _ _ _ _ _ _ _) => e
    | _ => false
  let after (p : Prog) : Prog :=
    if epi then { p with flights := p.flights.tail, epilogues := p.epilogues ++ [f.idx] }
    else { p with flights := p.flights.tail, done := p.done ++ [f.idx] }
  match firstNan (commitEvents g f (d.mode n == .strict && !f.isAdd) stop outs) with
  | none => if badStart then halt d else (d.modProg t after).progEnd t
  | some e =>
    let d := d.modNum n fun x =>
      { x with nan := satInc x.nan, status := setBit x.status 0, events := x.events ++ [e] }
    if stop then halt d else (d.modProg t after).progEnd t

/-- A pass in which an element overflows replays: each overflowed element realigned or clamped (R99). -/
def Dev.replayFlight (d : Dev) (t : Nat) (g : Prog) (f : Flight) (outs : List (Nat × List ElemRes)) : Dev :=
  let redo (w : AW) (e : ElemRes) : AW := if e.ovf then e.word else w
  let work := (f.work.zip outs).map fun x => (x.1.1, (x.1.2.zip x.2.2).map fun y => redo y.1 y.2)
  let d := d.modNum g.clearing fun x =>
    { x with replay := satInc x.replay, status := setBit x.status 4 }
  d.modProg t fun p =>
    { p with flights := { f with work := work, replays := f.replays + 1 } :: p.flights.tail }

/-- The oldest flight reaches its commit. -/
def doSweepCommit (t : Nat) (d : Dev) : Dev :=
  match (d.tile t).prog with
  | none => d
  | some g => match g.flights with
    | [] => d
    | f :: _ =>
      let outs := d.flightPass g f
      if outs.any fun o => o.2.any (·.ovf) then d.replayFlight t g f outs else d.commitFlight t g f outs

def execSweepCommit (t : Tile) (s : State) : Out := act s (doSweepCommit t.val)

/-! ## EPILOGUE_DONE (R87, R131–R134) -/

/-- The conversions of an epilogue on each member: its tile, the conversion, whose elements are numbered within the
member's own panel, and how many words with LOSS it read. Log entry 44 (DEDUCED). -/
def Dev.epiConvs (d : Dev) (g : Prog) (idx : Nat) (i : SwInstr) : List (Nat × Conv × Nat) :=
  let n := g.clearing
  match i with
  | .sweep _ _ _ _ _ _ _ _ _ _ _ _ slot _ ac ef eb ea sk bk rnd _ pr =>
    let rm := d.rounding n rnd.toNat
    g.members.zipIdx.map fun m =>
      let s := d.tile m.1
      let p := m.2 / g.cols
      let q := m.2 % g.cols
      let v := epiVals s ac sk bk rm pr p q (s.slotWords slot)
      let draw (k : Nat) : Nat := d.drawAt g.stepKey g.srStream 0 (2 ^ 24 * idx + k)
      (m.1, convertWindow (fmtOr ef) .aw eb ea (d.mode n) rm 32 draw v.1, v.2)
  | _ => []

/-- An epilogue ends: its rows are written, its conversion NaNs and losses counted.
Log entry 44 (DEDUCED). -/
def Dev.endEpilogue (d : Dev) (t : Nat) (g : Prog) (idx : Nat) (i : SwInstr) : Dev :=
  let n := g.clearing
  match i with
  | .sweep _ _ _ _ _ _ _ _ _ _ _ _ _ _ _ ef eb ea _ _ rnd dst _ =>
    let cs := d.epiConvs g idx i
    let stops := d.nanTrap n == 1 && cs.any fun c => !c.2.1.nans.isEmpty
    let d := cs.foldl (fun d c =>
      let d := d.modTile c.1 fun s => s.putEpilogue (fmtOr ef) eb ea dst (d.trapLimit n c.2.1.nans) c.2.1
      (d.convNans n 2 c.1 g.queue.val g.seq idx c.2.1.nans).lossConversions n c.2.2) d
    let d := d.drew (d.rounding n rnd.toNat == .sr) g.srStream
    let fin (p : Prog) : Prog := { p with epilogues := p.epilogues.tail, done := p.done ++ [idx] }
    (d.modProg t fun p => if stops then (fin p).stop .nanTrap .none 0 else fin p).progEnd t
  | _ => d

def doEpilogueDone (t : Nat) (d : Dev) : Dev :=
  match (d.tile t).prog with
  | none => d
  | some g => match g.epilogues with
    | [] => d
    | idx :: _ => match g.instrs[idx]? with
      | some i => d.endEpilogue t g idx i
      | none => d

def execEpilogueDone (t : Tile) (s : State) : Out := act s (doEpilogueDone t.val)

/-! ## LOAD and STORE (R126, R410, R411, R414) -/

/-- A transfer begins; its outcome takes effect when it ends. -/
def Dev.startMove (d : Dev) (t idx : Nat) (st : Status) (det : Detail) (info : BitVec 64) : Dev :=
  let m : MoveRun := { idx := idx, status := st, detail := det, info := info }
  d.modProg t fun p => { p with issued := p.issued ++ [idx], movers := p.movers ++ [m] }

/-- A transfer begins whose access failed; `d₀` is the device before the access. -/
def Dev.failMove (d d₀ : Dev) (t : Nat) (g : Prog) (idx : Nat) (x : Hit) (info : BitVec 64) : Dev :=
  (d₀.blame d g.queue.val g.seq x.status x.detail info 0).startMove t idx x.status x.detail info

/-- The program's command, where it is a scheduled one. -/
def Dev.progHolder (d : Dev) (g : Prog) : Option (Nat × Word) :=
  (d.cmd g.queue.val g.seq).bind fun c => c.holder g.queue.val

/-- What a mover's conversion leaves in the NUM block. -/
def Dev.moveNotes (d : Dev) (t : Nat) (g : Prog) (idx : Nat) (sr : Bool) (y : Conv × Nat) : Dev :=
  ((d.convNans g.clearing 3 t g.queue.val g.seq idx y.1.nans).lossConversions g.clearing y.2).drew sr
    g.srStream

/-- A LOAD copies its window into every member it names. Log entries 47 (DEDUCED), 48 (DEDUCED). -/
def Dev.runLoad (d : Dev) (t : Nat) (g : Prog) (idx : Nat) (i : SwInstr) : Dev :=
  let n := g.clearing
  let d₀ := d
  match i with
  | .load fm blkM fs blkS acc kax rnd bcast member sram _ h off rows cols pitch delta =>
    let o := d.obj (objIndex h)
    let src := fmtOr fm
    let dst := fmtOr fs
    match d.tryRead n (d.progHolder g) h o (windowRanges src blkM kax off rows cols pitch delta) with
    | (d, none) => d
    | (d, some x) =>
      if x.status ≠ .ok then d.failMove d₀ t g idx x (hitInfo h o x)
      else
        let draw (e : Nat) : Nat := d.drawAt g.stepKey g.srStream 0 (2 ^ 24 * idx + e)
        let y := convertRaw src dst blkM blkS kax (d.mode n) (d.rounding n rnd.toNat) cols draw
          (d.rawWindow o src blkM kax off rows cols pitch delta)
        let limit := d.trapLimit n y.1.nans
        let put (s : TileSt) : TileSt :=
          if acc then s.putWords sram y.1 else s.putPanel dst blkS kax sram rows cols limit y.1
        let d := (loadMembers (g.members, g.rows, g.cols) bcast member).foldl (fun d m => d.modTile m put) d
        (d.moveNotes t g idx (d.usesSr n i) y).startMove t idx (if limit.isSome then .nanTrap else .ok) .none 0
  | _ => d

def doLoad (t idx : Nat) (d : Dev) : Dev :=
  match (d.tile t).prog with
  | none => d
  | some g => match g.instrs[idx]? with
    | some (.load a b c e f k l m o p q h r u v w x) =>
      let i : SwInstr := .load a b c e f k l m o p q h r u v w x
      if g.moveReady (d.readsOf g) idx i false then d.runLoad t g idx i else d
    | _ => d

def execLoad (t : Tile) (idx : Nat) (s : State) : Out := act s (doLoad t.val idx)

/-- A STORE copies a panel or words of one member into its object. Log entry 47 (DEDUCED). -/
def Dev.runStore (d : Dev) (t : Nat) (g : Prog) (idx : Nat) (i : SwInstr) : Dev :=
  let n := g.clearing
  let d₀ := d
  match i with
  | .store fm blkM fs blkS acc kax rnd member sram _ h off rows cols pitch delta =>
    let o := d.obj (objIndex h)
    let src := fmtOr fs
    let dst := fmtOr fm
    let s := d.tile (g.members[member]?.getD t)
    let raw := if acc then s.rawWords sram rows cols else s.rawPanel d.free src blkS kax sram rows cols
    let draw (e : Nat) : Nat := d.drawAt g.stepKey g.srStream 0 (2 ^ 24 * idx + e)
    let y := convertRaw src dst blkS blkM kax (d.mode n) (d.rounding n rnd.toNat) cols draw raw
    let limit := d.trapLimit n y.1.nans
    let ws := windowWrites dst blkM kax cols (fun r => off + r * pitch) (off + delta)
      (planeShape kax rows cols).2 limit y.1
    match d.tryWrite n o ws with
    | (d, none) => d
    | (d, some x) =>
      let d := d.moveNotes t g idx (d.usesSr n i) y
      if x.status ≠ .ok then d.failMove d₀ t g idx x (hitInfo h o x)
      else d.startMove t idx (if limit.isSome then .nanTrap else .ok) .none 0
  | _ => d

def doStore (t idx : Nat) (d : Dev) : Dev :=
  match (d.tile t).prog with
  | none => d
  | some g => match g.instrs[idx]? with
    | some (.store a b c e f k l m o p h r u v w x) =>
      let i : SwInstr := .store a b c e f k l m o p h r u v w x
      if g.moveReady (d.readsOf g) idx i true then d.runStore t g idx i else d
    | _ => d

def execStore (t : Tile) (idx : Nat) (s : State) : Out := act s (doStore t.val idx)

/-- MOVER_TRANSFER_DONE: the transfer ends, and a failure or a conversion trap stops the program.
Log entry 47 (DEDUCED). -/
def doMoverTransferDone (t idx : Nat) (d : Dev) : Dev :=
  match (d.tile t).prog with
  | none => d
  | some g => match g.movers.find? (·.idx == idx) with
    | none => d
    | some m =>
      let fin (p : Prog) : Prog :=
        { p with movers := p.movers.filter (·.idx != idx), done := p.done ++ [idx] }
      (d.modProg t fun p => if m.status = .ok then fin p else (fin p).stop m.status m.detail m.info).progEnd t

def execMoverTransferDone (t : Tile) (idx : Nat) (s : State) : Out := act s (doMoverTransferDone t.val idx)

end Sys2Proof.Machine
end

