-- ==== Sys2Proof/Machine/Xfers.lean ====
section
/-! DEFINITION. Collective stages and confluences (R265–R270, R285): what a stage sends, how a collector
combines, and what a delivery does. -/

namespace Sys2Proof.Machine
open Sys2Proof

/-! ## The stage of a command -/

def noStage : PlanStage := { ins := [], outs := [], partialOf := none }

/-- The stage that the schedule names for a command. -/
def Dev.stageOfCmd (d : Dev) (c : Cmd) : PlanStage :=
  match d.activity c.actId with
  | some x => x.2.stage
  | none => noStage

/-- The operands of a COLLECTIVE or CONFLUENCE as one record. -/
structure CollArgs where
  carry   : Carry
  round   : Nat
  /-- sources and destinations: 0 object, 1 accumulator slot, 2 forward -/
  srcKind : Nat
  dstKind : Nat
  srcH    : Word
  dstH    : Word
  srcOff  : Nat
  dstOff  : Nat
  src     : Fmt
  dst     : Fmt
  srcTile : Nat
  dstTile : Nat
  srcSlot : Nat
  dstSlot : Nat
  stream  : BitVec 16
  count   : Nat
  /-- a CONFLUENCE: some true for the receiving Commons -/
  confl   : Option Bool
deriving DecidableEq, Repr

def Carry.ofCode (c : Nat) : Carry :=
  match c with
  | 0 => .exact | 1 => .s32 | 2 => .b16 | _ => .copy

def Cmd.collArgs (c : Cmd) : CollArgs :=
  if c.opcode = 4 then
    { carry := Carry.ofCode (fld c.raw 17 1), round := fld c.raw 18 1 % 8, srcKind := fld c.raw 19 1 % 4,
      dstKind := fld c.raw 19 1 / 4 % 4, srcH := c.word 20, dstH := c.word 32, srcOff := fld c.raw 24 6,
      dstOff := fld c.raw 36 6, src := fmtOr (fld c.raw 30 1), dst := fmtOr (fld c.raw 42 1),
      srcTile := fld c.raw 31 1, dstTile := fld c.raw 43 1, srcSlot := fld c.raw 44 1,
      dstSlot := fld c.raw 45 1, stream := BitVec.ofNat 16 (fld c.raw 46 2), count := fld c.raw 48 6,
      confl := none }
  else
    { carry := .exact, round := fld c.raw 18 1 % 8, srcKind := 0, dstKind := 0, srcH := c.word 20,
      dstH := c.word 20, srcOff := fld c.raw 24 6, dstOff := fld c.raw 24 6, src := fmtOr (fld c.raw 30 1),
      dst := fmtOr (fld c.raw 30 1), srcTile := 0, dstTile := 0, srcSlot := 0, dstSlot := 0,
      stream := BitVec.ofNat 16 (fld c.raw 38 2), count := fld c.raw 32 6,
      confl := some (fld c.raw 16 1 == 1) }

/-- The command sends from its source: it has destinations and no earlier partial to forward. -/
def CollArgs.sends (a : CollArgs) (s : PlanStage) : Bool :=
  match a.confl with
  | some r => !r
  | none => !s.outs.isEmpty && s.partialOf.isNone && a.dstKind != 2

/-- The command delivers what its collector slots combine. -/
def CollArgs.receives (a : CollArgs) (s : PlanStage) : Bool :=
  match a.confl with
  | some r => r
  | none => !s.ins.isEmpty

/-- The destination object is named: a delivery into it, or a copy that stays on this device. -/
def CollArgs.namesDst (a : CollArgs) (s : PlanStage) : Bool :=
  match a.confl with
  | some r => r
  | none => a.dstKind == 0 && (a.receives s || (a.carry == .copy && s.outs.any (·.group == 0xFF)))

/-- The handles that the command names: true where it is written. -/
def CollArgs.handles (a : CollArgs) (s : PlanStage) : List (Word × Bool) :=
  (if a.sends s && a.srcKind == 0 then [(a.srcH, false)] else []) ++
    if a.namesDst s then [(a.dstH, true)] else []

/-- The completion source (R285): of the I/O die of the receiving slot, or of the slot sent to. -/
def Dev.collSource (d : Dev) (c : Cmd) : Nat :=
  let s := d.stageOfCmd c
  match s.ins, s.outs with
  | i :: _, _ => 100 + i.slot.toNat / 1024
  | [], o :: _ => 100 + o.slot.toNat / 1024
  | [], [] => 100

/-- Bytes of a line of `count` elements. -/
def CollArgs.lineOk (d : Dev) (h : Word) (f : Fmt) (off count : Nat) : Bool :=
  fits (d.obj (objIndex h)).size [(off, f.bytesOf count)]

/-- The opcode's own checks at decode: its codes, kinds, tiles, slots and ranges (R54, R81, R285, R303). -/
def Dev.collOk (d : Dev) (n : Nat) (c : Cmd) : Bool :=
  let a := c.collArgs
  let s := d.stageOfCmd c
  let known (b : Nat) : Bool := (Fmt.ofCode (fld c.raw b 1)).isSome
  let tile (t : Nat) : Bool := d.tileClr t == some n
  let sr := d.rounding n a.round == .sr && a.receives s && a.dstKind == 0
  let ranges := (a.handles s).all fun h =>
    if h.2 then CollArgs.lineOk d h.1 a.dst a.dstOff a.count else CollArgs.lineOk d h.1 a.src a.srcOff a.count
  roundOk a.round && (!sr || (d.genSlot n).isSome) && ranges &&
    if c.opcode = 4 then
      let op := fld c.raw 16 1
      op ≤ 4 && fld c.raw 17 1 ≤ 3 && decide (3 ≤ op) == (a.carry == .copy) &&
        a.srcKind ≤ 1 && a.dstKind ≤ 2 &&
        (a.srcKind != 0 || !a.sends s || known 30) && (a.dstKind != 0 || !a.namesDst s || known 42) &&
        (a.srcKind != 1 || !a.sends s || (tile a.srcTile && a.srcSlot < 256 && a.count ≤ 1024)) &&
        (a.dstKind != 1 || !a.receives s || (tile a.dstTile && a.dstSlot < 256 && a.count ≤ 1024)) &&
        (a.carry != .copy || !a.sends s || (a.srcKind == 0 && a.src == a.dst))
    else
      fld c.raw 16 1 ≤ 1 && [Fmt.s32, .h16, .b16, .aw].contains a.src && known 30 &&
        (match a.confl with
          | some true => (d.ownerOf n).toNat == 0 && match d.plan.active with
            | some p => p.flows.any fun f => f.kind == 2 && f.src.toNat == n
            | none => false
          | _ => match d.plan.active with
            | some p => p.flows.any fun f => f.kind == 2 && f.contributors.getLsbD n
            | none => false)

/-! ## Elements as they travel (R267, R409) -/

/-- A value rounded to S32 or B16 with RNE for the rounded transport. -/
def roundedWord (f : Fmt) (md : Mode) (v : Val) : AW := BitVec.ofNat 128 (f.convert md .rne 0 v).1

/-- An element in its transport form; `bits` is its code. Words pass as they are on the exact transport. -/
def Carry.word (k : Carry) (src : Fmt) (md : Mode) (code : Nat) : AW :=
  match k with
  | .exact => if src = .aw then BitVec.ofNat 128 code else (Acc.ofVal (src.value code)).word
  | .s32 => roundedWord .s32 md (codeVal src .rne code).1
  | .b16 => roundedWord .b16 md (codeVal src .rne code).1
  | .copy => BitVec.ofNat 128 code

/-- The NaN elements of a source that is formed into words (R409).
Log entries 45 (DEDUCED), 69 (DEDUCED). -/
def sourceNans (k : Carry) (src : Fmt) (codes : List Nat) : List Nat :=
  if k = .copy || (k = .exact && src = .aw) then []
  else (codes.zipIdx.filter fun c => (codeVal src .rne c.1).1.isNan).map (·.2)

/-- Words with LOSS that a rounded transport converts (R106). -/
def sourceLoss (k : Carry) (src : Fmt) (codes : List Nat) : Nat :=
  if (k = .s32 || k = .b16) && src = .aw then (codes.filter fun c => (codeVal src .rne c).2).length else 0

/-- The format code that COLL flits carry, and elements per flit (R247). -/
def Carry.fmt : Carry → Byte
  | .s32 => 8 | .b16 => 6 | _ => 0xA
def Carry.perFlit : Carry → Nat
  | .s32 => 56 | .b16 => 112 | _ => 14

/-! ## Combining (R103, R267) -/

/-- The exact sum of the finite values of a list, as a multiple of 2^g. -/
def sumScaled (g : Int) (vs : List Val) : Int :=
  vs.foldl (fun s v => match v with
    | .fin neg m e => s + scaledInt neg m e g
    | _ => s) 0

/-- The exact sum of S32 or B16 values as one value, to be rounded once. Log entry 69 (DEDUCED). -/
def exactSum (vs : List Val) : Val :=
  let pos := vs.any fun v => v.isInf && !v.neg?
  let neg := vs.any fun v => v.isInf && v.neg?
  if vs.any Val.isNan || (pos && neg) then Val.qnan
  else if pos || neg then .inf neg
  else
    let s := sumScaled (-200) vs
    if s = 0 then Val.zero (!vs.isEmpty && vs.all fun v => v.isZero && v.neg?)
    else .fin (decide (s < 0)) s.natAbs (-200)

/-- One element of the sum of a combining set. Log entry 69 (DEDUCED). -/
def Carry.combine (k : Carry) (md : Mode) (ws : List AW) : AW :=
  match k with
  | .exact => match ws with
    | [] => 0
    | w :: rest => (rest.foldl (fun (x : Acc) y => x.add (Acc.ofWord y)) (Acc.ofWord w)).word
  | .s32 => roundedWord .s32 md (exactSum (ws.map fun w => Fmt.s32.value (w.toNat % 2 ^ 32)))
  | .b16 => roundedWord .b16 md (exactSum (ws.map fun w => Fmt.b16.value (w.toNat % 2 ^ 16)))
  | .copy => ws.headD 0

/-- Elements of chunk `i` of `count`. -/
def chunkLen (count i : Nat) : Nat := min 1024 (count - 1024 * i)

/-- Every slot of the set holds the whole of the chunk that the set takes now. Log entry 69 (DEDUCED). -/
def Dev.setReady (d : Dev) (x : Xfer) : Bool :=
  !x.ins.isEmpty && x.sum.isNone && decide (1024 * x.chunk < x.count) &&
    x.ins.all fun i =>
      let s := d.coll i.slot.toNat
      s.chunk == x.chunk && s.got == chunkLen x.count x.chunk

/-- The sum of a ready set, in the order that the schedule lists its slots. Log entry 69 (DEDUCED). -/
def Dev.combineSet (d : Dev) (x : Xfer) : List AW :=
  (List.range (chunkLen x.count x.chunk)).map fun j =>
    x.carry.combine (d.mode x.clearing) (x.ins.map fun i => Tab.get 0 (d.coll i.slot.toNat).elems j)

/-! ## Sending chunks (R266) -/

/-- The COLL flits of a chunk. Log entry 69 (DEDUCED). -/
def collFlits (x : Xfer) (owner : BitVec 6) (c : TxChunk) : List TxFlit :=
  (runs x.carry.perFlit c.words.length c.words).zipIdx.map fun r =>
    { vc := 1, clearing := x.clearing, owner := owner, dst := some c.out.clr, stream := x.stream,
      queue := x.queue.val, cmdSeq := x.seq,
      body := .coll c.out.slot c.idx (r.2 * x.carry.perFlit) x.carry.fmt r.1 }

/-- A collector slot of this device takes a run of elements of a chunk. -/
def Dev.fillSlot (d : Dev) (slot idx elem : Nat) (ws : List AW) : Dev :=
  d.modColl slot fun s =>
    { s with chunk := idx, got := s.got + ws.length, elems := Tab.setRun 0 s.elems elem ws }

/-- Send one waiting chunk, when its slot is released and a link may carry it; true when it went. -/
def Dev.sendChunk (d : Dev) (x : Xfer) (c : TxChunk) : Dev × Bool :=
  let slot := c.out.slot.toNat
  if c.out.group = 0xFF then
    if (d.coll slot).got = 0 then (d.fillSlot slot c.idx 0 c.words, true) else (d, false)
  else
    let key := (c.out.group, c.out.slot)
    let ls := d.slotLinks c.out.group c.out.slot
    if d.lnk.farBusy.contains key || ls.isEmpty then (d, false)
    else
      let d : Dev := { d with lnk := { d.lnk with farBusy := d.lnk.farBusy ++ [key] } }
      (d.stripe ls (collFlits x (d.ownerOf x.clearing) c), true)

/-- Send every waiting chunk of one transfer that can go. -/
def Dev.pumpOne (d : Dev) (x : Xfer) : Dev :=
  let r := x.waiting.foldl (fun (a : Dev × List TxChunk) c =>
    let y := a.1.sendChunk x c
    (y.1, if y.2 then a.2 else a.2 ++ [c])) (d, [])
  r.1.modXfer x.queue.val x.seq fun y => { y with waiting := r.2 }

/-- Send every chunk that can go. -/
def Dev.pump (d : Dev) : Dev := d.lnk.xfers.foldl (fun d x => d.pumpOne x) d

/-- Some flit of the command is unsent or unacknowledged. -/
def Dev.inFlight (d : Dev) (q : Nat) (seq : Word) : Bool :=
  d.lnk.links.any fun p =>
    p.2.txq.any (fun f => f.of q seq) || p.2.replay.any fun f => f.flit.of q seq

/-- A transfer ends once its sends are acknowledged and its chunks delivered: its command completes OK.
Log entry 69 (DEDUCED). -/
def Dev.endXfer (d : Dev) (q : Nat) (seq : Word) : Dev :=
  match d.xfer q seq with
  | some x =>
    let received := x.ins.isEmpty || decide (x.count ≤ 1024 * x.chunk)
    if x.waiting.isEmpty && received && !d.inFlight q seq then
      let d : Dev := match d.cmd q seq with
        | some c => if x.partial_.isEmpty then d
          else { d with lnk := { d.lnk with
              partials := Tab.set [] d.lnk.partials c.actId.toNat x.partial_ } }
        | none => d
      if x.trapped then (d.closeXfer q seq).finish q seq .nanTrap .none 0
      else (d.closeXfer q seq).finishOk q seq
    else d
  | none => d

/-- Every transfer that has ended completes. -/
def Dev.endXfers (d : Dev) : Dev := d.lnk.xfers.foldl (fun d x => d.endXfer x.queue.val x.seq) d

/-- A transfer stops with a status. Log entry 69 (DEDUCED). -/
def Dev.failXfer (d : Dev) (q : Nat) (seq : Word) (st : Status) (info : BitVec 64) : Dev :=
  (d.dropXfer q seq).finish q seq st .none info

/-! ## Starting a stage -/

/-- The chunks of a list of elements for each destination. -/
def chunksFor (outs : List StageOut) (ws : List AW) : List TxChunk :=
  outs.flatMap fun o => (runs 1024 ws.length ws).zipIdx.map fun c => { out := o, idx := c.2, words := c.1 }

/-- The stage begins: its transfer record, with the chunks it has to send. -/
def Dev.beginXfer (d : Dev) (n q : Nat) (c : Cmd) (a : CollArgs) (ins : List StageIn) (ws : List TxChunk)
    (trapped : Bool := false) : Dev :=
  let x : Xfer :=
    { queue := Fin.ofNat 4096 q, seq := c.seq, clearing := n, stream := d.lnk.nextStream,
      confl := a.confl.isSome, carry := a.carry, count := a.count, ins := ins, chunk := 0, sum := none,
      waiting := ws, partial_ := [], trapped := trapped }
  let d : Dev := { d with lnk := { d.lnk with
    xfers := d.lnk.xfers ++ [x], nextStream := d.lnk.nextStream + 1 } }
  let d := d.modCmd q c.seq fun y => { y with ph := .running }
  d.pump.endXfer q c.seq

/-- The DATA flits of a copy: 224 bytes each, to the object at the destination (R247, R267). -/
def copyFlits (n q : Nat) (owner : BitVec 6) (c : Cmd) (stream : BitVec 16) (o : StageOut) (bs : List Byte) :
    List TxFlit :=
  (runs 224 bs.length bs).zipIdx.map fun r =>
    { vc := 1, clearing := n, owner := owner, dst := some o.clr, stream := stream, queue := q,
      cmdSeq := c.seq, body := .data o.handle (o.off.toNat + 224 * r.2) r.1 }

/-- A copy (ALL_GATHER, BROADCAST) sends the source's bytes to each destination; one on this device is
written at once. -/
def Dev.runCopy (d : Dev) (n q : Nat) (c : Cmd) (a : CollArgs) (s : PlanStage) (bs : List Byte) : Dev :=
  let here := s.outs.filter (·.group == 0xFF)
  let there := s.outs.filter (·.group != 0xFF)
  let go (d : Dev) : Dev :=
    let stream := d.lnk.nextStream
    let d := there.foldl (fun (d : Dev) o =>
      d.stripe (d.groupLinks o.group) (copyFlits n q (d.ownerOf n) c stream o bs)) d
    d.beginXfer n q c a [] []
  if here.isEmpty || a.dstKind != 0 then go d
  else
    let o := d.obj (objIndex a.dstH)
    match d.tryWrite n o [(a.dstOff, bs)] with
    | (d, none) => d
    | (d, some h) =>
      if h.status = .ok then go d else d.completeCmd q c h.status h.detail (hitInfo a.dstH o h) 0

/-- A sweep of a program holds accumulator slot `slot` of tile `t` (R99, R269). -/
def Dev.slotHeld (d : Dev) (t slot : Nat) : Bool :=
  match (d.tile (d.leader t)).prog with
  | some g => g.flights.any (fun f => f.slot == slot) || g.epilogues.any fun i => match g.instrs[i]? with
    | some (SwInstr.sweep _ _ _ _ _ _ _ _ _ _ _ _ s _ _ _ _ _ _ _ _ _ _) => s == slot
    | _ => false
  | none => false

/-- The codes of the source: an object's elements or an accumulator slot's words. None where the read
must wait; a status where it fails. -/
def Dev.collSourceCodes (d : Dev) (n q : Nat) (c : Cmd) (a : CollArgs) : Dev × Option (Hit × List Nat) :=
  if a.srcKind = 1 then
    if d.slotHeld a.srcTile a.srcSlot then (d, none)
    else (d, some (Hit.ok, (((d.tile a.srcTile).slotWords a.srcSlot).take a.count).map (·.toNat)))
  else
    let o := d.obj (objIndex a.srcH)
    match d.tryRead n (c.holder q) a.srcH o [(a.srcOff, a.src.bytesOf a.count)] with
    | (d, none) => (d, none)
    | (d, some h) => (d, some (h, a.src.unpack a.count (d.readObj o a.srcOff (a.src.bytesOf a.count))))

/-- The source format: words in an accumulator slot. -/
def CollArgs.srcFmt (a : CollArgs) : Fmt := if a.srcKind = 1 then .aw else a.src

/-- A started stage sends its source, or an earlier stage's partial, and takes up its combining set.
Log entry 69 (DEDUCED). -/
def Dev.runStage (d : Dev) (n q : Nat) (c : Cmd) (a : CollArgs) (ins : List StageIn) : Dev :=
  let s := d.stageOfCmd c
  if !a.sends s then
    let ws := match s.partialOf with
      | some p => if a.dstKind = 2 then [] else chunksFor s.outs (Tab.get [] d.lnk.partials p.toNat)
      | none => []
    d.beginXfer n q c a ins ws
  else match d.collSourceCodes n q c a with
    | (d, none) => d
    | (d, some x) =>
      if x.1.status ≠ .ok then
        d.completeCmd q c x.1.status .none (hitInfo a.srcH (d.obj (objIndex a.srcH)) x.1) 0
      else if a.carry = .copy then
        d.runCopy n q c a s (d.readObj (d.obj (objIndex a.srcH)) a.srcOff (a.src.bytesOf a.count))
      else
        let ws := x.2.map (a.carry.word a.srcFmt (d.mode n))
        let nans := sourceNans a.carry a.srcFmt x.2
        let d := (d.convNans n 3 0 q c.seq 0 nans).lossConversions n (sourceLoss a.carry a.srcFmt x.2)
        match d.trapLimit n nans with
        | some k => d.beginXfer n q c a [] (chunksFor s.outs (ws.take (32 * (k / 32)))) true
        | none => d.beginXfer n q c a ins (chunksFor s.outs ws)

/-- COLLECTIVE (R265): a started stage runs. -/
def doCollective (q : Nat) (seq : Word) (d : Dev) : Dev :=
  match d.cmd q seq, d.queueClr q with
  | some c, some n =>
    if c.opcode = 4 && c.ph = .started then d.runStage n q c c.collArgs (d.stageOfCmd c).ins else d
  | _, _ => d

def execCollective (q : Que) (seq : Word) (s : State) : Out := act s (doCollective q.val seq)

/-! ## The confluence (R19, R270) -/

/-- The plan's CONTRIBUTORS mask of the confluence into clearing `n` (R54). -/
def Dev.contributors (d : Dev) (n : Nat) : BitVec 16 :=
  match d.plan.active with
  | some p => match p.flows.find? fun f => f.kind == 2 && f.src.toNat == n with
    | some f => f.contributors
    | none => 0
  | none => 0

/-- A named holding is in service: on this device, its clearing is ACTIVE and not OUT_OF_SERVICE. A holding of
another device always counts as in service: the spec does not say how the receiving device would know otherwise.
Log entry 114 (DESIGN CHOICE). -/
def Dev.inService (d : Dev) (i : StageIn) : Bool :=
  i.addr != d.addr || ((d.clr i.clr.toNat).st == .active && !d.outOfService i.clr.toNat)

/-- The combining set of a confluence into clearing `n`: the slots of the contributors in service. -/
def Dev.confluenceIns (d : Dev) (n : Nat) (c : Cmd) : List StageIn :=
  (d.stageOfCmd c).ins.filter fun i => (d.contributors n).getLsbD i.clr.toNat && d.inService i

/-- How many holdings a set's slots belong to. -/
def holdingsOf (ins : List StageIn) : Nat := (ins.map fun i => (i.addr, i.clr)).dedup.length

/-- CONFLUENCE: a holding contributes exact words; the Commons receives from the named holdings in service, or,
where these are fewer than the quorum, completes QUORUM_UNMET with nothing written. -/
def doConfluence (q : Nat) (seq : Word) (d : Dev) : Dev :=
  match d.cmd q seq, d.queueClr q with
  | some c, some n =>
    if c.opcode != 5 || c.ph != .started then d
    else
      let a := c.collArgs
      if a.confl = some true then
        let ins := d.confluenceIns n c
        let quorum := match d.plan.active with | some p => p.quorum.toNat | none => 0
        if holdingsOf ins < quorum then
          let d := (d.stageOfCmd c).ins.foldl Dev.releaseSlot d
          d.completeCmd q c .quorumUnmet .none (BitVec.ofNat 64 (holdingsOf ins + 256 * quorum)) 0
        else d.runStage n q c a ins
      else d.runStage n q c a []
  | _, _ => d

def execConfluence (q : Que) (seq : Word) (s : State) : Out := act s (doConfluence q.val seq)

/-! ## COMBINE_DONE and COLLECTOR_DELIVERY (R268, R269) -/

/-- The counts of word sums: LOSS_SEEN and SAT_SEEN where a sum set what none of its words had, and each clamped
word in NUM_SAT_COUNT (R103). A word sum sets no ESC_SEEN, which is a sweep's. -/
def numSums (sums : List (List AW × AW)) (x : Num) : Num :=
  let news (p : Acc → Bool) : Nat :=
    (sums.filter fun s => p (Acc.ofWord s.2) && !s.1.any fun w => p (Acc.ofWord w)).length
  let st := putBit x.status 2 (x.status.getLsbD 2 || news (·.loss) != 0)
  { x with status := putBit st 3 (st.getLsbD 3 || news (·.sat) != 0), sat := satAdd x.sat (news (·.sat)) }

/-- The words of a ready set with their sum, element by element. -/
def Dev.setSums (d : Dev) (x : Xfer) : List (List AW × AW) :=
  if x.carry = .exact then
    (d.combineSet x).zipIdx.map fun w => (x.ins.map fun i => Tab.get 0 (d.coll i.slot.toNat).elems w.2, w.1)
  else []

/-- COMBINE_DONE: a set whose chunks are all present is added, and its slots are zeroed and released. -/
def doCombineDone (q : Nat) (seq : Word) (d : Dev) : Dev :=
  match d.xfer q seq with
  | some x =>
    if d.setReady x then
      let s := d.combineSet x
      let d := d.modNum x.clearing (numSums (d.setSums x))
      let d := x.ins.foldl Dev.releaseSlot d
      (d.modXfer q seq fun y => { y with sum := some s }).pump
    else d
  | none => d

def execCombineDone (q : Que) (seq : Word) (s : State) : Out := act s (doCombineDone q.val seq)

/-- The value of a combined element, with its LOSS mark. -/
def Carry.value (k : Carry) (rm : Rm) (w : AW) : Val × Bool :=
  match k with
  | .s32 => (Fmt.s32.value (w.toNat % 2 ^ 32), false)
  | .b16 => (Fmt.b16.value (w.toNat % 2 ^ 16), false)
  | _ => codeVal .aw rm w.toNat

/-- A combined element as a word, for an accumulator slot. -/
def Carry.asWord (k : Carry) (w : AW) : Acc :=
  match k with
  | .exact => Acc.ofWord w
  | _ => Acc.ofVal (k.value .rne w).1

/-- The chunk is delivered: the set takes its next chunk. -/
def Dev.nextChunk (d : Dev) (q : Nat) (seq : Word) : Dev :=
  ((d.modXfer q seq fun y => { y with sum := none, chunk := y.chunk + 1 }).pump).endXfer q seq

/-- A delivery into an object: converted once under R106, or words stored as they are. -/
def Dev.deliverObject (d : Dev) (x : Xfer) (c : Cmd) (a : CollArgs) (ws : List AW) : Dev :=
  let q := x.queue.val
  let n := x.clearing
  let rm := d.rounding n a.round
  let first := 1024 * x.chunk
  let raw := a.dst = .aw && x.carry = .exact
  let conv : Conv :=
    if raw then { codes := [ws.map (·.toNat)], scales := [], nans := [] }
    else convertWindow a.dst .s32 false false (d.mode n) rm ws.length
      (fun i => d.drawAt c.stepKey a.stream 0 (first + i)) [ws.map fun w => (x.carry.value rm w).1]
  let loss := if raw then 0 else (ws.filter fun w => (x.carry.value rm w).2).length
  let limit := d.trapLimit n conv.nans
  let nans := conv.nans.map (first + ·)
  let off := a.dstOff + a.dst.bytesOf first
  let out := windowWrites a.dst false false ws.length (fun _ => off) 0 0 limit conv
  let o := d.obj (objIndex a.dstH)
  match d.tryWrite n o out with
  | (d, none) => d
  | (d, some h) =>
    let d := ((d.convNans n 3 0 q c.seq 0 nans).lossConversions n loss).drew (rm == .sr && !raw) a.stream
    if h.status ≠ .ok then (d.dropXfer q c.seq).completeCmd q c h.status h.detail (hitInfo a.dstH o h) 0
    else if limit.isSome then (d.dropXfer q c.seq).completeCmd q c .nanTrap .none 0 0
    else d.nextChunk q c.seq

/-- COLLECTOR_DELIVERY: the sum of a chunk is forwarded, converted into an object, or added into an
accumulator slot that no sweep holds. -/
def doCollectorDelivery (q : Nat) (seq : Word) (d : Dev) : Dev :=
  match d.xfer q seq, d.cmd q seq with
  | some x, some c => match x.sum with
    | some ws =>
      let a := c.collArgs
      let s := d.stageOfCmd c
      if a.dstKind = 2 then
        let d := d.modXfer q seq fun y =>
          { y with partial_ := y.partial_ ++ ws,
                   waiting := y.waiting ++ s.outs.map fun o => { out := o, idx := y.chunk, words := ws } }
        d.nextChunk q seq
      else if a.dstKind = 1 then
        if d.slotHeld a.dstTile a.dstSlot then d
        else
          let first := 1024 * a.dstSlot + 1024 * x.chunk
          let olds := ws.zipIdx.map fun w => (d.tile a.dstTile).word (first + w.2)
          let adds := ws.map x.carry.asWord
          let sums := (olds.zip adds).map fun w => ((Acc.ofWord w.1).add w.2).word
          let d := d.modNum x.clearing
            (numSums ((olds.zip adds).zip sums |>.map fun w => ([w.1.1, w.1.2.word], w.2)))
          let d := d.modTile a.dstTile fun t =>
            sums.zipIdx.foldl (fun (t : TileSt) w => { t with acc := Tab.set 0 t.acc (first + w.2) w.1 }) t
          d.nextChunk q seq
      else d.deliverObject x c a ws
    | none => d
  | _, _ => d

def execCollectorDelivery (q : Que) (seq : Word) (s : State) : Out := act s (doCollectorDelivery q.val seq)

end Sys2Proof.Machine
end

