-- ==== Sys2Proof/Machine/Fabric.lean ====
section
/-! DEFINITION. The commands of the links (R245–R263): training, admission, the flit slots of a frame, and
received flits. -/

namespace Sys2Proof.Machine
open Sys2Proof

/-! ## Shares (R251, R252) -/

/-- Bit 5 of a slot number becomes bit 0. -/
def bitrev6 (i : Nat) : Nat :=
  32 * (i % 2) + 16 * (i / 2 % 2) + 8 * (i / 4 % 2) + 4 * (i / 8 % 2) + 2 * (i / 16 % 2) + i / 32 % 2

inductive Share where | data | strand | tidectl | cover
deriving DecidableEq, Repr

/-- The share that slot `i` of a frame belongs to. -/
def shareOf (e : PlanLink) (i : Nat) : Share :=
  let r := bitrev6 i
  if r < e.data.toNat then .data
  else if r < e.data.toNat + e.strand.toNat then .strand
  else if r < e.data.toNat + e.strand.toNat + e.tidectl.toNat then .tidectl
  else .cover

/-- The clearing whose cumulative fraction first exceeds `x`. -/
def fractionOwner : List Byte → Nat → Nat → Nat → Option Nat
  | [], _, _, _ => none
  | f :: fs, n, sum, x =>
    if x < sum + f.toNat then some n else fractionOwner fs (n + 1) (sum + f.toNat) x

/-- The clearing that DATA slot `i` of a frame belongs to. -/
def dataOwner (e : PlanLink) (fs : List Byte) (i : Nat) : Option Nat :=
  let d := ((List.range i).filter fun j => shareOf e j == .data).length
  fractionOwner fs 0 0 (d * 64 / e.data.toNat)

/-! ## Sending (R248, R249, R253–R255) -/

def TxBody.isCover : TxBody → Bool
  | .cover => true
  | _ => false

/-- The generation last received for a flit's destination (R261). -/
def Dev.dstGen (d : Dev) (l : Nat) (f : TxFlit) : BitVec 12 :=
  match f.dst with
  | some n => Tab.get 0 d.lnk.nbrGens (1024 * l + n.toNat)
  | none => 0

/-- The flit that goes out next on a link, sealed (R247, R248). -/
def Dev.seal (d : Dev) (l : Nat) (f : TxFlit) : SentFlit :=
  let k := d.link l
  let ack : Word := (k.rxSeq - 1).setWidth 32
  { seq := k.txSeq, ack := ack, gen := d.dstGen l f, keyEpoch := k.txSeq.toNat / 2 ^ 32, flit := f,
    wire := flitWire (k.txKey k.txSeq) (flitIv k.txSeq l) (k.plainOf f ack (d.dstGen l f)) }

/-- A flit goes out under the next SEQ and stays in the replay buffer. A COVER flit takes no credit. -/
def Dev.transmit (d : Dev) (l : Nat) (f : TxFlit) : Dev :=
  let sf := d.seal l f
  (d.modLink l fun k =>
    { k with txSeq := k.txSeq + 1, replay := k.replay ++ [sf], ackDue := false,
             resend := if k.resend.isEmpty then [] else k.resend ++ [sf],
             spent := if f.body.isCover then k.spent else Tab.mod 0 k.spent f.vc (· + 1) }).emit
    (.flit (Fin.ofNat 64 l) sf.wire)

/-- A credit of the virtual channel is left. -/
def Link.hasCredit (k : Link) (vc : Nat) : Bool := decide (Tab.get 0 k.spent vc < 64)

/-- The replay buffer holds 1,024 flits: no new flit goes out. -/
def Link.full (k : Link) : Bool := decide (1024 ≤ k.replay.length)

/-- A flit that no command sends: control, tide or cover. -/
def plainFlit (vc : Nat) (b : TxBody) : TxFlit :=
  { vc := vc, clearing := 16, owner := 0, dst := none, stream := 0, queue := 0, cmdSeq := 0, body := b }

/-- Send the first waiting flit that `p` picks and that has a credit. -/
def Dev.sendFirst (d : Dev) (l : Nat) (p : TxFlit → Bool) : Option Dev :=
  let k := d.link l
  let ok (f : TxFlit) : Bool := p f && k.hasCredit f.vc
  match k.txq.find? ok with
  | some f => some ((d.modLink l fun k => { k with txq := k.txq.eraseP ok }).transmit l f)
  | none => none

/-- CREDIT returns what is owed: credits by virtual channel, and released collector slots.
Log entry 71 (DESIGN CHOICE). -/
def Dev.sendCredit (d : Dev) (l : Nat) : Option Dev :=
  let k := d.link l
  if (k.owed.isEmpty && k.released.isEmpty) || !k.hasCredit 5 then none
  else
    let m := CtrlMsg.credit ((List.range 8).map fun v => Tab.get 0 k.owed v) k.released
    some ((d.modLink l fun k => { k with owed := [], released := [] }).transmit l (plainFlit 5 (.ctrl m)))

/-- Log entry 71 (DESIGN CHOICE). -/
def Dev.sendCtrlSlot (d : Dev) (l : Nat) : Option Dev :=
  match d.sendFirst l (·.vc == 5) with
  | some d => some d
  | none => d.sendCredit l

/-- A clearing whose DATA slots carry COVER: under a scrub, or fenced (R264, R354). -/
def Dev.quiet (d : Dev) (n : Nat) : Bool := (d.frame n).scrub || (d.clr n).st == .fenced || (d.clr n).fencing

/-- The new flit that a slot of a share sends, where it has one. The DATA and STRAND slots of a link whose far end does
not match stay empty (R70). -/
def Dev.slotFlit (d : Dev) (l : Nat) (e : PlanLink) (fs : List Byte) (i : Nat) : Option Dev :=
  match shareOf e i with
  | .data => match dataOwner e fs i with
    | some n => if d.quiet n || !d.linkMatch l then none
        else d.sendFirst l fun f => f.clearing == n && f.vc < 4 && f.vc != 2
    | none => none
  | .strand => if d.linkMatch l then d.sendFirst l (·.vc == 2) else none
  | .tidectl => d.sendCtrlSlot l
  | .cover => none

/-- The share of a flit. -/
def TxFlit.share (f : TxFlit) : Share :=
  if f.body.isCover then .cover
  else if f.vc < 4 then (if f.vc = 2 then .strand else .data)
  else .tidectl

/-- Resend the oldest flit that awaits it, byte for byte (R249). Log entry 70 (DEDUCED). -/
def Dev.resendOne (d : Dev) (l : Nat) : Option Dev :=
  match (d.link l).resend with
  | f :: fs => some ((d.modLink l fun k => { k with resend := fs, retx := satInc k.retx }).emit
      (.flit (Fin.ofNat 64 l) f.wire))
  | [] => none

/-- An empty slot: a COVER flit in Shaded mode, else the idle pattern (R254). -/
def Dev.emptySlot (d : Dev) (l : Nat) : Dev :=
  let shaded := match d.plan.active with | some p => p.device.shaded == 1 | none => false
  if !shaded || (d.link l).full then d.emit (.idle (Fin.ofNat 64 l)) else d.transmit l (plainFlit 0 .cover)

/-- Up to seven waiting tide records share a TIDE flit. -/
def Dev.sendTideFlit (d : Dev) (l : Nat) : Dev :=
  let rs := (d.link l).tideQ
  (d.modLink l fun k => { k with tideQ := rs.drop 7 }).transmit l (plainFlit 4 (.tide (rs.take 7)))

/-- The slot that counts: a TIDECTL slot stands in for the first displaced slot (R253). -/
def Link.effective (k : Link) (e : PlanLink) (i : Nat) : Nat × List Nat :=
  match k.displaced with
  | j :: js => if shareOf e i = .tidectl then (j, js) else (i, k.displaced)
  | [] => (i, [])

/-- A slot of a link that carries every share: a tide record first, then a resend in a COVER slot or in its
own share, then a new flit of the share. -/
def Dev.carrySlot (d : Dev) (l : Nat) (e : PlanLink) (fs : List Byte) (i : Nat) : Dev :=
  let k := d.link l
  if !k.tideQ.isEmpty && k.hasCredit 4 && !k.full then
    let d := d.sendTideFlit l
    if shareOf e i = .tidectl then d
    else d.modLink l fun k => { k with displaced := k.displaced ++ [i] }
  else
    let x := k.effective e i
    let d := d.modLink l fun k => { k with displaced := x.2 }
    match k.resend with
    | f :: _ =>
      if shareOf e x.1 = .cover || shareOf e x.1 = f.flit.share then (d.resendOne l).getD d else d.emptySlot l
    | [] =>
      let d := if shareOf e x.1 = .strand then d.pullStrand l else d
      if k.full then d.emptySlot l
      else match d.slotFlit l e fs x.1 with
        | some d => d
        | none => d.emptySlot l

/-- A slot of any other UP link: CTRL flits only, and COVER in Shaded mode (R258). -/
def Dev.ctrlSlot (d : Dev) (l : Nat) : Dev :=
  if !(d.link l).resend.isEmpty then (d.resendOne l).getD d
  else if (d.link l).full then d.emptySlot l
  else match d.sendCtrlSlot l with
    | some d => d
    | none => d.emptySlot l

/-- A slot of a link of a CRITICAL I/O die: TIDE and CTRL flits only (R388). -/
def Dev.criticalSlot (d : Dev) (l : Nat) : Dev :=
  let k := d.link l
  if k.full then d.emit (.idle (Fin.ofNat 64 l))
  else if !k.tideQ.isEmpty && k.hasCredit 4 then d.sendTideFlit l
  else (d.sendCtrlSlot l).getD (d.emit (.idle (Fin.ofNat 64 l)))

/-- The plan entry and the fractions that frames follow. -/
def Dev.frameOf (d : Dev) (l : Nat) : Option (PlanLink × List Byte) :=
  match d.plan.active with
  | some p => match p.links[l]? with
    | some e => some (e, (p.fractions[e.group.toNat]?).getD [])
    | none => none
  | none => none

/-- The key of the next SEQ is not yet agreed (R250). -/
def Link.keyLate (k : Link) : Bool := decide (k.keyEpoch < k.txSeq.toNat / 2 ^ 32)

/-- FLIT_SLOT_SEND. -/
def doFlitSlotSend (l : Nat) (d : Dev) : Dev :=
  let k := d.link l
  if k.st ≠ .up then d
  else if k.keyLate then (d.linkFails l).raise .lnk 5
  else if k.txSeq = BitVec.allOnes 48 then d.linkFails l
  else
    let i := k.slot.toNat
    let d := if i = 0 then d.modLink l fun k => { k with frame := d.frameOf l } else d
    let d := d.modLink l fun k => { k with slot := k.slot + 1 }
    if d.ioCritical l then d.criticalSlot l
    else match d.linkCarries l, (d.link l).frame with
      | true, some x => d.carrySlot l x.1 x.2 i
      | _, _ => d.ctrlSlot l

def execFlitSlotSend (l : Lnk) (s : State) : Out := act s (doFlitSlotSend l.val)

/-! ## Training and admission (R246, R250, R256–R258) -/

/-- LINK_TRAINING_START: light and laser input are present. -/
def doLinkTrainingStart (l : Nat) (d : Dev) : Dev :=
  d.modLink l fun k =>
    { k with light := true, laserOk := true,
             st := if k.st = .down && !k.retrainDue then .optical else k.st }

def execLinkTrainingStart (l : Lnk) (s : State) : Out := act s (doLinkTrainingStart l.val)

/-- The spare wavelength: the one that failed, else λ8. -/
def spareWave (failed : BitVec 9) : BitVec 4 :=
  match (List.range 9).find? failed.getLsbD with
  | some i => BitVec.ofNat 4 i
  | none => 8

/-- OPTICAL_TRAINING_DONE: the wavelength tests end; two failures leave the link DOWN. -/
def doOpticalTrainingDone (l : Nat) (failed : BitVec 9) (d : Dev) : Dev :=
  if (d.link l).st ≠ .optical then d
  else if 2 ≤ (bitsOf failed.toNat 9).length then
    ((d.takeDown l).modLink l fun k => { k with failed := failed }).raise .lnk 3
  else d.modLink l fun k => { k with failed := failed, spare := spareWave failed, st := .keyx }

/-- Log entry 98 (DESIGN CHOICE). -/
def execOpticalTrainingDone (l : Lnk) (failed : BitVec 9) (s : State) : Out :=
  act s (doOpticalTrainingDone l.val failed)

/-- The device's own HELLO on a link (R257); a device that is no member sends SET_PROOF as 0. Log entry 71 (DESIGN
CHOICE). -/
def Dev.helloMsg (d : Dev) (l : Nat) : CtrlMsg :=
  let shaded := match d.plan.active with | some p => p.device.shaded == 1 | none => false
  let topo := match d.plan.active with | some p => p.device.topoHash | none => 0
  let fields (setId : Word) (epoch : BitVec 16) : List Byte :=
    helloFields d.addr l d.identity setId epoch d.benchActive d.planActive shaded topo
  match d.sec.member with
  | some m =>
    let fs := fields m.setId m.epoch
    .hello (fs ++ setProof (d.slot 2).key fs (d.link l).transcript)
  | none => .hello (fields 0 0 ++ zeros 16)

/-- A far HELLO's SET_PROOF verifies under slot 0x02 of the current epoch or, from slot 0x01, of the previous one. -/
def Dev.proofOk (d : Dev) (l : Nat) (h : Hello) : Bool :=
  let fs := helloFields h.addr h.link.toNat h.identity h.setId h.setEpoch h.bench h.planActive h.shaded h.planTopo
  let fits (key : B256) : Bool := h.proof == setProof key fs (d.link l).transcript
  ((d.slot 2).loaded && fits (d.slot 2).key) ||
    ((d.slot 1).loaded && fits (Config.kdf (d.slot 1).key [2]))

/-- HELLO goes out as the first flit of a session. -/
def Dev.sendHello (d : Dev) (l : Nat) : Dev := d.transmit l (plainFlit 5 (.ctrl (d.helloMsg l)))

/-- KEYX: of training, the session keys are agreed and HELLO goes out as the first flit; of a rekey, the next
keys are agreed. A chain that does not verify ends training. Log entry 71 (DESIGN CHOICE). -/
def doKeyx (l : Nat) (chainOk : Bool) (keys : B256) (transcript : B256) (d : Dev) : Dev :=
  let k := d.link l
  let pair : BitVec 128 × BitVec 128 := (firstHalf keys, keys.setWidth 128)
  if k.st = .keyx then
    if chainOk then
      (d.modLink l fun k =>
        { k with st := .hello, txSeq := 0, rxSeq := 0, keyEpoch := 0, slot := 0, keys := [pair],
                 transcript := transcript }).sendHello l
    else d.takeDown l
  else if k.st = .up then
    let d := d.rxFlit l 5 true
    if k.rekeying && chainOk then
      d.modLink l fun k =>
        { k with rekeying := false, keyEpoch := k.keyEpoch + 1, keys := k.keys ++ [pair], rekeys := satInc k.rekeys }
    else d
  else d

/-- The far chain is verified to the authority of this device's ordering code, and the exchange gives two keys and a
transcript: this end's ephemeral key and chain, and the far end's. -/
def execKeyx (l : Lnk) (chain : List Byte) (s : State) (ephemeral : List Byte := []) : Out :=
  act s fun d => (doKeyx l.val (Config.linkChainOk d.pins.orderingSe chain) (Config.linkKeys d.free ephemeral chain)
    (Config.sm3 (Config.ephemeral d.free ++ Config.linkChain ++ ephemeral ++ chain)) d).tick

/-- The admission of a link (R258). -/
def Dev.admission (d : Dev) (h : Hello) (proofOk : Bool) : Admit :=
  match d.sec.member with
  | some m => if m.setId == h.setId && h.setId != 0 && proofOk then .member else .foreign
  | none => if h.setId = 0 && h.bench && d.benchActive then .bench else .foreign

/-- Flits that wait on a DOWN link of the group move to a link that has come UP. -/
def Dev.rescue (d : Dev) (l : Nat) : Dev :=
  match d.linkEntry l with
  | none => d
  | some e =>
    let downs := (List.range 64).filter fun x => x != l && (d.link x).st == .down &&
      (match d.linkEntry x with | some y => y.group == e.group | none => false)
    downs.foldl (fun d x =>
      let fs := (d.link x).txq
      let d := d.modLink x fun k => { k with txq := [] }
      fs.foldl (fun d f => d.moveFlit x e.group f) d) d

/-- HELLO: the far end is admitted and the link is UP. Log entry 71 (DESIGN CHOICE). -/
def doHello (l : Nat) (h : Hello) (proofOk : Bool) (d : Dev) : Dev :=
  if (d.link l).st ≠ .hello then d
  else
    let a := d.admission h proofOk
    let d := d.modLink l fun k =>
      { k with st := .up, adm := a, roleGen := k.roleGen + 1, farAddr := h.addr, farLink := h.link,
               farIdent := h.identity, rxSeq := k.rxSeq + 1, ackDue := true }
    let d := (d.raise .lnk 0).raiseIf (a == .foreign) .lnk 2
    let d := d.topoUpdate.announce
      [{ kind := 2, unit := BitVec.ofNat 8 l, gen := (d.link l).roleGen }]
    (d.rescue l).pump

def execHello (l : Lnk) (h : Hello) (s : State) : Out := act s fun d => doHello l.val h (d.proofOk l.val h) d

/-- LINK_DOWN: a cause of R260. -/
def doLinkDown (l : Nat) (why : DownCause) (d : Dev) : Dev :=
  let d := if (d.link l).st = .down then d else d.linkFails l
  match why with
  | .lightLoss => d.modLink l fun k => { k with light := false }
  | .laserLoss => (d.modLink l fun k => { k with laserOk := false }).raise .lnk 4
  | .rekeyFail => d.raise .lnk 5
  | .fecErrors => d
  | .tagFailures => d
  | .replayHold => d

/-- Log entry 98 (DESIGN CHOICE). -/
def execLinkDown (l : Lnk) (why : DownCause) (s : State) : Out := act s (doLinkDown l.val why)

/-- LINK_RETRAIN_TIMER: 100 µs after DOWN, training begins again where light and laser input are present. -/
def doLinkRetrainTimer (l : Nat) (d : Dev) : Dev :=
  d.modLink l fun k =>
    if k.st = .down && k.retrainDue then
      { k with retrainDue := false, st := if k.light && k.laserOk then .optical else .down }
    else k

def execLinkRetrainTimer (l : Lnk) (s : State) : Out := act s (doLinkRetrainTimer l.val)

/-- LNK_RETRAIN.GO. -/
def doLnkRetrain (l : Nat) (d : Dev) : Dev := d.linkFails l

def execLnkRetrain (l : Lnk) (s : State) : Out := act s (doLnkRetrain l.val)

/-- LINK_REKEY (R250): at SEQ[31:0] = 0x8000_0000 a fresh exchange starts; a link without the next keys at
the boundary goes DOWN; one that reaches the last SEQ retrains. -/
def doLinkRekey (l : Nat) (d : Dev) : Dev :=
  let k := d.link l
  if k.st ≠ .up then d
  else if k.keyLate then (d.linkFails l).raise .lnk 5
  else if k.txSeq = BitVec.allOnes 48 then d.linkFails l
  else if !k.rekeying && k.txSeq.getLsbD 31 && k.keyEpoch == k.txSeq.toNat / 2 ^ 32 then
    (d.modLink l fun k => { k with rekeying := true }).sendCtrl l (.keyx (Config.ephemeral d.free ++ Config.linkChain))
  else d

def execLinkRekey (l : Lnk) (s : State) : Out := act s (doLinkRekey l.val)

/-! ## Received flits (R249, R254, R258, R261–R263, R266) -/

/-- After an acknowledgement, credit or arrival, transfers that have ended complete and waiting chunks go. -/
def Dev.settleLinks (d : Dev) : Dev := d.pump.endXfers.settleStage

/-- A DATA flit may write the object that its handle names. Log entry 70 (DEDUCED). -/
def Dev.dataAllowed (d : Dev) (h : FlitHdr) (handle : Word) (off n : Nat) : Bool :=
  let o := d.obj (objIndex handle)
  (d.planClr h.dst.toNat).isSome && h.srcOwner == d.ownerOf h.dst.toNat && d.liveHandle handle &&
    o.clearing == h.dst && o.holds off n && decide (1 ≤ n) && decide (n ≤ 224) && h.dstKind.toNat < 2

/-- DATA_FLIT: checked, and written into its object. While the write must wait the flit is not taken. -/
def doDataFlit (l : Nat) (h : FlitHdr) (tagOk : Bool) (handle : Word) (off : Nat) (bs : List Byte) (d : Dev) : Dev :=
  let o := d.obj (objIndex handle)
  let n := h.dst.toNat
  let waits := d.linkCarries l && tagOk && h.seq == (d.link l).rxSeq && (d.staleGen l h).isNone &&
    d.dataAllowed h handle off bs.length && d.objWaits o off bs.length
  if waits then d.hurryPieces o [(off, bs)]
  else (d.receive l h tagOk (fun d => d.dataAllowed h handle off bs.length) fun d =>
    if d.flt.cliff then d else (d.tryWrite n o [(off, bs)]).1).settleLinks

/-- Log entry 21 (DESIGN CHOICE). -/
def execDataFlit (l : Lnk) (h : FlitHdr) (handle : Word) (off : BitVec 48) (bytes : List Byte) (s : State) :
    Out := act s fun d =>
      doDataFlit l.val h (d.flitOpens l.val h (.data handle off.toNat bytes)) handle off.toNat bytes d

/-- The schedule assigns the collector slot to the sending device and clearing, of whatever owner (R263), and it
is free or takes this chunk. -/
def Dev.collAllowed (d : Dev) (l : Nat) (h : FlitHdr) (slot : BitVec 12) (chunk elem n : Nat) : Bool :=
  let x := d.coll slot.toNat
  let i : StageIn := { slot := slot, addr := (d.link l).farAddr, clr := h.src }
  (match d.plan.active with
    | some p => p.templates.any fun t => t.acts.any fun a =>
        a.clearing.toNat == h.dst.toNat && a.stage.ins.contains i
    | none => false) &&
    (x.got == 0 || x.chunk == chunk) && elem + n ≤ 1024

/-- COLL_FLIT. -/
def doCollFlit (l : Nat) (h : FlitHdr) (tagOk : Bool) (slot : BitVec 12) (chunk elem : Nat) (elems : List AW)
    (d : Dev) : Dev :=
  (d.receive l h tagOk (fun d => d.collAllowed l h slot chunk elem elems.length) fun d =>
    d.fillSlot slot.toNat chunk elem elems).settleLinks

def execCollFlit (l : Lnk) (h : FlitHdr) (slot : BitVec 12) (chunk : Word) (elem : BitVec 10) (fmt : Byte)
    (elems : List AW) (s : State) : Out :=
  act s fun d => doCollFlit l.val h (d.flitOpens l.val h (.coll slot chunk.toNat elem.toNat fmt elems)) slot
    chunk.toNat elem.toNat elems d

/-- COVER_FLIT: verified and discarded. One of a reserved KIND is verified, dropped and counted (R247).
Log entry 70 (DEDUCED). -/
def doCoverFlit (l : Nat) (h : FlitHdr) (tagOk reserved : Bool) (d : Dev) : Dev :=
  if (d.link l).st ≠ .up then d
  else if !tagOk || h.seq != (d.link l).rxSeq then d.tagFails l tagOk
  else if reserved then (d.takeFlit l h true).countDeny.settleLinks
  else (d.takeFlit l h false).settleLinks

def execCoverFlit (l : Lnk) (h : FlitHdr) (s : State) (reserved : Option (Fin 10 × List Byte) := none) : Out :=
  act s fun d => doCoverFlit l.val h (match reserved with
    | some r => d.wireOpens l.val h (reservedWire r)
    | none => d.flitOpens l.val h .cover) reserved.isSome d

/-- A control message arrives on an UP link. -/
def Dev.control (d : Dev) (l : Nat) (f : Dev → Dev) : Dev :=
  if (d.link l).st = .up then f (d.rxFlit l 5 true) else d

/-- NAK: everything from the failed SEQ on is resent. -/
def doNak (l : Nat) (seq : BitVec 48) (d : Dev) : Dev :=
  d.control l fun d => d.modLink l fun k =>
    { k with resend := k.replay.filter fun f => seq.toNat ≤ f.seq.toNat }

def execNak (l : Lnk) (seq : BitVec 48) (s : State) : Out := act s (doNak l.val seq)

/-- ACK frees the replay buffer. -/
def doAck (l : Nat) (seq : BitVec 48) (d : Dev) : Dev :=
  d.control l fun d => (d.acked l (seq.setWidth 32)).settleLinks

def execAck (l : Lnk) (seq : BitVec 48) (s : State) : Out := act s (doAck l.val seq)

/-- ACK_IDLE_TIMEOUT: an ACK goes out where no flit has carried ACK_SEQ. -/
def doAckIdleTimeout (l : Nat) (d : Dev) : Dev :=
  if (d.link l).st = .up && (d.link l).ackDue then
    (d.modLink l fun k => { k with ackDue := false }).sendCtrl l (.ack ((d.link l).rxSeq - 1))
  else d

def execAckIdleTimeout (l : Lnk) (s : State) : Out := act s (doAckIdleTimeout l.val)

/-- CREDIT: credits return, and collector slots are released for the next chunk. -/
def doCredit (l : Nat) (perVc : List Nat) (slots : List (BitVec 12)) (d : Dev) : Dev :=
  d.control l fun d =>
    let d := d.modLink l fun k =>
      { k with spent := (perVc.zipIdx).foldl (fun t c => Tab.mod 0 t c.2 (· - c.1)) k.spent }
    let g := match d.linkEntry l with | some e => e.group | none => 0xFF
    let d : Dev := { d with lnk := { d.lnk with
      farBusy := d.lnk.farBusy.filter fun b => !(b.1 == g && slots.contains b.2) } }
    d.settleLinks

def execCredit (l : Lnk) (perVc : List Nat) (slots : List (BitVec 12)) (s : State) : Out :=
  act s (doCredit l.val perVc slots)

/-- The key of a neighbour unit's generation: link, kind and unit. -/
def nbrKey (l : Nat) (e : RoleEntry) : Nat := 1024 * l + 256 * e.kind.toNat + e.unit.toNat

/-- ROLE_UPDATE. Log entry 70 (DEDUCED). -/
def doRoleUpdate (l : Nat) (es : List RoleEntry) (d : Dev) : Dev :=
  d.control l fun d => { d with lnk := { d.lnk with
    nbrGens := es.foldl (fun t e => Tab.set 0 t (nbrKey l e) e.gen) d.lnk.nbrGens } }

def execRoleUpdate (l : Lnk) (entries : List RoleEntry) (s : State) : Out := act s (doRoleUpdate l.val entries)

/-- The transfer of a STREAM. -/
def Dev.streamXfer (d : Dev) (stream : BitVec 16) : Option Xfer := d.lnk.xfers.find? (·.stream == stream)

/-- INFO of STALE_ROLE (R302). -/
def staleInfo (kind : BitVec 2) (unit : Byte) (dropped cur : BitVec 12) : BitVec 64 :=
  BitVec.ofNat 64 (cur.toNat + 2 ^ 12 * dropped.toNat + 2 ^ 24 * kind.toNat + 2 ^ 32 * unit.toNat)

/-- STALE_ROLE: the transfer stops, and its command completes. -/
def doStaleRole (l : Nat) (stream : BitVec 16) (kind : BitVec 2) (unit : Byte) (dropped cur : BitVec 12)
    (d : Dev) : Dev :=
  d.control l fun d => match d.streamXfer stream with
    | some x => d.failXfer x.queue.val x.seq .staleRole (staleInfo kind unit dropped cur)
    | none => d

def execStaleRole (l : Lnk) (stream : BitVec 16) (kind : BitVec 2) (unit : Byte) (dropped cur : BitVec 12)
    (s : State) : Out := act s (doStaleRole l.val stream kind unit dropped cur)

/-- FLOW_DENIED. -/
def doFlowDenied (l : Nat) (stream : BitVec 16) (d : Dev) : Dev :=
  d.control l fun d => match d.streamXfer stream with
    | some x => d.failXfer x.queue.val x.seq .ownerDenied 0
    | none => d

def execFlowDenied (l : Lnk) (stream : BitVec 16) (s : State) : Out := act s (doFlowDenied l.val stream)

/-- A command's flits wait for a usable link: on a DOWN link, or as chunks that no link may carry. -/
def Dev.stalled (d : Dev) (q : Nat) (seq : Word) (l : Nat) : Bool :=
  ((d.link l).st != .up && (d.link l).txq.any (fun f => f.of q seq)) ||
    match d.xfer q seq with
    | some x => x.waiting.any fun c => c.out.group != 0xFF && (d.slotLinks c.out.group c.out.slot).isEmpty
    | none => false

/-- TRANSFER_TIMEOUT: after four tide periods the command completes TIMEOUT with the link. -/
def doTransferTimeout (q : Nat) (seq : Word) (l : Nat) (d : Dev) : Dev :=
  if d.stalled q seq l then d.failXfer q seq .timeout (BitVec.ofNat 64 l) else d

def execTransferTimeout (q : Que) (seq : Word) (l : Lnk) (s : State) : Out :=
  act s (doTransferTimeout q.val seq l.val)

end Sys2Proof.Machine
end

