-- ==== Sys2Proof/Machine/Queues.lean ====
section
/-! DEFINITION. Queues (R280–R286, R295–R300): doorbells, fetch, decode, start, completion and control. -/

namespace Sys2Proof.Machine
open Sys2Proof

/-- Entries of a ring. -/
def Queue.ring (u : Queue) : Nat := 2 ^ u.log2.toNat

/-! ## Doorbell and fetch (R282, R296) -/

/-- DBL_TAIL: a new producer index, or BAD_TAIL. -/
def doDblTail (q : Nat) (v : Word) (d : Dev) : Dev :=
  let t : BitVec 16 := v.setWidth 16
  if (d.queue q).ring ≤ t.toNat then d.raise .dbl 4 else d.modQueue q fun u => { u with tail := t }

def execDblTail (q : Que) (v : Word) (s : State) : Out := act s (doDblTail q.val v)

/-- The queue fetches: it runs or is STOPPED, entries wait, and the completion ring has room.
Log entry 37 (DEDUCED). -/
def Queue.fetches (u : Queue) : Bool :=
  (u.st == .running || u.st == .stopped) && u.head != u.tail && decide (u.outstanding < u.ring)

def newCmd (seq : Word) (entry : BitVec 512) : Cmd :=
  { seq := seq, raw := entry, ph := .fetched, refs := [], src := 104, decodedAt := 0, stepKey := 0, prog := [],
    params := none }

/-- COMMAND_FETCH: the entry at HEAD arrives, or a DMA error stops the queue.
Log entries 14 (DESIGN CHOICE), 88 (DESIGN CHOICE). -/
def doCommandFetch (q : Nat) (entry : BitVec 512) (dmaOk : Bool) (d : Dev) : Dev :=
  if d.dbg.cpHalted then d else
  let u := d.queue q
  if !u.fetches then d
  else if dmaOk then
    d.modQueue q fun u =>
      { u with head := BitVec.ofNat 16 ((u.head.toNat + 1) % u.ring), seq := u.seq + 1,
               outstanding := u.outstanding + 1, cmds := u.cmds ++ [newCmd u.seq entry] }
  else
    ((d.modQueue q fun u => { u with st := .stopped, ringErr := true }).raise .dbl 3).raiseIf
      (u.st == .running) .dbl 2

/-- Log entry 22 (DESIGN CHOICE). -/
def execCommandFetch (q : Que) (entry : BitVec 512) (dmaOk : Bool) (s : State) : Out :=
  act s (doCommandFetch q.val entry dmaOk)

/-! ## Decode (R282, R286) -/

/-- The queue has a command to decode. -/
def Queue.waits (u : Queue) : Bool := u.cmds.any (·.ph == .fetched)

/-- The next queue in turn: priority class 0 first, then round-robin by queue number. -/
def Dev.nextDecode (d : Dev) : Option Nat :=
  (List.range 4).findSome? fun p =>
    let qs := (d.host.queues.filter fun x => x.2.prio.toNat == p && x.2.waits).map (·.1)
    let last := Tab.get 0 d.host.rr p
    match qs.find? fun q => last ≤ q with
    | some q => some q
    | none => qs.head?

/-- Some command's decode has not ended; the control die decodes one at a time. -/
def Dev.decoding (d : Dev) : Bool := d.cmds.any fun x => x.2.ph == .decoding

/-- The completion source of a command (R285). Log entry 34 (DEDUCED). -/
def Dev.sourceOf (d : Dev) (c : Cmd) : Nat :=
  match c.opcode with
  | 1 => d.copySource (if fld c.raw 39 1 = 1 then c.word 16 else c.word 20)
  | 2 => if fld c.raw 28 1 < 96 then fld c.raw 28 1 else 104
  | 3 => ((bitsOf (fld c.raw 24 12) 96).head?).getD 104
  | 4 => d.collSource c
  | 5 => d.collSource c
  | _ => 104

/-- The handles that a command names: true where it writes. -/
def Dev.handlesOf (d : Dev) (c : Cmd) : List (Word × Bool) :=
  match c.opcode with
  | 1 => (if fld c.raw 39 1 = 2 then [] else [(c.word 16, false)]) ++
      if fld c.raw 39 1 = 1 then [] else [(c.word 20, true)]
  | 2 => [(c.word 16, false)]
  | 3 => [(c.word 16, false)]
  | 4 => c.collArgs.handles (d.stageOfCmd c)
  | 5 => c.collArgs.handles (d.stageOfCmd c)
  | 9 => [(c.word 16, true)]
  | 11 => [(c.word 16, false)]
  | _ => []

/-- The fence is usable by the command's context: only the owner signals, the owner and the granted contexts
wait (R294). -/
def Dev.fenceUse (d : Dev) (c : Cmd) : Bool :=
  let h := c.word 16
  let f := d.fence (fenceIndex h)
  let ctx := c.context
  if c.opcode = 6 then d.fenceCurrent h && f.owner == ctx
  else if c.opcode = 7 then
    d.fenceCurrent h &&
      (f.owner == ctx || f.grant0 == ctx || f.grant1 == ctx || f.grant2 == ctx || f.grant3 == ctx)
  else true

/-- The opcode's own checks. A KIND 5 activity carries no CONFLUENCE or STRANDLINE_MARK (R312). -/
def Dev.opcodeOk (d : Dev) (n : Nat) (c : Cmd) : Bool :=
  let eval := match d.activity c.actId with
    | some x => x.2.kind == 5
    | none => false
  match c.opcode with
  | 1 => d.copyOk n c
  | 4 => d.collOk n c
  | 5 => d.collOk n c && !eval
  | 10 => !eval
  | _ => true

/-- How a check of R286 fails: status, DETAIL and INFO. -/
abbrev Fail := Status × Detail × BitVec 64

def orFail : List (Bool × Fail) → Option Fail
  | [] => none
  | x :: xs => if x.1 then some x.2 else orFail xs

/-- A clearing whose carve-out is still being overwritten is not yet open (R68). Log entry 35 (DEDUCED). -/
def Dev.unformed (d : Dev) (n : Nat) : Bool := d.plan.overwrites.any (·.2 == n)

/-- The decode checks of R286 in order. Log entry 34 (DEDUCED). -/
def Dev.decodeFail (d : Dev) (n q : Nat) (c : Cmd) : Option Fail :=
  let st := (d.clr n).st
  let needsAct := [4, 5, 10, 11].contains c.opcode
  let actOk := c.unscheduled || match d.activity c.actId with
    | some x => x.2.clearing.toNat == n && x.2.queue.toNat == q
    | none => false
  let hs := d.handlesOf c
  let stale := hs.find? fun h => !d.liveHandle h.1
  let denied := hs.find? fun h => !d.handleOwned n h.1 h.2
  let info (x : Option (Word × Bool)) : BitVec 64 := match x with | some h => h.1.setWidth 64 | none => 0
  orFail
    [(c.opcode = 0 || 11 < c.opcode || c.context == 0, .aborted, .decode, 0),
      (d.host.deadCtx.contains c.context, .aborted, .contextDestroyed, 0),
      (!reservedZero c.raw, .aborted, .decode, 0),
      (st == .resetting || st == .scrubbing || d.unformed n, .resetting, .none, 0),
      (st == .contained, .tamper, .none, 0),
      (d.outOfService n || st != .active, .outOfService, .none, 0),
      (needsAct && c.unscheduled, .aborted, .notScheduled, 0),
      (!actOk, .planConflict, .none, c.actId.setWidth 64),
      (stale.isSome, .staleObject, .none, info stale),
      (denied.isSome, .ownerDenied, .none, info denied),
      (!d.fenceUse c, .staleObject, .none, (c.word 16).setWidth 64),
      (!d.opcodeOk n c, .aborted, .decode, 0)]

/-- COMMAND_DECODE: the checks in order; the commands whose decode goes on in their own row hold their
references already. While the completion source has no room, decode waits.
Log entries 14 (DESIGN CHOICE), 33 (DEDUCED), 34 (DEDUCED), 35 (DEDUCED). -/
def doCommandDecode (q : Nat) (d : Dev) : Dev :=
  if d.dbg.cpHalted then d else
  match d.queueClr q, (d.queue q).cmds.find? (·.ph == .fetched) with
  | some n, some c =>
    if d.decoding || d.nextDecode != some q || 32 ≤ d.fifoUse (d.sourceOf c) then d
    else
      let src := d.sourceOf c
      let d : Dev := { d with host := { d.host with
        rr := Tab.set 0 d.host.rr (d.queue q).prio.toNat (q + 1) } }
      let d := d.modCmd q c.seq fun x => { x with src := src }
      let c := { c with src := src }
      match d.decodeFail n q c with
      | some f => d.completeCmd q c f.1 f.2.1 f.2.2 0
      | none =>
        let refs := if c.opcode = 9 then [] else (d.handlesOf c).map (·.1)
        let more := c.opcode == 2 || c.opcode == 3 || c.opcode == 9
        (d.addRefs refs).modCmd q c.seq fun x =>
          { x with ph := if more then .decoding else .decoded, refs := refs, decodedAt := d.tide.count }
  | _, _ => d

def execCommandDecode (q : Que) (s : State) : Out := act s (doCommandDecode q.val)

/-! ## Start (R283, R307) -/

/-- Nothing earlier in the queue holds the command: ring order, BARRIER, FENCE_WAIT and TIDE_WAIT.
Log entry 50 (DEDUCED). -/
def Dev.mayStart (d : Dev) (q : Nat) (c : Cmd) : Bool :=
  let earlier := (d.queue q).cmds.takeWhile (·.seq != c.seq)
  earlier.all (fun x => (x.ph == .started || x.ph == .running) && x.opcode != 7 && x.opcode != 8) &&
    (!c.barrier || earlier.isEmpty)

/-- Instance `i` of an activity has started. -/
def Dev.actStarted (d : Dev) (a : BitVec 16) (i : Word) : Bool :=
  decide (i.toNat < Tab.get 0 d.sched.nextInst a.toNat) &&
    !d.sched.waits.any fun w => w.act == a && w.inst == i.toNat

/-- The command's start mark has come: a mark after its decode, and, of a scheduled command, one at or after the start
of its activity's instance (R283). While marks are missing, nothing starts (R40). Log entry 50 (DEDUCED). -/
def Dev.markCame (d : Dev) (c : Cmd) : Bool :=
  d.tide.missing == 0 && decide (c.decodedAt.toNat < d.tide.count.toNat) &&
    (c.unscheduled || d.actStarted c.actId c.inst)

/-- EVAL_WINDOW starts after every earlier command of its queue that names its activity's instance (R313).
Log entry 73 (DEDUCED). -/
def Dev.evalReady (d : Dev) (q : Nat) (c : Cmd) : Bool :=
  c.opcode != 11 || ((d.queue q).cmds.takeWhile (·.seq != c.seq)).all fun x =>
    x.actId != c.actId || x.inst != c.inst

/-- COMMAND_START: the command takes a FIFO entry of its source and latches its step key.
Log entries 14 (DESIGN CHOICE), 33 (DEDUCED). -/
def doCommandStart (q : Nat) (seq : Word) (d : Dev) : Dev :=
  if d.dbg.cpHalted then d else
  match d.cmd q seq, d.queueClr q with
  | some c, some n =>
    if (d.queue q).st == .running && c.ph == .decoded && d.mayStart q c && d.markCame c && d.evalReady q c &&
        decide (d.fifoUse c.src < 32) then
      d.modCmd q seq fun x => { x with ph := .started, stepKey := d.stepKeyOf n c.inst }
    else d
  | _, _ => d

def execCommandStart (q : Que) (seq : Word) (s : State) : Out := act s (doCommandStart q.val seq)

/-! ## Completion (R295–R298) -/

/-- No record of the same queue that waits is earlier in completion order (R298). Log entry 37 (DEDUCED). -/
def Dev.postable (d : Dev) (c : Completion) : Bool :=
  d.host.fifos.all fun f => f.2.all fun x => x.queue != c.queue || c.ord ≤ x.ord

/-- The sources whose head record may be posted, ascending. Log entry 37 (DEDUCED). -/
def Dev.readySources (d : Dev) : List (Nat × Completion) :=
  d.host.fifos.filterMap fun f => match f.2 with
    | c :: _ => if d.postable c then some (f.1, c) else none
    | [] => none

/-- The next source in round-robin order. Log entry 37 (DEDUCED). -/
def Dev.nextPost (d : Dev) : Option (Nat × Completion) :=
  let rs := d.readySources
  match rs.find? fun r => d.host.lastSrc < r.1 with
  | some r => some r
  | none => rs.head?

/-- The 32 bytes of a completion record (R295). -/
def Completion.record (c : Completion) (phase : Bool) : List Byte :=
  leBytes 4 c.seq.toNat ++ leBytes 4 c.userTag.toNat ++ [BitVec.ofNat 8 (Status.code c.status), BitVec.ofNat 8 (b2n phase)] ++
    leBytes 2 (Detail.code c.detail) ++ leBytes 2 c.context.toNat ++ [c.opcode, BitVec.ofNat 8 c.source] ++
    leBytes 8 c.info.toNat ++ leBytes 4 c.rank.toNat ++ zeros 4

/-- A record goes to its queue's ring, and the vector after it. -/
def Dev.postRecord (d : Dev) (src : Nat) (c : Completion) : Dev :=
  let q := c.queue.val
  let u := d.queue q
  let d : Dev := { d with host := { d.host with
    fifos := Tab.mod [] d.host.fifos src (·.drop 1), lastSrc := src } }
  let d := d.emit (.ringRecord (u.cqHi ++ u.cqLo + 32 * u.cqTail.setWidth 64) (c.record u.phase))
  let d := if c.irq || u.irqAll then d.emit (.msix u.vector.toNat) else d
  let next := (u.cqTail.toNat + 1) % u.ring
  (d.modQueue q fun u =>
    { u with cqTail := BitVec.ofNat 16 next, phase := if next = 0 then !u.phase else u.phase }).settle q

/-- COMPLETION_POST. -/
def doCompletionPost (d : Dev) : Dev :=
  match d.nextPost with
  | some r => d.postRecord r.1 r.2
  | none => d

def execCompletionPost (s : State) : Out := act s doCompletionPost

/-- QCFG_CQ_HEAD: consumed records free room. Log entry 37 (DEDUCED). -/
def doQcfgCqHead (q : Nat) (v : Word) (d : Dev) : Dev :=
  let u := d.queue q
  let new : BitVec 16 := v.setWidth 16
  let n := (new.toNat + u.ring - u.cqHead.toNat % u.ring) % u.ring
  d.modQueue q fun u => { u with cqHead := new, outstanding := u.outstanding - n }

def execQcfgCqHead (q : Que) (v : Word) (s : State) : Out := act s (doQcfgCqHead q.val v)

/-! ## QCFG_CTRL (R281, R293, R300) -/

/-- The fields of a QCFG_CTRL write. n is written while the queue is DISABLED; a reserved n or VECTOR keeps
its value (R8). -/
def Queue.config (u : Queue) (v : Word) : Queue :=
  let n : BitVec 5 := v.extractLsb' 1 5
  let vec : BitVec 11 := v.extractLsb' 9 11
  { u with
    log2 := if u.st = .disabled && 6 ≤ n.toNat && n.toNat ≤ 16 then n else u.log2,
    prio := v.extractLsb' 6 2, port := v.getLsbD 8,
    vector := if 16 ≤ vec.toNat then vec else u.vector, irqAll := v.getLsbD 20, enable := v.getLsbD 0 }

/-- A queue leaves STOPPED. Log entry 37 (DEDUCED). -/
def Dev.resumeQueue (d : Dev) (q : Nat) : Dev :=
  d.modQueue q fun u => if u.st = .stopped then { u with st := .running } else u

/-- ENABLE 1: a DISABLED queue of a clearing runs from empty rings; one that no clearing holds is UNBOUND. -/
def Dev.enableQueue (d : Dev) (q : Nat) : Dev :=
  let d := d.modQueue q fun u => { u with ringErr := false }
  if (d.queue q).st ≠ .disabled then d
  else match d.queueClr q with
    | none => d.modQueue q fun u => { u with unbound := true }
    | some n => d.modQueue q fun u =>
        { u with st := .running, clearing := BitVec.ofNat 4 n, unbound := false, head := 0, tail := 0,
                 cqTail := 0, cqHead := 0, phase := true, seq := 0, outstanding := 0, cmds := [],
                 spanBad := false }

/-- A write of QCFG_CTRL. -/
def Dev.writeQueueCtrl (d : Dev) (q : Nat) (v : Word) : Dev :=
  let d := d.modQueue q fun u => u.config v
  let d := if v.getLsbD 0 then d.enableQueue q else d.disableQueue q .queueDisabled
  if v.getLsbD 21 then d.resumeQueue q else d

/-- QUEUE_ENABLE: a write with ENABLE 1. -/
def doQueueEnable (q : Nat) (ctrl : Word) (d : Dev) : Dev := d.writeQueueCtrl q (setBit ctrl 0)

def execQueueEnable (q : Que) (ctrl : Word) (s : State) : Out := act s (doQueueEnable q.val ctrl)

/-- QUEUE_DISABLE: a write with ENABLE 0. -/
def doQueueDisable (q : Nat) (ctrl : Word) (d : Dev) : Dev := d.writeQueueCtrl q (clrBit ctrl 0)

def execQueueDisable (q : Que) (ctrl : Word) (s : State) : Out := act s (doQueueDisable q.val ctrl)

/-- QUEUE_RESUME. -/
def execQueueResume (q : Que) (s : State) : Out := act s fun d => d.resumeQueue q.val

end Sys2Proof.Machine
end

