-- ==== Sys2Proof/Machine/Objects.lean ====
section
/-! DEFINITION. Fences, waits, objects, contexts and evaluation windows (R287–R294, R299–R301, R313), and the
resets of the PCIe functions (R272, R274–R276). -/

namespace Sys2Proof.Machine
open Sys2Proof

/-- A started command of an opcode runs `f`. -/
def Dev.started (d : Dev) (q : Nat) (seq : Word) (op : Nat) (f : Cmd → Dev) : Dev :=
  match d.cmd q seq with
  | some c => if c.opcode = op && c.ph = .started then f c else d
  | none => d

/-- A running command of an opcode runs `f`. -/
def Dev.runningCmd (d : Dev) (q : Nat) (seq : Word) (op : Nat) (f : Cmd → Dev) : Dev :=
  match d.cmd q seq with
  | some c => if c.opcode = op && c.ph = .running then f c else d
  | none => d

def Dev.setRunning (d : Dev) (q : Nat) (seq : Word) : Dev := d.modCmd q seq fun x => { x with ph := .running }

/-! ## FENCE_SIGNAL, FENCE_WAIT, TIDE_WAIT (R285, R292, R293) -/

/-- FENCE_SIGNAL: the command waits for the earlier ones of its queue. -/
def doFenceSignal (q : Nat) (seq : Word) (d : Dev) : Dev := d.started q seq 6 fun _ => d.setRunning q seq

def execFenceSignal (q : Que) (seq : Word) (s : State) : Out := act s (doFenceSignal q.val seq)

/-- FENCE_SIGNALLED: every earlier command has completed; the fence is signalled with ERROR when one of the
span failed. Log entries 36 (DEDUCED), 72 (DEDUCED). -/
def doFenceSignalled (q : Nat) (seq : Word) (d : Dev) : Dev :=
  d.runningCmd q seq 6 fun c =>
    let h := c.word 16
    let i := fenceIndex h
    if !d.earlierDone q seq then d
    else
      let bad := (d.queue q).spanBad
      let clear (d : Dev) : Dev := d.modQueue q fun u => { u with spanBad := false }
      if !d.fenceCurrent h then clear (d.completeCmd q c .staleObject .none (h.setWidth 64) 0)
      else if (d.fence i).sig then clear (d.completeCmd q c .ok .alreadySignalled 0 0)
      else (clear (d.completeCmd q c .ok .none 0 0)).signalFence i (if bad then 2 else 0)

def execFenceSignalled (q : Que) (seq : Word) (s : State) : Out := act s (doFenceSignalled q.val seq)

/-- FENCE_WAIT: completes when its fence is SIGNALLED. -/
def doFenceWait (q : Nat) (seq : Word) (d : Dev) : Dev :=
  d.started q seq 7 fun c =>
    let h := c.word 16
    let f := d.fence (fenceIndex h)
    if !d.fenceCurrent h then d.completeCmd q c .staleObject .none (h.setWidth 64) 0
    else if f.sig then d.completeWait q c f.status
    else d.setRunning q seq

def execFenceWait (q : Que) (seq : Word) (s : State) : Out := act s (doFenceWait q.val seq)

/-- TIDE_WAIT: completes at the first mark whose position is at least POSITION. Log entry 73 (DEDUCED). -/
def doTideWait (q : Nat) (seq : Word) (d : Dev) : Dev :=
  d.started q seq 8 fun c =>
    if fld c.raw 16 8 ≤ d.tide.pos.toNat then d.completeCmd q c .ok .none 0 0 else d.setRunning q seq

def execTideWait (q : Que) (seq : Word) (s : State) : Out := act s (doTideWait q.val seq)

/-! ## OBJ_RETIRE (R289) -/

/-- OBJ_RETIRE: at its decode a LIVE object becomes RETIRING, and started the command waits for the last
reference. Log entry 33 (DEDUCED). -/
def doObjRetire (q : Nat) (seq : Word) (d : Dev) : Dev :=
  match d.cmd q seq with
  | none => d
  | some c =>
    let h := c.word 16
    if c.opcode ≠ 9 then d
    else if c.ph = .decoding then
      if d.liveHandle h then
        (d.modObj (objIndex h) fun o =>
          { o with st := .retiring, retire := o.retire ++ [(Fin.ofNat 4096 q, seq)] }).modCmd q seq
            fun x => { x with ph := .decoded }
      else d.completeCmd q c .staleObject .none (h.setWidth 64) 0
    else if c.ph = .started then d.setRunning q seq
    else d

def execObjRetire (q : Que) (seq : Word) (s : State) : Out := act s (doObjRetire q.val seq)

/-- A retire command has not yet started. -/
def Dev.retirePending (d : Dev) (x : Que × Word) : Bool :=
  match d.cmd x.1.val x.2 with
  | some c => c.ph != .running
  | none => false

/-- OBJ_RETIRE_DONE: without references, the index is FREE under its next generation and its retires
complete OK. -/
def doObjRetireDone (i : Nat) (d : Dev) : Dev :=
  let o := d.obj i
  if o.st = .retiring && o.refs = 0 && !o.retire.any d.retirePending then
    o.retire.foldl (fun d x => d.finishOk x.1.val x.2) (d.freeObj i)
  else d

def execObjRetireDone (i : BitVec 20) (s : State) : Out := act s (doObjRetireDone i.toNat)

/-! ## Creating objects (R288) -/

def alignUp (n : Nat) : Nat := 4096 * ((n + 4095) / 4096)

/-- The spans that the objects of a region take. -/
def Dev.spans (d : Dev) (n r : Nat) : List (Nat × Nat) :=
  (d.host.objs.filter fun o => o.2.st != .free && o.2.clearing.toNat == n && o.2.region.toNat == r).map
    fun o => (o.2.base, alignUp o.2.size)

/-- The lowest base where `len` bytes are free in `total`: at 0 or at the end of a span. -/
def firstFit (spans : List (Nat × Nat)) (total len : Nat) : Option Nat :=
  let free (b : Nat) : Bool := b + len ≤ total && spans.all fun s => b + len ≤ s.1 || s.1 + s.2 ≤ b
  ((0 :: spans.map fun s => s.1 + s.2).filter free).min?

/-- The lowest FREE index from `i` on. -/
def lowestFree : Tab Obj → Nat → Nat
  | [], i => i
  | o :: t, i => if o.1 = i && o.2.st ≠ .free then lowestFree t (i + 1) else if o.1 < i then lowestFree t i else i

/-- The outcome of a create: RESULT, and the object with its index. -/
def Dev.createOutcome (d : Dev) : BitVec 3 × Option (Nat × Obj) :=
  let w := d.host.reqWhere
  let n := w.toNat % 16
  let r := w.toNat / 16 % 2048
  let size := (d.host.reqSizeHi ++ d.host.reqSizeLo).toNat
  let i := lowestFree d.host.objs 0
  if (d.clr n).st ≠ .active then (4, none)
  else match d.planRegion n r with
    | none => (3, none)
    | some rg =>
      if size = 0 then (5, none)
      else if 2 ^ 20 ≤ i then (2, none)
      else match firstFit (d.spans n r) rg.dataBytes (alignUp size) with
        | none => (1, none)
        | some b => (0, some (i,
            { st := .live, gen := (d.obj i).gen, clearing := BitVec.ofNat 4 n, region := BitVec.ofNat 11 r,
              owner := d.ownerOf n, mode := rg.mode.setWidth 2, sector := rg.sector != 0, base := b,
              size := size, ctx := w.extractLsb' 16 16, refs := 0, retire := [] }))

/-- OBJ_CREATE: a GO while a request runs is discarded with OVERRUN. Log entry 72 (DEDUCED). -/
def doObjCreate (d : Dev) : Dev :=
  if d.host.objBusy then d.raise .dbl 5
  else
    let busy (d : Dev) (x : BitVec 3 × Word × BitVec 64) : Dev :=
      { d with host := { d.host with objBusy := true, objNext := x } }
    match d.createOutcome with
    | (res, none) => busy d (res, 0xFFFFFFFF, 0)
    | (res, some x) =>
      busy (d.modObj x.1 fun _ => x.2) (res, objHandle x.1 x.2.gen, BitVec.ofNat 64 x.2.base)

def execObjCreate (s : State) : Out := act s doObjCreate

/-- OBJ_REQUEST_DONE: the outcome shows, with OBJ_DONE. Log entry 72 (DEDUCED). -/
def doObjRequestDone (d : Dev) : Dev :=
  if d.host.objBusy then
    ({ d with host := { d.host with
        objBusy := false, objRes := d.host.objNext.1, objHandle := d.host.objNext.2.1,
        objBase := d.host.objNext.2.2 } } : Dev).raise .dbl 7
  else d

def execObjRequestDone (s : State) : Out := act s doObjRequestDone

/-! ## FNC (R291, R292, R294) -/

/-- FENCE_INIT: the fence is owned by the context under its next generation, and waiters on the old handle
complete STALE_OBJECT. -/
def doFenceInit (f : Nat) (owner : BitVec 16) (d : Dev) : Dev :=
  let h := fenceHandle f (d.fence f).gen
  let ws := if (d.fence f).alloc then d.waiters h else []
  let d := d.modFence f fun x =>
    { Fence.reset with alloc := true, owner := owner, gen := x.gen + 1 }
  ws.foldl (fun d p => d.completeCmd p.1 p.2 .staleObject .none (h.setWidth 64) 0) d

def execFenceInit (f : BitVec 16) (owner : BitVec 16) (s : State) : Out := act s (doFenceInit f.toNat owner)

/-- FENCE_RESET. -/
def doFenceReset (f : Nat) (d : Dev) : Dev :=
  d.modFence f fun x => if x.alloc then { x with sig := false, status := 0 } else x

def execFenceReset (f : BitVec 16) (s : State) : Out := act s (doFenceReset f.toNat)

/-- FENCE_FREE: waiters complete with FENCE_ABANDONED. -/
def doFenceFree (f : Nat) (d : Dev) : Dev :=
  if (d.fence f).alloc then
    let ws := d.waiters (fenceHandle f (d.fence f).gen)
    let d := ws.foldl (fun d p => d.completeWait p.1 p.2 1) d
    d.modFence f fun x => { Fence.reset with gen := x.gen }
  else d

def execFenceFree (f : BitVec 16) (s : State) : Out := act s (doFenceFree f.toNat)

/-- FNC_SIGNAL: an allocated fence is signalled at once; reserved statuses are discarded (R8), and a
SIGNALLED fence does not change. Log entry 72 (DEDUCED). -/
def doFncSignal (f : Nat) (status : BitVec 2) (d : Dev) : Dev :=
  let x := d.fence f
  if x.alloc && !x.sig && (status = 0 || status = 2) then d.signalFence f status else d

def execFncSignal (f : BitVec 16) (status : BitVec 2) (s : State) : Out := act s (doFncSignal f.toNat status)

/-! ## Contexts (R280, R299, R301) -/

/-- Steps 3 and 4 of R301: the context's objects retire and its fences are ABANDONED. -/
def Dev.ctxLeaves (d : Dev) (ctx : BitVec 16) : Dev :=
  let retire (o : Obj) : Obj := if o.st = .live && o.ctx == ctx then { o with st := .retiring } else o
  let d : Dev := { d with host := { d.host with objs := Tab.each Obj.reset d.host.objs fun _ o => retire o } }
  (d.host.fences.filter fun f => f.2.alloc && f.2.owner == ctx).foldl (fun d f => d.signalFence f.1 1) d

/-- No command of the context is left. -/
def Dev.ctxQuiet (d : Dev) (ctx : BitVec 16) : Bool := d.cmds.all fun x => x.2.context != ctx

/-- CTX_DESTROY. Log entry 72 (DEDUCED). -/
def doCtxDestroy (ctx : BitVec 16) (d : Dev) : Dev :=
  if d.host.ctxBusy then d.raise .dbl 5
  else if ctx = 0 then d
  else
    let d : Dev := { d with host := { d.host with
      ctxBusy := true, ctxNum := ctx, deadCtx := ctx :: d.host.deadCtx } }
    let d := d.abortWhere (fun _ c => c.context == ctx) .aborted .contextDestroyed
    if d.ctxQuiet ctx then d.ctxLeaves ctx else d

def execCtxDestroy (ctx : BitVec 16) (s : State) : Out := act s (doCtxDestroy ctx)

/-- CTX_DESTROY_DONE: the context's commands, objects and fences have gone. -/
def doCtxDestroyDone (d : Dev) : Dev :=
  let ctx := d.host.ctxNum
  if !d.host.ctxBusy || !d.ctxQuiet ctx then d
  else
    let d := d.ctxLeaves ctx
    if d.host.objs.any fun o => o.2.st != .free && o.2.ctx == ctx then d
    else
      ({ d with host := { d.host with
          ctxBusy := false, deadCtx := d.host.deadCtx.filter (· != ctx) } } : Dev).raise .dbl 0

def execCtxDestroyDone (s : State) : Out := act s doCtxDestroyDone

/-! ## Function level reset (R275, R276) -/

/-- Post every record that waits, in the posting order. Log entry 72 (DEDUCED). -/
def Dev.postAll : Nat → Dev → Dev
  | 0, d => d
  | n + 1, d => match d.nextPost with
    | some r => Dev.postAll n (d.postRecord r.1 r.2)
    | none => d

/-- Records that wait. -/
def Dev.waitingRecords (d : Dev) : Nat := (d.host.fifos.map (·.2.length)).foldl (· + ·) 0

/-- An FLR: every command of a host context ends, their contexts' objects and fences go, and the DBL and FNC
blocks are cleared. Log entry 72 (DEDUCED). -/
def Dev.funcReset (d : Dev) : Dev :=
  let d := d.killWhere (fun _ _ => true) .aborted .flr
  let d := Dev.postAll d.waitingRecords d
  let d := d.freeObjs fun o => o.ctx != 0
  let d : Dev := { d with
    host := { d.host with
      queues := [], fences := [], rr := [], ctxBusy := false, ctxNum := 0, deadCtx := [] },
    ev := { d.ev with dbl := Ev.reset } }
  d.raise .dbl 1

/-- FLR on either function. Log entry 72 (DEDUCED). -/
def execFlr (_fn : Fin 2) (s : State) : Out := act s Dev.funcReset

/-- A return from D3hot acts as an FLR. -/
def execD3hotReturn (_fn : Fin 2) (s : State) : Out := act s Dev.funcReset

/-- The transitions that TDISP defines: lock, start, stop, and any fault to ERROR.
Log entry 61 (PRESUMED). -/
def tdiMoves (a b : Tdi) : Bool :=
  match a, b with
  | .configUnlocked, .configLocked => true
  | .configLocked, .run => true
  | _, .configUnlocked => true
  | .configLocked, .error => true
  | .run, .error => true
  | _, _ => false

/-- Log entry 61 (PRESUMED). -/
def Dev.tdi (d : Dev) (fn : Nat) : Tdi := Tab.get .configUnlocked d.bus.tdi fn

/-- TDISP_MESSAGE: a TDI that enters ERROR acts as an FLR. Log entry 61 (PRESUMED). -/
def doTdispMessage (fn : Nat) (target : Tdi) (d : Dev) : Dev :=
  if tdiMoves (d.tdi fn) target then
    let d : Dev := { d with bus := { d.bus with tdi := Tab.set .configUnlocked d.bus.tdi fn target } }
    if target = .error then d.funcReset else d
  else d

def execTdispMessage (fn : Fin 2) (target : Tdi) (s : State) : Out := act s (doTdispMessage fn.val target)

/-- NON_IDE_TLP_DROP: counted while the TDI is in RUN. -/
def doNonIdeTlpDrop (fn : Nat) (d : Dev) : Dev :=
  if d.tdi fn = .run then
    { d with bus := { d.bus with aerDrops := Tab.mod 0 d.bus.aerDrops fn (· + 1) } }
  else d

def execNonIdeTlpDrop (fn : Fin 2) (s : State) : Out := act s (doNonIdeTlpDrop fn.val)

/-! ## EVAL_WINDOW (R313) -/

/-- The evaluation record. -/
def Dev.evalRecord (d : Dev) (n : Nat) (c : Cmd) (bs : List Byte) : List Byte :=
  let pos := match d.run c.actId c.inst with
    | some r => r.startPos
    | none => d.tide.pos.toNat
  ascii "VXEV" ++ leBytes 4 c.inst.toNat ++ leBytes 2 c.actId.toNat ++ leBytes 1 n ++ zeros 1 ++
    leBytes 8 pos ++ leBytes 4 bs.length ++ bs

/-- EVAL_WINDOW: the metrics are read and leave as one sealed envelope. Log entry 73 (DEDUCED). -/
def doEvalWindow (q : Nat) (seq : Word) (d : Dev) : Dev :=
  match d.queueClr q with
  | none => d
  | some n => d.started q seq 11 fun c =>
    let h := c.word 16
    let o := d.obj (objIndex h)
    let off := fld c.raw 20 6
    let len := fld c.raw 28 4
    match d.egress n with
    | none => d.completeCmd q c .ownerDenied .none 0 0
    | some k =>
      if len = 0 || 65536 < len || !o.holds off len || fld c.raw 40 4 < 116 + len then
        d.completeCmd q c .aborted .decode 0 0
      else match d.tryRead n (c.holder q) h o [(off, len)] with
        | (d, none) => d
        | (d, some x) =>
          if x.status ≠ .ok then d.completeCmd q c x.status .none (hitInfo h o x) 0
          else
            let d := d.sendEnvelope (BitVec.ofNat 64 (fld c.raw 32 8)) k
              (d.evalRecord n c (d.readObj o off len))
            d.completeCmd q c .ok .none 0 0

def execEvalWindow (q : Que) (seq : Word) (s : State) : Out := act s (doEvalWindow q.val seq)

end Sys2Proof.Machine
end

