-- ==== Sys2Proof/Machine/KeyBlobs.lean ====
section
/-! DEFINITION. The byte strings that carry keys: sealed bundles (R230, R231, R233) and admission blobs (R225). -/

namespace Sys2Proof.Machine
open Sys2Proof

/-! ## Bundles -/

/-- A sealed bundle read from its bytes. -/
structure Bundle where
  /-- length, MAGIC, VERSION, ENTRY_COUNT and the reserved bytes of the header are as R230 lays them out -/
  wellLaid : Bool
  setId    : Word
  setEpoch : BitVec 16
  bundleId : BitVec 16
  tagOk    : Bool
  /-- none where a field of an entry holds no value of its table -/
  entries  : Option (List KeyEntry)
deriving DecidableEq, Repr

/-- The 64 bytes of a bundle entry. -/
def entryBytes (s : Nat) (x : Slot) : List Byte :=
  let n := keyLenOf x.attr
  [BitVec.ofNat 8 s, x.attr.setWidth 8, x.owner.setWidth 8, 0] ++ leBytes 2 x.mask.toNat ++ zeros 2 ++
    beBytes 3 x.kcv.toNat ++ [BitVec.ofNat 8 n] ++ strBytes x.key n ++ zeros (52 - n)

/-- An entry read from 64 bytes; a bundle's FLAGS and reserved bytes are 0. Log entry 22 (DESIGN CHOICE). -/
def readEntry (bs : List Byte) : Option KeyEntry :=
  let at_ (i : Nat) : Nat := (bs.getD i 0).toNat
  let e : KeyEntry :=
    { slot := Fin.ofNat 256 (at_ 0), attr := BitVec.ofNat 2 (at_ 1), owner := BitVec.ofNat 6 (at_ 2),
      bundleOk := false, mask := BitVec.ofNat 16 (leVal ((bs.drop 4).take 2)),
      kcv := BitVec.ofNat 24 (beVal ((bs.drop 8).take 3)), keyLen := at_ 11, key := strOf ((bs.drop 12).take 32) }
  let rest := (bs.drop 6).take 2 ++ bs.drop (12 + e.keyLen)
  if at_ 1 < 4 && at_ 2 < 64 && at_ 3 == 0 && rest.all (· == 0) then some e else none

/-- The 64-byte header. -/
def bundleHeader (count : Nat) (setId : Word) (epoch id : BitVec 16) (iv : List Byte) : List Byte :=
  ascii "VXBN" ++ leBytes 2 1 ++ leBytes 2 count ++ leBytes 4 setId.toNat ++ leBytes 2 epoch.toNat ++
    leBytes 2 id.toNat ++ iv ++ zeros 36

/-- The bundle key: from the set key of the header's epoch and header bytes 8–27. -/
def bundleKey (set : B256) (header : List Byte) : BitVec 128 :=
  firstHalf (Config.kdf set (ascii "VX-BNDL" ++ (header.drop 8).take 20))

/-- A new bundle. -/
def sealBundle (set : B256) (header entries : List Byte) : List Byte :=
  header ++ gcmSeal (bundleKey set header) ((header.drop 16).take 12) header entries

/-- A bundle of the member's set opened: under the set key of slot 0x00 for the current epoch, of slot 0x01 for the
previous one. -/
def Dev.openBundle (d : Dev) (bs : List Byte) : Bundle :=
  let h := bs.take 64
  let n := leVal ((bs.drop 6).take 2)
  let epoch := BitVec.ofNat 16 (leVal ((bs.drop 12).take 2))
  let current := match d.sec.member with | some m => epoch == m.epoch | none => true
  let key := bundleKey (d.slot (if current then 0 else 1)).key h
  let iv := (bs.drop 16).take 12
  let cipher := (bs.drop 64).take (64 * n)
  { wellLaid := bs.length == 80 + 64 * n && bs.take 4 == ascii "VXBN" && (bs.drop 4).take 2 == leBytes 2 1 &&
      decide (1 ≤ n) && decide (n ≤ 32) && ((bs.drop 28).take 36).all (· == 0),
    setId := BitVec.ofNat 32 (leVal ((bs.drop 8).take 4)), setEpoch := epoch,
    bundleId := BitVec.ofNat 16 (leVal ((bs.drop 14).take 2)),
    tagOk := gcmOpens key iv h cipher (bs.drop (64 + 64 * n)),
    entries := (List.range n).mapM fun i => readEntry (((gcmCrypt key iv cipher).drop (64 * i)).take 64) }

/-! ## Admission blobs -/

/-- The numbers of a set policy, in the order of its list. -/
def SetPolicy.fields (p : SetPolicy) : List Nat :=
  [p.setId.toNat, p.ordering.toNat, p.minSvn.toNat] ++ p.pairs.flatMap (fun x => [x.1.toNat, x.2.toNat]) ++
    p.roster.flatMap fun x => [x.1.toNat, x.2.toNat]

/-- An admission blob: set key, epoch, policy, root, the candidate's address (R228) and, above epoch 1, the order's
epoch and origin (R227), under the candidate's IDE, then the admitter's IDS signature. Log entry 65 (DESIGN CHOICE). -/
def Dev.admissionBlob (d : Dev) (m : SetMember) (ide : List Byte) (addr : BitVec 20) : List Byte :=
  let order : List Nat := match m.origin with | some o => [m.epoch.toNat, o.toNat] | none => []
  let plain := Config.admissionBytes
    ([(d.slot 0).key.toNat, m.epoch.toNat, m.root.toNat, addr.toNat] ++ SetPolicy.fields m.policy ++ order)
  let c := Config.sm2Encrypt ide d.free plain
  c ++ strBytes (d.sign c).1 32 ++ strBytes (d.sign c).2 32

end Sys2Proof.Machine
end

