-- ==== Sys2Proof/Machine/SpdmOps.lean ====
section
/-! DEFINITION. The SPDM 1.3 responder (R238, R239). The order of requests is SPDM's own: version, capabilities,
algorithms, then the rest; a session before what needs one. Its message bytes, transcripts and key schedule are
SPDM's. Log entries 60 (DESIGN CHOICE), 126 (PRESUMED). -/

namespace Sys2Proof.Machine
open Sys2Proof

/-! ## Messages and transcripts -/

/-- The bytes of a request. Log entry 126 (PRESUMED). -/
def SpdmReq.bytes : SpdmReq → List Byte
  | .getVersion => Config.spdmBytes 0x84 []
  | .getCapabilities => Config.spdmBytes 0xE1 []
  | .negotiateAlgorithms a b c => Config.spdmBytes 0xE3 [[BitVec.ofNat 8 (b2n a), BitVec.ofNat 8 (b2n b), BitVec.ofNat 8 (b2n c)]]
  | .getDigests => Config.spdmBytes 0x81 []
  | .getCertificate slot => Config.spdmBytes 0x82 [[slot.setWidth 8]]
  | .challenge nonce => Config.spdmBytes 0x83 [strBytes nonce 32]
  | .getMeasurements i nonce s => Config.spdmBytes 0xE0 [[i], strBytes nonce 32, [BitVec.ofNat 8 (b2n s)]]
  | .keyExchange _ data => Config.spdmBytes 0xE4 [data]
  | .finish _ => Config.spdmBytes 0xE5 []
  | .heartbeat => Config.spdmBytes 0xE8 []
  | .keyUpdate => Config.spdmBytes 0xE9 []
  | .endSession => Config.spdmBytes 0xEC []

/-- The bytes of a response up to its signature or MAC. Log entry 126 (PRESUMED). -/
def spdmRsp (code : Nat) (fields : List (List Byte)) : List Byte := Config.spdmBytes code fields

/-- A signature of SPDM under IDS over a transcript. Log entry 126 (PRESUMED). -/
def Dev.spdmSign (d : Dev) (context : String) (transcript : List Byte) : B256 × B256 :=
  d.sign (((List.range 4).flatMap fun _ => ascii "dmtf-spdm-v1.3.*") ++ zeros (36 - (ascii context).length) ++
    ascii context ++ strBytes (Config.sm3 transcript) 32)

/-- The identity chain of certificate slot 0. -/
def Dev.chain (d : Dev) : List Byte := Config.idChain d.pins.orderingSe

/-- A key that the session's secret gives for a role and a transcript. Log entry 126 (PRESUMED). -/
def spdmKey (secret : B256) (role : String) (transcript : List Byte) : B256 :=
  Config.kdf secret (ascii role ++ strBytes (Config.sm3 transcript) 32)

/-- The verify data of an end of the handshake. Log entry 126 (PRESUMED). -/
def spdmVerify (secret : B256) (role : String) (transcript : List Byte) : List Byte :=
  strBytes (hmac (strBytes (spdmKey secret role []) 32) (strBytes (Config.sm3 transcript) 32)) 32

def Dev.modSpdm (d : Dev) (f : Spdm → Spdm) : Dev := { d with spdm := f d.spdm }

/-! ## The requests -/

/-- GET_VERSION: a new negotiation. -/
def Dev.spdmVersion (d : Dev) (m : List Byte) : Option (Dev × SpdmResp) :=
  some (d.modSpdm fun s =>
    { Spdm.reset with version := true, keyGen := s.keyGen, logA := m ++ spdmRsp 0x04 [[0x13]], waiting := s.waiting },
    .version 0x13)

def Dev.spdmCapabilities (d : Dev) (m : List Byte) : Option (Dev × SpdmResp) :=
  if d.spdm.version then
    some (d.modSpdm fun s => { s with caps := true, logA := s.logA ++ m ++ spdmRsp 0x61 [] }, .capabilities)
  else none

/-- NEGOTIATE_ALGORITHMS fails for a requester that supports none of the device's algorithms. -/
def Dev.spdmAlgorithms (d : Dev) (ok : Bool) (m : List Byte) : Option (Dev × SpdmResp) :=
  if d.spdm.caps && ok then
    some (d.modSpdm fun s => { s with algs := true, logA := s.logA ++ m ++ spdmRsp 0x63 [] }, .algorithms)
  else none

/-- GET_DIGESTS: the hash of the chain in slot 0. -/
def Dev.spdmDigests (d : Dev) (m : List Byte) : Option (Dev × SpdmResp) :=
  let h := Config.sm3 d.chain
  if d.spdm.algs then
    some (d.modSpdm fun s => { s with logB := s.logB ++ m ++ spdmRsp 0x01 [strBytes h 32] }, .digests h)
  else none

/-- GET_CERTIFICATE: slot 0 holds the IDS chain. -/
def Dev.spdmCertificate (d : Dev) (slot : BitVec 4) (m : List Byte) : Option (Dev × SpdmResp) :=
  if d.spdm.algs && slot == 0 then
    some (d.modSpdm fun s => { s with logB := s.logB ++ m ++ spdmRsp 0x02 [d.chain] }, .certificate d.chain)
  else none

/-- CHALLENGE: signed under IDS over the transcript. -/
def Dev.spdmChallenge (d : Dev) (nonce : B256) (m : List Byte) : Option (Dev × SpdmResp) :=
  let s := d.spdm
  if s.algs then
    let rsp := spdmRsp 0x03 [strBytes (Config.sm3 d.chain) 32, strBytes d.random 32]
    let sig := d.spdmSign "responder-challenge_auth signing" (s.logA ++ s.logB ++ m ++ rsp)
    some ((d.modSpdm fun s => { s with logB := [] }).tick, .challengeAuth nonce sig)
  else none

/-- The kind and the bytes of a measurement by its index: the quote's fields sampled at this instant (R239). -/
def Dev.spdmMeasure (d : Dev) (index : Nat) (nonce : B256) : Option (MeasKind × List Byte) :=
  let q := d.quote nonce
  match index with
  | 0x01 => some (.mutableFirmware, strBytes q.fwCtrl 32)
  | 0x02 => some (.mutableFirmware, strBytes q.fwNgs 32)
  | 0x03 => some (.firmwareConfig, [q.fwSvn, q.fuseSvn, q.stagedSvn])
  | 0x04 => some (.hardwareConfig, strBytes q.planHash 32 ++ strBytes q.armedHash 32)
  | 0x05 => some (.hardwareConfig, q.device)
  | 0x06 => some (.mutableFirmware, strBytes q.staged 32)
  | 0x30 => some (.rawBits, q.bytes)
  | i => if 0x10 ≤ i then (q.entries[i - 0x10]?).map fun e => (.hardwareConfig, e.bytes) else none

/-- GET_MEASUREMENTS, signed where the requester asks for it. -/
def Dev.spdmMeasurements (d : Dev) (index : Byte) (nonce : B256) (signed : Bool) (m : List Byte) :
    Option (Dev × SpdmResp) :=
  match d.spdm.algs, d.spdmMeasure index.toNat nonce with
  | true, some x =>
    let log := d.spdm.logL ++ m ++ spdmRsp 0x60 [[index], x.2]
    if signed then
      let sig := d.spdmSign "responder-measurements signing" (d.spdm.logA ++ log)
      some ((d.modSpdm fun s => { s with logL := [] }).tick, .measurement index x.1 x.2 (some sig))
    else some (d.modSpdm fun s => { s with logL := log }, .measurement index x.1 x.2 none)
  | _, _ => none

/-- KEY_EXCHANGE: the secret that both ephemeral keys agree, the signature over the transcript, and the responder's
verify data; exchange data that is no point of the curve fails. -/
def Dev.spdmKeyExchange (d : Dev) (ok : Bool) (data m : List Byte) : Option (Dev × SpdmResp) :=
  let s := d.spdm
  if s.algs && ok then
    let th := s.logA ++ strBytes (Config.sm3 d.chain) 32 ++ m ++ spdmRsp 0x64 [Config.ephemeral d.free]
    let sig := d.spdmSign "responder-key_exchange_rsp signing" th
    let th := th ++ strBytes sig.1 32 ++ strBytes sig.2 32
    let secret := spdmKey (Config.spdmAgree d.free data) "handshake" th
    let verify := spdmVerify secret "responder" th
    some ((d.modSpdm fun s => { s with session := some false, secret := secret, logK := th ++ verify }).tick,
      .keyExchangeRsp sig verify)
  else none

/-- FINISH: the requester's verify data ends the handshake, and the session is established. -/
def Dev.spdmFinish (d : Dev) (mac m : List Byte) : Option (Dev × SpdmResp) :=
  let s := d.spdm
  if s.session == some false && mac == spdmVerify s.secret "requester" (s.logK ++ m) then
    some (d.modSpdm fun s =>
      { s with session := some true, secret := spdmKey s.secret "application" (s.logK ++ m ++ mac), logK := [] },
      .finishRsp)
  else none

def Dev.spdmHeartbeat (d : Dev) : Option (Dev × SpdmResp) :=
  if d.spdm.session = some true then some (d, .heartbeatAck) else none

/-- KEY_UPDATE: the session's next keys. -/
def Dev.spdmKeyUpdate (d : Dev) : Option (Dev × SpdmResp) :=
  if d.spdm.session = some true then
    some (d.modSpdm fun s => { s with keyGen := s.keyGen + 1, secret := spdmKey s.secret "update" [] }, .keyUpdateAck)
  else none

def Dev.spdmEndSession (d : Dev) : Option (Dev × SpdmResp) :=
  if d.spdm.session = some true then
    some (d.modSpdm fun s => { s with session := none, secret := 0 }, .endSessionAck)
  else none

/-! ## Serving one at a time (R239) -/

/-- What a request does and what it is answered; none for an error. -/
def Dev.spdmDo (d : Dev) (r : SpdmReq) : Option (Dev × SpdmResp) :=
  match r with
  | .getVersion => d.spdmVersion r.bytes
  | .getCapabilities => d.spdmCapabilities r.bytes
  | .negotiateAlgorithms sm2 sm3 sm4 => d.spdmAlgorithms (sm2 && sm3 && sm4) r.bytes
  | .getDigests => d.spdmDigests r.bytes
  | .getCertificate slot => d.spdmCertificate slot r.bytes
  | .challenge nonce => d.spdmChallenge nonce r.bytes
  | .getMeasurements i nonce signed => d.spdmMeasurements i nonce signed r.bytes
  | .keyExchange ok data => d.spdmKeyExchange ok data r.bytes
  | .finish mac => d.spdmFinish mac r.bytes
  | .heartbeat => d.spdmHeartbeat
  | .keyUpdate => d.spdmKeyUpdate
  | .endSession => d.spdmEndSession

/-- The responder answers; a Scrapped device has no identity and answers LIFECYCLE (R211). -/
def Dev.spdmServe (d : Dev) (r : SpdmReq) : Dev :=
  if d.lcs.st = .scrapped then d.emit (.spdm .lifecycle)
  else match d.spdmDo r with
    | some x => x.1.emit (.spdm x.2)
    | none => d.emit (.spdm .error)

/-- A request comes: the core serves it at once, or after the mailbox request that it is serving. -/
def Dev.spdmCome (d : Dev) (r : SpdmReq) : Dev :=
  if d.sec.job.isSome then d.modSpdm fun s => { s with waiting := s.waiting ++ [r] } else d.spdmServe r

/-- The requests that waited are served in order of arrival. -/
def Dev.spdmWaiting (d : Dev) : Dev :=
  d.spdm.waiting.foldl Dev.spdmServe (d.modSpdm fun s => { s with waiting := [] })

/-! ## The commands -/

def doGetVersion (d : Dev) : Dev := d.spdmCome .getVersion
def execGetVersion (s : State) : Out := act s doGetVersion

def doGetCapabilities (d : Dev) : Dev := d.spdmCome .getCapabilities
def execGetCapabilities (s : State) : Out := act s doGetCapabilities

def doNegotiateAlgorithms (sm2 sm3 sm4 : Bool) (d : Dev) : Dev := d.spdmCome (.negotiateAlgorithms sm2 sm3 sm4)
def execNegotiateAlgorithms (sm2 sm3 sm4 : Bool) (s : State) : Out := act s (doNegotiateAlgorithms sm2 sm3 sm4)

def doGetDigests (d : Dev) : Dev := d.spdmCome .getDigests
def execGetDigests (s : State) : Out := act s doGetDigests

def doGetCertificate (slot : BitVec 4) (d : Dev) : Dev := d.spdmCome (.getCertificate slot)
def execGetCertificate (slot : BitVec 4) (s : State) : Out := act s (doGetCertificate slot)

def doSpdmChallenge (nonce : B256) (d : Dev) : Dev := d.spdmCome (.challenge nonce)
def execSpdmChallenge (nonce : B256) (s : State) : Out := act s (doSpdmChallenge nonce)

def doGetMeasurements (index : Byte) (nonce : B256) (signed : Bool) (d : Dev) : Dev :=
  d.spdmCome (.getMeasurements index nonce signed)
def execGetMeasurements (index : Byte) (nonce : B256) (s : State) (signed : Bool := false) : Out :=
  act s (doGetMeasurements index nonce signed)

def doKeyExchange (ok : Bool) (data : List Byte) (d : Dev) : Dev := d.spdmCome (.keyExchange ok data)
def execKeyExchange (ok : Bool) (s : State) (data : List Byte := []) : Out := act s (doKeyExchange ok data)

def doFinish (mac : List Byte) (d : Dev) : Dev := d.spdmCome (.finish mac)
def execFinish (mac : List Byte) (s : State) : Out := act s (doFinish mac)

def doHeartbeat (d : Dev) : Dev := d.spdmCome .heartbeat
def execHeartbeat (s : State) : Out := act s doHeartbeat

def doKeyUpdate (d : Dev) : Dev := d.spdmCome .keyUpdate
def execKeyUpdate (s : State) : Out := act s doKeyUpdate

def doEndSession (d : Dev) : Dev := d.spdmCome .endSession
def execEndSession (s : State) : Out := act s doEndSession

end Sys2Proof.Machine
end

