-- ==== Sys2Proof/Machine/Mailbox.lean ====
section
/-! DEFINITION. The SEC mailbox (R242): the requests for quotes, Device Sets, keys and firmware. -/

namespace Sys2Proof.Machine
open Sys2Proof

/-! ## Serving one request at a time -/

/-- What a request does: the device after it, its result and its response body. -/
abbrev Served := Dev × SecRes × SecBody

/-- A request completes with a result other than OK and changes nothing. Log entry 62 (DESIGN CHOICE). -/
def Dev.refuse (d : Dev) (r : SecRes) : Served := (d, r, .empty)

def SecRes.code : SecRes → Nat
  | .ok => 0 | .malformed => 1 | .denied => 2 | .kcvMismatch => 3 | .stale => 4 | .busy => 5
  | .badSignature => 6 | .tooLate => 7 | .notMember => 8 | .lifecycle => 9 | .rollback => 10

/-- The core serves request `code` (R242): while it serves another the doorbell is ignored and raises
OVERRUN; a Scrapped device answers LIFECYCLE (R369). The response is published when the request
completes. Log entries 62 (DESIGN CHOICE), 67 (DEDUCED). -/
def Dev.serve (d : Dev) (code : BitVec 16) (f : Dev → Served) : Dev :=
  if d.sec.job.isSome then d.raise .sec 1
  else
    let r := if d.lcs.st = .scrapped then d.refuse .lifecycle else f d
    { r.1 with sec :=
      { r.1.sec with rspValid := false, tag := Tab.get 0 r.1.sec.req 1, job := some { code := code, res := r.2.1, body := r.2.2 } } }

/-- A Device Set request outside Fielded completes with LIFECYCLE (R362). Log entry 62 (DESIGN CHOICE). -/
def Dev.serveSet (d : Dev) (code : BitVec 16) (f : Dev → Served) : Dev :=
  d.serve code fun d => if d.lcs.st = .fielded then f d else d.refuse .lifecycle

/-- The first failing check of a list, if any. Log entry 62 (DESIGN CHOICE). -/
def firstBad : List (Bool × SecRes) → Option SecRes
  | [] => none
  | (bad, r) :: xs => if bad then some r else firstBad xs

/-- The request acts when every check holds. Log entry 62 (DESIGN CHOICE). -/
def Dev.checked (d : Dev) (cs : List (Bool × SecRes)) (f : Dev → Served) : Served :=
  match firstBad cs with
  | some r => d.refuse r
  | none => f d

/-! ## Quotes and certificates -/

/-- GET_QUOTE (R234). -/
def doGetQuote (nonce : B256) (d : Dev) : Dev :=
  d.serve 0x0001 fun d =>
    let x := d.signQuote nonce
    (x.1, .ok, .quote x.2.1 x.2.2)

def execGetQuote (nonce : B256) (s : State) : Out := act s (doGetQuote nonce)

/-- GET_CERTS (R211): the identity chain, under the certificate authority of the ordering code. -/
def doGetCerts (d : Dev) : Dev := d.serve 0x0002 fun d => (d, .ok, .certs d.orderingCode)

def execGetCerts (s : State) : Out := act s doGetCerts

/-! ## Device Sets (R224–R229) -/

/-- A system slot holds a key that the core made or derived. -/
def Dev.putSystem (d : Dev) (i : Nat) (attr : BitVec 2) (key : B256) : Dev :=
  d.modSlot i fun x =>
    { Slot.reset with
      loaded := true, key := key, attr := attr, gen := x.gen + 1, source := 3,
      kcv := kcvOf key (keyLenOf attr) }

/-- A key that the core derives from a set key for system slot `i`. Log entry 65 (DESIGN CHOICE). -/
def derived (set : B256) (i : Nat) : B256 := Config.kdf set [BitVec.ofNat 8 i]

/-- The slots that the core derives from slot 0x00 (R226): slot 0x02 (R257) and slots 0x05–0x0F, to which the spec
gives no use, always; the reserve's pair, slots 0x03 and 0x04, when they hold none (R325).
Log entry 65 (DESIGN CHOICE). -/
def Dev.deriveSlots (d : Dev) (set : B256) : Dev :=
  let d := (2 :: (List.range 11).map (· + 5)).foldl (fun (d : Dev) i => d.putSystem i 3 (derived set i)) d
  let d := if (d.slot 3).loaded then d else d.putSystem 3 0 (derived set 3)
  if (d.slot 4).loaded then d else d.putSystem 4 1 (derived set 4)

/-- A new set key in slot 0x00; the current one becomes the previous epoch's in slot 0x01 (R226). -/
def Dev.installSetKey (d : Dev) (key : B256) (m : SetMember) : Dev :=
  let d := if (d.slot 0).loaded then d.putSystem 1 3 (d.slot 0).key else d
  let d := (d.putSystem 0 3 key).deriveSlots key
  ({ d with sec := { d.sec with member := some m } } : Dev).raise .sec 5

/-- SET_FOUND (R224): the first member of a set draws its key, at epoch 1. -/
def doSetFound (root : B256) (p : SetPolicy) (addr : BitVec 20) (d : Dev) : Dev :=
  d.serveSet 0x0010 fun d =>
    d.checked
      [(!p.verifies, .badSignature),
        (d.sec.member.isSome || d.planActive || p.setId == 0 || d.sec.trngFail, .denied)]
      fun d =>
        let m : SetMember :=
          { setId := p.setId, epoch := 1, addr := addr, root := root, policy := p, origin := none }
        ((d.installSetKey d.random m).tick, .ok, .empty)

def execSetFound (root : B256) (p : SetPolicy) (addr : BitVec 20) (s : State) : Out :=
  act s (doSetFound root p addr)

/-- The rows of the admission table (R225) that a candidate fails, ascending.
Log entry 65 (DESIGN CHOICE). -/
def Dev.admissionFails (d : Dev) (m : SetMember) (c : Candidate) : List Nat :=
  let rows : List Bool :=
    [c.chainOk, c.sigOk && c.nonceOk,
      c.lcs.toNat == d.lcs.st.code && !c.debugOpened && !c.lockdown,
      m.policy.pairs.contains (c.fwCtrl, c.fwNgs) && decide (m.policy.minSvn.toNat ≤ c.fwSvn.toNat),
      c.setId == 0 || (c.setId == m.setId && decide (c.setEpoch.toNat < m.epoch.toNat))]
  (rows.zipIdx.filter fun x => !x.1).map fun x => x.2 + 1

/-- SET_ADMIT (R225): the admission blob, or DENIED with the failed row. Log entry 65 (DESIGN CHOICE). -/
def doSetAdmit (c : Candidate) (addr : BitVec 20) (d : Dev) : Dev :=
  d.serveSet 0x0011 fun d =>
    match d.sec.member with
    | none => d.refuse .notMember
    | some m => match d.admissionFails m c with
      | r :: _ => (d, .denied, .deniedRow r)
      | [] =>
        let order : Option RotationOrder := m.origin.map fun o =>
          { setId := m.setId, epoch := m.epoch, origin := o, sigOk := true }
        (d.tick, .ok, .admission addr m.epoch (d.admissionBlob m c.ide addr) order)

def execSetAdmit (c : Candidate) (addr : BitVec 20) (s : State) : Out := act s (doSetAdmit c addr)

/-- The order that a blob of an epoch above 1 must carry (R227). Log entry 65 (DESIGN CHOICE). -/
def AdmissionBlob.orderOk (b : AdmissionBlob) : Bool :=
  match b.order with
  | some o => o.sigOk && o.setId == b.policy.setId && o.epoch == b.epoch
  | none => b.epoch == 1

/-- SET_JOIN (R226, R227): a member takes a later epoch of its own set; for an epoch whose key it holds
it keeps its key, and refuses another origin's. Log entry 65 (DESIGN CHOICE). -/
def doSetJoin (b : AdmissionBlob) (d : Dev) : Dev :=
  d.serveSet 0x0012 fun d =>
    let origin := b.order.map (·.origin)
    let m : SetMember :=
      { setId := b.policy.setId, epoch := b.epoch, addr := b.addr, root := b.root, policy := b.policy,
        origin := origin }
    d.checked [(!b.opens || !b.sigOk || !b.policy.verifies, .badSignature), (!AdmissionBlob.orderOk b, .denied)]
      fun d => match d.sec.member with
        | none => (d.installSetKey b.setKey m, .ok, .empty)
        | some cur =>
          if cur.setId ≠ b.policy.setId then d.refuse .denied
          else if b.epoch.toNat < cur.epoch.toNat then d.refuse .stale
          else if b.epoch = cur.epoch then
            if cur.origin = origin then (d, .ok, .empty) else d.refuse .denied
          else (d.installSetKey b.setKey m, .ok, .empty)

def execSetJoin (b : AdmissionBlob) (s : State) : Out := act s (doSetJoin b)

/-- SET_ROTATE (R227): under a rotation order that names this member, a new key for the next epoch. -/
def doSetRotate (o : RotationOrder) (d : Dev) : Dev :=
  d.serveSet 0x0013 fun d =>
    match d.sec.member with
    | none => d.refuse .notMember
    | some m =>
      d.checked
        [(!o.sigOk || o.setId != m.setId || o.origin != m.addr || o.epoch != m.epoch + 1 ||
          d.sec.trngFail, .denied)]
        fun d =>
          ((d.installSetKey d.random { m with epoch := o.epoch, origin := some o.origin }).tick, .ok, .empty)

def execSetRotate (o : RotationOrder) (s : State) : Out := act s (doSetRotate o)

/-- SET_RETIRE (R226): the previous epoch's key is destroyed. -/
def doSetRetire (d : Dev) : Dev :=
  d.serveSet 0x0014 fun d =>
    if d.sec.member.isNone then d.refuse .notMember else (d.destroySlot 1, .ok, .empty)

def execSetRetire (s : State) : Out := act s doSetRetire

/-! ## Loading keys (R213, R215, R216, R218, R230–R232) -/

/-- The layout of a list of entries: 1 to 32 of them, content slots, key lengths by attribute, and no slot
named twice. -/
def entriesLaid (es : List KeyEntry) : Bool :=
  let slots := es.map (·.slot.val)
  1 ≤ es.length && es.length ≤ 32 && slots.all (16 ≤ ·) && decide slots.Nodup &&
    es.all fun e => e.keyLen == keyLenOf e.attr

/-- Some KEY_POLICY entry names the slot with this source and, for a bundle, this identifier. -/
def policyNames (p : StandPlan) (s : Nat) (source : Byte) (bundle : BitVec 16) : Bool :=
  p.keyPolicy.any fun k =>
    k.slotFirst.toNat ≤ s && s < k.slotFirst.toNat + k.slotCount.toNat && k.source == source &&
      (source != 0 || k.bundleId == bundle)

/-- Where an entry may go: `some false` under the active plan, `some true` held for the armed plan
(R216). -/
def Dev.placeFor (d : Dev) (source : Byte) (bundle : BitVec 16) (e : KeyEntry) : Option Bool :=
  let fits (p : StandPlan) : Bool :=
    policyNames p e.slot.val source bundle && bindingFits p e.attr e.owner e.mask
  let named := match d.plan.active with | some p => slotNamed p e.slot.val | none => false
  if named then (d.plan.active.filter fits).map fun _ => false
  else if d.plan.st = .armed then (d.plan.armed.filter fits).map fun _ => true
  else none

/-- One entry loads: an empty slot takes the key, a loaded one takes it in its shadow (R231). -/
def Dev.loadEntry (d : Dev) (source : BitVec 2) (held : Bool) (e : KeyEntry) : Dev :=
  let n := e.slot.val
  if (d.slot n).loaded then
    d.modSlot n fun x =>
      { x with shadow := some { key := e.key, kcv := e.kcv, attr := e.attr, owner := e.owner, mask := e.mask,
                                source := source, bundleOk := e.bundleOk } }
  else
    (d.modSlot n fun x =>
      { Slot.reset with
        loaded := true, key := e.key, attr := e.attr, owner := e.owner, mask := e.mask, gen := x.gen + 1,
        source := source, kcv := e.kcv, bundleOk := e.bundleOk, held := held }).remeasureSlot n

/-- A scrub that waited for its new pair no longer waits once both slots hold keys (R207). -/
def Dev.keysCame (d : Dev) : Dev :=
  (List.range 16).foldl (fun d n =>
    if (d.frame n).waitKeys && d.pairLoaded n then d.modFrame n fun x => { x with waitKeys := false }
    else d) d

/-- Loading a list of entries once the request's own checks hold: each must be named and fit, each KCV
must agree, and no shadow may be occupied; else nothing loads. -/
def Dev.loadEntries (d : Dev) (source : BitVec 2) (policy : Byte) (bundle : BitVec 16)
    (es : List KeyEntry) : Served :=
  d.checked
    [(es.any fun e => (d.placeFor policy bundle e).isNone, .denied),
      (es.any fun e => kcvOf e.key e.keyLen != e.kcv, .kcvMismatch),
      (es.any fun e => (d.slot e.slot.val).shadow.isSome, .busy)]
    fun d =>
      let x := es.foldl (fun x e => x.loadEntry source ((d.placeFor policy bundle e).getD false) e) d
      (x.keysCame, .ok, .empty)

/-- LOAD_BUNDLE (R230, R231): a bundle of the current or the previous epoch of the member's set. The entries are read
once the tag fits. Log entry 22 (DESIGN CHOICE). -/
def doLoadBundle (bytes : List Byte) (d : Dev) : Dev :=
  d.serve 0x0020 fun d =>
    let b := d.openBundle bytes
    match d.sec.member with
    | none => d.refuse .notMember
    | some m =>
      let current := b.setEpoch == m.epoch
      let previous := (d.slot 1).loaded && decide (b.setEpoch.toNat < m.epoch.toNat) &&
        decide (m.epoch.toNat ≤ b.setEpoch.toNat + 1)
      let es := b.entries.getD []
      d.checked
        [(!b.wellLaid, .malformed), (b.setId != m.setId, .denied), (!(current || previous), .stale),
          (!b.tagOk, .badSignature), (!entriesLaid es, .malformed)]
        fun d => d.loadEntries 1 0 b.bundleId es

def execLoadBundle (bytes : List Byte) (s : State) : Out := act s (doLoadBundle bytes)

/-- The key whose signature a release of `owner` must carry: the roster's, or under a BENCH plan the BENCH
signing key. Log entry 66 (DEDUCED). -/
def Dev.releaseKeyOk (d : Dev) (owner : BitVec 6) (key : B256) : Bool :=
  match d.sec.member with
  | some m => m.policy.roster.any fun r => r.1 == owner && r.2 == Config.rootHash key
  | none => match d.plan.active with
    | some p => p.bench && Config.rootHash key == p.signerKey
    | none => false

/-- The nonce is one of the last eight that the device signed within the last 60 s (R232). -/
def Dev.nonceFresh (d : Dev) (nonce : B256) : Bool :=
  d.sec.nonces.any fun x => x.1 == nonce && decide (d.timeUs ≤ x.2 + 60000000)

/-- LOAD_RELEASED (R232). -/
def doLoadReleased (r : Release) (d : Dev) : Dev :=
  d.serve 0x0021 fun d =>
    d.checked
      [(!r.wellLaid || !entriesLaid r.entries, .malformed),
        (!r.sigOk || !d.releaseKeyOk r.owner r.sigKey, .badSignature),
        (!d.nonceFresh r.nonce, .stale),
        (r.addr != d.addr || r.identity != d.identity || r.entries.any (·.owner != r.owner), .denied)]
      fun d => d.loadEntries 2 1 0 r.entries

def execLoadReleased (r : Release) (s : State) : Out := act s (doLoadReleased r)

/-! ## Requests that name slots (R218, R219, R233, R242) -/

/-- A named slot is a system slot. -/
def namesSystem (rs : List SlotRef) : Bool := rs.any (·.slot.val < 16)

/-- A named slot's GEN is not the one expected. -/
def Dev.genStale (d : Dev) (rs : List SlotRef) : Bool := rs.any fun r => (d.slot r.slot.val).gen != r.gen

/-- The source of a slot's key lets it be sealed (R233). -/
def Slot.sealable (x : Slot) : Bool := x.loaded && (x.source == 1 || (x.source == 2 && x.bundleOk))

/-- MAKE_BUNDLE (R233): a new bundle under the current set key; the core draws its IV. -/
def doMakeBundle (id : BitVec 16) (rs : List SlotRef) (d : Dev) : Dev :=
  d.serve 0x0022 fun d =>
    match d.sec.member with
    | none => d.refuse .notMember
    | some m =>
      let slots := rs.map (·.slot.val)
      d.checked
        [(slots.isEmpty || decide (32 < slots.length) || !decide slots.Nodup, .malformed),
          (namesSystem rs, .denied), (d.genStale rs, .stale),
          (!slots.all fun s => (d.slot s).sealable, .denied)]
        fun d =>
          let header := bundleHeader slots.length m.setId m.epoch id (strBytes d.random 12)
          let blob := sealBundle (d.slot 0).key header (slots.flatMap fun s => entryBytes s (d.slot s))
          (d.tick, .ok, .bundle id m.epoch (rs.map (·.slot)) blob)

def execMakeBundle (id : BitVec 16) (slots : List SlotRef) (s : State) : Out := act s (doMakeBundle id slots)

/-- A slot of a memory pair is named without its partner (R219). Log entry 63 (DEDUCED). -/
def Dev.halfPair (d : Dev) (slots : List Nat) : Bool :=
  d.clearings.any fun n => match d.keySlot n 0, d.keySlot n 1 with
    | some e, some o => slots.contains e != slots.contains o
    | _, _ => false

/-- SWAP (R218, R219): the shadows of the named slots swap in at a later mark. Log entry 63 (DEDUCED). -/
def doSwap (rs : List SlotRef) (pos : BitVec 64) (d : Dev) : Dev :=
  d.serve 0x0023 fun d =>
    let slots := rs.map (·.slot.val)
    d.checked
      [(slots.isEmpty, .malformed), (namesSystem rs, .denied), (d.genStale rs, .stale),
        (slots.any fun s => (d.slot s).swapPos.isSome || (d.slot s).outgoing, .busy),
        (d.halfPair slots || slots.any fun s => (d.slot s).shadow.isNone, .denied),
        (decide (pos.toNat ≤ d.tide.pos.toNat), .tooLate)]
      fun d => (slots.foldl (fun d s => d.modSlot s fun x => { x with swapPos := some pos }) d, .ok, .empty)

def execSwap (slots : List SlotRef) (pos : BitVec 64) (s : State) : Out := act s (doSwap slots pos)

/-- CANCEL_SWAP (R219): the pending swaps of the named slots are withdrawn; the shadows stay.
Log entry 63 (DEDUCED). -/
def doCancelSwap (rs : List SlotRef) (d : Dev) : Dev :=
  d.serve 0x0024 fun d =>
    let slots := rs.map (·.slot.val)
    d.checked
      [(slots.isEmpty, .malformed), (namesSystem rs, .denied), (d.genStale rs, .stale),
        (d.halfPair slots || slots.any fun s => (d.slot s).swapPos.isNone, .denied)]
      fun d =>
        ((slots.foldl (fun d s => d.modSlot s fun x => { x with swapPos := none }) d).raise .sec 3, .ok, .empty)

def execCancelSwap (slots : List SlotRef) (s : State) : Out := act s (doCancelSwap slots)

/-- DESTROY (R242): the named slots lose key, shadow and pending swap. -/
def doDestroy (rs : List SlotRef) (d : Dev) : Dev :=
  d.serve 0x0025 fun d =>
    d.checked
      [(rs.isEmpty, .malformed), (namesSystem rs, .denied), (d.genStale rs, .stale)]
      fun d => (rs.foldl (fun d r => d.wipeSlot r.slot.val) d, .ok, .empty)

def execDestroy (slots : List SlotRef) (s : State) : Out := act s (doDestroy slots)

/-! ## Firmware (R240, R241, R366) -/

/-- FW_STAGE (R241): the image is checked and held as the staged image. -/
def doFwStage (img : FwImage) (d : Dev) : Dev :=
  d.serve 0x0030 fun d =>
    d.checked
      [(!FwImage.wellLaid img, .malformed), (!FwImage.verifies img, .badSignature),
        (decide (img.svn.toNat < d.fuseSvn.toNat), .rollback)]
      fun d =>
        let x : FwImg := { target := img.target, svn := img.svn, hash := img.hash }
        ({ d with sec := { d.sec with fw := { d.sec.fw with staged := some x, activated := false } } }, .ok,
          .empty)

def execFwStage (img : FwImage) (s : State) : Out := act s (doFwStage img)

/-- FW_ACTIVATE (R241): the staged image runs from the next cold reset. Log entry 64 (DEDUCED). -/
def doFwActivate (d : Dev) : Dev :=
  d.serve 0x0031 fun d =>
    if d.sec.fw.staged.isNone then d.refuse .denied
    else ({ d with sec := { d.sec with fw := { d.sec.fw with activated := true } } }, .ok, .empty)

def execFwActivate (s : State) : Out := act s doFwActivate

/-- A free FW_COMMIT record: there are 16 (R366). Log entry 64 (DEDUCED). -/
def Dev.commitRoom (d : Dev) : Bool := decide (d.sec.fw.commits.length < 16)

/-- FW_COMMIT would burn. Log entry 64 (DEDUCED). -/
def Dev.commitNeeded (d : Dev) : Bool := decide (d.fuseSvn.toNat < d.fwSvn.toNat)

/-- The burn of FW_COMMIT begins: its record's TARGET word holds the running SVN. Log entry 64 (DEDUCED). -/
def Dev.commitBegin (d : Dev) : Dev :=
  { d with sec := { d.sec with fw := { d.sec.fw with commits := d.sec.fw.commits ++ [(d.fwSvn, false)] } } }

/-- The burn of FW_COMMIT ends. Log entry 64 (DEDUCED). -/
def Dev.commitEnd (d : Dev) : Dev := d.commitsEnded

/-- FW_COMMIT (R241, R366): FUSE_SVN is raised to the running SVN by a burn sequence, which waits for a
life-cycle sequence. Log entry 64 (DEDUCED). -/
def doFwCommit (d : Dev) : Dev :=
  d.serve 0x0032 fun d =>
    if !d.commitNeeded then (d, .ok, .empty)
    else if !d.commitRoom then d.refuse .denied
    else if d.lcs.burning then (d, .ok, .empty)
    else (d.commitBegin, .ok, .empty)

def execFwCommit (s : State) : Out := act s doFwCommit

/-! ## MAILBOX_REQUEST_DONE -/

/-- The job is an FW_COMMIT that waits for a life-cycle burn. Log entry 64 (DEDUCED). -/
def Dev.commitWaits (d : Dev) : Bool :=
  match d.sec.job with
  | some j => j.code == 0x0032 && d.lcs.burning
  | none => false

/-- MAILBOX_REQUEST_DONE (R242): the response is in the window, RSP_VALID and DONE rise. An FW_COMMIT has
burnt its words; after a sequence to Scrapped it completes LIFECYCLE (R376). The SPDM requests that came meanwhile
follow (R239).
Log entry 62 (DESIGN CHOICE). -/
def doMailboxRequestDone (d : Dev) : Dev :=
  match d.sec.job with
  | none => d
  | some j =>
    if d.commitWaits then d
    else
      let late := j.code == 0x0032 && d.lcs.st == .scrapped
      let j : SecJob := if late then { j with res := .lifecycle } else j
      let d := if j.code == 0x0032 && j.res == .ok then
          (if d.commitNeeded && d.sec.fw.commits.all (·.2) then d.commitBegin else d).commitEnd
        else d
      let d : Dev := { d with sec :=
        { d.sec with job := none, rsp := some j, rspValid := true, result := BitVec.ofNat 8 (SecRes.code j.res),
                     code := j.code } }
      let d := (d.raise .sec 0).spdmWaiting
      match j.code == 0x0032, d.lcs.waiting with
      | true, some t => d.advance t
      | _, _ => d

def execMailboxRequestDone (s : State) : Out := act s doMailboxRequestDone

end Sys2Proof.Machine
end

