-- ==== Sys2Proof/Machine/ThreadOps.lean ====
section
/-! DEFINITION. Thread contexts as shared operations (R138–R149): registers, issue, launches, faults
and memory requests. -/

namespace Sys2Proof.Machine
open Sys2Proof

/-! ## Contexts and registers (R138, R139) -/

/-- A context's key in the device's table: 512 to a core. -/
def ctxKey (c : CtxId) : Nat := 512 * c.core.val + c.n.val
def ctxTile (k : Nat) : Nat := k / 512 / 32

/-- x0 reads 0. -/
def Ctx.getX (c : Ctx) (r : Nat) : DWord := if r = 0 then 0 else Tab.get 0 c.x r
/-- x0 ignores writes. -/
def Ctx.putX (c : Ctx) (r : Nat) (v : DWord) : Ctx := if r = 0 then c else { c with x := Tab.set 0 c.x r v }
def Ctx.getV (c : Ctx) (r : Nat) : B256 := Tab.get 0 c.v r
def Ctx.putV (c : Ctx) (r : Nat) (v : B256) : Ctx := { c with v := Tab.set 0 c.v r v }
def Ctx.advance (c : Ctx) : Ctx := { c with pc := c.pc + 4 }

/-- The launch that a context runs. -/
def Dev.ctxLaunch (d : Dev) (k : Nat) : Option LaunchSt :=
  match (d.ctx k).launch with
  | some i => d.launches.find? fun l => l.id == i
  | none => none

/-- Memory operations of a context that are outstanding. -/
def Dev.memOut (d : Dev) (k : Nat) : Nat := (d.mem.reqs.filter fun r => r.ctx == k).length

/-- The launch of a context that is ready to issue an instruction with these registers (R139). Which ready context
issues next is the sender's order of commands, not the rule's round-robin. Log entry 113 (DESIGN CHOICE). -/
def Dev.issuer (d : Dev) (k : Nat) (regs : List Dest) : Option LaunchSt :=
  match d.ctxLaunch k with
  | some l =>
    let c := d.ctx k
    if l.ph == .running && !c.exited && !c.atBarrier && d.memOut k < 16 &&
        regs.all (fun r => !c.outstanding.contains r) then some l
    else none
  | none => none

/-- Issue an instruction that only changes its context. -/
def Dev.issue (d : Dev) (k : Nat) (regs : List Dest) (f : LaunchSt → Ctx → Ctx) : Dev :=
  match d.issuer k regs with
  | some l => d.modCtx k fun c => (f l c).advance
  | none => d

/-- An undefined instruction: a fault of the launch when the context issues it (R162).
Log entry 53 (DESIGN CHOICE). -/
def Dev.undefinedInstr (d : Dev) (k : Nat) (regs : List Dest) (fault : Dev → Dev) : Dev :=
  match d.issuer k regs with
  | some _ => fault d
  | none => d

/-! ## Identity (R142) -/

def LaunchSt.tileList (l : LaunchSt) : List Nat := bitsOf l.tiles.toNat 96

def LaunchSt.rankOf (l : LaunchSt) (k slot : Nat) : Nat :=
  let t := ctxTile k
  let pos := (l.tileList.filter (· < t)).length
  pos * 32 * l.perCore + k / 512 % 32 * l.perCore + slot

def LaunchSt.special (l : LaunchSt) (k : Nat) (c : Ctx) : SpecialReg → DWord
  | .tile => BitVec.ofNat 64 (ctxTile k)
  | .core => BitVec.ofNat 64 (k / 512 % 32)
  | .ctx => BitVec.ofNat 64 c.slotIdx
  | .rank => BitVec.ofNat 64 (l.rankOf k c.slotIdx)
  | .nranks => BitVec.ofNat 64 (l.tileList.length * 32 * l.perCore)
  | .clearing => BitVec.ofNat 64 l.clearing
  | .launchSeq => l.seq.setWidth 64
  | .vflags => c.vflags.setWidth 64

/-! ## Faults (R162) -/

def Dev.modLaunch (d : Dev) (id : Nat) (f : LaunchSt → LaunchSt) : Dev :=
  { d with launches := d.launches.map fun l => if l.id = id then f l else l }

/-- The first fault of a launch stops it; its status, INFO and rank are kept. -/
def Dev.faultLaunch (d : Dev) (k : Nat) (st : Status) (det : Detail) (info : BitVec 64) : Dev :=
  match d.ctxLaunch k with
  | some l =>
    if l.ph = .running then
      d.modLaunch l.id fun l =>
        { l with ph := .stopping, status := st, detail := det, info := info,
                 rank := BitVec.ofNat 21 (l.rankOf k (d.ctx k).slotIdx) }
    else d
  | none => d

/-- An access of context `k` failed, and its failure has ended the launch that was running in `d₀`: the
launch's record shows it (R302). -/
def Dev.blameLaunch (d₀ d : Dev) (k : Nat) (st : Status) (det : Detail) (info : BitVec 64) : Dev :=
  match d₀.ctxLaunch k with
  | some l =>
    if l.ph = .running then
      d₀.blame d l.queue.val l.seq st det info (BitVec.ofNat 21 (l.rankOf k (d₀.ctx k).slotIdx))
    else d
  | none => d

/-- An instruction with a reserved field that is not 0, or undefined, faults; another has its own effect (R162). -/
def defined (k : Nat) (reserved : Bool) (f : Dev → Dev) (d : Dev) : Dev :=
  if reserved then d.undefinedInstr k [] fun d => d.faultLaunch k .aborted .none 0 else f d

/-! ## Memory accesses (R146) -/

/-- The bytes lie in the launch's operand-store pages; no byte lies anywhere (R154: a stream of 0 elements). -/
def LaunchSt.inPages (l : LaunchSt) (off n : Nat) : Bool :=
  n == 0 || 4096 * l.tsFirst ≤ off && off + n ≤ 4096 * (l.tsFirst + l.tsCount) && off + n ≤ opBytes

/-- The checks of R146, in order: the object, or the status of the first failure. -/
def Dev.threadCheck (d : Dev) (l : LaunchSt) (slot off size align : Nat) (write : Bool) :
    Word × Obj × Status :=
  let h := l.handles[slot]?.getD 0xFFFFFFFF
  let o := d.obj (objIndex h)
  if h = 0xFFFFFFFF then (h, o, .aborted)
  else if !o.holds off size then (h, o, .aborted)
  else if !(o.clearing.toNat == l.clearing ||
      (!write && o.owner == 0 && d.readGrant o.clearing.toNat l.clearing)) then (h, o, .ownerDenied)
  else if off % align ≠ 0 then (h, o, .aborted)
  else (h, o, .ok)

/-- Issue a memory operation: checked, then sent to the line's home slice, or a fault. -/
def Dev.memIssue (d : Dev) (k : Nat) (regs : List Dest) (slot : Nat) (off : BitVec 64) (size align : Nat)
    (write : Bool) (dest : Dest) (kind : Ctx → AccKind) : Dev :=
  match d.issuer k regs with
  | none => d
  | some l =>
    let x := d.threadCheck l slot off.toNat size align write
    if x.2.2 ≠ .ok then d.faultLaunch k x.2.2 .none (if x.2.2 = .ownerDenied then x.1.setWidth 64 else 0)
    else
      let o := x.2.1
      let r : MemReq :=
        { id := d.mem.nextReq, ctx := k, tile := ctxTile k, gen := d.tileGen (ctxTile k),
          clearing := o.clearing.toNat, asker := l.clearing, handle := x.1, region := o.region.toNat, ra := o.base + off.toNat,
          kind := kind (d.ctx k), dest := dest, served := false, status := .ok, detail := .none, result := [] }
      let d : Dev := { d with mem := { d.mem with
        reqs := d.mem.reqs ++ [r], nextReq := d.mem.nextReq + 1 } }
      d.modCtx k fun c =>
        ({ c with outstanding := if dest = Dest.none then c.outstanding else dest :: c.outstanding }).advance

/-- The command of a launch, where it is a scheduled one. -/
def Dev.launchHolder (d : Dev) (l : LaunchSt) : Option (Nat × Word) :=
  (d.cmd l.queue.val l.seq).bind fun c => c.holder l.queue.val

/-! ## Barriers (R145) -/

/-- The contexts of a launch on a tile. -/
def Dev.peers (d : Dev) (id t : Nat) : List Nat :=
  (d.ctxs.filter fun x => x.2.launch == some id && ctxTile x.1 == t).map (·.1)

/-- When every thread of the launch on the tile waits or has exited, those that wait go on. -/
def Dev.releaseBarrier (d : Dev) (id t : Nat) : Dev :=
  let ks := d.peers id t
  if ks.all fun k => (d.ctx k).atBarrier || (d.ctx k).exited then
    ks.foldl (fun d k => d.modCtx k fun c => { c with atBarrier := false }) d
  else d

/-! ## Launches (R141–R143) -/

/-- Physical contexts of a core that no launch holds, lowest first. -/
def Dev.freeCtxs (d : Dev) (core : Nat) : List Nat :=
  ((List.range 512).map (512 * core + ·)).filter fun k => (d.ctx k).launch.isNone

/-- Every core of the launch's tiles has enough free contexts. Log entry 50 (DEDUCED). -/
def Dev.roomFor (d : Dev) (tiles perCore : Nat) : Bool :=
  (bitsOf tiles 96).all fun t => (List.range 32).all fun i => perCore ≤ (d.freeCtxs (32 * t + i)).length

/-- Nothing of the launch is under way in memory or in an engine. -/
def Dev.launchQuiet (d : Dev) (id : Nat) : Bool :=
  let mine (k : Nat) : Bool := (d.ctx k).launch == some id
  d.mem.reqs.all (fun r => !mine r.ctx) &&
    d.tiles.all fun p => p.2.setq.all (fun o => !mine o.ctx) && p.2.vecq.all (fun b => !mine b.ctx)

def Dev.allExited (d : Dev) (id : Nat) : Bool :=
  d.ctxs.all fun x => x.2.launch != some id || x.2.exited

end Sys2Proof.Machine
end

