-- ==== Sys2Proof/Machine/Engines.lean ====
section
/-! DEFINITION. The set engine (R154–R159) and the vector unit (R160, R161, R308). -/

namespace Sys2Proof.Machine
open Sys2Proof

/-! ## Set operations on sorted streams (R155, R156) -/

/-- What a set operation leaves: output values with their positions in A and B, the status of R156, and
the position, in its own stream, of the element at which it stopped. Log entry 53 (DESIGN CHOICE). -/
structure SetOut where
  vals   : List (Nat × Nat × Nat)
  status : Nat
  pos    : Nat
deriving DecidableEq, Repr

/-- An element that breaks the order of its stream: not above its predecessor, or, in MERGE, below it. -/
def outOfOrder (merge : Bool) (prev : Option Nat) (x : Nat) : Bool :=
  match prev with
  | some p => if merge then x < p else x ≤ p
  | none => false

/-- The merge of two streams under operation `op` (1 INTERSECT, 2 UNION, 3 DIFF, 4 MERGE), with the last
elements taken, the positions reached and the output places left. -/
def setMerge (op : Nat) : Nat → List Nat → List Nat → Option Nat → Option Nat → Nat → Nat → Nat → SetOut
  | 0, _, _, _, _, _, _, _ => { vals := [], status := 0, pos := 0 }
  | fuel + 1, as, bs, pa, pb, ia, ib, left =>
    let emit (v at_ : Nat) (rest : Nat → SetOut) : SetOut :=
      match left with
      | 0 => { vals := [], status := 2, pos := at_ }
      | n + 1 => let r := rest n; { r with vals := (v, ia, ib) :: r.vals }
    let bad (x : Option Nat) (prev : Option Nat) : Bool :=
      match x with | some x => outOfOrder (op == 4) prev x | none => false
    if bad as.head? pa then { vals := [], status := 1, pos := ia }
    else if bad bs.head? pb then { vals := [], status := 1, pos := ib }
    else match as, bs with
      | [], [] => { vals := [], status := 0, pos := 0 }
      | a :: as', [] =>
        let rest := setMerge op fuel as' [] (some a) pb (ia + 1) ib
        if op = 1 then rest left else emit a ia rest
      | [], b :: bs' =>
        let rest := setMerge op fuel [] bs' pa (some b) ia (ib + 1)
        if op = 2 || op = 4 then emit b ib rest else rest left
      | a :: as', b :: bs' =>
        if a < b || (op = 4 && a = b) then
          let rest := setMerge op fuel as' (b :: bs') (some a) pb (ia + 1) ib
          if op = 1 then rest left else emit a ia rest
        else if a = b then
          let rest := setMerge op fuel as' bs' (some a) (some b) (ia + 1) (ib + 1)
          if op = 3 then rest left else emit a ia rest
        else
          let rest := setMerge op fuel (a :: as') bs' pa (some b) ia (ib + 1)
          if op = 2 || op = 4 then emit b ib rest else rest left

/-! ## PROBE (R157) -/

def emptyKey : Nat := 0xFFFFFFFF

/-- The home bucket of a key among 2^lg buckets. -/
def homeBucket (lg k : Nat) : Nat :=
  if lg = 0 then 0 else k * 0x9E3779B1 % 2 ^ 32 / 2 ^ (32 - lg)

/-- What a bucket of 64 bytes says of a key: its value, or that the search ends without one. -/
def bucketLook (k : Nat) (b : List Byte) : Option Nat :=
  let key (i : Nat) : Nat := leVal ((b.drop (4 * i)).take 4)
  match (List.range 8).find? fun i => key i == k && k != emptyKey with
  | some i => some (leVal ((b.drop (32 + 4 * i)).take 4))
  | none => if (List.range 8).any fun i => key i == emptyKey then some emptyKey else none

/-- Probe up to `fuel` buckets from `h`; none where all are full without a match. -/
def probeFrom (bucket : Nat → List Byte) (nb k : Nat) : Nat → Nat → Option Nat
  | 0, _ => none
  | fuel + 1, h =>
    match bucketLook k (bucket (h % nb)) with
    | some v => some v
    | none => probeFrom bucket nb k fuel (h + 1)

/-- The buckets examined for a key, in order, and those for a list of keys (R157). -/
def probed (bucket : Nat → List Byte) (nb k : Nat) : Nat → Nat → List Nat
  | 0, _ => []
  | fuel + 1, h =>
    h % nb :: match bucketLook k (bucket (h % nb)) with
      | some _ => []
      | none => probed bucket nb k fuel (h + 1)

/-! ## Descriptors (R154) -/

structure SetDesc where
  op     : Nat
  emitPos : Bool
  tableMem : Bool
  slot   : Nat
  aOff   : Nat
  aCount : Nat
  bOff   : Nat
  bCount : Nat
  outOff : Nat
  posOff : Nat
  limit  : Nat
  resZero : Bool
deriving DecidableEq, Repr

def parseSet (b : List Byte) : SetDesc :=
  let f (o n : Nat) : Nat := leVal ((b.drop o).take n)
  { op := f 0 1, emitPos := (f 1 1).testBit 0, tableMem := (f 1 1).testBit 1, slot := f 2 1 % 16,
    aOff := f 4 4, aCount := f 8 4, bOff := f 12 4, bCount := f 16 4, outOff := f 20 4,
    posOff := f 24 4, limit := f 28 4, resZero := f 1 1 / 4 == 0 && f 2 1 / 16 == 0 && f 3 1 == 0 }

/-- PROBE's table lies in a memory object. -/
def SetDesc.inMem (x : SetDesc) : Bool := x.op == 5 && x.tableMem

/-- The checks of R154 but for a table in memory. -/
def SetDesc.ok (x : SetDesc) (l : LaunchSt) : Bool :=
  1 ≤ x.op && x.op ≤ 5 && x.resZero && x.aOff % 4 == 0 && x.outOff % 4 == 0 && x.posOff % 8 == 0 &&
    x.bOff % (if x.op = 5 then 64 else 4) == 0 && l.inPages x.aOff (4 * x.aCount) &&
    l.inPages x.outOff (4 * x.limit) &&
    (!(x.op == 1 && x.emitPos) || l.inPages x.posOff (8 * x.limit)) &&
    (if x.op = 5 then
      x.bCount != 0 && x.bCount ≤ 2 ^ 24 && 2 ^ Nat.log2 x.bCount == x.bCount &&
        (x.tableMem || l.inPages x.bOff (64 * x.bCount))
     else l.inPages x.bOff (4 * x.bCount))

/-- 32-bit indices of the operand store. -/
def TileSt.words (s : TileSt) (off n : Nat) : List Nat :=
  (List.range n).map fun i => leVal (s.read 0 (off + 4 * i) 4)

/-- Write 32-bit values. -/
def TileSt.putWords32 (s : TileSt) (off : Nat) (ws : List Nat) : TileSt := s.write off (ws.flatMap (leBytes 4))

/-- The result register of R156. -/
def setResult (count status pos : Nat) : DWord :=
  BitVec.ofNat 64 (count % 2 ^ 32 + 2 ^ 32 * status + 2 ^ 40 * (pos % 2 ^ 24))

/-- A set operation on two streams: its outputs in the operand store, and its result.
Log entry 53 (DESIGN CHOICE). -/
def TileSt.setStreams (s : TileSt) (x : SetDesc) : TileSt × DWord :=
  let r := setMerge x.op (x.aCount + x.bCount + 1) (s.words x.aOff x.aCount) (s.words x.bOff x.bCount) none
    none 0 0 x.limit
  let s := s.putWords32 x.outOff (r.vals.map (·.1))
  let s := if x.op = 1 && x.emitPos then
      s.putWords32 x.posOff (r.vals.flatMap fun v => [v.2.1, v.2.2])
    else s
  (s, setResult r.vals.length r.status r.pos)

/-- PROBE with its table's buckets. -/
def TileSt.setProbe (s : TileSt) (x : SetDesc) (bucket : Nat → List Byte) : TileSt × DWord :=
  let keys := (s.words x.aOff x.aCount).take x.limit
  let found := keys.map fun k => probeFrom bucket x.bCount k 16 (homeBucket (Nat.log2 x.bCount) k)
  let s := s.putWords32 x.outOff (found.map fun v => v.getD emptyKey)
  let r := match found.findIdx? (·.isNone) with
    | some i => setResult keys.length 3 i
    | none => if x.limit < x.aCount then setResult keys.length 2 x.limit else setResult keys.length 0 0
  (s, r)

/-- The buckets that a PROBE examines. -/
def TileSt.probes (s : TileSt) (x : SetDesc) (bucket : Nat → List Byte) : List Nat :=
  ((s.words x.aOff x.aCount).take x.limit).flatMap fun k =>
    probed bucket x.bCount k 16 (homeBucket (Nat.log2 x.bCount) k)

/-- The narrow sectors that miss of a list of 64-byte buckets count, two to a bucket (R158, MEM_CLR_NARROW).
Log entry 58 (DEDUCED). -/
def Dev.countSectors (d : Dev) (o : Obj) (offs : List Nat) : Dev :=
  let missed := (offs.flatMap fun b => [b, b + 32]).filter fun off =>
    match d.phys o.clearing.toNat o.region.toNat (o.base + off) with
    | some pa => !d.cached pa 32
    | none => false
  if 16 ≤ o.clearing.toNat then d
  else d.modClr o.clearing.toNat fun c => { c with memNarrow := satAdd c.memNarrow missed.length }

/-- The set engine takes an operation of a launch: its outputs are written and its result kept, or it
faults (R154, R162). -/
def Dev.runSetOp (d : Dev) (t : Nat) (l : LaunchSt) (o : SetOp) : Dev :=
  let s := d.tile t
  let d₀ := d
  let drop (d : Dev) : Dev := d.modTile t fun s => { s with setq := s.setq.tail }
  let fault (d : Dev) (st : Status) (info : BitVec 64) : Dev := drop (d.faultLaunch o.ctx st .none info)
  let done (d : Dev) (r : TileSt × DWord) : Dev := d.modTile t fun _ => { r.1 with setRun := some r.2 }
  let x := parseSet (s.read 0 o.desc 32)
  if !l.inPages o.desc 32 || !x.ok l then fault d .aborted 0
  else if x.inMem then
    let c := d.threadCheck l x.slot x.bOff (64 * x.bCount) 64 false
    if c.2.2 ≠ .ok then fault d c.2.2 (if c.2.2 = .ownerDenied then c.1.setWidth 64 else 0)
    else
      let offs := (s.probes x fun b => d.readObj c.2.1 (x.bOff + 64 * b) 64).map fun b => x.bOff + 64 * b
      match (d.countSectors c.2.1 offs).tryRead l.clearing (d.launchHolder l) c.1 c.2.1 (offs.map fun o => (o, 64)) with
      | (d, some h) =>
        if h.status ≠ .ok then
          if (d.ctxLaunch o.ctx).isNone then d₀.blameLaunch d o.ctx h.status .none (hitInfo c.1 c.2.1 h)
          else fault d h.status (hitInfo c.1 c.2.1 h)
        else done d ((d.tile t).setProbe x fun b => d.readObj c.2.1 (x.bOff + 64 * b) 64)
      | (d, none) => d
  else if x.op = 5 then done d (s.setProbe x fun b => s.read 0 (x.bOff + 64 * b) 64)
  else done d (s.setStreams x)

/-! ## The vector unit -/

/-- A block's running state: its registers, its stores so far, its flags. -/
structure VuSt where
  regs   : Tab (List Byte)
  stores : List (Nat × Byte)
  flags  : BitVec 5
  ok     : Bool
  clear  : Bool
deriving DecidableEq, Repr

def zeroReg : List Byte := List.replicate 512 0

def VuSt.reg (v : VuSt) (r : Nat) : List Byte := Tab.get zeroReg v.regs r
def VuSt.put (v : VuSt) (r : Nat) (bs : List Byte) : VuSt := { v with regs := Tab.set zeroReg v.regs r bs }

/-- The elements of a register. -/
def regElems (f : Fmt) (bs : List Byte) : List Nat := f.unpack (4096 / f.bits) bs

/-- An element-wise operation with its flags. -/
def VuSt.map (v : VuSt) (vd : Nat) (f : Fmt) (rs : List FpRes) : VuSt :=
  { v.put vd (f.pack (rs.map (·.1))) with flags := v.flags ||| rs.foldl (fun a r => a ||| r.2) 0 }

/-- Element `i` of three registers. -/
def VuSt.zip3 (v : VuSt) (f : Fmt) (i : VuInstr) (g : Nat → Nat → Nat → Nat → FpRes) : List FpRes :=
  let cs := (regElems f (v.reg i.vc.val)).zipIdx
  (((regElems f (v.reg i.va.val)).zip (regElems f (v.reg i.vb.val))).zip cs).map fun x =>
    g x.2.2 x.1.1 x.1.2 x.2.1

def rndOf : Rnd → Rm
  | .rne => .rne | .rz => .rz | .ru => .ru | .rd => .rd | .sr => .sr

/-- One vector instruction (R160, R161, R308). SR belongs to conversions alone; a register access outside
the launch's pages, or an operation the unit does not have, ends the block with a fault. -/
def Dev.vuStep (d : Dev) (t : Nat) (l : LaunchSt) (stream : BitVec 16) (v : VuSt) (i : VuInstr) : VuSt :=
  let bad : VuSt := { v with ok := false }
  let unary (f : Fmt) (g : Nat → Nat) : VuSt :=
    v.map i.vd.val f ((regElems f (v.reg i.va.val)).map fun a => (g a, 0))
  if !v.ok then v
  else match i.op with
    | .arith op fm rnd =>
      if rnd = .sr then bad
      else v.map i.vd.val fm.fmt (v.zip3 fm.fmt i fun _ a b c =>
        fpOp op fm.fmt (rndOf rnd) (openResult (.fp op fm rnd) fm.fmt.bits [a, b, c]).toNat a b c)
    | .ieee op fm rnd =>
      if rnd = .sr then bad
      else v.map i.vd.val fm.fmt (v.zip3 fm.fmt i fun _ a b _ =>
        ieeeOp op fm.fmt (rndOf rnd) (openResult (.ieee op fm rnd) fm.fmt.bits [a, b]).toNat a b)
    | .abs fm => unary fm.fmt fun a => a % fm.fmt.sgn
    | .neg fm => unary fm.fmt fun a => if fm.fmt.sgn ≤ a then a - fm.fmt.sgn else a + fm.fmt.sgn
    | .copySign fm => v.map i.vd.val fm.fmt (v.zip3 fm.fmt i fun _ a b _ =>
        (a % fm.fmt.sgn + (if fm.fmt.sgn ≤ b then fm.fmt.sgn else 0), 0))
    | .convert s u rnd =>
      let sz := u.fmt.bits / 8
      let es := ((regElems s.fmt (v.reg i.va.val)).take (4096 / u.fmt.bits)).zipIdx.map fun e =>
        let draw := if rnd = .sr then d.drawAt l.stepKey stream 1 (i.dstOff / sz + e.2) else 0
        fpConvert s.fmt u.fmt (rndOf rnd) draw
          (openResult (.convert s u rnd) s.fmt.bits [e.1]).toNat e.1
      let bs := u.fmt.pack (es.map (·.1))
      -- the elements past the source's are free
      let rest := (List.range (512 - bs.length)).map fun k =>
        (openResult .pad 8 (k :: (v.reg i.va.val).map (·.toNat))).setWidth 8
      { v.put i.vd.val (bs ++ rest) with flags := v.flags ||| es.foldl (fun a r => a ||| r.2) 0 }
    | .loadReg off =>
      if l.inPages off 512 then
        let here := (d.tile t).read 0 off 512
        v.put i.vd.val (here.zipIdx.map fun b =>
          match v.stores.find? fun s => s.1 == off + b.2 with | some s => s.2 | none => b.1)
      else bad
    | .storeReg off =>
      if l.inPages off 512 then
        { v with stores := ((v.reg i.va.val).zipIdx.map fun b => (off + b.2, b.1)) ++ v.stores }
      else bad
    | .draw off =>
      v.put i.vd.val ((List.range 128).flatMap fun k =>
        leBytes 4 (d.drawAt l.stepKey stream 2 (off / 4 + k)))
    | .clearFlags => { v with flags := 0, clear := true }

/-- An instruction draws random numbers. -/
def VuInstr.draws (i : VuInstr) : Bool :=
  match i.op with
  | .convert _ _ rnd => rnd == .sr
  | .draw _ => true
  | _ => false

/-- The vector unit takes a block: its stores and flags are kept until it ends, or it faults. -/
def Dev.runVuBlock (d : Dev) (t : Nat) (l : LaunchSt) (b : VuBlock) (code : List VuInstr) : Dev :=
  let v := code.foldl (d.vuStep t l b.stream)
    { regs := [], stores := [], flags := 0, ok := true, clear := false }
  let fault : Dev :=
    (d.faultLaunch b.ctx .aborted .none 0).modTile t fun s => { s with vecq := s.vecq.tail }
  if !v.ok || !l.inPages b.block (8 * code.length) then fault
  else
    let old := if v.clear then 0 else (d.ctx b.ctx).vflags
    let d := d.modTile t fun s => { s with vecRun := some (v.stores.reverse, old ||| v.flags) }
    d.drew (code.any VuInstr.draws) b.stream

end Sys2Proof.Machine
end

