-- ==== Sys2Proof/Machine/Threads.lean ====
section
/-! DEFINITION. The commands of chapter 07: launches, thread instructions and the tile engines. -/

namespace Sys2Proof.Machine
open Sys2Proof

/-! ## LAUNCH (R141, R285, R286) -/

/-- The checks of R141 on a launch's tiles, contexts and pages. -/
def Dev.launchOk (d : Dev) (n : Nat) (c : Cmd) : Bool :=
  let tiles := bitsOf (fld c.raw 24 12) 96
  !tiles.isEmpty && tiles.all (fun t => d.tileClr t == some n) && 1 ≤ fld c.raw 36 2 && fld c.raw 36 2 ≤ 512 &&
    fld c.raw 48 2 + fld c.raw 50 2 ≤ 2048 && fld c.raw 40 8 % 64 == 0

/-- The rest of a LAUNCH's decode: its parameter block is read and checked. -/
def Dev.decodeLaunch (d : Dev) (n q : Nat) (c : Cmd) (ps : LaunchParams) : Dev :=
  let hs := (ps.handles.take 16).filter (· != 0xFFFFFFFF)
  match hs.find? fun h => !d.liveHandle h with
  | some h => d.completeCmd q c .staleObject .none (h.setWidth 64) 0
  | none => match hs.find? fun h => !d.handleOwned n h false with
    | some h => d.completeCmd q c .ownerDenied .none (h.setWidth 64) 0
    | none =>
      if d.launchOk n c then
        (d.addRefs hs).modCmd q c.seq fun x =>
          { x with ph := .decoded, refs := x.refs ++ hs, params := some ps }
      else d.completeCmd q c .aborted .decode 0 0

/-- Log entry 33 (DEDUCED). -/
def doLaunch (q : Nat) (seq : Word) (ps : LaunchParams) (d : Dev) : Dev :=
  match d.cmd q seq, d.queueClr q with
  | some c, some n => if c.opcode == 3 && c.ph == .decoding then d.decodeLaunch n q c ps else d
  | _, _ => d

/-- Log entry 22 (DESIGN CHOICE). -/
def execLaunch (q : Que) (seq : Word) (ps : LaunchParams) (s : State) : Out := act s (doLaunch q.val seq ps)

/-- Every launch that waits for contexts of one of these tiles comes later in the order of R136. -/
def Dev.launchFirst (d : Dev) (q : Nat) (c : Cmd) : Bool :=
  (d.cmds.filter fun x => x.2.opcode == 3 && x.2.ph == .started &&
    fld x.2.raw 24 12 &&& fld c.raw 24 12 != 0).all fun x =>
      (x.1 == q && x.2.seq == c.seq) || lexLt (d.progKey q c) (d.progKey x.1 x.2)

/-- The contexts that a launch takes: on each core its lowest free ones, with their slot indices.
Log entry 50 (DEDUCED). -/
def Dev.launchCtxs (d : Dev) (tiles perCore : Nat) : List (Nat × Nat) :=
  (bitsOf tiles 96).flatMap fun t => (List.range 32).flatMap fun i =>
    ((d.freeCtxs (32 * t + i)).take perCore).zipIdx

/-- LAUNCH_START: the launch takes its contexts, whose registers are zero. Log entry 50 (DEDUCED). -/
def Dev.startLaunch (d : Dev) (n q : Nat) (c : Cmd) (ps : LaunchParams) : Dev :=
  let tiles := fld c.raw 24 12
  let per := fld c.raw 36 2
  let l : LaunchSt :=
    { id := d.nextLaunch, queue := Fin.ofNat 4096 q, seq := c.seq, clearing := n,
      tiles := BitVec.ofNat 96 tiles, perCore := per, handles := ps.handles, arg := ps.arg,
      tsFirst := fld c.raw 48 2, tsCount := fld c.raw 50 2, srStream := BitVec.ofNat 16 (fld c.raw 38 2),
      stepKey := c.stepKey, entry := BitVec.ofNat 64 (fld c.raw 20 4), ph := .running, status := .ok,
      detail := .none, info := 0, rank := 0 }
  let take := d.launchCtxs tiles per
  let d := take.foldl (fun d x => d.modCtx x.1 fun _ =>
    { Ctx.reset with launch := some l.id, slotIdx := x.2, pc := l.entry }) d
  let d := d.modCmd q c.seq fun x => { x with ph := .running }
  { d with launches := d.launches ++ [l], nextLaunch := d.nextLaunch + 1 }

def doLaunchStart (q : Nat) (seq : Word) (d : Dev) : Dev :=
  match d.cmd q seq, d.queueClr q with
  | some c, some n => match c.params with
    | some ps =>
      if c.opcode == 3 && c.ph == .started && d.roomFor (fld c.raw 24 12) (fld c.raw 36 2) &&
          d.launchFirst q c then d.startLaunch n q c ps
      else d
    | none => d
  | _, _ => d

def execLaunchStart (q : Que) (seq : Word) (s : State) : Out := act s (doLaunchStart q.val seq)

/-- LAUNCH_COMPLETE (R143, R162): the launch's work has ended, and its contexts are freed. -/
def doLaunchComplete (q : Nat) (seq : Word) (d : Dev) : Dev :=
  match d.launchOf q seq, d.cmd q seq with
  | some l, some c =>
    if (l.ph == .stopping || d.allExited l.id) && d.launchQuiet l.id then
      (d.freeLaunch l.id).completeCmd q c l.status l.detail l.info
        (if l.ph = .stopping then l.rank else 0)
    else d
  | _, _ => d

def execLaunchComplete (q : Que) (seq : Word) (s : State) : Out := act s (doLaunchComplete q.val seq)

/-! ## Register instructions -/

def doThreadIntOp (k : Nat) (op : IntOp) (w : IntWidth) (sg : Bool) (rd ra rb rc : Nat) (d : Dev) : Dev :=
  d.issue k [.x rd, .x ra, .x rb, .x rc] fun _ c =>
    let vs := [(c.getX ra).toNat, (c.getX rb).toNat, (c.getX rc).toNat]
    c.putX rd (intOp op w.bits sg (openResult (.int op w sg) w.bits vs) (c.getX ra).toNat (c.getX rb).toNat
      (c.getX rc).toNat)

def execThreadIntOp (c : CtxId) (op : IntOp) (w : IntWidth) (sg : Bool) (rd ra rb rc : Fin 32) (s : State) (reserved : Bool := false) :
    Out := act s (defined (ctxKey c) reserved (doThreadIntOp (ctxKey c) op w sg rd.val ra.val rb.val rc.val))

def doThreadFloatOp (k : Nat) (op : ThreadFp) (rd ra rb rc : Nat) (d : Dev) : Dev :=
  let regs : List Dest := [.x rd, .x ra, .x rb, .x rc]
  let c := d.ctx k
  match threadFp op (c.getX ra) (c.getX rb) (c.getX rc) with
  | some v => d.issue k regs fun _ c => c.putX rd v
  | none => d.undefinedInstr k regs fun d => d.faultLaunch k .aborted .none 0

def execThreadFloatOp (c : CtxId) (op : ThreadFp) (rd ra rb rc : Fin 32) (s : State) (reserved : Bool := false) : Out :=
  act s (defined (ctxKey c) reserved (doThreadFloatOp (ctxKey c) op rd.val ra.val rb.val rc.val))

def doThreadVectorOp (k : Nat) (op : ThreadVec) (vd va vb vc : Nat) (imm : BitVec 64) (d : Dev) : Dev :=
  d.issue k [.v vd, .v va, .v vb, .v vc] fun _ c =>
    c.putV vd (threadVec op (c.getV va) (c.getV vb) (c.getV vc) imm)

def execThreadVectorOp (c : CtxId) (op : ThreadVec) (vd va vb vc : Fin 8) (imm : BitVec 64) (s : State) (reserved : Bool := false) : Out :=
  act s (defined (ctxKey c) reserved (doThreadVectorOp (ctxKey c) op vd.val va.val vb.val vc.val imm))

/-- Where a control instruction goes. -/
def branchTo (k : BranchKind) (c : Ctx) (ra : Nat) (target : DWord) : DWord :=
  match k with
  | .always => target
  | .ifZero => if c.getX ra = 0 then target else c.pc + 4
  | .ifNotZero => if c.getX ra = 0 then c.pc + 4 else target
  | .call => target
  | .ret => c.getX ra

def doThreadBranch (k : Nat) (b : BranchKind) (ra link : Nat) (target : DWord) (d : Dev) : Dev :=
  match d.issuer k [.x ra, .x link] with
  | some _ => d.modCtx k fun c =>
    let c' := if b = .call then c.putX link (c.pc + 4) else c
    { c' with pc := branchTo b c ra target }
  | none => d

def execThreadBranch (c : CtxId) (b : BranchKind) (ra link : Fin 32) (target : BitVec 64) (s : State) (reserved : Bool := false) : Out :=
  act s (defined (ctxKey c) reserved (doThreadBranch (ctxKey c) b ra.val link.val target))

/-- RDSR; or, `clear`, the flag-clear instruction of its class (R160). Log entry 53 (DESIGN CHOICE). -/
def doRdsr (k rd : Nat) (sr : SpecialReg) (clear : Bool) (d : Dev) : Dev :=
  if clear then d.issue k [] fun _ c => { c with vflags := 0 }
  else d.issue k [.x rd] fun l c => c.putX rd (l.special k c sr)

def execRdsr (c : CtxId) (rd : Fin 32) (sr : SpecialReg) (s : State) (clear reserved : Bool := false) : Out :=
  act s (defined (ctxKey c) reserved (doRdsr (ctxKey c) rd.val sr clear))

/-- CVT.AW (R144, R106): the word's low half is in `ra`, its high half in `rb`. A NaN word is a conversion
NaN of the clearing (R87), which stops the launch under TRAP_STOP. Log entry 53 (DESIGN CHOICE). -/
def doCvtAw (k rd ra rb : Nat) (d : Dev) : Dev :=
  match d.issuer k [.x rd, .x ra, .x rb] with
  | none => d
  | some l =>
    let c := d.ctx k
    let x := Acc.ofWord (c.getX rb ++ c.getX ra)
    let r := Fmt.s32.convert (d.mode l.clearing) .rne 0 (x.val .rne)
    let d := d.lossConversions l.clearing (b2n x.loss)
    let d := if r.2 then d.convNans l.clearing 3 (ctxTile k) l.queue.val l.seq 0 [0] else d
    if r.2 && d.nanTrap l.clearing == 1 then d.faultLaunch k .nanTrap .none 0
    else d.modCtx k fun c => (c.putX rd (BitVec.ofNat 64 r.1)).advance

def execCvtAw (c : CtxId) (rd ra rb : Fin 32) (s : State) (reserved : Bool := false) : Out :=
  act s (defined (ctxKey c) reserved (doCvtAw (ctxKey c) rd.val ra.val rb.val))

/-! ## EXIT, barriers, ordering -/

def doExit (k : Nat) (d : Dev) : Dev :=
  match d.issuer k [] with
  | some l => (d.modCtx k fun c => { c with exited := true }).releaseBarrier l.id (ctxTile k)
  | none => d

def execExit (c : CtxId) (s : State) (reserved : Bool := false) : Out := act s (defined (ctxKey c) reserved (doExit (ctxKey c)))

def doBarTile (k : Nat) (d : Dev) : Dev :=
  match d.issuer k [] with
  | some l =>
    (d.modCtx k fun c => ({ c with atBarrier := true } : Ctx).advance).releaseBarrier l.id (ctxTile k)
  | none => d

def execBarTile (c : CtxId) (s : State) (reserved : Bool := false) : Out := act s (defined (ctxKey c) reserved (doBarTile (ctxKey c)))

/-- FENCE.T (R149): it completes once every earlier access of the context has been served. -/
def doFenceT (k : Nat) (d : Dev) : Dev :=
  if d.mem.reqs.any fun r => r.ctx == k && !r.served then d else d.issue k [] fun _ c => c

def execFenceT (c : CtxId) (s : State) (reserved : Bool := false) : Out := act s (defined (ctxKey c) reserved (doFenceT (ctxKey c)))

/-- WAIT (R149): the token's register holds its result. Log entry 53 (DESIGN CHOICE). -/
def doWait (k ra : Nat) (d : Dev) : Dev := d.issue k [.x ra] fun _ c => c

def execWait (c : CtxId) (ra : Fin 32) (s : State) (reserved : Bool := false) : Out := act s (defined (ctxKey c) reserved (doWait (ctxKey c) ra.val))

/-! ## Memory instructions (R146, R147) -/

def IntWidth.bytes (w : IntWidth) : Nat := w.bits / 8

def execLd (c : CtxId) (rd : Fin 32) (w : IntWidth) (slot : Fin 16) (off : BitVec 64) (s : State) (reserved : Bool := false) : Out :=
  act s (defined (ctxKey c) reserved fun d => d.memIssue (ctxKey c) [.x rd.val] slot.val off (IntWidth.bytes w) (IntWidth.bytes w) false
    (.x rd.val) fun _ => .ld (IntWidth.bytes w))

def execSt (c : CtxId) (rs : Fin 32) (w : IntWidth) (slot : Fin 16) (off : BitVec 64) (s : State) (reserved : Bool := false) : Out :=
  act s (defined (ctxKey c) reserved fun d => d.memIssue (ctxKey c) [.x rs.val] slot.val off (IntWidth.bytes w) (IntWidth.bytes w) true
    .none fun x => .st (leBytes (IntWidth.bytes w) (x.getX rs.val).toNat))

def execLdn (c : CtxId) (vd : Fin 8) (slot : Fin 16) (off : BitVec 64) (s : State) (reserved : Bool := false) : Out :=
  act s (defined (ctxKey c) reserved fun d => d.memIssue (ctxKey c) [.v vd.val] slot.val off 32 32 false (.v vd.val) fun _ => .ldn)

def execStn (c : CtxId) (vs : Fin 8) (slot : Fin 16) (off : BitVec 64) (s : State) (reserved : Bool := false) : Out :=
  act s (defined (ctxKey c) reserved fun d => d.memIssue (ctxKey c) [.v vs.val] slot.val off 32 32 true .none
    fun x => .stn (leBytes 32 (x.getV vs.val).toNat))

def execStnM (c : CtxId) (vs : Fin 8) (lanes : BitVec 8) (slot : Fin 16) (off : BitVec 64) (s : State) (reserved : Bool := false) : Out :=
  act s (defined (ctxKey c) reserved fun d => d.memIssue (ctxKey c) [.v vs.val] slot.val off 32 32 true .none
    fun x => .stnM lanes (leBytes 32 (x.getV vs.val).toNat))

def execAtomic (c : CtxId) (op : AtomicOp) (wide ret : Bool) (rd rs rc : Fin 32) (slot : Fin 16)
    (off : BitVec 64) (s : State) (reserved : Bool := false) : Out :=
  let n := if wide then 8 else 4
  act s (defined (ctxKey c) reserved fun d => d.memIssue (ctxKey c) [.x rd.val, .x rs.val, .x rc.val] slot.val off n n true
    (if ret || op = .swap || op = .cas then .x rd.val else .none)
    fun x => .atomic op wide (x.getX rs.val) (x.getX rc.val))

def execFadd (c : CtxId) (ret : Bool) (rd rs : Fin 32) (slot : Fin 16) (off : BitVec 64) (s : State) (reserved : Bool := false) : Out :=
  act s (defined (ctxKey c) reserved fun d => d.memIssue (ctxKey c) [.x rd.val, .x rs.val] slot.val off 4 4 true
    (if ret then .x rd.val else .none) fun x => .fadd ((x.getX rs.val).setWidth 32))

def execXinit (c : CtxId) (anchor : BitVec 10) (slot : Fin 16) (off : BitVec 64) (s : State) (reserved : Bool := false) : Out :=
  act s (defined (ctxKey c) reserved fun d => d.memIssue (ctxKey c) [] slot.val off 16 16 true .none fun _ => .xinit anchor)

/-- XADD of an S32, H16 or B16 value; any other format is an undefined instruction (R78, R162). -/
def doXadd (k : Nat) (fmt : FpFmt) (rs slot : Nat) (off : BitVec 64) (d : Dev) : Dev :=
  if fmt = .d64 then d.undefinedInstr k [.x rs] fun d => d.faultLaunch k .aborted .none 0
  else d.memIssue k [.x rs] slot off 16 16 true .none fun x => .xadd fmt (x.getX rs)

def execXadd (c : CtxId) (fmt : FpFmt) (rs : Fin 32) (slot : Fin 16) (off : BitVec 64) (s : State) (reserved : Bool := false) : Out :=
  act s (defined (ctxKey c) reserved (doXadd (ctxKey c) fmt rs.val slot.val off))

/-! ## Tile memory -/

def doLdt (k rd n : Nat) (off : BitVec 64) (d : Dev) : Dev :=
  match d.issuer k [.x rd] with
  | none => d
  | some l =>
    if l.inPages off.toNat n then
      d.modCtx k fun c => (c.putX rd
        (BitVec.ofNat 64 (leVal ((d.tile (ctxTile k)).read 0 off.toNat n)))).advance
    else d.faultLaunch k .aborted .none 0

def execLdt (c : CtxId) (rd : Fin 32) (w : IntWidth) (off : BitVec 64) (s : State) (reserved : Bool := false) : Out :=
  act s (defined (ctxKey c) reserved (doLdt (ctxKey c) rd.val (IntWidth.bytes w) off))

def doStt (k rs n : Nat) (off : BitVec 64) (d : Dev) : Dev :=
  match d.issuer k [.x rs] with
  | none => d
  | some l =>
    if l.inPages off.toNat n then
      let v := ((d.ctx k).getX rs).toNat
      (d.modTile (ctxTile k) fun s => s.write off.toNat (leBytes n v)).modCtx k Ctx.advance
    else d.faultLaunch k .aborted .none 0

def execStt (c : CtxId) (rs : Fin 32) (w : IntWidth) (off : BitVec 64) (s : State) (reserved : Bool := false) : Out :=
  act s (defined (ctxKey c) reserved (doStt (ctxKey c) rs.val (IntWidth.bytes w) off))

/-! ## The set engine and the vector unit -/

/-- A register waits for an engine's result. -/
def Ctx.await (c : Ctx) (r : Dest) : Ctx := { c with outstanding := r :: c.outstanding }

/-- SETOP: the descriptor joins the queue of 16; a full queue stalls the context. -/
def doSetop (k rd : Nat) (desc : BitVec 64) (d : Dev) : Dev :=
  let t := ctxTile k
  match d.issuer k [.x rd] with
  | none => d
  | some _ =>
    if 16 ≤ (d.tile t).setq.length then d
    else
      let o : SetOp := { ctx := k, rd := rd, desc := desc.toNat, gen := d.tileGen t }
      (d.modTile t fun s => { s with setq := s.setq ++ [o] }).modCtx k fun c => (c.await (.x rd)).advance

def execSetop (c : CtxId) (rd : Fin 32) (desc : BitVec 64) (s : State) (reserved : Bool := false) : Out :=
  act s (defined (ctxKey c) reserved (doSetop (ctxKey c) rd.val desc))

/-- VRUN: the block joins the queue of 8, and `rd` receives its token when it ends. A block that draws needs
a generator slot (R303). Log entry 53 (DESIGN CHOICE). -/
def doVrun (k rd : Nat) (block : BitVec 64) (stream : BitVec 16) (draws : Bool) (d : Dev) : Dev :=
  let t := ctxTile k
  match d.issuer k [.x rd] with
  | none => d
  | some l =>
    if draws && (d.genSlot l.clearing).isNone then d.faultLaunch k .aborted .decode 0
    else if 8 ≤ (d.tile t).vecq.length then d
    else
      let b : VuBlock :=
        { ctx := k, rd := rd, block := block.toNat, stream := stream, token := openResult .token 64 [block.toNat, stream.toNat], gen := d.tileGen t }
      (d.modTile t fun s => { s with vecq := s.vecq ++ [b] }).modCtx k fun c => (c.await (.x rd)).advance

def execVrun (c : CtxId) (rd : Fin 32) (block : BitVec 64) (stream : BitVec 16) (draws : Bool) (s : State) (reserved : Bool := false) :
    Out := act s (defined (ctxKey c) reserved (doVrun (ctxKey c) rd.val block stream draws))

/-- A reply whose generation is not the requester's is dropped and counted (R358).
Log entry 41 (DEDUCED). -/
def Dev.staleReply (d : Dev) : Dev :=
  { d with flt := { d.flt with staleReply := satInc d.flt.staleReply } }

/-- The result of an engine reaches its register. Log entry 41 (DEDUCED). -/
def Ctx.arrive (c : Ctx) (r : Dest) (v : DWord) (w : B256) : Ctx :=
  let c := { c with outstanding := c.outstanding.filter (· != r) }
  match r with
  | .x i => c.putX i v
  | .v i => c.putV i w
  | .none => c

def doSetEngineOpStart (t : Nat) (d : Dev) : Dev :=
  match (d.tile t).setq, (d.tile t).setRun with
  | o :: _, none => match d.ctxLaunch o.ctx with
    | some l => d.runSetOp t l o
    | none => d.modTile t fun s => { s with setq := s.setq.tail }
  | _, _ => d

def execSetEngineOpStart (t : Tile) (s : State) : Out := act s (doSetEngineOpStart t.val)

/-- Log entry 41 (DEDUCED). -/
def doSetEngineOpDone (t : Nat) (d : Dev) : Dev :=
  match (d.tile t).setq, (d.tile t).setRun with
  | o :: os, some r =>
    let d := d.modTile t fun s => { s with setq := os, setRun := none }
    if o.gen = d.tileGen t then d.modCtx o.ctx fun c => c.arrive (.x o.rd) r 0 else d.staleReply
  | _, _ => d

def execSetEngineOpDone (t : Tile) (s : State) : Out := act s (doSetEngineOpDone t.val)

def doVectorBlockStart (t : Nat) (code : List VuInstr) (d : Dev) : Dev :=
  match (d.tile t).vecq, (d.tile t).vecRun with
  | b :: _, none => match d.ctxLaunch b.ctx with
    | some l => d.runVuBlock t l b code
    | none => d.modTile t fun s => { s with vecq := s.vecq.tail }
  | _, _ => d

def execVectorBlockStart (t : Tile) (code : List VuInstr) (s : State) : Out :=
  act s (doVectorBlockStart t.val code)

/-- Log entry 41 (DEDUCED). -/
def doVectorBlockDone (t : Nat) (d : Dev) : Dev :=
  match (d.tile t).vecq, (d.tile t).vecRun with
  | b :: bs, some r =>
    let d := d.modTile t fun s =>
      { r.1.foldl (fun s w => s.write w.1 [w.2]) s with vecq := bs, vecRun := none }
    if b.gen = d.tileGen t then
      d.modCtx b.ctx fun c => ({ c with vflags := r.2 } : Ctx).arrive (.x b.rd) b.token 0
    else d.staleReply
  | _, _ => d

def execVectorBlockDone (t : Tile) (s : State) : Out := act s (doVectorBlockDone t.val)

/-! ## MEMORY_RESPONSE (R140, R162, R358) -/

/-- A served request's response: dropped when stale; a failing status faults the launch; a result enters
its register. Log entry 41 (DEDUCED). -/
def doMemoryResponse (id : Nat) (d : Dev) : Dev :=
  match d.mem.reqs.find? fun r => r.id == id && r.served with
  | none => d
  | some r =>
    let d : Dev := { d with mem := { d.mem with reqs := d.mem.reqs.filter fun x => x.id != id } }
    if r.gen ≠ d.tileGen r.tile then d.staleReply
    else if r.status ≠ .ok then
      d.faultLaunch r.ctx r.status r.detail (hitInfo r.handle (d.obj (objIndex r.handle))
        { status := r.status, detail := r.detail, addr := r.ra })
    else d.modCtx r.ctx fun c =>
      c.arrive r.dest (BitVec.ofNat 64 (leVal r.result)) (BitVec.ofNat 256 (leVal r.result))

def execMemoryResponse (id : Nat) (s : State) : Out := act s (doMemoryResponse id)

end Sys2Proof.Machine
end

