-- ==== Sys2Proof/Machine/Memory.lean ====
section
/-! DEFINITION. The commands of chapters 08 and 09: the home slice, lines that return from the stacks,
stack temperatures, epochs, rekeys and the scrub. -/

namespace Sys2Proof.Machine
open Sys2Proof

/-! ## Cache lines (R173–R176) -/

/-- Sets the lines apart that compete: home die, slice and set of a cache key. -/
def Dev.placeOf (d : Dev) (f key : Nat) : Nat × Nat × Nat := (d.homeOf f (key * 128), sliceOf key, setOf key)

/-- The lines of a frame that share a set with the line of `pa`. Log entry 54 (DESIGN CHOICE). -/
def Dev.rivals (d : Dev) (f pa : Nat) : List Nat :=
  (d.mem.cache.filter fun x => x.2.frame == f && x.1 != pa / 128 &&
    d.placeOf f x.1 == d.placeOf f (pa / 128)).map (·.1)

/-- A frame's ways per slice on the home die of a physical byte. Log entry 54 (DESIGN CHOICE). -/
def Dev.waysAt (d : Dev) (f pa : Nat) : Nat :=
  match d.plan.active with
  | some p => p.waysOf f (d.homeOf f pa)
  | none => 0

/-- The lowest of the frame's ways that no line of the set holds. -/
def Dev.freeWay (d : Dev) (f pa : Nat) : Nat :=
  let used := (d.rivals f pa).map fun k => (Tab.get CacheLine.reset d.mem.cache k).way
  ((List.range (d.waysAt f pa)).find? fun w => !used.contains w).getD 0

/-- Make room for the line of `pa` in its set: a victim of the frame is written back and dropped. Which
one pseudo-LRU chooses is a free value. Log entry 54 (DESIGN CHOICE). -/
def Dev.makeRoom (d : Dev) (f pa : Nat) : Dev :=
  let ks := d.rivals f pa
  if ks.length < d.waysAt f pa then d
  else match ks[d.freeVal.toNat % ks.length]? with
    | some v =>
      let d := (d.writeBack v).tick
      { d with mem := { d.mem with cache := Tab.set CacheLine.reset d.mem.cache v CacheLine.reset } }
    | none => d

/-- The line of `pa` is filled and allocated: its sectors whose unit verifies become valid. -/
def Dev.fillLine (d : Dev) (f r ra pa : Nat) (rg : PlanRegion) : Dev :=
  let new := (d.line pa).valid = 0
  let d := if new then d.makeRoom f pa else d
  let lra := ra / 128 * 128
  let lpa := pa / 128 * 128
  let good := (List.range 4).filter fun i => d.unitStatus f r (lra + 32 * i) rg (lpa + 32 * i) == .ok
  let way := d.freeWay f pa
  d.modLine pa fun l =>
    { l with valid := good.foldl (fun v i => setBit v i) l.valid, frame := f, region := r, ra := lra,
             way := if new then way else l.way }

/-! ## Serving an access (R150, R151, R176) -/

def AccKind.size : AccKind → Nat
  | .ld w => w | .st bs => bs.length | .ldn => 32 | .stn bs => bs.length | .stnM _ bs => bs.length
  | .atomic _ wide _ _ => if wide then 8 else 4
  | .fadd _ => 4 | .xinit _ => 16 | .xadd _ _ => 16

def AccKind.writes : AccKind → Bool
  | .ld _ => false | .ldn => false | _ => true

/-- LD, ST and atomics fill and allocate a line that misses. -/
def AccKind.allocates : AccKind → Bool
  | .ldn => false | .stn _ => false | .stnM _ _ => false | _ => true

/-- The new value of a cell under an ordinary integer atomic. -/
def atomicOp (op : AtomicOp) (w : Nat) (old a b : Nat) : Nat :=
  let x := a % 2 ^ w
  let lt (s : Bool) : Bool := intOf w s old < intOf w s x
  match op with
  | .add => (old + x) % 2 ^ w
  | .minS => if lt true then old else x
  | .minU => if lt false then old else x
  | .maxS => if lt true then x else old
  | .maxU => if lt false then x else old
  | .and => old &&& x
  | .or => old ||| x
  | .xor => old ^^^ x
  | .swap => x
  | .cas => if old = x then b % 2 ^ w else old

/-- STN.M's lanes over the old sector. -/
def mergeLanes (lanes : BitVec 8) (old new : List Byte) : List Byte :=
  ((old.zip new).zipIdx).map fun x => if lanes.getLsbD (x.2 / 4) then x.1.2 else x.1.1

/-- What an access leaves in its bytes, from their old value; none for a read. -/
def AccKind.result (k : AccKind) (old : List Byte) : Option (List Byte) :=
  let v := leVal old
  match k with
  | .ld _ => none
  | .ldn => none
  | .st bs => some bs
  | .stn bs => some bs
  | .stnM lanes bs => some (mergeLanes lanes old bs)
  | .atomic op wide a b => some (leBytes (if wide then 8 else 4)
      (atomicOp op (if wide then 64 else 32) v a.toNat b.toNat))
  | .fadd a => some (leBytes 4
      (Fmt.s32.add .rne 0 (openResult .fadd 32 [v, a.toNat]).toNat (Fmt.s32.value v) (Fmt.s32.value a.toNat)).1)
  | .xinit anchor => some (leBytes 16 (xinitCell anchor).word.toNat)
  | .xadd fmt a => some (leBytes 16
      ((Acc.ofWord (BitVec.ofNat 128 v)).xadd (fmt.fmt.value a.toNat)).word.toNat)

/-- The request has been served, with a status and the bytes it returns. -/
def Dev.respond (d : Dev) (id : Nat) (st : Status) (det : Detail) (bs : List Byte) : Dev :=
  { d with mem := { d.mem with reqs := d.mem.reqs.map fun r =>
      if r.id = id then { r with served := true, status := st, detail := det, result := bs } else r } }

/-- An access that began in `d₀` fails (R162, R302). -/
def Dev.failReq (d d₀ : Dev) (r : MemReq) (st : Status) (det : Detail) : Dev :=
  if st = .ok then d.respond r.id st det []
  else
    let info := hitInfo r.handle (d₀.obj (objIndex r.handle)) { status := st, detail := det, addr := r.ra }
    (d₀.blameLaunch d r.ctx st det info).respond r.id st det []

/-- The access executes in the slice, whose sectors are valid (a hit, or after a fill). -/
def Dev.serveLine (d : Dev) (r : MemReq) (pa : Nat) : Dev :=
  let n := r.kind.size
  let old := (List.range n).map fun i => d.readByte (pa + i)
  let d := match r.kind.result old with
    | none => d
    | some new =>
      (new.zipIdx.foldl (fun (d : Dev) (b : Byte × Nat) => (d.dirtySector (pa + b.2)).putByte (pa + b.2) b.1) d).markDirty
        r.clearing r.region r.ra
  let d := match r.kind with | .fadd _ => d.loseHeld | _ => d
  (d.tick).respond r.id .ok .none old

/-- A narrow access that misses: LDN reads one sector, STN writes through, STN.M merges at the
controller. -/
def Dev.serveNarrow (d : Dev) (r : MemReq) (rg : PlanRegion) : Dev :=
  let old := d.readRange r.clearing r.region r.ra 32
  match r.kind with
  | .stn bs =>
    let x := d.writeRange r.clearing r.region r.ra bs
    x.1.failReq d r x.2.status x.2.detail
  | .stnM lanes bs =>
    let x := d.writeUnit r.clearing r.region rg true (r.ra / rg.unit * rg.unit) r.ra (mergeLanes lanes old bs)
    x.1.tick.failReq d r x.2.1 x.2.2
  | _ => d.tick.respond r.id .ok .none old

/-- Hits, misses, far misses and narrow reads of the frame's clearing. Log entry 58 (DEDUCED). -/
def Dev.countAccess (d : Dev) (f pa : Nat) (hit narrow : Bool) : Dev :=
  if 16 ≤ f then d
  else
    let far := d.homeOf f pa != stackOf pa / 4
    d.modClr f fun c =>
      if hit then { c with memHit := satInc c.memHit }
      else { c with
        memMiss := satInc c.memMiss, memFar := if far then satInc c.memFar else c.memFar,
        memNarrow := if narrow then satInc c.memNarrow else c.memNarrow }

/-- What a read of the access's unit meets, where the access must read it: none where a scheduled access
waits for a Commons repair. -/
def Dev.serveCheck (d : Dev) (r : MemReq) : Dev × Option Hit :=
  let x := d.checkRange r.clearing r.region r.ra r.kind.size
  let who := (d.ctxLaunch r.ctx).bind d.launchHolder
  match who, d.phys r.clearing r.region x.2.addr with
  | some w, some pa =>
    if x.2.status = .uncorrectable && d.frameOwner r.clearing == 0 then
      (x.1.holdRepair (pa / 64) (w.1, w.2, hitInfo r.handle (d.obj (objIndex r.handle)) x.2), none)
    else (x.1, some x.2)
  | _, _ => (x.1, some x.2)

/-- An earlier access of the same context to one of the request's bytes has not taken effect (R149). -/
def Dev.behindOwn (d : Dev) (r : MemReq) : Bool :=
  d.mem.reqs.any fun x => x.id < r.id && !x.served && x.ctx == r.ctx && x.clearing == r.clearing &&
    x.region == r.region && x.ra < r.ra + r.kind.size && r.ra < x.ra + x.kind.size

/-- HOME_SLICE_ACCESS: the access is served under R176, or waits for a save stage, a repair, or an earlier access of
its context. -/
def doHomeSliceAccess (id : Nat) (d : Dev) : Dev :=
  match d.mem.reqs.find? fun r => r.id == id && !r.served && !d.behindOwn r with
  | none => d
  | some r =>
    let d₀ := d
    match d.planRegion r.clearing r.region, d.phys r.clearing r.region r.ra with
    | some rg, some pa =>
      let n := r.kind.size
      let w := r.kind.writes
      if !d.keyAllows r.clearing r.asker w then d.respond id .ownerDenied .none []
      else if w && d.rangeWaits r.clearing r.region r.ra n then d.hurry r.clearing r.region r.ra n
      else if d.cached pa n then (d.countAccess r.clearing pa true false).serveLine r pa
      else
        let read := r.kind.allocates || !w
        match if read then d.serveCheck r else (d, some Hit.ok) with
        | (d, none) => d
        | (d, some h) =>
          let d := d.countAccess r.clearing pa false (!r.kind.allocates && !w)
          if h.status ≠ .ok then d.failReq d₀ r h.status h.detail
          else if r.kind.allocates then (d.fillLine r.clearing r.region r.ra pa rg).serveLine r pa
          else d.serveNarrow r rg
    | _, _ => d

def execHomeSliceAccess (id : Nat) (s : State) : Out := act s (doHomeSliceAccess id)

/-! ## Lines that return from a stack (R180, R181, R202) -/

/-- A corrected line counts, with the symbols corrected in it; the stack's threshold raises CE_THRESH (R180,
MEM_CE_THRESH). -/
def Dev.corrected (d : Dev) (s sa n : Nat) : Dev :=
  let d := d.modStack s fun x =>
    { x with ce := satInc x.ce, symbols := Tab.mod 0 x.symbols (saPseudoChannel sa) (· + n) }
  let x := d.stack s
  let worst := (x.symbols.foldl (fun (b : Nat × Nat) e => if b.2 < e.2 then e else b) (0, 0)).1
  let d := d.modStack s fun x => { x with worstPc := BitVec.ofNat 6 worst }
  d.raiseIf (d.mem.ceThresh != 0 && x.ce.toNat == d.mem.ceThresh.toNat) .mem 0

/-- The region addresses that a failed line covers, and its index (R192): a data unit, a tag line, a node of level
k + 1, or the whole region. -/
def levelSpan (rg : PlanRegion) (lv : Level) (ra : Nat) : Nat × Nat × Nat :=
  let below (bytes : Nat) : Nat × Nat := (ra / bytes * bytes, ra / bytes * bytes + bytes - 1)
  match lv with
  | .unit => ((below rg.unit).1, (below rg.unit).2, ra / 64)
  | .tagLine => ((below (rg.metaSpan 0)).1, (below (rg.metaSpan 0)).2, (below (rg.metaSpan 0)).1 / 64)
  | .node k => ((below (rg.metaSpan (k.val + 1))).1, (below (rg.metaSpan (k.val + 1))).2, rg.metaIdx (k.val + 1) ra)
  | .root => (0, rg.dataBytes - 1, 0)

/-- LEVEL of MCX_ERR_INFO. -/
def levelCode : Level → Nat
  | .unit => 0 | .tagLine => 1 | .node k => 2 + k.val | .root => 7

/-- A quarantine opens: its units are INTEGRITY_LOST, and a fresh pair is placed for the repair's rekey
(R205). Log entry 55 (DEDUCED). -/
def Dev.quarantineAt (d : Dev) (f r : Nat) (rg : PlanRegion) (lv : Level) (ra : Nat) (partialW write : Bool) :
    Dev :=
  let x := levelSpan rg lv ra
  if d.quarantined f r ra then d
  else
    let d := d.latchErr f .integrityLost r (levelCode lv) partialW write x.2.2
    let d := d.modFrame f fun y =>
      { y with repair := true, quarantine := y.quarantine ++ [(r, x.1, x.2.1)],
               ilost := satAdd y.ilost ((x.2.1 + 1 - x.1) / rg.unit) }
    (d.raise .mcx 2).rekeyPair f

/-- A tag line or node fails its MAC: the units below it are poisoned and the policy acts. -/
def Dev.subtreeTamper (d : Dev) (f r : Nat) (rg : PlanRegion) (lv : Level) (ra : Nat) (partialW write : Bool) :
    Dev :=
  let x := levelSpan rg lv ra
  let d := d.latchErr f .tamper r (levelCode lv) partialW write x.2.2
  (d.modFrame f fun y => { y with tampered := y.tampered ++ [(r, x.1, x.2.1)] }).tamper f

/-- What a line's return resolves to (R202): ECC first, then poison, then the MAC. CIPHER_ONLY units have
neither tags nor MAC. `macOk` is the outcome for a tag line or node; a unit is verified here. -/
def Dev.resolveLine (d : Dev) (f r ra pa : Nat) (rg : PlanRegion) (partialW write : Bool) (ecc : Ecc)
    (macOk : Bool) (lv : Level) : Dev × Status :=
  let k := unitKey rg.unit pa
  if lv = .unit then
    if d.quarantined f r ra then (d, .integrityLost)
    else if ecc = .uncorrectable then
      (if d.causeAt f r ra k = 0 || rg.mode = 2 then d.unitUncorrectable f r ra pa k rg.mode partialW write
       else d.reportUe pa, .uncorrectable)
    else if rg.mode = 2 then (d, .ok)
    else if d.causeAt f r ra k ≠ 0 then (d, causeStatus (d.causeAt f r ra k))
    else if !d.unitFails f r rg ra pa then (d, .ok)
    else (d.unitTamper f r ra k partialW write, .tamper)
  else if ecc = .uncorrectable then (d.quarantineAt f r rg lv ra partialW write, .integrityLost)
  else if !macOk && rg.mode = 0 then
    if (d.frame f).tampered.any fun q => q.1 == r && q.2.1 ≤ ra && ra ≤ q.2.2 then (d, .tamper)
    else (d.subtreeTamper f r rg lv ra partialW write, .tamper)
  else (d, .ok)

/-- An error pattern with what the unreplaced lane of a DEGRADED pseudo-channel adds (R182). -/
def Dev.laneErrors (d : Dev) (pa : Nat) (errors : List SymErr) : List SymErr :=
  match Tab.get 0 (d.stack (stackOf pa)).badLane (saPseudoChannel (stackAddr pa)) with
  | 0 => errors
  | n + 1 => if errAt errors n = 0 then (Fin.ofNat 36 n, Config.laneWord d.free ||| 1) :: errors else errors

/-- What the decoder passed on in place of a line stays in the stack: a CIPHER_ONLY line's bytes change with it (R199),
a sealed line is flawed. -/
def Dev.takeFlaw (d : Dev) (pa : Nat) (cipherOnly : Bool) (flaw : BitVec 512) : Dev :=
  if flaw = 0 then d
  else if cipherOnly then
    (List.range 64).foldl (fun d i =>
      let a := pa / 64 * 64 + i
      match Tab.get none d.mem.hbm a with
      | some b => d.putHbm a (some (b ^^^ flaw.extractLsb' (8 * i) 8))
      | none => d) d
  else { d with mem := { d.mem with flaws := Tab.mod 0 d.mem.flaws (pa / 64) (· ^^^ flaw) } }

/-- LEVEL by number: 0 a tag line, then the tree's levels. -/
def levelOf (k : Nat) : Level := if k = 0 then .tagLine else .node (Fin.ofNat 5 (k - 1))

/-- The line that a read of a region address on behalf of a level brings: its level, the first region address below it,
and its physical byte; none where the region has no such line. The root is in on-die SRAM. -/
def Dev.lineRead (d : Dev) (f r ra : Nat) (rg : PlanRegion) (lv : Level) : Option (Level × Nat × Option Nat) :=
  let at_ (k i : Nat) : Option (Level × Nat × Option Nat) :=
    if rg.metaLevels.contains k then some (levelOf k, i * rg.metaSpan k, d.phys f r (rg.metaAddr k i)) else none
  match rg.metaLineAt ra with
  | some x => at_ x.1 x.2
  | none =>
    if rg.dataBytes ≤ ra then none
    else match lv with
      | .unit => some (.unit, ra / rg.unit * rg.unit, d.phys f r (ra / rg.unit * rg.unit))
      | .tagLine => at_ 0 (rg.metaIdx 0 ra)
      | .node k => at_ (k.val + 1) (rg.metaIdx (k.val + 1) ra)
      | .root => some (.root, ra, none)

/-- A request that waited for a line and fails is served with the failure's status. -/
def Dev.answerLine (d₀ d : Dev) (st : Status) (forReq : Option Nat) : Dev :=
  match forReq.bind fun id => d₀.mem.reqs.find? fun r => r.id == id && !r.served with
  | some r => if st ≠ .ok then d.failReq d₀ r st .none else d
  | none => d

/-- A decoded line came: its corrected symbols count (R180), and what the decoding left altered is taken. -/
def Dev.lineCame (d : Dev) (pa : Nat) (cipherOnly : Bool) (x : RsOut) : Dev :=
  let d := if x.ecc = .corrected then d.corrected (stackOf pa) (stackAddr pa) x.syms else d
  d.takeFlaw pa cipherOnly x.flaw

/-- A line returns from a stack with its error pattern: the base die decodes it, and the engine verifies it. -/
def Dev.lineReturns (d : Dev) (f r ra : Nat) (rg : PlanRegion) (write partialW : Bool) (errors : List SymErr)
    (lv : Level) : Dev × Status :=
  match d.lineRead f r ra rg lv with
  | none => (d, .ok)
  | some (.root, ra, _) => d.resolveLine f r ra 0 rg partialW write (secDed errors) true .root
  | some (_, _, none) => (d, .ok)
  | some (lv, ra, some pa) =>
    let x := rsDecode (d.laneErrors pa errors)
    let d := d.lineCame pa (rg.mode == 2) x
    let now := Tab.get 0 d.mem.flaws (pa / 64)
    let fits := match lv with
      | .node k => d.nodeFits f r rg (k.val + 1) (rg.metaIdx (k.val + 1) ra) pa now
      | _ => now == 0
    d.resolveLine f r ra pa rg partialW write x.ecc fits lv

/-- HBM_LINE_READ: a line returns from a stack. A request that waited for it and fails is served with the
failure's status; one that verifies is served at its home slice. A stack in EMERGENCY returns none (R185). -/
def doHbmLineRead (s sa : Nat) (write partialW : Bool) (errors : List SymErr) (lv : Level)
    (forReq : Option Nat) (d : Dev) : Dev :=
  let pa := physOf s sa
  if (d.stack s).therm = 2 then d
  else match d.findPa pa with
    | none =>
      let x := rsDecode (d.laneErrors pa errors)
      if x.ecc = .uncorrectable then d.reportUe pa
      else if x.ecc = .corrected then d.corrected s sa x.syms else d
    | some (f, r, ra, rg) =>
      let y := d.lineReturns f r ra rg write partialW errors lv
      d.answerLine y.1 y.2 forReq

/-- Log entries 21 (DESIGN CHOICE), 120 (DESIGN CHOICE), 121 (DEDUCED). -/
def execHbmLineRead (hs : Stk) (sa : BitVec 37) (write partialWrite : Bool) (cells transfer : List SymErr)
    (level : Level) (forReq : Option Nat) (st : State) : Out :=
  actMem st (sa.toNat < stackSize) (doHbmLineRead hs.val sa.toNat write partialWrite (cells ++ transfer) level forReq)

/-- A line of the physical byte lies in a region without tags or MACs. -/
def Dev.cipherOnlyAt (d : Dev) (pa : Nat) : Bool :=
  match d.findPa pa with
  | some x => x.2.2.2.mode == 2
  | none => false

/-- PATROL_READ (R181): the line is corrected and written back, and counts; an uncorrectable one is listed and logged.
Log entry 56 (DEDUCED). -/
def doPatrolRead (s sa : Nat) (errors : List SymErr) (d : Dev) : Dev :=
  let pa := physOf s sa
  let line := pa / 64
  let x := rsDecode (d.laneErrors pa errors)
  if (d.stack s).therm = 2 then d
  else if x.ecc ≠ .uncorrectable then d.lineCame pa (d.cipherOnlyAt pa) x
  else if d.mem.ueList.contains line then d
  else
    let d : Dev := { d with mem := { d.mem with ueList := line :: d.mem.ueList } }
    d.logEvent 0x0E 0xFF 0xFFFF 0 (BitVec.ofNat 64 line)

/-- Log entries 21 (DESIGN CHOICE), 120 (DESIGN CHOICE). -/
def execPatrolRead (s : Stk) (sa : BitVec 37) (errors : List SymErr) (st : State) : Out :=
  actMem st (sa.toNat < stackSize) (doPatrolRead s.val sa.toNat errors)

/-! ## STACK_TEMP_SAMPLE (R183, R185, R186) -/

/-- The device declares itself failed: every clearing halts and every command completes OUT_OF_SERVICE
(R185, R352). -/
def Dev.cliff (d : Dev) : Dev :=
  (({ d with flt := { d.flt with cliff := true } } : Dev).haltAll .outOfService .none).loseCopies

/-- TRIP: THERM_TRIP_N latches and stage 1 turns off; the device runs nothing until power is removed
(R186, R389). Log entry 81 (DEDUCED). -/
def Dev.trip (d : Dev) : Dev :=
  { d with pins := { d.pins with thermTrip := true }, pwr := { d.pwr with stage1 := false } }

def doStackTempSample (s : Nat) (temp : Byte) (d : Dev) : Dev :=
  let x := d.stack s
  let t := temp.toNat
  let below := if t < 82 then x.below + 1 else 0
  let d := d.modStack s fun x =>
    { x with tempNow := temp, tempMax := if x.tempMax.toNat < t then temp else x.tempMax,
             below := if x.therm = 1 then below else 0 }
  let d := if 105 ≤ t then d.trip else d
  if x.therm = 2 then d
  else if 95 ≤ t then (((d.modStack s fun x => { x with therm := 2, below := 0 }).cliff).raise .mem 4)
  else if x.therm = 0 && 85 < t then (d.modStack s fun x => { x with therm := 1, below := 0 }).raise .mem 2
  else if x.therm = 1 && 100 ≤ below then
    (d.modStack s fun x => { x with therm := 0, below := 0 }).raise .mem 3
  else d

/-- Log entry 21 (DESIGN CHOICE). -/
def execStackTempSample (s : Stk) (temp : BitVec 8) (st : State) : Out :=
  act st (doStackTempSample s.val temp)

/-! ## Epoch renewal (R198) -/

/-- From the mark after its request, a renewal has incremented the region's epoch. What a CIPHER_ONLY region held under
the old epoch no longer deciphers (R189, R199). Log entry 125 (DEDUCED). -/
def doEpochRenewal (f r : Nat) (d : Dev) : Dev :=
  if d.renewDue f r then
    let d := d.modRegion (regKey f r) fun x => { x with renew := false, epoch := x.epoch + 1 }
    match d.planRegion f r with
    | some rg => if rg.mode = 2 then d.forgetRegion f r else d
    | none => d
  else d

/-- A renewal may be asked of a SEALED_EPOCH or CIPHER_ONLY region of clearing 0–15; it takes effect at the next mark,
once however often it is asked for before. -/
def doMcxEpochRenew (n r : Nat) (d : Dev) : Dev :=
  match d.planRegion n r with
  | some rg =>
    if n < 16 && rg.mode != 0 then
      (doEpochRenewal n r d).modRegion (regKey n r) fun x =>
        if x.renew then x else { x with renew := true, renewAt := d.tide.count }
    else d
  | none => d

def execMcxEpochRenew (clearing : BitVec 5) (region : BitVec 11) (s : State) : Out :=
  act s (doMcxEpochRenew clearing.toNat region.toNat)

def execEpochRenewal (frame : Fin 17) (region : BitVec 11) (s : State) : Out :=
  act s (doEpochRenewal frame.val region.toNat)

/-! ## KEY_SWAP and rekey sweeps (R199–R201, R218, R219) -/

/-- The clearing whose memory pair a slot belongs to. -/
def Dev.pairOf (d : Dev) (slot : Nat) : Option Nat :=
  (List.range 16).find? fun n => d.keySlot n 0 == some slot || d.keySlot n 1 == some slot

/-- The two slots of a clearing's pair. -/
def Dev.pairSlots (d : Dev) (n : Nat) : List Nat :=
  (d.keySlot n 0).toList ++ (d.keySlot n 1).toList

/-- The shadow key swaps in; the old key serves reads from the shadow when `keep`, else it is gone.
Log entry 63 (DEDUCED). -/
def Slot.swapIn (x : Slot) (keep : Bool) : Slot :=
  match x.shadow with
  | none => x
  | some s =>
    let old : Shadow :=
      { key := x.key, kcv := x.kcv, attr := x.attr, owner := x.owner, mask := x.mask, source := x.source,
        bundleOk := x.bundleOk }
    { x with key := s.key, kcv := s.kcv, attr := s.attr, owner := s.owner, mask := s.mask,
             source := s.source, bundleOk := s.bundleOk, gen := x.gen + 1, shadow := if keep then some old else none, swapPos := none, outgoing := keep }

/-- A swap is cancelled and its shadow destroyed. -/
def Dev.cancelSwapOf (d : Dev) (slots : List Nat) : Dev :=
  (slots.foldl (fun d s => d.modSlot s fun x => { x with shadow := none, swapPos := none }) d).raise .sec 3

/-- The position at which a slot swaps has been reached. -/
def Dev.swapDue (d : Dev) (s : Nat) : Bool :=
  match (d.slot s).swapPos with
  | some p => d.tide.firstSeen && p.toNat ≤ d.tide.pos.toNat && (d.slot s).loaded
  | none => false

/-- A memory pair swaps: both keys, KG, and the rekey sweep starts; CIPHER_ONLY contents are undefined.
Log entries 55 (DEDUCED), 63 (DEDUCED). -/
def Dev.swapPair (d : Dev) (n : Nat) (slots : List Nat) : Dev :=
  let d := slots.foldl (fun d s => (d.modSlot s (Slot.swapIn · true))) d
  let d := d.modFrame n fun x => { x with kg := !x.kg, rekey := true, sweepPos := 0, sweepRegion := 0 }
  let d := match d.plan.active with
    | some p => ((p.regionsOf n).zipIdx.filter fun r => r.1.mode == 2).foldl
        (fun d r => d.forgetRegion n r.2) d
    | none => d
  (slots.foldl Dev.remeasureSlot d).raise .sec 2

/-- The clearings that a slot serves under the plan. -/
def Dev.slotClearings (d : Dev) (s : Nat) : List Nat :=
  match d.plan.active with
  | some p => (List.range 16).filter fun n => (policySlots p n).contains s
  | none => []

/-- KEY_SWAP: after a plan apply that is due at the same mark; held while a sweep of the pair runs or the clearing is
RESETTING, cancelled while it is fenced or contained (R219). -/
def doKeySwap (s : Nat) (d : Dev) : Dev :=
  if !d.swapDue s || d.plan.due then d
  else
    let gone (n : Nat) : Bool := (d.frame n).contained || (d.clr n).st == .fenced || (d.clr n).fencing
    match d.pairOf s with
    | some n =>
      let slots := d.pairSlots n
      if gone n then d.cancelSwapOf slots
      else if (d.frame n).rekey || (d.clr n).st == .resetting || !slots.all d.swapDue then d
      else d.swapPair n slots
    | none =>
      if (d.slotClearings s).any gone then d.cancelSwapOf [s]
      else if (d.slotClearings s).any fun n => (d.clr n).st == .resetting then d
      else ((d.modSlot s (Slot.swapIn · false)).remeasureSlot s).raise .sec 2

def execKeySwap (slot : SlotId) (s : State) : Out := act s (doKeySwap slot.toNat)

/-- Put a unit into a list by its region address. -/
def insertUnit (x : Nat × Nat) : List (Nat × Nat) → List (Nat × Nat)
  | [] => [x]
  | y :: ys => if x.1 ≤ y.1 then x :: y :: ys else y :: insertUnit x ys

/-- The units of a region below a region address that have counters of their own, ascending: region address and
physical byte. -/
def Dev.unitsBelow (d : Dev) (f r upTo : Nat) : List (Nat × Nat) :=
  (d.mem.meta_.filterMap fun x => (d.findPa (x.1 * 32)).bind fun y =>
    if y.1 = f && y.2.1 = r && y.2.2.1 < upTo && x.2.own then some (y.2.2.1, x.1 * 32) else none).foldr insertUnit []

/-- The sweep at a unit: one of the old KG is verified and rewritten under the new key; a failure acts (R200, R201). -/
def Dev.sweepUnit (d : Dev) (f r : Nat) (rg : PlanRegion) (ra pa : Nat) : Dev :=
  let k := unitKey rg.unit pa
  if d.quarantined f r ra || d.causeAt f r ra k ≠ 0 || (d.metaAt f r k).kg == (d.frame f).kg then d
  else if d.unitFails f r rg ra pa then d.unitTamper f r ra k false false
  else (d.countWrite f r rg ra k).1

/-- The sweep of a sealed region up to a region address. -/
def Dev.sweepTo (d : Dev) (f r upTo : Nat) : Dev :=
  match d.planRegion f r with
  | none => d
  | some rg =>
    if rg.mode = 2 then d else (d.unitsBelow f r upTo).foldl (fun d x => d.sweepUnit f r rg x.1 x.2) d

/-- The counters of a region's other units, and its nodes, once the sweep has been through the region.
Log entry 124 (DEDUCED). -/
def RegionSt.swept (x : RegionSt) (mode : Byte) (kg : Bool) (e : BitVec 50) : RegionSt :=
  let b := x.base
  let same := b.epoch.getLsbD 0 == e.getLsbD 0
  let base : UnitMeta :=
    if b.kg == kg then b
    else if mode = 0 then { b with kg := kg, loc := b.loc + 1 }
    else if same && b.wcnt == 7 then { b with dead := true }
    else { b with kg := kg, wcnt := if same then b.wcnt + 1 else 0, epoch := e }
  { x with base := base, root := { x.root with kg := kg },
           nodes := Tab.each NodeSt.reset x.nodes fun _ n => { n with kg := kg } }

/-- The sweep of a whole region. -/
def Dev.sweepRegion (d : Dev) (f r : Nat) : Dev :=
  match d.planRegion f r with
  | none => d
  | some rg =>
    if rg.mode = 2 then d
    else
      let d := d.sweepTo f r rg.dataBytes
      d.modRegion (regKey f r) fun x => x.swept rg.mode (d.frame f).kg (d.epochOf f r)

/-- Regions `a` to `b` − 1 of a clearing are swept whole. -/
def Dev.sweepRegions (d : Dev) (n a b : Nat) : Dev :=
  (List.range (b - a)).foldl (fun d i => d.sweepRegion n (a + i)) d

/-- The sweep has reached a line of a region. -/
def Dev.sweepReaches (d : Dev) (n r : Nat) (line : BitVec 35) : Dev :=
  let x := d.frame n
  if r < x.sweepRegion || (r == x.sweepRegion && line.toNat < x.sweepPos.toNat) then d
  else ((d.sweepRegions n x.sweepRegion r).sweepTo n r (64 * line.toNat)).modFrame n fun x =>
    { x with sweepRegion := r, sweepPos := line }

/-- A unit that the sweep could not rewrite lies under a key that is gone. -/
def Dev.leaveBehind (d : Dev) (n : Nat) : Dev :=
  let kg := (d.frame n).kg
  let left (k : Nat) (u : UnitMeta) : UnitMeta := match d.findPa (k * 32) with
    | some y => if y.1 = n && u.own && u.kg != kg then { u with dead := true } else u
    | none => u
  { d with mem := { d.mem with meta_ := Tab.each UnitMeta.reset d.mem.meta_ left } }

/-- REKEY_SWEEP_DONE: the sweep has reached a line, or every sealed unit is under the new key and the old one is
destroyed; a replacement that waited for the sweep is placed (R201, R205, R220). Log entry 124 (DEDUCED). -/
def doRekeySweepDone (n : Nat) (reached : Option (Nat × BitVec 35)) (d : Dev) : Dev :=
  if (d.frame n).rekey then
    match reached with
    | some x => d.sweepReaches n x.1 x.2
    | none =>
      let count := match d.plan.active with | some p => (p.regionsOf n).length | none => 0
      let d := (d.sweepRegions n (d.frame n).sweepRegion count).leaveBehind n
      let again := (d.frame n).rekeyWaits
      let d := d.modFrame n fun x =>
        { x with rekey := false, sweepPos := 0, sweepRegion := 0, rekeyWaits := false }
      let d := (d.pairSlots n).foldl (fun d s => d.modSlot s fun x =>
        if x.outgoing then { x with shadow := none, outgoing := false } else x) d
      let d := d.raise .mcx 4
      if again then d.rekeyPair n else d
  else d

def execRekeySweepDone (n : Clr) (s : State) (reached : Option (BitVec 11 × BitVec 35) := none) : Out :=
  act s (doRekeySweepDone n.val (reached.map fun x => (x.1.toNat, x.2)))

/-! ## INTEGRITY_REPAIR_DONE (R205) -/

/-- The units of the quarantine are restored from the buddy's copy and rebuilt: their counters 0, their poison gone, and
the nodes below the failed line at 0 too, under a fresh salt. The copy holds the current contents, so the bytes stay. -/
def Dev.rebuild (d : Dev) (n : Nat) : Dev :=
  let qs := (d.frame n).quarantine
  let inQ (k : Nat) : Bool := match d.findPa (k * 32) with
    | some x => x.1 == n && qs.any fun q => q.1 == x.2.1 && q.2.1 ≤ x.2.2.1 && x.2.2.1 ≤ q.2.2
    | none => false
  let kg := (d.frame n).kg
  let fresh (k : Nat) (u : UnitMeta) : UnitMeta :=
    if inQ k then { u with cause := 0, kg := kg, loc := 0, wcnt := 0, own := true, dead := false } else u
  let d : Dev := { d with mem := { d.mem with meta_ := Tab.each UnitMeta.reset d.mem.meta_ fresh } }
  let d := qs.foldl (fun d q => match d.planRegion n q.1 with
    | none => d
    | some rg => d.modRegion (regKey n q.1) fun x =>
        { x with nodes := Tab.drop x.nodes fun i =>
            let span := rg.metaSpan (i % 8)
            q.2.1 ≤ i / 8 * span && i / 8 * span + span ≤ q.2.2 + 1 }) d
  let d := (qs.map (·.1)).dedup.foldl (fun d r =>
    (d.modRegion (regKey n r) fun x => { x with salt := d.random.setWidth 64 }).tick) d
  d.modFrame n fun x =>
    { x with repair := false, quarantine := [],
             tampered := x.tampered.filter fun t => !qs.any fun q => q.1 == t.1 && q.2.1 ≤ t.2.1 && t.2.2 ≤ q.2.2 }

/-- A buddy copy holds the current contents of every chunk of the quarantine. -/
def Dev.copiesCurrent (d : Dev) (n : Nat) : Bool :=
  (d.frame n).quarantine.all fun q => (List.range ((q.2.2 - q.2.1) / 4096 + 2)).all fun i =>
    match d.plan.active.bind fun p => chunkKey p n q.1 (min (q.2.1 + 4096 * i) q.2.2) with
    | some k => d.buddyHas k
    | none => false

/-- An integrity repair ends: rebuilt from current copies once the rekey has completed, or the objects are lost and the
clearing faults. Log entry 55 (DEDUCED). -/
def doIntegrityRepairDone (n : Nat) (ok : Bool) (d : Dev) : Dev :=
  if !(d.frame n).repair then d
  else if ok && d.copiesCurrent n then
    if (d.frame n).rekey || (d.frame n).rekeyWaits || (d.pairSlots n).any fun s => (d.slot s).swapPos.isSome then d
    else (d.rebuild n).raise .mcx 6
  else (d.haltClr n .halted .aborted .clearingHalted).raise .flt 5

def execIntegrityRepairDone (n : Clr) (ok : Bool) (s : State) : Out := act s (doIntegrityRepairDone n.val ok)

/-! ## The scrub (R207) -/

/-- SCRUB_KEY_ERASE (step 2): once no access of the clearing is in flight, it leaves its old owner's slots,
and its engine keys and salts are destroyed. -/
def doScrubKeyErase (n : Nat) (d : Dev) : Dev :=
  if (d.frame n).scrub && !(d.frame n).erased && d.mem.reqs.all fun r => r.served || r.clearing != n then
    let d := d.leaveSlots n (d.clr n).scrubOwner
    let d := match d.plan.active with | some p => d.dropUnfit p | none => d
    let d := (d.eraseGranules (d.clr n).scrubGs).dropRegions n
    d.modFrame n fun x => { x with erased := true }
  else d

def execScrubKeyErase (n : Clr) (s : State) : Out := act s (doScrubKeyErase n.val)

/-- SCRUB_OVERWRITE_START (steps 3 and 4): with a new owner, only once both slots of the new pair hold
keys. -/
def doScrubOverwriteStart (n : Nat) (d : Dev) : Dev :=
  let x := d.frame n
  if x.scrub && x.erased && !x.overwriting then
    if (d.planClr n).isSome && !d.pairLoaded n then d.modFrame n fun x => { x with waitKeys := true }
    else d.modFrame n fun x => { x with waitKeys := false, overwriting := true }
  else d

def execScrubOverwriteStart (n : Clr) (s : State) : Out := act s (doScrubOverwriteStart n.val)

/-- A granule has entered another clearing: the plan gives it to one, and its own overwrite has ended (R68). -/
def Dev.enteredOther (d : Dev) (n g : Nat) : Bool :=
  !d.plan.overwrites.any (·.1 == g) && match d.plan.active with
    | some p => (List.range 17).any fun m => m != n && (p.granules m).contains g
    | none => false

/-- SCRUB_DONE (step 5): the regions are formed anew, tile SRAM is zeroed, and the clearing serves its new
owner. -/
def doScrubDone (n : Nat) (d : Dev) : Dev :=
  if (d.frame n).scrub && (d.frame n).overwriting then
    let gs := (d.clr n).scrubGs.filter fun g => !d.enteredOther n g
    let d := d.eraseGranules gs
    let d : Dev := { d with plan := { d.plan with
      overwrites := d.plan.overwrites.filter fun o => !gs.contains o.1 } }
    let d := match d.plan.active with
      | some p => (List.range (p.regionsOf n).length).foldl (fun (d : Dev) r => d.formRegion n r) d
      | none => d
    let d := ((d.clr n).scrubTiles ++ d.tilesOf n).foldl Dev.wipeTile d
    let d := d.modFrame n fun _ => McxFrame.reset
    let st : ClrSt := if (d.planClr n).isSome then d.openState else .absent
    let d := d.modClr n fun c => { c with st := st, scrubOwner := 0, scrubGs := [], scrubTiles := [] }
    (d.remeasure n).raise .mcx 5
  else d

def execScrubDone (n : Clr) (s : State) : Out := act s (doScrubDone n.val)

end Sys2Proof.Machine
end

