-- ==== Sys2Proof/Machine/Resets.lean ====
section
/-! DEFINITION. The commands of faults and resets (chapter 15), of the reset balls and of the boot. -/

namespace Sys2Proof.Machine
open Sys2Proof

/-! ## Watchdogs (R349, R350) -/

/-- A clearing takes no engine or clearing reset of its own: RESETTING, SCRUBBING or fenced (R357). -/
def Dev.underReset (d : Dev) (n : Nat) : Bool :=
  (d.clr n).st == .resetting || (d.clr n).st == .scrubbing || (d.clr n).st == .fenced || (d.clr n).fencing

/-- An engine holds issued work of a command that `p` picks. -/
def Dev.worksFor (d : Dev) (e : Nat) (p : Cmd → Bool) : Bool :=
  d.cmds.any fun x => p x.2 && d.onEngine e x.1 x.2

/-- ENGINE_WATCHDOG: a hung engine takes an engine reset; while its clearing is RESETTING it is ignored.
Log entry 84 (DEDUCED). -/
def doEngineWatchdog (e : Nat) (d : Dev) : Dev :=
  match d.engineClr e with
  | none => d
  | some n =>
    if d.underReset n || !d.worksFor e fun _ => true then d
    else (d.logEvent 0x01 n (BitVec.ofNat 16 e) 0 0).engineReset e

def execEngineWatchdog (e : BitVec 16) (s : State) : Out := act s (doEngineWatchdog e.toNat)

/-- Every engine index of R348. -/
def allEngines : List Nat :=
  ((List.range 5).flatMap fun k => (List.range 96).map fun t => 4096 * k + 16 * t) ++
    (List.range 16).flatMap channels

/-- The run of an activity's instance is over its bound: 4·(DEADLINE_OFF − START_OFF) + 64 marks from its
start mark, those of set-backs included. Log entry 84 (DEDUCED). -/
def Dev.overdue (d : Dev) (r : ActRun) (a : PlanAct) : Bool :=
  !r.done && decide (r.startMark.toNat + 4 * (a.deadlineOff.toNat - a.startOff.toNat) + 64 ≤ d.tide.count.toNat)

/-- ACTIVITY_OVERRUN. Log entry 84 (DEDUCED). -/
def doActivityOverrun (a : BitVec 16) (inst : Word) (d : Dev) : Dev :=
  match d.run a inst, d.activity a with
  | some r, some x =>
    if !d.overdue r x.2 then d
    else
      let d := d.logEvent 0x0A r.clearing 0xFFFF 0 0
      let es := allEngines.filter fun e => d.worksFor e fun c => c.actId == a && c.inst == inst
      if es.isEmpty then d.raise .flt 4
      else es.foldl (fun d e => match d.engineClr e with
        | some n => if d.underReset n then d else d.engineReset e
        | none => d) d
  | _, _ => d

def execActivityOverrun (act_ : BitVec 16) (inst : Word) (s : State) : Out :=
  act s (doActivityOverrun act_ inst)

/-! ## RST_CMD (R354, R357) -/

/-- Log entry 84 (DEDUCED). -/
def Dev.rstAnswer (d : Dev) (r : BitVec 2) : Dev := { d with flt := { d.flt with rstResult := r } }

/-- A requested reset runs until its end (RST_STATUS.BUSY). Log entry 84 (DEDUCED). -/
def Dev.rstRuns (d : Dev) (k : Nat) : Dev :=
  { d with flt := { d.flt with rstFor := d.flt.rstFor ++ [k], rstResult := 0 } }

/-- RST_CMD OP ENGINE. Log entry 84 (DEDUCED). -/
def doRstEngine (e : Nat) (d : Dev) : Dev :=
  match d.engineClr e with
  | none => d.rstAnswer 2
  | some n => if d.underReset n then d.rstAnswer 1 else (d.engineReset e).rstRuns e

def execRstEngine (e : BitVec 16) (s : State) : Out := act s (doRstEngine e.toNat)

/-- RST_CMD OP CLEARING. Log entry 84 (DEDUCED). -/
def doRstClearing (n : Nat) (d : Dev) : Dev :=
  if (d.planClr n).isNone then d.rstAnswer 2
  else if d.underReset n then d.rstAnswer 1
  else (d.recoveryReset n).rstRuns (65536 + n)

def execRstClearing (n : Clr) (s : State) : Out := act s (doRstClearing n.val)

/-- RST_CMD OP COLD: at once, whatever runs. -/
def execRstCold (s : State) : Out := act s fun d => d.coldReset 0x04

/-! ## The ends of resets (R354) -/

/-- A reset of engine `e` runs. -/
def Dev.engineBusy (d : Dev) (e : Nat) : Bool := d.flt.engBusy.any fun x => x.toNat == e

def Dev.engineIdle (d : Dev) (e : Nat) : Dev :=
  { d with flt := { d.flt with engBusy := d.flt.engBusy.filter fun x => x.toNat != e } }

/-- The requested resets that the end of clearing `n`'s reset ends. -/
def Dev.rstEnds (d : Dev) (n : Nat) : Dev :=
  { d with flt := { d.flt with rstFor := d.flt.rstFor.filter fun k =>
      k != 65536 + n && !(d.engineClr k == some n && !d.engineBusy k) } }

/-- ENGINE_RESET_DONE: the engine returns to service. -/
def doEngineResetDone (e : Nat) (d : Dev) : Dev :=
  if d.engineBusy e then
    let d := d.engineIdle e
    { d with flt := { d.flt with rstFor := d.flt.rstFor.filter (· != e) } }
  else d

def execEngineResetDone (e : BitVec 16) (s : State) : Out := act s (doEngineResetDone e.toNat)

/-- ENGINE_RESET_TIMEOUT: the reset becomes a clearing recovery reset. -/
def doEngineResetTimeout (e : Nat) (d : Dev) : Dev :=
  match d.engineBusy e, d.engineClr e with
  | true, some n => ((d.engineIdle e).logEvent 0x03 n (BitVec.ofNat 16 e) 0 0).recoveryReset n
  | _, _ => d

def execEngineResetTimeout (e : BitVec 16) (s : State) : Out := act s (doEngineResetTimeout e.toNat)

/-- A clearing recovery reset runs. -/
def Dev.recovers (d : Dev) (n : Nat) : Bool := (d.clr n).st == .resetting && !(d.clr n).fencing

/-- CLEARING_RESET_DONE: the clearing is re-measured and then ACTIVE; one that is out of service is HALTED,
and one that is CONTAINED stays so (R206, R236, R356). -/
def doClearingResetDone (n : Nat) (d : Dev) : Dev :=
  if d.recovers n then
    let st : ClrSt :=
      if (d.frame n).contained then .contained
      else if (d.clr n).oos then .halted
      else d.openState
    ((d.modClr n fun c => { c with st := st }).remeasure n).rstEnds n
  else d

def execClearingResetDone (n : Clr) (s : State) : Out := act s (doClearingResetDone n.val)

/-- CLEARING_RESET_TIMEOUT: fencing begins. -/
def doClearingResetTimeout (n : Nat) (d : Dev) : Dev :=
  if d.recovers n then (d.logEvent 0x05 n 0xFFFF 0 0).startFencing n else d

def execClearingResetTimeout (n : Clr) (s : State) : Out := act s (doClearingResetTimeout n.val)

/-- FENCING_DONE. -/
def doFencingDone (n : Nat) (d : Dev) : Dev :=
  if (d.clr n).fencing then d.fenced n |>.rstEnds n else d

def execFencingDone (n : Clr) (s : State) : Out := act s (doFencingDone n.val)

/-! ## A failed neighbour (R352) -/

/-- NEIGHBOUR_FAILED: the first address is latched. Log entry 84 (DEDUCED). -/
def doNeighbourFailed (l : Nat) (d : Dev) : Dev :=
  let k := d.link l
  if k.badMarks < 3 then d
  else
    let d := d.modLink l fun k => { k with badMarks := 0 }
    let d : Dev := if d.flt.nbrFailed.getLsbD 31 then d
      else { d with flt := { d.flt with nbrFailed := BitVec.ofNat 32 (2 ^ 31 + k.farAddr.toNat) } }
    (d.logEvent 0x0B 0xFF 0xFFFF 0 (k.farAddr.setWidth 64)).raise .flt 6

def execNeighbourFailed (l : Lnk) (s : State) : Out := act s (doNeighbourFailed l.val)

/-! ## Commons repair (R359) -/

/-- The chunk's bytes go into its poisoned units through the firmware restore path, which clears the poison
(R204). `ra` is the region address of the chunk. -/
def Dev.repairChunk (d : Dev) (f r ra : Nat) (rg : PlanRegion) (data : List Byte) : Dev :=
  (List.range (4096 / rg.unit)).foldl (fun d i =>
    let u := ra + i * rg.unit
    match d.phys f r u with
    | none => d
    | some pa =>
      let key := unitKey rg.unit pa
      let listed := d.mem.ueList.contains (pa / 64)
      if d.causeAt f r u key = 0 && !listed then d
      else
        let d := d.clearPoison f r rg u pa
        let bs := (data.drop (i * rg.unit)).take rg.unit
        let d := bs.zipIdx.foldl (fun (d : Dev) (b : Byte × Nat) => d.putByte (pa + b.2) b.1) d
        (d.countWrite f r rg u key).1) d

/-- The repairs of a chunk end: a line of the chunk is no longer under repair. -/
def Dev.dropRepairs (d : Dev) (lines : List Nat) : Dev :=
  { d with mem := { d.mem with repairs := d.mem.repairs.filter fun r => !lines.contains r.line } }

/-- The physical lines of a chunk. -/
def Dev.chunkLines (d : Dev) (f r ra : Nat) : List Nat :=
  (List.range 64).filterMap fun i => (d.phys f r (ra + 64 * i)).map (· / 64)

/-- The repair fails: the held accesses complete UNCORRECTABLE and the clearing is HALTED.
Log entry 40 (DEDUCED). -/
def Dev.repairFails (d : Dev) (f : Nat) (rs : List Repair) : Dev :=
  let d := (rs.flatMap (·.holders)).foldl (fun d w => match d.cmd w.1 w.2.1 with
    | some c => match d.progTile w.1 c.seq with
      | some t =>
        -- what the program has issued completes first (R137, R411)
        (d.modProg t fun g => g.stop .uncorrectable .none w.2.2).progEnd t
      | none =>
        let d := match d.launchOf w.1 c.seq with | some l => d.freeLaunch l.id | none => d
        (d.dropXfer w.1 c.seq).completeCmd w.1 c .uncorrectable .none w.2.2 0
    | none => d) d
  let d := if f < 16 then d.haltClr f .halted .aborted .clearingHalted else d
  (d.logEvent 0x0D f 0xFFFF 4 0).raise .flt 5

/-- The bytes that repair a chunk: a buddy holds it clean, and the copy is that chunk and opens.
Log entry 40 (DEDUCED). -/
def Dev.repairData (d : Dev) (f rn ra : Nat) (copy : ChunkCopy) : Option (List Byte) :=
  match d.plan.active.bind fun p => chunkKey p f rn ra with
  | some k => if d.buddyHas k && copy.chunk == k % 2 ^ 40 then d.openChunk f copy else none
  | none => none

/-- COMMONS_REPAIR_DONE: `copy` is the chunk that came (R359), `ok` says that one came and that the rewritten
units verify. Log entry 40 (DEDUCED). -/
def doCommonsRepairDone (s sa : Nat) (ok : Bool) (copy : ChunkCopy) (d : Dev) : Dev :=
  let pa := physOf s sa
  match d.mem.repairs.find? fun r => r.line == pa / 64, d.findPa pa with
  | some r, some (f, rn, ra, rg) =>
    let base := 4096 * (ra / 4096)
    let lines := d.chunkLines f rn base
    match if ok then d.repairData f rn ra copy else none with
    | some data =>
      let d := (d.repairChunk f rn base rg data).dropRepairs lines
      (d.logEvent 0x0C f 0xFFFF 0 (BitVec.ofNat 64 (pa / 64))).raise .flt 7
    | none =>
      let d := d.dropRepairs [r.line]
      (d.repairFails f [r]).raise .flt 7
  | _, _ => d

def execCommonsRepairDone (hs : Stk) (sa : BitVec 37) (ok : Bool) (copy : ChunkCopy) (st : State) : Out :=
  actMem st (sa.toNat < stackSize) (doCommonsRepairDone hs.val sa.toNat ok copy)

/-! ## The reset balls (R355, R386, R399) -/

/-- SYS_RST_N_ASSERT: a cold reset; the device stays in reset until the ball rises.
Log entry 80 (DEDUCED). -/
def doSysRstNAssert (d : Dev) : Dev :=
  if !d.pins.powered || d.pins.inReset then d
  else
    let d := d.coldWipe 0x02
    { d with pins := { d.pins with inReset := true } }

def execSysRstNAssert (s : State) : Out := always s doSysRstNAssert

/-- SYS_RST_N_RELEASE: the device boots with the images of its flash or, under STRAP_BOOT, of a host push; the boot
logic completes an interrupted FW_COMMIT, then checks them, and without both it runs nothing (R240, R366).
Log entries 64 (DEDUCED), 80 (DEDUCED). -/
def doSysRstNRelease (images : List FwImage) (d : Dev) : Dev :=
  if d.pins.powered && d.pins.inReset then
    let ok := d.commitsEnded.imagesBoot images
    let d := (if ok then d.takeImages images else d).boot
    { d with pins := { d.pins with inReset := !ok } }
  else d

def execSysRstNRelease (images : List FwImage) (s : State) : Out := always s (doSysRstNRelease images)

/-- PWR_OK_DEASSERT. Log entry 80 (DEDUCED). -/
def doPwrOkDeassert (d : Dev) : Dev :=
  if d.pins.powered && d.pins.pwrOk then
    let d := if d.running then d.coldReset 0x03 else d
    { d with pins := { d.pins with pwrOk := false } }
  else d

def execPwrOkDeassert (s : State) : Out := always s doPwrOkDeassert

/-- PWR_OK_RISE: the straps are sampled. Log entry 80 (DEDUCED). -/
def doPwrOkRise (boot tide : Bool) (d : Dev) : Dev :=
  if d.pins.powered && !d.pins.pwrOk then
    { d with pins := { d.pins with pwrOk := true, strapBoot := boot, strapTide := tide } }
  else d

def execPwrOkRise (strapBoot strapTide : Bool) (s : State) : Out := always s (doPwrOkRise strapBoot strapTide)

/-- PERST_N_ASSERT: an FLR on both functions, with a PCIe link reset. -/
def doPerstNAssert (d : Dev) : Dev :=
  if d.bus.perst then d
  else
    let d := if d.running then d.funcReset.emit .pcieLinkReset else d
    { d with bus := { d.bus with perst := true, cfgReady := false } }

def execPerstNAssert (s : State) : Out := always s doPerstNAssert

/-- PERST_N_RELEASE: the PCIe link trains and configuration space becomes ready. -/
def doPerstNRelease (d : Dev) : Dev :=
  if d.bus.perst then { d with bus := { d.bus with perst := false, cfgReady := true } } else d

def execPerstNRelease (s : State) : Out := always s doPerstNRelease

/-! ## Crash dumps (R361) -/

/-- A crash dump of at most 256 KiB replaces the previous one. -/
def Dev.captureDump (d : Dev) (dump : List Byte) (cause : BitVec 7) : Dev :=
  { d with flt := { d.flt with dump := dump.take 262144, dumpCause := cause, dumpValid := true } }

def execNgataselWatchdog (dump : List Byte) (s : State) : Out :=
  act s fun d => (d.captureDump dump 5).coldReset 0x05

def execControlDieEccError (dump : List Byte) (s : State) : Out :=
  act s fun d => ((d.logEvent 0x0F 0xFF 0xFFFF 0 0).captureDump dump 6).coldReset 0x06

/-! ## BOOT_READY (R182, R355) -/

/-- The training state of a pseudo-channel by its failed lanes. Log entry 85 (DEDUCED). -/
def trainCode (lanes : Nat) : Nat := if lanes = 0 then 0 else if lanes ≤ 2 then 1 else if lanes = 3 then 2 else 3

/-- Training ends for pseudo-channel `pc` with a count of failed lanes; `lane` is the symbol of the unreplaced one of a
DEGRADED pseudo-channel. -/
def StackSt.trained (x : StackSt) (pc lanes lane : Nat) : StackSt :=
  let c := trainCode lanes
  { x with
    train := if x.train.toNat < c then BitVec.ofNat 2 c else x.train,
    spared := satAdd x.spared (min lanes 2), unspared := satAdd x.unspared (lanes - 2),
    degraded := if c = 2 then x.degraded + 1 else x.degraded,
    pcs := Tab.set 0 x.pcs pc (BitVec.ofNat 2 c),
    badLane := Tab.set 0 x.badLane pc (if c = 2 then lane + 1 else 0) }

/-- BOOT_READY: HBM and link training end and READY rises; a Scrapped device never sets it (R369). `lanes`
lists pseudo-channels 64·s + pc with their failed lanes, `trngFail` says how the TRNG's health tests ended. Log entries 82 (DEDUCED), 85 (DEDUCED). -/
def doBootReady (lanes : List (Nat × Nat)) (laneAt : List (Nat × Fin 36)) (trngFail : Bool) (d : Dev) : Dev :=
  if d.flt.ready then d
  else
    let d := lanes.foldl (fun (d : Dev) (x : Nat × Nat) =>
      let lane := match laneAt.find? fun y => y.1 == x.1 with | some y => y.2.val | none => 0
      if x.1 < 1024 then d.modStack (x.1 / 64) fun k => k.trained (x.1 % 64) x.2 lane else d) d
    let any (c : Nat) : Bool := lanes.any fun x => decide (x.1 < 1024) && trainCode x.2 == c
    let d := (d.raiseIf (any 2) .mem 5).raiseIf (any 3) .mem 6
    let d := ({ d with sec := { d.sec with trngFail := trngFail } } : Dev).makeRoot
    { d with
      flt := { d.flt with ready := d.lcs.st != .scrapped }, pwr := { d.pwr with stage1 := !d.pwr.ocp } }

/-- Log entry 21 (DESIGN CHOICE). -/
def execBootReady (failedLanes : List (Nat × Nat)) (s : State) (laneAt : List (Nat × Fin 36) := [])
    (trngFail : Bool := false) : Out :=
  act s (doBootReady failedLanes laneAt trngFail)

end Sys2Proof.Machine
end

