-- ==== Sys2Proof/Machine/Power.lean ====
section
/-! DEFINITION. The commands of power, supplies and die temperatures (chapter 17). -/

namespace Sys2Proof.Machine
open Sys2Proof

/-! ## Power modes (R379, R392) -/

/-- The pending change acts. A lower clock (a higher mode code) holds from now on while the voltages settle; a
higher one waits for them; the same one changes nothing and is done. Log entry 83 (DEDUCED). -/
def Dev.modeBegins (d : Dev) : Dev :=
  let t := d.pwr.target
  if t = d.pwr.cur then ({ d with pwr := { d.pwr with pending := false } } : Dev).raise .pwr 0
  else
    { d with pwr :=
      { d.pwr with
        pending := false, ramping := true, rampTo := t,
        cur := if d.pwr.cur.toNat < t.toNat then t else d.pwr.cur } }

/-- The schedule position has reached PWR_MODE_POS, or no plan is active. Log entry 83 (DEDUCED). -/
def Dev.modeDue (d : Dev) : Bool :=
  !d.planActive ||
    (d.tide.firstSeen && decide ((d.pwr.posHi ++ d.pwr.posLo).toNat ≤ d.tide.pos.toNat))

/-- PWR_MODE_REQ GO: a request replaces a pending one; MODE 3 is discarded. With no plan active it acts at
once, after a running ramp. Log entry 83 (DEDUCED). -/
def doModeRequest (m : BitVec 2) (d : Dev) : Dev :=
  if m = 3 then d
  else
    let d : Dev := { d with pwr := { d.pwr with target := m, pending := true } }
    if !d.planActive && !d.pwr.ramping then d.modeBegins else d

def execModeRequest (mode : BitVec 2) (s : State) : Out := act s (doModeRequest mode)

/-- PWR_MODE_REQ CANCEL. -/
def doModeCancel (d : Dev) : Dev := { d with pwr := { d.pwr with pending := false } }

def execModeCancel (s : State) : Out := act s doModeCancel

/-- MODE_CHANGE: at the mark, unless a previous change still ramps. Log entry 83 (DEDUCED). -/
def doModeChange (d : Dev) : Dev :=
  if d.pwr.pending && !d.pwr.ramping && d.modeDue then d.modeBegins else d

def execModeChange (s : State) : Out := act s doModeChange

/-- MODE_RAMP_DONE: the voltages have settled and the new clock holds. -/
def doModeRampDone (d : Dev) : Dev :=
  if d.pwr.ramping then
    ({ d with pwr := { d.pwr with ramping := false, cur := d.pwr.rampTo } } : Dev).raise .pwr 0
  else d

def execModeRampDone (s : State) : Out := act s doModeRampDone

/-! ## Telemetry (R381, R382) -/

/-- POWER_SAMPLE: the 1 ms averages, the supply voltages and the energy since power was applied.
Log entry 82 (DEDUCED). -/
def doPowerSample (w : BitVec 16) (parts : List (BitVec 16)) (mainMv auxMv : BitVec 16)
    (energyJ : BitVec 64) (d : Dev) : Dev :=
  let inRange (v : BitVec 16) (lo hi : Nat) : Bool := decide (lo ≤ v.toNat) && decide (v.toNat ≤ hi)
  let d : Dev := { d with pwr :=
    { d.pwr with
      inNow := w, inMax := if d.pwr.inMax.toNat < w.toNat then w else d.pwr.inMax, parts := parts.take 8,
      mainMv := mainMv, auxMv := auxMv, energy := energyJ, mainOk := inRange mainMv 11400 12600,
      auxOk := inRange auxMv 3135 3465 } }
  d.raiseIf (decide (d.pwr.limit.toNat < w.toNat)) .pwr 1

/-- Log entry 21 (DESIGN CHOICE). -/
def execPowerSample (inputW : BitVec 16) (parts : List (BitVec 16)) (mainMv auxMv : BitVec 16)
    (energyJ : BitVec 64) (s : State) : Out :=
  act s (doPowerSample inputW parts mainMv auxMv energyJ)

/-- EXT_FAULT: regulator r reports a fault; nothing else changes. -/
def doExtFault (r : Nat) (d : Dev) : Dev :=
  ({ d with pwr := { d.pwr with extFault := setBit d.pwr.extFault r } } : Dev).raise .pwr 4

def execExtFault (r : Fin 8) (s : State) : Out := act s (doExtFault r.val)

/-! ## Protection (R384, R389) -/

/-- VIN_MAIN_UNDERVOLT: while PWR_OK is high, as its deassertion; UNDERVOLT is readable after the reset. -/
def doVinMainUndervolt (d : Dev) : Dev :=
  if d.pins.pwrOk then (d.coldReset 0x03).raise .pwr 3 else d

def execVinMainUndervolt (s : State) : Out := act s doVinMainUndervolt

/-- POWER_REMOVAL. Log entry 81 (DEDUCED). -/
def execPowerRemoval (auxToo : Bool) (s : State) : Out := always s fun d => d.unpowered auxToo

/-- VIN_MAIN_APPLY: a latched THERM_TRIP_N releases; the device waits in reset. Log entry 81 (DEDUCED). -/
def doVinMainApply (d : Dev) : Dev :=
  if d.pins.powered then d
  else { d with pins := { d.pins with powered := true, thermTrip := false } }

/-- Log entry 81 (DEDUCED). -/
def execVinMainApply (s : State) : Out := always s doVinMainApply

/-- OVERCURRENT: stage 1 turns off and the device is failed until power is removed. -/
def doOvercurrent (d : Dev) : Dev :=
  let d : Dev := { d with pwr := { d.pwr with stage1 := false, ocp := true } }
  d.cliff.raise .pwr 2

def execOvercurrent (s : State) : Out := act s doOvercurrent

/-- STAGE2_FAULT: the device is failed. -/
def doStage2Fault (d : Dev) : Dev :=
  let d : Dev := { d with pwr := { d.pwr with stage2 := true } }
  d.cliff.raise .pwr 5

def execStage2Fault (s : State) : Out := act s doStage2Fault

/-! ## Die temperatures (R388, R389) -/

/-- Dies: CD0–CD3, IO0–IO3, the control die. -/
def dieKey : Die → Nat
  | .cd n => n.val | .io m => 4 + m.val | .ctrl => 8

/-- A die's WARN, CRITICAL and TRIP temperatures. Log entry 83 (DEDUCED). -/
def Dev.dieLimits (d : Dev) : Die → Nat × Option Nat × Nat
  | .cd _ => (d.thm.warnCd.toNat, some 110, 115)
  | .io _ => (d.thm.warnIo.toNat, some 90, 100)
  | .ctrl => (d.thm.warnCt.toNat, none, 110)

def Dev.die (d : Dev) (k : Nat) : DieSt := Tab.get DieSt.reset d.thm.dies k
def Dev.modDie (d : Dev) (k : Nat) (f : DieSt → DieSt) : Dev :=
  { d with thm := { d.thm with dies := Tab.mod DieSt.reset d.thm.dies k f } }

/-- DIE_TEMP_SAMPLE: WARN is left after 100 samples in a row at 5 °C or more below its threshold; CRITICAL
acts as the cliff and is left by a cold reset alone. Log entry 83 (DEDUCED). -/
def doDieTempSample (x : Die) (temp : Byte) (d : Dev) : Dev :=
  let k := dieKey x
  let t := temp.toNat
  let lim := d.dieLimits x
  let was := d.die k
  let below := if t + 5 ≤ lim.1 then was.below + 1 else 0
  let d := d.modDie k fun s =>
    { s with now := temp, max := if s.max.toNat < t then temp else s.max, below := if s.st = 1 then below else 0 }
  let d := if lim.2.2 ≤ t then d.trip else d
  if was.st = 2 then d
  else if lim.2.1.any (· ≤ t) then ((d.modDie k fun s => { s with st := 2, below := 0 }).cliff).raise .thm 2
  else if was.st = 0 && lim.1 ≤ t then (d.modDie k fun s => { s with st := 1, below := 0 }).raise .thm 0
  else if was.st = 1 && 100 ≤ below then (d.modDie k fun s => { s with st := 0, below := 0 }).raise .thm 1
  else d

def execDieTempSample (x : Die) (temp : BitVec 8) (s : State) : Out := act s (doDieTempSample x temp)

end Sys2Proof.Machine
end

