-- ==== Sys2Proof/Machine/TideCmds.lean ====
section
/-! DEFINITION. The commands of the tide (chapter 02). -/

namespace Sys2Proof.Machine
open Sys2Proof

/-- The role code of the active plan (R23). -/
def Dev.tideRole (d : Dev) : BitVec 2 :=
  match d.plan.active with
  | some p => p.tide.role
  | none => 0

/-! ## A source's marks (R25, R37) -/

/-- P of R37: the larger of the pending set-back and the merged request of the last mark. -/
def Dev.rootP (d : Dev) : Nat :=
  max d.tide.pendingSb.toNat (match d.tide.window with | some w => w.setback.toNat | none => 0)

/-- The mark record with count `c` that a source emits next under R37. -/
def Dev.nextMark (d : Dev) (c : BitVec 64) : MarkRec :=
  let p := d.rootP
  { count := c, shift := if p = 0 then d.tide.shift else d.tide.shift + 1,
    pending := BitVec.ofNat 8 (p - 1), holdover := d.tide.holdover, failover := false,
    epoch := d.tide.epoch, source := d.addr, hop := 0 }

/-- A source emits a mark: a new merge window opens, the record goes out on every forwarding link,
and the device takes the mark itself. -/
def Dev.emitMark (d : Dev) (r : MarkRec) (needs : List Need) : Dev :=
  let d : Dev := { d with tide := { d.tide with
    window := d.tide.nextWindow, nextWindow := none, cutoff := false } }
  (d.forwardMark r).takeMark r 0 needs

/-- The count of a source's next mark: one more than the last. The count of an internal root's very
first mark is a free value (the spec gives none; log entry 9, DESIGN CHOICE). -/
def Dev.nextCount (d : Dev) : BitVec 64 :=
  if d.tide.firstSeen then d.tide.count + 1 else d.freeVal

/-- The first mark of a secondary that took the source role (R40): count L + 3, the next epoch,
FAILOVER, SHIFT_TOTAL raised by 2, PENDING as last received. -/
def Dev.failoverMark (d : Dev) : MarkRec :=
  { count := d.tide.count + 3, shift := d.tide.shift + 2, pending := d.tide.pendingSb,
    holdover := d.tide.holdover, failover := true, epoch := d.tide.epoch + 1, source := d.addr,
    hop := 0 }

/-- ROOT_MARK_TIMER (R25, R37, R40): the mark timer of a source expires. A ROOT_EXTERNAL root runs
on its own timer only in holdover. After TIDE_SPLIT or TIDE_LOST no mark is emitted.
Log entry 9 (DESIGN CHOICE). -/
def doRootMarkTimer (needs : List Need) (d : Dev) : Dev :=
  if !d.tide.isSource || d.tide.split || d.tide.lost then d
  else if d.tideRole = 3 && 2 ≤ d.tide.missing then d.emitMark d.failoverMark needs
  else if d.tideRole = 2 && !d.tide.holdover then d
  else
    let c := d.nextCount
    (if d.tide.firstSeen then d else d.tick).emitMark (d.nextMark c) needs

def execRootMarkTimer (needs : List Need) (s : State) : Out := act s (doRootMarkTimer needs)

/-! ## TIDE_IN (R26, R27) -/

/-- The frame's CRC over its bytes 0–9 is good. -/
def frameGood (f : TideFrame) : Bool := f.crc == frameCrc f.count f.flags

/-- The root's role is ROOT_EXTERNAL and it still emits marks. -/
def Dev.cardRoot (d : Dev) : Bool :=
  d.tide.isSource && d.tideRole == 2 && !d.tide.split && !d.tide.lost

def Dev.setHoldover (d : Dev) (b : Bool) : Dev :=
  { d with tide := { d.tide with holdover := b } }

/-- No valid frame at the expected instant (R27): a single miss is bridged by the root's own timer
and counted; a second consecutive one enters holdover. Before the first frame since the plan took
effect there is no expected instant. -/
def doTideInFrameMissing (needs : List Need) (d : Dev) : Dev :=
  if !d.cardRoot || d.tide.cardFirst then d
  else if d.tide.holdover then d.emitMark (d.nextMark d.nextCount) needs
  else if d.tide.cardMissed = 0 then
    let d : Dev := { d with tide := { d.tide with
      cardMissed := 1, missCount := satInc d.tide.missCount } }
    d.emitMark (d.nextMark d.nextCount) needs
  else
    let d := (({ d with tide := { d.tide with cardMissed := d.tide.cardMissed + 1 } } : Dev)).setHoldover
      true
    d.emitMark (d.nextMark d.nextCount) needs

def execTideInFrameMissing (needs : List Need) (s : State) : Out :=
  act s (doTideInFrameMissing needs)

/-- TIDE_IN_FRAME (R27): the first frame, or one on time with the next count, is accepted at its own instant;
another count, on time or not, enters holdover and raises TIDE_IN_MISMATCH; holdover ends at a frame on time with
the root's next count. A frame with a bad CRC, or out of time with the next count, is a missing frame. -/
def doTideInFrame (f : TideFrame) (onTime : Bool) (needs : List Need) (d : Dev) : Dev :=
  if !d.cardRoot then d
  else if !frameGood f then doTideInFrameMissing needs d
  else if !d.tide.cardFirst && f.count != d.tide.count + 1 then
    let d := (d.setHoldover true).raise .tide 5
    d.emitMark (d.nextMark d.nextCount) needs
  else if !onTime && !d.tide.cardFirst then doTideInFrameMissing needs d
  else
    let d : Dev := { d with tide := { d.tide with
      cardFirst := false, cardMissed := 0, holdover := false } }
    d.emitMark (d.nextMark f.count) needs

def execTideInFrame (f : TideFrame) (onTime : Bool) (needs : List Need) (s : State) : Out :=
  act s (doTideInFrame f onTime needs)

/-! ## Mark records (R30, R33, R40, R41) -/

/-- A follower accepts a verified record from its parent or alternate parent (R41). -/
def Dev.acceptsMark (d : Dev) (l : Nat) (r : MarkRec) : Bool :=
  let own := d.tide.epoch.toNat
  let alt := d.tide.altValid && l == d.tide.alt.toNat
  (l == d.tide.parent.toNat && own ≤ r.epoch.toNat) ||
  (alt && (own < r.epoch.toNat || (own == r.epoch.toNat && 2 ≤ d.tide.missing)))

/-- The parent becomes the link of arrival: from the alternate parent the two swap; a source that turns follower may
take a record from a third link, which then becomes its parent beside the same alternate.
Log entry 101 (DESIGN CHOICE). -/
def Dev.takeParent (d : Dev) (l : Nat) : Dev :=
  if l = d.tide.parent.toNat then d
  else if d.tide.altValid && l == d.tide.alt.toNat then
    { d with tide := { d.tide with parent := d.tide.alt, alt := d.tide.parent } }
  else { d with tide := { d.tide with parent := BitVec.ofNat 6 l } }

/-- Accept a record: the link of arrival is the parent, FAILOVER rises for a higher epoch, the record is
forwarded with HOP + 1, and the device takes the mark. Log entries 28 (DEDUCED), 31 (DEDUCED). -/
def Dev.acceptMark (d : Dev) (l : Nat) (r : MarkRec) (needs : List Need) : Dev :=
  let higher := d.tide.firstSeen && decide (d.tide.epoch.toNat < r.epoch.toNat)
  let d := (d.takeParent l).raiseIf higher .tide 3
  let r' := { r with hop := r.hop + 1 }
  (d.forwardMark r').takeMark r (r.hop + 1) needs

/-- MARK_RECORD: a record arrives on a link. A follower verifies records of its parent and alternate
parent only, counts one that fails, and takes one that R41 accepts. A source that receives a
verified record of a higher epoch on any usable enabled link becomes a follower of that link (R41). A device that
raised TIDE_LOST goes on taking records; LOST stays until a first plan takes effect.
Log entries 29 (DEDUCED), 101 (DESIGN CHOICE), 102 (DESIGN CHOICE). -/
def doMarkRecord (l : Lnk) (r : MarkRec) (tagOk : Bool) (needs : List Need) (more : Bool) (d : Dev) : Dev :=
  let d := d.rxTide l.val more
  if d.tide.split || !d.linkUsable l.val || !d.linkEnabled l.val then d
  else if d.tide.isSource then
    if tagOk && decide (d.tide.epoch.toNat < r.epoch.toNat) then
      let d : Dev := { d with tide := { d.tide with
        isSource := false, following := true, holdover := false, window := none,
        nextWindow := none } }
      d.acceptMark l.val r needs
    else d
  else if !d.tide.following then d
  else if !(l.val == d.tide.parent.toNat || (d.tide.altValid && l.val == d.tide.alt.toNat)) then d
  else if !tagOk then
    ({ d with tide := { d.tide with authCount := satInc d.tide.authCount } } : Dev).raise .tide 2
  else if d.acceptsMark l.val r then d.acceptMark l.val r needs
  else d

/-- The record's tag is verified under the session key of its link. -/
def execMarkRecord (l : Lnk) (r : MarkRec) (tag : DWord) (needs : List Need) (s : State)
    (more : Bool := false) : Out :=
  act s fun d => doMarkRecord l r (d.recordOpens l.val (MarkRec.bytes r) tag) needs more d

/-! ## Return records (R31, R32, R39, R352) -/

/-- A return is late counted, and its request is kept for the next window (R32). -/
def Dev.lateReturn (d : Dev) : Dev :=
  ({ d with tide := { d.tide with retLateCount := satInc d.tide.retLateCount } } : Dev).raise .tide 4

/-- RETURN_RECORD (R31): the link becomes a child link. A source merges the record for its mark, or
after the cutoff for the next (R32), and measures the round trip (R39). A follower merges it into
the pending record of the same mark, or passes it on by itself when it answers an older mark, and
sends it on its parent link. A record that fails verification is dropped: it raises nothing and counts nowhere.
Log entry 103 (DESIGN CHOICE). -/
def doReturnRecord (l : Lnk) (r : RetRec) (tagOk : Bool) (rttNs : BitVec 20) (more : Bool) (d : Dev) : Dev :=
  let d := d.rxTide l.val more
  if !tagOk || !d.linkUsable l.val || !d.linkEnabled l.val || !(d.tide.isSource || d.tide.following) then d
  else
    let current := r.countLow == d.tide.count.setWidth 32
    let d := d.modLink l.val fun k =>
      { k with child := true, retSeen := k.retSeen || current,
               retFailed := k.retFailed || (current && r.failed && r.failedAddr == k.farAddr) }
    if d.tide.isSource then
      let d : Dev := { d with tide := { d.tide with
        rttNs := if d.tide.rttNs.toNat < rttNs.toNat then rttNs else d.tide.rttNs } }
      if current && !d.tide.cutoff then
        { d with tide := { d.tide with window := mergeInto d.tide.window (d.ownFailed r) } }
      else if d.tide.cutoff then
        ({ d with tide := { d.tide with nextWindow := mergeInto d.tide.nextWindow r } } : Dev).lateReturn
      else
        ({ d with tide := { d.tide with window := mergeInto d.tide.window r } } : Dev).lateReturn
    else if current then
      match d.tide.upward with
      | some u =>
        let m := d.ownFailed (mergeRet u r)
        ({ d with tide := { d.tide with upward := some m } } : Dev).sendTide d.tide.parent.toNat (.ret m)
      | none => d.sendTide d.tide.parent.toNat (.ret r)
    else d.sendTide d.tide.parent.toNat (.ret r)

/-- The record's tag is verified under the session key of its link. -/
def execReturnRecord (l : Lnk) (r : RetRec) (tag : DWord) (rttNs : BitVec 20) (s : State)
    (more : Bool := false) : Out :=
  act s fun d => doReturnRecord l r (d.recordOpens l.val (RetRec.bytes r) tag) rttNs more d

/-- MERGE_CUTOFF (R31, R32, R28): the root closes the window of its mark; with OUT_EN, TIDE_OUT
sends the K28.3 return frame. -/
def doMergeCutoff (d : Dev) : Dev :=
  if !d.tide.isSource then d
  else
    let d : Dev := { d with tide := { d.tide with cutoff := true } }
    match d.plan.active with
    | some p =>
      if p.tide.outEn then
        let low : Word := d.tide.count.setWidth 32
        let setback := match d.tide.window with | some x => x.setback | none => 0
        let late := match d.tide.window with | some x => x.late | none => false
        d.emit (.tideReturn low setback late
          (crc16 (leBytes 4 low.toNat ++ [setback, if late then 1 else 0])))
      else d
    | none => d

def execMergeCutoff (s : State) : Out := act s doMergeCutoff

/-! ## Missing marks (R40) -/

/-- TIDE_LOST (R40): the clearings halt. -/
def Dev.loseTide (d : Dev) : Dev :=
  (({ d with tide := { d.tide with lost := true } } : Dev).raise .tide 7).haltAll .aborted .clearingHalted

/-- MARK_MISSING: a device that has taken its first mark counts a missing one, at 1.25 periods after the last valid
mark and at each period after that; at the second a secondary takes the source role. At 4 periods (`fourPeriods`),
after the third, TIDE_LOST rises and the clearings halt. Log entry 29 (DEDUCED). -/
def doMarkMissing (fourPeriods : Bool) (d : Dev) : Dev :=
  if !d.tide.firstSeen || d.tide.lost || d.tide.split || !d.planActive ||
      (d.tide.isSource && !(d.tideRole == 3 && 2 ≤ d.tide.missing)) then d
  else if fourPeriods then (if 3 ≤ d.tide.missing then d.loseTide else d)
  else
    let n := d.tide.missing + 1
    let takes := d.tideRole == 3 && n == 2
    let d : Dev := { d with tide := { d.tide with
      missing := n, locked := false, missCount := satInc d.tide.missCount,
      isSource := d.tide.isSource || takes, following := d.tide.following && !takes } }
    d.raise .tide 1

def execMarkMissing (s : State) (fourPeriods : Bool := false) : Out := act s (doMarkMissing fourPeriods)

/-! ## The host's request (R43) -/

/-- TIDE_SETBACK_REQ: MARKS requested, or 0 to withdraw. -/
def doTideSetbackReq (marks : BitVec 8) (d : Dev) : Dev :=
  { d with tide := { d.tide with hostReq := marks, hostSent := false } }

def execTideSetbackReq (marks : BitVec 8) (s : State) : Out := act s (doTideSetbackReq marks)

end Sys2Proof.Machine
end

