-- ==== Sys2Proof/Machine/Registers.lean ====
section
/-! DEFINITION. What a read of each BAR0 register returns (R5, R277–R279 and the register tables of every
chapter). -/

namespace Sys2Proof.Machine
open Sys2Proof

/-! ## Building a register -/

/-- A register from fields, each at its lowest bit. -/
def regOf (fs : List (Nat × Nat)) : Word := BitVec.ofNat 32 ((fs.map fun f => f.2 * 2 ^ f.1).foldl (· + ·) 0)

/-- Bits [31:0] or [63:32]. -/
def loHalf (v : Nat) : Word := BitVec.ofNat 32 v
def hiHalf (v : Nat) : Word := BitVec.ofNat 32 (v / 2 ^ 32)

/-- Bytes 4i to 4i + 3 of a byte list, byte 4i in [7:0]; 0 past its end. -/
def byteWord (bs : List Byte) (i : Nat) : Word := BitVec.ofNat 32 (leVal ((bs.drop (4 * i)).take 4))

def hashWord (h : B256) (i : Nat) : Word := byteWord (strBytes h 32) i

/-- One bit for each index below `n` for which `p` holds. -/
def mask (n : Nat) (p : Nat → Bool) : Nat :=
  ((List.range n).map fun i => if p i then 2 ^ i else 0).foldl (· + ·) 0

/-- One bit of a list of links, the high or the low half. -/
def linkMask (hi : Bool) (p : Nat → Bool) : Word :=
  BitVec.ofNat 32 (mask 32 fun i => p (if hi then i + 32 else i))

/-! ## SURVEY (R279) -/

/-- An entry: TYPE, LEN, and the value padded to a multiple of 4 bytes. -/
def surveyEntry (ty : Nat) (v : List Byte) : List Byte :=
  leBytes 2 ty ++ leBytes 2 v.length ++ v ++ zeros ((4 - v.length % 4) % 4)

/-- The format masks of R78's engines, in its order, over the codes of R124: inputs and outputs.
Log entry 68 (DEDUCED). -/
def formatMasks : List Nat := [0x1FF, 0x400, 0x5FF, 0x3C0, 0x300, 0x5C0, 0x000, 0xBFF]

/-- The blocks of R277 by offset. -/
def blockOffsets : List Nat :=
  [0x0000000, 0x0100000, 0x0200000, 0x0300000, 0x0400000, 0x0800000, 0x0C00000, 0x1000000, 0x1400000, 0x1800000,
    0x1C00000, 0x2000000, 0x2400000, 0x2800000, 0x2C00000]

/-- Log entries 10 (DESIGN CHOICE), 68 (DEDUCED). -/
def Dev.survey (d : Dev) : List Byte :=
  let up (hi : Bool) : Word := linkMask hi fun l => (d.link l).st == .up
  let es :=
    surveyEntry 1 [d.orderingCode, 0, BitVec.ofNat 8 d.lcs.st.code] ++
    surveyEntry 2 ([4, 96, 96, 3072, 512, 16, 1536, 64, 4096, 16, 4096, 65536, 1048576, 256, 105].flatMap
      (leBytes 4)) ++
    surveyEntry 3 (formatMasks.flatMap (leBytes 2)) ++
    surveyEntry 4 ([8 * 2 ^ 20, 4 * 2 ^ 20, 64 * 2 ^ 20, 96 * 2 ^ 30, 2 ^ 30, 128, 32, 64, 32].flatMap (leBytes 8)) ++
    surveyEntry 5 (leBytes 4 d.addr.toNat ++ leBytes 4 (up false).toNat ++ leBytes 4 (up true).toNat ++
      strBytes d.lnk.lastTopo 32) ++
    surveyEntry 6 ([1050000, 900000, 700000, d.pwr.cur.toNat].flatMap (leBytes 4)) ++
    surveyEntry 7 (blockOffsets.zipIdx.flatMap fun b =>
      leBytes 4 b.1 ++ leBytes 2 (Config.blockVersion b.2).toNat) ++
    surveyEntry 0xFFFF []
  ascii "VXSV" ++ leBytes 2 1 ++ leBytes 2 (es.length + 8) ++ es

/-! ## TIDE -/

def Dev.readTide (d : Dev) (o : Nat) : Word :=
  let t := d.tide
  match o with
  | 0x000 => regOf [(0, d.tideRole.toNat), (2, b2n d.pins.strapTide),
      (3, match d.plan.active with | some p => b2n p.tide.outEn | none => 0), (8, t.parent.toNat),
      (16, t.alt.toNat), (22, b2n t.altValid)]
  | 0x004 => match d.plan.active with | some p => regOf [(0, p.tide.periodNs.toNat % 2 ^ 20)] | none => 0
  | 0x008 => regOf [(0, b2n t.locked), (1, b2n t.holdover), (2, b2n t.lost),
      (3, b2n d.anyLate), (8, t.pendingSb.toNat), (16, t.hop.toNat)]
  | 0x010 => loHalf t.count.toNat
  | 0x014 => d.bus.hiCount
  | 0x018 => loHalf t.pos.toNat
  | 0x01C => d.bus.hiPos
  | 0x020 => loHalf t.shift.toNat
  | 0x024 => d.bus.hiShift
  | 0x028 => t.epoch.setWidth 32
  | 0x02C => t.source.setWidth 32
  | 0x034 => regOf [(0, t.lastMarks.toNat), (8, t.lastReason.toNat)]
  | 0x038 => d.ev.tide.ev
  | 0x03C => d.ev.tide.en
  | 0x040 => t.lateCount
  | 0x044 => t.missCount
  | 0x048 => t.authCount
  | 0x04C => t.retLateCount
  | 0x050 => t.rttNs.setWidth 32
  | 0x054 => match d.plan.active with | some p => p.tide.div.setWidth 32 | none => 0
  | _ => 0

/-! ## PLAN -/

/-- PLAN_STATUS.STATE codes. -/
def PlanSt.code : PlanSt → Nat
  | .empty => 0 | .fetching => 1 | .checking => 2 | .armed => 3 | .active => 4 | .failed => 6

def Dev.readPlan (d : Dev) (o : Nat) : Word :=
  let p := d.plan
  match o with
  | 0x000 => p.srcLo
  | 0x004 => p.srcHi
  | 0x008 => p.len
  | 0x010 => regOf [(0, PlanSt.code p.st), (3, b2n d.benchActive), (4, b2n d.planActive)]
  | 0x014 => regOf [(0, p.reason.toNat), (8, p.section_.toNat), (16, p.entry.toNat)]
  | 0x018 => p.confA
  | 0x01C => p.confB
  | 0x020 => p.confRes
  | 0x024 => match p.active with | some a => a.header.serial | none => 0
  | 0x028 => match p.active with
    | some a => regOf [(0, a.report.toNat % 16), (4, b2n p.held), (16, a.report.toNat / 2 ^ 16)]
    | none => 0xFFFF0000
  | 0x02C => d.ev.plan.ev
  | 0x030 => d.ev.plan.en
  | 0x034 => if p.st = .armed then p.changed.setWidth 32 else 0
  | 0x038 => p.applyLo
  | 0x03C => p.applyHi
  | _ =>
    if 0x040 ≤ o && o < 0x060 then hashWord (hashOf p.active) ((o - 0x040) / 4)
    else if 0x060 ≤ o && o < 0x080 && p.st == .armed then hashWord (hashOf p.armed) ((o - 0x060) / 4)
    else 0

/-! ## CLR, FLT, RST -/

/-- Resets of a list within its window. -/
def Dev.within (d : Dev) (win : Nat) (ts : List Nat) (top : Nat) : Nat := min (recent d.timeUs win ts).length top

def Dev.readClr (d : Dev) (n o : Nat) : Word :=
  let c := d.clr n
  match o with
  | 0x00 => regOf [(0, ClrSt.code c.st), (4, c.roleGen.toNat), (16, (d.ownerOf n).toNat)]
  | 0x04 => regOf [(0, d.within d.esc.engWindowS c.engResets 255), (8, d.within d.esc.clrWindowS c.clrResets 255),
      (16, c.lastEngine.toNat)]
  | _ => 0

/-- The 32 bytes of a log entry (R360). -/
def LogEntry.bytes (e : LogEntry) : List Byte :=
  leBytes 8 e.time ++ [e.type, e.clearing] ++ leBytes 2 e.engine.toNat ++ [e.status, 0] ++
    leBytes 2 e.roleGen.toNat ++ leBytes 8 e.tide.toNat ++ leBytes 8 e.info.toNat

def Dev.readFlt (d : Dev) (o : Nat) : Word :=
  let f := d.flt
  match o with
  | 0x000 => regOf [(0, b2n d.retired), (1, b2n d.failed), (16, mask 16 fun n => (d.clr n).st == .fenced)]
  | 0x004 => d.ev.flt.ev
  | 0x008 => d.ev.flt.en
  | 0x00C => f.nbrFailed
  | 0x010 => f.staleReply
  | 0x014 => regOf [(0, f.logHead.toNat), (31, b2n f.wrapped)]
  | 0x018 => f.logSel.setWidth 32
  | 0x040 => regOf [(0, f.dump.length), (24, f.dumpCause.toNat), (31, b2n f.dumpValid)]
  | _ =>
    if 0x020 ≤ o && o < 0x040 then
      byteWord (Tab.get LogEntry.reset f.log f.logSel.toNat).bytes ((o - 0x020) / 4)
    else if 0x10000 ≤ o && o < 0x50000 then byteWord f.dump ((o - 0x10000) / 4)
    else 0

def Dev.readRst (d : Dev) (o : Nat) : Word :=
  match o with
  | 0x004 => regOf [(0, b2n d.flt.ready), (1, b2n !d.flt.rstFor.isEmpty), (2, d.flt.rstResult.toNat)]
  | 0x008 => d.flt.cause.setWidth 32
  | 0x00C => regOf [(0, d.within daySec d.flt.colds 15), (4, d.within daySec d.flt.fencings 15)]
  | _ => 0

/-! ## DBL, FNC, OBJ -/

/-- QCFG_STATUS.STATE codes. -/
def QSt.code : QSt → Nat
  | .disabled => 0 | .running => 1 | .stopped => 2 | .draining => 3

def Dev.readQueue (d : Dev) (q o : Nat) : Word :=
  let u := d.queue q
  match o with
  | 0x00 => u.ringLo
  | 0x04 => u.ringHi
  | 0x08 => u.cqLo
  | 0x0C => u.cqHi
  | 0x10 => regOf [(0, b2n u.enable), (1, u.log2.toNat), (6, u.prio.toNat),
      (8, b2n u.port), (9, u.vector.toNat), (20, b2n u.irqAll)]
  | 0x14 => regOf [(0, QSt.code u.st), (2, u.clearing.toNat), (6, b2n u.unbound), (7, b2n u.ringErr),
      (16, min u.outstanding 0xFFFF)]
  | 0x18 => u.head.setWidth 32
  | 0x1C => u.cqTail.setWidth 32
  | 0x20 => u.cqHead.setWidth 32
  | 0x24 => u.seq
  | _ => 0

def Dev.readDbl (d : Dev) (o : Nat) : Word :=
  if 0x100000 ≤ o && o < 0x140000 then d.readQueue ((o - 0x100000) / 64) (o % 64)
  else match o with
    | 0x200004 => regOf [(0, d.host.ctxNum.toNat), (31, b2n d.host.ctxBusy)]
    | 0x200008 => d.ev.dbl.ev
    | 0x20000C => d.ev.dbl.en
    | _ => 0

def Dev.readFnc (d : Dev) (f o : Nat) : Word :=
  let x := d.fence f
  match o with
  | 0x04 => regOf [(0, b2n x.alloc), (1, b2n x.sig), (2, x.status.toNat), (4, x.gen.toNat), (16, x.owner.toNat)]
  | 0x08 => regOf [(0, x.grant0.toNat), (16, x.grant1.toNat)]
  | 0x0C => regOf [(0, x.grant2.toNat), (16, x.grant3.toNat)]
  | _ => 0

/-- OBJ_INFO.STATE codes. -/
def ObjSt.code : ObjSt → Nat
  | .free => 0 | .live => 1 | .retiring => 2

def Dev.readObjReg (d : Dev) (o : Nat) : Word :=
  let h := d.host
  let x := d.obj h.objSel.toNat
  match o with
  | 0x004 => h.reqWhere
  | 0x008 => h.reqSizeLo
  | 0x00C => h.reqSizeHi
  | 0x010 => regOf [(0, b2n h.objBusy), (1, h.objRes.toNat)]
  | 0x014 => h.objHandle
  | 0x018 => loHalf h.objBase.toNat
  | 0x01C => hiHalf h.objBase.toNat
  | 0x020 => h.objSel.setWidth 32
  | 0x024 => regOf [(0, ObjSt.code x.st), (2, x.mode.toNat), (4, b2n x.sector), (5, x.clearing.toNat),
      (9, x.owner.toNat), (15, x.gen.toNat)]
  | 0x028 => regOf [(0, x.region.toNat), (16, x.ctx.toNat)]
  | 0x02C => regOf [(0, x.refs % 2 ^ 24)]
  | 0x030 => loHalf x.size
  | 0x034 => hiHalf x.size
  | 0x038 => loHalf x.base
  | 0x03C => hiHalf x.base
  | 0x040 => regOf [(0, (h.objs.filter fun y => y.2.st != .free).length)]
  | _ => 0

/-! ## MEM and MCX -/

def Dev.readStack (d : Dev) (s o : Nat) : Word :=
  let x := d.stack s
  match o with
  | 0x00 => regOf [(0, x.therm.toNat), (2, x.train.toNat)]
  | 0x04 => regOf [(0, x.tempNow.toNat), (8, x.tempMax.toNat)]
  | 0x08 => x.ce
  | 0x0C => x.ue
  | 0x10 => x.ueAddr
  | 0x14 => regOf [(0, x.spared.toNat), (8, x.unspared.toNat), (16, x.worstPc.toNat)]
  | 0x18 => x.derate
  | _ => 0

/-- Log entry 58 (DEDUCED). -/
def Dev.readMemClr (d : Dev) (n o : Nat) : Word :=
  let ways (i : Nat) : Nat := Tab.get 0 d.mem.ways (64 * n + i)
  let c := d.clr n
  match o with
  | 0x00 => regOf [(0, ways 0), (8, ways 1), (16, ways 2), (24, ways 3)]
  | 0x04 => c.memHit
  | 0x08 => c.memMiss
  | 0x0C => c.memFar
  | 0x10 => c.memNarrow
  | _ => 0

def Dev.readMem (d : Dev) (o : Nat) : Word :=
  match o with
  | 0x000 => 0x20406010
  | 0x004 => regOf [(0, mask 16 fun s => (d.stack s).therm != 0),
      (16, mask 16 fun s => (d.stack s).pcs.any fun x => x.2 == 1 || x.2 == 2)]
  | 0x008 => d.ev.mem.ev
  | 0x00C => d.ev.mem.en
  | 0x010 => d.mem.ceThresh.setWidth 32
  | _ =>
    if 0x1000 ≤ o && o < 0x1400 then d.readStack ((o - 0x1000) / 64) (o % 64)
    else if 0x2000 ≤ o && o < 0x2400 then d.readMemClr ((o - 0x2000) / 64) (o % 64)
    else 0

/-- MCX_POISON_UNITS: the units of frame `f` that are poisoned, one by one or as the subtree of a failed node
or of an open quarantine. Log entry 89 (DEDUCED). -/
def Dev.poisonUnits (d : Dev) (f : Nat) : Nat :=
  let spans := (d.frame f).quarantine ++ (d.frame f).tampered
  let alone (pa : Nat) : Bool := match d.findPa pa with
    | some (g, r, ra, _) => g == f && !spans.any fun s => s.1 == r && s.2.1 ≤ ra && ra ≤ s.2.2
    | none => false
  let single := (d.mem.meta_.filter fun u => u.2.cause != 0 && alone (u.1 * 32)).length
  let size (r : Nat) : Nat := match d.planRegion f r with | some rg => rg.unit | none => 64
  single + (spans.map fun s => (s.2.2 + 1 - s.2.1) / size s.1).foldl (· + ·) 0

/-- MCX_EPOCH: the epoch of the selected region; 0 for a SEALED_FULL region or none. -/
def Dev.selEpoch (d : Dev) : Nat :=
  let f := d.mem.epochSel.toNat % 32
  let r := d.mem.epochSel.toNat / 2 ^ 16 % 2048
  match d.planRegion f r with
  | some rg => if rg.mode = 0 then 0 else (d.epochOf f r).toNat
  | none => 0

def Dev.readFrame (d : Dev) (f o : Nat) : Word :=
  let x := d.frame f
  match o with
  | 0x00 => regOf [(0, b2n x.scrub), (1, b2n x.rekey), (2, b2n x.repair), (3, b2n x.contained),
      (4, b2n x.waitKeys), (5, b2n x.kg)]
  | 0x04 => x.tamper
  | 0x08 => x.ue
  | 0x0C => x.ilost
  | 0x10 => loHalf (d.poisonUnits f)
  | 0x14 => x.overrun
  | 0x18 => x.nodeMiss
  | 0x20 => x.errInfo
  | 0x24 => loHalf x.errLine.toNat
  | 0x28 => hiHalf x.errLine.toNat
  | 0x30 => loHalf x.sweepPos.toNat
  | 0x34 => hiHalf x.sweepPos.toNat
  | _ => 0

def Dev.readMcx (d : Dev) (o : Nat) : Word :=
  match o with
  | 0x000 => match d.plan.active with
    | some p => regOf [(0, p.device.tamperPolicy.toNat % 2)]
    | none => 0
  | 0x004 => regOf [(0, d.containedMask), (31, b2n d.mem.lockdown)]
  | 0x008 => d.ev.mcx.ev
  | 0x00C => d.ev.mcx.en
  | 0x014 => d.mem.epochSel
  | 0x018 => loHalf d.selEpoch
  | 0x01C => hiHalf d.selEpoch
  | _ => if 0x1000 ≤ o && o < 0x1440 then d.readFrame ((o - 0x1000) / 64) (o % 64) else 0

/-! ## SEC -/

/-- The body of a response. Log entries 10 (DESIGN CHOICE), 68 (DEDUCED). -/
def SecBody.bytes : SecBody → List Byte
  | .empty => []
  | .quote q sig => q.bytes ++ strBytes sig.1 32 ++ strBytes sig.2 32
  | .certs c => (Config.idChain (c == 1)).take 4080
  | .deniedRow r => [BitVec.ofNat 8 r]
  | .admission _ _ blob _ => blob
  | .bundle _ _ _ blob => blob

/-- The response window: CODE, LENGTH, the request's TAG, RESULT, and the body from byte 16.
Log entry 68 (DEDUCED). -/
def Dev.response (d : Dev) : List Byte :=
  match d.sec.rspValid, d.sec.rsp with
  | true, some j =>
    let body := j.body.bytes
    (leBytes 2 j.code.toNat ++ leBytes 2 (16 + body.length) ++ leBytes 4 d.sec.tag.toNat ++
      [BitVec.ofNat 8 (SecRes.code j.res)] ++ zeros 7 ++ body).take 4096
  | _, _ => []

/-- Log entry 68 (DEDUCED). -/
def Dev.readSec (d : Dev) (o : Nat) : Word :=
  let s := d.sec
  let n := s.slotSel.toNat
  let x := d.slot n
  let pos := match x.swapPos with | some v => v.toNat | none => 0
  match o with
  | 0x000 => regOf [(0, b2n s.job.isSome), (1, b2n s.rspValid), (2, b2n (d.slot 0).loaded),
      (3, b2n s.fw.staged.isSome), (4, b2n s.debugOpened), (5, b2n s.trngFail)]
  | 0x008 => regOf [(0, s.result.toNat), (8, s.code.toNat)]
  | 0x00C => d.ev.sec.ev
  | 0x010 => d.ev.sec.en
  | 0x014 => match s.member with | some m => m.setId | none => 0
  | 0x018 => match s.member with | some m => m.epoch.setWidth 32 | none => 0
  | 0x01C => regOf [(0, d.fwSvn.toNat), (8, d.fuseSvn.toNat), (16, d.stagedSvn.toNat)]
  | 0x020 => s.slotSel.setWidth 32
  | 0x024 => regOf [(0, x.attr.toNat), (2, x.owner.toNat), (8, b2n (decide (n < 16))), (9, b2n x.loaded),
      (10, b2n x.shadow.isSome), (11, b2n x.swapPos.isSome), (12, x.gen.toNat), (24, x.source.toNat)]
  | 0x028 => x.mask.setWidth 32
  | 0x02C => x.kcv.setWidth 32
  | 0x030 => loHalf pos
  | 0x034 => hiHalf pos
  | 0x038 => match s.member with | some m => m.addr.setWidth 32 | none => s.benchAddr.setWidth 32
  | 0x03C => d.addr.setWidth 32
  | _ => if 0x2000 ≤ o && o < 0x3000 then byteWord d.response ((o - 0x2000) / 4) else 0

/-! ## LNK -/

/-- LNK_STATE codes. -/
def LnkSt.code : LnkSt → Nat
  | .down => 0 | .optical => 1 | .keyx => 2 | .hello => 3 | .up => 4

def Admit.code : Admit → Nat
  | .none => 0 | .member => 1 | .bench => 2 | .foreign => 3

def Dev.readLink (d : Dev) (l o : Nat) : Word :=
  let k := d.link l
  match o with
  | 0x00 => regOf [(0, LnkSt.code k.st), (3, Admit.code k.adm), (5, k.spare.toNat), (9, k.failed.toNat),
      (18, b2n k.laserOk), (19, b2n (d.linkMatch l)), (20, k.roleGen.toNat)]
  | 0x04 => regOf [(0, k.farAddr.toNat), (20, k.farLink.toNat)]
  | 0x08 => match d.linkEntry l with
    | some e => regOf [(0, e.data.toNat), (8, e.strand.toNat), (16, e.tidectl.toNat), (24, e.cover.toNat)]
    | none => 0
  | 0x0C => match d.linkEntry l with
    | some e => regOf [(0, e.group.toNat % 64), (8, b2n e.enabled)]
    | none => 0
  | 0x10 => loHalf k.txSeq.toNat
  | 0x14 => hiHalf k.txSeq.toNat
  | 0x18 => k.retx
  | 0x1C => k.tagFail
  | 0x20 => k.downs
  | 0x24 => k.fec
  | 0x28 => k.rekeys
  | _ => 0

/-- Log entry 89 (DEDUCED). -/
def Dev.readLnk (d : Dev) (o : Nat) : Word :=
  match o with
  | 0x000 => 0x10001940
  | 0x004 => match d.plan.active with
    | some p => regOf [(0, p.linkMode.toNat % 2), (1, p.device.shaded.toNat % 2)]
    | none => 0
  | 0x008 => linkMask false fun l => (d.link l).st == .up
  | 0x00C => linkMask true fun l => (d.link l).st == .up
  | 0x010 => linkMask false d.linkUsable
  | 0x014 => linkMask true d.linkUsable
  | 0x018 => d.ev.lnk.ev
  | 0x01C => d.ev.lnk.en
  | 0x020 => d.lnk.stale
  | 0x024 => d.lnk.flowDeny
  | 0x060 => d.lnk.nbrSel.setWidth 32
  | _ =>
    if 0x040 ≤ o && o < 0x060 then hashWord d.lnk.lastTopo ((o - 0x040) / 4)
    else if 0x080 ≤ o && o < 0x0A0 then
      let k := d.link d.lnk.nbrSel.toNat
      if k.st = .up then hashWord k.farIdent ((o - 0x080) / 4) else 0
    else if 0x1000 ≤ o && o < 0x2000 then d.readLink ((o - 0x1000) / 64) (o % 64)
    else 0

/-! ## STL -/

/-- STL_STATUS.STATE codes. -/
def StlSt.code : StlSt → Nat
  | .idle => 0 | .stageA => 1 | .stageB => 2 | .rollback => 3 | .fill => 4 | .replay => 5 | .takeover => 6

/-- Peer `p`'s copy of the running save is COMPLETE. -/
def Dev.peerDone (d : Dev) (p : Nat) : Bool :=
  let c := Tab.get PeerCopy.reset d.stl.peers p
  c.complete && c.index == d.stl.index && d.stl.index != 0xFFFFFFFF

/-- The newest index held COMPLETE for peer `p`. -/
def Dev.peerIndex (d : Dev) (p : Nat) : Word :=
  let c := Tab.get PeerCopy.reset d.stl.peers p
  if c.complete then c.index else 0xFFFFFFFF

/-- Log entry 89 (DEDUCED). -/
def Dev.readStl (d : Dev) (o : Nat) : Word :=
  let s := d.stl
  let strand := d.plan.active.bind (·.strandline)
  match o with
  | 0x000 => match strand with
    | some x => regOf [(0, x.k.toNat % 4), (2, x.role.toNat % 2), (8, x.d.toNat)]
    | none => 0
  | 0x004 => regOf [(0, StlSt.code s.st), (3, b2n s.deep), (4, b2n s.fullNext), (8, mask 8 d.peerDone)]
  | 0x008 => s.index
  | 0x00C => s.committed
  | 0x010 => d.ev.stl.ev
  | 0x014 => d.ev.stl.en
  | 0x018 => loHalf s.costMs.toNat
  | 0x01C => loHalf s.mtbfS.toNat
  | 0x020 => s.tauRec
  | 0x024 => match s.intervalNew with | some n => n | none => s.interval
  | 0x028 => s.intPosLo
  | 0x02C => s.intPosHi
  | 0x034 => s.takeAddr
  | 0x038 => s.rbIndex
  | 0x03C => s.resPosLo
  | 0x040 => s.resPosHi
  | 0x044 => regOf [(0, s.result.toNat), (4, s.op.toNat), (8, s.resClr.toNat)]
  | 0x048 => s.verify.setWidth 32
  | 0x04C => loHalf s.deepNeed.toNat
  | 0x050 => hiHalf s.deepNeed.toNat
  | 0x054 => s.hostSrcLo
  | 0x058 => s.hostSrcHi
  | 0x05C => s.hostLenLo
  | 0x060 => s.hostLenHi
  | 0x064 => loHalf s.fillDone.toNat
  | 0x068 => hiHalf s.fillDone.toNat
  | 0x200 => match strand with | some x => regOf [(0, x.buddy0.toNat), (31, 1)] | none => 0
  | 0x204 => s.buddyIdx0
  | 0x210 => match strand with | some x => if x.k = 1 then 0 else regOf [(0, x.buddy1.toNat), (31, 1)] | none => 0
  | 0x214 => s.buddyIdx1
  | _ =>
    if 0x100 ≤ o && o < 0x180 then
      let p := (o - 0x100) / 16
      if o % 16 = 0 then match strand.bind fun x => x.peers[p]? with
        | some e => regOf [(0, e.addr.toNat), (30, b2n e.shadow), (31, 1)]
        | none => 0
      else if o % 16 = 4 then d.peerIndex p
      else 0
    else 0

/-! ## LCS and DBG -/

def Dev.readLcs (d : Dev) (o : Nat) : Word :=
  let x := d.lcs
  match o with
  | 0x000 => regOf [(0, x.st.code), (3, b2n x.returnPending), (4, b2n x.burning), (5, b2n x.invalidSeen),
      (6, b2n x.resumed)]
  | 0x008 => x.result.setWidth 32
  | 0x00C => regOf [(0, x.progDone.toNat), (8, x.progTotal.toNat), (16, x.progTarget.toNat), (20, x.progRec.toNat)]
  | 0x010 => x.code0
  | 0x014 => x.code1
  | 0x018 => x.code2
  | _ => 0

def Dev.readDbg (d : Dev) (o : Nat) : Word :=
  let x := d.dbg
  match o with
  | 0x000 => regOf [(0, b2n x.opened), (1, b2n d.challenge.isSome), (2, b2n d.dbgBusy), (8, x.scope.toNat),
      (16, x.result.toNat)]
  | 0x008 => match x.chal with
    | some c => regOf [(0, min ((d.timeUs - c.issued) / 1000000) 600)]
    | none => 0
  | _ =>
    if 0x1000 ≤ o && o < 0x10C0 then match x.chal with
      | some c => byteWord c.bytes ((o - 0x1000) / 4)
      | none => 0
    else 0

/-! ## PWR and THM -/

/-- Arithmetic clock in MHz by mode (R377). -/
def clockMhz (m : BitVec 2) : Nat := if m = 0 then 1050 else if m = 1 then 900 else 700

/-- Log entry 89 (DEDUCED). -/
def Dev.readPwr (d : Dev) (o : Nat) : Word :=
  let p := d.pwr
  match o with
  | 0x000 => regOf [(0, p.cur.toNat), (2, (if p.ramping && !p.pending then p.rampTo else p.target).toNat),
      (4, b2n p.pending), (5, b2n p.ramping), (16, clockMhz p.cur)]
  | 0x008 => p.posLo
  | 0x00C => p.posHi
  | 0x010 => regOf [(0, b2n p.mainOk), (1, b2n p.auxOk), (2, b2n p.stage1), (3, b2n p.ocp), (4, b2n p.stage2)]
  | 0x014 => d.ev.pwr.ev
  | 0x018 => d.ev.pwr.en
  | 0x01C => regOf [(0, p.inNow.toNat), (16, p.inMax.toNat)]
  | 0x020 => regOf [(0, p.mainMv.toNat), (16, p.auxMv.toNat)]
  | 0x024 => p.limit.setWidth 32
  | 0x028 => match p.shapeNew with
    | some x => regOf [(0, x.1.toNat), (16, x.2.toNat)]
    | none => regOf [(0, p.ramp.toNat), (16, p.stepNs.toNat)]
  | 0x050 => loHalf p.energy.toNat
  | 0x054 => d.bus.hiEnergy
  | 0x058 => regOf [(0, p.extCount.toNat), (8, p.extFault.toNat), (16, b2n p.avs)]
  | _ => if 0x030 ≤ o && o < 0x050 then ((p.parts[(o - 0x030) / 4]?).getD 0).setWidth 32 else 0

def Dev.readThm (d : Dev) (o : Nat) : Word :=
  let temp (k : Nat) : Word := regOf [(0, (d.die k).now.toNat), (8, (d.die k).max.toNat)]
  match o with
  | 0x000 => regOf ((List.range 9).map fun k => (2 * k, (d.die k).st.toNat))
  | 0x004 => d.ev.thm.ev
  | 0x008 => d.ev.thm.en
  | 0x00C => regOf [(0, d.ev.alertSrc.toNat), (31, b2n d.pins.alertN)]
  | 0x030 => temp 8
  | 0x034 => regOf [(0, d.thm.warnCd.toNat), (8, d.thm.warnIo.toNat), (16, d.thm.warnCt.toNat)]
  | _ =>
    if 0x010 ≤ o && o < 0x020 then temp ((o - 0x010) / 4)
    else if 0x020 ≤ o && o < 0x030 then temp (4 + (o - 0x020) / 4)
    else 0

/-! ## NUM -/

def Dev.readNumClr (d : Dev) (n o : Nat) : Word :=
  let x := (d.clr n).num
  match x.trap, o with
  | _, 0x00 => if x.trap.isSome then x.status ||| 0x10000 else x.status &&& 0xFFFEFFFF
  | _, 0x04 => x.replay
  | _, 0x08 => x.loss
  | _, 0x0C => x.convNan
  | _, 0x10 => x.nan
  | _, 0x14 => x.sat
  | some e, 0x20 => regOf [(0, 1), (1, e.source), (4, e.tile), (12, e.queue), (24, b2n e.stopped)]
  | some e, 0x24 => e.seq
  | some e, 0x28 => regOf [(0, e.sweep % 2 ^ 16)]
  | some e, 0x2C => loHalf e.row
  | some e, 0x30 => loHalf e.col
  | some e, 0x34 => loHalf e.k
  | some e, 0x38 => hiHalf e.k
  | _, 0x3C => loHalf x.trapPos.toNat
  | _, 0x40 => hiHalf x.trapPos.toNat
  | _, _ => 0

def Dev.readNum (d : Dev) (o : Nat) : Word :=
  if o < 0x1000 then d.readNumClr (o / 256) (o % 256)
  else if o = 0x1000 then BitVec.ofNat 32 (mask 16 fun n => (d.clr n).num.trap.isSome)
  else 0

/-! ## The BAR0 map (R277) -/

/-- The value that a read of the register at `off` returns. -/
def Dev.readReg (d : Dev) (off : Nat) : Word :=
  if off < 0x0001000 then byteWord d.survey (off / 4)
  else if 0x0100000 ≤ off && off < 0x0200000 then d.readTide (off - 0x0100000)
  else if 0x0200000 ≤ off && off < 0x0300000 then d.readPlan (off - 0x0200000)
  else if 0x0300000 ≤ off && off < 0x0400000 then d.readClr ((off - 0x0300000) / 65536) (off % 65536)
  else if 0x0400000 ≤ off && off < 0x0800000 then d.readDbl (off - 0x0400000)
  else if 0x0800000 ≤ off && off < 0x0A00000 then d.readFnc ((off - 0x0800000) / 32) (off % 32)
  else if 0x0C00000 ≤ off && off < 0x1000000 then d.readObjReg (off - 0x0C00000)
  else if 0x1000000 ≤ off && off < 0x1200000 then d.readMem (off - 0x1000000)
  else if 0x1200000 ≤ off && off < 0x1400000 then d.readMcx (off - 0x1200000)
  else if 0x1400000 ≤ off && off < 0x1800000 then d.readSec (off - 0x1400000)
  else if 0x1800000 ≤ off && off < 0x1C00000 then d.readLnk (off - 0x1800000)
  else if 0x1C00000 ≤ off && off < 0x2000000 then d.readStl (off - 0x1C00000)
  else if 0x2000000 ≤ off && off < 0x2200000 then d.readFlt (off - 0x2000000)
  else if 0x2200000 ≤ off && off < 0x2400000 then d.readRst (off - 0x2200000)
  else if 0x2400000 ≤ off && off < 0x2500000 then d.readLcs (off - 0x2400000)
  else if 0x2500000 ≤ off && off < 0x2800000 then d.readDbg (off - 0x2500000)
  else if 0x2800000 ≤ off && off < 0x2A00000 then d.readPwr (off - 0x2800000)
  else if 0x2A00000 ≤ off && off < 0x2C00000 then d.readThm (off - 0x2A00000)
  else if 0x2C00000 ≤ off && off < 0x3000000 then d.readNum (off - 0x2C00000)
  else 0

end Sys2Proof.Machine
end

