-- ==== Sys2Proof/Machine/HostRegs.lean ====
section
/-! DEFINITION. Host accesses of BAR0 (R5–R10) and the I3C target (R400). -/

namespace Sys2Proof.Machine
open Sys2Proof

/-! ## W1C bits and latched records (R5, R6) -/

/-- W1C bits under the mask `m`: those written 1 clear, and a bit that hardware sets in the same cycle
stays. -/
def w1c (m old data hw : Word) : Word := (old &&& ~~~(data &&& m)) ||| (hw &&& m)

/-- A record with VALID in bit 31 after VALID is written 1. -/
def w1cRecord (old data : Word) : Word := if data.getLsbD 31 then old &&& 0x7FFFFFFF else old

/-- An empty record takes what arrives in the cycle of the clear (R6). Log entry 91 (DEDUCED). -/
def latches (cur hw : Word) : Bool := hw.getLsbD 31 && !cur.getLsbD 31

/-- The event bits that a block defines. -/
def Blk.defined : Blk → Nat
  | .tide => 8 | .plan => 4 | .mem => 7 | .mcx => 8 | .sec => 6 | .lnk => 8 | .stl => 9 | .flt => 8
  | .pwr => 6 | .thm => 3 | .dbl => 8

def Blk.mask (b : Blk) : Word := BitVec.ofNat 32 (2 ^ b.defined - 1)

/-- A write of an EVENT register: the written ones clear, and an event of the same cycle is not lost. -/
def Dev.writeEvent (d : Dev) (b : Blk) (data hw : Word) : Dev :=
  let e := d.ev.get b
  let d : Dev := { d with ev := d.ev.set b { e with ev := e.ev &&& ~~~data } }
  ((bitsOf hw.toNat b.defined).foldl (fun (d : Dev) i => d.raise b i) d).updateAlert

def Dev.writeEventEn (d : Dev) (b : Blk) (data : Word) : Dev :=
  { d with ev := d.ev.set b { d.ev.get b with en := data &&& b.mask } }

/-- The EVENT register at an offset, or the EVENT_EN register (true). -/
def eventReg (off : Nat) : Option (Blk × Bool) :=
  let at_ (b : Blk) (base : Nat) : Option (Blk × Bool) :=
    if off = base then some (b, false) else if off = base + 4 then some (b, true) else none
  [at_ .tide 0x0100038, at_ .plan 0x020002C, at_ .dbl 0x0600008, at_ .mem 0x1000008, at_ .mcx 0x1200008,
    at_ .sec 0x140000C, at_ .lnk 0x1800018, at_ .stl 0x1C00010, at_ .flt 0x2000004, at_ .pwr 0x2800014,
    at_ .thm 0x2A00004].findSome? id

/-! ## Reads -/

def Dev.rcTide (d : Dev) (o : Nat) (hw : Word) : Dev :=
  let t := d.tide
  match o with
  | 0x040 => { d with tide := { t with lateCount := hw } }
  | 0x044 => { d with tide := { t with missCount := hw } }
  | 0x048 => { d with tide := { t with authCount := hw } }
  | 0x04C => { d with tide := { t with retLateCount := hw } }
  | 0x050 => { d with tide := { t with rttNs := hw.setWidth 20 } }
  | _ => d

def Dev.rcNum (d : Dev) (n o : Nat) (hw : Word) : Dev :=
  match o with
  | 0x04 => d.modNum n fun x => { x with replay := hw }
  | 0x08 => d.modNum n fun x => { x with loss := hw }
  | 0x0C => d.modNum n fun x => { x with convNan := hw }
  | 0x10 => d.modNum n fun x => { x with nan := hw }
  | 0x14 => d.modNum n fun x => { x with sat := hw }
  | _ => d

def Dev.rcStack (d : Dev) (s o : Nat) (hw : Word) : Dev :=
  match o with
  | 0x04 => d.modStack s fun x => { x with tempMax := hw.extractLsb' 8 8 }
  | 0x08 => d.modStack s fun x => { x with ce := hw }
  | 0x0C => d.modStack s fun x => { x with ue := hw }
  | 0x18 => d.modStack s fun x => { x with derate := hw }
  | _ => d

/-- Log entry 58 (DEDUCED). -/
def Dev.rcMemClr (d : Dev) (n o : Nat) (hw : Word) : Dev :=
  match o with
  | 0x04 => d.modClr n fun x => { x with memHit := hw }
  | 0x08 => d.modClr n fun x => { x with memMiss := hw }
  | 0x0C => d.modClr n fun x => { x with memFar := hw }
  | 0x10 => d.modClr n fun x => { x with memNarrow := hw }
  | _ => d

def Dev.rcFrame (d : Dev) (f o : Nat) (hw : Word) : Dev :=
  match o with
  | 0x04 => d.modFrame f fun x => { x with tamper := hw }
  | 0x08 => d.modFrame f fun x => { x with ue := hw }
  | 0x0C => d.modFrame f fun x => { x with ilost := hw }
  | 0x14 => d.modFrame f fun x => { x with overrun := hw }
  | 0x18 => d.modFrame f fun x => { x with nodeMiss := hw }
  | _ => d

def Dev.rcLink (d : Dev) (l o : Nat) (hw : Word) : Dev :=
  match o with
  | 0x18 => d.modLink l fun k => { k with retx := hw }
  | 0x1C => d.modLink l fun k => { k with tagFail := hw }
  | 0x20 => d.modLink l fun k => { k with downs := hw }
  | 0x24 => d.modLink l fun k => { k with fec := hw }
  | 0x28 => d.modLink l fun k => { k with rekeys := hw }
  | _ => d

def Dev.rcThm (d : Dev) (o : Nat) (hw : Word) : Dev :=
  let clear (k : Nat) : Dev := d.modDie k fun x => { x with max := hw.extractLsb' 8 8 }
  if o = 0x030 then clear 8
  else if 0x010 ≤ o && o < 0x020 then clear ((o - 0x010) / 4)
  else if 0x020 ≤ o && o < 0x030 then clear (4 + (o - 0x020) / 4)
  else d

/-- The RC field at `off` clears after its read; what hardware adds in the same cycle, `hw`, stays (R6). -/
def Dev.clearRc (d : Dev) (off : Nat) (hw : Word) : Dev :=
  if 0x0100000 ≤ off && off < 0x0200000 then d.rcTide (off - 0x0100000) hw
  else if 0x1001000 ≤ off && off < 0x1001400 then d.rcStack ((off - 0x1001000) / 64) (off % 64) hw
  else if 0x1002000 ≤ off && off < 0x1002400 then d.rcMemClr ((off - 0x1002000) / 64) (off % 64) hw
  else if 0x1201000 ≤ off && off < 0x1201440 then d.rcFrame ((off - 0x1201000) / 64) (off % 64) hw
  else if off = 0x1800020 then { d with lnk := { d.lnk with stale := hw } }
  else if off = 0x1800024 then { d with lnk := { d.lnk with flowDeny := hw } }
  else if 0x1801000 ≤ off && off < 0x1802000 then d.rcLink ((off - 0x1801000) / 64) (off % 64) hw
  else if off = 0x2000010 then { d with flt := { d.flt with staleReply := hw } }
  else if off = 0x280001C then { d with pwr := { d.pwr with inMax := hw.extractLsb' 16 16 } }
  else if 0x2A00000 ≤ off && off < 0x2C00000 then d.rcThm (off - 0x2A00000) hw
  else if 0x2C00000 ≤ off && off < 0x2C01000 then
    d.rcNum ((off - 0x2C00000) / 256) (off % 256) hw
  else d

/-- A read of a LO register latches its HI register from the same sample (R42, PWR_ENERGY).
Log entry 91 (DEDUCED). -/
def Dev.latchHi (d : Dev) (off : Nat) : Dev :=
  if off = 0x0100010 then { d with bus := { d.bus with hiCount := hiHalf d.tide.count.toNat } }
  else if off = 0x0100018 then { d with bus := { d.bus with hiPos := hiHalf d.tide.pos.toNat } }
  else if off = 0x0100020 then { d with bus := { d.bus with hiShift := hiHalf d.tide.shift.toNat } }
  else if off = 0x2800050 then { d with bus := { d.bus with hiEnergy := hiHalf d.pwr.energy.toNat } }
  else d

/-- A 32-bit read: its value, and the device after it. -/
def Dev.hostRead (d : Dev) (off : Nat) (hw : Word) : Word × Dev :=
  if off % 4 = 0 then (d.readReg off, (d.latchHi off).clearRc off hw) else (0, d)

def Dev.answer (d : Dev) (v : Word) : Dev := { d with bus := { d.bus with readData := v } }

/-- Log entry 19 (DESIGN CHOICE). -/
def doRegisterRead (off : Nat) (hw : Word) (d : Dev) : Dev :=
  let r := d.hostRead off hw
  r.2.answer r.1

/-- A 64-bit read is two 32-bit reads, the lower address first; its high word is the second's (R9). -/
def doRead64 (off : Nat) (hw hw' : Word) (d : Dev) : Dev :=
  let lo := d.hostRead off hw
  let hi := lo.2.hostRead (off + 4) hw'
  let d := hi.2.answer lo.1
  { d with bus := { d.bus with readHigh := hi.1 } }

/-- RC_REGISTER_READ. Log entry 91 (DEDUCED). -/
def execRcRegisterRead (off : BitVec 26) (hw : Word) (s : State) (high : Option Word := none) : Out :=
  act s (match high with | none => doRegisterRead off.toNat hw | some hw' => doRead64 off.toNat hw hw')

/-- The offset of a LO register. -/
def LoReg.off : LoReg → Nat
  | .tideCount => 0x0100010 | .tidePos => 0x0100018 | .tideShift => 0x0100020 | .pwrEnergy => 0x2800050

def doLoRegisterReadLatch (r : LoReg) (d : Dev) : Dev := (d.latchHi (LoReg.off r)).answer (d.readReg (LoReg.off r))

/-- LO_REGISTER_READ_LATCH. Log entry 91 (DEDUCED). -/
def execLoRegisterReadLatch (r : LoReg) (s : State) : Out := act s (doLoRegisterReadLatch r)

/-- BAR0_MISALIGNED_ACCESS (R9): a write is discarded and a read returns 0. Log entry 19 (DESIGN CHOICE). -/
def doBar0MisalignedAccess (write : Bool) (d : Dev) : Dev := if write then d else d.answer 0

def execBar0MisalignedAccess (_off : BitVec 26) (_bytes : Nat) (write : Bool) (s : State) : Out :=
  act s (doBar0MisalignedAccess write)

/-- BAR0_RESERVED_ACCESS (R10). Log entry 19 (DESIGN CHOICE). -/
def doBar0ReservedAccess (write : Bool) (d : Dev) : Dev := if write then d else d.answer 0

def execBar0ReservedAccess (_off : BitVec 26) (write : Bool) (s : State) : Out :=
  act s (doBar0ReservedAccess write)

/-! ## Writes, block by block -/

def Dev.writeTide (d : Dev) (o : Nat) (v : Word) : Dev :=
  if o = 0x030 then doTideSetbackReq (v.setWidth 8) d else d

/-- PLAN_SRC, PLAN_LEN and PLAN_APPLY_POS are written in EMPTY, ACTIVE and FAILED alone, and ABORT wins over
LOAD (R69). Log entry 94 (DEDUCED). -/
def Dev.writePlan (d : Dev) (o : Nat) (v : Word) : Dev :=
  let p := d.plan
  let free := p.st == .empty || p.st == .active || p.st == .failed
  match o with
  | 0x000 => if free then { d with plan := { p with srcLo := v &&& 0xFFFFFFC0 } } else d
  | 0x004 => if free then { d with plan := { p with srcHi := v } } else d
  | 0x008 => if free && v.toNat ≤ 16777216 then { d with plan := { p with len := v } } else d
  | 0x00C => if v.getLsbD 1 then doPlanAbort d else if v.getLsbD 0 then doPlanLoad d else d
  | 0x038 => if free then { d with plan := { p with applyLo := v } } else d
  | 0x03C => if free then { d with plan := { p with applyHi := v } } else d
  | _ => d

/-- A queue frame: the ring addresses are written while the queue is DISABLED (R281). -/
def Dev.writeQueue (d : Dev) (q o : Nat) (v : Word) : Dev :=
  let off := (d.queue q).st == .disabled
  match o with
  | 0x00 => if off then d.modQueue q fun u => { u with ringLo := v &&& 0xFFFFF000 } else d
  | 0x04 => if off then d.modQueue q fun u => { u with ringHi := v } else d
  | 0x08 => if off then d.modQueue q fun u => { u with cqLo := v &&& 0xFFFFF000 } else d
  | 0x0C => if off then d.modQueue q fun u => { u with cqHi := v } else d
  | 0x10 => d.writeQueueCtrl q v
  | 0x20 => doQcfgCqHead q v d
  | _ => d

def Dev.writeDbl (d : Dev) (o : Nat) (v : Word) : Dev :=
  if o < 0x4000 then doDblTail (o / 4) v d
  else if 0x100000 ≤ o && o < 0x140000 then d.writeQueue ((o - 0x100000) / 64) (o % 64) v
  else if o = 0x200000 && v.getLsbD 31 then doCtxDestroy (v.setWidth 16) d
  else d

def Dev.writeFnc (d : Dev) (f o : Nat) (v : Word) : Dev :=
  let op := (v.extractLsb' 16 2).toNat
  match o with
  | 0x00 =>
    if op = 1 then doFenceInit f (v.setWidth 16) d
    else if op = 2 then doFenceReset f d
    else if op = 3 then doFenceFree f d
    else d
  | 0x08 => d.modFence f fun x => { x with grant0 := v.setWidth 16, grant1 := v.extractLsb' 16 16 }
  | 0x0C => d.modFence f fun x => { x with grant2 := v.setWidth 16, grant3 := v.extractLsb' 16 16 }
  | 0x10 => if v.getLsbD 0 then doFncSignal f (v.extractLsb' 1 2) d else d
  | _ => d

def Dev.writeObjReg (d : Dev) (o : Nat) (v : Word) : Dev :=
  let h := d.host
  match o with
  | 0x000 => if v.getLsbD 0 then doObjCreate d else d
  | 0x004 => { d with host := { h with reqWhere := v &&& 0xFFFF7FFF } }
  | 0x008 => { d with host := { h with reqSizeLo := v } }
  | 0x00C => { d with host := { h with reqSizeHi := v } }
  | 0x020 => { d with host := { h with objSel := v.setWidth 20 } }
  | _ => d

def Dev.writeMem (d : Dev) (o : Nat) (v hw : Word) : Dev :=
  if o = 0x010 then { d with mem := { d.mem with ceThresh := v.setWidth 16 } }
  else if 0x1000 ≤ o && o < 0x1400 && o % 64 = 0x10 then
    d.modStack ((o - 0x1000) / 64) fun x =>
      let cur := w1cRecord x.ueAddr v
      { x with ueAddr := if latches cur hw then hw else cur }
  else d

/-- MCX_EPOCH_SEL names frames 0–16; another frame is a reserved encoding (R8). Log entry 93 (DEDUCED). -/
def epochSelOf (old v : Word) : Word :=
  (if (v.extractLsb' 0 5).toNat ≤ 16 then v &&& 0x1F else old &&& 0x1F) ||| (v &&& 0x07FF0000)

/-- Log entry 93 (DEDUCED). -/
def Dev.writeMcx (d : Dev) (o : Nat) (v hw : Word) (line : BitVec 35) : Dev :=
  if o = 0x010 then doMcxEpochRenew (v.extractLsb' 0 5).toNat (v.extractLsb' 16 11).toNat d
  else if o = 0x014 then { d with mem := { d.mem with epochSel := epochSelOf d.mem.epochSel v } }
  else if 0x1000 ≤ o && o < 0x1440 && o % 64 = 0x20 then
    d.modFrame ((o - 0x1000) / 64) fun x =>
      let cur := w1cRecord x.errInfo v
      if latches cur hw then { x with errInfo := hw &&& 0x80FFFFFF, errLine := line } else { x with errInfo := cur }
  else d

/-- The bytes of a window of words. Log entry 67 (DEDUCED). -/
def windowBytes (t : Tab Word) (n : Nat) : List Byte := (List.range n).flatMap fun i => leBytes 4 (Tab.get 0 t i).toNat

/-- A byte string of 32 bytes, its first byte highest (R4). -/
def b256Of (bs : List Byte) : B256 := BitVec.ofNat 256 (leVal bs.reverse)

/-- SEC_DOORBELL GO: the request in SEC_REQ. The bodies that the core opens or fetches have commands of their
own; an unknown code or a wrong LENGTH is MALFORMED. Log entry 67 (DEDUCED). -/
def doDoorbell (d : Dev) : Dev :=
  let w := Tab.get 0 d.sec.req 0
  let code : BitVec 16 := w.setWidth 16
  let len := (w.extractLsb' 16 16).toNat
  let bad (d : Dev) : Dev := d.serve code fun d => d.refuse .malformed
  if d.sec.job.isSome then d.raise .sec 1
  else if [0x0010, 0x0011, 0x0012, 0x0013, 0x0020, 0x0021, 0x0022, 0x0023, 0x0024, 0x0025, 0x0030].contains
      code.toNat then d
  else if code = 0x0001 then
    if len = 40 then doGetQuote (b256Of ((windowBytes d.sec.req 10).drop 8)) d else bad d
  else if len ≠ 8 then bad d
  else if code = 0x0002 then doGetCerts d
  else if code = 0x0014 then doSetRetire d
  else if code = 0x0031 then doFwActivate d
  else if code = 0x0032 then doFwCommit d
  else bad d

/-- Log entry 67 (DEDUCED). -/
def Dev.writeSec (d : Dev) (o : Nat) (v : Word) : Dev :=
  if o = 0x004 then if v.getLsbD 0 then doDoorbell d else d
  else if o = 0x020 then { d with sec := { d.sec with slotSel := v.setWidth 8 } }
  else if 0x1000 ≤ o && o < 0x2000 then
    { d with sec := { d.sec with req := Tab.set 0 d.sec.req ((o - 0x1000) / 4) v } }
  else d

def Dev.writeLnk (d : Dev) (o : Nat) (v : Word) : Dev :=
  if o = 0x028 then if v.getLsbD 31 then doLnkRetrain (v.extractLsb' 0 6).toNat d else d
  else if o = 0x060 then { d with lnk := { d.lnk with nbrSel := v.setWidth 6 } }
  else d

/-- STL_MTBF_S enters STL_TAU_REC at once. -/
def Dev.writeStl (d : Dev) (o : Nat) (v : Word) : Dev :=
  let s := d.stl
  match o with
  | 0x01C => ({ d with stl := { s with mtbfS := v.toNat } } : Dev).updateTau
  | 0x024 => if v = 0 then d else { d with stl := { s with intervalNew := some v } }
  | 0x028 => { d with stl := { s with intPosLo := v } }
  | 0x02C => { d with stl := { s with intPosHi := v } }
  | 0x030 =>
    let op := (v.extractLsb' 0 3).toNat
    if op = 1 then doRollback d else if op = 2 then doTakeover d else if op = 3 then doResume d
    else if op = 4 then doRestoreDeep d else d
  | 0x034 => { d with stl := { s with takeAddr := v &&& 0xFFFFF } }
  | 0x038 => { d with stl := { s with rbIndex := v } }
  | 0x03C => { d with stl := { s with resPosLo := v } }
  | 0x040 => { d with stl := { s with resPosHi := v } }
  | 0x054 => { d with stl := { s with hostSrcLo := v } }
  | 0x058 => { d with stl := { s with hostSrcHi := v } }
  | 0x05C => { d with stl := { s with hostLenLo := v } }
  | 0x060 => { d with stl := { s with hostLenHi := v } }
  | _ => d

def Dev.writeFlt (d : Dev) (o : Nat) (v hw : Word) : Dev :=
  if o = 0x00C then 
    let cur := w1cRecord d.flt.nbrFailed v
    { d with flt := { d.flt with nbrFailed := if latches cur hw then hw &&& 0x800FFFFF else cur } }
  else if o = 0x018 then { d with flt := { d.flt with logSel := v.setWidth 10 } }
  else d

def Dev.writeRst (d : Dev) (o : Nat) (v : Word) : Dev :=
  let op := (v.extractLsb' 0 2).toNat
  if o ≠ 0x000 then d
  else if op = 1 then doRstEngine (v.extractLsb' 4 16).toNat d
  else if op = 2 then doRstClearing (v.extractLsb' 20 4).toNat d
  else if op = 3 then d.coldReset 0x04
  else d

/-- The response that DBG_RESP holds (R373), its key and signature checked. Log entry 97 (DESIGN CHOICE). -/
def Dev.debugResp (d : Dev) : DbgResp :=
  let bs := windowBytes d.dbg.resp 64
  let part (i n : Nat) : List Byte := (bs.drop i).take n
  { wellLaid := part 0 4 == ascii "VXDR" && part 4 2 == leBytes 2 1 && (part 6 2 ++ part 9 7 ++ part 88 40).all (· == 0),
    scope := (part 8 1).headD 0, nonce := b256Of (part 16 32), identity := b256Of (part 48 32),
    bootId := BitVec.ofNat 64 (leVal (part 80 8)), keyOk := Config.sm3 (part 128 64) == Config.debugAuthority,
    sigOk := Config.sm2Verify (part 128 64) (Config.sm3 (part 0 192)) (part 192 64) }

def Dev.writeDbg (d : Dev) (o : Nat) (v : Word) : Dev :=
  let op := (v.extractLsb' 0 2).toNat
  if o = 0x004 then
    if op = 1 then doDbgChallenge (v.extractLsb' 8 8) d
    else if op = 2 then doDbgOpen d.debugResp d
    else if op = 3 then doDbgReturn d.debugResp d
    else d
  else if 0x2000 ≤ o && o < 0x2100 then
    { d with dbg := { d.dbg with resp := Tab.set 0 d.dbg.resp ((o - 0x2000) / 4) v } }
  else d

/-- PWR_SHAPE: RAMP 8–80 and STEP_NS 0–125, each on its own (R8). Log entry 93 (DEDUCED). -/
def shapeOf (cur : Byte × BitVec 7) (v : Word) : Byte × BitVec 7 :=
  let r : Byte := v.setWidth 8
  let s : BitVec 7 := v.extractLsb' 16 7
  (if 8 ≤ r.toNat && r.toNat ≤ 80 then r else cur.1, if s.toNat ≤ 125 then s else cur.2)

/-- PWR_MODE_REQ: a CANCEL of the same write acts before its GO. Log entry 93 (DEDUCED). -/
def Dev.writePwr (d : Dev) (o : Nat) (v : Word) : Dev :=
  let p := d.pwr
  match o with
  | 0x004 =>
    let d := if v.getLsbD 30 then doModeCancel d else d
    if v.getLsbD 31 then doModeRequest (v.setWidth 2) d else d
  | 0x008 => { d with pwr := { p with posLo := v } }
  | 0x00C => { d with pwr := { p with posHi := v } }
  | 0x024 => { d with pwr := { p with limit := v.setWidth 16 } }
  | 0x028 => { d with pwr := { p with shapeNew := some (shapeOf (p.shapeNew.getD (p.ramp, p.stepNs)) v) } }
  | _ => d

/-- THM_WARN: each threshold within its range (R8). Log entry 93 (DEDUCED). -/
def Dev.writeThm (d : Dev) (o : Nat) (v : Word) : Dev :=
  let pick (lo hi i : Nat) (cur : Byte) : Byte :=
    let b : Byte := v.extractLsb' i 8
    if lo ≤ b.toNat && b.toNat ≤ hi then b else cur
  let t := d.thm
  if o = 0x034 then
    { d with thm :=
      { t with
        warnCd := pick 70 100 0 t.warnCd, warnIo := pick 60 80 8 t.warnIo, warnCt := pick 70 95 16 t.warnCt } }
  else d

/-- NUM_STATUS bits 0–4, 8 and 10–12 are W1C; NUM_TRAP_RELEASE empties the record at the next mark. -/
def Dev.writeNum (d : Dev) (n o : Nat) (v hw : Word) : Dev :=
  if o = 0x00 then d.modNum n fun x => { x with status := w1c 0x1D1F x.status v hw }
  else if o = 0x44 && v.getLsbD 0 then d.modNum n fun x => { x with release := true }
  else d

/-- A write of the register at `off`. Log entry 89 (DEDUCED). -/
def Dev.writeReg (d : Dev) (off : Nat) (v hw : Word) (line : BitVec 35) : Dev :=
  if 0x0100000 ≤ off && off < 0x0200000 then d.writeTide (off - 0x0100000) v
  else if 0x0200000 ≤ off && off < 0x0300000 then d.writePlan (off - 0x0200000) v
  else if 0x0400000 ≤ off && off < 0x0800000 then d.writeDbl (off - 0x0400000) v
  else if 0x0800000 ≤ off && off < 0x0A00000 then d.writeFnc ((off - 0x0800000) / 32) (off % 32) v
  else if 0x0C00000 ≤ off && off < 0x1000000 then d.writeObjReg (off - 0x0C00000) v
  else if 0x1000000 ≤ off && off < 0x1200000 then d.writeMem (off - 0x1000000) v hw
  else if 0x1200000 ≤ off && off < 0x1400000 then d.writeMcx (off - 0x1200000) v hw line
  else if 0x1400000 ≤ off && off < 0x1800000 then d.writeSec (off - 0x1400000) v
  else if 0x1800000 ≤ off && off < 0x1C00000 then d.writeLnk (off - 0x1800000) v
  else if 0x1C00000 ≤ off && off < 0x2000000 then d.writeStl (off - 0x1C00000) v
  else if 0x2000000 ≤ off && off < 0x2200000 then d.writeFlt (off - 0x2000000) v hw
  else if 0x2200000 ≤ off && off < 0x2400000 then d.writeRst (off - 0x2200000) v
  else if off = 0x2400004 then doLcsAdvance v d
  else if 0x2500000 ≤ off && off < 0x2800000 then d.writeDbg (off - 0x2500000) v
  else if 0x2800000 ≤ off && off < 0x2A00000 then d.writePwr (off - 0x2800000) v
  else if 0x2A00000 ≤ off && off < 0x2C00000 then d.writeThm (off - 0x2A00000) v
  else if 0x2C00000 ≤ off && off < 0x2C01000 then d.writeNum ((off - 0x2C00000) / 256) (off % 256) v hw
  else d

/-- A write at any offset. Registers whose write has a command of its own act as that command; RO registers
and reserved offsets discard the write. Log entries 19 (DESIGN CHOICE), 89 (DEDUCED). -/
def doRegisterWrite (off : Nat) (v hw : Word) (line : BitVec 35) (d : Dev) : Dev :=
  if off % 4 ≠ 0 then d
  else match eventReg off with
    | some (b, false) => d.writeEvent b v hw
    | some (b, true) => d.writeEventEn b v
    | none => d.writeReg off v hw line

/-- REGISTER_WRITE. A 64-bit write is two 32-bit writes, the lower address first (R9). -/
def execRegisterWrite (off : BitVec 26) (data hw : Word) (s : State) (line : BitVec 35 := 0)
    (high : Option (Word × Word) := none) :
    Out :=
  act s fun d =>
    let d := doRegisterWrite off.toNat data hw line d
    match high with
    | none => d
    | some h => doRegisterWrite (off.toNat + 4) h.1 h.2 line d

/-! ## The I3C target (R400) -/

/-- I3C_PRIVATE_WRITE: three bytes, the low one first, set the offset; register data is discarded.
Log entry 92 (PRESUMED). -/
def doI3cPrivateWrite (bs : List Byte) (d : Dev) : Dev :=
  if 3 ≤ bs.length then
    { d with pins := { d.pins with i3cOff := BitVec.ofNat 24 (leVal (bs.take 3)) } }
  else d

def execI3cPrivateWrite (bytes : List Byte) (s : State) : Out := act s (doI3cPrivateWrite bytes)

/-- `n` words from `off`: those of the PWR and THM blocks, 0 elsewhere. Log entry 92 (PRESUMED). -/
def Dev.i3cWords (off : Nat) : Nat → Dev → List Word × Dev
  | 0, d => ([], d)
  | n + 1, d =>
    let r := if 0x2800000 ≤ off && off < 0x2C00000 then d.hostRead off 0 else (0, d)
    let rest := Dev.i3cWords (off + 4) n r.2
    (r.1 :: rest.1, rest.2)

/-- I3C_PRIVATE_READ: `words` words from the offset of the private write. Log entry 92 (PRESUMED). -/
def doI3cPrivateRead (words : Nat) (d : Dev) : Dev :=
  let r := Dev.i3cWords (0x2800000 + d.pins.i3cOff.toNat) words d
  r.2.emit (.i3cData r.1)

def execI3cPrivateRead (words : Nat) (s : State) : Out := act s (doI3cPrivateRead words)

/-- A dynamic address is assigned to a target that has none. Log entry 30 (PRESUMED). -/
def Dev.assignAddr (a : BitVec 7) (d : Dev) : Dev :=
  if d.pins.i3cAddr.isNone then { d with pins := { d.pins with i3cAddr := some a } } else d

/-- SETDASA: from the static address 0x5C. Log entry 30 (PRESUMED). -/
def execSetdasa (addr : BitVec 7) (s : State) : Out := act s (Dev.assignAddr addr)

/-- ENTDAA: by arbitration on the provisional ID. Log entry 30 (PRESUMED). -/
def execEntdaa (addr : BitVec 7) (s : State) : Out := act s (Dev.assignAddr addr)

end Sys2Proof.Machine
end

