-- ==== Sys2Proof/Machine/Dispatch.lean ====
section
/-! DEFINITION. The meaning of every command: one arm per constructor of `Instr`. -/

namespace Sys2Proof.Machine
open Sys2Proof

def exec (i : Instr) (s : State) : Host.Outcome State Fault Refusal :=
  match i with
  | .registerWrite off data hw line high => Sys2Proof.Machine.execRegisterWrite off data hw s line high
  | .rcRegisterRead off hw high => Sys2Proof.Machine.execRcRegisterRead off hw s high
  | .loRegisterReadLatch reg => Sys2Proof.Machine.execLoRegisterReadLatch reg s
  | .bar0MisalignedAccess off bytes write => Sys2Proof.Machine.execBar0MisalignedAccess off bytes write s
  | .bar0ReservedAccess off write => Sys2Proof.Machine.execBar0ReservedAccess off write s
  | .rootMarkTimer needs => Sys2Proof.Machine.execRootMarkTimer needs s
  | .tideInFrame f onTime needs => Sys2Proof.Machine.execTideInFrame f onTime needs s
  | .tideInFrameMissing needs => Sys2Proof.Machine.execTideInFrameMissing needs s
  | .markRecord link r tagOk needs more => Sys2Proof.Machine.execMarkRecord link r tagOk needs s more
  | .returnRecord link r tagOk rttNs more => Sys2Proof.Machine.execReturnRecord link r tagOk rttNs s more
  | .mergeCutoff => Sys2Proof.Machine.execMergeCutoff s
  | .markMissing b => Sys2Proof.Machine.execMarkMissing s b
  | .tideSetbackReq marks => Sys2Proof.Machine.execTideSetbackReq marks s
  | .planLoad => Sys2Proof.Machine.execPlanLoad s
  | .planAbort => Sys2Proof.Machine.execPlanAbort s
  | .planCheck raw x => Sys2Proof.Machine.execPlanCheck raw x s
  | .planApply => Sys2Proof.Machine.execPlanApply s
  | .granuleOverwriteDone g => Sys2Proof.Machine.execGranuleOverwriteDone g s
  | .numTrapRelease n => Sys2Proof.Machine.execNumTrapRelease n s
  | .copyConvert q seq header payload => Sys2Proof.Machine.execCopyConvert q seq header payload s
  | .sweepProgram q seq => Sys2Proof.Machine.execSweepProgram q seq s
  | .sweep t => Sys2Proof.Machine.execSweep t s
  | .accAdd t => Sys2Proof.Machine.execAccAdd t s
  | .load t idx => Sys2Proof.Machine.execLoad t idx s
  | .store t idx => Sys2Proof.Machine.execStore t idx s
  | .sweepCommit t => Sys2Proof.Machine.execSweepCommit t s
  | .epilogueDone t => Sys2Proof.Machine.execEpilogueDone t s
  | .moverTransferDone t idx => Sys2Proof.Machine.execMoverTransferDone t idx s
  | .launch q seq ps => Sys2Proof.Machine.execLaunch q seq ps s
  | .launchStart q seq => Sys2Proof.Machine.execLaunchStart q seq s
  | .launchComplete q seq => Sys2Proof.Machine.execLaunchComplete q seq s
  | .threadIntOp c op w signed rd ra rb rc reserved => Sys2Proof.Machine.execThreadIntOp c op w signed rd ra rb rc s reserved
  | .threadFloatOp c op rd ra rb rc reserved => Sys2Proof.Machine.execThreadFloatOp c op rd ra rb rc s reserved
  | .threadVectorOp c op vd va vb vc imm reserved => Sys2Proof.Machine.execThreadVectorOp c op vd va vb vc imm s reserved
  | .threadBranch c k ra link target reserved => Sys2Proof.Machine.execThreadBranch c k ra link target s reserved
  | .exit c reserved => Sys2Proof.Machine.execExit c s reserved
  | .ld c rd w slot off reserved => Sys2Proof.Machine.execLd c rd w slot off s reserved
  | .st c rs w slot off reserved => Sys2Proof.Machine.execSt c rs w slot off s reserved
  | .ldn c vd slot off reserved => Sys2Proof.Machine.execLdn c vd slot off s reserved
  | .stn c vs slot off reserved => Sys2Proof.Machine.execStn c vs slot off s reserved
  | .stnM c vs lanes slot off reserved => Sys2Proof.Machine.execStnM c vs lanes slot off s reserved
  | .ldt c rd w off reserved => Sys2Proof.Machine.execLdt c rd w off s reserved
  | .stt c rs w off reserved => Sys2Proof.Machine.execStt c rs w off s reserved
  | .atomic c op wide ret rd rs rc slot off reserved => Sys2Proof.Machine.execAtomic c op wide ret rd rs rc slot off s reserved
  | .fadd c ret rd rs slot off reserved => Sys2Proof.Machine.execFadd c ret rd rs slot off s reserved
  | .xinit c anchor slot off reserved => Sys2Proof.Machine.execXinit c anchor slot off s reserved
  | .xadd c fmt rs slot off reserved => Sys2Proof.Machine.execXadd c fmt rs slot off s reserved
  | .barTile c reserved => Sys2Proof.Machine.execBarTile c s reserved
  | .fenceT c reserved => Sys2Proof.Machine.execFenceT c s reserved
  | .setop c rd desc reserved => Sys2Proof.Machine.execSetop c rd desc s reserved
  | .vrun c rd block stream draws reserved => Sys2Proof.Machine.execVrun c rd block stream draws s reserved
  | .wait c ra reserved => Sys2Proof.Machine.execWait c ra s reserved
  | .rdsr c rd sr clear reserved => Sys2Proof.Machine.execRdsr c rd sr s clear reserved
  | .cvtAw c rd ra rb reserved => Sys2Proof.Machine.execCvtAw c rd ra rb s reserved
  | .memoryResponse id => Sys2Proof.Machine.execMemoryResponse id s
  | .setEngineOpStart t => Sys2Proof.Machine.execSetEngineOpStart t s
  | .setEngineOpDone t => Sys2Proof.Machine.execSetEngineOpDone t s
  | .vectorBlockStart t code => Sys2Proof.Machine.execVectorBlockStart t code s
  | .vectorBlockDone t => Sys2Proof.Machine.execVectorBlockDone t s
  | .homeSliceAccess id => Sys2Proof.Machine.execHomeSliceAccess id s
  | .hbmLineRead hs sa write partialWrite cells transfer level forReq => Sys2Proof.Machine.execHbmLineRead hs sa write partialWrite cells transfer level forReq s
  | .patrolRead hs sa errors => Sys2Proof.Machine.execPatrolRead hs sa errors s
  | .stackTempSample hs temp => Sys2Proof.Machine.execStackTempSample hs temp s
  | .mcxEpochRenew clearing region => Sys2Proof.Machine.execMcxEpochRenew clearing region s
  | .epochRenewal frame region => Sys2Proof.Machine.execEpochRenewal frame region s
  | .keySwap slot => Sys2Proof.Machine.execKeySwap slot s
  | .rekeySweepDone n reached => Sys2Proof.Machine.execRekeySweepDone n s reached
  | .integrityRepairDone n ok => Sys2Proof.Machine.execIntegrityRepairDone n ok s
  | .scrubKeyErase n => Sys2Proof.Machine.execScrubKeyErase n s
  | .scrubOverwriteStart n => Sys2Proof.Machine.execScrubOverwriteStart n s
  | .scrubDone n => Sys2Proof.Machine.execScrubDone n s
  | .getQuote nonce => Sys2Proof.Machine.execGetQuote nonce s
  | .getCerts => Sys2Proof.Machine.execGetCerts s
  | .setFound root p addr => Sys2Proof.Machine.execSetFound root p addr s
  | .setAdmit c addr => Sys2Proof.Machine.execSetAdmit c addr s
  | .setJoin b => Sys2Proof.Machine.execSetJoin b s
  | .setRotate o => Sys2Proof.Machine.execSetRotate o s
  | .setRetire => Sys2Proof.Machine.execSetRetire s
  | .loadBundle bytes => Sys2Proof.Machine.execLoadBundle bytes s
  | .loadReleased r => Sys2Proof.Machine.execLoadReleased r s
  | .makeBundle id slots => Sys2Proof.Machine.execMakeBundle id slots s
  | .swap slots pos => Sys2Proof.Machine.execSwap slots pos s
  | .cancelSwap slots => Sys2Proof.Machine.execCancelSwap slots s
  | .destroy slots => Sys2Proof.Machine.execDestroy slots s
  | .fwStage img => Sys2Proof.Machine.execFwStage img s
  | .fwActivate => Sys2Proof.Machine.execFwActivate s
  | .fwCommit => Sys2Proof.Machine.execFwCommit s
  | .getVersion => Sys2Proof.Machine.execGetVersion s
  | .getCapabilities => Sys2Proof.Machine.execGetCapabilities s
  | .negotiateAlgorithms sm2 sm3 sm4 => Sys2Proof.Machine.execNegotiateAlgorithms sm2 sm3 sm4 s
  | .getDigests => Sys2Proof.Machine.execGetDigests s
  | .getCertificate slot => Sys2Proof.Machine.execGetCertificate slot s
  | .spdmChallenge nonce => Sys2Proof.Machine.execSpdmChallenge nonce s
  | .getMeasurements index nonce signed => Sys2Proof.Machine.execGetMeasurements index nonce s signed
  | .keyExchange ok data => Sys2Proof.Machine.execKeyExchange ok s data
  | .finish mac => Sys2Proof.Machine.execFinish mac s
  | .heartbeat => Sys2Proof.Machine.execHeartbeat s
  | .keyUpdate => Sys2Proof.Machine.execKeyUpdate s
  | .endSession => Sys2Proof.Machine.execEndSession s
  | .linkTrainingStart l => Sys2Proof.Machine.execLinkTrainingStart l s
  | .keyx l chain eph => Sys2Proof.Machine.execKeyx l chain s eph
  | .hello l h => Sys2Proof.Machine.execHello l h s
  | .linkDown l why => Sys2Proof.Machine.execLinkDown l why s
  | .linkRetrainTimer l => Sys2Proof.Machine.execLinkRetrainTimer l s
  | .lnkRetrain l => Sys2Proof.Machine.execLnkRetrain l s
  | .linkRekey l => Sys2Proof.Machine.execLinkRekey l s
  | .flitSlotSend l => Sys2Proof.Machine.execFlitSlotSend l s
  | .dataFlit l h handle off bytes => Sys2Proof.Machine.execDataFlit l h handle off bytes s
  | .collFlit l h slot chunk elem fmt elems => Sys2Proof.Machine.execCollFlit l h slot chunk elem fmt elems s
  | .strandFlit l h clearing part fill off bytes strandIndex last => Sys2Proof.Machine.execStrandFlit l h clearing part fill off bytes strandIndex last s
  | .coverFlit l h reserved => Sys2Proof.Machine.execCoverFlit l h s reserved
  | .nak l seq => Sys2Proof.Machine.execNak l seq s
  | .ack l seq => Sys2Proof.Machine.execAck l seq s
  | .ackIdleTimeout l => Sys2Proof.Machine.execAckIdleTimeout l s
  | .credit l perVc slots => Sys2Proof.Machine.execCredit l perVc slots s
  | .roleUpdate l entries => Sys2Proof.Machine.execRoleUpdate l entries s
  | .staleRole l stream kind unit dropped cur => Sys2Proof.Machine.execStaleRole l stream kind unit dropped cur s
  | .flowDenied l stream => Sys2Proof.Machine.execFlowDenied l stream s
  | .transferTimeout q seq l => Sys2Proof.Machine.execTransferTimeout q seq l s
  | .combineDone q seq => Sys2Proof.Machine.execCombineDone q seq s
  | .collectorDelivery q seq => Sys2Proof.Machine.execCollectorDelivery q seq s
  | .dblTail q v => Sys2Proof.Machine.execDblTail q v s
  | .commandFetch q entry dmaOk => Sys2Proof.Machine.execCommandFetch q entry dmaOk s
  | .commandDecode q => Sys2Proof.Machine.execCommandDecode q s
  | .commandStart q seq => Sys2Proof.Machine.execCommandStart q seq s
  | .collective q seq => Sys2Proof.Machine.execCollective q seq s
  | .confluence q seq => Sys2Proof.Machine.execConfluence q seq s
  | .fenceSignal q seq => Sys2Proof.Machine.execFenceSignal q seq s
  | .fenceSignalled q seq => Sys2Proof.Machine.execFenceSignalled q seq s
  | .fenceWait q seq => Sys2Proof.Machine.execFenceWait q seq s
  | .tideWait q seq => Sys2Proof.Machine.execTideWait q seq s
  | .objRetire q seq => Sys2Proof.Machine.execObjRetire q seq s
  | .objRetireDone k => Sys2Proof.Machine.execObjRetireDone k s
  | .strandlineMark q seq => Sys2Proof.Machine.execStrandlineMark q seq s
  | .evalWindow q seq => Sys2Proof.Machine.execEvalWindow q seq s
  | .completionPost => Sys2Proof.Machine.execCompletionPost s
  | .qcfgCqHead q v => Sys2Proof.Machine.execQcfgCqHead q v s
  | .queueEnable q ctrl => Sys2Proof.Machine.execQueueEnable q ctrl s
  | .queueDisable q ctrl => Sys2Proof.Machine.execQueueDisable q ctrl s
  | .queueResume q => Sys2Proof.Machine.execQueueResume q s
  | .ctxDestroy ctx => Sys2Proof.Machine.execCtxDestroy ctx s
  | .ctxDestroyDone => Sys2Proof.Machine.execCtxDestroyDone s
  | .objCreate => Sys2Proof.Machine.execObjCreate s
  | .fenceInit f owner => Sys2Proof.Machine.execFenceInit f owner s
  | .fenceReset f => Sys2Proof.Machine.execFenceReset f s
  | .fenceFree f => Sys2Proof.Machine.execFenceFree f s
  | .fncSignal f status => Sys2Proof.Machine.execFncSignal f status s
  | .flr fn => Sys2Proof.Machine.execFlr fn s
  | .d3hotReturn fn => Sys2Proof.Machine.execD3hotReturn fn s
  | .tdispMessage fn target => Sys2Proof.Machine.execTdispMessage fn target s
  | .nonIdeTlpDrop fn => Sys2Proof.Machine.execNonIdeTlpDrop fn s
  | .perstNAssert => Sys2Proof.Machine.execPerstNAssert s
  | .manifestSend => Sys2Proof.Machine.execManifestSend s
  | .saveDone saveMs => Sys2Proof.Machine.execSaveDone saveMs s
  | .lossWordRecord => Sys2Proof.Machine.execLossWordRecord s
  | .rollback => Sys2Proof.Machine.execRollback s
  | .takeover => Sys2Proof.Machine.execTakeover s
  | .resume => Sys2Proof.Machine.execResume s
  | .restoreDeep => Sys2Proof.Machine.execRestoreDeep s
  | .restoreDone images record copyFound gapS => Sys2Proof.Machine.execRestoreDone images record copyFound gapS s
  | .lossVerify inst => Sys2Proof.Machine.execLossVerify inst s
  | .engineWatchdog e => Sys2Proof.Machine.execEngineWatchdog e s
  | .activityOverrun act inst => Sys2Proof.Machine.execActivityOverrun act inst s
  | .rstEngine e => Sys2Proof.Machine.execRstEngine e s
  | .rstClearing n => Sys2Proof.Machine.execRstClearing n s
  | .rstCold => Sys2Proof.Machine.execRstCold s
  | .engineResetTimeout e => Sys2Proof.Machine.execEngineResetTimeout e s
  | .clearingResetDone n => Sys2Proof.Machine.execClearingResetDone n s
  | .clearingResetTimeout n => Sys2Proof.Machine.execClearingResetTimeout n s
  | .neighbourFailed l => Sys2Proof.Machine.execNeighbourFailed l s
  | .commonsRepairDone hs sa ok copy => Sys2Proof.Machine.execCommonsRepairDone hs sa ok copy s
  | .sysRstNAssert => Sys2Proof.Machine.execSysRstNAssert s
  | .pwrOkDeassert => Sys2Proof.Machine.execPwrOkDeassert s
  | .ngataselWatchdog dump => Sys2Proof.Machine.execNgataselWatchdog dump s
  | .controlDieEccError dump => Sys2Proof.Machine.execControlDieEccError dump s
  | .bootReady failedLanes laneAt trngFail => Sys2Proof.Machine.execBootReady failedLanes s laneAt trngFail
  | .lcsAdvance v => Sys2Proof.Machine.execLcsAdvance v s
  | .lcsBurnDone => Sys2Proof.Machine.execLcsBurnDone s
  | .dbgChallenge scope => Sys2Proof.Machine.execDbgChallenge scope s
  | .dbgOpen r => Sys2Proof.Machine.execDbgOpen r s
  | .debugScopeOpen => Sys2Proof.Machine.execDebugScopeOpen s
  | .dbgReturn r => Sys2Proof.Machine.execDbgReturn r s
  | .challengeExpiry => Sys2Proof.Machine.execChallengeExpiry s
  | .bypass => Sys2Proof.Machine.execBypass s
  | .idcode => Sys2Proof.Machine.execIdcode s
  | .samplePreload preload => Sys2Proof.Machine.execSamplePreload preload s
  | .extest => Sys2Proof.Machine.execExtest s
  | .clamp => Sys2Proof.Machine.execClamp s
  | .highz => Sys2Proof.Machine.execHighz s
  | .trace => Sys2Proof.Machine.execTrace s
  | .ctrl halt => Sys2Proof.Machine.execCtrl halt s
  | .bist => Sys2Proof.Machine.execBist s
  | .linkLoop => Sys2Proof.Machine.execLinkLoop s
  | .memread handle off st => Sys2Proof.Machine.execMemread handle off st s
  | .ngsScan => Sys2Proof.Machine.execNgsScan s
  | .modeRequest mode => Sys2Proof.Machine.execModeRequest mode s
  | .modeCancel => Sys2Proof.Machine.execModeCancel s
  | .modeChange => Sys2Proof.Machine.execModeChange s
  | .modeRampDone => Sys2Proof.Machine.execModeRampDone s
  | .powerSample inputW parts mainMv auxMv energyJ => Sys2Proof.Machine.execPowerSample inputW parts mainMv auxMv energyJ s
  | .vinMainUndervolt => Sys2Proof.Machine.execVinMainUndervolt s
  | .powerRemoval auxToo => Sys2Proof.Machine.execPowerRemoval auxToo s
  | .overcurrent => Sys2Proof.Machine.execOvercurrent s
  | .stage2Fault => Sys2Proof.Machine.execStage2Fault s
  | .extFault r => Sys2Proof.Machine.execExtFault r s
  | .dieTempSample d temp => Sys2Proof.Machine.execDieTempSample d temp s
  | .vinMainApply => Sys2Proof.Machine.execVinMainApply s
  | .pwrOkRise strapBoot strapTide => Sys2Proof.Machine.execPwrOkRise strapBoot strapTide s
  | .sysRstNRelease images => Sys2Proof.Machine.execSysRstNRelease images s
  | .i3cPrivateWrite bytes => Sys2Proof.Machine.execI3cPrivateWrite bytes s
  | .i3cPrivateRead words => Sys2Proof.Machine.execI3cPrivateRead words s
  | .setdasa addr => Sys2Proof.Machine.execSetdasa addr s
  | .entdaa addr => Sys2Proof.Machine.execEntdaa addr s
  | .traceTriggerEdge heldNs => Sys2Proof.Machine.execTraceTriggerEdge heldNs s
  | .engineResetDone e => Sys2Proof.Machine.execEngineResetDone e s
  | .fencingDone n => Sys2Proof.Machine.execFencingDone n s
  | .mailboxRequestDone => Sys2Proof.Machine.execMailboxRequestDone s
  | .objRequestDone => Sys2Proof.Machine.execObjRequestDone s
  | .deepStrandlineDone q seq => Sys2Proof.Machine.execDeepStrandlineDone q seq s
  | .perstNRelease => Sys2Proof.Machine.execPerstNRelease s
  | .opticalTrainingDone l failed => Sys2Proof.Machine.execOpticalTrainingDone l failed s

end Sys2Proof.Machine
end

