-- ==== Sys2Proof/Machine/Step.lean ====
section
/-! DEFINITION. One step: the command at the front of the queue, or a tick of the control
die's clock when none waits. -/

namespace Sys2Proof.Machine
open Sys2Proof

/-- One step. A waiting command is taken from the front of the queue and runs with the
queue's rest. With no command waiting, the control die's clock advances by one microsecond,
the resolution of the error log's TIME (R360): log entry 1, DESIGN CHOICE. -/
def step (s : State) : Host.Outcome State Fault Refusal :=
  match s.pending with
  | [] => idle s
  | c :: rest => exec c { s with pending := rest }

/-- `s` with the command that the word spells put at the front of the queue; `s` where the
word spells none, as every word does here (`decodeTableWord`). -/
def State.withFetchWord (s : State) (nbits w : Nat) : State :=
  match decodeTableWord nbits w with
  | none => s
  | some i => { s with pending := i :: s.pending }

end Sys2Proof.Machine
end

