-- ==== Sys2Proof/WellFormed.lean ====
section
/-! DEFINITION. Which commands are well formed: the operands that a sender or an event of this hardware can
bring, where their types allow more. -/

namespace Sys2Proof

/-- An aligned register offset below the reserved range (R9, R10). -/
def regOffset (off : BitVec 26) : Bool := off.toNat % 4 == 0 && decide (off.toNat < 0x3000000)

/-- A naturally aligned access of 4 or 8 bytes (R9). -/
def naturalAccess (off : BitVec 26) (bytes : Nat) : Bool := (bytes == 4 || bytes == 8) && off.toNat % bytes == 0

/-- A stack address below 96 GiB (R164, R172). -/
def onStack (sa : BitVec 37) : Bool := decide (sa.toNat < 103079215104)

/-- A payload of 1 to 224 bytes (R247). -/
def flitPayload (bs : List Byte) : Bool := decide (1 ≤ bs.length) && decide (bs.length ≤ 224)

/-- The elements of a COLL flit by FORMAT: at most 14 words, 56 S32 or 112 B16 (R247). -/
def collPayload (fmt : Byte) (n : Nat) : Bool :=
  decide (1 ≤ n) && ((fmt == 0x0A && decide (n ≤ 14)) || (fmt == 0x08 && decide (n ≤ 56)) ||
    (fmt == 0x06 && decide (n ≤ 112)))

/-- The operands of the command are ones that its sender can bring. -/
def Instr.wf : Instr → Bool
  | .registerWrite off _ _ _ high => regOffset off && (high.isNone || naturalAccess off 8)
  | .rcRegisterRead off _ high => regOffset off && (high.isNone || naturalAccess off 8)
  | .loRegisterReadLatch .. => true
  | .bar0MisalignedAccess off n _ => !naturalAccess off n
  | .bar0ReservedAccess off _ => decide (0x3000000 ≤ off.toNat)
  | .rootMarkTimer .. => true
  | .tideInFrame .. => true
  | .tideInFrameMissing .. => true
  | .markRecord .. => true
  | .returnRecord .. => true
  | .mergeCutoff .. => true
  | .markMissing .. => true
  | .tideSetbackReq .. => true
  | .planLoad .. => true
  | .planAbort .. => true
  | .planCheck .. => true
  | .planApply .. => true
  | .granuleOverwriteDone .. => true
  | .numTrapRelease .. => true
  | .copyConvert .. => true
  | .sweepProgram .. => true
  | .sweep .. => true
  | .accAdd .. => true
  | .load .. => true
  | .store .. => true
  | .sweepCommit .. => true
  | .epilogueDone .. => true
  | .moverTransferDone .. => true
  | .launch _ _ ps => ps.handles.length == 16 && ps.arg.length == 256
  | .launchStart .. => true
  | .launchComplete .. => true
  | .threadIntOp .. => true
  | .threadFloatOp .. => true
  | .threadVectorOp .. => true
  | .threadBranch .. => true
  | .exit .. => true
  | .ld .. => true
  | .st .. => true
  | .ldn .. => true
  | .stn .. => true
  | .stnM .. => true
  | .ldt .. => true
  | .stt .. => true
  | .atomic .. => true
  | .fadd .. => true
  | .xinit .. => true
  | .xadd .. => true
  | .barTile .. => true
  | .fenceT .. => true
  | .setop .. => true
  | .vrun .. => true
  | .wait .. => true
  | .rdsr .. => true
  | .cvtAw .. => true
  | .memoryResponse .. => true
  | .setEngineOpStart .. => true
  | .setEngineOpDone .. => true
  | .vectorBlockStart .. => true
  | .vectorBlockDone .. => true
  | .homeSliceAccess .. => true
  | .hbmLineRead _ sa _ _ _ _ _ _ => onStack sa
  | .patrolRead _ sa _ => onStack sa
  | .stackTempSample .. => true
  | .mcxEpochRenew n _ => decide (n.toNat < 16)
  | .epochRenewal .. => true
  | .keySwap .. => true
  | .rekeySweepDone .. => true
  | .integrityRepairDone .. => true
  | .scrubKeyErase .. => true
  | .scrubOverwriteStart .. => true
  | .scrubDone .. => true
  | .getQuote .. => true
  | .getCerts .. => true
  | .setFound .. => true
  | .setAdmit .. => true
  | .setJoin .. => true
  | .setRotate .. => true
  | .setRetire .. => true
  | .loadBundle bytes => decide (bytes.length ≤ 4080)
  | .loadReleased .. => true
  | .makeBundle _ rs => decide (rs.length ≤ 256)
  | .swap .. => true
  | .cancelSwap .. => true
  | .destroy .. => true
  | .fwStage .. => true
  | .fwActivate .. => true
  | .fwCommit .. => true
  | .getVersion .. => true
  | .getCapabilities .. => true
  | .negotiateAlgorithms .. => true
  | .getDigests .. => true
  | .getCertificate .. => true
  | .spdmChallenge .. => true
  | .getMeasurements .. => true
  | .keyExchange .. => true
  | .finish .. => true
  | .heartbeat .. => true
  | .keyUpdate .. => true
  | .endSession .. => true
  | .linkTrainingStart .. => true
  | .keyx .. => true
  | .hello .. => true
  | .linkDown .. => true
  | .linkRetrainTimer .. => true
  | .lnkRetrain .. => true
  | .linkRekey .. => true
  | .flitSlotSend .. => true
  | .dataFlit _ _ _ _ bs => flitPayload bs
  | .collFlit _ _ _ _ _ fmt es => collPayload fmt es.length
  | .strandFlit _ _ _ _ _ _ bs _ _ => flitPayload bs
  | .coverFlit .. => true
  | .nak .. => true
  | .ack .. => true
  | .ackIdleTimeout .. => true
  | .credit _ perVc _ => decide (perVc.length ≤ 8)
  | .roleUpdate .. => true
  | .staleRole .. => true
  | .flowDenied .. => true
  | .transferTimeout .. => true
  | .combineDone .. => true
  | .collectorDelivery .. => true
  | .dblTail .. => true
  | .commandFetch .. => true
  | .commandDecode .. => true
  | .commandStart .. => true
  | .collective .. => true
  | .confluence .. => true
  | .fenceSignal .. => true
  | .fenceSignalled .. => true
  | .fenceWait .. => true
  | .tideWait .. => true
  | .objRetire .. => true
  | .objRetireDone .. => true
  | .strandlineMark .. => true
  | .evalWindow .. => true
  | .completionPost .. => true
  | .qcfgCqHead .. => true
  | .queueEnable .. => true
  | .queueDisable .. => true
  | .queueResume .. => true
  | .ctxDestroy .. => true
  | .ctxDestroyDone .. => true
  | .objCreate .. => true
  | .fenceInit .. => true
  | .fenceReset .. => true
  | .fenceFree .. => true
  | .fncSignal .. => true
  | .flr .. => true
  | .d3hotReturn .. => true
  | .tdispMessage .. => true
  | .nonIdeTlpDrop .. => true
  | .perstNAssert .. => true
  | .manifestSend .. => true
  | .saveDone .. => true
  | .lossWordRecord .. => true
  | .rollback .. => true
  | .takeover .. => true
  | .resume .. => true
  | .restoreDeep .. => true
  | .restoreDone .. => true
  | .lossVerify .. => true
  | .engineWatchdog .. => true
  | .activityOverrun .. => true
  | .rstEngine .. => true
  | .rstClearing .. => true
  | .rstCold .. => true
  | .engineResetTimeout .. => true
  | .clearingResetDone .. => true
  | .clearingResetTimeout .. => true
  | .neighbourFailed .. => true
  | .commonsRepairDone _ sa _ copy => onStack sa && copy.cipher.length == 4096
  | .sysRstNAssert .. => true
  | .pwrOkDeassert .. => true
  | .ngataselWatchdog dump => decide (dump.length ≤ 262144)
  | .controlDieEccError dump => decide (dump.length ≤ 262144)
  | .bootReady lanes laneAt _ => lanes.all (fun x => decide (x.1 < 1024)) && laneAt.all fun x => decide (x.1 < 1024)
  | .lcsAdvance .. => true
  | .lcsBurnDone .. => true
  | .dbgChallenge .. => true
  | .dbgOpen .. => true
  | .debugScopeOpen .. => true
  | .dbgReturn .. => true
  | .challengeExpiry .. => true
  | .bypass .. => true
  | .idcode .. => true
  | .samplePreload (some bits) => bits.length == 36
  | .samplePreload none => true
  | .extest .. => true
  | .clamp .. => true
  | .highz .. => true
  | .trace .. => true
  | .ctrl .. => true
  | .bist .. => true
  | .linkLoop .. => true
  | .memread .. => true
  | .ngsScan .. => true
  | .modeRequest m => m != 3
  | .modeCancel .. => true
  | .modeChange .. => true
  | .modeRampDone .. => true
  | .powerSample _ parts _ _ _ => parts.length == 8
  | .vinMainUndervolt .. => true
  | .powerRemoval .. => true
  | .overcurrent .. => true
  | .stage2Fault .. => true
  | .extFault .. => true
  | .dieTempSample .. => true
  | .vinMainApply .. => true
  | .pwrOkRise .. => true
  | .sysRstNRelease .. => true
  | .i3cPrivateWrite bs => decide (3 ≤ bs.length)
  | .i3cPrivateRead .. => true
  | .setdasa .. => true
  | .entdaa .. => true
  | .traceTriggerEdge .. => true
  | .engineResetDone .. => true
  | .fencingDone .. => true
  | .mailboxRequestDone .. => true
  | .objRequestDone .. => true
  | .deepStrandlineDone .. => true
  | .perstNRelease .. => true
  | .opticalTrainingDone .. => true

end Sys2Proof
end

