-- ==== Sys2Proof/Safety.lean ====
section
/-! DEFINITION. What a safe run is, and the properties of a state that every step keeps. -/

namespace Sys2Proof.Machine
open Sys2Proof

/-- The next step answers a next state: no fault and no refusal. -/
def Safe (s : State) : Prop := ∃ t, step s = .next t

/-! ## Memory -/

/-- The HBM's contents are in canonical form: addresses strictly rising, and no entry for a byte that nothing
has written. -/
def Memory.wf (d : Dev) : Bool := Tab.wf none d.mem.hbm

/-! ## Registers (R5, R6) -/

/-- The offsets of the counters that clear on read (RC) and fill a whole word. -/
def rcWords : List Nat :=
  [0x0100040, 0x0100044, 0x0100048, 0x010004C, 0x1800020, 0x1800024, 0x2000010] ++
    (List.range 16).flatMap (fun n =>
      [0x2C00004, 0x2C00008, 0x2C0000C, 0x2C00010, 0x2C00014].map (· + 256 * n) ++
        [0x1001008, 0x100100C, 0x1001018, 0x1002004, 0x1002008, 0x100200C, 0x1002010].map (· + 64 * n)) ++
    (List.range 17).flatMap (fun f =>
      [0x1201004, 0x1201008, 0x120100C, 0x1201014, 0x1201018].map (· + 64 * f)) ++
    (List.range 64).flatMap (fun l =>
      [0x1801018, 0x180101C, 0x1801020, 0x1801024, 0x1801028].map (· + 64 * l))

/-! ## Tide marks (R30, R33) -/

/-- The position of `r` would decrease the schedule position of `d` (R33). -/
def Splits (d : Dev) (r : MarkRec) : Prop :=
  d.tide.firstSeen = true ∧ (r.count - r.shift.setWidth 64).toNat < d.tide.pos.toNat

/-- `d` is what `d₀` becomes when it takes the mark record `r` at depth `hop`: its tide registers show the
record; its schedule position is TIDE_COUNT − SHIFT_TOTAL, or TIDE_SPLIT stands and no clearing is ACTIVE
where the position would decrease; an armed plan is due exactly where that position has reached PLAN_APPLY_POS
(R66); and the plan registers otherwise, the fuses, the debug port, the session, the dies' states and the host's
read registers are as before. -/
def TookMark (d₀ : Dev) (r : MarkRec) (hop : BitVec 8) (d : Dev) : Prop :=
  d.tide.count = r.count ∧ d.tide.shift = r.shift ∧ d.tide.pendingSb = r.pending ∧ d.tide.epoch = r.epoch ∧
    d.tide.source = r.source ∧ d.tide.hop = hop ∧ d.tide.locked = true ∧ d.tide.missing = 0 ∧
    d.tide.firstSeen = true ∧
    (Splits d₀ r → d.tide.split = true ∧ d.tide.pos = d₀.tide.pos ∧
      ∀ n, n < 16 → (d₀.clr n).st = .active → (d.clr n).st = .halted) ∧
    (¬ Splits d₀ r → d.tide.split = d₀.tide.split ∧ d.tide.pos = r.count - r.shift.setWidth 64) ∧
    (d.plan.due = true ↔ d₀.plan.st = .armed ∧ ¬ Splits d₀ r ∧
      (d₀.plan.applyHi ++ d₀.plan.applyLo).toNat ≤ (r.count - r.shift.setWidth 64).toNat) ∧
    d.plan = { d₀.plan with due := d.plan.due } ∧ d.lcs = d₀.lcs ∧ d.dbg = d₀.dbg ∧ d.spdm = d₀.spdm ∧ d.thm = d₀.thm ∧ d.bus = d₀.bus

/-- The record waits on each of the links `ls`. -/
def Forwarded (ls : List Nat) (r : MarkRec) (d : Dev) : Prop := ∀ l ∈ ls, TideRec.mark r ∈ (d.link l).tideQ

/-! ## Completions (R295, R297) -/

/-- In `d`, command `c` of queue `q`, in flight in `d₀`, has completed with this outcome: it has left its queue,
and its record is the last of its completion source's FIFO. -/
def Completes (d₀ : Dev) (q : Nat) (c : Cmd) (st : Status) (det : Detail) (info : BitVec 64) (d : Dev) : Prop :=
  (Tab.wf Queue.reset d₀.host.queues = true → d.cmd q c.seq = none) ∧
    Tab.get [] d.host.fifos c.src =
      Tab.get [] d₀.host.fifos c.src ++ [Dev.completion q c st det info 0 d₀.host.nextOrd]

/-! ## Thread contexts (R139) -/

/-- Context `k` of launch `l` is ready for an instruction that names the registers `regs`: its launch runs, it
waits at no barrier and has not exited, no register awaits a result, and fewer than 16 memory operations are
outstanding. -/
def Ready (d : Dev) (k : Nat) (regs : List Dest) (l : LaunchSt) : Prop :=
  d.ctxLaunch k = some l ∧ l.ph = .running ∧ (d.ctx k).exited = false ∧ (d.ctx k).atBarrier = false ∧
    (d.mem.reqs.filter fun r => r.ctx == k).length < 16 ∧ ∀ r ∈ regs, r ∉ (d.ctx k).outstanding

/-- Context `k` with its registers changed by `f`, at its next instruction; nothing else changes. -/
def Dev.steps (d : Dev) (k : Nat) (f : Ctx → Ctx) : Dev :=
  { d with ctxs := Tab.mod Ctx.reset d.ctxs k fun c => { f c with pc := (f c).pc + 4 } }

/-- Launch `l` stops at the fault of its context `k` (R162). -/
def Dev.faults (d : Dev) (k : Nat) (l : LaunchSt) (st : Status) (info : BitVec 64) : Dev :=
  { d with launches := d.launches.map fun x => if x.id = l.id then
      { x with
        ph := .stopping, status := st, detail := .none, info := info,
        rank := BitVec.ofNat 21 (x.rankOf k (d.ctx k).slotIdx) } else x }

/-- The checks of R146 that an access of `n` bytes at an offset of a handle slot passes. -/
def Reaches (d : Dev) (l : LaunchSt) (slot off n : Nat) (write : Bool) : Prop :=
  let h := l.handles[slot]?.getD 0xFFFFFFFF
  let o := d.obj (objIndex h)
  h ≠ 0xFFFFFFFF ∧ off + n ≤ o.size ∧
    (o.clearing.toNat = l.clearing ∨
      (write = false ∧ o.owner = 0 ∧ d.readGrant o.clearing.toNat l.clearing = true)) ∧
    off % n = 0

/-- The request of context `k` for such an access waits at its home slice, its destination register awaits the
result, and the context is at its next instruction. -/
def Dev.asks (d : Dev) (k : Nat) (l : LaunchSt) (slot off : Nat) (dest : Dest) (kind : AccKind) : Dev :=
  let h := l.handles[slot]?.getD 0xFFFFFFFF
  let o := d.obj (objIndex h)
  let r : MemReq :=
    { id := d.mem.nextReq, ctx := k, tile := ctxTile k, gen := d.tileGen (ctxTile k),
      clearing := o.clearing.toNat, asker := l.clearing, handle := h, region := o.region.toNat,
      ra := o.base + off, kind := kind, dest := dest, served := false, status := .ok, detail := .none,
      result := [] }
  { d with
    mem := { d.mem with reqs := d.mem.reqs ++ [r], nextReq := d.mem.nextReq + 1 },
    ctxs := Tab.mod Ctx.reset d.ctxs k fun c =>
      { c with
        outstanding := if dest = .none then c.outstanding else dest :: c.outstanding, pc := c.pc + 4 } }

/-! ## Links (R247–R263) -/

/-- No transfer runs and no save runs, so an arrival moves nothing else on. -/
def Calm (d : Dev) : Prop := d.lnk.xfers = [] ∧ d.stl.st = .idle

/-- Link `l` with its record changed by `f`; nothing else changes. -/
def Dev.onLink (d : Dev) (l : Nat) (f : Link → Link) : Dev :=
  { d with lnk := { d.lnk with links := Tab.mod Link.reset d.lnk.links l f } }

/-- A flit with header `h` and body `b` arrives in order on link `l`, which carries every share, with the tag of
what it carries, for a destination of its current generation (R248, R258, R262). -/
def InOrder (d : Dev) (l : Nat) (h : FlitHdr) (b : TxBody) : Prop :=
  d.linkCarries l = true ∧ d.flitOpens l h b = true ∧ h.seq = (d.link l).rxSeq ∧ d.staleGen l h = none

/-- Link `l` once it has taken a flit with header `h`: the next SEQ, its credit owed to the sender, and its
replay buffer freed up to ACK_SEQ. -/
def Link.takes (h : FlitHdr) (credit : Bool) (k : Link) : Link :=
  let rest := freeReplay h.ackSeq k.replay
  { k with
    rxSeq := k.rxSeq + 1, awaiting := false, tagRun := 0, ackDue := true,
    owed := if credit then Tab.mod 0 k.owed h.vc.toNat (· + 1) else k.owed, replay := rest,
    resend := k.resend.filter fun f => rest.any (·.seq == f.seq) }

/-- A control message waiting on a link (R255). -/
def ctrlTx (m : CtrlMsg) : TxFlit :=
  { vc := 5, clearing := 16, owner := 0, dst := none, stream := 0, queue := 0, cmdSeq := 0, body := .ctrl m }

/-! ## Antifuses (chapter 16) -/

/-- Every bit burnt in `x` is burnt in `y`. -/
def burntIn (x y : Word) : Prop := x &&& y = x

/-- The record `b` holds every bit burnt in `a`. -/
def BurnRec.grows (a b : BurnRec) : Prop := burntIn a.target b.target ∧ burntIn a.done b.done

/-- The life-cycle fuses of `y` hold every bit burnt in `x`: the code words, the root-secret array once it is
zeroised, and the transition records. -/
def Lcs.grows (x y : Lcs) : Prop :=
  burntIn x.code0 y.code0 ∧ burntIn x.code1 y.code1 ∧ burntIn x.code2 y.code2 ∧
    (x.rootZeroed = true → y.rootZeroed = true) ∧
    ∀ k, (Tab.get BurnRec.reset x.recs k).grows (Tab.get BurnRec.reset y.recs k)

/-- The fuses of `x` are burnt in the state's device. -/
def Fused (x : Lcs) (s : State) : Prop := x.grows s.dev.lcs

/-! ## A device that does not run (R355, R384, R389) -/

/-- The commands of the supplies, of the reset balls and of PCIe reset: a device that does not run takes
these alone. -/
def Instr.supply : Instr → Bool
  | .sysRstNAssert | .sysRstNRelease _ | .powerRemoval _ | .vinMainApply | .pwrOkDeassert | .pwrOkRise _ _
  | .perstNAssert | .perstNRelease => true
  | _ => false

/-- The device is `d`, which does not run, and no command of a supply or a reset ball waits. -/
def Dark (d : Dev) (s : State) : Prop :=
  s.dev = d ∧ d.running = false ∧ s.pending.all (fun c => !Instr.supply c) = true

end Sys2Proof.Machine
end

