-- ==== Sys2Proof/Certificates/Slice0/Obligations.lean ====
section
/-! DEFINITION. The statements for the provers. -/

open Sys2Proof Sys2Proof.Machine

/-- Log entry 11 (the row's cut): a step takes the command at the front of the queue and runs it with the
queue's rest. Log entry 1, the model's choice: with no command waiting a running device's clock advances by 1
µs, and nothing else changes; a device that does not run stays as it is. -/
def Obligations.StepRuns : Prop :=
  (∀ (c : Instr) (s : State), step { s with pending := c :: s.pending } = exec c s) ∧
  (∀ s : State, s.pending = [] →
     (s.dev.running = true → step s = .next { s with dev := { s.dev with timeUs := s.dev.timeUs + 1 } }) ∧
     (s.dev.running = false → step s = .next s))

/-- R10, with R9's accesses of any other size or alignment: reads return 0, writes are discarded. R9's 64-bit
access: two 32-bit accesses, the lower address first, and the read's two words are the result. R6 of the event
registers and R390's ALERT_N: a bit written 1 clears, a bit that hardware sets in the same cycle stays
set, EVENT_EN and every other block's registers stay, and ALERT_N follows the alerting bits. -/
def Obligations.RegisterWindow : Prop :=
  (∀ (s : State) (off : BitVec 26) (bytes : Nat) (v hw : Word), s.dev.running = true →
     let zero : Host.Outcome State Fault Refusal :=
       .next { s with dev := { s.dev with bus := { s.dev.bus with readData := 0 } } }
     (0x3000000 ≤ off.toNat →
       exec (.bar0ReservedAccess off false) s = zero ∧ exec (.bar0ReservedAccess off true) s = .next s ∧
       exec (.rcRegisterRead off hw) s = zero ∧ exec (.registerWrite off v hw) s = .next s) ∧
     (naturalAccess off bytes = false →
       exec (.bar0MisalignedAccess off bytes false) s = zero ∧
         exec (.bar0MisalignedAccess off bytes true) s = .next s)) ∧
  (∀ (s : State) (off : BitVec 26) (v hw w hw' : Word) (line : BitVec 35), s.dev.running = true →
     off.toNat % 8 = 0 →
     (∃ t, exec (.registerWrite off v hw line) s = .next t ∧
       (t.dev.running = true → exec (.registerWrite off v hw line (some (w, hw'))) s =
         exec (.registerWrite (off + 4) w hw' line) t)) ∧
     (∃ t u, exec (.rcRegisterRead off hw) s = .next t ∧ exec (.rcRegisterRead (off + 4) hw') t = .next u ∧
       exec (.rcRegisterRead off hw (some hw')) s = .next { u with dev := { u.dev with bus := { u.dev.bus with
         readData := t.dev.bus.readData, readHigh := u.dev.bus.readData } } })) ∧
  (∀ (s : State) (off : BitVec 26) (b : Blk) (v hw : Word), s.dev.running = true →
     off.toNat % 4 = 0 → eventReg off.toNat = some (b, false) →
     ∃ d, exec (.registerWrite off v hw) s = .next { s with dev := d } ∧
       (∀ i, i < 32 → (d.ev.get b).ev.getLsbD i =
         (((s.dev.ev.get b).ev.getLsbD i && !v.getLsbD i) || (hw.getLsbD i && decide (i < b.defined)))) ∧
       (d.ev.get b).en = (s.dev.ev.get b).en ∧ (∀ c, c ≠ b → d.ev.get c = s.dev.ev.get c) ∧
       d = { s.dev with
         ev := d.ev, pins := { s.dev.pins with alertN := d.ev.alertSrc != 0 }, outbox := d.outbox })

/-- R42 and PWR_ENERGY: a read of a LO register returns its low half and latches the HI register; a read of the
HI register returns what was latched, whatever the live value is by then. R5 and R6 of the counters that clear
on read: the read returns the value from before the new events, and the counter then holds what hardware added
in the same cycle. R400's I3C target: three bytes, the low one first, set the register offset; a read drives the
words from that offset without changing it; SETDASA and ENTDAA give an address to a target that has none, and
leave one that has it alone (the last is the model's choice, log entry 30). -/
def Obligations.ReadsLatchAndClear : Prop :=
  (∀ (s : State) (hw : Word), s.dev.running = true →
     let b := s.dev.bus
     let t := s.dev.tide
     let out (x : Bus) : Host.Outcome State Fault Refusal := .next { s with dev := { s.dev with bus := x } }
     exec (.loRegisterReadLatch .tideCount) s =
       out { b with hiCount := t.count.extractLsb' 32 32, readData := t.count.extractLsb' 0 32 } ∧
     exec (.loRegisterReadLatch .tidePos) s =
       out { b with hiPos := t.pos.extractLsb' 32 32, readData := t.pos.extractLsb' 0 32 } ∧
     exec (.loRegisterReadLatch .tideShift) s =
       out { b with hiShift := (t.shift.extractLsb' 32 16).setWidth 32, readData := t.shift.extractLsb' 0 32 } ∧
     exec (.loRegisterReadLatch .pwrEnergy) s =
       out { b with
         hiEnergy := s.dev.pwr.energy.extractLsb' 32 32, readData := s.dev.pwr.energy.extractLsb' 0 32 } ∧
     exec (.rcRegisterRead 0x0100014 hw) s = out { b with readData := b.hiCount } ∧
     exec (.rcRegisterRead 0x010001C hw) s = out { b with readData := b.hiPos } ∧
     exec (.rcRegisterRead 0x0100024 hw) s = out { b with readData := b.hiShift } ∧
     exec (.rcRegisterRead 0x2800054 hw) s = out { b with readData := b.hiEnergy } ∧
     Dev.reset.bus.hiCount = 0 ∧ Dev.reset.bus.hiPos = 0 ∧ Dev.reset.bus.hiShift = 0) ∧
  (∀ (s : State) (off : BitVec 26) (hw : Word), s.dev.running = true → off.toNat ∈ rcWords →
     Tab.wf Clearing.reset s.dev.clrs = true → Tab.wf StackSt.reset s.dev.mem.stk = true →
     Tab.wf McxFrame.reset s.dev.mem.frames = true → Tab.wf Link.reset s.dev.lnk.links = true →
     ∃ d, exec (.rcRegisterRead off hw) s = .next { s with dev := d } ∧
       d.bus.readData = s.dev.readReg off.toNat ∧ d.readReg off.toNat = hw ∧
       d = { s.dev with
         bus := { s.dev.bus with readData := d.bus.readData }, tide := d.tide, clrs := d.clrs, mem := d.mem,
         lnk := d.lnk, flt := { s.dev.flt with staleReply := d.flt.staleReply } }) ∧
  (∀ (s : State) (bs : List Byte) (b0 b1 b2 : Byte) (n : Nat) (a : BitVec 7), s.dev.running = true →
     let d := s.dev
     exec (.i3cPrivateWrite (b0 :: b1 :: b2 :: bs)) s =
       .next { s with dev := { d with pins := { d.pins with i3cOff := b2 ++ b1 ++ b0 } } } ∧
     (∃ ws d', exec (.i3cPrivateRead n) s = .next { s with dev := d' } ∧ ws.length = n ∧
       d'.outbox = d.outbox ++ [.i3cData ws] ∧ d'.pins = d.pins ∧
       (0 < n → ws.head? = some (if d.pins.i3cOff.toNat < 0x400000 ∧ d.pins.i3cOff.toNat % 4 = 0 then
         d.readReg (0x2800000 + d.pins.i3cOff.toNat) else 0)) ∧
       d' = { d with bus := d'.bus, pwr := { d.pwr with inMax := d'.pwr.inMax }, thm := d'.thm, outbox := d'.outbox }) ∧
     (d.pins.i3cAddr = none →
       exec (.setdasa a) s = .next { s with dev := { d with pins := { d.pins with i3cAddr := some a } } } ∧
       exec (.entdaa a) s = .next { s with dev := { d with pins := { d.pins with i3cAddr := some a } } }) ∧
     (d.pins.i3cAddr ≠ none → exec (.setdasa a) s = .next s ∧ exec (.entdaa a) s = .next s))

/-- RW registers of R5 and R8: each takes the value written in its own fields, and nothing else changes. R69's
register states: PLAN_SRC, PLAN_LEN and PLAN_APPLY_POS are written in EMPTY, ACTIVE and FAILED and discarded in
the other states; the queue's ring registers are written while it is DISABLED alone (R281). -/
def Obligations.RegisterWrites : Prop :=
  (∀ (s : State) (v hw : Word), s.dev.running = true →
     let d := s.dev
     let w (off : BitVec 26) := exec (.registerWrite off v hw) s
     let out (x : Dev) : Host.Outcome State Fault Refusal := .next { s with dev := x }
     w 0x1000010 = out { d with mem := { d.mem with ceThresh := v.setWidth 16 } } ∧
     w 0x1400020 = out { d with sec := { d.sec with slotSel := v.setWidth 8 } } ∧
     w 0x1800060 = out { d with lnk := { d.lnk with nbrSel := v.setWidth 6 } } ∧
     w 0x2000018 = out { d with flt := { d.flt with logSel := v.setWidth 10 } } ∧
     w 0x2800008 = out { d with pwr := { d.pwr with posLo := v } } ∧
     w 0x280000C = out { d with pwr := { d.pwr with posHi := v } } ∧
     w 0x2800024 = out { d with pwr := { d.pwr with limit := v.setWidth 16 } } ∧
     w 0x0C00008 = out { d with host := { d.host with reqSizeLo := v } } ∧
     w 0x0C0000C = out { d with host := { d.host with reqSizeHi := v } } ∧
     w 0x0C00020 = out { d with host := { d.host with objSel := v.setWidth 20 } } ∧
     w 0x1C00028 = out { d with stl := { d.stl with intPosLo := v } } ∧
     w 0x1C0002C = out { d with stl := { d.stl with intPosHi := v } } ∧
     w 0x1C00034 = out { d with stl := { d.stl with takeAddr := v &&& 0xFFFFF } } ∧
     w 0x1C00038 = out { d with stl := { d.stl with rbIndex := v } } ∧
     w 0x1C0003C = out { d with stl := { d.stl with resPosLo := v } } ∧
     w 0x1C00040 = out { d with stl := { d.stl with resPosHi := v } } ∧
     w 0x1C00054 = out { d with stl := { d.stl with hostSrcLo := v } } ∧
     w 0x1C00058 = out { d with stl := { d.stl with hostSrcHi := v } } ∧
     w 0x1C0005C = out { d with stl := { d.stl with hostLenLo := v } } ∧
     w 0x1C00060 = out { d with stl := { d.stl with hostLenHi := v } } ∧
     (70 ≤ (v.extractLsb' 0 8).toNat → (v.extractLsb' 0 8).toNat ≤ 100 → (v.extractLsb' 8 8).toNat < 60 →
       70 ≤ (v.extractLsb' 16 8).toNat → (v.extractLsb' 16 8).toNat ≤ 95 →
       w 0x2A00034 = out { d with thm :=
         { d.thm with
           warnCd := v.extractLsb' 0 8, warnCt := v.extractLsb' 16 8 } })) ∧
  (∀ (s : State) (v hw : Word) (q : Que) (off : BitVec 26), s.dev.running = true →
     let d := s.dev
     let w (off : BitVec 26) := exec (.registerWrite off v hw) s
     (d.plan.st = .fetching ∨ d.plan.st = .checking ∨ d.plan.st = .armed →
       w 0x0200000 = .next s ∧ w 0x0200004 = .next s ∧ w 0x0200008 = .next s ∧ w 0x0200038 = .next s ∧
         w 0x020003C = .next s) ∧
     (d.plan.st = .empty ∨ d.plan.st = .active ∨ d.plan.st = .failed →
       w 0x0200000 = .next { s with dev := { d with plan := { d.plan with srcLo := v &&& 0xFFFFFFC0 } } } ∧
       w 0x0200004 = .next { s with dev := { d with plan := { d.plan with srcHi := v } } } ∧
       (v.toNat ≤ 16777216 →
         w 0x0200008 = .next { s with dev := { d with plan := { d.plan with len := v } } }) ∧
       w 0x0200038 = .next { s with dev := { d with plan := { d.plan with applyLo := v } } } ∧
       w 0x020003C = .next { s with dev := { d with plan := { d.plan with applyHi := v } } }) ∧
     (off.toNat = 0x500000 + 64 * q.val →
       ((d.queue q.val).st ≠ .disabled →
         w off = .next s ∧ w (off + 4) = .next s ∧ w (off + 8) = .next s ∧ w (off + 12) = .next s) ∧
       ((d.queue q.val).st = .disabled →
         w off = .next { s with dev := d.modQueue q.val fun u => { u with ringLo := v &&& 0xFFFFF000 } } ∧
         w (off + 4) = .next { s with dev := d.modQueue q.val fun u => { u with ringHi := v } } ∧
         w (off + 8) = .next { s with dev := d.modQueue q.val fun u => { u with cqLo := v &&& 0xFFFFF000 } } ∧
         w (off + 12) = .next { s with dev := d.modQueue q.val fun u => { u with cqHi := v } })))

/-- R37 and R33 at a source's own timer, and R40's first mark of a secondary that took the source role: P is the
larger of PENDING and the merged request; a mark with P > 0 holds the schedule position, and the record waits on
every forwarding link. The third clause is the model's choice for the first mark of all (log entry 9). R27: a
ROOT_EXTERNAL root takes a frame with its next count at the frame's own instant; bridges one missing frame from
its own timer and counts it; and enters holdover at a second one or at a wrong count, which raises
TIDE_IN_MISMATCH whenever the frame comes; a frame with the wrong CRC, or out of its time, is a missing one. -/
def Obligations.SourceMarks : Prop :=
  (∀ (s : State) (needs : List Need), s.dev.running = true →
     let d₀ := s.dev
     let t := d₀.tide
     let P := max t.pendingSb.toNat (match t.window with | some w => w.setback.toNat | none => 0)
     t.isSource = true → t.split = false → t.lost = false →
     (t.firstSeen = true → d₀.tideRole = 1 ∨ (d₀.tideRole = 2 ∧ t.holdover = true) ∨ (d₀.tideRole = 3 ∧ t.missing < 2) →
       let r : MarkRec :=
         { count := t.count + 1, shift := if P = 0 then t.shift else t.shift + 1, pending := BitVec.ofNat 8 (P - 1),
           holdover := t.holdover, failover := false, epoch := t.epoch, source := d₀.addr, hop := 0 }
       ∃ d, exec (.rootMarkTimer needs) s = .next { s with dev := d } ∧ TookMark d₀ r 0 d ∧
         Forwarded d₀.forwardLinks r d ∧ d.tide.isSource = true) ∧
     (d₀.tideRole = 3 → 2 ≤ t.missing →
       let r : MarkRec :=
         { count := t.count + 3, shift := t.shift + 2, pending := t.pendingSb, holdover := t.holdover,
           failover := true, epoch := t.epoch + 1, source := d₀.addr, hop := 0 }
       ∃ d, exec (.rootMarkTimer needs) s = .next { s with dev := d } ∧ TookMark d₀ r 0 d ∧
         Forwarded d₀.forwardLinks r d) ∧
     (t.firstSeen = false → d₀.tideRole = 1 →
       ∃ d, exec (.rootMarkTimer needs) s = .next { s with dev := d } ∧ d.tide.count = d₀.freeVal ∧
         d.tide.firstSeen = true ∧ d.tide.locked = true)) ∧
  (∀ (s : State) (f : TideFrame) (needs : List Need), s.dev.running = true →
     let d₀ := s.dev
     let t := d₀.tide
     t.isSource = true → d₀.tideRole = 2 → t.split = false → t.lost = false → t.firstSeen = true →
     t.cardFirst = false →
     let mark (h : Bool) : MarkRec := { d₀.nextMark (t.count + 1) with holdover := h }
     (frameGood f = true → f.count = t.count + 1 →
       ∃ d, exec (.tideInFrame f true needs) s = .next { s with dev := d } ∧
         TookMark d₀ (mark false) 0 d ∧ d.tide.holdover = false ∧ d.tide.cardMissed = 0 ∧
         d.tide.missCount = t.missCount ∧ Forwarded d₀.forwardLinks (mark false) d) ∧
     (∀ onTime : Bool, frameGood f = true → f.count ≠ t.count + 1 →
       ∃ d, exec (.tideInFrame f onTime needs) s = .next { s with dev := d } ∧
         TookMark d₀ (mark true) 0 d ∧ d.tide.holdover = true ∧ (d.ev.get .tide).ev.getLsbD 5 = true ∧
         Forwarded d₀.forwardLinks (mark true) d) ∧
     (∀ onTime : Bool, frameGood f = false ∨ (onTime = false ∧ f.count = t.count + 1) →
       exec (.tideInFrame f onTime needs) s = exec (.tideInFrameMissing needs) s) ∧
     (t.holdover = false → t.cardMissed = 0 →
       ∃ d, exec (.tideInFrameMissing needs) s = .next { s with dev := d } ∧
         TookMark d₀ (mark false) 0 d ∧ d.tide.holdover = false ∧ d.tide.cardMissed = 1 ∧
         d.tide.missCount = satInc t.missCount ∧ Forwarded d₀.forwardLinks (mark false) d) ∧
     (t.holdover = false → t.cardMissed ≠ 0 →
       ∃ d, exec (.tideInFrameMissing needs) s = .next { s with dev := d } ∧
         TookMark d₀ (mark true) 0 d ∧ d.tide.holdover = true ∧ d.tide.missCount = t.missCount ∧
         Forwarded d₀.forwardLinks (mark true) d))

/-- R30 and R41 at a follower: a verified record from the parent link whose epoch is not lower, or from the
alternate parent whose epoch is higher, or equal from the second missing mark on, is taken one hop deeper and
goes out on every forwarding link; the alternate parent becomes the parent. -/
def Obligations.FollowerMarks : Prop :=
  ∀ (s : State) (l : Lnk) (r : MarkRec) (tag : DWord) (needs : List Need) (more : Bool), s.dev.running = true →
    let d₀ := s.dev
    let t := d₀.tide
    d₀.recordOpens l.val (MarkRec.bytes r) tag = true → t.isSource = false → t.following = true → t.split = false → d₀.linkUsable l.val = true →
    d₀.linkEnabled l.val = true →
    let others (p : Nat) : List Nat :=
      (List.range 64).filter fun k => d₀.linkUsable k && d₀.linkEnabled k && k != p
    (l.val = t.parent.toNat → t.epoch.toNat ≤ r.epoch.toNat →
      ∃ d, exec (.markRecord l r tag needs more) s = .next { s with dev := d } ∧ TookMark d₀ r (r.hop + 1) d ∧
        d.tide.parent = t.parent ∧ d.tide.alt = t.alt ∧ d.tide.following = true ∧
        Forwarded (others l.val) { r with hop := r.hop + 1 } d) ∧
    (l.val ≠ t.parent.toNat → t.altValid = true → l.val = t.alt.toNat →
      t.epoch.toNat < r.epoch.toNat ∨ (t.epoch.toNat = r.epoch.toNat ∧ 2 ≤ t.missing) →
      ∃ d, exec (.markRecord l r tag needs more) s = .next { s with dev := d } ∧ TookMark d₀ r (r.hop + 1) d ∧
        d.tide.parent = t.alt ∧ d.tide.alt = t.parent ∧ d.tide.following = true ∧
        Forwarded (others l.val) { r with hop := r.hop + 1 } d)

/-- R30 and R41, the records that a device does not take: one that fails its tag on the parent link or on a
valid alternate's is counted and raises AUTH_FAIL; one from another link, or of a lower epoch, is ignored without
being counted. Either way the flit has been received on its link (R249). After TIDE_SPLIT no record is taken
(R33). R40: a missing mark counts, raises MISS and clears LOCKED, and the second makes a secondary the source; at
4 periods, with three missing, TIDE_LOST stands and no clearing is ACTIVE. Before the first valid mark, and at a
source, nothing is counted. -/
def Obligations.MarksNotTaken : Prop :=
  (∀ (s : State) (l : Lnk) (r : MarkRec) (tag : DWord) (needs : List Need) (more : Bool), s.dev.running = true →
     let d₀ := s.dev.rxTide l.val more
     let t := s.dev.tide
     let valid := s.dev.recordOpens l.val (MarkRec.bytes r) tag
     t.isSource = false → t.following = true →
     (t.split = true → exec (.markRecord l r tag needs more) s = .next { s with dev := d₀ }) ∧
     (t.split = false → s.dev.linkUsable l.val = true → s.dev.linkEnabled l.val = true →
       (l.val = t.parent.toNat ∨ (t.altValid = true ∧ l.val = t.alt.toNat) → valid = false →
         exec (.markRecord l r tag needs more) s =
           .next { s with dev := ({ d₀ with tide := { t with authCount := satInc t.authCount } } : Dev).raise .tide 2 }) ∧
       (l.val ≠ t.parent.toNat → (t.altValid = false ∨ l.val ≠ t.alt.toNat) →
         exec (.markRecord l r tag needs more) s = .next { s with dev := d₀ }) ∧
       (r.epoch.toNat < t.epoch.toNat → valid = true →
         exec (.markRecord l r tag needs more) s = .next { s with dev := d₀ }))) ∧
  (∀ (s : State) (four : Bool), s.dev.running = true →
     let d₀ := s.dev
     let t := d₀.tide
     (t.firstSeen = false → exec (.markMissing four) s = .next s) ∧
     (t.isSource = true → d₀.tideRole ≠ 3 ∨ t.missing < 2 → exec (.markMissing four) s = .next s) ∧
     (t.firstSeen = true → t.lost = false → t.split = false → d₀.planActive = true →
       t.isSource = false ∨ (d₀.tideRole = 3 ∧ 2 ≤ t.missing) →
       let takes := d₀.tideRole == 3 && t.missing == 1
       exec (.markMissing false) s = .next { s with dev := ({ d₀ with tide :=
         { t with
           missing := t.missing + 1, locked := false, missCount := satInc t.missCount,
           isSource := t.isSource || takes, following := t.following && !takes } } : Dev).raise .tide 1 } ∧
       (t.missing < 3 → exec (.markMissing true) s = .next s) ∧
       (3 ≤ t.missing → ∃ d, exec (.markMissing true) s = .next { s with dev := d } ∧ d.tide.lost = true ∧
         d.tide.missing = t.missing ∧ d.tide.missCount = t.missCount ∧ d.tide.count = t.count ∧
         d.tide.pos = t.pos ∧ (d.ev.get .tide).ev.getLsbD 7 = true ∧
         (∀ n, n < 16 → (d₀.clr n).st = .active → (d.clr n).st = .halted) ∧
         d.plan = d₀.plan ∧ d.lcs = d₀.lcs ∧ d.sec = d₀.sec ∧ d.stl = d₀.stl ∧ d.pwr = d₀.pwr)))

/-- R31, R32 and R39 at the source: a return record that answers the current mark before the cutoff is merged
into its window; one of another mark, or after the cutoff, is counted as late and merged into the window that is
open or the next one. R43: the host's request is held
until withdrawn. R28 and R31: the cutoff closes the window, and with OUT_EN the return frame goes out with its CRC. R31's
merge of two return records: the larger SETBACK with its requester (the lower address where they are equal),
LATE and FAILED by OR, the saturating sum of LATE_COUNT, and the lowest failed address. -/
def Obligations.ReturnsMerge : Prop :=
  (∀ (s : State) (l : Lnk) (r : RetRec) (tag : DWord) (rtt : BitVec 20) (more : Bool) (m : BitVec 8), s.dev.running = true →
     let t := s.dev.tide
     (s.dev.recordOpens l.val (RetRec.bytes r) tag = true → t.isSource = true → s.dev.linkUsable l.val = true →
       s.dev.linkEnabled l.val = true → s.dev.failed = false →
       let top := if t.rttNs.toNat < rtt.toNat then rtt else t.rttNs
       ∃ d₁ : Dev, d₁ = { s.dev with lnk := d₁.lnk } ∧ (d₁.link l.val).child = true ∧
         (r.countLow = t.count.setWidth 32 → t.cutoff = false →
           exec (.returnRecord l r tag rtt more) s = .next { s with dev := { d₁ with tide :=
             { t with rttNs := top, window := mergeInto t.window r } } }) ∧
         (t.cutoff = true →
           exec (.returnRecord l r tag rtt more) s = .next { s with dev := ({ d₁ with tide :=
             { t with
               rttNs := top, nextWindow := mergeInto t.nextWindow r,
               retLateCount := satInc t.retLateCount } } : Dev).raise .tide 4 }) ∧
         (r.countLow ≠ t.count.setWidth 32 → t.cutoff = false →
           exec (.returnRecord l r tag rtt more) s = .next { s with dev := ({ d₁ with tide :=
             { t with
               rttNs := top, window := mergeInto t.window r,
               retLateCount := satInc t.retLateCount } } : Dev).raise .tide 4 })) ∧
     exec (.tideSetbackReq m) s =
       .next { s with dev := { s.dev with tide := { t with hostReq := m, hostSent := false } } } ∧
     (t.isSource = true → s.dev.planActive = true →
       ∃ p, s.dev.plan.active = some p ∧
         (p.tide.outEn = false →
           exec .mergeCutoff s = .next { s with dev := { s.dev with tide := { t with cutoff := true } } }) ∧
         (p.tide.outEn = true → ∀ w, t.window = some w →
           exec .mergeCutoff s = .next { s with dev :=
             { s.dev with
               tide := { t with cutoff := true },
               outbox := s.dev.outbox ++ [.tideReturn (t.count.setWidth 32) w.setback w.late
                 (crc16 (leBytes 4 (t.count.setWidth 32).toNat ++ [w.setback, if w.late then 1 else 0]))] } }))) ∧
  (∀ a b : RetRec,
     let m := mergeRet a b
     m.setback.toNat = max a.setback.toNat b.setback.toNat ∧ m.late = (a.late || b.late) ∧
     m.failed = (a.failed || b.failed) ∧ m.lateCount.toNat = min 0xFFFF (a.lateCount.toNat + b.lateCount.toNat) ∧
     (b.setback.toNat < a.setback.toNat → m.reqAddr = a.reqAddr ∧ m.reason = a.reason) ∧
     (a.setback.toNat < b.setback.toNat → m.reqAddr = b.reqAddr ∧ m.reason = b.reason) ∧
     (a.setback = b.setback → m.reqAddr.toNat = min a.reqAddr.toNat b.reqAddr.toNat) ∧
     (a.failed = true → b.failed = true → m.failedAddr.toNat = min a.failedAddr.toNat b.failedAddr.toNat) ∧
     (a.failed = true → b.failed = false → m.failedAddr = a.failedAddr) ∧
     (a.failed = false → b.failed = true → m.failedAddr = b.failedAddr))

/-- R65's checks 1 and 2 and R69 at PLAN_LOAD: BUSY leaves the plan in progress alone, a Scrapped device and one
out of service refuse, and otherwise the fetch begins. An ABORT with nothing to cancel, or of a plan that takes
effect at the mark just taken, has no effect. R69: any other ABORT of a plan that is FETCHING, CHECKING or ARMED
sets FAILED with reason ABORTED, clears PLAN_CHANGED and the
armed plan, raises LOAD_DONE and destroys the keys held for it; the active plan stays. -/
def Obligations.PlanLoads : Prop :=
  (∀ s : State, s.dev.running = true →
     let d := s.dev
     let p := d.plan
     let done (x : PlanRegs) : Dev := ({ d with plan :=
       { x with section_ := 0, entry := 0, confA := 0, confB := 0, confRes := 0 } } : Dev).raise .plan 0
     (p.st = .fetching ∨ p.st = .checking ∨ p.st = .armed →
       exec .planLoad s = .next { s with dev := done { p with reason := 0x10 } }) ∧
     (p.st = .empty ∨ p.st = .active ∨ p.st = .failed →
       (d.lcs.st = .scrapped ∨ (d.flt.ready = true ∧ (d.retired = true ∨ d.trainFailed = true)) →
         let r : Byte := if d.lcs.st = .scrapped then 0x06 else 0x13
         let q : PlanRegs := { p with st := .failed, armed := none, changed := 0, reason := r, due := false }
         exec .planLoad s = .next { s with dev := done q }) ∧
       (d.lcs.st ≠ .scrapped → d.flt.ready = true → d.retired = false → d.trainFailed = false →
         exec .planLoad s = .next { s with dev := { d with
           plan := { p with st := .fetching }, outbox := d.outbox ++ [.fetchPlan (p.srcHi ++ p.srcLo) p.len] } }) ∧
       exec .planAbort s = .next s) ∧
     (d.applyCommits = true → exec .planAbort s = .next s)) ∧
  (∀ s : State, s.dev.running = true → s.dev.applyCommits = false →
     s.dev.plan.st = .fetching ∨ s.dev.plan.st = .checking ∨ s.dev.plan.st = .armed →
     ∃ d, exec .planAbort s = .next { s with dev := d } ∧
       d.plan = { s.dev.plan with
         st := .failed, armed := none, changed := 0, due := false, reason := 0x12, section_ := 0, entry := 0,
         confA := 0, confB := 0, confRes := 0 } ∧
       (d.ev.get .plan).ev.getLsbD 0 = true ∧
       (Tab.wf Slot.reset s.dev.sec.slots = true → ∀ k,
         (((s.dev.slot k).held = true ∧ ((s.dev.slot k).loaded = true ∨ (s.dev.slot k).shadow.isSome = true)) →
           d.slot k = { Slot.reset with gen := (s.dev.slot k).gen }) ∧
         ((s.dev.slot k).held = false → d.slot k = s.dev.slot k)) ∧
       d = { s.dev with
         plan := d.plan, clrs := d.clrs, ev := d.ev, pins := d.pins, outbox := d.outbox,
         sec := { s.dev.sec with slots := d.sec.slots } })

/-- R65 and R66 at PLAN_CHECK. The plan's bytes are read, its signature and chain verified, and the checks run
on them in every state; where no plan is being fetched the command changes nothing. For every verdict of the
signature and the chain: the first check that fails gives the reason, and the active plan stays; a plan that
passes them all is ARMED beside an active plan, and takes effect at once where none is active. R62: on an
overlap of claims the plan is refused with PLAN_CONFLICT, both claimants and the resource are recorded, and the
active plan stays. -/
def Obligations.PlanCheckOutcome : Prop :=
  (∀ (s : State) (raw : List Byte) (x : PlanFields), s.dev.running = true →
     let p := readPlan raw x
     exec (.planCheck raw x) s =
       .next { s with dev := doPlanCheck p (planVerdict p (s.dev.sec.member.map (·.root))) s.dev } ∧
     (s.dev.plan.st ≠ .fetching → exec (.planCheck raw x) s = .next s)) ∧
  (∀ (d₀ : Dev) (p : StandPlan) (v : PlanVerdict), d₀.plan.st = .fetching →
     let d := doPlanCheck p v d₀
     let refused (reason : Byte) (at_ : Place) (x : PlanRegs) : Prop :=
       d.plan = { x with
         st := .failed, armed := none, changed := 0, due := false, reason := reason,
         section_ := BitVec.ofNat 8 at_.1, entry := BitVec.ofNat 16 at_.2 } ∧
       d = { d₀ with plan := d.plan, ev := d.ev, pins := d.pins, outbox := d.outbox }
     let clear : PlanRegs := { d₀.plan with confA := 0, confB := 0, confRes := 0 }
     let early := firstReject (d₀.checkEarly p v)
     let late := firstReject (d₀.checkLate p)
     (∀ r, early = some r → refused r.1 r.2 clear) ∧
     (∀ a b cls idx, early = none → p.conflict = some (a, b, cls, idx) →
       refused 0x0C b.place { d₀.plan with
         confA := BitVec.ofNat 32 (a.section_ + 65536 * a.entry),
         confB := BitVec.ofNat 32 (b.section_ + 65536 * b.entry),
         confRes := BitVec.ofNat 32 (cls + 256 * idx) }) ∧
     (∀ r, early = none → p.conflict = none → late = some r → refused r.1 r.2 clear) ∧
     (early = none → p.conflict = none → late = none →
       (∀ a, d₀.plan.active = some a →
         d.plan = { clear with
           st := .armed, armed := some p, changed := changedMask a p d₀.takeoverLoading,
           takeoverLoad := d₀.takeoverLoading, due := false, reason := 0, section_ := 0, entry := 0 } ∧
         d = { d₀ with plan := d.plan, tide := d.tide, ev := d.ev, pins := d.pins, outbox := d.outbox }) ∧
       (d₀.plan.active = none →
         d.plan.active = some p ∧ d.plan.armed = none ∧ d.plan.st = .active ∧ d.plan.changed = 0 ∧
           d.plan.reason = 0 ∧ d.plan.held = p.report.getLsbD 3 ∧ d.tide.parent = p.tide.parent ∧
           d.tide.isSource = (p.tide.role == 1 || p.tide.role == 2) ∧ d.tide.firstSeen = false ∧
           d.stl.fullNext = true ∧ d.lcs = d₀.lcs ∧ d.pwr = d₀.pwr ∧ d.thm = d₀.thm)))

/-- R68 at the apply mark: the armed plan becomes the active one; a clearing that is not changed keeps its state
and role generation, a changed one takes its next role generation, and every fence stays as it was. R68: a
changed clearing that is fenced fails the apply with CLEARING_FENCED and leaves the active plan and every
clearing's state as they were, and the schedule goes on; one that is RESETTING, or a stage that runs, postpones it. R66: a plan that no
mark made due does not apply. An overwritten granule has no contents left
and waits no longer. R114: a release of the trap record waits for the next mark. -/
def Obligations.PlanApplies : Prop :=
  (∀ (s : State) (a p : StandPlan), s.dev.running = true → s.dev.plan.st = .armed →
     s.dev.plan.active = some a → s.dev.plan.armed = some p → s.dev.plan.due = true → s.dev.stageRuns a = false →
     let d₀ := s.dev
     (∀ n, n < 16 → d₀.plan.changed.getLsbD n = true → (d₀.clr n).st ≠ .fenced ∧ (d₀.clr n).fencing = false ∧
       (d₀.clr n).st ≠ .resetting) →
     Tab.wf Clearing.reset d₀.clrs = true →
     ∃ d, exec .planApply s = .next { s with dev := d } ∧ d.plan.active = some p ∧ d.plan.armed = none ∧
       d.plan.st = .active ∧ d.plan.changed = 0 ∧ d.plan.held = p.report.getLsbD 3 ∧
       (∀ n, n < 16 → d₀.plan.changed.getLsbD n = false → (d.clr n).roleGen = (d₀.clr n).roleGen ∧
         (d.clr n).st = (d₀.clr n).st ∧ (d.clr n).num = (d₀.clr n).num) ∧
       (∀ n, n < 16 → d₀.plan.changed.getLsbD n = true → (d.clr n).roleGen = (d₀.clr n).roleGen + 1) ∧
       d.host.fences = d₀.host.fences ∧ d.lcs = d₀.lcs ∧ d.dbg.bootId = d₀.dbg.bootId ∧ d.thm = d₀.thm ∧ d.pwr = d₀.pwr) ∧
  (∀ (s : State) (a p : StandPlan) (g : Fin 1536) (n : Clr), s.dev.running = true →
     let d₀ := s.dev
     let notYet : Host.Outcome State Fault Refusal :=
       .next { s with dev := { d₀ with plan := { d₀.plan with due := false } } }
     (Tab.wf Clearing.reset d₀.clrs = true → d₀.plan.st = .armed → d₀.plan.active = some a → d₀.plan.armed = some p →
       (d₀.plan.due = false ∨ d₀.stageRuns a = true → exec .planApply s = notYet) ∧
       (d₀.plan.due = true → d₀.stageRuns a = false → d₀.plan.changed.getLsbD n.val = true →
         ((∀ k, k < 16 → (d₀.clr k).st ≠ .resetting) → (d₀.clr n.val).st = .fenced →
           ∃ d : Dev, exec .planApply s = .next { s with dev := d.startActs } ∧
             d.plan.st = .failed ∧ d.plan.reason = 0x11 ∧ d.plan.active = some a ∧ d.plan.armed = none ∧
             (∀ k, (d.clr k).st = (d₀.clr k).st) ∧ d.host = d₀.host ∧ d.mem = d₀.mem ∧ d.tiles = d₀.tiles) ∧
         ((d₀.clr n.val).st = .resetting → exec .planApply s = notYet))) ∧
     (d₀.plan.overwrites.any (fun w => w.1 == g.val) = true →
       ∃ d, exec (.granuleOverwriteDone g) s = .next { s with dev := d } ∧
         d.plan = { d₀.plan with overwrites := d₀.plan.overwrites.filter (fun w => w.1 != g.val) } ∧
         (∀ k, Tab.get none d.mem.hbm k = if k / 2 ^ 30 = g.val then none else Tab.get none d₀.mem.hbm k) ∧
         d = { d₀ with plan := d.plan, mem := d.mem }) ∧
     exec (.numTrapRelease n) s =
       .next { s with dev := d₀.modNum n.val fun x => { x with release := true } })

/-- R123, R129 and R130: a started SWEEP_PROGRAM whose turn it is (R136) goes to the sequencer of its tile with
its instructions; the next SWEEP in program order issues with the start words of its slot, or zeros under
ACC_INIT, saved in the replay buffers and its anchors predicted; an ACC_ADD issues likewise. -/
def Obligations.SweepsIssue : Prop :=
  ∀ (s : State) (q : Que) (seq : Word) (c : Cmd) (n : Nat) (t : Tile) (g : Prog) (idx : Nat), s.dev.running = true →
    let d₀ := s.dev
    (d₀.cmd q.val seq = some c → d₀.queueClr q.val = some n → c.opcode = 2 → c.ph = .started →
      (d₀.tile (fld c.raw 28 1)).prog = none → d₀.programFirst q.val c = true →
      ∃ d, exec (.sweepProgram q seq) s = .next { s with dev := d } ∧
        (d.tile (fld c.raw 28 1)).prog = some
          { queue := q, seq := seq, clearing := n, members := (d₀.gangOf (fld c.raw 28 1)).1,
            rows := (d₀.gangOf (fld c.raw 28 1)).2.1, cols := (d₀.gangOf (fld c.raw 28 1)).2.2, instrs := c.prog,
            srStream := BitVec.ofNat 16 (fld c.raw 30 2), stepKey := c.stepKey, issued := [], done := [],
            flights := [], epilogues := [], movers := [], stopped := false, status := .ok, detail := .none,
            info := 0 } ∧
        (∀ k, k ≠ fld c.raw 28 1 → d.tile k = d₀.tile k) ∧ (d.cmd q.val seq).map (·.ph) = some .running ∧
        d = { d₀ with tiles := d.tiles, host := { d₀.host with queues := d.host.queues } }) ∧
    ((d₀.tile t.val).prog = some g →
      (∀ fa fb bA bB tA tB init epi ao bo as bs slot k ac ef eb ea sk bk rnd dst pr,
        let i : SwInstr := .sweep fa fb bA bB tA tB init epi ao bo as bs slot k ac ef eb ea sk bk rnd dst pr
        g.nextCalc = some (idx, i) → g.calcReady (d₀.readsOf g) idx i = true →
        let start := g.members.map fun m =>
          (m, if init then List.replicate 1024 0 else (d₀.tile m).slotWords slot)
        let f : Flight :=
          { idx := idx, isAdd := false, slot := slot, start := start, replays := 0,
            work := start.map fun x => (x.1, predict (d₀.mode g.clearing) (d₀.tile x.1) i k x.2) }
        exec (.sweep t) s = .next { s with dev := d₀.modProg t.val fun p =>
          { p with issued := p.issued ++ [idx], flights := p.flights ++ [f] } }) ∧
      (∀ a b, g.nextCalc = some (idx, .accAdd a b) → g.calcReady (d₀.readsOf g) idx (.accAdd a b) = true →
        let f : Flight :=
          { idx := idx, isAdd := true, slot := a, work := [], replays := 0,
            start := g.members.map fun m => (m, (d₀.tile m).slotWords a) }
        exec (.accAdd t) s = .next { s with dev := d₀.modProg t.val fun p =>
          { p with issued := p.issued ++ [idx], flights := p.flights ++ [f] } }))

/-- R98, R99 and R130 at a commit: without an overflow and without a new NaN, the words of every member are
written to the slot and the sweep ends, or goes to its epilogue, and a STRICT sweep's start words that were
converted are counted and logged (R83, R106); with an overflow the whole sweep replays, no
word of an accumulator store changes, and the clearing's REPLAY count and NUM_STATUS bit 4 tell of it. -/
def Obligations.SweepsCommit : Prop :=
  ∀ (s : State) (t : Tile) (g : Prog) (f : Flight) (fs : List Flight), s.dev.running = true →
    let d₀ := s.dev
    (d₀.tile t.val).prog = some g → g.flights = f :: fs →
    let outs := d₀.flightPass g f
    ((∀ o ∈ outs, ∀ e ∈ o.2, e.ovf = false) →
      firstNan (commitEvents g f (d₀.mode g.clearing == .strict && !f.isAdd) (d₀.nanTrap g.clearing == 1) outs) = none →
      g.stopped = false → g.done.length + 1 < g.instrs.length →
      (d₀.startsStrict g f = true → d₀.nanTrap g.clearing ≠ 1 ∨ ∀ x ∈ f.start, strictNans x.2 = []) →
      let words := d₀.commitWords g f outs
      let noted := if words.startsStrict g f then words.strictStarts g f else words
      ∃ epi : Bool,
        (∀ fa fb bA bB tA tB init e ao bo as bs slot k ac ef eb ea sk bk rnd dst pr,
          g.instrs[f.idx]? =
            some (.sweep fa fb bA bB tA tB init e ao bo as bs slot k ac ef eb ea sk bk rnd dst pr) → epi = e) ∧
        (∀ a b, g.instrs[f.idx]? = some (.accAdd a b) → epi = false) ∧
        exec (.sweepCommit t) s = .next { s with dev := noted.modProg t.val fun p =>
          if epi then { p with flights := p.flights.tail, epilogues := p.epilogues ++ [f.idx] }
          else { p with flights := p.flights.tail, done := p.done ++ [f.idx] } }) ∧
    ((∃ o ∈ outs, ∃ e ∈ o.2, e.ovf = true) →
      ∃ d w, exec (.sweepCommit t) s = .next { s with dev := d } ∧
        (d.tile t.val).prog = some { g with flights := { f with work := w, replays := f.replays + 1 } :: fs } ∧
        (∀ k, (d.tile k).acc = (d₀.tile k).acc ∧ (d.tile k).op = (d₀.tile k).op) ∧
        (d.clr g.clearing).num = { (d₀.clr g.clearing).num with
          replay := satInc (d₀.clr g.clearing).num.replay,
          status := setBit (d₀.clr g.clearing).num.status 4 } ∧
        d = { d₀ with tiles := d.tiles, clrs := d.clrs })

/-- R131–R133 at the end of an epilogue: its members' converted rows, and only their operand stores, change, the
epilogue leaves the list and its sweep is done. R126: a LOAD that meets no error writes its converted panel, or
its words, into the members it names and no memory byte (reading passes through the metadata caches, R196); a transfer that ends well completes its instruction. -/
def Obligations.PanelsMove : Prop :=
  ∀ (s : State) (t : Tile) (g : Prog) (idx : Nat), s.dev.running = true →
    let d₀ := s.dev
    (d₀.tile t.val).prog = some g → g.stopped = false → d₀.nanTrap g.clearing ≠ 1 →
    Tab.wf TileSt.reset d₀.tiles = true →
    (∀ is fa fb bA bB tA tB init e ao bo as bs slot k ac ef eb ea sk bk rnd dst pr,
      g.epilogues = idx :: is → g.done.length + 1 < g.instrs.length →
      g.instrs[idx]? = some (.sweep fa fb bA bB tA tB init e ao bo as bs slot k ac ef eb ea sk bk rnd dst pr) →
      ∃ d, exec (.epilogueDone t) s = .next { s with dev := d } ∧
        (d.tile t.val).prog = some { g with epilogues := is, done := g.done ++ [idx] } ∧
        (∀ m, (d.tile m).acc = (d₀.tile m).acc) ∧ (∀ m, m ∉ g.members → (d.tile m).op = (d₀.tile m).op) ∧
        d = { d₀ with
          tiles := d.tiles, clrs := d.clrs, plan := { d₀.plan with held := d.plan.held }, free := d.free,
          ev := d.ev, pins := d.pins, outbox := d.outbox }) ∧
    (∀ fm blkM fs blkS acc kax rnd bcast member sram mv h off rows cols pitch delta,
      let i : SwInstr := .load fm blkM fs blkS acc kax rnd bcast member sram mv h off rows cols pitch delta
      g.instrs[idx]? = some i → g.moveReady (d₀.readsOf g) idx i false = true →
      let o := d₀.obj (objIndex h)
      let x := d₀.checkRanges o (windowRanges (fmtOr fm) blkM kax off rows cols pitch delta)
      let e := x.1.tick
      d₀.keyAllows o.clearing.toNat g.clearing false = true → x.2.status = .ok →
      let y := convertRaw (fmtOr fm) (fmtOr fs) blkM blkS kax (d₀.mode g.clearing) (d₀.rounding g.clearing rnd.toNat)
        cols (fun k => e.drawAt g.stepKey g.srStream 0 (2 ^ 24 * idx + k))
        (e.rawWindow o (fmtOr fm) blkM kax off rows cols pitch delta)
      ∃ d, exec (.load t idx) s = .next { s with dev := d } ∧
        (d.tile t.val).prog = some { g with
          issued := g.issued ++ [idx],
          movers := g.movers ++ [{ idx := idx, status := .ok, detail := .none, info := 0 }] } ∧
        (∀ m, m ∉ loadMembers (g.members, g.rows, g.cols) bcast member →
          (d.tile m).op = (d₀.tile m).op ∧ (d.tile m).acc = (d₀.tile m).acc) ∧
        (g.members.Nodup → ∀ m ∈ loadMembers (g.members, g.rows, g.cols) bcast member,
          (acc = true → (d.tile m).acc = ((d₀.tile m).putWords sram y.1).acc) ∧
          (acc = false →
            (d.tile m).op = ((d₀.tile m).putPanel (fmtOr fs) blkS kax sram rows cols none y.1).op)) ∧
        d.mem = x.1.mem ∧ d.host = d₀.host ∧ d.sec = d₀.sec ∧ d.lnk = d₀.lnk ∧
        x.1 = { d₀ with free := x.1.free, mem :=
          { d₀.mem with
            meta_ := x.1.mem.meta_, regions := x.1.mem.regions, frames := x.1.mem.frames, mcache := x.1.mem.mcache } }) ∧
    (∀ m, g.movers.find? (fun r => r.idx == idx) = some m → m.status = .ok →
      g.done.length + 1 < g.instrs.length →
      exec (.moverTransferDone t idx) s = .next { s with dev := d₀.modProg t.val fun p =>
        { p with movers := p.movers.filter (fun r => r.idx != idx), done := p.done ++ [idx] } })

/-- R126, R90 and R223: a STORE and a COPY_CONVERT on the device that meet no error write the converted elements
into their destination object and nowhere else; the STORE's transfer begins, and the COPY_CONVERT completes. -/
def Obligations.WindowsWritten : Prop :=
  ∀ (s : State) (n : Nat), s.dev.running = true → s.dev.nanTrap n ≠ 1 →
    let d₀ := s.dev
    (∀ (t : Tile) (g : Prog) (idx : Nat)
        fm blkM fs blkS acc kax rnd member sram mv h off rows cols pitch delta,
      let i : SwInstr := .store fm blkM fs blkS acc kax rnd member sram mv h off rows cols pitch delta
      (d₀.tile t.val).prog = some g → g.clearing = n → g.instrs[idx]? = some i → g.moveReady (d₀.readsOf g) idx i true = true →
      let o := d₀.obj (objIndex h)
      let src := d₀.tile (g.members[member]?.getD t.val)
      let raw := if acc then src.rawWords sram rows cols
        else src.rawPanel d₀.free (fmtOr fs) blkS kax sram rows cols
      let y := convertRaw (fmtOr fs) (fmtOr fm) blkS blkM kax (d₀.mode n) (d₀.rounding n rnd.toNat) cols
        (fun e => d₀.drawAt g.stepKey g.srStream 0 (2 ^ 24 * idx + e)) raw
      let ws := windowWrites (fmtOr fm) blkM kax cols (fun r => off + r * pitch) (off + delta)
        (planeShape kax rows cols).2 none y.1
      d₀.keyAllows o.clearing.toNat n true = true → d₀.piecesWait o ws = false →
      (d₀.writePieces o ws).2.status = .ok →
      ∃ d, exec (.store t idx) s = .next { s with dev := d } ∧
        (d.tile t.val).prog = some { g with
          issued := g.issued ++ [idx],
          movers := g.movers ++ [{ idx := idx, status := .ok, detail := .none, info := 0 }] } ∧
        (∀ m, (d.tile m).op = (d₀.tile m).op ∧ (d.tile m).acc = (d₀.tile m).acc) ∧
        d.mem = (d₀.writePieces o ws).1.mem ∧ d.host = d₀.host ∧ d.sec = d₀.sec ∧ d.lnk = d₀.lnk) ∧
    (∀ (q : Que) (seq : Word) (hd pl : List Byte) (c : Cmd),
      d₀.cmd q.val seq = some c → d₀.queueClr q.val = some n → c.opcode = 1 → c.ph = .started →
      let a := c.copyArgs
      a.dir = 0 →
      let x := d₀.obj (objIndex a.srcH)
      let o := d₀.obj (objIndex a.dstH)
      d₀.keyAllows x.clearing.toNat n false = true → d₀.keyAllows o.clearing.toNat n true = true →
      let came := d₀.checkRanges x (lineRanges a.src a.blkS a.srcOff a.count a.srcDelta)
      let e := came.1.tick
      came.2.status = .ok →
      let y := convertRaw a.src a.dst a.blkS a.blkD false (d₀.mode n) (d₀.rounding n (fld c.raw 38 1)) a.count
        (e.drawAt c.stepKey (BitVec.ofNat 16 (fld c.raw 46 2)) 0)
        (e.rawWindow x a.src a.blkS false a.srcOff 1 a.count 0 a.srcDelta)
      let ws := windowWrites a.dst a.blkD false a.count (fun _ => a.dstOff) (a.dstOff + a.dstDelta) 0 none y.1
      e.piecesWait o ws = false → (e.writePieces o ws).2.status = .ok →
      ∃ d, exec (.copyConvert q seq hd pl) s = .next { s with dev := d } ∧
        Completes d₀ q.val c .ok .none 0 d ∧ d.mem = (e.writePieces o ws).1.mem ∧ d.tiles = d₀.tiles ∧
        d.sec = d₀.sec ∧ d.lnk = d₀.lnk)

/-- R138, R139 and R162 at an integer instruction of a ready context: it completes on every operand. Only `rd` and
the pc change, x0 ignores the write, and the result is the operation's at its width, extended by its signedness;
an integer division or remainder by zero gives 0. A shift by the width or more, and the signed division whose
quotient has no place, write a free value of the operation and its operands: the model's choice, log entry 90. -/
def Obligations.IntegerOps : Prop :=
  ∀ (s : State) (ci : CtxId) (op : IntOp) (w : IntWidth) (sg : Bool) (rd ra rb rc : Fin 32) (l : LaunchSt),
    s.dev.running = true →
    let d₀ := s.dev
    let k := 512 * ci.core.val + ci.n.val
    Ready d₀ k [.x rd.val, .x ra.val, .x rb.val, .x rc.val] l →
    let n := w.bits
    let a := ((d₀.ctx k).getX ra.val).setWidth n
    let b := ((d₀.ctx k).getX rb.val).setWidth n
    let c := ((d₀.ctx k).getX rc.val).setWidth n
    let ext (v : BitVec n) : DWord := if sg then v.signExtend 64 else v.setWidth 64
    let free := openResult (.int op w sg) n
      [((d₀.ctx k).getX ra.val).toNat, ((d₀.ctx k).getX rb.val).toNat, ((d₀.ctx k).getX rc.val).toNat]
    let v := intOp op n sg free ((d₀.ctx k).getX ra.val).toNat ((d₀.ctx k).getX rb.val).toNat
      ((d₀.ctx k).getX rc.val).toNat
    exec (.threadIntOp ci op w sg rd ra rb rc) s = .next { s with dev := d₀.steps k (fun c => c.putX rd.val v) } ∧
      (rd.val = 0 → (d₀.ctx k).putX rd.val v = d₀.ctx k) ∧
      (op = .add → v = ext (a + b)) ∧ (op = .sub → v = ext (a - b)) ∧ (op = .mul → v = ext (a * b)) ∧
      (op = .mulhi → v = ext (BitVec.ofInt n
        ((if sg then a.toInt * b.toInt else ((a.toNat * b.toNat : Nat) : Int)) / 2 ^ n))) ∧
      (op = .and → v = ext (a &&& b)) ∧ (op = .or → v = ext (a ||| b)) ∧ (op = .xor → v = ext (a ^^^ b)) ∧
      (op = .cmpEq → v = if a = b then 1 else 0) ∧
      (op = .cmpLt → v = if (if sg then a.slt b else a.ult b) then 1 else 0) ∧
      (op = .select → v = ext (if a = 0 then c else b)) ∧
      (op = .clz → v.toNat ≤ n ∧ a.toNat < 2 ^ (n - v.toNat) ∧ (a ≠ 0 → 2 ^ (n - 1 - v.toNat) ≤ a.toNat)) ∧
      (op = .popcount → v.toNat = ((List.range n).filter fun i => a.getLsbD i).length) ∧
      (op = .rotl → v = ext (a.rotateLeft b.toNat)) ∧
      (op = .div ∨ op = .rem → b = 0 → v = 0) ∧
      (op = .div → sg = false → b ≠ 0 → v = ext (a / b)) ∧ (op = .rem → sg = false → b ≠ 0 → v = ext (a % b)) ∧
      (op = .div → sg = true → b ≠ 0 →
        v = if a = BitVec.intMin n ∧ b = BitVec.allOnes n then free else ext (a.sdiv b)) ∧
      (op = .rem → sg = true → b ≠ 0 → v = ext (a.srem b)) ∧
      (op = .shl → b.toNat < n → v = ext (a <<< b.toNat)) ∧
      (op = .shr → b.toNat < n → v = ext (if sg then a.sshiftRight b.toNat else a >>> b.toNat)) ∧
      (op = .shl ∨ op = .shr → n ≤ b.toNat → v = free)

/-- R162: an instruction whose reserved field is not 0, whatever its form and operands, is a fault of its context's
launch: the launch stops with ABORTED and the context's RANK, no core issues it further, and nothing else changes; a
context that may not issue changes nothing. -/
def Obligations.UndefinedInstructions : Prop :=
  ∀ (s : State) (ci : CtxId) (l : LaunchSt) (op : IntOp) (fop : ThreadFp) (vop : ThreadVec) (bk : BranchKind)
    (aop : AtomicOp) (w : IntWidth) (sg wide ret draws : Bool) (rd ra rb rc : Fin 32) (vd va vb vc : Fin 8)
    (slot : Fin 16) (x : BitVec 64) (lanes : BitVec 8) (anchor : BitVec 10) (fmt : FpFmt) (stream : BitVec 16)
    (sr : SpecialReg), s.dev.running = true →
    let d₀ := s.dev
    let k := 512 * ci.core.val + ci.n.val
    let forms : List Instr :=
      [.threadIntOp ci op w sg rd ra rb rc true, .threadFloatOp ci fop rd ra rb rc true,
        .threadVectorOp ci vop vd va vb vc x true, .threadBranch ci bk ra rb x true, .exit ci true,
        .ld ci rd w slot x true, .st ci rd w slot x true, .ldn ci vd slot x true, .stn ci vd slot x true,
        .stnM ci vd lanes slot x true, .ldt ci rd w x true, .stt ci rd w x true,
        .atomic ci aop wide ret rd ra rc slot x true, .fadd ci ret rd ra slot x true, .xinit ci anchor slot x true,
        .xadd ci fmt ra slot x true, .barTile ci true, .fenceT ci true, .setop ci rd x true,
        .vrun ci rd x stream draws true, .wait ci ra true, .rdsr ci rd sr sg true, .cvtAw ci rd ra rb true]
    (Ready d₀ k [] l → ∀ i ∈ forms, exec i s = .next { s with dev := d₀.faults k l .aborted 0 }) ∧
    ((∀ l, ¬ Ready d₀ k [] l) → ∀ i ∈ forms, exec i s = .next s)

/-- R142 and R144: scalar floating-point instructions exist for S32 and D64 and round to nearest even; one of
another format is an undefined instruction, which stops the launch with ABORTED (R78, R162). A vector
instruction writes `vd` alone. RDSR reads the thread's identity, and its clearing form clears the vector flags
(R160). CVT.AW of a word without NAN converts it under
R106. R139 and R145 at the control instructions of a ready context: branches, WAIT and FENCE.T change the pc (a
call its link register too); a FENCE.T holds its context while an earlier access has not been served (R149).
BAR.TILE and EXIT: once every other thread of the launch on the tile waits or has exited, all that wait go on;
until then only this context changes. -/
def Obligations.ThreadValues : Prop :=
  (∀ (s : State) (ci : CtxId) (rd ra rb rc : Fin 32) (l : LaunchSt), s.dev.running = true →
     let d₀ := s.dev
     let k := 512 * ci.core.val + ci.n.val
     let c := d₀.ctx k
     (Ready d₀ k [.x rd.val, .x ra.val, .x rb.val, .x rc.val] l →
       let a := (c.getX ra.val).toNat
       let puts (op : ThreadFp) (v : DWord) : Prop :=
         exec (.threadFloatOp ci op rd ra rb rc) s =
           .next { s with dev := d₀.steps k (fun c => c.putX rd.val v) }
       let stops (op : ThreadFp) : Prop :=
         exec (.threadFloatOp ci op rd ra rb rc) s = .next { s with dev := d₀.faults k l .aborted 0 }
       let scalar (f : FpFmt) : Prop := f = .s32 ∨ f = .d64
       (∀ (op : FpOp) (f : FpFmt),
         (scalar f → puts (.arith op f) (BitVec.ofNat 64 (fpOp op f.fmt .rne
           (openResult (.fp op f .rne) f.fmt.bits [a, (c.getX rb.val).toNat, (c.getX rc.val).toNat]).toNat a
           (c.getX rb.val).toNat (c.getX rc.val).toNat).1)) ∧
         (¬ scalar f → stops (.arith op f))) ∧
       (∀ f g : FpFmt,
         (scalar f → scalar g → puts (.convert f g) (BitVec.ofNat 64
           (fpConvert f.fmt g.fmt .rne 0 (openResult (.convert f g .rne) f.fmt.bits [a]).toNat a).1)) ∧
         (¬ scalar f ∨ ¬ scalar g → stops (.convert f g))) ∧
       (∀ (f : FpFmt) (w : IntWidth) (sg : Bool),
         (scalar f →
           puts (.toInt f w sg) (fpToInt f.fmt w.bits sg (openResult (.toInt f w sg) f.fmt.bits [a]) a) ∧
           puts (.fromInt w sg f) (BitVec.ofNat 64 (f.fmt.roundFin .rne 0
             (decide (intOf w.bits sg a < 0)) (intOf w.bits sg a).natAbs 0).1)) ∧
         (¬ scalar f → stops (.toInt f w sg) ∧ stops (.fromInt w sg f)))) ∧
     (∀ (op : ThreadVec) (vd va vb vc : Fin 8) (imm : BitVec 64),
       Ready d₀ k [.v vd.val, .v va.val, .v vb.val, .v vc.val] l →
       let y := threadVec op (c.getV va.val) (c.getV vb.val) (c.getV vc.val) imm
       exec (.threadVectorOp ci op vd va vb vc imm) s =
         .next { s with dev := d₀.steps k (fun c => c.putV vd.val y) }) ∧
     (Ready d₀ k [.x rd.val] l →
       let pos := ((bitsOf l.tiles.toNat 96).filter (· < ci.core.val / 32)).length
       let all := (bitsOf l.tiles.toNat 96).length
       let i := ci.core.val % 32
       let reads (sr : SpecialReg) (v : DWord) : Prop :=
         exec (.rdsr ci rd sr) s = .next { s with dev := d₀.steps k (fun c => c.putX rd.val v) }
       reads .tile (BitVec.ofNat 64 (ci.core.val / 32)) ∧ reads .core (BitVec.ofNat 64 i) ∧
         reads .ctx (BitVec.ofNat 64 c.slotIdx) ∧
         reads .rank (BitVec.ofNat 64 (pos * 32 * l.perCore + i * l.perCore + c.slotIdx)) ∧
         reads .nranks (BitVec.ofNat 64 (all * 32 * l.perCore)) ∧ reads .clearing (BitVec.ofNat 64 l.clearing) ∧
         reads .launchSeq (l.seq.setWidth 64) ∧ reads .vflags (c.vflags.setWidth 64) ∧
         ∀ sr, exec (.rdsr ci rd sr true) s = .next { s with dev := d₀.steps k fun c => { c with vflags := 0 } }) ∧
     (Ready d₀ k [.x rd.val, .x ra.val, .x rb.val] l →
       let x := Acc.ofWord (c.getX rb.val ++ c.getX ra.val)
       let r := Fmt.s32.convert (d₀.mode l.clearing) .rne 0 (x.val .rne)
       r.2 = false → Tab.wf Clearing.reset d₀.clrs = true →
       ∃ d, exec (.cvtAw ci rd ra rb) s = .next { s with dev := d } ∧
         d.ctxs = (d₀.steps k (fun c => c.putX rd.val (BitVec.ofNat 64 r.1))).ctxs ∧
         (d.clr l.clearing).num = { (d₀.clr l.clearing).num with
           loss := satAdd (d₀.clr l.clearing).num.loss (if x.loss then 1 else 0) } ∧
         d = { d₀ with ctxs := d.ctxs, clrs := d.clrs })) ∧
  (∀ (s : State) (ci : CtxId) (ra link : Fin 32) (target : BitVec 64) (l : LaunchSt), s.dev.running = true →
     let d₀ := s.dev
     let k := 512 * ci.core.val + ci.n.val
     let c := d₀.ctx k
     let goes (f : Ctx → Ctx) : Host.Outcome State Fault Refusal :=
       .next { s with dev := { d₀ with ctxs := Tab.mod Ctx.reset d₀.ctxs k f } }
     (Ready d₀ k [.x ra.val, .x link.val] l →
       let z := c.getX ra.val
       exec (.threadBranch ci .always ra link target) s = goes (fun c => { c with pc := target }) ∧
       exec (.threadBranch ci .ifZero ra link target) s =
         goes (fun c => { c with pc := if z = 0 then target else c.pc + 4 }) ∧
       exec (.threadBranch ci .ifNotZero ra link target) s =
         goes (fun c => { c with pc := if z = 0 then c.pc + 4 else target }) ∧
       exec (.threadBranch ci .call ra link target) s =
         goes (fun c => { c.putX link.val (c.pc + 4) with pc := target }) ∧
       exec (.threadBranch ci .ret ra link target) s = goes (fun c => { c with pc := z })) ∧
     (Ready d₀ k [.x ra.val] l → exec (.wait ci ra) s = goes (fun c => { c with pc := c.pc + 4 })) ∧
     (Ready d₀ k [] l →
       ((∀ r ∈ d₀.mem.reqs, r.ctx = k → r.served = true) →
         exec (.fenceT ci) s = goes (fun c => { c with pc := c.pc + 4 })) ∧
       ((∃ r ∈ d₀.mem.reqs, r.ctx = k ∧ r.served = false) → exec (.fenceT ci) s = .next s) ∧
       (Tab.wf Ctx.reset d₀.ctxs = true →
         let peer (j : Nat) : Prop := (d₀.ctx j).launch = some l.id ∧ ctxTile j = ctxTile k
         let bar (x : Ctx) : Ctx := { x with atBarrier := true, pc := x.pc + 4 }
         let gone (x : Ctx) : Ctx := { x with exited := true }
         ((∃ j, peer j ∧ j ≠ k ∧ (d₀.ctx j).atBarrier = false ∧ (d₀.ctx j).exited = false) →
           exec (.barTile ci) s = goes bar ∧ exec (.exit ci) s = goes gone) ∧
         ((∀ j, peer j → j ≠ k → (d₀.ctx j).atBarrier = true ∨ (d₀.ctx j).exited = true) →
           ∃ d e, exec (.barTile ci) s = .next { s with dev := d } ∧ exec (.exit ci) s = .next { s with dev := e } ∧
             d = { d₀ with ctxs := d.ctxs } ∧ e = { d₀ with ctxs := e.ctxs } ∧
             d.ctx k = { bar c with atBarrier := false } ∧ e.ctx k = { gone c with atBarrier := false } ∧
             (∀ j, peer j → j ≠ k → d.ctx j = { d₀.ctx j with atBarrier := false } ∧
               e.ctx j = { d₀.ctx j with atBarrier := false }) ∧
             (∀ j, ¬ peer j → d.ctx j = d₀.ctx j ∧ e.ctx j = d₀.ctx j)))))

/-- R146 and R147: an access that passes its checks waits at its home slice with its operands, its destination
register awaits the result, and its context goes on. R146 and R162: an access through an unbound slot, beyond
its object, or out of alignment stops the launch with ABORTED, one that its clearing may not make with
OWNER_DENIED; nothing else changes. -/
def Obligations.ThreadAccesses : Prop :=
  (∀ (s : State) (ci : CtxId) (rd rs rc : Fin 32) (v : Fin 8) (slot : Fin 16) (off : BitVec 64) (l : LaunchSt),
     s.dev.running = true →
     let d₀ := s.dev
     let k := 512 * ci.core.val + ci.n.val
     let c := d₀.ctx k
     let out (dest : Dest) (kind : AccKind) : Host.Outcome State Fault Refusal :=
       .next { s with dev := d₀.asks k l slot.val off.toNat dest kind }
     (∀ w : IntWidth,
       (Ready d₀ k [.x rd.val] l → Reaches d₀ l slot.val off.toNat (w.bits / 8) false →
         exec (.ld ci rd w slot off) s = out (.x rd.val) (.ld (w.bits / 8))) ∧
       (Ready d₀ k [.x rs.val] l → Reaches d₀ l slot.val off.toNat (w.bits / 8) true →
         exec (.st ci rs w slot off) s = out .none (.st (leBytes (w.bits / 8) (c.getX rs.val).toNat)))) ∧
     (Ready d₀ k [.v v.val] l → Reaches d₀ l slot.val off.toNat 32 false →
       exec (.ldn ci v slot off) s = out (.v v.val) .ldn) ∧
     (Ready d₀ k [.v v.val] l → Reaches d₀ l slot.val off.toNat 32 true →
       exec (.stn ci v slot off) s = out .none (.stn (leBytes 32 (c.getV v.val).toNat)) ∧
       ∀ m, exec (.stnM ci v m slot off) s = out .none (.stnM m (leBytes 32 (c.getV v.val).toNat))) ∧
     (∀ (op : AtomicOp) (wide ret : Bool), Ready d₀ k [.x rd.val, .x rs.val, .x rc.val] l →
       Reaches d₀ l slot.val off.toNat (if wide then 8 else 4) true →
       exec (.atomic ci op wide ret rd rs rc slot off) s =
         out (if ret = true ∨ op = .swap ∨ op = .cas then .x rd.val else .none)
           (.atomic op wide (c.getX rs.val) (c.getX rc.val))) ∧
     (∀ ret : Bool, Ready d₀ k [.x rd.val, .x rs.val] l → Reaches d₀ l slot.val off.toNat 4 true →
       exec (.fadd ci ret rd rs slot off) s =
         out (if ret then .x rd.val else .none) (.fadd ((c.getX rs.val).setWidth 32))) ∧
     (∀ anchor, Ready d₀ k [] l → Reaches d₀ l slot.val off.toNat 16 true →
       exec (.xinit ci anchor slot off) s = out .none (.xinit anchor)) ∧
     (∀ f : FpFmt, f ≠ .d64 → Ready d₀ k [.x rs.val] l → Reaches d₀ l slot.val off.toNat 16 true →
       exec (.xadd ci f rs slot off) s = out .none (.xadd f (c.getX rs.val)))) ∧
  (∀ (s : State) (ci : CtxId) (rd rs : Fin 32) (w : IntWidth) (slot : Fin 16) (off : BitVec 64) (l : LaunchSt),
     s.dev.running = true →
     let d₀ := s.dev
     let k := 512 * ci.core.val + ci.n.val
     let n := w.bits / 8
     let h := l.handles[slot.val]?.getD 0xFFFFFFFF
     let o := d₀.obj (objIndex h)
     let stops (st : Status) (info : BitVec 64) : Host.Outcome State Fault Refusal :=
       .next { s with dev := d₀.faults k l st info }
     (Ready d₀ k [.x rd.val] l →
       (h = 0xFFFFFFFF ∨ o.size < off.toNat + n → exec (.ld ci rd w slot off) s = stops .aborted 0) ∧
       (h ≠ 0xFFFFFFFF → off.toNat + n ≤ o.size → o.clearing.toNat ≠ l.clearing →
         (o.owner ≠ 0 ∨ d₀.readGrant o.clearing.toNat l.clearing = false) →
         exec (.ld ci rd w slot off) s = stops .ownerDenied (h.setWidth 64)) ∧
       (h ≠ 0xFFFFFFFF → off.toNat + n ≤ o.size → o.clearing.toNat = l.clearing → off.toNat % n ≠ 0 →
         exec (.ld ci rd w slot off) s = stops .aborted 0)) ∧
     (Ready d₀ k [.x rs.val] l → h ≠ 0xFFFFFFFF → off.toNat + n ≤ o.size → o.clearing.toNat ≠ l.clearing →
       exec (.st ci rs w slot off) s = stops .ownerDenied (h.setWidth 64)))

/-- R147's tile path: LDT reads, and STT writes, `n` bytes of the operand store within the launch's pages; every
other byte stays. Outside the pages the launch stops with ABORTED (R146). -/
def Obligations.TileMemory : Prop :=
  ∀ (s : State) (ci : CtxId) (rd : Fin 32) (w : IntWidth) (off : BitVec 64) (l : LaunchSt), s.dev.running = true →
    let d₀ := s.dev
    let k := 512 * ci.core.val + ci.n.val
    let t := ci.core.val / 32
    let n := w.bits / 8
    Ready d₀ k [.x rd.val] l →
    let inside := 4096 * l.tsFirst ≤ off.toNat ∧ off.toNat + n ≤ 4096 * (l.tsFirst + l.tsCount) ∧
      off.toNat + n ≤ 8388608
    (inside →
      exec (.ldt ci rd w off) s = .next { s with dev := d₀.steps k (fun c => c.putX rd.val
        (BitVec.ofNat 64 (leVal ((List.range n).map fun i => Tab.get 0 (d₀.tile t).op (off.toNat + i))))) } ∧
      (Tab.wf 0 (d₀.tile t).op = true → Tab.wf TileSt.reset d₀.tiles = true →
        ∃ d, exec (.stt ci rd w off) s = .next { s with dev := d } ∧
          (∀ i, Tab.get 0 (d.tile t).op i = if off.toNat ≤ i ∧ i < off.toNat + n then
              BitVec.ofNat 8 (((d₀.ctx k).getX rd.val).toNat / 256 ^ (i - off.toNat))
            else Tab.get 0 (d₀.tile t).op i) ∧
          (d.tile t).acc = (d₀.tile t).acc ∧ (∀ u, u ≠ t → d.tile u = d₀.tile u) ∧
          d = { d₀.steps k id with tiles := d.tiles })) ∧
    (¬ inside →
      exec (.ldt ci rd w off) s = .next { s with dev := d₀.faults k l .aborted 0 } ∧
      exec (.stt ci rd w off) s = .next { s with dev := d₀.faults k l .aborted 0 })

/-- R149–R151 and R176 at a home slice that holds the sectors: the request is served OK with the old bytes; a
read changes no byte; a write leaves the bytes that its operation makes of the old ones, and every other byte. A
request behind an earlier one of its own context to a byte that both name waits (R149). -/
def Obligations.HomeSliceServes : Prop :=
  (∀ (s : State) (id : Nat), s.dev.running = true →
    (∀ r ∈ s.dev.mem.reqs, r.id = id → r.served = false →
      ∃ x ∈ s.dev.mem.reqs, x.id < id ∧ x.served = false ∧ x.ctx = r.ctx ∧ x.clearing = r.clearing ∧
        x.region = r.region ∧ x.ra < r.ra + r.kind.size ∧ r.ra < x.ra + x.kind.size) →
    exec (.homeSliceAccess id) s = .next s) ∧
  (∀ (s : State) (id : Nat) (r : MemReq) (rg : PlanRegion) (pa : Nat), s.dev.running = true →
    let d₀ := s.dev
    d₀.mem.reqs.find? (fun r => r.id == id && !r.served && !d₀.behindOwn r) = some r →
    d₀.mem.lockdown = false → d₀.planRegion r.clearing r.region = some rg → d₀.phys r.clearing r.region r.ra = some pa →
    d₀.keyAllows r.clearing r.asker r.kind.writes = true → d₀.cached pa r.kind.size = true →
    (∀ i, Tab.wf none (Tab.get CacheLine.reset d₀.mem.cache i).bytes = true) →
    let n := r.kind.size
    let old := (List.range n).map fun i => d₀.readByte (pa + i)
    (r.kind.writes = true → d₀.rangeWaits r.clearing r.region r.ra n = false) →
    ∃ d, exec (.homeSliceAccess id) s = .next { s with dev := d } ∧
      (∃ x ∈ d.mem.reqs, x = { r with served := true, status := .ok, detail := .none, result := old }) ∧
      (r.kind.writes = false → ∀ a, d.byteAt a = d₀.byteAt a) ∧
      (∀ bs, r.kind.result old = some bs → ∀ a, d.byteAt a =
        if pa ≤ a ∧ a < pa + bs.length then (bs[a - pa]?) else d₀.byteAt a) ∧
      d.mem.hbm = d₀.mem.hbm ∧ d.ctxs = d₀.ctxs ∧ d.tiles = d₀.tiles ∧ d.launches = d₀.launches ∧
      d.host = d₀.host ∧ d.sec = d₀.sec ∧ d.lnk = d₀.lnk)

/-- R151's table, row by row, and R152: the flags an addend sets and the sum it makes; the bits that two addends
leave do not depend on their order, except for two infinities of opposite signs in a cell without ESC, whose
ESCSIGN R94 takes from the first. -/
def Obligations.ExactCells : Prop :=
  ∀ (x : Acc),
    (∀ v : Val,
      (x.anch = false → x.xadd v = { x with nan := true }) ∧
      (x.anch = true → v.isNan = true → x.xadd v = { x with nan := true }) ∧
      (∀ neg m e, x.anch = true → v = .fin neg m e →
        (m = 0 → x.xadd v = x) ∧
        (m ≠ 0 → x.a + 91 ≤ floorLog2 m e → x.xadd v = { x with sat := true }) ∧
        (m ≠ 0 → floorLog2 m e < x.a + 91 →
          (x.xadd v).a = x.a ∧ (x.xadd v).nan = x.nan ∧ (x.xadd v).sat = x.sat ∧
          (x.xadd v).loss = (x.loss || (floorAt neg m e x.a).2) ∧
          ((x.xadd v).w - (x.w + (floorAt neg m e x.a).1)) % 2 ^ 112 = 0 ∧
          -2 ^ 111 ≤ (x.xadd v).w ∧ (x.xadd v).w < 2 ^ 111)) ∧
      (x.xadd v).anch = x.anch ∧ (x.xadd v).a = x.a) ∧
    (∀ u v : Val, (∀ neg, u = .inf neg → v = .inf (!neg) → x.esc = true) →
      (x.xadd u).xadd v = (x.xadd v).xadd u)

/-- R141, R142 and R289 through a launch's life: a LAUNCH that passes its checks at decode keeps its parameters
and references its objects, one that fails R141's checks completes ABORTED; at its start it takes, on each core,
the lowest free contexts with zeroed registers; and when its work has ended its contexts are free and it
completes with its status. -/
def Obligations.LaunchLifecycle : Prop :=
  ∀ (s : State) (q : Que) (seq : Word) (ps : LaunchParams) (c : Cmd) (n : Nat), s.dev.running = true →
    let d₀ := s.dev
    d₀.cmd q.val seq = some c → d₀.queueClr q.val = some n → c.opcode = 3 →
    (c.ph = .decoding →
      let hs := (ps.handles.take 16).filter (· != 0xFFFFFFFF)
      (∀ h ∈ hs, d₀.liveHandle h = true ∧ d₀.handleOwned n h false = true) →
      let ready : Dev := (d₀.addRefs hs).modCmd q.val seq fun x =>
        { x with ph := .decoded, refs := x.refs ++ hs, params := some ps }
      (d₀.launchOk n c = true → exec (.launch q seq ps) s = .next { s with dev := ready }) ∧
      (d₀.launchOk n c = false → ∃ d, exec (.launch q seq ps) s = .next { s with dev := d } ∧
        Completes d₀ q.val c .aborted .decode 0 d ∧ d = { d₀ with host := d.host })) ∧
    (c.ph = .started → c.params = some ps →
      let tiles := fld c.raw 24 12
      let per := fld c.raw 36 2
      d₀.roomFor tiles per = true → d₀.launchFirst q.val c = true →
      let took := (bitsOf tiles 96).flatMap fun t => (List.range 32).flatMap fun i =>
        ((d₀.freeCtxs (32 * t + i)).take per).zipIdx
      ∃ d l, exec (.launchStart q seq) s = .next { s with dev := d } ∧ d.launches = d₀.launches ++ [l] ∧
        l.id = d₀.nextLaunch ∧ l.queue = q ∧ l.seq = c.seq ∧ l.clearing = n ∧ l.tiles = BitVec.ofNat 96 tiles ∧
        l.perCore = per ∧ l.handles = ps.handles ∧ l.arg = ps.arg ∧ l.tsFirst = fld c.raw 48 2 ∧
        l.tsCount = fld c.raw 50 2 ∧ l.entry = BitVec.ofNat 64 (fld c.raw 20 4) ∧ l.ph = .running ∧ l.status = .ok ∧
        (∀ x ∈ took, d.ctx x.1 = { Ctx.reset with launch := some l.id, slotIdx := x.2, pc := l.entry }) ∧
        (∀ k, k ∉ took.map (·.1) → d.ctx k = d₀.ctx k) ∧
        d = { (d₀.modCmd q.val seq fun x => { x with ph := .running }) with
          launches := d.launches, nextLaunch := d₀.nextLaunch + 1, ctxs := d.ctxs }) ∧
    (∀ l, d₀.launchOf q.val seq = some l → l.ph = .stopping ∨ d₀.allExited l.id = true →
      d₀.launchQuiet l.id = true →
      ∃ d, exec (.launchComplete q seq) s = .next { s with dev := d } ∧
        Tab.get [] d.host.fifos c.src = Tab.get [] d₀.host.fifos c.src ++
          [Dev.completion q.val c l.status l.detail l.info (if l.ph = .stopping then l.rank else 0) d₀.host.nextOrd] ∧
        (Tab.wf Queue.reset d₀.host.queues = true → d.cmd q.val seq = none) ∧
        (∀ k, d.ctx k = if (d₀.ctx k).launch = some l.id then Ctx.reset else d₀.ctx k) ∧
        (∀ x, x ∈ d.launches ↔ x ∈ d₀.launches ∧ x.id ≠ l.id) ∧
        d = { d₀ with
          launches := d.launches, ctxs := d.ctxs, tiles := d.tiles, mem := d.mem, host := d.host } ∧
        d.mem.hbm = d₀.mem.hbm ∧ d.mem.cache = d₀.mem.cache)

/-- R140, R162 and R358 at a response: it reaches its own destination register alone; one that failed stops its
launch with its status; and one of an older generation is dropped and counted in STALE_REPLY. -/
def Obligations.ResponsesArrive : Prop :=
  ∀ (s : State) (id : Nat) (r : MemReq) (l : LaunchSt), s.dev.running = true →
    s.dev.mem.reqs.find? (fun r => r.id == id && r.served) = some r →
    let d₀ : Dev := { s.dev with
      mem := { s.dev.mem with reqs := s.dev.mem.reqs.filter fun x => x.id != id } }
    (r.gen ≠ s.dev.tileGen r.tile → exec (.memoryResponse id) s = .next { s with dev :=
      { d₀ with flt := { d₀.flt with staleReply := satInc d₀.flt.staleReply } } }) ∧
    (r.gen = s.dev.tileGen r.tile → r.status = .ok →
      exec (.memoryResponse id) s = .next { s with dev := { d₀ with
        ctxs := Tab.mod Ctx.reset d₀.ctxs r.ctx fun c =>
          let c : Ctx := { c with outstanding := c.outstanding.filter (· != r.dest) }
          match r.dest with
          | .x i => c.putX i (BitVec.ofNat 64 (leVal r.result))
          | .v i => c.putV i (BitVec.ofNat 256 (leVal r.result))
          | .none => c } }) ∧
    (r.gen = s.dev.tileGen r.tile → r.status ≠ .ok → d₀.ctxLaunch r.ctx = some l → l.ph = .running →
      ∃ d info, exec (.memoryResponse id) s = .next { s with dev := d } ∧
        (∀ x ∈ d.launches, x.id = l.id → x.ph = .stopping ∧ x.status = r.status ∧ x.info = info) ∧
        d = { d₀ with launches := d.launches } ∧ d.launches.map (·.id) = d₀.launches.map (·.id))

/-- R154, R159–R161: a SETOP or VRUN joins its engine's queue of 16 or of 8 with its destination register
awaiting the result, and waits while the queue is full. -/
def Obligations.EnginesQueue : Prop :=
  ∀ (s : State) (ci : CtxId) (rd : Fin 32) (desc : BitVec 64) (stream : BitVec 16) (draws : Bool) (l : LaunchSt),
    s.dev.running = true →
    let d₀ := s.dev
    let k := 512 * ci.core.val + ci.n.val
    let t := ci.core.val / 32
    let waits (x : Dev) : Dev := { x with
      ctxs := Tab.mod Ctx.reset x.ctxs k fun c => { c with outstanding := .x rd.val :: c.outstanding, pc := c.pc + 4 } }
    Ready d₀ k [.x rd.val] l →
    ((d₀.tile t).setq.length < 16 → exec (.setop ci rd desc) s = .next { s with dev := waits (d₀.modTile t fun x =>
      { x with setq := x.setq ++ [{ ctx := k, rd := rd.val, desc := desc.toNat, gen := d₀.tileGen t }] }) }) ∧
    (16 ≤ (d₀.tile t).setq.length → exec (.setop ci rd desc) s = .next s) ∧
    ((draws = true → (d₀.genSlot l.clearing).isSome = true) →
      ((d₀.tile t).vecq.length < 8 → ∃ b, b.ctx = k ∧ b.rd = rd.val ∧ b.block = desc.toNat ∧ b.stream = stream ∧
        b.gen = d₀.tileGen t ∧
        let joined := d₀.modTile t fun x => { x with vecq := x.vecq ++ [b] }
        exec (.vrun ci rd desc stream draws) s = .next { s with dev := waits joined }) ∧
      (8 ≤ (d₀.tile t).vecq.length → exec (.vrun ci rd desc stream draws) s = .next s)) ∧
    (draws = true → d₀.genSlot l.clearing = none →
      exec (.vrun ci rd desc stream draws) s = .next { s with dev := { d₀ with
        launches := d₀.launches.map fun x => if x.id = l.id then
          { x with
            ph := .stopping, status := .aborted, detail := .decode, info := 0,
            rank := BitVec.ofNat 21 (x.rankOf k (d₀.ctx k).slotIdx) } else x } })

/-- R155 and R156: INTERSECT of two strictly ascending streams with room for its output gives the values that
stand in both, UNION those that stand in either and DIFF those of A that B lacks, each strictly ascending, with
status OK; MERGE of two non-decreasing streams gives every element of both in non-decreasing order. -/
def Obligations.SetStreams : Prop :=
  ∀ (as bs : List Nat),
    let run (op limit : Nat) : SetOut := setMerge op (as.length + bs.length + 1) as bs none none 0 0 limit
    let vals (op limit : Nat) : List Nat := (run op limit).vals.map (·.1)
    (as.Pairwise (· < ·) → bs.Pairwise (· < ·) → ∀ limit, as.length + bs.length ≤ limit →
      (∀ x, (x ∈ vals 1 limit ↔ x ∈ as ∧ x ∈ bs) ∧ (x ∈ vals 2 limit ↔ x ∈ as ∨ x ∈ bs) ∧
        (x ∈ vals 3 limit ↔ x ∈ as ∧ x ∉ bs)) ∧
      ∀ op, 1 ≤ op → op ≤ 3 → (vals op limit).Pairwise (· < ·) ∧ (run op limit).status = 0 ∧
        (op = 1 → ∀ v ∈ (run op limit).vals, as[v.2.1]? = some v.1 ∧ bs[v.2.2]? = some v.1)) ∧
    (as.Pairwise (· ≤ ·) → bs.Pairwise (· ≤ ·) → ∀ limit, as.length + bs.length ≤ limit →
      (vals 4 limit).Perm (as ++ bs) ∧ (vals 4 limit).Pairwise (· ≤ ·) ∧ (run 4 limit).status = 0)

/-- R154 and R156–R161 at the engines. The operation at the head of a set engine's queue, with a descriptor that
passes R154's checks, leaves its outputs in the tile and its result for its register; the tile's other bytes, its
words and its queue stay. A PROBE whose table lies in memory reads the buckets it probes and no others (R157). One
that fails the checks stops its launch. A vector block that uses no other page of the store than its launch's
leaves its stores and its flags; they reach the tile, and the token its register, when the block ends. A result
goes to the queueing context alone, and one of an older generation is dropped and counted (R358). -/
def Obligations.EnginesRun : Prop :=
  ∀ (s : State) (t : Tile), s.dev.running = true →
    let d₀ := s.dev
    let x := d₀.tile t.val
    (∀ o os l, x.setq = o :: os → x.setRun = none → d₀.ctxLaunch o.ctx = some l →
      let y := parseSet (x.read 0 o.desc 32)
      let ends (d : Dev) (r : TileSt × DWord) : Host.Outcome State Fault Refusal :=
        .next { s with dev := d.modTile t.val fun _ => { r.1 with setRun := some r.2 } }
      let c := d₀.threadCheck l y.slot y.bOff (64 * y.bCount) 64 false
      let bucket (d : Dev) (b : Nat) : List Byte := d.readObj c.2.1 (y.bOff + 64 * b) 64
      let offs := (x.probes y (bucket d₀)).map fun b => y.bOff + 64 * b
      let e := (d₀.countSectors c.2.1 offs).checkRanges c.2.1 (offs.map fun o => (o, 64))
      (l.inPages o.desc 32 = true → y.ok l = true →
        (y.op ≠ 5 → exec (.setEngineOpStart t) s = ends d₀ (x.setStreams y)) ∧
        (y.op = 5 → y.tableMem = false → exec (.setEngineOpStart t) s =
          ends d₀ (x.setProbe y fun b => x.read 0 (y.bOff + 64 * b) 64)) ∧
        (y.op = 5 → y.tableMem = true → c.2.2 = .ok → d₀.keyAllows c.2.1.clearing.toNat l.clearing false = true →
          e.2.status = .ok →
          exec (.setEngineOpStart t) s = ends e.1.tick ((e.1.tick.tile t.val).setProbe y (bucket e.1.tick)))) ∧
      let bad : Dev := (d₀.faults o.ctx l .aborted 0).modTile t.val fun z => { z with setq := z.setq.tail }
      (l.ph = .running → l.inPages o.desc 32 = false ∨ y.ok l = false →
        exec (.setEngineOpStart t) s = .next { s with dev := bad })) ∧
    (∀ y : SetDesc, y.op ≠ 5 → let r := x.setStreams y
      (∀ p, (p < y.outOff ∨ y.outOff + 4 * y.limit ≤ p) →
        (y.op = 1 → y.emitPos = true → p < y.posOff ∨ y.posOff + 8 * y.limit ≤ p) →
        Tab.wf 0 x.op = true → Tab.get 0 r.1.op p = Tab.get 0 x.op p) ∧
      r.1.acc = x.acc ∧ r.1.setq = x.setq ∧ (y.limit < 2 ^ 32 → r.2.toNat % 2 ^ 32 ≤ y.limit)) ∧
    (∀ o os r, x.setq = o :: os → x.setRun = some r →
      let d₁ := d₀.modTile t.val fun z => { z with setq := os, setRun := none }
      (o.gen = d₁.tileGen t.val → exec (.setEngineOpDone t) s = .next { s with dev :=
        { d₁ with ctxs := Tab.mod Ctx.reset d₁.ctxs o.ctx fun c =>
          ({ c with outstanding := c.outstanding.filter (· != .x o.rd) } : Ctx).putX o.rd r } }) ∧
      (o.gen ≠ d₁.tileGen t.val → exec (.setEngineOpDone t) s = .next { s with dev :=
        { d₁ with flt := { d₁.flt with staleReply := satInc d₁.flt.staleReply } } })) ∧
    (∀ b bs l code, x.vecq = b :: bs → x.vecRun = none → d₀.ctxLaunch b.ctx = some l →
      let v := code.foldl (d₀.vuStep t.val l b.stream)
        { regs := [], stores := [], flags := 0, ok := true, clear := false }
      let bad : Dev := (d₀.faults b.ctx l .aborted 0).modTile t.val fun z => { z with vecq := z.vecq.tail }
      (v.ok = true → l.inPages b.block (8 * code.length) = true →
        let flags := (if v.clear then 0 else (d₀.ctx b.ctx).vflags) ||| v.flags
        let ran := d₀.modTile t.val fun z => { z with vecRun := some (v.stores.reverse, flags) }
        exec (.vectorBlockStart t code) s = .next { s with dev := ran.drew (code.any VuInstr.draws) b.stream }) ∧
      (l.ph = .running → v.ok = false ∨ l.inPages b.block (8 * code.length) = false →
        exec (.vectorBlockStart t code) s = .next { s with dev := bad })) ∧
    (∀ b bs r, x.vecq = b :: bs → x.vecRun = some r →
      let d₁ := d₀.modTile t.val fun z =>
        { r.1.foldl (fun z w => z.write w.1 [w.2]) z with vecq := bs, vecRun := none }
      (b.gen = d₁.tileGen t.val → exec (.vectorBlockDone t) s = .next { s with dev :=
        { d₁ with ctxs := Tab.mod Ctx.reset d₁.ctxs b.ctx fun c =>
          ({ c with vflags := r.2, outstanding := c.outstanding.filter (· != .x b.rd) } : Ctx).putX b.rd b.token } }) ∧
      (b.gen ≠ d₁.tileGen t.val → exec (.vectorBlockDone t) s = .next { s with dev :=
        { d₁ with flt := { d₁.flt with staleReply := satInc d₁.flt.staleReply } } }))

/-- R164 and R172: a stack has 96 GiB, so a read beyond them stops with the fault noSuchMemory; R185: a stack in
EMERGENCY returns nothing. R180 and R181: a line whose error pattern the base die corrects counts in MEM_CE_COUNT;
an uncorrectable patrol read joins the base die's list; and a line that verifies changes nothing. R199: what the
decoder passes on wrongly alters the bytes of a CIPHER_ONLY line. R202: an uncorrectable unit is poisoned with
cause 0x02 and counts, and the request that waited for it is served UNCORRECTABLE; bytes of memory stay as they
were (R203). -/
def Obligations.LinesReturn : Prop :=
  ∀ (s : State) (hs : Stk) (sa : BitVec 37) (cs ts : List SymErr) (wr pw : Bool) (lv : Level) (fr : Option Nat),
    s.dev.running = true →
    let d₀ := s.dev
    let es := cs ++ ts
    let pa := physOf hs.val sa.toNat
    let canon := Tab.wf StackSt.reset d₀.mem.stk = true
    (stackSize ≤ sa.toNat → exec (.hbmLineRead hs sa wr pw cs ts lv fr) s = .fault .noSuchMemory ∧
      exec (.patrolRead hs sa es) s = .fault .noSuchMemory) ∧
    (sa.toNat < stackSize → (d₀.stack hs.val).therm = 2 →
      exec (.hbmLineRead hs sa wr pw cs ts lv fr) s = .next s ∧ exec (.patrolRead hs sa es) s = .next s) ∧
    (sa.toNat < stackSize → (d₀.stack hs.val).therm ≠ 2 →
      let x := rsDecode (d₀.laneErrors pa es)
      let counted (d : Dev) : Prop :=
        (d.stack hs.val).ce = satInc (d₀.stack hs.val).ce ∧ (∀ k, k ≠ hs.val → d.stack k = d₀.stack k) ∧
          d = { d₀ with
            mem := { d₀.mem with stk := d.mem.stk }, ev := d.ev, pins := d.pins, outbox := d.outbox }
      (x.ecc = .clean → x.flaw = 0 → exec (.patrolRead hs sa es) s = .next s) ∧
      (canon → x.ecc = .corrected → x.flaw = 0 →
        ∃ d, exec (.patrolRead hs sa es) s = .next { s with dev := d } ∧ counted d) ∧
      (x.ecc = .uncorrectable → pa / 64 ∉ d₀.mem.ueList →
        ∃ d, exec (.patrolRead hs sa es) s = .next { s with dev := d } ∧
          (Tab.get LogEntry.reset d.flt.log d₀.flt.logHead.toNat).type = 0x0E ∧ d.flt.logHead = d₀.flt.logHead + 1 ∧
          d = { d₀ with
            mem := { d₀.mem with ueList := pa / 64 :: d₀.mem.ueList },
            flt := { d₀.flt with log := d.flt.log, logHead := d.flt.logHead, wrapped := d.flt.wrapped } }) ∧
      (∀ f r ra rg pu, d₀.findPa pa = some (f, r, ra, rg) → rg.metaLineAt ra = none → ra < rg.dataBytes →
        let u := ra / rg.unit * rg.unit
        let k := unitKey rg.unit pu
        let y := rsDecode (d₀.laneErrors pu es)
        let read := exec (.hbmLineRead hs sa wr pw cs ts .unit fr) s
        d₀.phys f r u = some pu → d₀.quarantined f r u = false → (d₀.causeAt f r u k = 0 ∨ rg.mode = 2) →
        (y.ecc = .clean → y.flaw = 0 → d₀.unitFails f r rg u pu = false → read = .next s) ∧
        (y.ecc = .clean → rg.mode = 2 → Tab.wf none d₀.mem.hbm = true →
          ∃ d, read = .next { s with dev := d } ∧ d = { d₀ with mem := { d₀.mem with hbm := d.mem.hbm } } ∧
            ∀ a, Tab.get none d.mem.hbm a = if a / 64 = pu / 64 then
                (Tab.get none d₀.mem.hbm a).map (· ^^^ y.flaw.extractLsb' (8 * (a % 64)) 8)
              else Tab.get none d₀.mem.hbm a) ∧
        (canon → Tab.wf McxFrame.reset d₀.mem.frames = true → y.ecc = .uncorrectable → rg.mode ≠ 2 →
          ∃ d, read = .next { s with dev := d } ∧
            (d.unitMeta k).cause = 2 ∧ (∀ j, j ≠ k → d.unitMeta j = d₀.unitMeta j) ∧
            (d.frame f).ue = satInc (d₀.frame f).ue ∧ (r < 2048 → (d.frame f).errInfo.getLsbD 31 = true) ∧
            (d.stack (stackOf pu)).ue = satInc (d₀.stack (stackOf pu)).ue ∧
            (∀ id, fr = some id → (∃ x ∈ d₀.mem.reqs, x.id = id ∧ x.served = false) →
              ∀ x ∈ d.mem.reqs, x.id = id → x.served = true ∧ x.status = .uncorrectable) ∧
            d.mem.hbm = d₀.mem.hbm ∧ d.mem.cache = d₀.mem.cache ∧
            d = { d₀ with mem := d.mem, ev := d.ev, pins := d.pins, outbox := d.outbox })))

/-- R202 and R206 under CONTAIN: a unit whose MAC fails is poisoned with cause 0x01, MCX_STATUS.CONTAINED is set
for its clearing, whose ACTIVE state becomes CONTAINED and whose commands leave their queues; the other
clearings and every byte of memory stay as they were. -/
def Obligations.TamperContains : Prop :=
  ∀ (s : State) (hs : Stk) (sa : BitVec 37) (cs ts : List SymErr) (wr pw : Bool) (fr : Option Nat) (f r ra pu : Nat)
      (rg : PlanRegion),
    s.dev.running = true → sa.toNat < stackSize →
    let d₀ := s.dev
    let u := ra / rg.unit * rg.unit
    let k := unitKey rg.unit pu
    let y := rsDecode (d₀.laneErrors pu (cs ++ ts))
    (d₀.stack hs.val).therm ≠ 2 → d₀.findPa (physOf hs.val sa.toNat) = some (f, r, ra, rg) →
    rg.metaLineAt ra = none → ra < rg.dataBytes → d₀.phys f r u = some pu → y.ecc = .clean → y.flaw = 0 →
    d₀.unitFails f r rg u pu = true → f < 16 → rg.mode ≠ 2 → d₀.quarantined f r u = false →
    d₀.causeAt f r u k = 0 → d₀.lockdownPolicy = false →
    Tab.wf McxFrame.reset d₀.mem.frames = true → Tab.wf Clearing.reset d₀.clrs = true →
    ∃ d, exec (.hbmLineRead hs sa wr pw cs ts .unit fr) s = .next { s with dev := d } ∧
      (d.unitMeta k).cause = 1 ∧ (∀ j, j ≠ k → d.unitMeta j = d₀.unitMeta j) ∧
      (d.frame f).contained = true ∧ (d.frame f).tamper = satInc (d₀.frame f).tamper ∧
      (d.ev.get .mcx).ev.getLsbD 0 = true ∧
      ((d₀.clr f).st = .active → (d.clr f).st = .contained) ∧ (∀ n, n ≠ f → d.clr n = d₀.clr n) ∧
      d.mem.hbm = d₀.mem.hbm ∧ d.plan = d₀.plan ∧ d.sec = d₀.sec ∧ d.lcs = d₀.lcs ∧ d.tide = d₀.tide

/-- R183, R185 and R186: a sample moves its stack between NORMAL, DERATED and EMERGENCY; at the cliff every
ACTIVE clearing halts and the device counts as failed; at 105 °C THERM_TRIP_N is asserted, stage 1 turns off and
the device runs no further. A derating changes no byte of memory. -/
def Obligations.StackTemperatures : Prop :=
  ∀ (s : State) (k : Stk) (temp : BitVec 8), s.dev.running = true → Tab.wf StackSt.reset s.dev.mem.stk = true →
    let d₀ := s.dev
    let x := d₀.stack k.val
    let peak := if x.tempMax.toNat < temp.toNat then temp else x.tempMax
    (x.therm = 0 → temp.toNat ≤ 85 →
      let d₁ := d₀.modStack k.val fun y => { y with tempNow := temp, tempMax := peak, below := 0 }
      exec (.stackTempSample k temp) s = .next { s with dev := d₁ }) ∧
    (x.therm = 0 → 85 < temp.toNat → temp.toNat < 95 →
      ∃ d, exec (.stackTempSample k temp) s = .next { s with dev := d } ∧
        d.stack k.val = { x with tempNow := temp, tempMax := peak, therm := 1, below := 0 } ∧
        (d.ev.get .mem).ev.getLsbD 2 = true ∧
        d = { d₀ with
          mem := { d₀.mem with stk := d.mem.stk }, ev := d.ev, pins := d.pins, outbox := d.outbox }) ∧
    (x.therm = 1 → temp.toNat < 82 → 99 ≤ x.below →
      ∃ d, exec (.stackTempSample k temp) s = .next { s with dev := d } ∧ (d.stack k.val).therm = 0 ∧
        (d.ev.get .mem).ev.getLsbD 3 = true ∧ d.mem.hbm = d₀.mem.hbm) ∧
    (x.therm ≠ 2 → 95 ≤ temp.toNat →
      ∃ d, exec (.stackTempSample k temp) s = .next { s with dev := d } ∧ (d.stack k.val).therm = 2 ∧
        d.flt.cliff = true ∧ d.failed = true ∧ (d.ev.get .mem).ev.getLsbD 4 = true ∧
        (∀ n, n < 16 → (d₀.clr n).st = .active → (d.clr n).st = .halted) ∧ d.mem.hbm = d₀.mem.hbm ∧
        (105 ≤ temp.toNat → d.pins.thermTrip = true ∧ d.pwr.stage1 = false ∧ d.running = false) ∧
        (temp.toNat < 105 → d.pins.thermTrip = d₀.pins.thermTrip ∧ d.pwr = d₀.pwr))

/-- R198: a renewal of a SEALED_EPOCH or CIPHER_ONLY region is held from its request and taken at the mark after
it, once, and a request for a SEALED_FULL region is discarded. R218 and R219: a due swap brings in the shadow key
under the next GEN, the pair of a clearing together, whose KG flips and whose rekey sweep starts (R200); while a
sweep runs or a clearing of the slot is RESETTING it waits, and a plan due at the same mark applies first; while a
clearing of the slot is fenced or contained it is cancelled and its shadow destroyed. At the sweep's end the old
keys are gone and REKEY_DONE is raised, and a replacement that waited for it is placed (R220). -/
def Obligations.KeysRenew : Prop :=
  ∀ (s : State) (slot : SlotId) (n : Clr) (reg : BitVec 11), s.dev.running = true →
    let d₀ := s.dev
    let key := 2048 * n.val + reg.toNat
    let x := d₀.slot slot.toNat
    let y := d₀.region key
    (∀ rg, d₀.planRegion n.val reg.toNat = some rg →
      (rg.mode ≠ 0 → y.renew = false → exec (.mcxEpochRenew (BitVec.ofNat 5 n.val) reg) s =
        .next { s with dev := d₀.modRegion key fun y => { y with renew := true, renewAt := d₀.tide.count } }) ∧
      (rg.mode = 0 → exec (.mcxEpochRenew (BitVec.ofNat 5 n.val) reg) s = .next s) ∧
      (y.renew = true → y.renewAt ≠ d₀.tide.count → rg.mode ≠ 2 →
        exec (.epochRenewal (Fin.ofNat 17 n.val) reg) s =
          .next { s with dev := d₀.modRegion key fun y => { y with renew := false, epoch := y.epoch + 1 } })) ∧
    (y.renew = false ∨ y.renewAt = d₀.tide.count → exec (.epochRenewal (Fin.ofNat 17 n.val) reg) s = .next s) ∧
    (d₀.plan.due = true → exec (.keySwap slot) s = .next s) ∧
    (d₀.swapDue slot.toNat = true → d₀.plan.due = false →
      let gone (n : Nat) : Prop := (d₀.frame n).contained = true ∨ (d₀.clr n).st = .fenced ∨ (d₀.clr n).fencing = true
      (∀ sh, d₀.pairOf slot.toNat = none → x.shadow = some sh →
        ((∃ m ∈ d₀.slotClearings slot.toNat, gone m) → Tab.wf Slot.reset d₀.sec.slots = true →
          ∃ d, exec (.keySwap slot) s = .next { s with dev := d } ∧
            d.slot slot.toNat = { x with shadow := none, swapPos := none } ∧
            (∀ j, j ≠ slot.toNat → d.slot j = d₀.slot j) ∧ (d.ev.get .sec).ev.getLsbD 3 = true) ∧
        ((∀ m ∈ d₀.slotClearings slot.toNat, ¬ gone m) →
          ((∃ m ∈ d₀.slotClearings slot.toNat, (d₀.clr m).st = .resetting) → exec (.keySwap slot) s = .next s) ∧
          ((∀ m ∈ d₀.slotClearings slot.toNat, (d₀.clr m).st ≠ .resetting) →
            ∃ d, exec (.keySwap slot) s = .next { s with dev := d } ∧
              d.slot slot.toNat = { x with
                key := sh.key, kcv := sh.kcv, attr := sh.attr, owner := sh.owner, mask := sh.mask,
                source := sh.source, bundleOk := sh.bundleOk, gen := x.gen + 1, shadow := none, swapPos := none,
                outgoing := false } ∧
              (∀ j, j ≠ slot.toNat → d.slot j = d₀.slot j) ∧ (d.ev.get .sec).ev.getLsbD 2 = true ∧
              d = { d₀ with
                sec := { d₀.sec with slots := d.sec.slots }, clrs := d.clrs, ev := d.ev, pins := d.pins,
                outbox := d.outbox }))) ∧
      (d₀.pairOf slot.toNat = some n.val → ¬ gone n.val →
        ((d₀.frame n.val).rekey = true ∨ (d₀.clr n.val).st = .resetting → exec (.keySwap slot) s = .next s) ∧
        ((d₀.clr n.val).st ≠ .resetting → (d₀.pairSlots n.val).all d₀.swapDue = true →
          (d₀.pairSlots n.val).Nodup → (d₀.frame n.val).rekey = false →
          ∃ d, exec (.keySwap slot) s = .next { s with dev := d } ∧
            d.frame n.val = { d₀.frame n.val with
              kg := !(d₀.frame n.val).kg, rekey := true, sweepPos := 0, sweepRegion := 0 } ∧
            (∀ j ∈ d₀.pairSlots n.val, ∀ sh, (d₀.slot j).shadow = some sh →
              (d.slot j).key = sh.key ∧ (d.slot j).gen = (d₀.slot j).gen + 1 ∧ (d.slot j).swapPos = none ∧
              (d.slot j).outgoing = true ∧ (d.slot j).shadow.map (·.key) = some (d₀.slot j).key) ∧
            (∀ j, j ∉ d₀.pairSlots n.val → d.slot j = d₀.slot j) ∧ (d.ev.get .sec).ev.getLsbD 2 = true))) ∧
    ((d₀.frame n.val).rekey = true → Tab.wf McxFrame.reset d₀.mem.frames = true →
      Tab.wf Slot.reset d₀.sec.slots = true → d₀.lockdownPolicy = false →
      ∃ d, exec (.rekeySweepDone n) s = .next { s with dev := d } ∧
        (d.frame n.val).rekey = false ∧ (d.frame n.val).sweepPos = 0 ∧
        (d.frame n.val).kg = (d₀.frame n.val).kg ∧
        (∀ j ∈ d₀.pairSlots n.val, (d₀.frame n.val).rekeyWaits = false → (d₀.slot j).outgoing = true →
          d.slot j = { d₀.slot j with shadow := none, outgoing := false }) ∧
        (∀ j ∈ d₀.pairSlots n.val, (d₀.frame n.val).rekeyWaits = true → d₀.sec.trngFail = false →
          (∀ i ∈ d₀.pairSlots n.val, (d₀.slot i).outgoing = true) → (d₀.pairSlots n.val).length = 2 →
          (d.slot j).shadow.isSome = true ∧ (d.slot j).swapPos = some d₀.tide.pos) ∧
        (∀ j, j ∉ d₀.pairSlots n.val → d.slot j = d₀.slot j) ∧ (d.ev.get .mcx).ev.getLsbD 4 = true ∧
        d.mem.hbm = d₀.mem.hbm)

/-- R205: an integrity repair whose copies are current ends once the rekey has, and lifts the quarantine; one
without halts its clearing. R207: a scrub's key erasure waits until no access is in flight and leaves nothing of
the old contents; its overwrite waits for the new pair's keys; at its end the clearing serves its new owner, or
none, and a granule that has entered another clearing keeps what that one wrote. -/
def Obligations.ScrubAndRepair : Prop :=
  ∀ (s : State) (n : Clr), s.dev.running = true →
    let d₀ := s.dev
    let x := d₀.frame n.val
    let here := (d₀.planClr n.val).isSome
    Tab.wf McxFrame.reset d₀.mem.frames = true → Tab.wf Clearing.reset d₀.clrs = true →
    (x.repair = true →
      (d₀.copiesCurrent n.val = true → x.rekey = true → exec (.integrityRepairDone n true) s = .next s) ∧
      (d₀.copiesCurrent n.val = true → x.rekey = false → x.rekeyWaits = false →
        (∀ j ∈ d₀.pairSlots n.val, (d₀.slot j).swapPos = none) →
        ∃ d, exec (.integrityRepairDone n true) s = .next { s with dev := d } ∧
          (d.frame n.val).repair = false ∧ (d.frame n.val).quarantine = [] ∧
          (d.ev.get .mcx).ev.getLsbD 6 = true ∧ d.mem.hbm = d₀.mem.hbm ∧ d.clrs = d₀.clrs ∧ d.host = d₀.host) ∧
      (∀ ok : Bool, ok = false ∨ d₀.copiesCurrent n.val = false →
        ∃ d, exec (.integrityRepairDone n ok) s = .next { s with dev := d } ∧ ((d₀.clr n.val).st = .active → (d.clr n.val).st = .halted) ∧ (d.ev.get .flt).ev.getLsbD 5 = true ∧
        d.mem.frames = d₀.mem.frames ∧ d.mem.hbm = d₀.mem.hbm ∧ d.sec = d₀.sec)) ∧
    (x.scrub = true →
      (x.erased = false →
        ((∃ r ∈ d₀.mem.reqs, r.served = false ∧ r.clearing = n.val) → exec (.scrubKeyErase n) s = .next s) ∧
        ((∀ r ∈ d₀.mem.reqs, r.served = true ∨ r.clearing ≠ n.val) →
          ∃ d, exec (.scrubKeyErase n) s = .next { s with dev := d } ∧
            (d.frame n.val) = { x with erased := true } ∧
            (∀ a, Tab.get none d.mem.hbm a =
              if a / 2 ^ 30 ∈ (d₀.clr n.val).scrubGs then none else Tab.get none d₀.mem.hbm a) ∧
            (∀ j, j < 16 → d.slot j = d₀.slot j) ∧ d.tiles = d₀.tiles ∧ d.host = d₀.host ∧ d.plan = d₀.plan)) ∧
      (x.erased = true → x.overwriting = false →
        let held := d₀.modFrame n.val fun y => { y with waitKeys := true }
        let runs := d₀.modFrame n.val fun y => { y with waitKeys := false, overwriting := true }
        (here = true → d₀.pairLoaded n.val = false →
          exec (.scrubOverwriteStart n) s = .next { s with dev := held }) ∧
        (here = false ∨ d₀.pairLoaded n.val = true →
          exec (.scrubOverwriteStart n) s = .next { s with dev := runs })) ∧
      (x.overwriting = true →
        ∃ d, exec (.scrubDone n) s = .next { s with dev := d } ∧ d.frame n.val = McxFrame.reset ∧
          (d.clr n.val).st = (if here then d₀.openState else .absent) ∧
          (∀ a, a / 2 ^ 30 ∈ (d₀.clr n.val).scrubGs → d₀.enteredOther n.val (a / 2 ^ 30) = false →
            Tab.get none d.mem.hbm a = none) ∧
          (∀ t ∈ (d₀.clr n.val).scrubTiles ++ d₀.tilesOf n.val, Tab.wf TileSt.reset d₀.tiles = true →
            d.tile t = { TileSt.reset with gen := (d₀.tile t).gen }) ∧
          (d.ev.get .mcx).ev.getLsbD 5 = true ∧ d.sec = d₀.sec ∧ d.host = d₀.host ∧ d.lcs = d₀.lcs))

/-- R242: the core serves one request at a time. A doorbell while it is busy raises OVERRUN and does nothing
else; a request of a Scrapped device answers LIFECYCLE (R369); a Device Set request outside Fielded does too
(R362). A request that is accepted leaves its TAG with its response. When it completes the response stands in the
window, SEC_RESULT shows it and DONE is raised; the SPDM requests that came meanwhile follow (R239). R234: a quote carries the nonce and the state of this instant under the IDS key; R240, R241: an image is staged
where its signature, tag and hash fit and its SVN is not below FUSE_SVN, and activated. An
FW_COMMIT that has nothing to burn answers OK, and one that has begins its record. -/
def Obligations.MailboxServes : Prop :=
  ∀ (s : State) (nonce : B256) (img : FwImage) (o : RotationOrder), s.dev.running = true →
    let d := s.dev
    let out (x : Dev) : Host.Outcome State Fault Refusal := .next { s with dev := x }
    let answers (x : Dev) (code : BitVec 16) (res : SecRes) (body : SecBody) : Dev :=
      { x with sec :=
        { x.sec with
          rspValid := false, tag := Tab.get 0 x.sec.req 1, job := some { code := code, res := res, body := body } } }
    let fw := d.sec.fw
    let putFw (f : FwState) : Dev := { d with sec := { d.sec with fw := f } }
    (d.sec.job.isSome = true →
      (∀ c ∈ [Instr.getQuote nonce, .getCerts, .setRotate o, .setRetire, .fwStage img, .fwActivate, .fwCommit],
        exec c s = out (d.raise .sec 1)) ∧
      ∀ j, d.sec.job = some j → j.code ≠ 0x0032 → exec .mailboxRequestDone s = out
        (({ d with sec :=
          { d.sec with
            job := none, rsp := some j, rspValid := true, result := BitVec.ofNat 8 (SecRes.code j.res),
            code := j.code } } : Dev).raise .sec 0).spdmWaiting) ∧
    (d.sec.job = none →
      (d.lcs.st = .scrapped →
        exec (.getQuote nonce) s = out (answers d 0x0001 .lifecycle .empty) ∧
        exec (.fwStage img) s = out (answers d 0x0030 .lifecycle .empty)) ∧
      (d.lcs.st ≠ .fielded →
        exec (.setRotate o) s = out (answers d 0x0013 .lifecycle .empty) ∧
        exec .setRetire s = out (answers d 0x0014 .lifecycle .empty)) ∧
      (d.lcs.st ≠ .scrapped →
        (∃ (q : Quote) (sig : B256 × B256), exec (.getQuote nonce) s = out (answers
            { d with
              sec := { d.sec with nonces := ((nonce, d.timeUs) :: d.sec.nonces).take 8 }, free := d.free + 1 }
            0x0001 .ok (.quote q sig)) ∧
          q.nonce = nonce ∧ q.identity = d.identity ∧ q.tidePos = d.tide.pos ∧ q.addr = d.addr ∧
          q.entries.length = 16 ∧ sig = Config.sm2Sign d.ids d.free (Config.sm3 q.bytes)) ∧
        exec .getCerts s = out (answers d 0x0002 .ok (.certs d.orderingCode)) ∧
        (FwImage.wellLaid img = false → exec (.fwStage img) s = out (answers d 0x0030 .malformed .empty)) ∧
        (FwImage.wellLaid img = true → exec (.fwStage img) s = out (
          if FwImage.verifies img = false then answers d 0x0030 .badSignature .empty
          else if img.svn.toNat < d.fuseSvn.toNat then answers d 0x0030 .rollback .empty
          else answers (putFw { fw with
            staged := some { target := img.target, svn := img.svn, hash := img.hash }, activated := false })
            0x0030 .ok .empty)) ∧
        (fw.staged.isSome = true →
          exec .fwActivate s = out (answers (putFw { fw with activated := true }) 0x0031 .ok .empty)) ∧
        (fw.staged = none → exec .fwActivate s = out (answers d 0x0031 .denied .empty)) ∧
        (d.fwSvn.toNat ≤ d.fuseSvn.toNat → exec .fwCommit s = out (answers d 0x0032 .ok .empty)) ∧
        (d.fuseSvn.toNat < d.fwSvn.toNat → fw.commits.length < 16 → d.lcs.burning = false →
          exec .fwCommit s =
            out (answers (putFw { fw with commits := fw.commits ++ [(d.fwSvn, false)] }) 0x0032 .ok .empty))))

/-- R213, R230–R233, R242, R218 and R219 at the requests that name keys: a load puts each key into its empty
slot under the next GEN, or into its loaded slot's shadow; a swap, a cancel and a destruction act on the named
slots alone; a system slot or a stale GEN changes nothing. A bundle is read from its bytes: its header, the tag
under the set key of its epoch, then its entries; and MAKE_BUNDLE answers one sealed under the current set key. -/
def Obligations.KeyRequests : Prop :=
  ∀ (s : State) (rs : List SlotRef) (pos : BitVec 64) (id : BitVec 16) (bytes : List Byte) (r : Release)
    (m : SetMember),
    s.dev.running = true → s.dev.sec.job = none → s.dev.lcs.st ≠ .scrapped →
    let d₀ := s.dev
    let named (n : Nat) : Prop := ∃ x ∈ rs, x.slot.val = n
    let done (d : Dev) (code : BitVec 16) (res : SecRes) : Prop :=
      d.sec.job = some { code := code, res := res, body := .empty } ∧ d.sec.rspValid = false ∧
        d.sec.tag = Tab.get 0 d₀.sec.req 1 ∧
        d = { d₀ with
          sec := { d₀.sec with slots := d.sec.slots, tag := d.sec.tag, job := d.sec.job, rspValid := false }, clrs := d.clrs,
          mem := { d₀.mem with frames := d.mem.frames }, ev := d.ev, pins := d.pins, outbox := d.outbox }
    let behind (source : BitVec 2) (e : KeyEntry) : Shadow :=
      { key := e.key, kcv := e.kcv, attr := e.attr, owner := e.owner, mask := e.mask, source := source,
        bundleOk := e.bundleOk }
    let answers (x : Dev) (code : BitVec 16) (res : SecRes) (body : SecBody) : Host.Outcome State Fault Refusal :=
      .next { s with dev := { x with sec :=
        { x.sec with rspValid := false, tag := Tab.get 0 x.sec.req 1, job := some (SecJob.mk code res body) } } }
    let loads (d : Dev) (source : BitVec 2) (policy : Byte) (bundle : BitVec 16) (es : List KeyEntry) : Prop :=
      (∀ e ∈ es, d.slot e.slot.val = if (d₀.slot e.slot.val).loaded then
          { d₀.slot e.slot.val with shadow := some (behind source e) }
        else
          { Slot.reset with
            loaded := true, key := e.key, attr := e.attr, owner := e.owner, mask := e.mask,
            gen := (d₀.slot e.slot.val).gen + 1, source := source, kcv := e.kcv, bundleOk := e.bundleOk,
            held := (d₀.placeFor policy bundle e).getD false }) ∧
      ∀ n, (∀ e ∈ es, e.slot.val ≠ n) → d.slot n = d₀.slot n
    let fits (policy : Byte) (bundle : BitVec 16) (e : KeyEntry) : Prop :=
      (d₀.placeFor policy bundle e).isSome = true ∧ kcvOf e.key e.keyLen = e.kcv ∧
        (d₀.slot e.slot.val).shadow = none
    let b := d₀.openBundle bytes
    let refused (res : SecRes) : Prop := exec (.loadBundle bytes) s = answers d₀ 0x0020 res .empty
    (d₀.sec.member = none → refused .notMember) ∧
    (d₀.sec.member = some m →
      (b.wellLaid = false → refused .malformed) ∧
      (b.wellLaid = true → b.setId ≠ m.setId → refused .denied) ∧
      (b.wellLaid = true → b.setId = m.setId → b.setEpoch.toNat + 1 < m.epoch.toNat → refused .stale) ∧
      (b.wellLaid = true → b.setId = m.setId → b.setEpoch = m.epoch → b.tagOk = false → refused .badSignature) ∧
      (∀ es, b.wellLaid = true → b.setId = m.setId → b.setEpoch = m.epoch → b.tagOk = true →
        b.entries = some es → entriesLaid es = true →
        ((∀ e ∈ es, fits 0 b.bundleId e) →
          ∃ d, exec (.loadBundle bytes) s = .next { s with dev := d } ∧ done d 0x0020 .ok ∧
            loads d 1 0 b.bundleId es) ∧
        ((∀ e ∈ es, (d₀.placeFor 0 b.bundleId e).isSome = true) →
          (∃ e ∈ es, kcvOf e.key e.keyLen ≠ e.kcv) → refused .kcvMismatch))) ∧
    (r.wellLaid = true → entriesLaid r.entries = true → r.sigOk = true → d₀.releaseKeyOk r.owner r.sigKey = true →
      d₀.nonceFresh r.nonce = true → r.addr = d₀.addr → r.identity = d₀.identity →
      (∀ e ∈ r.entries, e.owner = r.owner ∧ fits 1 0 e) →
      ∃ d, exec (.loadReleased r) s = .next { s with dev := d } ∧ done d 0x0021 .ok ∧ loads d 2 1 0 r.entries) ∧
    (rs ≠ [] → (∃ x ∈ rs, x.slot.val < 16) →
      ∀ p ∈ [(Instr.swap rs pos, (0x0023 : BitVec 16)), (.cancelSwap rs, 0x0024), (.destroy rs, 0x0025)],
        exec p.1 s = answers d₀ p.2 .denied .empty) ∧
    (rs ≠ [] → (∀ x ∈ rs, 16 ≤ x.slot.val) → (∃ x ∈ rs, (d₀.slot x.slot.val).gen ≠ x.gen) →
      ∀ p ∈ [(Instr.swap rs pos, (0x0023 : BitVec 16)), (.cancelSwap rs, 0x0024), (.destroy rs, 0x0025)],
        exec p.1 s = answers d₀ p.2 .stale .empty) ∧
    (rs ≠ [] → (∀ x ∈ rs, 16 ≤ x.slot.val ∧ (d₀.slot x.slot.val).gen = x.gen) →
      Tab.wf Slot.reset d₀.sec.slots = true →
      (∃ d, exec (.destroy rs) s = .next { s with dev := d } ∧ done d 0x0025 .ok ∧
        (∀ n, named n → d.slot n = { Slot.reset with gen := (d₀.slot n).gen }) ∧
        ∀ n, ¬ named n → d.slot n = d₀.slot n) ∧
      (d₀.halfPair (rs.map (·.slot.val)) = false →
        ((∀ n, named n → (d₀.slot n).swapPos = none ∧ (d₀.slot n).outgoing = false ∧ (d₀.slot n).shadow.isSome = true) →
          (d₀.tide.pos.toNat < pos.toNat →
            ∃ d, exec (.swap rs pos) s = .next { s with dev := d } ∧ done d 0x0023 .ok ∧
              (∀ n, named n → d.slot n = { d₀.slot n with swapPos := some pos }) ∧
              ∀ n, ¬ named n → d.slot n = d₀.slot n) ∧
          (pos.toNat ≤ d₀.tide.pos.toNat →
            ∃ d, exec (.swap rs pos) s = .next { s with dev := d } ∧ done d 0x0023 .tooLate ∧
              d.sec.slots = d₀.sec.slots)) ∧
        ((∀ n, named n → (d₀.slot n).swapPos.isSome = true) →
          ∃ d, exec (.cancelSwap rs) s = .next { s with dev := d } ∧ done d 0x0024 .ok ∧
            (∀ n, named n → d.slot n = { d₀.slot n with swapPos := none }) ∧
            (∀ n, ¬ named n → d.slot n = d₀.slot n) ∧ (d.ev.get .sec).ev.getLsbD 3 = true)) ∧
      (d₀.sec.member = some m → rs.length ≤ 32 → (rs.map (·.slot.val)).Nodup →
        (∀ n, named n → (d₀.slot n).loaded = true ∧
          ((d₀.slot n).source = 1 ∨ ((d₀.slot n).source = 2 ∧ (d₀.slot n).bundleOk = true))) →
        let header := bundleHeader rs.length m.setId m.epoch id (strBytes d₀.random 12)
        let entries := rs.flatMap fun x => entryBytes x.slot.val (d₀.slot x.slot.val)
        exec (.makeBundle id rs) s = answers d₀.tick 0x0022 .ok
          (.bundle id m.epoch (rs.map (·.slot)) (sealBundle (d₀.slot 0).key header entries))))

/-- R224–R227 on a Fielded device: founding a set draws its key at epoch 1; a member admits a candidate that
passes every row of R225, and names the first row that fails; joining and rotating bring in the new epoch's key
in slot 0x00, keep the previous one in slot 0x01 and derive the other system slots from the new key (the reserve's
pair where it holds none); retiring destroys the previous epoch's. The content slots stay. -/
def Obligations.SetRequests : Prop :=
  ∀ (s : State) (root : B256) (p : SetPolicy) (addr : BitVec 20) (c : Candidate) (b : AdmissionBlob)
    (o : RotationOrder) (m : SetMember), s.dev.running = true → s.dev.sec.job = none → s.dev.lcs.st = .fielded →
    let d₀ := s.dev
    let joined (d : Dev) (code : BitVec 16) (key : B256) (x : SetMember) : Prop :=
      d.sec.job = some { code := code, res := .ok, body := .empty } ∧ d.sec.member = some x ∧
        (d.slot 0).loaded = true ∧ (d.slot 0).key = key ∧ (d.slot 0).source = 3 ∧
        ((d₀.slot 0).loaded = true → (d.slot 1).loaded = true ∧ (d.slot 1).key = (d₀.slot 0).key) ∧
        (∀ n, n = 2 ∨ (5 ≤ n ∧ n < 16) → (d.slot n).loaded = true ∧ (d.slot n).key = derived key n) ∧
        (∀ n, n = 3 ∨ n = 4 → (d.slot n).loaded = true ∧ ((d₀.slot n).loaded = true → d.slot n = d₀.slot n)) ∧
        (∀ n, 16 ≤ n → d.slot n = d₀.slot n) ∧ (d.ev.get .sec).ev.getLsbD 5 = true ∧
        d = { d₀ with sec := d.sec, free := d.free, ev := d.ev, pins := d.pins, outbox := d.outbox }
    let fails := d₀.admissionFails m c
    let answers (x : Dev) (res : SecRes) (body : SecBody) : Host.Outcome State Fault Refusal :=
      .next { s with dev := { x with sec :=
        { x.sec with rspValid := false, tag := Tab.get 0 x.sec.req 1, job := some (SecJob.mk 0x0011 res body) } } }
    (p.verifies = true → d₀.sec.member = none → d₀.plan.active = none → p.setId ≠ 0 → d₀.sec.trngFail = false →
      ∃ d, exec (.setFound root p addr) s = .next { s with dev := d } ∧ joined d 0x0010 (Config.trng d₀.free)
        { setId := p.setId, epoch := 1, addr := addr, root := root, policy := p, origin := none }) ∧
    (d₀.sec.member = none → b.opens = true → b.sigOk = true → b.policy.verifies = true →
      (b.order = none → b.epoch = 1) →
      (∀ r, b.order = some r → r.sigOk = true ∧ r.setId = b.policy.setId ∧ r.epoch = b.epoch) →
      ∃ d, exec (.setJoin b) s = .next { s with dev := d } ∧ joined d 0x0012 b.setKey
        { setId := b.policy.setId, epoch := b.epoch, addr := b.addr, root := b.root, policy := b.policy,
          origin := b.order.map (·.origin) }) ∧
    (d₀.sec.member = some m →
      (fails = [] → exec (.setAdmit c addr) s = answers d₀.tick .ok
        (.admission addr m.epoch (d₀.admissionBlob m c.ide addr) (m.origin.map fun o =>
          { setId := m.setId, epoch := m.epoch, origin := o, sigOk := true }))) ∧
      (∀ row rows, fails = row :: rows → exec (.setAdmit c addr) s = answers d₀ .denied (.deniedRow row)) ∧
      (o.sigOk = true → o.setId = m.setId → o.origin = m.addr → o.epoch = m.epoch + 1 → d₀.sec.trngFail = false →
        ∃ d, exec (.setRotate o) s = .next { s with dev := d } ∧
          joined d 0x0013 (Config.trng d₀.free) { m with epoch := o.epoch, origin := some o.origin }) ∧
      (Tab.wf Slot.reset d₀.sec.slots = true → ∃ d, exec .setRetire s = .next { s with dev := d } ∧
        d.sec.job = some { code := 0x0014, res := .ok, body := .empty } ∧
        ((d₀.slot 1).loaded = true → d.slot 1 = { Slot.reset with gen := (d₀.slot 1).gen }) ∧
        (∀ n, n ≠ 1 → d.slot n = d₀.slot n) ∧ d.sec.member = d₀.sec.member ∧ d.host = d₀.host ∧ d.mem = d₀.mem)) ∧
    (d₀.sec.member = none → exec (.setAdmit c addr) s = answers d₀ .notMember .empty)

/-- R238 and R239: the responder's answers, in SPDM's own order (the model's choice, log entry 60): only what it
drives and the session's state change, and a request that comes too early is answered ERROR. While the core serves
a mailbox request an SPDM request waits for it. R211: a Scrapped device answers LIFECYCLE. The measurements are the
quote's fields; the challenge, signed measurements and the key exchange are signed under IDS over the transcript. -/
def Obligations.SpdmAnswers : Prop :=
  ∀ (s : State) (nonce : B256) (index : Byte) (signed : Bool) (data mac : List Byte), s.dev.running = true →
    let d := s.dev
    let x := d.spdm
    let tells (r : SpdmResp) (y : Spdm) (n : Nat) : Host.Outcome State Fault Refusal := .next { s with dev := { d with
      spdm := y, free := d.free + n, outbox := d.outbox ++ [.spdm r] } }
    let h := strBytes (Config.sm3 d.chain) 32
    let all : List (Instr × SpdmReq) :=
      [(.getVersion, .getVersion), (.getCapabilities, .getCapabilities),
        (.negotiateAlgorithms true true true, .negotiateAlgorithms true true true), (.getDigests, .getDigests),
        (.getCertificate 0, .getCertificate 0), (.spdmChallenge nonce, .challenge nonce),
        (.getMeasurements index nonce signed, .getMeasurements index nonce signed),
        (.keyExchange true data, .keyExchange true data), (.finish mac, .finish mac), (.heartbeat, .heartbeat),
        (.keyUpdate, .keyUpdate), (.endSession, .endSession)]
    (d.sec.job.isSome = true →
      ∀ c ∈ all, exec c.1 s = .next { s with dev := { d with spdm := { x with waiting := x.waiting ++ [c.2] } } }) ∧
    (d.sec.job = none → d.lcs.st = .scrapped → ∀ c ∈ all, exec c.1 s = tells .lifecycle x 0) ∧
    (d.sec.job = none → d.lcs.st ≠ .scrapped →
      exec .getVersion s = tells (.version 0x13) { Spdm.reset with
        version := true, keyGen := x.keyGen, logA := SpdmReq.bytes .getVersion ++ spdmRsp 0x04 [[0x13]],
        waiting := x.waiting } 0 ∧
      (x.version = true → exec .getCapabilities s = tells .capabilities { x with
        caps := true, logA := x.logA ++ SpdmReq.bytes .getCapabilities ++ spdmRsp 0x61 [] } 0) ∧
      (x.version = false → exec .getCapabilities s = tells .error x 0) ∧
      (x.caps = true → exec (.negotiateAlgorithms true true true) s = tells .algorithms { x with
        algs := true,
        logA := x.logA ++ SpdmReq.bytes (.negotiateAlgorithms true true true) ++ spdmRsp 0x63 [] } 0) ∧
      exec (.negotiateAlgorithms false false false) s = tells .error x 0 ∧
      (x.algs = false → ∀ c ∈ all, c.2 = .getDigests ∨ c.2 = .getCertificate 0 ∨ c.2 = .challenge nonce ∨
        c.2 = .getMeasurements index nonce signed ∨ c.2 = .keyExchange true data → exec c.1 s = tells .error x 0) ∧
      (x.algs = true →
        exec .getDigests s = tells (.digests (Config.sm3 d.chain))
          { x with logB := x.logB ++ SpdmReq.bytes .getDigests ++ spdmRsp 0x01 [h] } 0 ∧
        exec (.getCertificate 0) s = tells (.certificate d.chain)
          { x with logB := x.logB ++ SpdmReq.bytes (.getCertificate 0) ++ spdmRsp 0x02 [d.chain] } 0 ∧
        exec (.getCertificate 1) s = tells .error x 0 ∧
        exec (.spdmChallenge nonce) s = tells (.challengeAuth nonce
          (d.spdmSign "responder-challenge_auth signing" (x.logA ++ x.logB ++ SpdmReq.bytes (.challenge nonce) ++
            spdmRsp 0x03 [h, strBytes d.random 32]))) { x with logB := [] } 1 ∧
        (let m := SpdmReq.bytes (.getMeasurements index nonce signed)
         ∀ kind value, d.spdmMeasure index.toNat nonce = some (kind, value) →
          let log := x.logL ++ m ++ spdmRsp 0x60 [[index], value]
          (signed = false → exec (.getMeasurements index nonce signed) s =
            tells (.measurement index kind value none) { x with logL := log } 0) ∧
          (signed = true → exec (.getMeasurements index nonce signed) s = tells (.measurement index kind value
            (some (d.spdmSign "responder-measurements signing" (x.logA ++ log)))) { x with logL := [] } 1)) ∧
        (d.spdmMeasure index.toNat nonce = none →
          exec (.getMeasurements index nonce signed) s = tells .error x 0) ∧
        (let th := x.logA ++ h ++ SpdmReq.bytes (.keyExchange true data) ++ spdmRsp 0x64 [Config.ephemeral d.free]
         let sig := d.spdmSign "responder-key_exchange_rsp signing" th
         let th := th ++ strBytes sig.1 32 ++ strBytes sig.2 32
         let secret := spdmKey (Config.spdmAgree d.free data) "handshake" th
         let verify := spdmVerify secret "responder" th
         exec (.keyExchange true data) s = tells (.keyExchangeRsp sig verify)
          { x with session := some false, secret := secret, logK := th ++ verify } 1) ∧
        exec (.keyExchange false data) s = tells .error x 0) ∧
      (let fin := x.logK ++ SpdmReq.bytes (.finish mac)
       (x.session = some false → mac = spdmVerify x.secret "requester" fin →
        exec (.finish mac) s = tells .finishRsp { x with
          session := some true, secret := spdmKey x.secret "application" (fin ++ mac), logK := [] } 0) ∧
       (x.session ≠ some false ∨ mac ≠ spdmVerify x.secret "requester" fin →
        exec (.finish mac) s = tells .error x 0)) ∧
      (x.session = some true →
        exec .heartbeat s = tells .heartbeatAck x 0 ∧
        exec .keyUpdate s = tells .keyUpdateAck
          { x with keyGen := x.keyGen + 1, secret := spdmKey x.secret "update" [] } 0 ∧
        exec .endSession s = tells .endSessionAck { x with session := none, secret := 0 } 0) ∧
      (x.session ≠ some true → exec .heartbeat s = tells .error x 0 ∧ exec .keyUpdate s = tells .error x 0 ∧
        exec .endSession s = tells .error x 0)) ∧
    (let q := d.quote nonce
     d.spdmMeasure 0x01 nonce = some (.mutableFirmware, strBytes d.fwCtrl 32) ∧
     d.spdmMeasure 0x04 nonce =
       some (.hardwareConfig, strBytes (hashOf d.plan.active) 32 ++ strBytes (hashOf d.plan.armed) 32) ∧
     d.spdmMeasure 0x30 nonce = some (.rawBits, q.bytes) ∧ d.spdmMeasure 0x40 nonce = none ∧
     ∀ i, i < 16 → d.spdmMeasure (0x10 + i) nonce = some (.hardwareConfig, (d.quoteEntry i).bytes))

/-- R246, R250, R256–R258 and R260 through a link's life: light brings it to optical training, whose tests spare
one wavelength; a KEYX whose chain verifies agrees the session's keys, starts its sequence and sends HELLO under
SEQ 0, with SET_PROOF under slot 0x02 where the device is a member; HELLO brings it UP with its admission and its next
role generation; a failure or RETRAIN takes it DOWN, counted and without its keys, until the retrain timer; a rekey
sends KEYX once, half-way to the boundary, and a chain that verifies brings the next epoch's keys. Log entries 71,
109 and 110 fix the exchange's bytes. -/
def Obligations.LinkLife : Prop :=
  ∀ (s : State) (l : Lnk) (failed : BitVec 9) (h : Hello) (chain ephemeral : List Byte), s.dev.running = true →
    let d₀ := s.dev
    let k := d₀.link l.val
    let keys := Config.linkKeys d₀.free ephemeral chain
    let pair : BitVec 128 × BitVec 128 := (firstHalf keys, keys.setWidth 128)
    let transcript := Config.sm3 (Config.ephemeral d₀.free ++ Config.linkChain ++ ephemeral ++ chain)
    let chainOk := Config.linkChainOk d₀.pins.orderingSe chain
    let shaded := match d₀.plan.active with | some p => p.device.shaded == 1 | none => false
    let topo := match d₀.plan.active with | some p => p.device.topoHash | none => 0
    let fields (setId : Word) (epoch : BitVec 16) : List Byte :=
      helloFields d₀.addr l.val d₀.identity setId epoch d₀.benchActive d₀.planActive shaded topo
    let payload : List Byte := match d₀.sec.member with
      | some m => fields m.setId m.epoch ++ setProof (d₀.slot 2).key (fields m.setId m.epoch) transcript
      | none => fields 0 0 ++ zeros 16
    let out (x : Dev) : Host.Outcome State Fault Refusal := .next { s with dev := x }
    let lower (d : Dev) : Prop :=
      (d.link l.val).st = .down ∧ (d.link l.val).adm = .none ∧ (d.link l.val).replay = [] ∧
        (d.link l.val).retrainDue = true ∧ (d.link l.val).downs = satInc k.downs ∧ (d.link l.val).keys = [] ∧
        (d.ev.get .lnk).ev.getLsbD 1 = true ∧ d.mem = d₀.mem ∧ d.host = d₀.host ∧ d.tiles = d₀.tiles ∧
        d.sec = d₀.sec
    (k.st = .down → k.retrainDue = false → exec (.linkTrainingStart l) s =
      out (d₀.onLink l.val fun k => { k with light := true, laserOk := true, st := .optical })) ∧
    (k.st = .down → k.retrainDue = true → exec (.linkRetrainTimer l) s = out (d₀.onLink l.val fun k =>
      { k with retrainDue := false, st := if k.light && k.laserOk then .optical else .down })) ∧
    (k.st = .optical →
      ((bitsOf failed.toNat 9).length < 2 → exec (.opticalTrainingDone l failed) s = out (d₀.onLink l.val fun k =>
        { k with failed := failed, spare := spareWave failed, st := .keyx })) ∧
      (2 ≤ (bitsOf failed.toNat 9).length → ∃ d, exec (.opticalTrainingDone l failed) s = out d ∧
        (d.link l.val).st = .down ∧ (d.link l.val).failed = failed ∧ (d.ev.get .lnk).ev.getLsbD 3 = true)) ∧
    (k.st = .keyx →
      ∃ d, exec (.keyx l chain ephemeral) s = out d ∧ d.free = d₀.free + 1 ∧
        if chainOk then
          (∃ sf : SentFlit, d.outbox = d₀.outbox ++ [.flit l sf.wire] ∧ sf.seq = 0 ∧ sf.keyEpoch = 0 ∧
            sf.flit.vc = 5 ∧ sf.flit.body = .ctrl (.hello payload) ∧
            sf.wire = flitWire pair.1 (flitIv 0 l.val) (flitPlain (5, 1 :: zeros 11, payload) 5 0 3 0
              ((0 - 1 : BitVec 48).setWidth 32).toNat 0 0 0) ∧
            (d.link l.val).replay = k.replay ++ [sf]) ∧
          (d.link l.val).st = .hello ∧ (d.link l.val).txSeq = 1 ∧ (d.link l.val).rxSeq = 0 ∧
          (d.link l.val).keyEpoch = 0 ∧ (d.link l.val).keys = [pair] ∧ (d.link l.val).transcript = transcript ∧
          (∀ j, j ≠ l.val → d.link j = d₀.link j) ∧
          d = { d₀ with
            lnk := { d₀.lnk with links := d.lnk.links }, outbox := d.outbox, free := d₀.free + 1 }
        else (d.link l.val).st = .down) ∧
    (k.st = .hello →
      ∃ d, exec (.hello l h) s = out d ∧ (d.link l.val).st = .up ∧ (d.link l.val).roleGen = k.roleGen + 1 ∧
        (d.link l.val).farAddr = h.addr ∧ (d.link l.val).farIdent = h.identity ∧
        (d.link l.val).rxSeq = k.rxSeq + 1 ∧ (d.ev.get .lnk).ev.getLsbD 0 = true ∧
        (∀ m, d₀.sec.member = some m →
          (m.setId = h.setId → h.setId ≠ 0 → d₀.proofOk l.val h = true → (d.link l.val).adm = .member) ∧
          (m.setId ≠ h.setId ∨ h.setId = 0 ∨ d₀.proofOk l.val h = false →
            (d.link l.val).adm = .foreign ∧ (d.ev.get .lnk).ev.getLsbD 2 = true)) ∧
        (d₀.sec.member = none →
          (h.setId = 0 → h.bench = true → d₀.benchActive = true → (d.link l.val).adm = .bench) ∧
          (h.setId ≠ 0 ∨ h.bench = false ∨ d₀.benchActive = false → (d.link l.val).adm = .foreign)) ∧
        d.mem = d₀.mem ∧ d.host = d₀.host ∧ d.sec = d₀.sec ∧ d.tide = d₀.tide) ∧
    (k.st = .up →
      (∀ c ∈ [Instr.linkDown l .fecErrors, .linkDown l .tagFailures, .linkDown l .replayHold, .lnkRetrain l],
        ∃ d, exec c s = out d ∧ lower d) ∧
      (k.keyEpoch < k.txSeq.toNat / 2 ^ 32 → ∀ c ∈ [Instr.linkRekey l, .flitSlotSend l],
        ∃ d, exec c s = out d ∧ lower d ∧ (d.ev.get .lnk).ev.getLsbD 5 = true) ∧
      (k.keyEpoch = k.txSeq.toNat / 2 ^ 32 → k.txSeq ≠ BitVec.allOnes 48 →
        (k.rekeying = false → k.txSeq.getLsbD 31 = true → exec (.linkRekey l) s = out (d₀.onLink l.val fun k =>
          { k with
            rekeying := true,
            txq := k.txq ++ [ctrlTx (.keyx (Config.ephemeral d₀.free ++ Config.linkChain))] })) ∧
        (k.rekeying = true ∨ k.txSeq.getLsbD 31 = false → exec (.linkRekey l) s = .next s)) ∧
      (k.rekeying = true → exec (.keyx l chain ephemeral) s = out ((d₀.onLink l.val fun k =>
        let k₁ : Link := { k with
          rxSeq := k.rxSeq + 1, awaiting := false, tagRun := 0, ackDue := true, owed := Tab.mod 0 k.owed 5 (· + 1) }
        if chainOk then { k₁ with
          rekeying := false, keyEpoch := k.keyEpoch + 1, keys := k.keys ++ [pair], rekeys := satInc k.rekeys }
        else k₁).tick)))

/-- R247–R249, R251–R254 and R258 at a slot of an UP link: a tide record goes first, up to seven in one TIDE
flit; a DATA slot is its clearing's; a link that is not admitted sends its control flits alone; a flit goes out sealed
under the next SEQ, takes a credit of its virtual channel and stays in the replay buffer; and a slot with nothing to send drives the idle
pattern, or in Shaded mode a COVER flit. -/
def Obligations.FlitSlots : Prop :=
  ∀ (s : State) (l : Lnk), s.dev.running = true →
    let d₀ := s.dev
    let k := d₀.link l.val
    let fr := if k.slot = 0 then d₀.frameOf l.val else k.frame
    let next (k : Link) : Link := { k with slot := k.slot + 1, frame := fr }
    let ack : Word := (k.rxSeq - 1).setWidth 32
    let wire (f : TxFlit) (gen : BitVec 12) : List Byte :=
      flitWire (k.txKey k.txSeq) (flitIv k.txSeq l.val) (k.plainOf f ack gen)
    k.st = .up → k.txSeq.toNat / 2 ^ 32 ≤ k.keyEpoch → k.txSeq ≠ BitVec.allOnes 48 → d₀.ioCritical l.val = false →
    k.replay.length < 1024 →
    (k.resend = [] → d₀.linkCarries l.val = true → ∀ x, fr = some x →
      (k.tideQ ≠ [] → k.hasCredit 4 = true →
        ∃ d sf, exec (.flitSlotSend l) s = .next { s with dev := d } ∧ sf.seq = k.txSeq ∧
          sf.flit.body = .tide (k.tideQ.take 7) ∧ sf.ack = ack ∧
          d.outbox = d₀.outbox ++ [.flit l sf.wire] ∧ (d.link l.val).tideQ = k.tideQ.drop 7 ∧
          sf.wire = wire sf.flit sf.gen ∧
          (d.link l.val).txSeq = k.txSeq + 1 ∧ (d.link l.val).replay = k.replay ++ [sf] ∧
          (d.link l.val).txq = k.txq ∧
          d = { d₀ with lnk := { d₀.lnk with links := d.lnk.links }, outbox := d.outbox }) ∧
      (k.tideQ = [] → k.displaced = [] → shareOf x.1 k.slot.toNat = .data → d₀.linkMatch l.val = true →
        ∀ n f, dataOwner x.1 x.2 k.slot.toNat = some n → d₀.quiet n = false →
          let picks (f : TxFlit) : Bool := f.clearing == n && f.vc < 4 && f.vc != 2 && k.hasCredit f.vc
          k.txq.find? picks = some f →
          ∃ d sf, exec (.flitSlotSend l) s = .next { s with dev := d } ∧ sf.seq = k.txSeq ∧ sf.flit = f ∧
            sf.gen = d₀.dstGen l.val f ∧ sf.wire = wire f sf.gen ∧ d.outbox = d₀.outbox ++ [.flit l sf.wire] ∧
            (d.link l.val).txSeq = k.txSeq + 1 ∧ (d.link l.val).replay = k.replay ++ [sf] ∧
            (d.link l.val).txq = k.txq.eraseP picks ∧
            d = { d₀ with lnk := { d₀.lnk with links := d.lnk.links }, outbox := d.outbox })) ∧
    (k.resend = [] → d₀.linkCarries l.val = false →
      (∀ f, k.txq.find? (fun f => f.vc == 5 && k.hasCredit f.vc) = some f →
        let sf : SentFlit :=
          { seq := k.txSeq, ack := ack, gen := d₀.dstGen l.val f, keyEpoch := k.txSeq.toNat / 2 ^ 32, flit := f,
            wire := wire f (d₀.dstGen l.val f) }
        ∃ d, exec (.flitSlotSend l) s = .next { s with dev := d } ∧ d.outbox = d₀.outbox ++ [.flit l sf.wire] ∧
          d.link l.val = { next k with
            txSeq := k.txSeq + 1, replay := k.replay ++ [sf], ackDue := false,
            spent := if f.body.isCover then k.spent else Tab.mod 0 k.spent f.vc (· + 1),
            txq := k.txq.eraseP fun f => f.vc == 5 && k.hasCredit f.vc } ∧
          (∀ j, j ≠ l.val → d.link j = d₀.link j) ∧
          d = { d₀ with lnk := { d₀.lnk with links := d.lnk.links }, outbox := d.outbox }) ∧
      (k.txq.find? (fun f => f.vc == 5 && k.hasCredit f.vc) = none → k.owed = [] → k.released = [] →
        ((∀ p, d₀.plan.active = some p → p.device.shaded ≠ 1) → exec (.flitSlotSend l) s =
          .next { s with dev := { d₀.onLink l.val next with outbox := d₀.outbox ++ [.idle l] } }) ∧
        (∀ p, d₀.plan.active = some p → p.device.shaded = 1 →
          ∃ (d : Dev) (sf : SentFlit), exec (.flitSlotSend l) s = .next { s with dev := d } ∧ sf.flit.body = .cover ∧
            sf.seq = k.txSeq ∧ d.outbox = d₀.outbox ++ [.flit l sf.wire] ∧ (d.link l.val).txSeq = k.txSeq + 1 ∧
            (d.link l.val).spent = k.spent))) ∧
    (∀ f fs, k.resend = f :: fs → d₀.linkCarries l.val = false → exec (.flitSlotSend l) s =
      .next { s with dev := { d₀.onLink l.val (fun k => { next k with resend := fs, retx := satInc k.retx }) with
        outbox := d₀.outbox ++ [.flit l f.wire] } })

/-- R249, R258, R261–R263, R266 and R330 at a flit that arrives in order: its effect is its own (a DATA flit's
bytes in its object, a COLL flit's elements in its collector slot, a STRAND flit's bytes in its peer area,
nothing for a COVER flit or one of a reserved KIND, which R247 counts with those denied), its credit is owed and its
ACK_SEQ frees the replay buffer. An old generation or a broken flow rule drops it, counted and noticed; a tag that fails drops it and asks for it again. -/
def Obligations.FlitsArrive : Prop :=
  ∀ (s : State) (l : Lnk) (h : FlitHdr) (handle : Word) (off : BitVec 48) (bs : List Byte) (slot : BitVec 12)
    (chunk : Word) (elem : BitVec 10) (fmt : Byte) (ws : List AW) (cl : Byte) (part : BitVec 3) (idx : Word)
    (last : Bool), s.dev.running = true → Calm s.dev →
    let d₀ := s.dev
    let out (x : Dev) : Host.Outcome State Fault Refusal := .next { s with dev := x }
    let d₁ := d₀.onLink l.val (Link.takes h true)
    (InOrder d₀ l.val h (.data handle off.toNat bs) →
      ∀ o, o = d₀.obj (objIndex handle) → d₀.dataAllowed h handle off.toNat bs.length = true →
        d₀.keyAllows o.clearing.toNat h.dst.toNat true = true → d₀.objWaits o off.toNat bs.length = false →
        d₀.flt.cliff = false →
        exec (.dataFlit l h handle off bs) s = out (d₁.writeObj o off.toNat bs).1) ∧
    (InOrder d₀ l.val h (.coll slot chunk.toNat elem.toNat fmt ws) →
      (d₀.collAllowed l.val h slot chunk.toNat elem.toNat ws.length = true →
        let x := d₀.coll slot.toNat
        let y : CollSlot :=
          { chunk := chunk.toNat, got := x.got + ws.length, elems := Tab.setRun 0 x.elems elem.toNat ws }
        exec (.collFlit l h slot chunk elem fmt ws) s = out { d₁ with
          lnk := { d₁.lnk with colls := Tab.set CollSlot.reset d₁.lnk.colls slot.toNat y } }) ∧
      (d₀.collAllowed l.val h slot chunk.toNat elem.toNat ws.length = false →
        ∃ d, exec (.collFlit l h slot chunk elem fmt ws) s = out d ∧ d.lnk.colls = d₀.lnk.colls ∧
          d.lnk.flowDeny = satInc d₀.lnk.flowDeny ∧ (d.ev.get .lnk).ev.getLsbD 7 = true ∧
          ctrlTx (.flowDenied h.stream) ∈ (d.link l.val).txq ∧ d.mem = d₀.mem)) ∧
    (InOrder d₀ l.val h (.strand cl part false off.toNat bs) →
      (∀ p e, d₀.strand = some p → peerOf p (d₀.link l.val).farAddr = some e → d₀.failed = false →
        (d₀.frame 16).contained = false →
        d₀.strandAllowed (d₀.link l.val).farAddr part.toNat false off.toNat bs.length = true →
        ∃ d, exec (.strandFlit l h cl part false off bs idx last) s = out d ∧
          (Tab.wf PeerCopy.reset d₀.stl.peers = true → let c := Tab.get PeerCopy.reset d.stl.peers e.2
            let c₀ := Tab.get PeerCopy.reset d₀.stl.peers e.2
            (Tab.wf 0 c₀.bytes = true → ∀ i, i < bs.length →
              Tab.get 0 c.bytes (copyKey cl.toNat part.toNat off.toNat + i) = bs[i]?.getD 0) ∧
            (part ≠ 3 → c.index = idx ∧
              c.complete = ((c₀.index == idx && c₀.complete) || (last && part == 2))) ∧
            (part = 3 → c.index = c₀.index ∧ c.complete = c₀.complete)) ∧
          d = { d₁ with
            stl := { d₀.stl with peers := d.stl.peers }, ev := d.ev, pins := d.pins, outbox := d.outbox })) ∧
    ((d₀.link l.val).st = .up → h.seq = (d₀.link l.val).rxSeq →
      (d₀.flitOpens l.val h .cover = true →
        exec (.coverFlit l h) s = out (d₀.onLink l.val (Link.takes h false))) ∧
      (∀ r, d₀.wireOpens l.val h (reservedWire r) = true → exec (.coverFlit l h (some r)) s =
        out { d₁ with lnk := { d₁.lnk with flowDeny := satInc d₀.lnk.flowDeny } }) ∧
      (d₀.flitOpens l.val h (.coll slot chunk.toNat elem.toNat fmt ws) = true → ∀ g, d₀.linkCarries l.val = true → d₀.staleGen l.val h = some g →
        ∃ d, exec (.collFlit l h slot chunk elem fmt ws) s = out d ∧ d.lnk.colls = d₀.lnk.colls ∧
          d.lnk.stale = satInc d₀.lnk.stale ∧ (d.ev.get .lnk).ev.getLsbD 6 = true ∧ d.mem = d₀.mem)) ∧
    ((d₀.link l.val).st = .up → (d₀.link l.val).tagRun < 15 → (d₀.link l.val).awaiting = false →
      let asked := out (d₀.onLink l.val fun k => { k with
        awaiting := true, tagFail := satInc k.tagFail, tagRun := k.tagRun + 1,
        txq := k.txq ++ [ctrlTx (.nak k.rxSeq)] })
      (∀ x ∈ [(Instr.dataFlit l h handle off bs, TxBody.data handle off.toNat bs),
        (.collFlit l h slot chunk elem fmt ws, .coll slot chunk.toNat elem.toNat fmt ws),
        (.strandFlit l h cl part false off bs idx last, .strand cl part false off.toNat bs), (.coverFlit l h, .cover)],
        d₀.flitOpens l.val h x.2 = false → exec x.1 s = asked) ∧
      ∀ r, d₀.wireOpens l.val h (reservedWire r) = false → exec (.coverFlit l h (some r)) s = asked)

/-- R249, R255, R260, R261, R263 and R302 at the control messages: NAK resends from its SEQ on; ACK frees the
replay buffer; CREDIT returns credits and collector slots; ROLE_UPDATE sets the neighbour's generations;
STALE_ROLE and FLOW_DENIED end the named transfer's command, and a transfer without a usable link times out. -/
def Obligations.LinkControl : Prop :=
  ∀ (s : State) (l : Lnk) (seq : BitVec 48) (perVc : List Nat) (slots : List (BitVec 12)) (es : List RoleEntry)
    (stream : BitVec 16) (kind : BitVec 2) (unit : Byte) (old cur : BitVec 12), s.dev.running = true →
    let d₀ := s.dev
    let out (x : Dev) : Host.Outcome State Fault Refusal := .next { s with dev := x }
    let taken (k : Link) : Link :=
      { k with
        rxSeq := k.rxSeq + 1, awaiting := false, tagRun := 0, ackDue := true, owed := Tab.mod 0 k.owed 5 (· + 1) }
    let g := match d₀.linkEntry l.val with | some e => e.group | none => 0xFF
    ((d₀.link l.val).st ≠ .up →
      ∀ c ∈ [Instr.nak l seq, .ack l seq, .ackIdleTimeout l, .credit l perVc slots, .roleUpdate l es,
        .staleRole l stream kind unit old cur, .flowDenied l stream], exec c s = .next s) ∧
    ((d₀.link l.val).st = .up →
      exec (.nak l seq) s = out (d₀.onLink l.val fun k =>
        { taken k with resend := k.replay.filter fun f => seq.toNat ≤ f.seq.toNat }) ∧
      (Calm d₀ → exec (.ack l seq) s = out (d₀.onLink l.val fun k =>
        let rest := freeReplay (seq.setWidth 32) k.replay
        { taken k with replay := rest, resend := k.resend.filter fun f => rest.any (·.seq == f.seq) })) ∧
      ((d₀.link l.val).ackDue = true → exec (.ackIdleTimeout l) s = out (d₀.onLink l.val fun k =>
        { k with ackDue := false, txq := k.txq ++ [ctrlTx (.ack (k.rxSeq - 1))] })) ∧
      ((d₀.link l.val).ackDue = false → exec (.ackIdleTimeout l) s = .next s) ∧
      (Calm d₀ → ∃ d, exec (.credit l perVc slots) s = out d ∧
        d.link l.val = { taken (d₀.link l.val) with
          spent := perVc.zipIdx.foldl (fun t c => Tab.mod 0 t c.2 (· - c.1)) (d₀.link l.val).spent } ∧
        d.lnk.farBusy = d₀.lnk.farBusy.filter (fun b => !(b.1 == g && slots.contains b.2)) ∧
        d = { d₀ with lnk := { d₀.lnk with links := d.lnk.links, farBusy := d.lnk.farBusy } }) ∧
      (∃ d, exec (.roleUpdate l es) s = out d ∧ d = { d₀.onLink l.val taken with lnk := d.lnk } ∧
        d.lnk = { (d₀.onLink l.val taken).lnk with nbrGens := d.lnk.nbrGens } ∧
        (∀ e, es = [e] → Tab.wf 0 d₀.lnk.nbrGens = true →
          ∀ j, Tab.get 0 d.lnk.nbrGens j = if j = nbrKey l.val e then e.gen else Tab.get 0 d₀.lnk.nbrGens j)) ∧
      (∀ x c, d₀.streamXfer stream = some x → d₀.cmd x.queue.val x.seq = some c →
        (∃ d, exec (.staleRole l stream kind unit old cur) s = out d ∧ Completes d₀ x.queue.val c .staleRole .none
          (BitVec.ofNat 64 (cur.toNat + 2 ^ 12 * old.toNat + 2 ^ 24 * kind.toNat + 2 ^ 32 * unit.toNat)) d ∧
          d.mem = d₀.mem ∧ d.tiles = d₀.tiles) ∧
        ∃ d, exec (.flowDenied l stream) s = out d ∧ Completes d₀ x.queue.val c .ownerDenied .none 0 d ∧
          d.mem = d₀.mem ∧ d.tiles = d₀.tiles)) ∧
    (∀ (q : Que) (n : Word) (c : Cmd), d₀.cmd q.val n = some c →
      (d₀.stalled q.val n l.val = true → ∃ d, exec (.transferTimeout q n l) s = out d ∧
        Completes d₀ q.val c .timeout .none (BitVec.ofNat 64 l.val) d ∧ d.mem = d₀.mem ∧ d.tiles = d₀.tiles) ∧
      (d₀.stalled q.val n l.val = false → exec (.transferTimeout q n l) s = .next s))

/-- R265–R270: a stage that only receives takes up its collector slots; a stage that sends exact words from an
accumulator slot has its chunks to send; a confluence with fewer holdings in service than QUORUM completes
QUORUM_UNMET; a combining set whose chunks are all in is added in its schedule's order and its slots are zeroed,
and one that lacks a chunk waits; a sum goes on to an accumulator slot, added word by word under R103, once no
sweep holds the slot. -/
def Obligations.StagesRun : Prop :=
  ∀ (s : State) (q : Que) (seq : Word), s.dev.running = true →
    let d₀ := s.dev
    let out (x : Dev) : Host.Outcome State Fault Refusal := .next { s with dev := x }
    (∀ (c : Cmd) (n : Nat), d₀.cmd q.val seq = some c → d₀.queueClr q.val = some n → d₀.lnk.xfers = [] →
      let a := c.collArgs
      let g := d₀.stageOfCmd c
      let begun (d : Dev) (ins : List StageIn) (ws : List TxChunk) : Prop :=
        ∃ x ∈ d.lnk.xfers, x = ({
          queue := q, seq := seq, clearing := n, stream := d₀.lnk.nextStream, confl := a.confl.isSome,
          carry := a.carry, count := a.count, ins := ins, chunk := 0, sum := none, waiting := ws,
          partial_ := [] } : Xfer) ∧ (d.cmd q.val seq).map (·.ph) = some .running ∧ d.mem = d₀.mem ∧
          d.tiles = d₀.tiles
      (c.opcode = 4 → c.ph = .started → 0 < a.count →
        (a.sends g = false → g.ins ≠ [] → g.partialOf = none →
          ∃ d, exec (.collective q seq) s = out d ∧ begun d g.ins []) ∧
        (a.sends g = true → g.ins = [] → a.srcKind = 1 → a.carry = .exact →
          (∀ o ∈ g.outs, o.group ≠ 0xFF ∧ (o.group, o.slot) ∈ d₀.lnk.farBusy) →
          d₀.slotHeld a.srcTile a.srcSlot = false →
          let ws := ((d₀.tile a.srcTile).slotWords a.srcSlot).take a.count
          ∃ d, exec (.collective q seq) s = out d ∧ begun d [] (chunksFor g.outs ws) ∧ ws ≠ [])) ∧
      (c.opcode = 5 → c.ph = .started → a.confl = some true →
        ∀ p, d₀.plan.active = some p →
        let ins := g.ins.filter d₀.inService
        (ins.length < p.quorum.toNat → ∃ d, exec (.confluence q seq) s = out d ∧
          Completes d₀ q.val c .quorumUnmet .none (BitVec.ofNat 64 (ins.length + 256 * p.quorum.toNat)) d ∧
          d.mem = d₀.mem ∧ d.tiles = d₀.tiles) ∧
        (p.quorum.toNat ≤ ins.length → ins ≠ [] → 0 < a.count →
          g.partialOf = none → ∃ d, exec (.confluence q seq) s = out d ∧ begun d ins []))) ∧
    (∀ x : Xfer, d₀.lnk.xfers = [x] → x.queue = q → x.seq = seq →
      (d₀.setReady x = false → exec (.combineDone q seq) s = .next s) ∧
      (d₀.setReady x = true → x.waiting = [] →
        ∃ d, exec (.combineDone q seq) s = out d ∧
          d.lnk.xfers = [{ x with sum := some ((List.range (min 1024 (x.count - 1024 * x.chunk))).map fun j =>
            x.carry.combine (d₀.mode x.clearing) (x.ins.map fun i => Tab.get 0 (d₀.coll i.slot.toNat).elems j)) }] ∧
          (Tab.wf CollSlot.reset d₀.lnk.colls = true → ∀ i ∈ x.ins, d.coll i.slot.toNat = CollSlot.reset) ∧
          (∀ j, (∀ i ∈ x.ins, i.slot.toNat ≠ j) → d.coll j = d₀.coll j) ∧ d = { d₀ with lnk := d.lnk }) ∧
      (∀ c ws, d₀.cmd q.val seq = some c → x.sum = some ws → c.collArgs.dstKind = 1 →
        let t := c.collArgs.dstTile
        let at_ := 1024 * c.collArgs.dstSlot + 1024 * x.chunk
        (d₀.slotHeld t c.collArgs.dstSlot = true → exec (.collectorDelivery q seq) s = .next s) ∧
        (d₀.slotHeld t c.collArgs.dstSlot = false → Tab.wf TileSt.reset d₀.tiles = true →
          Tab.wf 0 (d₀.tile t).acc = true →
          ∃ d, exec (.collectorDelivery q seq) s = out d ∧
            (∀ i w, ws[i]? = some w → (d.tile t).word (at_ + i) =
              ((Acc.ofWord ((d₀.tile t).word (at_ + i))).add (x.carry.asWord w)).word) ∧
            (∀ i, i < at_ ∨ at_ + ws.length ≤ i → (d.tile t).word i = (d₀.tile t).word i) ∧
            (d.tile t).op = (d₀.tile t).op ∧ (∀ u, u ≠ t → d.tile u = d₀.tile u) ∧ d.mem = d₀.mem)))

/-- R281, R282, R296, R300: a doorbell sets TAIL, or raises BAD_TAIL for a value not below 2^n; a fetch takes
the entry at HEAD under the next sequence number while the completion ring has room, and a DMA error stops the
queue; enabling a queue of a clearing starts it with its indexes at 0, and one that no clearing holds stays
DISABLED and UNBOUND; writing ENABLE 0 drains it and aborts what it fetched; QCFG_CQ_HEAD frees room; RESUME
starts a STOPPED queue again. A command whose sweeps are in flight ends under R137 instead. R295, R297, R298 at
COMPLETION_POST: the head record of the next non-empty source goes to its queue's ring at its index and phase,
which inverts at the ring's end, and the vector after it; records of one queue go in completion order, and with
none waiting nothing changes. A draining queue's last record disables it (R300). -/
def Obligations.QueueLife : Prop :=
  (∀ (s : State) (q : Que) (v : Word) (entry : BitVec 512), s.dev.running = true →
     Tab.wf Queue.reset s.dev.host.queues = true → Tab.wf TileSt.reset s.dev.tiles = true →
     let d := s.dev
     let u := d.queue q.val
     let size := 2 ^ u.log2.toNat
     let out (x : Dev) : Host.Outcome State Fault Refusal := .next { s with dev := x }
     let tail : BitVec 16 := v.setWidth 16
     (tail.toNat < size → exec (.dblTail q v) s = out (d.modQueue q.val fun u => { u with tail := tail })) ∧
     (size ≤ tail.toNat → exec (.dblTail q v) s = out (d.raise .dbl 4)) ∧
     (d.dbg.cpHalted = false → u.st = .running ∨ u.st = .stopped → u.head ≠ u.tail →
       (size ≤ u.outstanding → ∀ ok, exec (.commandFetch q entry ok) s = .next s) ∧
       (u.outstanding < size →
         (exec (.commandFetch q entry true) s = out (d.modQueue q.val fun u => { u with
           head := BitVec.ofNat 16 ((u.head.toNat + 1) % size), seq := u.seq + 1, outstanding := u.outstanding + 1,
           cmds := u.cmds ++ [newCmd u.seq entry] })) ∧
         ∃ d', exec (.commandFetch q entry false) s = out d' ∧
           d'.queue q.val = { u with st := .stopped, ringErr := true } ∧ (d'.ev.get .dbl).ev.getLsbD 3 = true ∧
           d' = { d with host := { d.host with queues := d'.host.queues }, ev := d'.ev, pins := d'.pins,
                         outbox := d'.outbox })) ∧
     (exec (.qcfgCqHead q v) s = out (d.modQueue q.val fun u => { u with
       cqHead := tail, outstanding := u.outstanding - (tail.toNat + size - u.cqHead.toNat % size) % size })) ∧
     (u.st = .disabled →
       ∃ d', exec (.queueEnable q v) s = out d' ∧
         (∀ k, k ≠ q.val → d'.queue k = d.queue k) ∧
         d' = { d with host := { d.host with queues := d'.host.queues } } ∧
         let n : BitVec 5 := v.extractLsb' 1 5
         (d'.queue q.val).log2 = (if 6 ≤ n.toNat ∧ n.toNat ≤ 16 then n else u.log2) ∧
         (∀ c, d.queueClr q.val = some c → (d'.queue q.val).st = .running ∧
           (d'.queue q.val).clearing = BitVec.ofNat 4 c ∧ (d'.queue q.val).head = 0 ∧ (d'.queue q.val).tail = 0 ∧
           (d'.queue q.val).cqHead = 0 ∧ (d'.queue q.val).seq = 0 ∧ (d'.queue q.val).phase = true ∧
           (d'.queue q.val).cmds = [] ∧ (d'.queue q.val).ringErr = false) ∧
         (Tab.wf Queue.reset d.host.queues = true → (d'.queue q.val).enable = true) ∧
         (d.queueClr q.val = none → (d'.queue q.val).st = .disabled ∧ (d'.queue q.val).unbound = true)) ∧
     (u.st = .running →
       ∃ d', exec (.queueDisable q v) s = out d' ∧ d'.mem.hbm = d.mem.hbm ∧ d'.plan = d.plan ∧
         ((d'.queue q.val).st = .disabled ∨ (d'.queue q.val).st = .draining) ∧
         (∀ c ∈ u.cmds, d.cmd q.val c.seq = some c → d.progTile q.val c.seq = none →
           (∀ l, d.launchOf q.val c.seq = some l → l.ph = .running) →
           (∀ x ∈ (d'.queue q.val).cmds, x.seq ≠ c.seq) ∧
           ∃ r ∈ Tab.get [] d'.host.fifos c.src, r.queue = q ∧ r.seq = c.seq ∧ r.status = .aborted ∧
             r.detail = .queueDisabled) ∧
         (u.cmds = [] → (∀ f ∈ d.host.fifos, ∀ r ∈ f.2, r.queue ≠ q) → (d'.queue q.val).st = .disabled ∧
           (d'.ev.get .dbl).ev.getLsbD 6 = true)) ∧
     (u.st = .stopped → exec (.queueResume q) s = out (d.modQueue q.val fun u => { u with st := .running })) ∧
     (u.st ≠ .stopped → exec (.queueResume q) s = .next s)) ∧
  (∀ (s : State) (src : Nat) (r : Completion) (rs : List Completion), s.dev.running = true →
     let d := s.dev
     let u := d.queue r.queue.val
     let next := (u.cqTail.toNat + 1) % 2 ^ u.log2.toNat
     ((∀ f ∈ d.host.fifos, f.2 = []) → exec .completionPost s = .next s) ∧
     (Tab.wf [] d.host.fifos = true → Tab.get [] d.host.fifos src = r :: rs →
       (∀ f ∈ d.host.fifos, ∀ x ∈ f.2, x.queue = r.queue → r.ord ≤ x.ord) →
       (∀ f ∈ d.host.fifos, ∀ x, f.2.head? = some x →
         (∃ g ∈ d.host.fifos, ∃ y ∈ g.2, y.queue = x.queue ∧ y.ord < x.ord) ∨
           (if d.host.lastSrc < src then f.1 ≤ d.host.lastSrc ∨ src ≤ f.1
             else f.1 ≤ d.host.lastSrc ∧ src ≤ f.1)) →
       ∃ d', exec .completionPost s = .next { s with dev := d' } ∧ d'.host.lastSrc = src ∧
         d'.host.fifos = Tab.set [] d.host.fifos src rs ∧
         (∃ es, d'.outbox = d.outbox ++ ([.ringRecord (u.cqHi ++ u.cqLo + 32 * u.cqTail.setWidth 64) (r.record u.phase)] ++
           (if r.irq = true ∨ u.irqAll = true then [.msix u.vector.toNat] else [])) ++ es ∧
           (u.st ≠ .draining → es = [])) ∧
         (Tab.wf Queue.reset d.host.queues = true →
           (u.st ≠ .draining → d'.queue r.queue.val = { u with
             cqTail := BitVec.ofNat 16 next, phase := if next = 0 then !u.phase else u.phase }) ∧
           (u.st = .draining → u.cmds = [] → rs = [] → (∀ f ∈ d.host.fifos, f.1 ≠ src → ∀ x ∈ f.2, x.queue ≠ r.queue) →
             (d'.queue r.queue.val).st = .disabled ∧ (d'.ev.get .dbl).ev.getLsbD 6 = true) ∧
           ∀ k, k ≠ r.queue.val → d'.queue k = d.queue k) ∧
         let h : HostBlk := { d.host with queues := d'.host.queues, fifos := d'.host.fifos, lastSrc := src }
         d' = { d with host := h, ev := d'.ev, pins := d'.pins, outbox := d'.outbox }))

/-- R286 at COMMAND_DECODE: the checks in their order, each giving its status; a command that fails one executes
nothing. A command that passes is decoded with a reference on every handle it names (R289). In the model's
choice a CONTAINED clearing gives TAMPER and a failed decode uses the control source where no other is known.
R40, R283, R297, R307 at COMMAND_START: ring order, BARRIER, FENCE_WAIT and TIDE_WAIT hold a command; it starts
after a mark past its decode, none missing, once its activity's instance has started, with a FIFO entry of its source held for it, and latches its step key. R293: a STOPPED queue starts
nothing. -/
def Obligations.CommandsBegin : Prop :=
  (∀ (s : State) (q : Que) (n : Nat) (c : Cmd), s.dev.running = true →
     let d := s.dev
     let src := d.sourceOf c
     let st := (d.clr n).st
     let ends (x : Status) (det : Detail) (info : BitVec 64) : Prop :=
       ∃ d', exec (.commandDecode q) s = .next { s with dev := d' } ∧
         Completes d q.val { c with src := src } x det info d' ∧ d' = { d with host := d'.host }
     d.dbg.cpHalted = false → d.queueClr q.val = some n → (d.queue q.val).cmds.find? (·.ph == .fetched) = some c →
     d.cmd q.val c.seq = some c → d.nextDecode = some q.val →
     (d.decoding = true ∨ 32 ≤ d.fifoUse src → exec (.commandDecode q) s = .next s) ∧
     (d.decoding = false → d.fifoUse src < 32 →
       (c.opcode = 0 ∨ 11 < c.opcode ∨ c.context = 0 → ends .aborted .decode 0) ∧
       (0 < c.opcode → c.opcode ≤ 11 → c.context ≠ 0 →
         (c.context ∈ d.host.deadCtx → ends .aborted .contextDestroyed 0) ∧
         (c.context ∉ d.host.deadCtx →
           (reservedZero c.raw = false → ends .aborted .decode 0) ∧
           (reservedZero c.raw = true →
             (st = .resetting ∨ st = .scrubbing → ends .resetting .none 0) ∧
             (d.unformed n = false →
               (st = .fenced ∨ st = .halted ∨ st = .absent → ends .outOfService .none 0) ∧
               (st = .contained → ends .tamper .none 0) ∧
               (st = .active → d.outOfService n = true → ends .outOfService .none 0) ∧
               (st = .active → d.outOfService n = false →
                 (c.opcode ∈ [4, 5, 10, 11] → c.actId = 0xFFFF → ends .aborted .notScheduled 0) ∧
                 (c.actId ≠ 0xFFFF → (∀ t a, d.activity c.actId = some (t, a) →
                   a.clearing.toNat ≠ n ∨ a.queue.toNat ≠ q.val) → ends .planConflict .none (c.actId.setWidth 64)) ∧
                 ((c.actId = 0xFFFF ∧ c.opcode ∉ [4, 5, 10, 11]) ∨
                     (∃ t a, d.activity c.actId = some (t, a) ∧ a.clearing.toNat = n ∧ a.queue.toNat = q.val) →
                   (∀ h, (d.handlesOf c).find? (fun h => !d.liveHandle h.1) = some h →
                     ends .staleObject .none (h.1.setWidth 64)) ∧
                   ((∀ h ∈ d.handlesOf c, d.liveHandle h.1 = true) →
                     (∀ h, (d.handlesOf c).find? (fun h => !d.handleOwned n h.1 h.2) = some h →
                       ends .ownerDenied .none (h.1.setWidth 64)) ∧
                     ((∀ h ∈ d.handlesOf c, d.handleOwned n h.1 h.2 = true) →
                       (d.fenceUse c = false → ends .staleObject .none ((c.word 16).setWidth 64)) ∧
                       (d.fenceUse c = true → d.opcodeOk n c = true →
                         ∃ d', exec (.commandDecode q) s = .next { s with dev := d' } ∧
                           let held := if c.opcode = 9 then [] else (d.handlesOf c).map (·.1)
                           (∀ i, (d'.obj i).refs = (d.obj i).refs + (held.filter (objIndex · = i)).length) ∧
                           d'.cmd q.val c.seq = some { c with
                             src := src, refs := held, decodedAt := d.tide.count,
                             ph := if c.opcode = 2 ∨ c.opcode = 3 ∨ c.opcode = 9 then .decoding else .decoded } ∧
                           d' = { d with host := d'.host }))))))))))) ∧
  (∀ (s : State) (q : Que) (seq : Word) (c : Cmd) (n : Nat), s.dev.running = true → s.dev.dbg.cpHalted = false →
     let d := s.dev
     let earlier := (d.queue q.val).cmds.takeWhile (·.seq != c.seq)
     d.cmd q.val seq = some c → d.queueClr q.val = some n →
     ((d.queue q.val).st = .running → c.ph = .decoded →
       (∀ x ∈ earlier, (x.ph = .started ∨ x.ph = .running) ∧ x.opcode ≠ 7 ∧ x.opcode ≠ 8) →
       (c.barrier = true → earlier = []) →
       d.tide.missing = 0 → c.decodedAt.toNat < d.tide.count.toNat →
       (c.actId ≠ 0xFFFF → c.inst.toNat < Tab.get 0 d.sched.nextInst c.actId.toNat ∧
         ∀ w ∈ d.sched.waits, w.act = c.actId → w.inst ≠ c.inst.toNat) →
       (c.opcode = 11 → ∀ x ∈ earlier, x.actId ≠ c.actId ∨ x.inst ≠ c.inst) → d.fifoUse c.src < 32 →
       exec (.commandStart q seq) s = .next { s with dev := d.modCmd q.val seq fun x =>
         { x with ph := .started, stepKey := d.stepKeyOf n c.inst } }) ∧
     ((d.queue q.val).st ≠ .running ∨ c.ph ≠ .decoded ∨ 32 ≤ d.fifoUse c.src ∨ (c.barrier = true ∧ earlier ≠ []) ∨
         (∃ x ∈ earlier, x.opcode = 7 ∨ x.opcode = 8 ∨ (x.ph ≠ .started ∧ x.ph ≠ .running)) ∨
         d.tide.missing ≠ 0 ∨ d.tide.count.toNat ≤ c.decodedAt.toNat ∨
         (c.actId ≠ 0xFFFF ∧ Tab.get 0 d.sched.nextInst c.actId.toNat ≤ c.inst.toNat) ∨
         (c.actId ≠ 0xFFFF ∧ ∃ w ∈ d.sched.waits, w.act = c.actId ∧ w.inst = c.inst.toNat) →
       exec (.commandStart q seq) s = .next s))

/-- R285, R292, R293: a FENCE_SIGNAL waits for the earlier commands of its queue and then signals its fence,
with ERROR when a command since the previous one failed, and every waiter completes; a FENCE_WAIT completes when
its fence is SIGNALLED, and a failed one with STOP_ON_FAIL stops its queue; a TIDE_WAIT completes when the
schedule position has reached POSITION and waits before. R294: a stale fence handle completes STALE_OBJECT.
R313, R333–R335 at the two training commands: STRANDLINE_MARK completes at once in an instance that has no save
running, waits for the save's part to end otherwise, and is ABORTED where DEEP_LEN is too small; EVAL_WINDOW
reads its metrics and posts one envelope (R223) that carries the evaluation record, sealed under a one-time key. In the model's choice a DEEP flag
that does not fit the activity's kind is ABORTED. -/
def Obligations.FencesAndWaits : Prop :=
  (∀ (s : State) (q : Que) (seq : Word) (c : Cmd), s.dev.running = true → s.dev.cmd q.val seq = some c →
     let d := s.dev
     let h := c.word 16
     let f := d.fence (fenceIndex h)
     let out (x : Dev) : Host.Outcome State Fault Refusal := .next { s with dev := x }
     let runs : Host.Outcome State Fault Refusal := out (d.modCmd q.val seq fun x => { x with ph := .running })
     let ends (i : Instr) (x : Status) (det : Detail) (info : BitVec 64) (p : Dev → Prop) : Prop :=
       ∃ d', exec i s = out d' ∧ Completes d q.val c x det info d' ∧ p d' ∧
         d' = { d with host := d'.host, ev := d'.ev, pins := d'.pins, outbox := d'.outbox } ∧
         d'.host.objs = (d.dropRefs c.refs).host.objs
     let same (d' : Dev) : Prop := d'.host.fences = d.host.fences
     (c.opcode = 6 → c.ph = .started → exec (.fenceSignal q seq) s = runs) ∧
     (c.opcode = 6 → c.ph = .running →
       (d.earlierDone q.val seq = false → exec (.fenceSignalled q seq) s = .next s) ∧
       (d.earlierDone q.val seq = true →
         (d.fenceCurrent h = false → ends (.fenceSignalled q seq) .staleObject .none (h.setWidth 64) same) ∧
         (d.fenceCurrent h = true → f.sig = true →
           ends (.fenceSignalled q seq) .ok .alreadySignalled 0 same) ∧
         (d.fenceCurrent h = true → f.sig = false →
           let bad := (d.queue q.val).spanBad
           let told (d' : Dev) : Prop :=
             d'.fence (fenceIndex h) = { f with sig := true, status := if bad then 2 else 0 } ∧
               ∀ k, k ≠ fenceIndex h → d'.fence k = d.fence k
           (d.waiters h = [] → ends (.fenceSignalled q seq) .ok .none 0 fun d' =>
             told d' ∧ (Tab.wf Queue.reset d.host.queues = true → (d'.queue q.val).spanBad = false)) ∧
           ∃ d', exec (.fenceSignalled q seq) s = out d' ∧ told d' ∧ (Tab.wf Queue.reset d.host.queues = true →
             ∀ p ∈ d.waiters h, (p.1 = q.val → p.2.seq ≠ c.seq) → d.cmd p.1 p.2.seq = some p.2 → ∃ ord,
               Dev.completion p.1 p.2 (if bad then .aborted else .ok) (if bad then .fenceError else .none) 0 0 ord ∈
                 Tab.get [] d'.host.fifos p.2.src)))) ∧
     (c.opcode = 7 → c.ph = .started →
       (d.fenceCurrent h = false → ends (.fenceWait q seq) .staleObject .none (h.setWidth 64) same) ∧
       (d.fenceCurrent h = true → f.sig = false → exec (.fenceWait q seq) s = runs) ∧
       (d.fenceCurrent h = true → f.sig = true → f.status = 0 → ends (.fenceWait q seq) .ok .none 0 same) ∧
       (d.fenceCurrent h = true → f.sig = true → f.status ≠ 0 →
         ends (.fenceWait q seq) .aborted (if f.status = 1 then .fenceAbandoned else .fenceError) 0 fun d' =>
           same d' ∧ ((fld c.raw 20 1) % 2 = 1 → (d.queue q.val).st = .running → (d'.queue q.val).st = .stopped) ∧
           (Tab.wf Queue.reset d.host.queues = true → (fld c.raw 20 1) % 2 = 0 →
             (d'.queue q.val).st = (d.queue q.val).st))) ∧
     (c.opcode = 8 → c.ph = .started →
       (fld c.raw 16 8 ≤ d.tide.pos.toNat → ends (.tideWait q seq) .ok .none 0 same) ∧
       (d.tide.pos.toNat < fld c.raw 16 8 → exec (.tideWait q seq) s = runs))) ∧
  (∀ (s : State) (q : Que) (seq : Word) (c : Cmd) (p : StandPlan) (t : PlanTemplate) (a : PlanAct) (n : Nat),
     s.dev.running = true → s.dev.cmd q.val seq = some c → s.dev.plan.active = some p → c.ph = .started →
     let d := s.dev
     let deep := fld c.raw 16 1 % 2 = 1
     let ends (i : Instr) (x : Status) (det : Detail) : Prop :=
       ∃ d', exec i s = .next { s with dev := d' } ∧ Completes d q.val c x det 0 d' ∧
         d'.mem.hbm = d.mem.hbm ∧ d'.lnk = d.lnk
     (c.opcode = 10 → d.activity c.actId = some (t, a) →
       (¬ (deep ∧ a.kind = 6) → ¬ (¬ deep ∧ a.kind = 3) → ends (.strandlineMark q seq) .aborted .decode) ∧
       ((deep ∧ a.kind = 6) ∨ (¬ deep ∧ a.kind = 3) →
         (d.run c.actId c.inst = none ∨ (∃ r, d.run c.actId c.inst = some r ∧ r.done = true) →
           ends (.strandlineMark q seq) .ok .none) ∧
         (∀ r, d.run c.actId c.inst = some r → r.done = false →
           let running := d.modCmd q.val seq fun x => { x with ph := .running }
           (¬ deep → exec (.strandlineMark q seq) s = .next { s with dev := running }) ∧
           (deep → deepBytes p d.stl.deepMan ≤ fld c.raw 32 8 → exec (.strandlineMark q seq) s =
             .next { s with dev := { running with stl := { d.stl with deep := true } } }) ∧
           (deep → fld c.raw 32 8 < deepBytes p d.stl.deepMan →
             ∃ d', exec (.strandlineMark q seq) s = .next { s with dev := d' } ∧
               (∃ ord, Dev.completion q.val c .aborted .decode 0 0 ord ∈ Tab.get [] d'.host.fifos c.src) ∧
               d'.stl.deep = false ∧ d'.outbox = d.outbox ∧ d'.mem = d.mem ∧ d'.lnk = d.lnk)))) ∧
     (c.opcode = 11 → d.queueClr q.val = some n →
       let o := d.obj (objIndex (c.word 16))
       let off := fld c.raw 20 6
       let len := fld c.raw 28 4
       (d.egress n = none → ends (.evalWindow q seq) .ownerDenied .none) ∧
       (∀ k, d.egress n = some k →
         (len = 0 ∨ 65536 < len ∨ o.holds off len = false ∨ fld c.raw 40 4 < 116 + len →
           ends (.evalWindow q seq) .aborted .decode) ∧
         (0 < len → len ≤ 65536 → o.holds off len = true → 116 + len ≤ fld c.raw 40 4 →
           ∀ d₁ x, d.tryRead n (c.holder q.val) (c.word 16) o [(off, len)] = (d₁, some x) → d₁.cmd q.val seq = some c →
           (x.status = .ok → ∃ d', exec (.evalWindow q seq) s = .next { s with dev := d' } ∧
             Completes d₁ q.val c .ok .none 0 d' ∧ d'.outbox = d₁.outbox ++
               [.envelope (BitVec.ofNat 64 (fld c.raw 32 8)) (envelopeBytes k.1 k.2.1 (d₁.slot k.2.2).gen.toNat
                 d₁.addr.toNat (firstHalf (d₁.slot k.2.2).key) (firstHalf (Config.trng d₁.free))
                 ((strBytes (Config.trng (d₁.free + 1)) 24).take 12) ((strBytes (Config.trng (d₁.free + 1)) 24).drop 12)
                 (d₁.evalRecord n c (d₁.readObj o off len)))] ∧
             d'.mem = d₁.mem) ∧
           (x.status ≠ .ok → ∃ d' info, exec (.evalWindow q seq) s = .next { s with dev := d' } ∧
             Completes d₁ q.val c x.status .none info d' ∧ d'.outbox = d₁.outbox)))))

/-- R287–R289 through an object's life: a create takes the lowest free base and index, or reports the first
check that fails and allocates nothing; a GO while BUSY is discarded with OVERRUN; a retire makes a LIVE object
RETIRING at its decode, and a stale handle completes STALE_OBJECT; and with no reference left the index is FREE
under the next generation and the retires complete OK. -/
def Obligations.ObjectLife : Prop :=
  ∀ (s : State) (q : Que) (seq : Word) (c : Cmd) (i : BitVec 20), s.dev.running = true →
    let d := s.dev
    let out (x : Dev) : Host.Outcome State Fault Refusal := .next { s with dev := x }
    let n := d.host.reqWhere.toNat % 16
    let r := d.host.reqWhere.toNat / 16 % 2048
    let size := (d.host.reqSizeHi ++ d.host.reqSizeLo).toNat
    let len := (size + 4095) / 4096 * 4096
    let answers (x : Dev) (res : BitVec 3) (handle : Word) (base : BitVec 64) : Dev :=
      { x with host := { x.host with objBusy := true, objNext := (res, handle, base) } }
    let refused (res : BitVec 3) : Prop := exec .objCreate s = out (answers d res 0xFFFFFFFF 0)
    let room (b : Nat) (total : Nat) : Prop :=
      b % 4096 = 0 ∧ b + len ≤ total ∧ ∀ o ∈ d.host.objs, o.2.st ≠ .free → o.2.clearing.toNat = n →
        o.2.region.toNat = r → b + len ≤ o.2.base ∨ o.2.base + (o.2.size + 4095) / 4096 * 4096 ≤ b
    (d.host.objBusy = true →
      exec .objCreate s = out (d.raise .dbl 5) ∧
      exec .objRequestDone s = out (({ d with host := { d.host with
        objBusy := false, objRes := d.host.objNext.1, objHandle := d.host.objNext.2.1,
        objBase := d.host.objNext.2.2 } } : Dev).raise .dbl 7)) ∧
    (d.host.objBusy = false →
      ((d.clr n).st ≠ .active → refused 4) ∧
      ((d.clr n).st = .active →
        (d.planRegion n r = none → refused 3) ∧
        (∀ rg, d.planRegion n r = some rg →
          (size = 0 → refused 5) ∧
          (0 < size → Tab.wf Obj.reset d.host.objs = true →
            ((∀ k, k < 2 ^ 20 → (d.obj k).st ≠ .free) → refused 2) ∧
            (∀ k, k < 2 ^ 20 → (d.obj k).st = .free → (∀ j, j < k → (d.obj j).st ≠ .free) →
              (∀ o ∈ d.host.objs, o.2.base % 4096 = 0) →
              ((∀ b, ¬ room b rg.dataBytes) → refused 1) ∧
              (∀ b, room b rg.dataBytes → (∀ a, a < b → ¬ room a rg.dataBytes) →
                exec .objCreate s = out (answers (d.modObj k fun _ =>
                  { st := .live, gen := (d.obj k).gen, clearing := BitVec.ofNat 4 n, region := BitVec.ofNat 11 r,
                    owner := d.ownerOf n, mode := rg.mode.setWidth 2, sector := rg.sector != 0, base := b,
                    size := size, ctx := d.host.reqWhere.extractLsb' 16 16, refs := 0, retire := [] })
                  0 (objHandle k (d.obj k).gen) (BitVec.ofNat 64 b)))))))) ∧
    (d.cmd q.val seq = some c → c.opcode = 9 →
      let h := c.word 16
      (c.ph = .decoding → d.liveHandle h = true →
        exec (.objRetire q seq) s = out ((d.modObj (objIndex h) fun o =>
          { o with st := .retiring, retire := o.retire ++ [(q, seq)] }).modCmd q.val seq fun x =>
            { x with ph := .decoded })) ∧
      (c.ph = .decoding → d.liveHandle h = false → ∃ d', exec (.objRetire q seq) s = out d' ∧
        Completes d q.val c .staleObject .none (h.setWidth 64) d' ∧ d' = { d with host := d'.host }) ∧
      (c.ph = .started →
        exec (.objRetire q seq) s = out (d.modCmd q.val seq fun x => { x with ph := .running }))) ∧
    (Tab.wf Obj.reset d.host.objs = true → Tab.wf Queue.reset d.host.queues = true →
      (d.obj i.toNat).st = .retiring → (d.obj i.toNat).refs = 0 →
      (∀ x ∈ (d.obj i.toNat).retire, ∃ c, d.cmd x.1.val x.2 = some c ∧ c.ph = .running ∧ c.refs = []) →
      ∃ d', exec (.objRetireDone i) s = out d' ∧
        d'.obj i.toNat = { Obj.reset with gen := if (d.obj i.toNat).gen = 0xFFE then 0 else (d.obj i.toNat).gen + 1 } ∧
        (∀ k, k ≠ i.toNat → d'.obj k = d.obj k) ∧
        (∀ x ∈ (d.obj i.toNat).retire, ∀ c, d.cmd x.1.val x.2 = some c → ∃ ord,
          Dev.completion x.1.val c .ok .none 0 0 ord ∈ Tab.get [] d'.host.fifos c.src) ∧
        d' = { d with host := d'.host }) ∧
    ((d.obj i.toNat).st = .retiring → 0 < (d.obj i.toNat).refs → exec (.objRetireDone i) s = .next s)

/-- R8, R291–R294, R299 and R301 at the FNC block and a context's destruction: INIT gives a fence to a context
under the next generation, RESET unsignals it, FREE releases it, and a host signal acts on an allocated,
unsignalled fence; waiters complete STALE_OBJECT, FENCE_ABANDONED or with the signal. CTX_DESTROY aborts the
context's commands, retires its objects and abandons its fences, touches no other context's, and ends with
CTX_DONE; while BUSY it raises OVERRUN. -/
def Obligations.FencesAndContexts : Prop :=
  ∀ (s : State) (f ctx : BitVec 16) (st : BitVec 2), s.dev.running = true →
    Tab.wf Queue.reset s.dev.host.queues = true → Tab.wf Fence.reset s.dev.host.fences = true →
    Tab.wf Obj.reset s.dev.host.objs = true →
    let d := s.dev
    let x := d.fence f.toNat
    let h := fenceHandle f.toNat x.gen
    let out (x : Dev) : Host.Outcome State Fault Refusal := .next { s with dev := x }
    let others (d' : Dev) : Prop := (∀ k, k ≠ f.toNat → d'.fence k = d.fence k) ∧
      d' = { d with host := d'.host, ev := d'.ev, pins := d'.pins, outbox := d'.outbox }
    let tells (d' : Dev) (a : Status) (det : Detail) (info : BitVec 64) : Prop :=
      ∀ p ∈ d.waiters h, d.cmd p.1 p.2.seq = some p.2 →
        ∃ ord, Dev.completion p.1 p.2 a det info 0 ord ∈ Tab.get [] d'.host.fifos p.2.src
    (∃ d', exec (.fenceInit f ctx) s = out d' ∧ others d' ∧
      d'.fence f.toNat = { Fence.reset with alloc := true, owner := ctx, gen := x.gen + 1 } ∧
      (x.alloc = true → tells d' .staleObject .none (h.setWidth 64))) ∧
    (exec (.fenceReset f) s = out (d.modFence f.toNat fun x =>
      if x.alloc then { x with sig := false, status := 0 } else x)) ∧
    (x.alloc = true → ∃ d', exec (.fenceFree f) s = out d' ∧ others d' ∧
      d'.fence f.toNat = { Fence.reset with gen := x.gen } ∧ tells d' .aborted .fenceAbandoned 0) ∧
    (x.alloc = false → exec (.fenceFree f) s = .next s) ∧
    (x.alloc = true → x.sig = false → st = 0 ∨ st = 2 → ∃ d', exec (.fncSignal f st) s = out d' ∧ others d' ∧
      d'.fence f.toNat = { x with sig := true, status := st } ∧
      tells d' (if st = 0 then .ok else .aborted) (if st = 0 then .none else .fenceError) 0) ∧
    (x.alloc = false ∨ x.sig = true ∨ st = 1 ∨ st = 3 → exec (.fncSignal f st) s = .next s) ∧
    (d.host.ctxBusy = true → exec (.ctxDestroy ctx) s = out (d.raise .dbl 5)) ∧
    (d.host.ctxBusy = false → ctx ≠ 0 → Tab.wf TileSt.reset d.tiles = true →
      ∃ d', exec (.ctxDestroy ctx) s = out d' ∧ d'.host.ctxBusy = true ∧ d'.host.ctxNum = ctx ∧
        d'.host.deadCtx = ctx :: d.host.deadCtx ∧ d'.plan = d.plan ∧ d'.clrs = d.clrs ∧ d'.mem.hbm = d.mem.hbm ∧
        (∀ y ∈ d.cmds, y.2.context = ctx → d.cmd y.1 y.2.seq = some y.2 → d.progTile y.1 y.2.seq = none →
          (∀ l, d.launchOf y.1 y.2.seq = some l → l.ph = .running) →
          ∃ ord, Dev.completion y.1 y.2 .aborted .contextDestroyed 0 0 ord ∈ Tab.get [] d'.host.fifos y.2.src) ∧
        ((∀ y ∈ d.cmds, y.2.context ≠ ctx) → ∀ k,
          (d'.obj k = { d.obj k with
            st := if (d.obj k).st = .live ∧ (d.obj k).ctx = ctx then .retiring else (d.obj k).st,
            refs := (d'.obj k).refs }) ∧
          (d'.fence k = if (d.fence k).alloc = true ∧ (d.fence k).owner = ctx then
              { d.fence k with sig := true, status := 1 } else d.fence k))) ∧
    (d.host.ctxBusy = true → d.host.ctxNum = ctx →
      ((∃ y ∈ d.cmds, y.2.context = ctx) → exec .ctxDestroyDone s = .next s) ∧
      ((∀ y ∈ d.cmds, y.2.context ≠ ctx) →
        ((∃ o ∈ d.host.objs, o.2.st ≠ .free ∧ o.2.ctx = ctx) →
          ∃ d', exec .ctxDestroyDone s = out d' ∧ d'.host.ctxBusy = true ∧ d'.host.deadCtx = d.host.deadCtx) ∧
        ((∀ o ∈ d.host.objs, o.2.st = .free ∨ o.2.ctx ≠ ctx) →
          ∃ d', exec .ctxDestroyDone s = out d' ∧ d'.host.ctxBusy = false ∧
            (∀ k, (d'.obj k).st = (d.obj k).st) ∧
            d'.host.deadCtx = d.host.deadCtx.filter (· != ctx) ∧ (d'.ev.get .dbl).ev.getLsbD 0 = true ∧
            d'.plan = d.plan ∧ d'.clrs = d.clrs ∧ d'.mem = d.mem)))

/-- R272 and R274–R276: a function level reset, a return from D3hot, a TDI that enters ERROR and PERST_N each
end every command of the host's contexts with ABORTED, FLR, free their objects under the next generation and
clear the DBL and FNC blocks, and leave the plan, the clearings and the memory alone. A TDI moves as TDISP
defines (the model's reading, log entry 61), and a TLP without IDE counts while it is in RUN. -/
def Obligations.FunctionResets : Prop :=
  ∀ (s : State) (fn : Fin 2) (a : Tdi), s.dev.running = true → Tab.wf Obj.reset s.dev.host.objs = true →
    let d := s.dev
    let out (x : Dev) : Host.Outcome State Fault Refusal := .next { s with dev := x }
    let cleared (d' : Dev) : Prop :=
      d'.host.queues = [] ∧ d'.host.fences = [] ∧ d'.host.ctxBusy = false ∧ d'.host.deadCtx = [] ∧
        d'.ev.get .dbl = { Ev.reset with ev := 2 } ∧
        (∀ k, d'.obj k = if (d.obj k).st ≠ .free ∧ (d.obj k).ctx ≠ 0 then
            { Obj.reset with gen := if (d.obj k).gen = 0xFFE then 0 else (d.obj k).gen + 1 }
          else { d.obj k with refs := (d'.obj k).refs }) ∧
        d'.plan = d.plan ∧ d'.clrs = d.clrs ∧ d'.mem.hbm = d.mem.hbm ∧ d'.sec = d.sec ∧ d'.tide = d.tide ∧
        (∀ q c, d.cmds = [(q, c)] → d.host.fifos = [] → d.progTile q c.seq = none → d.launchOf q c.seq = none →
          (d.queue q).cmds = [c] → ∃ addr phase,
          .ringRecord addr ((Dev.completion q c .aborted .flr 0 0 d.host.nextOrd).record phase) ∈ d'.outbox)
    (∃ d', exec (.flr fn) s = out d' ∧ exec (.d3hotReturn fn) s = out d' ∧ cleared d' ∧ d'.bus = d.bus) ∧
    (d.bus.perst = false →
      ∃ d', exec .perstNAssert s = out d' ∧ cleared d' ∧ .pcieLinkReset ∈ d'.outbox ∧
        d'.bus = { d.bus with perst := true, cfgReady := false }) ∧
    (d.bus.perst = true → exec .perstNAssert s = .next s ∧
      exec .perstNRelease s = out { d with bus := { d.bus with perst := false, cfgReady := true } }) ∧
    (let b : Bus := { d.bus with tdi := Tab.set .configUnlocked d.bus.tdi fn.val a }
     (tdiMoves (d.tdi fn.val) a = true → a ≠ .error →
       exec (.tdispMessage fn a) s = out { d with bus := b }) ∧
     (tdiMoves (d.tdi fn.val) a = true → a = .error →
       ∃ d', exec (.tdispMessage fn a) s = out d' ∧ cleared d' ∧ d'.bus = b) ∧
     (tdiMoves (d.tdi fn.val) a = false → exec (.tdispMessage fn a) s = .next s)) ∧
    (d.tdi fn.val = .run → exec (.nonIdeTlpDrop fn) s = out { d with bus := { d.bus with
      aerDrops := Tab.mod 0 d.bus.aerDrops fn.val (· + 1) } }) ∧
    (d.tdi fn.val ≠ .run → exec (.nonIdeTlpDrop fn) s = .next s)

/-- R348–R351, R354, R356–R358 at the engine resets: a hung engine, an overrun activity and RST_CMD reset the
engine alone: its commands complete ABORTED, its tile group or its channel takes the next generation, and the
clearings stay as they are; the reset that reaches the count becomes a clearing recovery reset, and so does one
that times out. An unknown engine is BAD_TARGET, a clearing that resets is BUSY, and a reset's end clears its
busy state. -/
def Obligations.EngineResets : Prop :=
  ∀ (s : State) (e : BitVec 16) (n : Nat) (a : BitVec 16) (inst : Word), s.dev.running = true →
    Tab.wf Queue.reset s.dev.host.queues = true → Tab.wf TileSt.reset s.dev.tiles = true →
    Tab.wf 0 s.dev.flt.chanGen = true →
    let d := s.dev
    let t := e.toNat / 16 % 256
    let out (x : Dev) : Host.Outcome State Fault Refusal := .next { s with dev := x }
    let tell (x : Dev) (r : BitVec 2) : Dev := { x with flt := { x.flt with rstResult := r } }
    let times := (d.clr n).engResets.filter fun u => d.timeUs < u + d.esc.engWindowS * 1000000
    let kept (d' : Dev) : Prop :=
      e ∈ d'.flt.engBusy ∧ (∀ k, (d'.clr k).st = (d.clr k).st ∧ (d'.clr k).roleGen = (d.clr k).roleGen) ∧
        (if e.toNat / 4096 < 5 then d'.tileGen t = d.tileGen t + 1
          else Tab.get 0 d'.flt.chanGen e.toNat = (Tab.get 0 d.flt.chanGen e.toNat + 1) % 4096) ∧
        (d'.ev.get .flt).ev.getLsbD 0 = true ∧ d'.mem.hbm = d.mem.hbm ∧ d'.mem.cache = d.mem.cache ∧
        d'.sec = d.sec ∧ d'.plan = d.plan ∧
        (∀ q c, (d.cmds.filter fun x => d.onEngine e.toNat x.1 x.2) = [(q, c)] → d.cmd q c.seq = some c →
          d.firstFailure q c = none →
          d'.cmd q c.seq = none ∧ Dev.completion q c .aborted .none 0 0 d.host.nextOrd ∈
            Tab.get [] d'.host.fifos c.src ∧ (c.actId ≠ 0xFFFF → (d'.ev.get .flt).ev.getLsbD 5 = true)) ∧
        ((∀ x ∈ d.cmds, d.onEngine e.toNat x.1 x.2 = false) → d'.host = d.host)
    let wider (d' : Dev) : Prop := (d'.clr n).st = .resetting ∧ (d'.ev.get .flt).ev.getLsbD 1 = true ∧
      (d'.clr n).roleGen = (d.clr n).roleGen + 1 ∧ ∀ k, k ≠ n → d'.clr k = d.clr k
    (d.engineClr e.toNat = none → exec (.rstEngine e) s = out (tell d 2) ∧ exec (.engineWatchdog e) s = .next s) ∧
    (d.engineClr e.toNat = some n →
      (d.underReset n = true →
        exec (.rstEngine e) s = out (tell d 1) ∧ exec (.engineWatchdog e) s = .next s) ∧
      (d.underReset n = false →
        (times.length + 1 < d.esc.engCount →
          (∃ d', exec (.rstEngine e) s = out d' ∧ kept d' ∧ e.toNat ∈ d'.flt.rstFor ∧ d'.flt.rstResult = 0) ∧
          ((∃ x ∈ d.cmds, d.onEngine e.toNat x.1 x.2 = true) →
            ∃ d', exec (.engineWatchdog e) s = out d' ∧ kept d') ∧
          ((∀ x ∈ d.cmds, d.onEngine e.toNat x.1 x.2 = false) → exec (.engineWatchdog e) s = .next s)) ∧
        (d.esc.engCount ≤ times.length + 1 → ∃ d', exec (.rstEngine e) s = out d' ∧ wider d' ∧
          e.toNat ∈ d'.flt.rstFor)) ∧
      (e ∈ d.flt.engBusy →
        (exec (.engineResetDone e) s = out { d with flt := { d.flt with
          engBusy := d.flt.engBusy.filter (· != e), rstFor := d.flt.rstFor.filter (· != e.toNat) } }) ∧
        ∃ d', exec (.engineResetTimeout e) s = out d' ∧ wider d' ∧ e ∉ d'.flt.engBusy)) ∧
    (∀ r x, d.run a inst = some r → d.activity a = some x →
      let bound := r.startMark.toNat + 4 * (x.2.deadlineOff.toNat - x.2.startOff.toNat) + 64
      (d.tide.count.toNat < bound → exec (.activityOverrun a inst) s = .next s) ∧
      (r.done = false → bound ≤ d.tide.count.toNat →
        (d.cmds = [] → ∃ d', exec (.activityOverrun a inst) s = out d' ∧
          (d'.ev.get .flt).ev.getLsbD 4 = true ∧ d'.host = d.host ∧ d'.clrs = d.clrs) ∧
        ((allEngines.filter fun e => d.worksFor e fun c => c.actId == a && c.inst == inst) = [e.toNat] →
          d.engineClr e.toNat = some n → d.underReset n = false → times.length + 1 < d.esc.engCount →
          ∃ d', exec (.activityOverrun a inst) s = out d' ∧ kept d')))

/-- R353, R354, R356 and R357 at the resets of a clearing: a recovery reset shows RESETTING, drops its cache
lines, zeroes its tiles, takes its next role generation and keeps its objects, its keys and the other clearings;
at its end the clearing is ACTIVE again, or HALTED when out of service, or CONTAINED; one that times out is
fenced, and a fenced clearing shows FENCED and completes its commands OUT_OF_SERVICE. R352 and R359: three bad
marks of a link declare its far device failed, latched at the first; a Commons repair whose chunk a buddy holds
clean and the strand key opens rewrites the poisoned units and releases the accesses it held, and one that fails completes them
UNCORRECTABLE, a sweep program once what it has issued has ended (R137, R411), and halts the clearing with
ROLLBACK_NEEDED. -/
def Obligations.ClearingResets : Prop :=
  (∀ (s : State) (n : Clr), s.dev.running = true → Tab.wf Queue.reset s.dev.host.queues = true →
     Tab.wf TileSt.reset s.dev.tiles = true → Tab.wf Obj.reset s.dev.host.objs = true →
     let d := s.dev
     let out (x : Dev) : Host.Outcome State Fault Refusal := .next { s with dev := x }
     let tell (r : BitVec 2) : Dev := { d with flt := { d.flt with rstResult := r } }
     let others (d' : Dev) : Prop := ∀ k, k ≠ n.val → d'.clr k = d.clr k
     let ended (d' : Dev) (st : Status) (det : Detail) : Prop :=
       ∀ q c, (d.cmds.filter fun x => d.queueClr x.1 == some n.val) = [(q, c)] → d.cmd q c.seq = some c →
         d.firstFailure q c = none → d'.cmd q c.seq = none ∧
           ∃ ord, Dev.completion q c st det 0 0 ord ∈ Tab.get [] d'.host.fifos c.src
     (d.planClr n.val = none → exec (.rstClearing n) s = out (tell 2)) ∧
     ((d.planClr n.val).isSome = true →
       (d.underReset n.val = true → exec (.rstClearing n) s = out (tell 1)) ∧
       (d.underReset n.val = false →
         ∃ d', exec (.rstClearing n) s = out d' ∧ others d' ∧ ended d' .aborted .clearingHalted ∧
           (d'.clr n.val).st = .resetting ∧ (d'.clr n.val).measure = 0 ∧
           (d'.clr n.val).roleGen = (d.clr n.val).roleGen + 1 ∧ (d'.clr n.val).num = (d.clr n.val).num ∧
           (∀ x, x ∈ d'.mem.cache ↔ x ∈ d.mem.cache ∧ x.2.frame ≠ n.val) ∧ d'.mem.hbm = d.mem.hbm ∧
           d'.sec = d.sec ∧ d'.plan = d.plan ∧
           (∀ t ∈ d.tilesOf n.val, t < 96 → d'.tile t = { TileSt.reset with gen := (d'.tile t).gen }) ∧
           (∀ i, (d'.obj i).st = (d.obj i).st ∧ (d'.obj i).gen = (d.obj i).gen) ∧
           (d'.ev.get .flt).ev.getLsbD 1 = true ∧ 65536 + n.val ∈ d'.flt.rstFor ∧
           ((d.clr n.val).oos = false →
             let times := (d.clr n.val).clrResets.filter fun u => d.timeUs < u + d.esc.clrWindowS * 1000000
             ((d'.clr n.val).oos = true ↔ d.esc.clrCount ≤ times.length + 1)))) ∧
     ((d.clr n.val).st = .resetting → (d.clr n.val).fencing = false →
       (∃ d', exec (.clearingResetDone n) s = out d' ∧ others d' ∧
         (d'.clr n.val).st = (if (d.frame n.val).contained = true then .contained
           else if (d.clr n.val).oos = true ∨ d.failed = true ∨ d.mem.lockdown = true then .halted else .active) ∧
         (∀ p, d.plan.active = some p → (d'.clr n.val).measure = d.measureOf p n.val) ∧
         d' = { d with clrs := d'.clrs, flt := { d.flt with rstFor := d'.flt.rstFor } } ∧
         65536 + n.val ∉ d'.flt.rstFor) ∧
       ∃ d', exec (.clearingResetTimeout n) s = out d' ∧ (d'.clr n.val).fencing = true ∧
         (d.mem.repairs = [] → ended d' .outOfService .none) ∧
         ∀ x ∈ d'.mem.cache, x.2.frame ≠ n.val) ∧
     ((d.clr n.val).st ≠ .resetting →
       exec (.clearingResetDone n) s = .next s ∧ exec (.clearingResetTimeout n) s = .next s) ∧
     ((d.clr n.val).fencing = true →
       let count := (d.flt.fencings.filter fun u => d.timeUs < u + 86400 * 1000000).length + 1
       ∃ d', exec (.fencingDone n) s = out d' ∧ (d'.ev.get .flt).ev.getLsbD 2 = true ∧
         (d'.clr n.val).st = .fenced ∧ (d'.clr n.val).roleGen = (d.clr n.val).roleGen + 1 ∧
         (count < d.esc.fenced24h → others d' ∧ d'.host = d.host ∧ d'.flt.oos = d.flt.oos) ∧
         (d.esc.fenced24h ≤ count → d'.flt.oos = true ∧ (d'.ev.get .flt).ev.getLsbD 3 = true))) ∧
  (∀ (s : State) (l : Lnk) (hs : Stk) (sa : BitVec 37) (copy : ChunkCopy) (ok : Bool) (r : Repair) (p : StandPlan)
     (f rn ra key : Nat) (rg : PlanRegion), s.dev.running = true →
     let d := s.dev
     let out (x : Dev) : Host.Outcome State Fault Refusal := .next { s with dev := x }
     let addr := (d.link l.val).farAddr
     let pa := physOf hs.val sa.toNat
     ((d.link l.val).badMarks < 3 → exec (.neighbourFailed l) s = .next s) ∧
     (3 ≤ (d.link l.val).badMarks →
       ∃ d', exec (.neighbourFailed l) s = out d' ∧ (d'.ev.get .flt).ev.getLsbD 6 = true ∧ d'.pins.alertN = true ∧
         d'.flt.nbrFailed = (if d.flt.nbrFailed.getLsbD 31 then d.flt.nbrFailed
           else BitVec.ofNat 32 (2 ^ 31 + addr.toNat)) ∧ d'.host = d.host ∧ d'.tide = d.tide ∧ d'.clrs = d.clrs) ∧
     (sa.toNat < stackSize → (d.mem.repairs.find? fun r => r.line == pa / 64) = some r →
       d.findPa pa = some (f, rn, ra, rg) → d.plan.active = some p → chunkKey p f rn ra = some key →
       (ok = true → d.buddyHas key = true → copy.chunk = key % 2 ^ 40 → (d.openChunk f copy).isSome = true →
         Tab.wf UnitMeta.reset d.mem.meta_ = true →
         ∃ d', exec (.commonsRepairDone hs sa ok copy) s = out d' ∧
           (∀ x ∈ d'.mem.repairs, x ∈ d.mem.repairs) ∧ (d'.ev.get .flt).ev.getLsbD 7 = true ∧ d'.host = d.host ∧
           ∀ i, i < 4096 / rg.unit → ∀ u, d.phys f rn (ra / 4096 * 4096 + i * rg.unit) = some u →
             (d'.unitMeta (unitKey rg.unit u)).cause = 0) ∧
       (ok = false ∨ d.buddyHas key = false ∨ copy.chunk ≠ key % 2 ^ 40 ∨ d.openChunk f copy = none →
         f < 16 → (d.clr f).st = .active →
         ∃ d', exec (.commonsRepairDone hs sa ok copy) s = out d' ∧ (d'.clr f).st = .halted ∧
           (d'.ev.get .flt).ev.getLsbD 5 = true ∧ d'.mem.hbm = d.mem.hbm ∧
           (∀ x ∈ d'.mem.repairs, x ∈ d.mem.repairs ∧ x.line ≠ r.line) ∧
           ∀ w, r.holders = [w] → ∀ c, d.cmd w.1 w.2.1 = some c →
             (d.progTile w.1 c.seq = none →
               Dev.completion w.1 c .uncorrectable .none w.2.2 0 d.host.nextOrd ∈ Tab.get [] d'.host.fifos c.src) ∧
             ∀ t g, d.progTile w.1 c.seq = some t → (d.tile t).prog = some g → g.flights ≠ [] →
               Tab.wf TileSt.reset d.tiles = true →
               ∃ g', (d'.tile t).prog = some g' ∧ g'.stopped = true ∧ g'.flights = g.flights)) ∧
     (stackSize ≤ sa.toNat → exec (.commonsRepairDone hs sa ok copy) s = .fault .noSuchMemory))

/-- R353, R355, R356, R361, R384–R386 at the causes of a cold reset: RST_CMD COLD, the Ngatasel watchdog, a
control-die ECC error, SYS_RST_N, a deasserted PWR_OK and an undervolt wipe everything that a cold reset does
not keep and post no completion; the cold reset is logged with its cause and counted, and the one that reaches
the count leaves the device out of service. The first three and PWR_OK boot at once with a fresh BOOT_ID;
SYS_RST_N waits for its rise, and without two images that pass R240's checks, their SVN at least FUSE_SVN, the device
stays in reset. A boot draws the keys of the die boundaries (R16). A crash dump keeps its first 256 KiB. -/
def Obligations.ColdResets : Prop :=
  ∀ (s : State) (dump : List Byte) (images : List FwImage) (boot tide : Bool), s.dev.running = true →
    let d := s.dev
    let out (x : Dev) : Host.Outcome State Fault Refusal := .next { s with dev := x }
    let colds := d.timeUs :: d.flt.colds.filter fun t => d.timeUs < t + 86400 * 1000000
    let wiped (d' : Dev) (cause : BitVec 7) : Prop :=
      d'.plan = PlanRegs.reset ∧ d'.sched = Sched.reset ∧ d'.tide = Tide.reset ∧ d'.clrs = [] ∧ d'.tiles = [] ∧
        d'.ctxs = [] ∧ d'.launches = [] ∧ d'.mem = Mem.reset ∧ d'.lnk = LnkBlk.reset ∧ d'.host = HostBlk.reset ∧
        d'.stl = Stl.reset ∧ d'.spdm = Spdm.reset ∧ d'.sec.slots = [] ∧ d'.sec.member = none ∧
        d'.thm = Thm.reset ∧ d'.flt.cause = cause ∧ d'.timeUs = d.timeUs ∧ d'.flt.ready = false ∧
        d'.flt.colds = colds ∧ d'.pwr.energy = d.pwr.energy ∧ d'.pwr.cur = d.pwr.bootMode.getD 2 ∧
        (∀ k, Tab.get LogEntry.reset d'.flt.log k = Tab.get LogEntry.reset d.flt.log k ∨
          ∃ e, Tab.get LogEntry.reset d'.flt.log k = e ∧ e.time = d.timeUs ∧ e.type.toNat ∈ [0x08, 0x09, 0x0F]) ∧
        (∃ k e, Tab.get LogEntry.reset d'.flt.log k = e ∧ e.type = 0x09 ∧ e.info = cause.setWidth 64) ∧
        (colds.length < d.esc.cold24h → d.flt.oos = false → d'.flt.oos = false ∧ d'.outbox = d.outbox) ∧
        (d.esc.cold24h ≤ colds.length → d'.flt.oos = true)
    let booted (d' : Dev) : Prop :=
      d'.dbg = { Dbg.reset with bootId := d'.dbg.bootId } ∧ d'.sec.fw.staged = none ∧ d'.lcs.burning = false ∧
        d'.sec.dieKeys.length = 14
    (∃ d', exec .rstCold s = out d' ∧ wiped d' 4 ∧ booted d' ∧ d'.pins.inReset = false ∧
      d'.flt.dump = d.flt.dump) ∧
    (∃ d', exec (.ngataselWatchdog dump) s = out d' ∧ wiped d' 5 ∧ booted d' ∧ d'.flt.dump = dump.take 262144 ∧
      d'.flt.dumpCause = 5 ∧ d'.flt.dumpValid = true) ∧
    (∃ d', exec (.controlDieEccError dump) s = out d' ∧ wiped d' 6 ∧ booted d' ∧
      d'.flt.dump = dump.take 262144 ∧ d'.flt.dumpCause = 6 ∧ d'.flt.dumpValid = true) ∧
    (∃ d', exec .sysRstNAssert s = out d' ∧ wiped d' 2 ∧ d'.pins.inReset = true ∧
      (∃ d'', exec (.sysRstNRelease images) { s with dev := d' } = out d'' ∧ booted d'' ∧ d''.flt = d'.flt ∧
        (d''.pins.inReset = false ↔ ∃ c n, imageFor images false = some c ∧ imageFor images true = some n ∧
          ∀ i ∈ [c, n], Machine.FwImage.wellLaid i = true ∧ Machine.FwImage.verifies i = true ∧
            d'.commitsEnded.fuseSvn.toNat ≤ i.svn.toNat)) ∧
      exec .sysRstNAssert { s with dev := d' } = out d') ∧
    exec (.sysRstNRelease images) s = .next s ∧
    (d.pins.pwrOk = true →
      (∃ d', exec .pwrOkDeassert s = out d' ∧ wiped d' 3 ∧ booted d' ∧ d'.pins.pwrOk = false ∧
        exec (.pwrOkRise boot tide) { s with dev := d' } = out { d' with pins :=
          { d'.pins with pwrOk := true, strapBoot := boot, strapTide := tide } }) ∧
      (∃ d', exec .vinMainUndervolt s = out d' ∧ d'.flt.cause = 3 ∧ d'.host = HostBlk.reset ∧
        d'.mem = Mem.reset ∧ d'.plan = PlanRegs.reset ∧ (d'.ev.get .pwr).ev.getLsbD 3 = true) ∧
      exec (.pwrOkRise boot tide) s = .next s) ∧
    (d.pins.pwrOk = false → exec .pwrOkDeassert s = .next s ∧ exec .vinMainUndervolt s = .next s)

/-- R353, R384, R386 and R389: removal of power leaves what fuses and flash hold and, while VIN_AUX stays, the
THERM_TRIP_N latch; the error log, the counts and the time start again. VIN_MAIN applied releases the latch and
leaves the device in reset, and R182, R210 and R369 at BOOT_READY: each trained pseudo-channel takes its state, READY
rises except on a Scrapped device, stage 1 is on unless an overcurrent has acted, and the first start in Maker state
whose TRNG passes its tests draws the root secret. In the model's reading a
command to a device without power or in reset does nothing. -/
def Obligations.PowerComesAndGoes : Prop :=
  ∀ (s : State) (aux trngFail : Bool) (lane pc st : Nat) (laneAt : List (Nat × Fin 36)),
    let d := s.dev
    let out (x : Dev) : Host.Outcome State Fault Refusal := .next { s with dev := x }
    (∃ d', exec (.powerRemoval aux) s = out d' ∧ d'.pins.powered = false ∧ d'.pins.inReset = true ∧
      d'.pins.thermTrip = (d.pins.thermTrip && !aux) ∧ d'.flt = Flt.reset ∧ d'.timeUs = 0 ∧ d'.mem = Mem.reset ∧
      d'.host = HostBlk.reset ∧ d'.plan = PlanRegs.reset ∧ d'.sec = { Sec.reset with fw := d.sec.fw } ∧
      d'.lnk = LnkBlk.reset ∧ d'.clrs = [] ∧ d'.tiles = [] ∧ d'.outbox = d.outbox ∧ d'.pwr.energy = 0 ∧
      d'.pwr.bootMode = d.pwr.bootMode ∧ d'.lcs.returnPending = false) ∧
    (d.pins.powered = false → exec .vinMainApply s = out { d with pins :=
      { d.pins with powered := true, thermTrip := false } }) ∧
    (d.pins.powered = true → exec .vinMainApply s = .next s) ∧
    (d.running = true → d.flt.ready = true →
      exec (.bootReady [(64 * st + pc, lane)] laneAt trngFail) s = .next s) ∧
    (d.running = true → d.flt.ready = false → pc < 64 → st < 16 → Tab.wf StackSt.reset d.mem.stk = true →
      ∃ d', exec (.bootReady [(64 * st + pc, lane)] laneAt trngFail) s = out d' ∧ d'.flt.ready = (d.lcs.st != .scrapped) ∧
        d'.pwr.stage1 = !d.pwr.ocp ∧ (∀ k, k ≠ st → d'.stack k = d.stack k) ∧
        ((d.stack st).train = 0 → (d'.stack st).train =
          if lane = 0 then 0 else if lane ≤ 2 then 1 else if lane = 3 then 2 else 3) ∧
        (Tab.wf 0 (d.stack st).pcs = true → Tab.get 0 (d'.stack st).pcs pc =
          if lane = 0 then 0 else if lane ≤ 2 then 1 else if lane = 3 then 2 else 3) ∧
        d'.sec = { d.sec with trngFail := trngFail } ∧
        (if d.lcs.st = .maker ∧ d.lcs.root = [] ∧ trngFail = false then
          d'.lcs = d.lcs.putSecret (Config.trng d.free) ∧ d'.free = d.free + 1
        else d'.lcs = d.lcs ∧ d'.free = d.free) ∧
        (lane = 3 → (d'.ev.get .mem).ev.getLsbD 5 = true) ∧
        (4 ≤ lane → (d'.ev.get .mem).ev.getLsbD 6 = true) ∧ d'.host = d.host ∧ d'.plan = d.plan)

/-- R379, R381, R382, R384, R388 and R389: a mode request replaces a pending one and acts at the first mark that
reaches its position, or at once with no plan; a lower clock holds from that mark and a higher one once the
voltages have settled; a cancel withdraws a pending request; samples report power and raise OVER_BUDGET; an
overcurrent, a stage 2 fault and a CRITICAL die halt every clearing; a die at WARN runs on, leaves WARN after
100 samples 5 °C below, and a die at TRIP stops the device. -/
def Obligations.PowerAndTemperature : Prop :=
  ∀ (s : State) (m : BitVec 2) (w mv av : BitVec 16) (ps : List (BitVec 16)) (e : BitVec 64) (r : Fin 8) (x : Die)
    (t : BitVec 8), s.dev.running = true →
    let d := s.dev
    let p := d.pwr
    let out (x : Dev) : Host.Outcome State Fault Refusal := .next { s with dev := x }
    let put (y : Pwr) : Dev := { d with pwr := y }
    let begins (p : Pwr) (t : BitVec 2) : Dev :=
      let y : Pwr := { p with pending := false, ramping := true, rampTo := t,
                              cur := if p.cur.toNat < t.toNat then t else p.cur }
      if t = p.cur then (put { p with pending := false }).raise .pwr 0 else put y
    let halts (d' : Dev) : Prop := d'.flt.cliff = true ∧ (∀ n, n < 16 → (d'.clr n).st ≠ .active) ∧
      d'.plan = d.plan ∧ d'.sec = d.sec ∧ d'.mem.hbm = d.mem.hbm
    (exec (.modeRequest 3) s = .next s) ∧
    (m ≠ 3 → (d.plan.active.isSome = true ∨ p.ramping = true →
        exec (.modeRequest m) s = out (put { p with target := m, pending := true })) ∧
      (d.plan.active = none → p.ramping = false →
        exec (.modeRequest m) s = out (begins { p with target := m } m))) ∧
    (exec .modeCancel s = out (put { p with pending := false })) ∧
    (p.pending = true → p.ramping = false → d.plan.active.isSome = true → d.tide.firstSeen = true →
      ((p.posHi ++ p.posLo).toNat ≤ d.tide.pos.toNat → exec .modeChange s = out (begins p p.target)) ∧
      (d.tide.pos.toNat < (p.posHi ++ p.posLo).toNat → exec .modeChange s = .next s)) ∧
    (p.ramping = true →
      exec .modeRampDone s = out ((put { p with ramping := false, cur := p.rampTo }).raise .pwr 0)) ∧
    (let y : Pwr := { p with
       inNow := w, inMax := if p.inMax.toNat < w.toNat then w else p.inMax, parts := ps.take 8, mainMv := mv,
       auxMv := av, energy := e, mainOk := 11400 ≤ mv.toNat && mv.toNat ≤ 12600,
       auxOk := 3135 ≤ av.toNat && av.toNat ≤ 3465 }
     exec (.powerSample w ps mv av e) s = out (if p.limit.toNat < w.toNat then (put y).raise .pwr 1 else put y)) ∧
    (exec (.extFault r) s = out ((put { p with extFault := setBit p.extFault r.val }).raise .pwr 4)) ∧
    (∃ d', exec .overcurrent s = out d' ∧ halts d' ∧ d'.pwr = { p with stage1 := false, ocp := true } ∧
      (d'.ev.get .pwr).ev.getLsbD 2 = true ∧ d'.pins.alertN = true) ∧
    (∃ d', exec .stage2Fault s = out d' ∧ halts d' ∧ d'.pwr = { p with stage2 := true } ∧
      (d'.ev.get .pwr).ev.getLsbD 5 = true) ∧
    (∀ warn crit trip, d.dieLimits x = (warn, crit, trip) → Tab.wf DieSt.reset d.thm.dies = true →
      let k := dieKey x
      let was := d.die k
      ∃ d', exec (.dieTempSample x t) s = out d' ∧ (d'.die k).now = t ∧
        (d'.die k).max = (if was.max.toNat < t.toNat then t else was.max) ∧
        (∀ j, j ≠ k → d'.die j = d.die j) ∧
        (trip ≤ t.toNat → d'.pins.thermTrip = true ∧ d'.running = false) ∧
        (t.toNat < trip → d'.pins.thermTrip = d.pins.thermTrip) ∧
        (was.st ≠ 2 → (∃ c, crit = some c ∧ c ≤ t.toNat) → halts d' ∧ (d'.die k).st = 2 ∧
          (d'.ev.get .thm).ev.getLsbD 2 = true) ∧
        (was.st = 2 → (d'.die k).st = 2) ∧
        ((∀ c, crit = some c → t.toNat < c) → t.toNat < trip → 
          (was.st = 0 → warn ≤ t.toNat → (d'.die k).st = 1 ∧ (d'.ev.get .thm).ev.getLsbD 0 = true ∧
            d'.clrs = d.clrs ∧ d'.host = d.host) ∧
          (was.st = 1 → t.toNat + 5 ≤ warn → 99 ≤ was.below → (d'.die k).st = 0 ∧
            (d'.ev.get .thm).ev.getLsbD 1 = true) ∧
          (was.st = 1 → warn < t.toNat + 5 → (d'.die k).st = 1 ∧ (d'.die k).below = 0)))

/-- R329, R331–R334, R342 and R343 at a save and the loss log: a stage sends its manifests once its chunks and
entries are acknowledged and not before; the save is done when the last stage's sends and receipts have ended,
which moves C by an eighth of its distance; a completed loss activity's word enters the log, which keeps 16, and
goes to every buddy; the first replayed instance's word gives MATCH, MISMATCH or NO_RECORD; and a deep
strandline posts its manifests and deep records in one piece. -/
def Obligations.SavesRun : Prop :=
  ∀ (s : State) (p : StandPlan) (g : PlanStrand) (ms : Nat) (q : Que) (seq : Word) (c : Cmd),
    s.dev.running = true → s.dev.plan.active = some p → p.strandline = some g →
    let d := s.dev
    let out (x : Dev) : Host.Outcome State Fault Refusal := .next { s with dev := x }
    (∀ w : SendSet, (w = .stageA ∧ d.stl.st = .stageA) ∨ (w = .stageB ∧ d.stl.st = .stageB) →
      (d.stl.manifestsSent = false → d.setSent w g = true → d.linksTo (w.addr g) ≠ [] →
        ∃ d', exec .manifestSend s = out d' ∧ d'.stl = { d.stl with manifestsSent := true } ∧
          d' = { d with stl := d'.stl, lnk := { d.lnk with links := d'.lnk.links } } ∧
          ∀ m ∈ d.stl.manifests, ∀ f ∈ d.strandFlits m.clearing.toNat 2 0 (d.manifestBytes d.stl.index m),
            ∃ l ∈ d.linksTo (w.addr g), f.body ∈ ((d'.link l).txq.map (·.body))) ∧
      (d.stl.shadowEnd = none → d.setSent w g = false → exec .manifestSend s = .next s)) ∧
    (d.stl.st = .stageA → g.k = 1 → d.stl.manifestsSent = true → d.setSent .stageA g = true →
      d.receiptsDone g = true →
      ∃ d', exec (.saveDone ms) s = out d' ∧ d'.stl.st = .idle ∧ d'.stl.buddyIdx0 = d.stl.index ∧
        (d'.ev.get .stl).ev.getLsbD 0 = true ∧ d'.mem = d.mem ∧ d'.plan = d.plan ∧
        ((ms : Int) = d.stl.costMs → d'.stl.costMs = ms) ∧
        ∀ j : Int, (ms : Int) - d.stl.costMs = 8 * j → d'.stl.costMs = d.stl.costMs + j) ∧
    (d.stl.st = .stageA → g.k ≠ 1 → exec (.saveDone ms) s = .next s) ∧
    (∀ r, d.newLoss g = some r →
      ∃ d', exec .lossWordRecord s = out d' ∧ d'.stl.lossLog = ((r.inst, d.lossWord g) :: d.stl.lossLog).take 16 ∧
        d' = { d with
          free := d'.free, stl := { d.stl with lossLog := d'.stl.lossLog },
          lnk := { d.lnk with links := d'.lnk.links } }) ∧
    (d.newLoss g = none → exec .lossWordRecord s = .next s) ∧
    (d.stl.st = .replay → (∃ r, d.run g.lossAct (d.stl.lastInst + 1) = some r ∧ d.runComplete r = true) →
      let inst := d.stl.lastInst + 1
      let found := d.stl.lossLog.find? (·.1 == inst)
      ∃ d', exec (.lossVerify inst) s = out d' ∧ d'.stl.st = .idle ∧ d'.mem = d.mem ∧ d'.host = d.host ∧
        (found = none → d'.stl.verify = 3 ∧ (d'.ev.get .stl).ev.getLsbD 7 = true) ∧
        (∀ e, found = some e → e.2 = d.lossWord g →
          d'.stl.verify = 1 ∧ (d'.ev.get .stl).ev.getLsbD 5 = true ∧ d'.stl.stopAt = d.stl.stopAt) ∧
        (∀ e, found = some e → e.2 ≠ d.lossWord g →
          d'.stl.verify = 2 ∧ (d'.ev.get .stl).ev.getLsbD 6 = true ∧ d'.stl.stopAt = true)) ∧
    (d.cmd q.val seq = some c → c.opcode = 10 → c.ph = .running → fld c.raw 16 1 % 2 = 1 → d.stl.deep = true →
      ∀ d₁ rs, Dev.deepRecords d.stl.index (allChunks p) d = (d₁, some rs) →
      ∃ d' es, exec (.deepStrandlineDone q seq) s = out d' ∧ d'.outbox = d₁.outbox ++ [.deepWrite
          (BitVec.ofNat 64 (fld c.raw 24 8))
          ((d.stl.deepMan.flatMap fun m => d.manifestBytes d.stl.index m) ++ rs)] ++ es ∧
        d'.stl.deep = false ∧ d'.stl.deepMan = [] ∧ (d'.ev.get .stl).ev.getLsbD 2 = true ∧ d'.mem = d₁.mem)

/-- R337–R340 and R347 at STL_CMD: while a restore runs every command is discarded with BUSY; ROLLBACK and
RESTORE_DEEP give every clearing a recovery reset and begin the restore, TAKEOVER adopts the failed role's
address on a standby alone; RESTORE_DONE names the first clearing that fails and the reason, or takes the
restored state as it is; and RESUME moves every BASE so that the next instance of TEMPLATE starts at
STL_RESUME_POS. -/
def Obligations.RecoveryRuns : Prop :=
  ∀ (s : State) (is : List RestoreImage) (r : RestoreRecord) (gap : Nat), s.dev.running = true →
    let d := s.dev
    let out (x : Dev) : Host.Outcome State Fault Refusal := .next { s with dev := x }
    let answers (x : Dev) (res : BitVec 4) (op : BitVec 3) (cl : Byte) : Dev :=
      { x with stl := { x.stl with result := res, op := op, resClr := cl } }
    let busy := d.stl.st = .rollback ∨ d.stl.st = .fill ∨ d.stl.st = .takeover
    let begins (i : Instr) (st : StlSt) (op : BitVec 3) : Prop :=
      ∃ d', exec i s = out d' ∧ d'.stl.st = st ∧ d'.stl.op = op ∧ d'.stl.pend0 = [] ∧ d'.stl.manifests = [] ∧
        d'.stl.lossLog = d.stl.lossLog ∧ d'.stl.index = d.stl.index ∧ d'.plan = d.plan ∧ d'.sec = d.sec ∧
        d'.mem.hbm = d.mem.hbm ∧ ∀ n ∈ d.clearings, (d'.clr n).st = .resetting ∧
          (d'.clr n).roleGen = (d.clr n).roleGen + 1
    (busy → exec .rollback s = out (answers d 5 1 0) ∧ exec .takeover s = out (answers d 5 2 0) ∧
      exec .resume s = out (answers d 5 3 0) ∧ exec .restoreDeep s = out (answers d 5 4 0)) ∧
    (¬ busy →
      (d.strand = none → exec .rollback s = out (answers d 1 1 0xFF) ∧
        exec .restoreDeep s = out (answers d 1 4 0xFF) ∧ exec .takeover s = out (answers d 6 2 0)) ∧
      (d.strand.isSome = true → begins .rollback .rollback 1 ∧ begins .restoreDeep .fill 4) ∧
      (∀ g, d.strand = some g → g.role ≠ 1 → exec .takeover s = out (answers d 6 2 0)) ∧
      (∀ g, d.strand = some g → g.role = 1 →
        ∃ d', exec .takeover s = out d' ∧ d'.sec = { d.sec with takeover := some (d.stl.takeAddr.setWidth 20) } ∧
          d'.addr = d.stl.takeAddr.setWidth 20 ∧ d'.stl.st = .takeover ∧ d'.stl.result = 0 ∧
          d' = { d with sec := d'.sec, stl := d'.stl, free := d'.free }) ∧
      (d.stl.restored = false → exec .resume s = out (answers d 5 3 0)) ∧
      (∀ p g t, d.plan.active = some p → p.strandline = some g → d.stl.restored = true →
        p.templates.find? (·.templateId == g.template) = some t →
        let pos := (d.stl.resPosHi ++ d.stl.resPosLo).toNat
        ∃ d', exec .resume s = out d' ∧ d'.stl.st = .replay ∧ d'.stl.verify = 0 ∧ d'.stl.result = 0 ∧
          (d.instBase t (d.stl.lastInst + 1).toNat ≤ pos →
            d'.sched.delta = d.sched.delta + (pos - d.instBase t (d.stl.lastInst + 1).toNat)) ∧
          d'.tide = d.tide ∧ d'.mem = d.mem ∧ d'.host = d.host)) ∧
    (∀ p, d.plan.active = some p → d.stl.st = .rollback ∨ d.stl.st = .fill →
      let idle : Dev := { d with stl := { d.stl with st := .idle } }
      (exec (.restoreDone is r false gap) s = out (answers idle 1 d.stl.op 0xFF)) ∧
      (∀ n, d.clearings = [n] → (∀ x ∈ is, x.clearing.val ≠ n) →
        exec (.restoreDone is r true gap) s = out (answers idle 1 d.stl.op (BitVec.ofNat 8 n))) ∧
      (∀ n x res, d.clearings = [n] → is = [x] → x.clearing.val = n → d.restoreFail p x = some res →
        exec (.restoreDone is r true gap) s = out (answers idle res d.stl.op (BitVec.ofNat 8 n))) ∧
      (∀ n x res, d.clearings = [n] → is = [x] → x.clearing.val = n → d.restoreFail p x = none →
        d.manifestFail p r.manifest 0xFF 0 = some res → ∃ d', exec (.restoreDone is r true gap) s = out d' ∧
          d'.stl.st = .idle ∧ d'.stl.result = res ∧ d'.stl.op = d.stl.op ∧ d'.stl.resClr = 0xFF ∧
          d'.stl.restored = d.stl.restored) ∧
      (∀ n x, d.clearings = [n] → is = [x] → x.clearing.val = n → d.restoreFail p x = none →
        d.manifestFail p r.manifest 0xFF 0 = none → d.stl.op ≠ 2 →
        ∃ d', exec (.restoreDone is r true gap) s = out d' ∧ d'.stl.st = .idle ∧ d'.stl.result = 0 ∧
          d'.stl.restored = true ∧ d'.stl.lastInst = r.lastInst ∧ (d'.ev.get .stl).ev.getLsbD 4 = true ∧
          (d'.clr n).num = restoredNum x ∧ d'.stl.lossLog = d.stl.lossLog ∧ d'.plan = d.plan ∧
          ((∀ o ∈ x.objects, ∀ o' ∈ x.objects, o'.1 = o.1 → o' = o) → ∀ o ∈ x.objects,
            (d'.obj o.1).st = .live ∧ (d'.obj o.1).gen = o.2.1 ∧ (d'.obj o.1).base = o.2.2.2.1))) ∧
    (d.stl.st ≠ .rollback → d.stl.st ≠ .fill → exec (.restoreDone is r true gap) s = .next s)

/-- R364, R367, R368, R373–R376 at the life cycle and the reopening: LCS_ADVANCE names its refusal and changes
nothing else, or shows the target at once, halts every clearing, destroys every key and begins the burn
sequence, whose end burns every word and takes a cold reset; a challenge is fresh and replaces the old one; a
response is checked in R374's order; OPEN consumes its challenge, destroys every key and puts the device out of
service, and its scope opens once no command is left; RETURN only becomes pending. In the model's reading RETURN
without a free record answers LIFECYCLE, and a burning FW_COMMIT makes the advance wait. -/
def Obligations.LifeCycleAndDebug : Prop :=
  ∀ (s : State) (v : Word) (scope : Byte) (r : DbgResp) (t : Lc), s.dev.running = true →
    let d := s.dev
    let out (x : Dev) : Host.Outcome State Fault Refusal := .next { s with dev := x }
    let lcsSays (r : BitVec 4) : Dev := { d with lcs := { d.lcs with result := r } }
    let dbgSays (r : BitVec 4) : Dev := { d with dbg := { d.dbg with result := r } }
    let no_keys (d' : Dev) : Prop := (∀ k, (d'.slot k).loaded = false) ∧ d'.sec.member = none ∧
      (∀ n, n < 16 → (d'.clr n).st ≠ .active) ∧ (d'.ev.get .sec).ev.getLsbD 4 = true
    let from_ := (v.extractLsb' 0 3).toNat
    let target := (v.extractLsb' 4 3).toNat
    (v.getLsbD 31 = false → exec (.lcsAdvance v) s = .next s) ∧
    (v.getLsbD 31 = true →
      (d.lcs.burning = true ∨ d.lcs.waiting.isSome = true → exec (.lcsAdvance v) s = out (lcsSays 3)) ∧
      (d.lcs.burning = false → d.lcs.waiting = none →
        (from_ ≠ d.lcs.st.code → exec (.lcsAdvance v) s = out (lcsSays 1)) ∧
        (from_ = d.lcs.st.code →
          (4 < target → exec (.lcsAdvance v) s = out (lcsSays 2)) ∧
          (target = t.code →
            let allowed := (d.lcs.st = .maker ∧ t = .integrator) ∨ (d.lcs.st = .integrator ∧ t = .fielded) ∨
              (d.lcs.st ≠ .scrapped ∧ t = .scrapped)
            (¬ allowed → exec (.lcsAdvance v) s = out (lcsSays 2)) ∧
            (allowed → t ≠ .scrapped → (∀ k, k < 7 → (Tab.get BurnRec.reset d.lcs.recs k).target ≠ 0) →
              exec (.lcsAdvance v) s = out (lcsSays 2)) ∧
            (allowed → t = .scrapped ∨ (∃ k, k < 7 ∧ (Tab.get BurnRec.reset d.lcs.recs k).target = 0) →
              (d.sec.fw.commits.any (!·.2) = true → exec (.lcsAdvance v) s = out { d with lcs := { d.lcs with
                result := 0, waiting := some t } }) ∧
              (d.sec.fw.commits.any (!·.2) = false → Tab.wf Slot.reset d.sec.slots = true →
                ∃ d', exec (.lcsAdvance v) s = out d' ∧ d'.lcs.st = t ∧ d'.lcs.burning = true ∧
                  d'.lcs.result = 0 ∧ d'.lcs.code0 = d.lcs.code0 ∧ no_keys d' ∧ d'.plan = d.plan ∧
                  d'.mem.hbm = [] ∧ d'.mem.regions = [] ∧
                  (t = .scrapped → d'.lcs.returnPending = false))))))) ∧
    (d.lcs.burning = true → d.lcs.progRec.toNat < 8 →
      ∃ d', exec .lcsBurnDone s = out d' ∧ d'.flt.cause = 7 ∧ d'.host = HostBlk.reset ∧ d'.plan = PlanRegs.reset ∧
        burntIn d.lcs.st.word d'.lcs.code0 ∧ burntIn d.lcs.st.word d'.lcs.code1 ∧
        burntIn d.lcs.st.word d'.lcs.code2 ∧
        (d.lcs.st = .scrapped → d'.lcs.rootZeroed = true ∧ d'.lcs.root = List.replicate 24 0xFFFFFFFF) ∧ d'.lcs.burning = false) ∧
    (d.lcs.burning = false → exec .lcsBurnDone s = .next s) ∧
    (d.dbg.opening = none → d.lcs.st ≠ .scrapped →
      ∃ bytes, bytes.length = 192 ∧ exec (.dbgChallenge scope) s = out { d with
        free := d.free + 1, dbg :=
          { d.dbg with
            chal := some { scope := scope, nonce := d.random, issued := d.timeUs, bytes := bytes },
            result := 0 } }) ∧
    (d.dbg.opening.isSome = true → ∀ c ∈ [Instr.dbgChallenge scope, .dbgOpen r, .dbgReturn r], exec c s = .next s) ∧
    (d.dbg.opening = none →
      ∀ p ∈ [(Instr.dbgOpen r, (r.scope &&& 0xE0) == 0 && r.scope != 0), (Instr.dbgReturn r, r.scope == 0x80)],
        (d.lcs.st ≠ .fielded → exec p.1 s = out (dbgSays 6)) ∧
        (d.lcs.st = .fielded →
          (r.wellLaid = false ∨ p.2 = false → exec p.1 s = out (dbgSays 1)) ∧
          (r.wellLaid = true → p.2 = true →
            ((∀ c, d.dbg.chal = some c → c.issued + 600000000 ≤ d.timeUs) → exec p.1 s = out (dbgSays 2)) ∧
            (∀ c, d.dbg.chal = some c → d.timeUs < c.issued + 600000000 →
              let matched := r.nonce = c.nonce ∧ r.identity = d.identity ∧ r.bootId = d.dbg.bootId
              (¬ matched → exec p.1 s = out (dbgSays 3)) ∧
              (matched → r.keyOk = false ∨ r.sigOk = false → exec p.1 s = out (dbgSays 4)) ∧
              (matched → r.keyOk = true → r.sigOk = true →
                (r.scope &&& ~~~c.scope ≠ 0 → exec p.1 s = out (dbgSays 5)) ∧
                (r.scope &&& ~~~c.scope = 0 → d.dbg.opened = true ∨ d.lcs.returnPending = true →
                  exec p.1 s = out (dbgSays 7)) ∧
                (r.scope &&& ~~~c.scope = 0 → d.dbg.opened = false → d.lcs.returnPending = false →
                  (p.1 = .dbgOpen r → Tab.wf Slot.reset d.sec.slots = true →
                    ∃ d', exec (.dbgOpen r) s = out d' ∧ no_keys d' ∧ d'.dbg.chal = none ∧
                      d'.dbg.opening = some r.scope ∧ d'.sec.debugOpened = true ∧ d'.retired = true ∧
                      (∀ l, l < 64 → d.linkUsable l = true → (d'.link l).st ≠ .up) ∧ d'.plan = d.plan) ∧
                  (p.1 = .dbgReturn r → (∃ k, k < 7 ∧ (Tab.get BurnRec.reset d.lcs.recs k).target = 0) →
                    exec (.dbgReturn r) s = out { d with
                      dbg := { d.dbg with chal := none, result := 0 },
                      lcs := { d.lcs with returnPending := true } }))))))) ∧
    (∀ sc, d.dbg.opening = some sc →
      ((∀ x ∈ d.tiles, x.2.prog = none) → exec .debugScopeOpen s = out { d with dbg :=
        { d.dbg with opening := none, opened := true, scope := sc } }) ∧
      ((∃ x ∈ d.tiles, x.2.prog.isSome = true) → exec .debugScopeOpen s = .next s)) ∧
    exec .challengeExpiry s = out { d with dbg := { d.dbg with chal := none } }

/-- R362, R363, R372 and R402 at the TAP: an instruction that the present state does not permit selects the
bypass register and does nothing else; CTRL halts the command processors; BIST runs only while every clearing is
halted and destroys HBM's contents; MEMREAD gives one line of an object under a BENCH plan, or the status of a
line that fails; the trace trigger fires on an edge held 20 ns under its claim. The boundary-scan cells sampled
are free values. -/
def Obligations.TestAccess : Prop :=
  ∀ (s : State) (halt : Bool) (bs : List Bool) (h : Word) (off : BitVec 48) (st : Status) (ns : Nat),
    s.dev.running = true →
    let d := s.dev
    let out (x : Dev) : Host.Outcome State Fault Refusal := .next { s with dev := x }
    let takes (c : Byte) : Dev := { d with dbg := { d.dbg with tapIr := c }, outbox := d.outbox ++ [.tap c] }
    let scan : List (Byte × Instr) := [(0x03, .extest), (0x04, .clamp), (0x05, .highz)]
    let plain : List (Byte × Instr) := [(0x10, .trace), (0x13, .linkLoop)]
    let rest : List (Byte × Instr) := [(0x02, .samplePreload (some bs)), (0x11, .ctrl halt), (0x12, .bist),
      (0x20, .memread h off st)]
    let granted (c : Byte) : Prop := d.dbg.opened = true ∧ d.dbg.scope.getLsbD
      (if c = 0x10 then 1 else if c = 0x11 then 2 else if c = 0x12 then 3 else if c = 0x13 then 4 else 0) = true
    let may (c : Byte) : Prop := d.lcs.st = .maker ∨ d.lcs.st = .integrator ∨ d.lcs.st = .returned ∨
      (d.lcs.st = .fielded ∧ granted c ∧ c ≠ 0x20)
    (exec .bypass s = out (takes 0xFF)) ∧
    (∃ id : BitVec 32, exec .idcode s = out { takes 0x01 with outbox := d.outbox ++ [.tap 0x01] ++ [.tapData id] } ∧
      id.extractLsb' 28 4 = 0 ∧ id.extractLsb' 12 16 = 0x2516 ∧ id.getLsbD 0 = true) ∧
    (∀ x ∈ scan ++ plain ++ rest, ¬ may x.1 → exec x.2 s = out (takes 0xFF)) ∧
    (∀ x ∈ scan, d.plan.active.isSome = true → exec x.2 s = out (takes 0xFF)) ∧
    (∀ x ∈ scan, d.plan.active = none → may x.1 → exec x.2 s = out (takes x.1)) ∧
    (∀ x ∈ plain, may x.1 → exec x.2 s = out (takes x.1)) ∧
    (d.lcs.st = .maker → exec .ngsScan s = out (takes 0x30)) ∧
    (d.lcs.st ≠ .maker → exec .ngsScan s = out (takes 0xFF)) ∧
    (may 0x02 →
      (exec (.samplePreload (some bs)) s = out { takes 0x02 with
        free := d.free + 1, dbg := { d.dbg with
          tapIr := 0x02, bsr := (bs ++ List.replicate 36 false).take 36 } }) ∧
      ∃ cells, cells.length = 36 ∧ exec (.samplePreload none) s = out { takes 0x02 with
        free := d.free + 1, dbg := { d.dbg with tapIr := 0x02, bsr := cells } }) ∧
    (may 0x11 → exec (.ctrl halt) s = out { takes 0x11 with dbg :=
      { d.dbg with tapIr := 0x11, cpHalted := halt } }) ∧
    (may 0x12 →
      ((∀ n ∈ d.clearings, (d.clr n).st = .halted ∨ (d.clr n).st = .fenced ∨ (d.clr n).st = .contained) →
        exec .bist s = out { takes 0x12 with
          free := d.free + 1, mem := { d.mem with hbm := [], meta_ := [], cache := [], flaws := [] } }) ∧
      ((∃ n ∈ d.clearings, (d.clr n).st = .active) → exec .bist s = out (takes 0x12))) ∧
    (may 0x20 →
      let o := d.obj (objIndex h)
      let at_ := off.toNat / 64 * 64
      (d.benchActive = false ∨ o.st = .free ∨ o.gen ≠ objGen h ∨ o.holds at_ 64 = false →
        exec (.memread h off st) s = out (takes 0x20)) ∧
      (d.benchActive = true → o.st ≠ .free → o.gen = objGen h → o.holds at_ 64 = true →
        (d.keySlot o.clearing.toNat 1).isSome = true →
        let found := worse st ((takes 0x20).checkObj o at_ 64).2.status
        (found = .ok → ∃ line, line.length = 64 ∧ exec (.memread h off st) s = out { takes 0x20 with
          free := d.free + 1, outbox := d.outbox ++ [.tap 0x20] ++ [.tapLine .ok line] }) ∧
        (found ≠ .ok → exec (.memread h off st) s = out { takes 0x20 with
          outbox := d.outbox ++ [.tap 0x20] ++ [.tapLine found []] }))) ∧
    (d.traceIn = true → d.tide.auxHiZ = false → 20 ≤ ns → exec (.traceTriggerEdge ns) s = out { d with dbg :=
      { d.dbg with traceFired := d.dbg.traceFired + 1 } }) ∧
    (d.traceIn = false ∨ d.tide.auxHiZ = true ∨ ns < 20 → exec (.traceTriggerEdge ns) s = .next s)

/-- R364–R366 and R370: the fuses are antifuses. Whatever a step does, interrupted burns and cold resets
included, every bit burnt before it is burnt after it: the code words, the root-secret array once zeroised, and
the transition records. -/
def Obligations.FusesKept : Prop :=
  ∀ (x : Lcs) (s t : State), Fused x s → step s = .next t → Fused x t

/-- Every step keeps HBM's contents in canonical form: addresses strictly rising, and no entry for a byte that
nothing has written. (The form is the model's choice, log entry 12; what it holds is R169's and R208's memory.)
-/
def Obligations.MemoryKept : Prop :=
  ∀ s t : State, Memory.wf s.dev = true → step s = .next t → Memory.wf t.dev = true

/-- R384 and R389: a device without power, in reset or tripped runs nothing and answers nothing: while no
command of a supply or a reset ball waits, every step leaves it as it is. (That a command reaching such a device
is lost is the model's reading, log entry 13.) -/
def Obligations.DarkKept : Prop :=
  ∀ (d : Dev) (s t : State), Dark d s → step s = .next t → Dark d t

/-- R1, R362, R181, R243, R379 and the register tables' reset values: after reset no command waits and the
device runs; memory lists nothing; no plan is loaded, every clearing is ABSENT, every queue DISABLED, every link
DOWN, no key slot is loaded and the device is no member; the life cycle is Integrator with T0 burnt from Maker;
the strandline's indexes are 0xFFFFFFFF and its MTBF 86,400 s; the power mode is Neap. (Tables list nothing by
the model's choice, log entry 12.) -/
def Obligations.ResetState : Prop :=
  let d := State.reset.dev
  State.reset.pending = [] ∧ d.running = true ∧ Memory.wf d = true ∧ d.mem.hbm = [] ∧ d.outbox = [] ∧
    d.plan.active = none ∧ d.plan.st = .empty ∧ (∀ n, (d.clr n).st = .absent) ∧
    (∀ q, (d.queue q).st = .disabled ∧ (d.queue q).log2 = 6 ∧ (d.queue q).vector = 0x010) ∧
    (∀ l, (d.link l).st = .down ∧ (d.link l).adm = .none) ∧
    (∀ k, (d.slot k).loaded = false ∧ (d.slot k).gen = 0) ∧ d.sec.member = none ∧ d.sec.debugOpened = false ∧
    d.lcs.st = .integrator ∧ d.lcs.code0 = 0x0000FFFF ∧ d.lcs.code1 = 0x0000FFFF ∧ d.lcs.code2 = 0x0000FFFF ∧
    d.lcs.lastRec = some 0 ∧ d.lcs.voted = some 0x0000FFFF ∧ d.lcs.burning = false ∧
    d.stl.st = .idle ∧ d.stl.index = 0xFFFFFFFF ∧ d.stl.committed = 0xFFFFFFFF ∧ d.stl.mtbfS = 86400 ∧
    d.stl.costMs = 0 ∧ d.pwr.cur = 2 ∧ d.pwr.limit = 0x0C80 ∧ d.pwr.ramp = 0x28 ∧ d.thm.warnCd = 0x64 ∧
    d.thm.warnIo = 0x50 ∧ d.thm.warnCt = 0x5F ∧ d.flt.ready = false ∧ d.flt.oos = false ∧
    (∀ b : Blk, d.ev.get b = Ev.reset) ∧ d.pins.alertN = false ∧ d.pins.thermTrip = false ∧
    (∀ f, (d.fence f).alloc = false) ∧ (∀ i, (d.obj i).st = .free)
end

