-- ==== Sys2Proof/Laws/Act.lean ====
section
/-! SUPPORT. What the wrappers of the commands' effects answer: every meaning is `act`, `actMem` or `always` of
an effect on the device, and these lemmas say once what each of the three can do. -/

namespace Sys2Proof.Machine
open Sys2Proof

theorem act_running {s : State} (h : s.dev.running = true) (f : Dev → Dev) :
    act s f = .next { s with dev := f s.dev } := by simp [act, h]

theorem act_dark {s : State} (h : s.dev.running = false) (f : Dev → Dev) : act s f = .next s := by simp [act, h]

/-- An effect answers a next state, with the same queue, and the device after it or, when the device does not
run, the device as it was. -/
theorem act_next (s : State) (f : Dev → Dev) :
    ∃ t, act s f = .next t ∧ t.pending = s.pending ∧ (t.dev = f s.dev ∨ t.dev = s.dev) := by
  unfold act
  split
  · exact ⟨_, rfl, rfl, .inl rfl⟩
  · exact ⟨_, rfl, rfl, .inr rfl⟩

theorem always_next (s : State) (f : Dev → Dev) :
    ∃ t, always s f = .next t ∧ t.pending = s.pending ∧ t.dev = f s.dev := ⟨_, rfl, rfl, rfl⟩

/-- An effect over memory is the effect where the memory exists, and the fault where it does not. -/
theorem actMem_there (s : State) (f : Dev → Dev) : actMem s true f = act s f := by simp [actMem, act]

theorem actMem_absent {s : State} (h : s.dev.running = true) (f : Dev → Dev) :
    actMem s false f = .fault .noSuchMemory := by simp [actMem, h]

theorem actMem_dark {s : State} (h : s.dev.running = false) (b : Bool) (f : Dev → Dev) :
    actMem s b f = .next s := by simp [actMem, h]

end Sys2Proof.Machine
end

