-- ==== Sys2Proof/Laws/Bytes.lean ====
section
/-! SUPPORT. Byte strings and their values, the lengths of what SM4-GCM gives, and what opens: a record or flit whose tag
is the computed one, and a bundle that was sealed. -/

namespace Sys2Proof.Machine
open Sys2Proof

/-! ## Little-endian bytes -/

@[simp] theorem leBytes_length (n v : Nat) : (leBytes n v).length = n := by
  induction n generalizing v with
  | zero => rfl
  | succ n ih => simp [leBytes, ih]

theorem leVal_lt (bs : List Byte) : leVal bs < 256 ^ bs.length := by
  induction bs with
  | nil => simp [leVal]
  | cons b bs ih =>
    have hb : b.toNat < 256 := b.isLt
    simp only [leVal, List.length_cons, Nat.pow_succ]
    omega

theorem leBytes_leVal (bs : List Byte) : leBytes bs.length (leVal bs) = bs := by
  induction bs with
  | nil => rfl
  | cons b bs ih =>
    have hb : b.toNat < 256 := b.isLt
    have h1 : BitVec.ofNat 8 (b.toNat + 256 * leVal bs) = b := by
      apply BitVec.eq_of_toNat_eq; simp only [BitVec.toNat_ofNat]; omega
    have h2 : (b.toNat + 256 * leVal bs) / 256 = leVal bs := by omega
    simp only [leVal, List.length_cons, leBytes, h1, h2, ih]

theorem leVal_leBytes (n v : Nat) (h : v < 256 ^ n) : leVal (leBytes n v) = v := by
  induction n generalizing v with
  | zero => simp [leBytes, leVal] at *; omega
  | succ n ih =>
    have h' : v / 256 < 256 ^ n := by rw [Nat.pow_succ] at h; omega
    simp only [leBytes, leVal, ih _ h', BitVec.toNat_ofNat]
    omega

theorem leBytes_injective {n a b : Nat} (ha : a < 256 ^ n) (hb : b < 256 ^ n) (h : leBytes n a = leBytes n b) : a = b := by
  rw [← leVal_leBytes n a ha, ← leVal_leBytes n b hb, h]

/-- The number that eight bytes spell, as a tag. -/
def tagOf (bs : List Byte) : DWord := BitVec.ofNat 64 (leVal bs)

theorem leBytes_tagOf {bs : List Byte} (h : bs.length = 8) : leBytes 8 (tagOf bs).toNat = bs := by
  have lt := leVal_lt bs
  rw [h] at lt
  have e : (tagOf bs).toNat = leVal bs := by
    simp only [tagOf, BitVec.toNat_ofNat]; exact Nat.mod_eq_of_lt (by simpa using lt)
  have r := leBytes_leVal bs
  rw [h] at r
  rw [e, r]

/-! ## Lengths -/

@[simp] theorem strBytes_length (k : B256) (n : Nat) : (strBytes k n).length = n := by simp [strBytes]
@[simp] theorem beBytes_length (n v : Nat) : (beBytes n v).length = n := by simp [beBytes]
@[simp] theorem zeros_length (n : Nat) : (zeros n).length = n := by simp [zeros]
@[simp] theorem blockBytes_length (b : BitVec 128) : (blockBytes b).length = 16 := by simp [blockBytes]
@[simp] theorem gcmTag_length (key : BitVec 128) (iv aad c : List Byte) : (gcmTag key iv aad c).length = 16 := by
  simp [gcmTag]
@[simp] theorem recordTag_length (key : BitVec 128) (bs : List Byte) : (recordTag key bs).length = 8 := by
  simp [recordTag]

@[simp] theorem gcmStream_length (key : BitVec 128) (iv : List Byte) (n : Nat) : (gcmStream key iv n).length = n := by
  simp only [gcmStream, List.length_take, List.length_flatMap, blockBytes_length, List.map_const', List.length_range,
    List.sum_replicate, smul_eq_mul]
  omega

@[simp] theorem gcmCrypt_length (key : BitVec 128) (iv text : List Byte) : (gcmCrypt key iv text).length = text.length := by
  simp [gcmCrypt, xorBytes]

theorem xorBytes_twice (a k : List Byte) (h : a.length ≤ k.length) : xorBytes (xorBytes a k) k = a := by
  induction a generalizing k with
  | nil => rfl
  | cons x a ih => cases k with
    | nil => simp at h
    | cons y k =>
      have e := ih k (by simpa using h)
      simp only [xorBytes, List.zip_cons_cons, List.map_cons, BitVec.xor_assoc, BitVec.xor_self, BitVec.xor_zero] at e ⊢
      rw [e]

/-- What was sealed under a key and IV opens under them. -/
@[simp] theorem gcmCrypt_twice (key : BitVec 128) (iv text : List Byte) : gcmCrypt key iv (gcmCrypt key iv text) = text := by
  rw [gcmCrypt, gcmCrypt_length, gcmCrypt]
  exact xorBytes_twice _ _ (by simp)

/-- A tag fits its own message, whole or cut. -/
theorem gcmOpens_tag (key : BitVec 128) (iv aad c : List Byte) (n : Nat) :
    gcmOpens key iv aad c ((gcmTag key iv aad c).take n) = true := by
  simp [gcmOpens]

/-! ## Records and flits that verify, and that do not -/

theorem recordOpens_tag (d : Dev) (l : Nat) (bs : List Byte) :
    d.recordOpens l bs (tagOf (recordTag ((d.link l).rxKey (d.link l).rxSeq) bs)) = true := by
  rw [Dev.recordOpens, leBytes_tagOf (recordTag_length _ _)]; simp

/-- Some tag fails. -/
theorem recordOpens_fails (d : Dev) (l : Nat) (bs : List Byte) : ∃ tag, d.recordOpens l bs tag = false := by
  by_contra h
  push Not at h
  have a := h 0
  have b := h 1
  simp only [Dev.recordOpens, ne_eq, Bool.not_eq_false, beq_iff_eq] at a b
  have e : leBytes 8 0 = leBytes 8 1 := a.trans b.symm
  exact absurd e (by decide)

/-- The tag that a flit of this header, KIND, DESC and payload has on link `l`. -/
def Dev.wireTag (d : Dev) (l : Nat) (h : FlitHdr) (body : Nat × List Byte × List Byte) : DWord :=
  let key := (d.link l).rxKey h.seq
  let iv := flitIv h.seq (d.link l).farLink.toNat
  tagOf ((gcmTag key iv [] (gcmCrypt key iv (flitPlain body h.vc.toNat h.dst.toNat h.dstKind.toNat
    h.dstGen.toNat h.ackSeq.toNat h.srcOwner.toNat h.src.toNat h.stream.toNat))).take 8)

theorem wireOpens_tag (d : Dev) (l : Nat) (h : FlitHdr) (body : Nat × List Byte × List Byte) :
    d.wireOpens l { h with tag := d.wireTag l h body } body = true := by
  simp only [Dev.wireOpens, Dev.wireTag]
  rw [leBytes_tagOf (by simp)]
  exact gcmOpens_tag _ _ _ _ _

/-- Some tag fails for every body. -/
theorem wireOpens_fails (d : Dev) (l : Nat) (h : FlitHdr) (body : Nat × List Byte × List Byte) :
    ∃ tag, d.wireOpens l { h with tag := tag } body = false := by
  by_contra x
  push Not at x
  have a := x 0
  have c := x 1
  simp only [Dev.wireOpens, gcmOpens, ne_eq, Bool.not_eq_false, beq_iff_eq, leBytes_length] at a c
  have e : leBytes 8 0 = leBytes 8 1 := a.trans c.symm
  exact absurd e (by decide)

/-- The tag that a flit of this header and body has on link `l`. -/
def Dev.flitTag (d : Dev) (l : Nat) (h : FlitHdr) (b : TxBody) : DWord :=
  d.wireTag l h (b.wire ((d.link l).rxKey h.seq))

theorem flitOpens_tag (d : Dev) (l : Nat) (h : FlitHdr) (b : TxBody) :
    d.flitOpens l { h with tag := d.flitTag l h b } b = true := by
  simp only [Dev.flitOpens, Dev.flitTag, wireOpens_tag]

theorem flitOpens_fails (d : Dev) (l : Nat) (h : FlitHdr) (b : TxBody) :
    ∃ tag, d.flitOpens l { h with tag := tag } b = false := by
  obtain ⟨t, ht⟩ := wireOpens_fails d l h (b.wire ((d.link l).rxKey h.seq))
  refine ⟨t, ?_⟩
  simp only [Dev.flitOpens, ht]

end Sys2Proof.Machine

namespace Sys2Proof
open Sys2Proof.Machine

/-! ## Stored manifests and chunks -/

/-- The tag of a manifest under a strand key. -/
def SealedManifest.tagFor (m : SealedManifest) (key : BitVec 128) : List Byte :=
  gcmTag key (strandIv (BitVec.ofNat 32 (m.field 12 4)) 0xFFFFFFFF) m.aad m.body

/-- A manifest with its tag opens. -/
theorem SealedManifest.opens_tagFor (m : SealedManifest) (key : BitVec 128) :
    ({ m with tag := m.tagFor key } : SealedManifest).opens key = true := by
  simp [SealedManifest.opens, SealedManifest.tagFor, SealedManifest.aad, SealedManifest.field, gcmOpens]

/-- The tag of a chunk under a strand key. -/
def ChunkCopy.tagFor (c : ChunkCopy) (key : BitVec 128) : List Byte :=
  (gcmTag key (strandIv c.index c.chunk) [] c.cipher).take 8

/-- A chunk of 4 KiB with its tag opens. -/
theorem ChunkCopy.opens_tagFor (c : ChunkCopy) (key : BitVec 128) (h : c.cipher.length = 4096) :
    ({ c with tag := c.tagFor key } : ChunkCopy).opens key = true := by
  simp [ChunkCopy.opens, ChunkCopy.tagFor, gcmOpens, h]

end Sys2Proof

namespace Sys2Proof.Machine
open Sys2Proof

/-- A chunk tagged under the current strand key opens. -/
theorem Dev.openChunk_tagFor (d : Dev) (n : Nat) (c : ChunkCopy) (h : c.cipher.length = 4096) :
    d.openChunk n { c with tag := c.tagFor (d.strandKey n) } =
      some (gcmCrypt (d.strandKey n) (strandIv c.index c.chunk) c.cipher) := by
  simp [Dev.openChunk, c.opens_tagFor _ h]

/-! ## Bundles -/

@[simp] theorem bundleHeader_length (n : Nat) (s : Word) (e i : BitVec 16) (iv : List Byte) (h : iv.length = 12) :
    (bundleHeader n s e i iv).length = 64 := by
  simp [bundleHeader, ascii, h]

theorem beVal_beBytes (n v : Nat) (h : v < 256 ^ n) : beVal (beBytes n v) = v := by
  simp [beVal, beBytes, leVal_leBytes n v h]

@[simp] theorem entryBytes_length (s : Nat) (x : Slot) : (entryBytes s x).length = 64 := by
  have h : keyLenOf x.attr ≤ 32 := by unfold keyLenOf; split <;> decide
  simp [entryBytes]
  omega

/-- A bundle sealed under the current set key opens, with the entries that went into it. -/
theorem openBundle_sealBundle (d : Dev) (m : SetMember) (hm : d.sec.member = some m) (n : Nat) (id : BitVec 16)
    (iv entries : List Byte) (h1 : 1 ≤ n) (h2 : n ≤ 32) (hiv : iv.length = 12) (he : entries.length = 64 * n) :
    d.openBundle (sealBundle (d.slot 0).key (bundleHeader n m.setId m.epoch id iv) entries) =
      { wellLaid := true, setId := m.setId, setEpoch := m.epoch, bundleId := id, tagOk := true,
        entries := (List.range n).mapM fun i => readEntry ((entries.drop (64 * i)).take 64) } := by
  set hd := bundleHeader n m.setId m.epoch id iv with hhd
  have hl : hd.length = 64 := bundleHeader_length _ _ _ _ _ hiv
  obtain ⟨i0, i1, i2, i3, i4, i5, i6, i7, i8, i9, i10, i11, rfl⟩ : ∃ a b c d e f g h i j k l, iv = [a,b,c,d,e,f,g,h,i,j,k,l] := by
    match iv, hiv with
    | [a,b,c,d,e,f,g,h,i,j,k,l], _ => exact ⟨a,b,c,d,e,f,g,h,i,j,k,l, rfl⟩
  set c := gcmCrypt (bundleKey (d.slot 0).key hd) ((hd.drop 16).take 12) entries with hc
  set t := gcmTag (bundleKey (d.slot 0).key hd) ((hd.drop 16).take 12) hd c with ht
  have hcl : c.length = 64 * n := by rw [hc, gcmCrypt_length, he]
  have htl : t.length = 16 := by rw [ht, gcmTag_length]
  have hs : sealBundle (d.slot 0).key hd entries = hd ++ (c ++ t) := rfl
  rw [hs]
  have hn : n < 65536 := by omega
  have take64 : (hd ++ (c ++ t)).take 64 = hd := by rw [← hl, List.take_left']; rfl
  have sub (a b : Nat) (hab : a + b ≤ 64) : ((hd ++ (c ++ t)).drop a).take b = (hd.drop a).take b := by
    rw [List.drop_append_of_le_length (by omega), List.take_append_of_le_length (by simp [hl]; omega)]
  have dropc : (hd ++ (c ++ t)).drop 64 = c ++ t := by rw [← hl, List.drop_left']; rfl
  have cipher : ((hd ++ (c ++ t)).drop 64).take (64 * n) = c := by rw [dropc, ← hcl, List.take_left']; rfl
  have tag : (hd ++ (c ++ t)).drop (64 + 64 * n) = t := by
    rw [← List.drop_drop, dropc, ← hcl, List.drop_left']; rfl
  have tk : (hd ++ (c ++ t)).take 4 = hd.take 4 := by rw [List.take_append_of_le_length (by omega)]
  have f6 : leVal ((hd.drop 6).take 2) = n := leVal_leBytes 2 n (by omega)
  have f12 : leVal ((hd.drop 12).take 2) = m.epoch.toNat := leVal_leBytes 2 _ (by have := m.epoch.isLt; omega)
  have f8 : leVal ((hd.drop 8).take 4) = m.setId.toNat := leVal_leBytes 4 _ (by have := m.setId.isLt; omega)
  have f14 : leVal ((hd.drop 14).take 2) = id.toNat := leVal_leBytes 2 _ (by have := id.isLt; omega)
  simp only [Dev.openBundle, take64, sub 6 2 (by omega), sub 12 2 (by omega), sub 8 4 (by omega), sub 14 2 (by omega),
    sub 16 12 (by omega), sub 4 2 (by omega), sub 28 36 (by omega), f6, f12, f8, f14, cipher, tag, tk, hm,
    BitVec.ofNat_toNat, BitVec.setWidth_eq, beq_self_eq_true, if_true]
  have g1 : hd.take 4 = ascii "VXBN" := rfl
  have g2 : (hd.drop 4).take 2 = leBytes 2 1 := rfl
  have g3 : ((hd.drop 28).take 36).all (· == 0) = true := rfl
  rw [g1, g2, g3]
  have hlen : (hd ++ (c ++ t)).length = 80 + 64 * n := by simp [hl, hcl, htl]; omega
  have gt : gcmOpens (bundleKey (d.slot 0).key hd) ((hd.drop 16).take 12) hd c t = true := by simp [gcmOpens, ht, List.take_of_length_le]
  have gc : gcmCrypt (bundleKey (d.slot 0).key hd) ((hd.drop 16).take 12) c = entries := by rw [hc, gcmCrypt_twice]
  rw [hlen, gt, gc]
  simp [h1, h2]

/-- An entry written from a slot of a 16-byte key reads back. -/
theorem readEntry_entryBytes (s : SlotId) (x : Slot) (h : x.attr ≠ 3) (bs : List Byte) :
    readEntry ((entryBytes s.val x ++ bs).take 64) = some
      { slot := s, attr := x.attr, owner := x.owner, bundleOk := false, mask := x.mask, kcv := x.kcv, keyLen := 16,
        key := strOf (strBytes x.key 16 ++ zeros 16) } := by
  have hk : keyLenOf x.attr = 16 := by
    unfold keyLenOf; exact if_neg h
  have hs : s.val < 256 := s.isLt
  have e1 : Fin.ofNat 256 (BitVec.ofNat 8 s.val).toNat = s := by
    apply Fin.ext; simp [Fin.ofNat, Nat.mod_eq_of_lt hs]
  have e2 : BitVec.ofNat 2 (x.attr.setWidth 8).toNat = x.attr := by
    apply BitVec.eq_of_toNat_eq; simp; omega
  have e3 : BitVec.ofNat 6 (x.owner.setWidth 8).toNat = x.owner := by
    apply BitVec.eq_of_toNat_eq; simp; omega
  have e4 : BitVec.ofNat 16 (leVal (leBytes 2 x.mask.toNat)) = x.mask := by
    rw [leVal_leBytes 2 _ (by have := x.mask.isLt; omega)]; simp
  have e5 : BitVec.ofNat 24 (beVal (beBytes 3 x.kcv.toNat)) = x.kcv := by
    rw [beVal_beBytes 3 _ (by have := x.kcv.isLt; omega)]; simp
  have hl := entryBytes_length s.val x
  rw [List.take_append_of_le_length (by omega), List.take_of_length_le (by omega)]
  have b : entryBytes s.val x = [BitVec.ofNat 8 s.val, x.attr.setWidth 8, x.owner.setWidth 8, 0] ++ leBytes 2 x.mask.toNat ++
    zeros 2 ++ beBytes 3 x.kcv.toNat ++ [16] ++ strBytes x.key 16 ++ zeros 36 := by simp [entryBytes, hk]
  have a0 : ((entryBytes s.val x).getD 0 0).toNat = (BitVec.ofNat 8 s.val).toNat := by rw [b]; rfl
  have a1 : ((entryBytes s.val x).getD 1 0).toNat = (x.attr.setWidth 8).toNat := by rw [b]; rfl
  have a2 : ((entryBytes s.val x).getD 2 0).toNat = (x.owner.setWidth 8).toNat := by rw [b]; rfl
  have a3 : ((entryBytes s.val x).getD 3 0).toNat = 0 := by rw [b]; rfl
  have a11 : ((entryBytes s.val x).getD 11 0).toNat = 16 := by rw [b]; rfl
  have a4 : ((entryBytes s.val x).drop 4).take 2 = leBytes 2 x.mask.toNat := by rw [b]; rfl
  have a6 : ((entryBytes s.val x).drop 6).take 2 = zeros 2 := by rw [b]; rfl
  have a8 : ((entryBytes s.val x).drop 8).take 3 = beBytes 3 x.kcv.toNat := by rw [b]; rfl
  have a12 : ((entryBytes s.val x).drop 12).take 32 = strBytes x.key 16 ++ zeros 16 := by rw [b]; rfl
  have a28 : (entryBytes s.val x).drop 28 = zeros 36 := by rw [b]; rfl
  simp only [readEntry, a0, a1, a2, a3, a11, a4, a6, a8, a12, a28, e1, e2, e3, e4, e5, Nat.reduceAdd]
  have l1' := x.attr.isLt
  have l2' := x.owner.isLt
  simp [zeros]
  omega

end Sys2Proof.Machine
end

