-- ==== Sys2Proof/Laws/Lcs.lean ====
section
/-! SUPPORT. Which operations leave the life-cycle block alone: all but the burns, the advance and the resets.
One lemma per operation, so that a statement about the fuses looks at the few that change them. -/

set_option maxRecDepth 4000
namespace Sys2Proof.Machine
open Sys2Proof
@[simp] theorem foldl_lcs {α : Type} (f : Dev → α → Dev) (h : ∀ d x, (f d x).lcs = d.lcs) (l : List α) (d : Dev) :
    (l.foldl f d).lcs = d.lcs := by
  induction l generalizing d with
  | nil => rfl
  | cons x xs ih => simp [ih, h]

@[simp] theorem ite_lcs (c : Prop) [Decidable c] (a b : Dev) : (if c then a else b).lcs = if c then a.lcs else b.lcs := by
  split <;> rfl

@[simp] theorem foldlp_lcs {α β : Type} (f : Dev × β → α → Dev × β) (h : ∀ a x, (f a x).1.lcs = a.1.lcs) (l : List α)
    (a : Dev × β) : (l.foldl f a).1.lcs = a.1.lcs := by
  induction l generalizing a with
  | nil => rfl
  | cons x xs ih => simp [ih, h]

@[simp] theorem itep_lcs {β : Type} (c : Prop) [Decidable c] (a b : Dev × β) :
    (if c then a else b).1.lcs = if c then a.1.lcs else b.1.lcs := by
  split <;> rfl

@[simp] theorem foldr_lcs {α : Type} (f : α → Dev → Dev) (h : ∀ x d, (f x d).lcs = d.lcs) (l : List α) (d : Dev) :
    (l.foldr f d).lcs = d.lcs := by
  induction l with
  | nil => rfl
  | cons x xs ih => simp [ih, h]

@[simp] theorem Dev.modClr_lcs (d : Dev) (n : Nat) (f : Clearing → Clearing) : (Dev.modClr d n f).lcs = d.lcs := by
  unfold Dev.modClr; simp

@[simp] theorem Dev.modTile_lcs (d : Dev) (t : Nat) (f : TileSt → TileSt) : (Dev.modTile d t f).lcs = d.lcs := by
  unfold Dev.modTile; simp

@[simp] theorem Dev.modCtx_lcs (d : Dev) (k : Nat) (f : Ctx → Ctx) : (Dev.modCtx d k f).lcs = d.lcs := by
  unfold Dev.modCtx; simp

@[simp] theorem Dev.modLink_lcs (d : Dev) (l : Nat) (f : Link → Link) : (Dev.modLink d l f).lcs = d.lcs := by
  unfold Dev.modLink; simp

@[simp] theorem Dev.modQueue_lcs (d : Dev) (q : Nat) (f : Queue → Queue) : (Dev.modQueue d q f).lcs = d.lcs := by
  unfold Dev.modQueue; simp

@[simp] theorem Dev.modObj_lcs (d : Dev) (i : Nat) (f : Obj → Obj) : (Dev.modObj d i f).lcs = d.lcs := by
  unfold Dev.modObj; simp

@[simp] theorem Dev.modFence_lcs (d : Dev) (i : Nat) (f : Fence → Fence) : (Dev.modFence d i f).lcs = d.lcs := by
  unfold Dev.modFence; simp

@[simp] theorem Dev.modSlot_lcs (d : Dev) (i : Nat) (f : Slot → Slot) : (Dev.modSlot d i f).lcs = d.lcs := by
  unfold Dev.modSlot; simp

@[simp] theorem Dev.modFrame_lcs (d : Dev) (n : Nat) (f : McxFrame → McxFrame) : (Dev.modFrame d n f).lcs = d.lcs := by
  unfold Dev.modFrame; simp

@[simp] theorem Dev.modRegion_lcs (d : Dev) (k : Nat) (f : RegionSt → RegionSt) : (Dev.modRegion d k f).lcs = d.lcs := by
  unfold Dev.modRegion; simp

@[simp] theorem Dev.modStack_lcs (d : Dev) (k : Nat) (f : StackSt → StackSt) : (Dev.modStack d k f).lcs = d.lcs := by
  unfold Dev.modStack; simp

@[simp] theorem Dev.modNum_lcs (d : Dev) (n : Nat) (f : Num → Num) : (Dev.modNum d n f).lcs = d.lcs := by
  unfold Dev.modNum; simp

@[simp] theorem Dev.emit_lcs (d : Dev) (o : Output) : (Dev.emit d o).lcs = d.lcs := by
  unfold Dev.emit; simp

@[simp] theorem Dev.updateAlert_lcs (d : Dev) : (Dev.updateAlert d).lcs = d.lcs := by
  unfold Dev.updateAlert; simp

@[simp] theorem Dev.raise_lcs (d : Dev) (b : Blk) (bit : Nat) : (Dev.raise d b bit).lcs = d.lcs := by
  unfold Dev.raise; simp

@[simp] theorem Dev.raiseIf_lcs (d : Dev) (c : Bool) (b : Blk) (bit : Nat) : (Dev.raiseIf d c b bit).lcs = d.lcs := by
  unfold Dev.raiseIf; simp

@[simp] theorem Dev.tick_lcs (d : Dev) : (Dev.tick d).lcs = d.lcs := by
  unfold Dev.tick; simp

@[simp] theorem Dev.logEvent_lcs (d : Dev) (type : Byte) (clearing : Nat) (engine : BitVec 16) (status : Byte) (info : BitVec 64) : (Dev.logEvent d type clearing engine status info).lcs = d.lcs := by
  unfold Dev.logEvent; simp

@[simp] theorem Dev.loseCopies_lcs (d : Dev) : (Dev.loseCopies d).lcs = d.lcs := by
  unfold Dev.loseCopies; simp

@[simp] theorem Dev.modCmd_lcs (d : Dev) (q : Nat) (seq : Word) (f : Cmd → Cmd) : (Dev.modCmd d q seq f).lcs = d.lcs := by
  unfold Dev.modCmd; simp

@[simp] theorem Dev.addRefs_lcs (d : Dev) (hs : List Word) : (Dev.addRefs d hs).lcs = d.lcs := by
  unfold Dev.addRefs; simp

@[simp] theorem Dev.dropRefs_lcs (d : Dev) (hs : List Word) : (Dev.dropRefs d hs).lcs = d.lcs := by
  unfold Dev.dropRefs; simp

@[simp] theorem Dev.modRun_lcs (d : Dev) (a : BitVec 16) (i : Word) (f : ActRun → ActRun) : (Dev.modRun d a i f).lcs = d.lcs := by
  unfold Dev.modRun; simp

@[simp] theorem Dev.breakAct_lcs (d : Dev) (c : Cmd) : (Dev.breakAct d c).lcs = d.lcs := by
  unfold Dev.breakAct; simp

@[simp] theorem Dev.amend_lcs (d : Dev) (q : Nat) (c : Cmd) (st : Status) (det : Detail) (info : BitVec 64) (rank : BitVec 21) : (Dev.amend d q c st det info rank).lcs = d.lcs := by
  unfold Dev.amend; simp

@[simp] theorem Dev.completeCmd_lcs (d : Dev) (q : Nat) (c : Cmd) (st : Status) (det : Detail) (info : BitVec 64) (rank : BitVec 21) : (Dev.completeCmd d q c st det info rank).lcs = d.lcs := by
  unfold Dev.completeCmd; simp

@[simp] theorem Dev.blame_lcs (d₀ d : Dev) (q : Nat) (seq : Word) (st : Status) (det : Detail)
    (info : BitVec 64) (rank : BitVec 21) : (Dev.blame d₀ d q seq st det info rank).lcs = d.lcs := by
  unfold Dev.blame; split <;> simp

@[simp] theorem Dev.finish_lcs (d : Dev) (q : Nat) (seq : Word) (st : Status) (det : Detail) (info : BitVec 64) : (Dev.finish d q seq st det info).lcs = d.lcs := by
  unfold Dev.finish; (try dsimp only); repeat' first | rfl | split | rw [foldl_lcs] | rw [foldlp_lcs] | intro
  all_goals first | rfl | simp

@[simp] theorem Dev.finishOk_lcs (d : Dev) (q : Nat) (seq : Word) : (Dev.finishOk d q seq).lcs = d.lcs := by
  unfold Dev.finishOk; simp

@[simp] theorem Dev.freeLaunch_lcs (d : Dev) (id : Nat) : (Dev.freeLaunch d id).lcs = d.lcs := by
  unfold Dev.freeLaunch; simp

@[simp] theorem Dev.modProg_lcs (d : Dev) (t : Nat) (f : Prog → Prog) : (Dev.modProg d t f).lcs = d.lcs := by
  unfold Dev.modProg; simp

@[simp] theorem Dev.discardFlights_lcs (d : Dev) (fs : List Flight) : (Dev.discardFlights d fs).lcs = d.lcs := by
  unfold Dev.discardFlights; simp

@[simp] theorem Dev.dropProg_lcs (d : Dev) (t : Nat) : (Dev.dropProg d t).lcs = d.lcs := by
  unfold Dev.dropProg; simp

@[simp] theorem Dev.modColl_lcs (d : Dev) (c : Nat) (f : CollSlot → CollSlot) : (Dev.modColl d c f).lcs = d.lcs := by
  unfold Dev.modColl; simp

@[simp] theorem Dev.releaseSlot_lcs (d : Dev) (i : StageIn) : (Dev.releaseSlot d i).lcs = d.lcs := by
  unfold Dev.releaseSlot; dsimp only; repeat' split
  all_goals simp

@[simp] theorem Dev.dropFlits_lcs (d : Dev) (q : Nat) (seq : Word) : (Dev.dropFlits d q seq).lcs = d.lcs := by
  unfold Dev.dropFlits; simp

@[simp] theorem Dev.modXfer_lcs (d : Dev) (q : Nat) (seq : Word) (f : Xfer → Xfer) : (Dev.modXfer d q seq f).lcs = d.lcs := by
  unfold Dev.modXfer; simp

@[simp] theorem Dev.closeXfer_lcs (d : Dev) (q : Nat) (seq : Word) : (Dev.closeXfer d q seq).lcs = d.lcs := by
  unfold Dev.closeXfer; simp

@[simp] theorem Dev.dropXfer_lcs (d : Dev) (q : Nat) (seq : Word) : (Dev.dropXfer d q seq).lcs = d.lcs := by
  unfold Dev.dropXfer; (try dsimp only); repeat' first | rfl | split | rw [foldl_lcs] | rw [foldlp_lcs] | intro
  all_goals first | rfl | simp

@[simp] theorem Dev.kill_lcs (d : Dev) (q : Nat) (c : Cmd) (st : Status) (det : Detail) : (Dev.kill d q c st det).lcs = d.lcs := by
  unfold Dev.kill; dsimp only; repeat' split
  all_goals simp

@[simp] theorem Dev.abort_lcs (d : Dev) (q : Nat) (c : Cmd) (st : Status) (det : Detail) : (Dev.abort d q c st det).lcs = d.lcs := by
  unfold Dev.abort; repeat' split
  all_goals simp

@[simp] theorem Dev.abortWhere_lcs (d : Dev) (p : Nat → Cmd → Bool) (st : Status) (det : Detail) : (Dev.abortWhere d p st det).lcs = d.lcs := by
  unfold Dev.abortWhere; (try dsimp only); repeat' first | rfl | split | rw [foldl_lcs] | rw [foldlp_lcs] | intro
  all_goals first | rfl | simp

@[simp] theorem Dev.killWhere_lcs (d : Dev) (p : Nat → Cmd → Bool) (st : Status) (det : Detail) : (Dev.killWhere d p st det).lcs = d.lcs := by
  unfold Dev.killWhere; simp

@[simp] theorem Dev.completeWait_lcs (d : Dev) (q : Nat) (c : Cmd) (status : BitVec 2) : (Dev.completeWait d q c status).lcs = d.lcs := by
  unfold Dev.completeWait; simp

@[simp] theorem Dev.signalFence_lcs (d : Dev) (f : Nat) (status : BitVec 2) : (Dev.signalFence d f status).lcs = d.lcs := by
  unfold Dev.signalFence; simp

@[simp] theorem Dev.settle_lcs (d : Dev) (q : Nat) : (Dev.settle d q).lcs = d.lcs := by
  unfold Dev.settle; simp

@[simp] theorem Dev.disableQueue_lcs (d : Dev) (q : Nat) (det : Detail) : (Dev.disableQueue d q det).lcs = d.lcs := by
  unfold Dev.disableQueue; simp

@[simp] theorem Dev.haltClr_lcs (d : Dev) (n : Nat) (show_ : ClrSt) (st : Status) (det : Detail) : (Dev.haltClr d n show_ st det).lcs = d.lcs := by
  unfold Dev.haltClr; simp

@[simp] theorem Dev.haltAll_lcs (d : Dev) (st : Status) (det : Detail) : (Dev.haltAll d st det).lcs = d.lcs := by
  unfold Dev.haltAll; simp

@[simp] theorem Dev.remeasure_lcs (d : Dev) (n : Nat) : (Dev.remeasure d n).lcs = d.lcs := by
  unfold Dev.remeasure; (try dsimp only); repeat' first | rfl | split | rw [foldl_lcs] | rw [foldlp_lcs] | intro
  all_goals first | rfl | simp

@[simp] theorem Dev.remeasureSlot_lcs (d : Dev) (s : Nat) : (Dev.remeasureSlot d s).lcs = d.lcs := by
  unfold Dev.remeasureSlot; (try dsimp only); repeat' first | rfl | split | rw [foldl_lcs] | rw [foldlp_lcs] | intro
  all_goals first | rfl | simp

@[simp] theorem Dev.wipeSlot_lcs (d : Dev) (s : Nat) : (Dev.wipeSlot d s).lcs = d.lcs := by
  unfold Dev.wipeSlot; simp

@[simp] theorem Dev.destroySlot_lcs (d : Dev) (s : Nat) : (Dev.destroySlot d s).lcs = d.lcs := by
  unfold Dev.destroySlot; simp

@[simp] theorem Dev.destroySlots_lcs (d : Dev) (p : Nat → Slot → Bool) : (Dev.destroySlots d p).lcs = d.lcs := by
  unfold Dev.destroySlots; simp

@[simp] theorem Dev.leaveSlots_lcs (d : Dev) (n : Nat) (owner : BitVec 6) : (Dev.leaveSlots d n owner).lcs = d.lcs := by
  unfold Dev.leaveSlots; simp

@[simp] theorem Dev.leaveSet_lcs (d : Dev) : (Dev.leaveSet d).lcs = d.lcs := by
  unfold Dev.leaveSet; simp

@[simp] theorem Dev.modUnit_lcs (d : Dev) (k : Nat) (f : UnitMeta → UnitMeta) : (Dev.modUnit d k f).lcs = d.lcs := by
  unfold Dev.modUnit; simp

@[simp] theorem Dev.setMeta_lcs (d : Dev) (f r k : Nat) (g : UnitMeta → UnitMeta) : (Dev.setMeta d f r k g).lcs = d.lcs := by
  unfold Dev.setMeta; simp

@[simp] theorem Dev.modNode_lcs (d : Dev) (f r : Nat) (rg : PlanRegion) (level i : Nat) (g : NodeSt → NodeSt) : (Dev.modNode d f r rg level i g).lcs = d.lcs := by
  unfold Dev.modNode; simp

@[simp] theorem Dev.zeroLocals_lcs (d : Dev) (f r : Nat) (rg : PlanRegion) (leaf : Nat) : (Dev.zeroLocals d f r rg leaf).lcs = d.lcs := by
  unfold Dev.zeroLocals; (try dsimp only); refine foldl_lcs _ (fun d x => ?_) _ _; (try dsimp only); repeat' split
  all_goals simp

@[simp] theorem Dev.bumpMajor_lcs (d : Dev) (f r : Nat) (rg : PlanRegion) (level i : Nat) : (Dev.bumpMajor d f r rg level i).lcs = d.lcs := by
  unfold Dev.bumpMajor; simp

@[simp] theorem Dev.dirtyMeta_lcs (d : Dev) (f r level i : Nat) : (Dev.dirtyMeta d f r level i).lcs = d.lcs := by
  unfold Dev.dirtyMeta; simp

@[simp] theorem Dev.writeBackMeta_lcs (f r : Nat) (rg : PlanRegion) (fuel level i : Nat) (d : Dev) :
    (Dev.writeBackMeta f r rg fuel level i d).lcs = d.lcs := by
  induction fuel generalizing level i d with
  | zero => rfl
  | succ n ih =>
    unfold Dev.writeBackMeta; dsimp only
    split
    · rfl
    · split
      · split
        · simp
        · rw [ih]; simp
      · split
        · simp
        · rw [ih]; simp

@[simp] theorem Dev.fillMeta_lcs (d : Dev) (f r : Nat) (rg : PlanRegion) (level i : Nat) : (Dev.fillMeta d f r rg level i).lcs = d.lcs := by
  unfold Dev.fillMeta; (try dsimp only); repeat' first | rfl | split | rw [foldl_lcs] | rw [foldlp_lcs] | intro
  all_goals first | rfl | simp

@[simp] theorem Dev.touchMeta_lcs (d : Dev) (f r : Nat) (rg : PlanRegion) (ra : Nat) (write : Bool) : (Dev.touchMeta d f r rg ra write).lcs = d.lcs := by
  unfold Dev.touchMeta; simp

@[simp] theorem Dev.countWrite_lcs (d : Dev) (f r : Nat) (rg : PlanRegion) (ra k : Nat) : (Dev.countWrite d f r rg ra k).1.lcs = d.lcs := by
  unfold Dev.countWrite; simp

@[simp] theorem Dev.clearFlaw_lcs (d : Dev) (unit pa : Nat) : (Dev.clearFlaw d unit pa).lcs = d.lcs := by
  unfold Dev.clearFlaw; simp

@[simp] theorem Dev.clearPoison_lcs (d : Dev) (f r : Nat) (rg : PlanRegion) (u pa : Nat) : (Dev.clearPoison d f r rg u pa).lcs = d.lcs := by
  unfold Dev.clearPoison; simp

@[simp] theorem Dev.latchErr_lcs (d : Dev) (f : Nat) (st : Status) (r level : Nat) (partialW write : Bool) (line : Nat) : (Dev.latchErr d f st r level partialW write line).lcs = d.lcs := by
  unfold Dev.latchErr; simp

@[simp] theorem Dev.tamper_lcs (d : Dev) (f : Nat) : (Dev.tamper d f).lcs = d.lcs := by
  unfold Dev.tamper; simp

@[simp] theorem Dev.poison_lcs (d : Dev) (k : Nat) (cause : Byte) : (Dev.poison d k cause).lcs = d.lcs := by
  unfold Dev.poison; simp

@[simp] theorem Dev.unitTamper_lcs (d : Dev) (f r ra k : Nat) (partialW write : Bool) : (Dev.unitTamper d f r ra k partialW write).lcs = d.lcs := by
  unfold Dev.unitTamper; simp

@[simp] theorem Dev.reportUe_lcs (d : Dev) (pa : Nat) : (Dev.reportUe d pa).lcs = d.lcs := by
  unfold Dev.reportUe; simp

@[simp] theorem Dev.unitUncorrectable_lcs (d : Dev) (f r ra pa k : Nat) (mode : Byte) (partialW write : Bool) : (Dev.unitUncorrectable d f r ra pa k mode partialW write).lcs = d.lcs := by
  unfold Dev.unitUncorrectable; simp

@[simp] theorem Dev.markDirty_lcs (d : Dev) (f r ra : Nat) : (Dev.markDirty d f r ra).lcs = d.lcs := by
  unfold Dev.markDirty; (try dsimp only); repeat' first | rfl | split | rw [foldl_lcs] | rw [foldlp_lcs] | intro
  all_goals first | rfl | simp

@[simp] theorem Dev.modLine_lcs (d : Dev) (pa : Nat) (f : CacheLine → CacheLine) : (Dev.modLine d pa f).lcs = d.lcs := by
  unfold Dev.modLine; simp

@[simp] theorem Dev.putHbm_lcs (d : Dev) (pa : Nat) (b : Option Byte) : (Dev.putHbm d pa b).lcs = d.lcs := by
  unfold Dev.putHbm; simp

@[simp] theorem Dev.putByte_lcs (d : Dev) (pa : Nat) (b : Byte) : (Dev.putByte d pa b).lcs = d.lcs := by
  unfold Dev.putByte; simp

@[simp] theorem Dev.dirtySector_lcs (d : Dev) (pa : Nat) : (Dev.dirtySector d pa).lcs = d.lcs := by
  unfold Dev.dirtySector; simp

@[simp] theorem Dev.checkRange_lcs (d : Dev) (f r ra n : Nat) : (Dev.checkRange d f r ra n).1.lcs = d.lcs := by
  unfold Dev.checkRange; (try dsimp only); repeat' first | rfl | split | rw [foldl_lcs] | rw [foldlp_lcs] | intro
  all_goals first | rfl | simp

@[simp] theorem Dev.writeUnit_lcs (d : Dev) (f r : Nat) (rg : PlanRegion) (rmw : Bool) (u ra : Nat) (bytes : List Byte) : (Dev.writeUnit d f r rg rmw u ra bytes).1.lcs = d.lcs := by
  unfold Dev.writeUnit; (try dsimp only); repeat' first | rfl | split | rw [foldl_lcs] | rw [foldlp_lcs] | intro
  all_goals first | rfl | simp

@[simp] theorem Dev.writeRange_lcs (d : Dev) (f r ra : Nat) (bytes : List Byte) : (Dev.writeRange d f r ra bytes).1.lcs = d.lcs := by
  unfold Dev.writeRange; (try dsimp only); repeat' first | rfl | split | rw [foldl_lcs] | rw [foldlp_lcs] | intro
  all_goals first | rfl | simp

@[simp] theorem Dev.checkObj_lcs (d : Dev) (o : Obj) (off n : Nat) : (Dev.checkObj d o off n).1.lcs = d.lcs := by
  unfold Dev.checkObj; simp

@[simp] theorem Dev.writeObj_lcs (d : Dev) (o : Obj) (off : Nat) (bytes : List Byte) : (Dev.writeObj d o off bytes).1.lcs = d.lcs := by
  unfold Dev.writeObj; simp

@[simp] theorem Dev.holdRepair_lcs (d : Dev) (line : Nat) (who : Nat × Word × BitVec 64) : (Dev.holdRepair d line who).lcs = d.lcs := by
  unfold Dev.holdRepair; simp

@[simp] theorem Dev.eraseGranules_lcs (d : Dev) (gs : List Nat) : (Dev.eraseGranules d gs).lcs = d.lcs := by
  unfold Dev.eraseGranules; simp

@[simp] theorem Dev.forgetRegion_lcs (d : Dev) (f r : Nat) : (Dev.forgetRegion d f r).lcs = d.lcs := by
  unfold Dev.forgetRegion; simp

@[simp] theorem Dev.dropLines_lcs (d : Dev) (f : Nat) : (Dev.dropLines d f).lcs = d.lcs := by
  unfold Dev.dropLines; simp

@[simp] theorem Dev.writeBack_lcs (d : Dev) (key : Nat) : (Dev.writeBack d key).lcs = d.lcs := by
  unfold Dev.writeBack; (try dsimp only); repeat' first | rfl | split | rw [foldl_lcs] | rw [foldlp_lcs] | intro
  all_goals first | rfl | simp

@[simp] theorem Dev.sendCtrl_lcs (d : Dev) (l : Nat) (m : CtrlMsg) : (Dev.sendCtrl d l m).lcs = d.lcs := by
  unfold Dev.sendCtrl; simp

@[simp] theorem Dev.announce_lcs (d : Dev) (es : List RoleEntry) : (Dev.announce d es).lcs = d.lcs := by
  unfold Dev.announce; simp

@[simp] theorem Dev.bumpGroup_lcs (d : Dev) (t : Nat) : (Dev.bumpGroup d t).lcs = d.lcs := by
  unfold Dev.bumpGroup; simp

@[simp] theorem Dev.bumpChan_lcs (d : Dev) (e : Nat) : (Dev.bumpChan d e).lcs = d.lcs := by
  unfold Dev.bumpChan; simp

@[simp] theorem Dev.bumpClr_lcs (d : Dev) (n : Nat) : (Dev.bumpClr d n).lcs = d.lcs := by
  unfold Dev.bumpClr; simp

@[simp] theorem Dev.wipeTile_lcs (d : Dev) (t : Nat) : (Dev.wipeTile d t).lcs = d.lcs := by
  unfold Dev.wipeTile; simp

@[simp] theorem Dev.resetCmds_lcs (d : Dev) (cs : List (Nat × Cmd)) (st : Status) (det : Detail) : (Dev.resetCmds d cs st det).lcs = d.lcs := by
  unfold Dev.resetCmds; simp

@[simp] theorem Dev.deviceOut_lcs (d : Dev) : (Dev.deviceOut d).lcs = d.lcs := by
  unfold Dev.deviceOut; simp

@[simp] theorem Dev.recoveryReset_lcs (d : Dev) (n : Nat) : (Dev.recoveryReset d n).lcs = d.lcs := by
  unfold Dev.recoveryReset; simp

@[simp] theorem Dev.scramble_lcs (d : Dev) (t off n : Nat) : (Dev.scramble d t off n).lcs = d.lcs := by
  unfold Dev.scramble; simp

@[simp] theorem Dev.engineReset_lcs (d : Dev) (e : Nat) : (Dev.engineReset d e).lcs = d.lcs := by
  unfold Dev.engineReset; (try dsimp only); repeat' first | rfl | split | rw [foldl_lcs] | rw [foldlp_lcs] | intro
  all_goals first | rfl | simp

@[simp] theorem Dev.endRepairs_lcs (d : Dev) (n : Nat) : (Dev.endRepairs d n).lcs = d.lcs := by
  unfold Dev.endRepairs; (try dsimp only); repeat' first | rfl | split | rw [foldl_lcs] | rw [foldlp_lcs] | intro
  all_goals first | rfl | simp

@[simp] theorem Dev.startFencing_lcs (d : Dev) (n : Nat) : (Dev.startFencing d n).lcs = d.lcs := by
  unfold Dev.startFencing; simp

@[simp] theorem Dev.fenced_lcs (d : Dev) (n : Nat) : (Dev.fenced d n).lcs = d.lcs := by
  unfold Dev.fenced; simp

@[simp] theorem Dev.freeObj_lcs (d : Dev) (i : Nat) : (Dev.freeObj d i).lcs = d.lcs := by
  unfold Dev.freeObj; simp

@[simp] theorem Dev.freeObjs_lcs (d : Dev) (p : Obj → Bool) : (Dev.freeObjs d p).lcs = d.lcs := by
  unfold Dev.freeObjs; simp

@[simp] theorem Dev.formRegion_lcs (d : Dev) (f r : Nat) : (Dev.formRegion d f r).lcs = d.lcs := by
  unfold Dev.formRegion; simp

@[simp] theorem Dev.dropRegions_lcs (d : Dev) (f : Nat) : (Dev.dropRegions d f).lcs = d.lcs := by
  unfold Dev.dropRegions; simp

@[simp] theorem Dev.startScrub_lcs (d : Dev) (n : Nat) (owner : BitVec 6) (gs tiles : List Nat) : (Dev.startScrub d n owner gs tiles).lcs = d.lcs := by
  unfold Dev.startScrub; simp

@[simp] theorem Dev.rxFlit_lcs (d : Dev) (l vc : Nat) (credit : Bool) : (Dev.rxFlit d l vc credit).lcs = d.lcs := by
  unfold Dev.rxFlit; simp

@[simp] theorem Dev.sendTide_lcs (d : Dev) (l : Nat) (r : TideRec) : (Dev.sendTide d l r).lcs = d.lcs := by
  unfold Dev.sendTide; simp

@[simp] theorem Dev.forwardMark_lcs (d : Dev) (r : MarkRec) : (Dev.forwardMark d r).lcs = d.lcs := by
  unfold Dev.forwardMark; simp

@[simp] theorem Dev.sendReturn_lcs (d : Dev) (needs : List Need) : (Dev.sendReturn d needs).lcs = d.lcs := by
  unfold Dev.sendReturn; simp

@[simp] theorem Dev.countChildren_lcs (d : Dev) : (Dev.countChildren d).lcs = d.lcs := by
  unfold Dev.countChildren; simp

@[simp] theorem Dev.auxPulse_lcs (d : Dev) : (Dev.auxPulse d).lcs = d.lcs := by
  unfold Dev.auxPulse; (try dsimp only); repeat' first | rfl | split | rw [foldl_lcs] | rw [foldlp_lcs] | intro
  all_goals first | rfl | simp

@[simp] theorem Dev.tideOut_lcs (d : Dev) : (Dev.tideOut d).lcs = d.lcs := by
  unfold Dev.tideOut; (try dsimp only); repeat' first | rfl | split | rw [foldl_lcs] | rw [foldlp_lcs] | intro
  all_goals first | rfl | simp

@[simp] theorem Dev.carryPass_lcs (d : Dev) (shadow : Bool) : (Dev.carryPass d shadow).lcs = d.lcs := by
  unfold Dev.carryPass; (try dsimp only); repeat' first | rfl | split | rw [foldl_lcs] | rw [foldlp_lcs] | intro
  all_goals first | rfl | simp

@[simp] theorem Dev.newInterval_lcs (d : Dev) (i base : Nat) : (Dev.newInterval d i base).lcs = d.lcs := by
  unfold Dev.newInterval; (try dsimp only); repeat' first | rfl | split | rw [foldl_lcs] | rw [foldlp_lcs] | intro
  all_goals first | rfl | simp

@[simp] theorem Dev.beginSave_lcs (d : Dev) (p : StandPlan) (deadline : Nat) : (Dev.beginSave d p deadline).lcs = d.lcs := by
  unfold Dev.beginSave; simp

@[simp] theorem Dev.beginShadow_lcs (d : Dev) (p : StandPlan) (deadline : Nat) : (Dev.beginShadow d p deadline).lcs = d.lcs := by
  unfold Dev.beginShadow; simp

@[simp] theorem Dev.startStrand_lcs (d : Dev) (p : StandPlan) (t : PlanTemplate) (a : PlanAct) (i deadline : Nat) : (Dev.startStrand d p t a i deadline).1.lcs = d.lcs := by
  unfold Dev.startStrand; (try dsimp only); repeat' first | rfl | split | rw [foldl_lcs] | rw [foldlp_lcs] | intro
  all_goals first | rfl | simp

@[simp] theorem Dev.startRun_lcs (d : Dev) (p : StandPlan) (t : PlanTemplate) (a : PlanAct) (i : Nat) (late : Bool) : (Dev.startRun d p t a i late).lcs = d.lcs := by
  unfold Dev.startRun; simp

@[simp] theorem Dev.startWaits_lcs (d : Dev) (p : StandPlan) (t : PlanTemplate) (a : PlanAct) : (Dev.startWaits d p t a).lcs = d.lcs := by
  unfold Dev.startWaits; simp

@[simp] theorem Dev.startDue_lcs (p : StandPlan) (t : PlanTemplate) (a : PlanAct) (fuel : Nat) (d : Dev) :
    (Dev.startDue p t a fuel d).lcs = d.lcs := by
  induction fuel generalizing d with
  | zero => rfl
  | succ n ih =>
    unfold Dev.startDue; dsimp only
    split
    · rw [ih]; split <;> simp
    · rfl

@[simp] theorem Dev.startAct_lcs (d : Dev) (p : StandPlan) (t : PlanTemplate) (a : PlanAct) : (Dev.startAct d p t a).lcs = d.lcs := by
  unfold Dev.startAct; simp

@[simp] theorem Dev.startActs_lcs (d : Dev) : (Dev.startActs d).lcs = d.lcs := by
  unfold Dev.startActs; (try dsimp only); repeat' first | rfl | split | rw [foldl_lcs] | rw [foldlp_lcs] | intro
  all_goals first | rfl | simp

@[simp] theorem Dev.deadlines_lcs (d : Dev) : (Dev.deadlines d).lcs = d.lcs := by
  unfold Dev.deadlines; simp

@[simp] theorem Dev.endShadow_lcs (d : Dev) : (Dev.endShadow d).lcs = d.lcs := by
  unfold Dev.endShadow; (try dsimp only); repeat' first | rfl | split | rw [foldl_lcs] | rw [foldlp_lcs] | intro
  all_goals first | rfl | simp

@[simp] theorem Dev.commitSave_lcs (d : Dev) : (Dev.commitSave d).lcs = d.lcs := by
  unfold Dev.commitSave; (try dsimp only); repeat' first | rfl | split | rw [foldl_lcs] | rw [foldlp_lcs] | intro
  all_goals first | rfl | simp

@[simp] theorem Dev.latchTraps_lcs (d : Dev) : (Dev.latchTraps d).lcs = d.lcs := by
  unfold Dev.latchTraps; simp

@[simp] theorem Dev.rekeyPair_lcs (d : Dev) (n : Nat) : (Dev.rekeyPair d n).lcs = d.lcs := by
  unfold Dev.rekeyPair; (try dsimp only); repeat' first | rfl | split | rw [foldl_lcs] | rw [foldlp_lcs] | intro
  all_goals first | rfl | simp

@[simp] theorem Dev.rekeys_lcs (d : Dev) (old : Nat) : (Dev.rekeys d old).lcs = d.lcs := by
  unfold Dev.rekeys; (try dsimp only); repeat' first | rfl | split | rw [foldl_lcs] | rw [foldlp_lcs] | intro
  all_goals first | rfl | simp

@[simp] theorem Dev.endTideWaits_lcs (d : Dev) : (Dev.endTideWaits d).lcs = d.lcs := by
  unfold Dev.endTideWaits; simp

@[simp] theorem Dev.markCounters_lcs (d : Dev) : (Dev.markCounters d).lcs = d.lcs := by
  unfold Dev.markCounters; (try dsimp only); repeat' first | rfl | split | rw [foldl_lcs] | rw [foldlp_lcs] | intro
  all_goals first | rfl | simp

@[simp] theorem Dev.schedule_lcs (d : Dev) (old : Nat) : (Dev.schedule d old).lcs = d.lcs := by
  unfold Dev.schedule; simp

@[simp] theorem Dev.takeMark_lcs (d : Dev) (r : MarkRec) (hop : BitVec 8) (needs : List Need) : (Dev.takeMark d r hop needs).lcs = d.lcs := by
  unfold Dev.takeMark; simp

@[simp] theorem Dev.loseHeld_lcs (d : Dev) : (Dev.loseHeld d).lcs = d.lcs := by
  unfold Dev.loseHeld; simp

@[simp] theorem Dev.drew_lcs (d : Dev) (used : Bool) (stream : BitVec 16) : (Dev.drew d used stream).lcs = d.lcs := by
  unfold Dev.drew; simp

@[simp] theorem Dev.convNans_lcs (d : Dev) (n src tile q : Nat) (seq : Word) (sweep : Nat) (nans : List Nat) : (Dev.convNans d n src tile q seq sweep nans).lcs = d.lcs := by
  unfold Dev.convNans; (try dsimp only); repeat' first | rfl | split | rw [foldl_lcs] | rw [foldlp_lcs] | intro
  all_goals first | rfl | simp

@[simp] theorem Dev.lossConversions_lcs (d : Dev) (n k : Nat) : (Dev.lossConversions d n k).lcs = d.lcs := by
  unfold Dev.lossConversions; simp

@[simp] theorem Dev.topoUpdate_lcs (d : Dev) : (Dev.topoUpdate d).lcs = d.lcs := by
  unfold Dev.topoUpdate; (try dsimp only); repeat' first | rfl | split | rw [foldl_lcs] | rw [foldlp_lcs] | intro
  all_goals first | rfl | simp

@[simp] theorem Dev.loadDone_lcs (d : Dev) (reason : Byte) (at_ : Place) : (Dev.loadDone d reason at_).lcs = d.lcs := by
  unfold Dev.loadDone; simp

@[simp] theorem Dev.loadFails_lcs (d : Dev) (reason : Byte) (at_ : Place) : (Dev.loadFails d reason at_).lcs = d.lcs := by
  unfold Dev.loadFails; simp

@[simp] theorem Dev.dropHeld_lcs (d : Dev) : (Dev.dropHeld d).lcs = d.lcs := by
  unfold Dev.dropHeld; simp

@[simp] theorem doPlanLoad_lcs (d : Dev) : (doPlanLoad d).lcs = d.lcs := by
  unfold doPlanLoad; simp

@[simp] theorem doPlanAbort_lcs (d : Dev) : (doPlanAbort d).lcs = d.lcs := by
  unfold doPlanAbort; simp

@[simp] theorem Dev.newSalt_lcs (d : Dev) : (Dev.newSalt d).lcs = d.lcs := by
  unfold Dev.newSalt; simp

@[simp] theorem Dev.takeRole_lcs (d : Dev) (p : StandPlan) : (Dev.takeRole d p).lcs = d.lcs := by
  unfold Dev.takeRole; simp

@[simp] theorem Dev.formAll_lcs (d : Dev) (f : Nat) : (Dev.formAll d f).lcs = d.lcs := by
  unfold Dev.formAll; (try dsimp only); repeat' first | rfl | split | rw [foldl_lcs] | rw [foldlp_lcs] | intro
  all_goals first | rfl | simp

@[simp] theorem Dev.openClearing_lcs (d : Dev) (n : Nat) : (Dev.openClearing d n).lcs = d.lcs := by
  unfold Dev.openClearing; simp

@[simp] theorem Dev.partition_lcs (d : Dev) (p : StandPlan) : (Dev.partition d p).lcs = d.lcs := by
  unfold Dev.partition; simp

@[simp] theorem Dev.dropUnfit_lcs (d : Dev) (p : StandPlan) : (Dev.dropUnfit d p).lcs = d.lcs := by
  unfold Dev.dropUnfit; simp

@[simp] theorem Dev.rebind_lcs (d : Dev) (p : StandPlan) : (Dev.rebind d p).lcs = d.lcs := by
  unfold Dev.rebind; simp

@[simp] theorem Dev.reschedule_lcs (d : Dev) (p : StandPlan) (changed : BitVec 16) (pos : Nat) : (Dev.reschedule d p changed pos).lcs = d.lcs := by
  unfold Dev.reschedule; simp

@[simp] theorem Dev.renewRegions_lcs (d : Dev) (a p : StandPlan) (n : Nat) : (Dev.renewRegions d a p n).lcs = d.lcs := by
  unfold Dev.renewRegions; simp

@[simp] theorem Dev.endEngineResets_lcs (d : Dev) (n : Nat) (tiles : List Nat) : (Dev.endEngineResets d n tiles).lcs = d.lcs := by
  unfold Dev.endEngineResets; simp

@[simp] theorem Dev.changeClr_lcs (d : Dev) (a p : StandPlan) (n : Nat) : (Dev.changeClr d a p n).lcs = d.lcs := by
  unfold Dev.changeClr; (try dsimp only); repeat' first | rfl | split | rw [foldl_lcs] | rw [foldlp_lcs] | intro
  all_goals first | rfl | simp

@[simp] theorem Dev.recable_lcs (d : Dev) (a p : StandPlan) : (Dev.recable d a p).lcs = d.lcs := by
  unfold Dev.recable; simp

@[simp] theorem Dev.tapLeaves_lcs (d : Dev) : (Dev.tapLeaves d).lcs = d.lcs := by
  unfold Dev.tapLeaves; simp

@[simp] theorem Dev.activate_lcs (d : Dev) (p : StandPlan) : (Dev.activate d p).lcs = d.lcs := by
  unfold Dev.activate; simp

@[simp] theorem Dev.applyFirst_lcs (d : Dev) (p : StandPlan) : (Dev.applyFirst d p).lcs = d.lcs := by
  unfold Dev.applyFirst; simp

@[simp] theorem Dev.remeasureAll_lcs (d : Dev) : (Dev.remeasureAll d).lcs = d.lcs := by
  unfold Dev.remeasureAll; simp

@[simp] theorem Dev.applyReplacement_lcs (d : Dev) (a p : StandPlan) : (Dev.applyReplacement d a p).lcs = d.lcs := by
  unfold Dev.applyReplacement; simp

@[simp] theorem Dev.armPlan_lcs (d : Dev) (p : StandPlan) : (Dev.armPlan d p).lcs = d.lcs := by
  unfold Dev.armPlan; dsimp only; repeat' split
  all_goals simp

@[simp] theorem doPlanCheck_lcs (p : StandPlan) (v : PlanVerdict) (d : Dev) : (doPlanCheck p v d).lcs = d.lcs := by
  unfold doPlanCheck; (try dsimp only); repeat' first | rfl | split | rw [foldl_lcs] | rw [foldlp_lcs] | intro
  all_goals first | rfl | simp

@[simp] theorem doPlanApply_lcs (d : Dev) : (doPlanApply d).lcs = d.lcs := by
  unfold doPlanApply; dsimp only; repeat' split
  all_goals simp

@[simp] theorem doGranuleOverwriteDone_lcs (g : Fin 1536) (d : Dev) : (doGranuleOverwriteDone g d).lcs = d.lcs := by
  unfold doGranuleOverwriteDone; simp

@[simp] theorem Dev.commitsEnded_lcs (d : Dev) : (Dev.commitsEnded d).lcs = d.lcs := by
  unfold Dev.commitsEnded; simp

@[simp] theorem Dev.takeImages_lcs (d : Dev) (images : List FwImage) : (Dev.takeImages d images).lcs = d.lcs := by
  unfold Dev.takeImages; (try dsimp only); repeat' first | rfl | split | rw [foldl_lcs] | rw [foldlp_lcs] | intro
  all_goals first | rfl | simp

@[simp] theorem Dev.signQuote_lcs (d : Dev) (nonce : B256) : (Dev.signQuote d nonce).1.lcs = d.lcs := by
  unfold Dev.signQuote; simp

@[simp] theorem Dev.startFirmware_lcs (d : Dev) : (Dev.startFirmware d).lcs = d.lcs := by
  unfold Dev.startFirmware; simp

@[simp] theorem Dev.drawDieKeys_lcs (d : Dev) : (Dev.drawDieKeys d).lcs = d.lcs := by
  unfold Dev.drawDieKeys; simp

@[simp] theorem Dev.tapGate_lcs (d : Dev) : (Dev.tapGate d).lcs = d.lcs := by
  unfold Dev.tapGate; simp

@[simp] theorem Dev.destroyAll_lcs (d : Dev) : (Dev.destroyAll d).lcs = d.lcs := by
  unfold Dev.destroyAll; simp

@[simp] theorem Dev.forgetMemory_lcs (d : Dev) : (Dev.forgetMemory d).lcs = d.lcs := by
  unfold Dev.forgetMemory; simp

@[simp] theorem Dev.progEnd_lcs (d : Dev) (t : Nat) : (Dev.progEnd d t).lcs = d.lcs := by
  unfold Dev.progEnd; (try dsimp only); repeat' first | rfl | split | rw [foldl_lcs] | rw [foldlp_lcs] | intro
  all_goals first | rfl | simp

@[simp] theorem Dev.checkRanges_lcs (d : Dev) (o : Obj) (rs : List (Nat × Nat)) : (Dev.checkRanges d o rs).1.lcs = d.lcs := by
  unfold Dev.checkRanges; simp

@[simp] theorem Dev.writePieces_lcs (d : Dev) (o : Obj) (ws : List (Nat × List Byte)) : (Dev.writePieces d o ws).1.lcs = d.lcs := by
  unfold Dev.writePieces; simp

@[simp] theorem Dev.hurry_lcs (d : Dev) (f r ra n : Nat) : (Dev.hurry d f r ra n).lcs = d.lcs := by
  unfold Dev.hurry; simp

@[simp] theorem Dev.hurryPieces_lcs (d : Dev) (o : Obj) (ws : List (Nat × List Byte)) : (Dev.hurryPieces d o ws).lcs = d.lcs := by
  unfold Dev.hurryPieces; simp

@[simp] theorem Dev.tryRead_lcs (d : Dev) (n : Nat) (who : Option (Nat × Word)) (h : Word) (o : Obj) (rs : List (Nat × Nat)) : (Dev.tryRead d n who h o rs).1.lcs = d.lcs := by
  unfold Dev.tryRead; (try dsimp only); repeat' first | rfl | split | rw [foldl_lcs] | rw [foldlp_lcs] | intro
  all_goals first | rfl | simp

@[simp] theorem Dev.tryWrite_lcs (d : Dev) (n : Nat) (o : Obj) (ws : List (Nat × List Byte)) : (Dev.tryWrite d n o ws).1.lcs = d.lcs := by
  unfold Dev.tryWrite; simp

@[simp] theorem Dev.stripe_lcs (d : Dev) (ls : List Nat) (fs : List TxFlit) : (Dev.stripe d ls fs).lcs = d.lcs := by
  unfold Dev.stripe; (try dsimp only); repeat' first | rfl | split | rw [foldl_lcs] | rw [foldlp_lcs] | intro
  all_goals first | rfl | simp

@[simp] theorem Dev.acked_lcs (d : Dev) (l : Nat) (ack : Word) : (Dev.acked d l ack).lcs = d.lcs := by
  unfold Dev.acked; simp

@[simp] theorem Dev.moveFlit_lcs (d : Dev) (l : Nat) (g : Byte) (f : TxFlit) : (Dev.moveFlit d l g f).lcs = d.lcs := by
  unfold Dev.moveFlit; simp

@[simp] theorem Dev.takeDown_lcs (d : Dev) (l : Nat) : (Dev.takeDown d l).lcs = d.lcs := by
  unfold Dev.takeDown; simp

@[simp] theorem Dev.linkFails_lcs (d : Dev) (l : Nat) : (Dev.linkFails d l).lcs = d.lcs := by
  unfold Dev.linkFails; simp

@[simp] theorem Dev.sendNak_lcs (d : Dev) (l : Nat) : (Dev.sendNak d l).lcs = d.lcs := by
  unfold Dev.sendNak; simp

@[simp] theorem Dev.tagFails_lcs (d : Dev) (l : Nat) (tagOk : Bool) : (Dev.tagFails d l tagOk).lcs = d.lcs := by
  unfold Dev.tagFails; simp

@[simp] theorem Dev.takeFlit_lcs (d : Dev) (l : Nat) (h : FlitHdr) (credit : Bool) : (Dev.takeFlit d l h credit).lcs = d.lcs := by
  unfold Dev.takeFlit; simp

@[simp] theorem Dev.dropStale_lcs (d : Dev) (l : Nat) (h : FlitHdr) (cur : BitVec 12) : (Dev.dropStale d l h cur).lcs = d.lcs := by
  unfold Dev.dropStale; simp

@[simp] theorem Dev.countDeny_lcs (d : Dev) : (Dev.countDeny d).lcs = d.lcs := rfl

@[simp] theorem Dev.denyFlow_lcs (d : Dev) (l : Nat) (h : FlitHdr) : (Dev.denyFlow d l h).lcs = d.lcs := by
  unfold Dev.denyFlow; simp

@[simp] theorem Dev.receive_lcs (d : Dev) (l : Nat) (h : FlitHdr) (tagOk : Bool) (allowed : Dev → Bool) (eff : Dev → Dev) (heff : ∀ x0, (eff x0).lcs = x0.lcs) : (Dev.receive d l h tagOk allowed eff).lcs = d.lcs := by
  unfold Dev.receive; (try dsimp only); repeat' split
  all_goals simp_all

@[simp] theorem Dev.dbgAnswer_lcs (d : Dev) (r : BitVec 4) : (Dev.dbgAnswer d r).lcs = d.lcs := by
  unfold Dev.dbgAnswer; simp

@[simp] theorem doDbgChallenge_lcs (scope : Byte) (d : Dev) : (doDbgChallenge scope d).lcs = d.lcs := by
  unfold doDbgChallenge; simp

@[simp] theorem Dev.reopen_lcs (d : Dev) (scope : Byte) : (Dev.reopen d scope).lcs = d.lcs := by
  unfold Dev.reopen; simp

@[simp] theorem doDbgOpen_lcs (r : DbgResp) (d : Dev) : (doDbgOpen r d).lcs = d.lcs := by
  unfold doDbgOpen; (try dsimp only); repeat' first | rfl | split | rw [foldl_lcs] | rw [foldlp_lcs] | intro
  all_goals first | rfl | simp

@[simp] theorem doDebugScopeOpen_lcs (d : Dev) : (doDebugScopeOpen d).lcs = d.lcs := by
  unfold doDebugScopeOpen; (try dsimp only); repeat' first | rfl | split | rw [foldl_lcs] | rw [foldlp_lcs] | intro
  all_goals first | rfl | simp

@[simp] theorem Dev.tapSelect_lcs (d : Dev) (code : Byte) (f : Dev → Dev) (hf : ∀ x0, (f x0).lcs = x0.lcs) : (Dev.tapSelect d code f).lcs = d.lcs := by
  unfold Dev.tapSelect; (try dsimp only); repeat' first | rfl | split | rw [foldl_lcs] | rw [foldlp_lcs] | intro
  all_goals (try dsimp only)
  all_goals repeat' split
  all_goals simp_all

@[simp] theorem doSamplePreload_lcs (preload : Option (List Bool)) (d : Dev) : (doSamplePreload preload d).lcs = d.lcs := by
  unfold doSamplePreload; simp

@[simp] theorem doBist_lcs (d : Dev) : (doBist d).lcs = d.lcs := by
  unfold doBist; simp

@[simp] theorem doMemread_lcs (h : Word) (off : Nat) (st : Status) (d : Dev) : (doMemread h off st d).lcs = d.lcs := by
  unfold doMemread; simp

@[simp] theorem doTraceTriggerEdge_lcs (heldNs : Nat) (d : Dev) : (doTraceTriggerEdge heldNs d).lcs = d.lcs := by
  unfold doTraceTriggerEdge; simp

@[simp] theorem Dev.readChunk_lcs (d : Dev) (key : Nat) : (Dev.readChunk d key).1.lcs = d.lcs := by
  unfold Dev.readChunk; (try dsimp only); repeat' first | rfl | split | rw [foldl_lcs] | rw [foldlp_lcs] | intro
  all_goals first | rfl | simp

@[simp] theorem Dev.pullSet_lcs (d : Dev) (l : Nat) (w : SendSet) : (Dev.pullSet d l w).lcs = d.lcs := by
  unfold Dev.pullSet; dsimp only
  split
  · split
    · rename_i h
      have hk := congrArg (fun x => x.1.lcs) h
      simpa using hk.symm
    · rename_i h
      have hk := congrArg (fun x => x.1.lcs) h
      simp at hk
      simp [hk]
  · split <;> simp

@[simp] theorem Dev.pullStrand_lcs (d : Dev) (l : Nat) : (Dev.pullStrand d l).lcs = d.lcs := by
  unfold Dev.pullStrand; (try dsimp only); repeat' first | rfl | split | rw [foldl_lcs] | rw [foldlp_lcs] | intro
  all_goals first | rfl | simp

@[simp] theorem Dev.sendManifests_lcs (d : Dev) (addr : BitVec 20) : (Dev.sendManifests d addr).lcs = d.lcs := by
  unfold Dev.sendManifests; simp

@[simp] theorem doManifestSend_lcs (d : Dev) : (doManifestSend d).lcs = d.lcs := by
  unfold doManifestSend; (try dsimp only); repeat' first | rfl | split | rw [foldl_lcs] | rw [foldlp_lcs] | intro
  all_goals first | rfl | simp

@[simp] theorem Dev.endMarks_lcs (d : Dev) (a : BitVec 16) (inst : Word) : (Dev.endMarks d a inst).lcs = d.lcs := by
  unfold Dev.endMarks; simp

@[simp] theorem Dev.endRuns_lcs (d : Dev) (a : BitVec 16) : (Dev.endRuns d a).lcs = d.lcs := by
  unfold Dev.endRuns; simp

@[simp] theorem Dev.endStage_lcs (d : Dev) (k : Nat) : (Dev.endStage d k).lcs = d.lcs := by
  unfold Dev.endStage; (try dsimp only); repeat' first | rfl | split | rw [foldl_lcs] | rw [foldlp_lcs] | intro
  all_goals first | rfl | simp

@[simp] theorem Dev.settleStage_lcs (d : Dev) : (Dev.settleStage d).lcs = d.lcs := by
  unfold Dev.settleStage; (try dsimp only); repeat' first | rfl | split | rw [foldl_lcs] | rw [foldlp_lcs] | intro
  all_goals first | rfl | simp

@[simp] theorem Dev.updateTau_lcs (d : Dev) : (Dev.updateTau d).lcs = d.lcs := by
  unfold Dev.updateTau; (try dsimp only); repeat' first | rfl | split | rw [foldl_lcs] | rw [foldlp_lcs] | intro
  all_goals first | rfl | simp

@[simp] theorem doSaveDone_lcs (saveMs : Nat) (d : Dev) : (doSaveDone saveMs d).lcs = d.lcs := by
  unfold doSaveDone; (try dsimp only); repeat' first | rfl | split | rw [foldl_lcs] | rw [foldlp_lcs] | intro
  all_goals first | rfl | simp

@[simp] theorem Dev.sendLoss_lcs (d : Dev) (inst : Word) (w : AW) (addr : BitVec 20) : (Dev.sendLoss d inst w addr).lcs = d.lcs := by
  unfold Dev.sendLoss; simp

@[simp] theorem doLossWordRecord_lcs (d : Dev) : (doLossWordRecord d).lcs = d.lcs := by
  unfold doLossWordRecord; (try dsimp only); repeat' first | rfl | split | rw [foldl_lcs] | rw [foldlp_lcs] | intro
  all_goals first | rfl | simp

@[simp] theorem doLossVerify_lcs (inst : Word) (d : Dev) : (doLossVerify inst d).lcs = d.lcs := by
  unfold doLossVerify; (try dsimp only); repeat' first | rfl | split | rw [foldl_lcs] | rw [foldlp_lcs] | intro
  all_goals first | rfl | simp

@[simp] theorem Dev.dropDeep_lcs (d : Dev) (a : BitVec 16) : (Dev.dropDeep d a).lcs = d.lcs := by
  unfold Dev.dropDeep; simp

@[simp] theorem Dev.runStrandMark_lcs (d : Dev) (p : StandPlan) (q : Nat) (c : Cmd) (a : PlanAct) : (Dev.runStrandMark d p q c a).lcs = d.lcs := by
  unfold Dev.runStrandMark; simp

@[simp] theorem doStrandlineMark_lcs (q : Nat) (seq : Word) (d : Dev) : (doStrandlineMark q seq d).lcs = d.lcs := by
  unfold doStrandlineMark; (try dsimp only); repeat' first | rfl | split | rw [foldl_lcs] | rw [foldlp_lcs] | intro
  all_goals first | rfl | simp

@[simp] theorem Dev.deepRecords_lcs (index : Word) (ks : List Nat) (d : Dev) :
    (Dev.deepRecords index ks d).1.lcs = d.lcs := by
  induction ks generalizing d with
  | nil => rfl
  | cons k ks ih =>
    unfold Dev.deepRecords
    split
    · rename_i h
      have hk := congrArg (fun x => x.1.lcs) h
      simpa using hk.symm
    · rename_i e _ h
      have hk := congrArg (fun x => x.1.lcs) h
      simp at hk
      have hi := ih e
      split
      all_goals
        rename_i h2
        have h3 := congrArg (fun x => x.1.lcs) h2
        simp [hi] at h3
        simp [hk, h3]

@[simp] theorem doDeepStrandlineDone_lcs (q : Nat) (seq : Word) (d : Dev) : (doDeepStrandlineDone q seq d).lcs = d.lcs := by
  unfold doDeepStrandlineDone; dsimp only
  split
  · split
    · split
      · rename_i h
        have hk := congrArg (fun x => x.1.lcs) h
        simpa using hk.symm
      · rename_i h
        have hk := congrArg (fun x => x.1.lcs) h
        simp at hk
        simp [hk]
    · rfl
  · rfl

@[simp] theorem Dev.storeStrand_lcs (d : Dev) (p : Nat) (clearing part off : Nat) (bs : List Byte) (index : Word) (last : Bool) : (Dev.storeStrand d p clearing part off bs index last).lcs = d.lcs := by
  unfold Dev.storeStrand; simp

@[simp] theorem Dev.takeStrand_lcs (d : Dev) (addr : BitVec 20) (clearing part : Nat) (fill : Bool) (off : Nat) (bs : List Byte) (index : Word) (last : Bool) : (Dev.takeStrand d addr clearing part fill off bs index last).lcs = d.lcs := by
  unfold Dev.takeStrand; (try dsimp only); repeat' first | rfl | split | rw [foldl_lcs] | rw [foldlp_lcs] | intro
  all_goals first | rfl | simp

@[simp] theorem doStrandFlit_lcs (l : Nat) (h : FlitHdr) (tagOk : Bool) (clearing part : Nat) (fill : Bool) (off : Nat) (bs : List Byte) (index : Word) (last : Bool) (d : Dev) : (doStrandFlit l h tagOk clearing part fill off bs index last d).lcs = d.lcs := by
  unfold doStrandFlit; dsimp only
  rw [Dev.settleStage_lcs, Dev.receive_lcs]
  intro e
  split <;> simp

@[simp] theorem Dev.stlResult_lcs (d : Dev) (res : BitVec 4) (op : BitVec 3) (clearing : Byte) : (Dev.stlResult d res op clearing).lcs = d.lcs := by
  unfold Dev.stlResult; simp

@[simp] theorem Dev.stlCmd_lcs (d : Dev) (op : BitVec 3) (f : Dev → Dev) (hf : ∀ x0, (f x0).lcs = x0.lcs) : (Dev.stlCmd d op f).lcs = d.lcs := by
  unfold Dev.stlCmd; (try dsimp only); repeat' first | rfl | split | rw [foldl_lcs] | rw [foldlp_lcs] | intro
  all_goals (try dsimp only)
  all_goals repeat' split
  all_goals simp_all

@[simp] theorem Dev.dropSaves_lcs (d : Dev) : (Dev.dropSaves d).lcs = d.lcs := by
  unfold Dev.dropSaves; simp

@[simp] theorem Dev.beginRestore_lcs (d : Dev) (st : StlSt) (op : BitVec 3) : (Dev.beginRestore d st op).lcs = d.lcs := by
  unfold Dev.beginRestore; simp

@[simp] theorem doRollback_lcs (d : Dev) : (doRollback d).lcs = d.lcs := by
  unfold doRollback; simp

@[simp] theorem doTakeover_lcs (d : Dev) : (doTakeover d).lcs = d.lcs := by
  unfold doTakeover
  rw [Dev.stlCmd_lcs]
  intro e
  repeat' split
  all_goals simp

@[simp] theorem doResume_lcs (d : Dev) : (doResume d).lcs = d.lcs := by
  unfold doResume
  rw [Dev.stlCmd_lcs]
  intro e
  dsimp only
  repeat' split
  all_goals simp

@[simp] theorem doRestoreDeep_lcs (d : Dev) : (doRestoreDeep d).lcs = d.lcs := by
  unfold doRestoreDeep; simp

@[simp] theorem Dev.restoreByte_lcs (d : Dev) (p : StandPlan) (n : Nat) (x : Nat × Byte) : (Dev.restoreByte d p n x).lcs = d.lcs := by
  unfold Dev.restoreByte; (try dsimp only); repeat' first | rfl | split | rw [foldl_lcs] | rw [foldlp_lcs] | intro
  all_goals first | rfl | simp

@[simp] theorem Dev.sealRestored_lcs (d : Dev) (p : StandPlan) (n : Nat) (bs : List (Nat × Byte)) : (Dev.sealRestored d p n bs).lcs = d.lcs := by
  unfold Dev.sealRestored; (try dsimp only); repeat' first | rfl | split | rw [foldl_lcs] | rw [foldlp_lcs] | intro
  all_goals first | rfl | simp

@[simp] theorem Dev.restoreObjs_lcs (d : Dev) (n : Nat) (os : List (Nat × BitVec 12 × Nat × Nat × Nat × BitVec 16)) : (Dev.restoreObjs d n os).lcs = d.lcs := by
  unfold Dev.restoreObjs; simp

@[simp] theorem Dev.restoreClr_lcs (d : Dev) (p : StandPlan) (x : RestoreImage) : (Dev.restoreClr d p x).lcs = d.lcs := by
  unfold Dev.restoreClr; simp

@[simp] theorem Dev.roleClr_lcs (d : Dev) (x : RestoreImage) : (Dev.roleClr d x).lcs = d.lcs := by
  unfold Dev.roleClr; simp

@[simp] theorem Dev.restoreFences_lcs (d : Dev) (fs : List FenceRecord) : (Dev.restoreFences d fs).lcs = d.lcs := by
  unfold Dev.restoreFences; simp

@[simp] theorem Dev.restoreAll_lcs (d : Dev) (p : StandPlan) (images : List RestoreImage) (role : Bool) : (Dev.restoreAll d p images role).1.lcs = d.lcs := by
  unfold Dev.restoreAll; (try dsimp only); repeat' first | rfl | split | rw [foldl_lcs] | rw [foldlp_lcs] | intro
  all_goals first | rfl | simp

@[simp] theorem doRestoreDone_lcs (images : List RestoreImage) (r : RestoreRecord) (copyFound : Bool) (gapS : Nat) (d : Dev) : (doRestoreDone images r copyFound gapS d).lcs = d.lcs := by
  unfold doRestoreDone; dsimp only
  split
  · rfl
  · rename_i p_ _
    split
    · rfl
    · split
      · simp
      · have hk := Dev.restoreAll_lcs d p_ images (d.stl.st == .fill && d.stl.op == 2)
        split
        · rename_i h
          rw [h] at hk
          simpa using hk
        · rename_i h
          rw [h] at hk
          split <;> simpa using hk

@[simp] theorem Dev.sendEnvelope_lcs (d : Dev) (addr : BitVec 64) (k : Nat × Nat × Nat) (payload : List Byte) : (Dev.sendEnvelope d addr k payload).lcs = d.lcs := by
  unfold Dev.sendEnvelope; simp

@[simp] theorem Dev.copyTo_lcs (d : Dev) (n q : Nat) (c : Cmd) (a : CopyArgs) (x : Raw) : (Dev.copyTo d n q c a x).lcs = d.lcs := by
  unfold Dev.copyTo; dsimp only
  split
  · split
    · simp
    · repeat' split
      all_goals simp
  · split
    · rename_i h
      have hk := congrArg (fun x => x.1.lcs) h
      simpa using hk.symm
    · rename_i h
      have hk := congrArg (fun x => x.1.lcs) h
      simp at hk
      repeat' split
      all_goals simp [hk]

@[simp] theorem doCopyConvert_lcs (q : Nat) (seq : Word) (env : Envelope) (tagOk : Bool) (d : Dev) : (doCopyConvert q seq env tagOk d).lcs = d.lcs := by
  unfold doCopyConvert; dsimp only
  split
  · split
    · rfl
    · split
      · repeat' split
        all_goals simp
      · split
        · simp
        · split
          · rename_i h
            have hk := congrArg (fun x => x.1.lcs) h
            simpa using hk.symm
          · rename_i h
            have hk := congrArg (fun x => x.1.lcs) h
            simp at hk
            split <;> simp [hk]
  · rfl

@[simp] theorem Dev.decodeProgram_lcs (d : Dev) (n q : Nat) (c : Cmd) : (Dev.decodeProgram d n q c).lcs = d.lcs := by
  unfold Dev.decodeProgram; dsimp only
  split
  · simp
  · split
    · rename_i h
      have hk := congrArg (fun x => x.1.lcs) h
      simpa using hk.symm
    · rename_i h
      have hk := congrArg (fun x => x.1.lcs) h
      simp at hk
      repeat' split
      all_goals simp [hk]

@[simp] theorem Dev.installProgram_lcs (d : Dev) (n q : Nat) (c : Cmd) : (Dev.installProgram d n q c).lcs = d.lcs := by
  unfold Dev.installProgram; simp

@[simp] theorem doSweepProgram_lcs (q : Nat) (seq : Word) (d : Dev) : (doSweepProgram q seq d).lcs = d.lcs := by
  unfold doSweepProgram; (try dsimp only); repeat' first | rfl | split | rw [foldl_lcs] | rw [foldlp_lcs] | intro
  all_goals first | rfl | simp

@[simp] theorem Dev.issueSweep_lcs (d : Dev) (t : Nat) (g : Prog) (idx : Nat) (i : SwInstr) (init : Bool) (slot k : Nat) : (Dev.issueSweep d t g idx i init slot k).lcs = d.lcs := by
  unfold Dev.issueSweep; simp

@[simp] theorem doSweep_lcs (t : Nat) (d : Dev) : (doSweep t d).lcs = d.lcs := by
  unfold doSweep; (try dsimp only); repeat' first | rfl | split | rw [foldl_lcs] | rw [foldlp_lcs] | intro
  all_goals first | rfl | simp

@[simp] theorem doAccAdd_lcs (t : Nat) (d : Dev) : (doAccAdd t d).lcs = d.lcs := by
  unfold doAccAdd; (try dsimp only); repeat' first | rfl | split | rw [foldl_lcs] | rw [foldlp_lcs] | intro
  all_goals first | rfl | simp

@[simp] theorem Dev.commitWords_lcs (d : Dev) (g : Prog) (f : Flight) (outs : List (Nat × List ElemRes)) : (Dev.commitWords d g f outs).lcs = d.lcs := by
  unfold Dev.commitWords; simp

@[simp] theorem Dev.strictStarts_lcs (d : Dev) (g : Prog) (f : Flight) : (Dev.strictStarts d g f).lcs = d.lcs := by
  unfold Dev.strictStarts; simp

@[simp] theorem Dev.commitFlight_lcs (d : Dev) (t : Nat) (g : Prog) (f : Flight) (outs : List (Nat × List ElemRes)) : (Dev.commitFlight d t g f outs).lcs = d.lcs := by
  unfold Dev.commitFlight; (try dsimp only); repeat' first | rfl | split | rw [foldl_lcs] | rw [foldlp_lcs] | intro
  all_goals first | rfl | simp

@[simp] theorem Dev.replayFlight_lcs (d : Dev) (t : Nat) (g : Prog) (f : Flight) (outs : List (Nat × List ElemRes)) : (Dev.replayFlight d t g f outs).lcs = d.lcs := by
  unfold Dev.replayFlight; simp

@[simp] theorem doSweepCommit_lcs (t : Nat) (d : Dev) : (doSweepCommit t d).lcs = d.lcs := by
  unfold doSweepCommit; (try dsimp only); repeat' first | rfl | split | rw [foldl_lcs] | rw [foldlp_lcs] | intro
  all_goals first | rfl | simp

@[simp] theorem Dev.endEpilogue_lcs (d : Dev) (t : Nat) (g : Prog) (idx : Nat) (i : SwInstr) : (Dev.endEpilogue d t g idx i).lcs = d.lcs := by
  unfold Dev.endEpilogue; (try dsimp only); repeat' first | rfl | split | rw [foldl_lcs] | rw [foldlp_lcs] | intro
  all_goals first | rfl | simp

@[simp] theorem doEpilogueDone_lcs (t : Nat) (d : Dev) : (doEpilogueDone t d).lcs = d.lcs := by
  unfold doEpilogueDone; (try dsimp only); repeat' first | rfl | split | rw [foldl_lcs] | rw [foldlp_lcs] | intro
  all_goals first | rfl | simp

@[simp] theorem Dev.startMove_lcs (d : Dev) (t idx : Nat) (st : Status) (det : Detail) (info : BitVec 64) : (Dev.startMove d t idx st det info).lcs = d.lcs := by
  unfold Dev.startMove; simp

@[simp] theorem Dev.failMove_lcs (d d₀ : Dev) (t : Nat) (g : Prog) (idx : Nat) (x : Hit) (info : BitVec 64) : (Dev.failMove d d₀ t g idx x info).lcs = d.lcs := by
  unfold Dev.failMove; simp

@[simp] theorem Dev.moveNotes_lcs (d : Dev) (t : Nat) (g : Prog) (idx : Nat) (sr : Bool) (y : Conv × Nat) : (Dev.moveNotes d t g idx sr y).lcs = d.lcs := by
  unfold Dev.moveNotes; simp

@[simp] theorem Dev.runLoad_lcs (d : Dev) (t : Nat) (g : Prog) (idx : Nat) (i : SwInstr) : (Dev.runLoad d t g idx i).lcs = d.lcs := by
  unfold Dev.runLoad; dsimp only
  split
  · split
    · rename_i h
      have hk := congrArg (fun x => x.1.lcs) h
      simpa using hk.symm
    · rename_i h
      have hk := congrArg (fun x => x.1.lcs) h
      simp at hk
      repeat' split
      all_goals simp [hk]
  · rfl

@[simp] theorem doLoad_lcs (t idx : Nat) (d : Dev) : (doLoad t idx d).lcs = d.lcs := by
  unfold doLoad; (try dsimp only); repeat' first | rfl | split | rw [foldl_lcs] | rw [foldlp_lcs] | intro
  all_goals first | rfl | simp

@[simp] theorem Dev.runStore_lcs (d : Dev) (t : Nat) (g : Prog) (idx : Nat) (i : SwInstr) : (Dev.runStore d t g idx i).lcs = d.lcs := by
  unfold Dev.runStore; dsimp only
  split
  · split
    · rename_i h
      have hk := congrArg (fun x => x.1.lcs) h
      simpa using hk.symm
    · rename_i h
      have hk := congrArg (fun x => x.1.lcs) h
      simp at hk
      repeat' split
      all_goals simp [hk]
  · rfl

@[simp] theorem doStore_lcs (t idx : Nat) (d : Dev) : (doStore t idx d).lcs = d.lcs := by
  unfold doStore; (try dsimp only); repeat' first | rfl | split | rw [foldl_lcs] | rw [foldlp_lcs] | intro
  all_goals first | rfl | simp

@[simp] theorem doMoverTransferDone_lcs (t idx : Nat) (d : Dev) : (doMoverTransferDone t idx d).lcs = d.lcs := by
  unfold doMoverTransferDone; (try dsimp only); repeat' first | rfl | split | rw [foldl_lcs] | rw [foldlp_lcs] | intro
  all_goals first | rfl | simp

@[simp] theorem Dev.fillSlot_lcs (d : Dev) (slot idx elem : Nat) (ws : List AW) : (Dev.fillSlot d slot idx elem ws).lcs = d.lcs := by
  unfold Dev.fillSlot; simp

@[simp] theorem Dev.sendChunk_lcs (d : Dev) (x : Xfer) (c : TxChunk) : (Dev.sendChunk d x c).1.lcs = d.lcs := by
  unfold Dev.sendChunk; simp

@[simp] theorem Dev.pumpOne_lcs (d : Dev) (x : Xfer) : (Dev.pumpOne d x).lcs = d.lcs := by
  unfold Dev.pumpOne; simp

@[simp] theorem Dev.pump_lcs (d : Dev) : (Dev.pump d).lcs = d.lcs := by
  unfold Dev.pump; simp

@[simp] theorem Dev.endXfer_lcs (d : Dev) (q : Nat) (seq : Word) : (Dev.endXfer d q seq).lcs = d.lcs := by
  unfold Dev.endXfer; (try dsimp only); repeat' first | rfl | split | rw [foldl_lcs] | rw [foldlp_lcs] | intro
  all_goals first | rfl | simp

@[simp] theorem Dev.endXfers_lcs (d : Dev) : (Dev.endXfers d).lcs = d.lcs := by
  unfold Dev.endXfers; simp

@[simp] theorem Dev.failXfer_lcs (d : Dev) (q : Nat) (seq : Word) (st : Status) (info : BitVec 64) : (Dev.failXfer d q seq st info).lcs = d.lcs := by
  unfold Dev.failXfer; simp

@[simp] theorem Dev.beginXfer_lcs (d : Dev) (n q : Nat) (c : Cmd) (a : CollArgs) (ins : List StageIn) (ws : List TxChunk) (trapped : Bool) : (Dev.beginXfer d n q c a ins ws trapped).lcs = d.lcs := by
  unfold Dev.beginXfer; simp

@[simp] theorem Dev.runCopy_lcs (d : Dev) (n q : Nat) (c : Cmd) (a : CollArgs) (s : PlanStage) (bs : List Byte) : (Dev.runCopy d n q c a s bs).lcs = d.lcs := by
  unfold Dev.runCopy; dsimp only
  split
  · simp
  · split
    · rename_i h
      have hk := congrArg (fun x => x.1.lcs) h
      simpa using hk.symm
    · rename_i h
      have hk := congrArg (fun x => x.1.lcs) h
      simp at hk
      split <;> simp [hk]

@[simp] theorem Dev.collSourceCodes_lcs (d : Dev) (n q : Nat) (c : Cmd) (a : CollArgs) : (Dev.collSourceCodes d n q c a).1.lcs = d.lcs := by
  unfold Dev.collSourceCodes; dsimp only
  split
  · split <;> rfl
  · split
    · rename_i h
      have hk := congrArg (fun x => x.1.lcs) h
      simpa using hk.symm
    · rename_i h
      have hk := congrArg (fun x => x.1.lcs) h
      simpa using hk.symm

@[simp] theorem Dev.runStage_lcs (d : Dev) (n q : Nat) (c : Cmd) (a : CollArgs) (ins : List StageIn) : (Dev.runStage d n q c a ins).lcs = d.lcs := by
  unfold Dev.runStage; dsimp only
  split
  · simp
  · split
    · rename_i h
      have hk := congrArg (fun x => x.1.lcs) h
      simpa using hk.symm
    · rename_i h
      have hk := congrArg (fun x => x.1.lcs) h
      simp at hk
      repeat' split
      all_goals simp [hk]

@[simp] theorem doCollective_lcs (q : Nat) (seq : Word) (d : Dev) : (doCollective q seq d).lcs = d.lcs := by
  unfold doCollective; (try dsimp only); repeat' first | rfl | split | rw [foldl_lcs] | rw [foldlp_lcs] | intro
  all_goals first | rfl | simp

@[simp] theorem doConfluence_lcs (q : Nat) (seq : Word) (d : Dev) : (doConfluence q seq d).lcs = d.lcs := by
  unfold doConfluence; (try dsimp only); repeat' first | rfl | split | rw [foldl_lcs] | rw [foldlp_lcs] | intro
  all_goals first | rfl | simp

@[simp] theorem doCombineDone_lcs (q : Nat) (seq : Word) (d : Dev) : (doCombineDone q seq d).lcs = d.lcs := by
  unfold doCombineDone; (try dsimp only); repeat' first | rfl | split | rw [foldl_lcs] | rw [foldlp_lcs] | intro
  all_goals first | rfl | simp

@[simp] theorem Dev.nextChunk_lcs (d : Dev) (q : Nat) (seq : Word) : (Dev.nextChunk d q seq).lcs = d.lcs := by
  unfold Dev.nextChunk; simp

@[simp] theorem Dev.deliverObject_lcs (d : Dev) (x : Xfer) (c : Cmd) (a : CollArgs) (ws : List AW) : (Dev.deliverObject d x c a ws).lcs = d.lcs := by
  unfold Dev.deliverObject; dsimp only
  split
  · rename_i h
    have hk := congrArg (fun x => x.1.lcs) h
    simpa using hk.symm
  · rename_i h
    have hk := congrArg (fun x => x.1.lcs) h
    simp at hk
    repeat' split
    all_goals simp [hk]

@[simp] theorem doCollectorDelivery_lcs (q : Nat) (seq : Word) (d : Dev) : (doCollectorDelivery q seq d).lcs = d.lcs := by
  unfold doCollectorDelivery; (try dsimp only); repeat' first | rfl | split | rw [foldl_lcs] | rw [foldlp_lcs] | intro
  all_goals first | rfl | simp

@[simp] theorem Dev.transmit_lcs (d : Dev) (l : Nat) (f : TxFlit) : (Dev.transmit d l f).lcs = d.lcs := by
  unfold Dev.transmit; simp

theorem Dev.sendFirst_lcs (d : Dev) (l : Nat) (p : TxFlit → Bool) (e : Dev) (he : d.sendFirst l p = some e) :
    e.lcs = d.lcs := by
  unfold Dev.sendFirst at he; dsimp only at he
  split at he
  · injection he with he; subst he; simp
  · cases he

theorem Dev.sendCredit_lcs (d : Dev) (l : Nat) (e : Dev) (he : d.sendCredit l = some e) : e.lcs = d.lcs := by
  unfold Dev.sendCredit at he; dsimp only at he
  split at he
  · cases he
  · injection he with he; subst he; simp

theorem Dev.sendCtrlSlot_lcs (d : Dev) (l : Nat) (e : Dev) (he : d.sendCtrlSlot l = some e) : e.lcs = d.lcs := by
  unfold Dev.sendCtrlSlot at he
  split at he
  · rename_i h; injection he with he; subst he; exact Dev.sendFirst_lcs _ _ _ _ h
  · exact Dev.sendCredit_lcs _ _ _ he

theorem Dev.slotFlit_lcs (d : Dev) (l : Nat) (x : PlanLink) (fs : List Byte) (i : Nat) (e : Dev)
    (he : d.slotFlit l x fs i = some e) : e.lcs = d.lcs := by
  unfold Dev.slotFlit at he
  split at he
  · split at he
    · split at he
      · cases he
      · exact Dev.sendFirst_lcs _ _ _ _ he
    · cases he
  · split at he
    · exact Dev.sendFirst_lcs _ _ _ _ he
    · cases he
  · exact Dev.sendCtrlSlot_lcs _ _ _ he
  · cases he

theorem Dev.resendOne_lcs (d : Dev) (l : Nat) (e : Dev) (he : d.resendOne l = some e) : e.lcs = d.lcs := by
  unfold Dev.resendOne at he
  split at he
  · injection he with he; subst he; simp
  · cases he

@[simp] theorem Dev.emptySlot_lcs (d : Dev) (l : Nat) : (Dev.emptySlot d l).lcs = d.lcs := by
  unfold Dev.emptySlot; dsimp only
  repeat' split
  all_goals first | (simp; done) | (rename_i h; exact Dev.resendOne_lcs _ _ _ h)

@[simp] theorem Dev.sendTideFlit_lcs (d : Dev) (l : Nat) : (Dev.sendTideFlit d l).lcs = d.lcs := by
  unfold Dev.sendTideFlit; simp

theorem getD_lcs (o : Option Dev) (d0 : Dev) (h : ∀ e, o = some e → e.lcs = d0.lcs) (d : Dev) (hd : d.lcs = d0.lcs) :
    (o.getD d).lcs = d0.lcs := by
  cases o with
  | none => exact hd
  | some e => exact h e rfl

@[simp] theorem Dev.carrySlot_lcs (d : Dev) (l : Nat) (x : PlanLink) (fs : List Byte) (i : Nat) :
    (d.carrySlot l x fs i).lcs = d.lcs := by
  unfold Dev.carrySlot; dsimp only
  split
  · split <;> simp
  · split
    · split
      · exact (getD_lcs _ _ (fun e h => Dev.resendOne_lcs _ _ _ h) _ rfl).trans (by simp)
      · simp
    · split
      · split <;> simp
      · split
        · rename_i h
          rw [Dev.slotFlit_lcs _ _ _ _ _ _ h]
          split <;> simp
        · split <;> simp

@[simp] theorem Dev.ctrlSlot_lcs (d : Dev) (l : Nat) : (d.ctrlSlot l).lcs = d.lcs := by
  unfold Dev.ctrlSlot
  split
  · exact getD_lcs _ _ (fun e h => Dev.resendOne_lcs _ _ _ h) _ rfl
  · split
    · simp
    · split
      · rename_i h; exact Dev.sendCtrlSlot_lcs _ _ _ h
      · simp

@[simp] theorem Dev.criticalSlot_lcs (d : Dev) (l : Nat) : (d.criticalSlot l).lcs = d.lcs := by
  unfold Dev.criticalSlot; dsimp only
  split
  · simp
  · split
    · simp
    · exact getD_lcs _ _ (fun e h => Dev.sendCtrlSlot_lcs _ _ _ h) _ (by simp)

@[simp] theorem doFlitSlotSend_lcs (l : Nat) (d : Dev) : (doFlitSlotSend l d).lcs = d.lcs := by
  unfold doFlitSlotSend; (try dsimp only); repeat' first | rfl | split | rw [foldl_lcs] | rw [foldlp_lcs] | intro
  all_goals first | rfl | simp

@[simp] theorem doLinkTrainingStart_lcs (l : Nat) (d : Dev) : (doLinkTrainingStart l d).lcs = d.lcs := by
  unfold doLinkTrainingStart; simp

@[simp] theorem doOpticalTrainingDone_lcs (l : Nat) (failed : BitVec 9) (d : Dev) : (doOpticalTrainingDone l failed d).lcs = d.lcs := by
  unfold doOpticalTrainingDone; simp

@[simp] theorem Dev.sendHello_lcs (d : Dev) (l : Nat) : (Dev.sendHello d l).lcs = d.lcs := by
  unfold Dev.sendHello; simp

@[simp] theorem doKeyx_lcs (l : Nat) (chainOk : Bool) (keys : B256) (transcript : B256) (d : Dev) : (doKeyx l chainOk keys transcript d).lcs = d.lcs := by
  unfold doKeyx; simp

@[simp] theorem Dev.rescue_lcs (d : Dev) (l : Nat) : (Dev.rescue d l).lcs = d.lcs := by
  unfold Dev.rescue; (try dsimp only); repeat' first | rfl | split | rw [foldl_lcs] | rw [foldlp_lcs] | intro
  all_goals first | rfl | simp

@[simp] theorem doHello_lcs (l : Nat) (h : Hello) (proofOk : Bool) (d : Dev) : (doHello l h proofOk d).lcs = d.lcs := by
  unfold doHello; simp

@[simp] theorem doLinkDown_lcs (l : Nat) (why : DownCause) (d : Dev) : (doLinkDown l why d).lcs = d.lcs := by
  unfold doLinkDown; (try dsimp only); repeat' first | rfl | split | rw [foldl_lcs] | rw [foldlp_lcs] | intro
  all_goals first | rfl | simp

@[simp] theorem doLinkRetrainTimer_lcs (l : Nat) (d : Dev) : (doLinkRetrainTimer l d).lcs = d.lcs := by
  unfold doLinkRetrainTimer; simp

@[simp] theorem doLnkRetrain_lcs (l : Nat) (d : Dev) : (doLnkRetrain l d).lcs = d.lcs := by
  unfold doLnkRetrain; simp

@[simp] theorem doLinkRekey_lcs (l : Nat) (d : Dev) : (doLinkRekey l d).lcs = d.lcs := by
  unfold doLinkRekey; simp

@[simp] theorem Dev.settleLinks_lcs (d : Dev) : (Dev.settleLinks d).lcs = d.lcs := by
  unfold Dev.settleLinks; simp

@[simp] theorem doDataFlit_lcs (l : Nat) (h : FlitHdr) (tagOk : Bool) (handle : Word) (off : Nat) (bs : List Byte) (d : Dev) : (doDataFlit l h tagOk handle off bs d).lcs = d.lcs := by
  unfold doDataFlit; (try dsimp only)
  split
  · simp
  · rw [Dev.settleLinks_lcs, Dev.receive_lcs]
    intro e
    simp

@[simp] theorem doCollFlit_lcs (l : Nat) (h : FlitHdr) (tagOk : Bool) (slot : BitVec 12) (chunk elem : Nat) (elems : List AW) (d : Dev) : (doCollFlit l h tagOk slot chunk elem elems d).lcs = d.lcs := by
  unfold doCollFlit; (try dsimp only)
  rw [Dev.settleLinks_lcs, Dev.receive_lcs]
  intro e
  simp

@[simp] theorem doCoverFlit_lcs (l : Nat) (h : FlitHdr) (tagOk reserved : Bool) (d : Dev) : (doCoverFlit l h tagOk reserved d).lcs = d.lcs := by
  unfold doCoverFlit; simp

@[simp] theorem Dev.control_lcs (d : Dev) (l : Nat) (f : Dev → Dev) (hf : ∀ x0, (f x0).lcs = x0.lcs) : (Dev.control d l f).lcs = d.lcs := by
  unfold Dev.control; (try dsimp only); repeat' first | rfl | split | rw [foldl_lcs] | rw [foldlp_lcs] | intro
  all_goals (try dsimp only)
  all_goals repeat' split
  all_goals simp_all

@[simp] theorem doNak_lcs (l : Nat) (seq : BitVec 48) (d : Dev) : (doNak l seq d).lcs = d.lcs := by
  unfold doNak; simp

@[simp] theorem doAck_lcs (l : Nat) (seq : BitVec 48) (d : Dev) : (doAck l seq d).lcs = d.lcs := by
  unfold doAck; simp

@[simp] theorem doAckIdleTimeout_lcs (l : Nat) (d : Dev) : (doAckIdleTimeout l d).lcs = d.lcs := by
  unfold doAckIdleTimeout; simp

@[simp] theorem doCredit_lcs (l : Nat) (perVc : List Nat) (slots : List (BitVec 12)) (d : Dev) : (doCredit l perVc slots d).lcs = d.lcs := by
  unfold doCredit; simp

@[simp] theorem doRoleUpdate_lcs (l : Nat) (es : List RoleEntry) (d : Dev) : (doRoleUpdate l es d).lcs = d.lcs := by
  unfold doRoleUpdate; simp

@[simp] theorem doStaleRole_lcs (l : Nat) (stream : BitVec 16) (kind : BitVec 2) (unit : Byte) (dropped cur : BitVec 12) (d : Dev) : (doStaleRole l stream kind unit dropped cur d).lcs = d.lcs := by
  unfold doStaleRole
  rw [Dev.control_lcs]
  intro e
  (try dsimp only)
  repeat' first | split | rw [Dev.checked_lcs] | rfl | intro
  all_goals first | rfl | simp

@[simp] theorem doFlowDenied_lcs (l : Nat) (stream : BitVec 16) (d : Dev) : (doFlowDenied l stream d).lcs = d.lcs := by
  unfold doFlowDenied
  rw [Dev.control_lcs]
  intro e
  (try dsimp only)
  repeat' first | split | rw [Dev.checked_lcs] | rfl | intro
  all_goals first | rfl | simp

@[simp] theorem doTransferTimeout_lcs (q : Nat) (seq : Word) (l : Nat) (d : Dev) : (doTransferTimeout q seq l d).lcs = d.lcs := by
  unfold doTransferTimeout; simp

@[simp] theorem Dev.issue_lcs (d : Dev) (k : Nat) (regs : List Dest) (f : LaunchSt → Ctx → Ctx) : (Dev.issue d k regs f).lcs = d.lcs := by
  unfold Dev.issue; (try dsimp only); repeat' first | rfl | split | rw [foldl_lcs] | rw [foldlp_lcs] | intro
  all_goals first | rfl | simp

@[simp] theorem Dev.undefinedInstr_lcs (d : Dev) (k : Nat) (regs : List Dest) (fault : Dev → Dev) (hfault : ∀ x0, (fault x0).lcs = x0.lcs) : (Dev.undefinedInstr d k regs fault).lcs = d.lcs := by
  unfold Dev.undefinedInstr; repeat' split
  all_goals simp_all

@[simp] theorem Dev.modLaunch_lcs (d : Dev) (id : Nat) (f : LaunchSt → LaunchSt) : (Dev.modLaunch d id f).lcs = d.lcs := by
  unfold Dev.modLaunch; simp

@[simp] theorem Dev.faultLaunch_lcs (d : Dev) (k : Nat) (st : Status) (det : Detail) (info : BitVec 64) : (Dev.faultLaunch d k st det info).lcs = d.lcs := by
  unfold Dev.faultLaunch; (try dsimp only); repeat' first | rfl | split | rw [foldl_lcs] | rw [foldlp_lcs] | intro
  all_goals first | rfl | simp

@[simp] theorem Dev.blameLaunch_lcs (d₀ d : Dev) (k : Nat) (st : Status) (det : Detail) (info : BitVec 64) :
    (Dev.blameLaunch d₀ d k st det info).lcs = d.lcs := by
  unfold Dev.blameLaunch; split <;> simp

@[simp] theorem defined_lcs (k : Nat) (reserved : Bool) (f : Dev → Dev) (d : Dev) (hf : ∀ x0, (f x0).lcs = x0.lcs) : (defined k reserved f d).lcs = d.lcs := by
  unfold defined; (try dsimp only); repeat' split
  all_goals simp_all

@[simp] theorem Dev.memIssue_lcs (d : Dev) (k : Nat) (regs : List Dest) (slot : Nat) (off : BitVec 64) (size align : Nat) (write : Bool) (dest : Dest) (kind : Ctx → AccKind) : (Dev.memIssue d k regs slot off size align write dest kind).lcs = d.lcs := by
  unfold Dev.memIssue; (try dsimp only); repeat' first | rfl | split | rw [foldl_lcs] | rw [foldlp_lcs] | intro
  all_goals first | rfl | simp

@[simp] theorem Dev.releaseBarrier_lcs (d : Dev) (id t : Nat) : (Dev.releaseBarrier d id t).lcs = d.lcs := by
  unfold Dev.releaseBarrier; simp

@[simp] theorem Dev.countSectors_lcs (d : Dev) (o : Obj) (offs : List Nat) : (Dev.countSectors d o offs).lcs = d.lcs := by
  unfold Dev.countSectors; simp

@[simp] theorem Dev.runSetOp_lcs (d : Dev) (t : Nat) (l : LaunchSt) (o : SetOp) : (Dev.runSetOp d t l o).lcs = d.lcs := by
  unfold Dev.runSetOp; dsimp only
  split
  · simp
  · split
    · split
      · simp
      · split
        · rename_i h
          have hk := congrArg (fun x => x.1.lcs) h
          simp at hk
          split <;> simp [hk]
        · rename_i h
          have hk := congrArg (fun x => x.1.lcs) h
          simpa using hk.symm
    · split <;> simp

@[simp] theorem Dev.runVuBlock_lcs (d : Dev) (t : Nat) (l : LaunchSt) (b : VuBlock) (code : List VuInstr) : (Dev.runVuBlock d t l b code).lcs = d.lcs := by
  unfold Dev.runVuBlock; simp

@[simp] theorem Dev.decodeLaunch_lcs (d : Dev) (n q : Nat) (c : Cmd) (ps : LaunchParams) : (Dev.decodeLaunch d n q c ps).lcs = d.lcs := by
  unfold Dev.decodeLaunch; (try dsimp only); repeat' first | rfl | split | rw [foldl_lcs] | rw [foldlp_lcs] | intro
  all_goals first | rfl | simp

@[simp] theorem doLaunch_lcs (q : Nat) (seq : Word) (ps : LaunchParams) (d : Dev) : (doLaunch q seq ps d).lcs = d.lcs := by
  unfold doLaunch; (try dsimp only); repeat' first | rfl | split | rw [foldl_lcs] | rw [foldlp_lcs] | intro
  all_goals first | rfl | simp

@[simp] theorem Dev.startLaunch_lcs (d : Dev) (n q : Nat) (c : Cmd) (ps : LaunchParams) : (Dev.startLaunch d n q c ps).lcs = d.lcs := by
  unfold Dev.startLaunch; simp

@[simp] theorem doLaunchStart_lcs (q : Nat) (seq : Word) (d : Dev) : (doLaunchStart q seq d).lcs = d.lcs := by
  unfold doLaunchStart; (try dsimp only); repeat' first | rfl | split | rw [foldl_lcs] | rw [foldlp_lcs] | intro
  all_goals first | rfl | simp

@[simp] theorem doLaunchComplete_lcs (q : Nat) (seq : Word) (d : Dev) : (doLaunchComplete q seq d).lcs = d.lcs := by
  unfold doLaunchComplete; (try dsimp only); repeat' first | rfl | split | rw [foldl_lcs] | rw [foldlp_lcs] | intro
  all_goals first | rfl | simp

@[simp] theorem doThreadIntOp_lcs (k : Nat) (op : IntOp) (w : IntWidth) (sg : Bool) (rd ra rb rc : Nat) (d : Dev) : (doThreadIntOp k op w sg rd ra rb rc d).lcs = d.lcs := by
  unfold doThreadIntOp; simp

@[simp] theorem doThreadFloatOp_lcs (k : Nat) (op : ThreadFp) (rd ra rb rc : Nat) (d : Dev) : (doThreadFloatOp k op rd ra rb rc d).lcs = d.lcs := by
  unfold doThreadFloatOp; (try dsimp only); repeat' first | rfl | split | rw [foldl_lcs] | rw [foldlp_lcs] | intro
  all_goals first | rfl | simp

@[simp] theorem doThreadVectorOp_lcs (k : Nat) (op : ThreadVec) (vd va vb vc : Nat) (imm : BitVec 64) (d : Dev) : (doThreadVectorOp k op vd va vb vc imm d).lcs = d.lcs := by
  unfold doThreadVectorOp; simp

@[simp] theorem doThreadBranch_lcs (k : Nat) (b : BranchKind) (ra link : Nat) (target : DWord) (d : Dev) : (doThreadBranch k b ra link target d).lcs = d.lcs := by
  unfold doThreadBranch; (try dsimp only); repeat' first | rfl | split | rw [foldl_lcs] | rw [foldlp_lcs] | intro
  all_goals first | rfl | simp

@[simp] theorem doRdsr_lcs (k rd : Nat) (sr : SpecialReg) (clear : Bool) (d : Dev) : (doRdsr k rd sr clear d).lcs = d.lcs := by
  unfold doRdsr; simp

@[simp] theorem doCvtAw_lcs (k rd ra rb : Nat) (d : Dev) : (doCvtAw k rd ra rb d).lcs = d.lcs := by
  unfold doCvtAw; (try dsimp only); repeat' first | rfl | split | rw [foldl_lcs] | rw [foldlp_lcs] | intro
  all_goals first | rfl | simp

@[simp] theorem doExit_lcs (k : Nat) (d : Dev) : (doExit k d).lcs = d.lcs := by
  unfold doExit; (try dsimp only); repeat' first | rfl | split | rw [foldl_lcs] | rw [foldlp_lcs] | intro
  all_goals first | rfl | simp

@[simp] theorem doBarTile_lcs (k : Nat) (d : Dev) : (doBarTile k d).lcs = d.lcs := by
  unfold doBarTile; (try dsimp only); repeat' first | rfl | split | rw [foldl_lcs] | rw [foldlp_lcs] | intro
  all_goals first | rfl | simp

@[simp] theorem doFenceT_lcs (k : Nat) (d : Dev) : (doFenceT k d).lcs = d.lcs := by
  unfold doFenceT; simp

@[simp] theorem doWait_lcs (k ra : Nat) (d : Dev) : (doWait k ra d).lcs = d.lcs := by
  unfold doWait; simp

@[simp] theorem doXadd_lcs (k : Nat) (fmt : FpFmt) (rs slot : Nat) (off : BitVec 64) (d : Dev) : (doXadd k fmt rs slot off d).lcs = d.lcs := by
  unfold doXadd; simp

@[simp] theorem doLdt_lcs (k rd n : Nat) (off : BitVec 64) (d : Dev) : (doLdt k rd n off d).lcs = d.lcs := by
  unfold doLdt; (try dsimp only); repeat' first | rfl | split | rw [foldl_lcs] | rw [foldlp_lcs] | intro
  all_goals first | rfl | simp

@[simp] theorem doStt_lcs (k rs n : Nat) (off : BitVec 64) (d : Dev) : (doStt k rs n off d).lcs = d.lcs := by
  unfold doStt; (try dsimp only); repeat' first | rfl | split | rw [foldl_lcs] | rw [foldlp_lcs] | intro
  all_goals first | rfl | simp

@[simp] theorem doSetop_lcs (k rd : Nat) (desc : BitVec 64) (d : Dev) : (doSetop k rd desc d).lcs = d.lcs := by
  unfold doSetop; (try dsimp only); repeat' first | rfl | split | rw [foldl_lcs] | rw [foldlp_lcs] | intro
  all_goals first | rfl | simp

@[simp] theorem doVrun_lcs (k rd : Nat) (block : BitVec 64) (stream : BitVec 16) (draws : Bool) (d : Dev) : (doVrun k rd block stream draws d).lcs = d.lcs := by
  unfold doVrun; (try dsimp only); repeat' first | rfl | split | rw [foldl_lcs] | rw [foldlp_lcs] | intro
  all_goals first | rfl | simp

@[simp] theorem Dev.staleReply_lcs (d : Dev) : (Dev.staleReply d).lcs = d.lcs := by
  unfold Dev.staleReply; simp

@[simp] theorem doSetEngineOpStart_lcs (t : Nat) (d : Dev) : (doSetEngineOpStart t d).lcs = d.lcs := by
  unfold doSetEngineOpStart; (try dsimp only); repeat' first | rfl | split | rw [foldl_lcs] | rw [foldlp_lcs] | intro
  all_goals first | rfl | simp

@[simp] theorem doSetEngineOpDone_lcs (t : Nat) (d : Dev) : (doSetEngineOpDone t d).lcs = d.lcs := by
  unfold doSetEngineOpDone; (try dsimp only); repeat' first | rfl | split | rw [foldl_lcs] | rw [foldlp_lcs] | intro
  all_goals first | rfl | simp

@[simp] theorem doVectorBlockStart_lcs (t : Nat) (code : List VuInstr) (d : Dev) : (doVectorBlockStart t code d).lcs = d.lcs := by
  unfold doVectorBlockStart; (try dsimp only); repeat' first | rfl | split | rw [foldl_lcs] | rw [foldlp_lcs] | intro
  all_goals first | rfl | simp

@[simp] theorem doVectorBlockDone_lcs (t : Nat) (d : Dev) : (doVectorBlockDone t d).lcs = d.lcs := by
  unfold doVectorBlockDone; (try dsimp only); repeat' first | rfl | split | rw [foldl_lcs] | rw [foldlp_lcs] | intro
  all_goals first | rfl | simp

@[simp] theorem doMemoryResponse_lcs (id : Nat) (d : Dev) : (doMemoryResponse id d).lcs = d.lcs := by
  unfold doMemoryResponse; (try dsimp only); repeat' first | rfl | split | rw [foldl_lcs] | rw [foldlp_lcs] | intro
  all_goals first | rfl | simp

@[simp] theorem Dev.makeRoom_lcs (d : Dev) (f pa : Nat) : (Dev.makeRoom d f pa).lcs = d.lcs := by
  unfold Dev.makeRoom; (try dsimp only); repeat' first | rfl | split | rw [foldl_lcs] | rw [foldlp_lcs] | intro
  all_goals first | rfl | simp

@[simp] theorem Dev.fillLine_lcs (d : Dev) (f r ra pa : Nat) (rg : PlanRegion) : (Dev.fillLine d f r ra pa rg).lcs = d.lcs := by
  unfold Dev.fillLine; simp

@[simp] theorem Dev.respond_lcs (d : Dev) (id : Nat) (st : Status) (det : Detail) (bs : List Byte) : (Dev.respond d id st det bs).lcs = d.lcs := by
  unfold Dev.respond; simp

@[simp] theorem Dev.failReq_lcs (d d₀ : Dev) (r : MemReq) (st : Status) (det : Detail) :
    (Dev.failReq d d₀ r st det).lcs = d.lcs := by
  unfold Dev.failReq; split <;> simp

@[simp] theorem Dev.serveLine_lcs (d : Dev) (r : MemReq) (pa : Nat) : (Dev.serveLine d r pa).lcs = d.lcs := by
  unfold Dev.serveLine; (try dsimp only); repeat' first | rfl | split | rw [foldl_lcs] | rw [foldlp_lcs] | intro
  all_goals first | rfl | simp

@[simp] theorem Dev.serveNarrow_lcs (d : Dev) (r : MemReq) (rg : PlanRegion) : (Dev.serveNarrow d r rg).lcs = d.lcs := by
  unfold Dev.serveNarrow; (try dsimp only); repeat' first | rfl | split | rw [foldl_lcs] | rw [foldlp_lcs] | intro
  all_goals first | rfl | simp

@[simp] theorem Dev.countAccess_lcs (d : Dev) (f pa : Nat) (hit narrow : Bool) : (Dev.countAccess d f pa hit narrow).lcs = d.lcs := by
  unfold Dev.countAccess; simp

@[simp] theorem Dev.serveCheck_lcs (d : Dev) (r : MemReq) : (Dev.serveCheck d r).1.lcs = d.lcs := by
  unfold Dev.serveCheck; (try dsimp only); repeat' first | rfl | split | rw [foldl_lcs] | rw [foldlp_lcs] | intro
  all_goals first | rfl | simp

@[simp] theorem doHomeSliceAccess_lcs (id : Nat) (d : Dev) : (doHomeSliceAccess id d).lcs = d.lcs := by
  unfold doHomeSliceAccess; dsimp only
  split
  · rfl
  · split
    · split
      · simp
      · split
        · simp
        · split
          · simp
          · split
            · rename_i h
              have hk := congrArg (fun x => x.1.lcs) h
              simpa using hk.symm
            · rename_i h
              have hk := congrArg (fun x => x.1.lcs) h
              simp at hk
              repeat' split
              all_goals simp [hk]
    · rfl

@[simp] theorem Dev.corrected_lcs (d : Dev) (s sa n : Nat) : (Dev.corrected d s sa n).lcs = d.lcs := by
  unfold Dev.corrected; simp

@[simp] theorem Dev.quarantineAt_lcs (d : Dev) (f r : Nat) (rg : PlanRegion) (lv : Level) (ra : Nat) (partialW write : Bool) : (Dev.quarantineAt d f r rg lv ra partialW write).lcs = d.lcs := by
  unfold Dev.quarantineAt; simp

@[simp] theorem Dev.subtreeTamper_lcs (d : Dev) (f r : Nat) (rg : PlanRegion) (lv : Level) (ra : Nat) (partialW write : Bool) : (Dev.subtreeTamper d f r rg lv ra partialW write).lcs = d.lcs := by
  unfold Dev.subtreeTamper; simp

@[simp] theorem Dev.resolveLine_lcs (d : Dev) (f r ra pa : Nat) (rg : PlanRegion) (partialW write : Bool) (ecc : Ecc) (macOk : Bool) (lv : Level) : (Dev.resolveLine d f r ra pa rg partialW write ecc macOk lv).1.lcs = d.lcs := by
  unfold Dev.resolveLine; simp

@[simp] theorem Dev.takeFlaw_lcs (d : Dev) (pa : Nat) (c : Bool) (flaw : BitVec 512) :
    (Dev.takeFlaw d pa c flaw).lcs = d.lcs := by
  unfold Dev.takeFlaw
  split
  · rfl
  · split
    · refine foldl_lcs _ (fun d i => ?_) _ _
      dsimp only
      split <;> simp
    · rfl

@[simp] theorem Dev.answerLine_lcs (d₀ d : Dev) (st : Status) (forReq : Option Nat) :
    (Dev.answerLine d₀ d st forReq).lcs = d.lcs := by
  unfold Dev.answerLine; split
  · split <;> simp
  · rfl

@[simp] theorem Dev.lineCame_lcs (d : Dev) (pa : Nat) (cipherOnly : Bool) (x : RsOut) : (Dev.lineCame d pa cipherOnly x).lcs = d.lcs := by
  unfold Dev.lineCame; simp

@[simp] theorem Dev.lineReturns_lcs (d : Dev) (f r ra : Nat) (rg : PlanRegion) (write partialW : Bool) (errors : List SymErr) (lv : Level) : (Dev.lineReturns d f r ra rg write partialW errors lv).1.lcs = d.lcs := by
  unfold Dev.lineReturns; (try dsimp only); repeat' first | rfl | split | rw [foldl_lcs] | rw [foldlp_lcs] | intro
  all_goals first | rfl | simp

@[simp] theorem doHbmLineRead_lcs (s sa : Nat) (write partialW : Bool) (errors : List SymErr) (lv : Level) (forReq : Option Nat) (d : Dev) : (doHbmLineRead s sa write partialW errors lv forReq d).lcs = d.lcs := by
  unfold doHbmLineRead; (try dsimp only); repeat' first | rfl | split | rw [foldl_lcs] | rw [foldlp_lcs] | intro
  all_goals first | rfl | simp

@[simp] theorem doPatrolRead_lcs (s sa : Nat) (errors : List SymErr) (d : Dev) : (doPatrolRead s sa errors d).lcs = d.lcs := by
  unfold doPatrolRead; simp

@[simp] theorem Dev.cliff_lcs (d : Dev) : (Dev.cliff d).lcs = d.lcs := by
  unfold Dev.cliff; simp

@[simp] theorem Dev.trip_lcs (d : Dev) : (Dev.trip d).lcs = d.lcs := by
  unfold Dev.trip; simp

@[simp] theorem doStackTempSample_lcs (s : Nat) (temp : Byte) (d : Dev) : (doStackTempSample s temp d).lcs = d.lcs := by
  unfold doStackTempSample; simp

@[simp] theorem doEpochRenewal_lcs (f r : Nat) (d : Dev) : (doEpochRenewal f r d).lcs = d.lcs := by
  unfold doEpochRenewal; (try dsimp only); repeat' first | rfl | split | rw [foldl_lcs] | rw [foldlp_lcs] | intro
  all_goals first | rfl | simp

@[simp] theorem doMcxEpochRenew_lcs (n r : Nat) (d : Dev) : (doMcxEpochRenew n r d).lcs = d.lcs := by
  unfold doMcxEpochRenew; (try dsimp only); repeat' first | rfl | split | rw [foldl_lcs] | rw [foldlp_lcs] | intro
  all_goals first | rfl | simp

@[simp] theorem Dev.cancelSwapOf_lcs (d : Dev) (slots : List Nat) : (Dev.cancelSwapOf d slots).lcs = d.lcs := by
  unfold Dev.cancelSwapOf; simp

@[simp] theorem Dev.swapPair_lcs (d : Dev) (n : Nat) (slots : List Nat) : (Dev.swapPair d n slots).lcs = d.lcs := by
  unfold Dev.swapPair; (try dsimp only); repeat' first | rfl | split | rw [foldl_lcs] | rw [foldlp_lcs] | intro
  all_goals first | rfl | simp

@[simp] theorem doKeySwap_lcs (s : Nat) (d : Dev) : (doKeySwap s d).lcs = d.lcs := by
  unfold doKeySwap; (try dsimp only); repeat' first | rfl | split | rw [foldl_lcs] | rw [foldlp_lcs] | intro
  all_goals first | rfl | simp

@[simp] theorem Dev.sweepUnit_lcs (d : Dev) (f r : Nat) (rg : PlanRegion) (ra pa : Nat) : (Dev.sweepUnit d f r rg ra pa).lcs = d.lcs := by
  unfold Dev.sweepUnit; simp

@[simp] theorem Dev.sweepTo_lcs (d : Dev) (f r upTo : Nat) : (Dev.sweepTo d f r upTo).lcs = d.lcs := by
  unfold Dev.sweepTo; (try dsimp only); repeat' first | rfl | split | rw [foldl_lcs] | rw [foldlp_lcs] | intro
  all_goals first | rfl | simp

@[simp] theorem Dev.sweepRegion_lcs (d : Dev) (f r : Nat) : (Dev.sweepRegion d f r).lcs = d.lcs := by
  unfold Dev.sweepRegion; (try dsimp only); repeat' first | rfl | split | rw [foldl_lcs] | rw [foldlp_lcs] | intro
  all_goals first | rfl | simp

@[simp] theorem Dev.sweepRegions_lcs (d : Dev) (n a b : Nat) : (Dev.sweepRegions d n a b).lcs = d.lcs := by
  unfold Dev.sweepRegions; simp

@[simp] theorem Dev.sweepReaches_lcs (d : Dev) (n r : Nat) (line : BitVec 35) : (Dev.sweepReaches d n r line).lcs = d.lcs := by
  unfold Dev.sweepReaches; simp

@[simp] theorem Dev.leaveBehind_lcs (d : Dev) (n : Nat) : (Dev.leaveBehind d n).lcs = d.lcs := by
  unfold Dev.leaveBehind; simp

@[simp] theorem doRekeySweepDone_lcs (n : Nat) (reached : Option (Nat × BitVec 35)) (d : Dev) : (doRekeySweepDone n reached d).lcs = d.lcs := by
  unfold doRekeySweepDone; (try dsimp only); repeat' first | rfl | split | rw [foldl_lcs] | rw [foldlp_lcs] | intro
  all_goals first | rfl | simp

@[simp] theorem Dev.rebuild_lcs (d : Dev) (n : Nat) : (Dev.rebuild d n).lcs = d.lcs := by
  unfold Dev.rebuild; dsimp only
  rw [Dev.modFrame_lcs]
  rw [foldl_lcs _ (fun d r => by simp)]
  refine (foldl_lcs _ (fun d q => ?_) _ _).trans rfl
  split <;> simp

@[simp] theorem doIntegrityRepairDone_lcs (n : Nat) (ok : Bool) (d : Dev) : (doIntegrityRepairDone n ok d).lcs = d.lcs := by
  unfold doIntegrityRepairDone; simp

@[simp] theorem doScrubKeyErase_lcs (n : Nat) (d : Dev) : (doScrubKeyErase n d).lcs = d.lcs := by
  unfold doScrubKeyErase; (try dsimp only); repeat' first | rfl | split | rw [foldl_lcs] | rw [foldlp_lcs] | intro
  all_goals first | rfl | simp

@[simp] theorem doScrubOverwriteStart_lcs (n : Nat) (d : Dev) : (doScrubOverwriteStart n d).lcs = d.lcs := by
  unfold doScrubOverwriteStart; simp

@[simp] theorem doScrubDone_lcs (n : Nat) (d : Dev) : (doScrubDone n d).lcs = d.lcs := by
  unfold doScrubDone; (try dsimp only); repeat' first | rfl | split | rw [foldl_lcs] | rw [foldlp_lcs] | intro
  all_goals first | rfl | simp

@[simp] theorem doDblTail_lcs (q : Nat) (v : Word) (d : Dev) : (doDblTail q v d).lcs = d.lcs := by
  unfold doDblTail; simp

@[simp] theorem doCommandFetch_lcs (q : Nat) (entry : BitVec 512) (dmaOk : Bool) (d : Dev) : (doCommandFetch q entry dmaOk d).lcs = d.lcs := by
  unfold doCommandFetch; simp

@[simp] theorem doCommandDecode_lcs (q : Nat) (d : Dev) : (doCommandDecode q d).lcs = d.lcs := by
  unfold doCommandDecode; dsimp only; repeat' split
  all_goals simp

@[simp] theorem doCommandStart_lcs (q : Nat) (seq : Word) (d : Dev) : (doCommandStart q seq d).lcs = d.lcs := by
  unfold doCommandStart; (try dsimp only); repeat' first | rfl | split | rw [foldl_lcs] | rw [foldlp_lcs] | intro
  all_goals first | rfl | simp

@[simp] theorem Dev.postRecord_lcs (d : Dev) (src : Nat) (c : Completion) : (Dev.postRecord d src c).lcs = d.lcs := by
  unfold Dev.postRecord; simp

@[simp] theorem doCompletionPost_lcs (d : Dev) : (doCompletionPost d).lcs = d.lcs := by
  unfold doCompletionPost; (try dsimp only); repeat' first | rfl | split | rw [foldl_lcs] | rw [foldlp_lcs] | intro
  all_goals first | rfl | simp

@[simp] theorem doQcfgCqHead_lcs (q : Nat) (v : Word) (d : Dev) : (doQcfgCqHead q v d).lcs = d.lcs := by
  unfold doQcfgCqHead; simp

@[simp] theorem Dev.resumeQueue_lcs (d : Dev) (q : Nat) : (Dev.resumeQueue d q).lcs = d.lcs := by
  unfold Dev.resumeQueue; simp

@[simp] theorem Dev.enableQueue_lcs (d : Dev) (q : Nat) : (Dev.enableQueue d q).lcs = d.lcs := by
  unfold Dev.enableQueue; dsimp only; repeat' split
  all_goals simp

@[simp] theorem Dev.writeQueueCtrl_lcs (d : Dev) (q : Nat) (v : Word) : (Dev.writeQueueCtrl d q v).lcs = d.lcs := by
  unfold Dev.writeQueueCtrl; simp

@[simp] theorem doQueueEnable_lcs (q : Nat) (ctrl : Word) (d : Dev) : (doQueueEnable q ctrl d).lcs = d.lcs := by
  unfold doQueueEnable; simp

@[simp] theorem doQueueDisable_lcs (q : Nat) (ctrl : Word) (d : Dev) : (doQueueDisable q ctrl d).lcs = d.lcs := by
  unfold doQueueDisable; simp

@[simp] theorem Dev.started_lcs (d : Dev) (q : Nat) (seq : Word) (op : Nat) (f : Cmd → Dev) (hf : ∀ x0, (f x0).lcs = d.lcs) : (Dev.started d q seq op f).lcs = d.lcs := by
  unfold Dev.started; (try dsimp only); repeat' first | rfl | split | rw [foldl_lcs] | rw [foldlp_lcs] | intro
  all_goals (try dsimp only)
  all_goals repeat' split
  all_goals simp_all

@[simp] theorem Dev.runningCmd_lcs (d : Dev) (q : Nat) (seq : Word) (op : Nat) (f : Cmd → Dev) (hf : ∀ x0, (f x0).lcs = d.lcs) : (Dev.runningCmd d q seq op f).lcs = d.lcs := by
  unfold Dev.runningCmd; (try dsimp only); repeat' first | rfl | split | rw [foldl_lcs] | rw [foldlp_lcs] | intro
  all_goals (try dsimp only)
  all_goals repeat' split
  all_goals simp_all

@[simp] theorem Dev.setRunning_lcs (d : Dev) (q : Nat) (seq : Word) : (Dev.setRunning d q seq).lcs = d.lcs := by
  unfold Dev.setRunning; simp

@[simp] theorem doFenceSignal_lcs (q : Nat) (seq : Word) (d : Dev) : (doFenceSignal q seq d).lcs = d.lcs := by
  unfold doFenceSignal; simp

@[simp] theorem doFenceSignalled_lcs (q : Nat) (seq : Word) (d : Dev) : (doFenceSignalled q seq d).lcs = d.lcs := by
  unfold doFenceSignalled; simp

@[simp] theorem doFenceWait_lcs (q : Nat) (seq : Word) (d : Dev) : (doFenceWait q seq d).lcs = d.lcs := by
  unfold doFenceWait; simp

@[simp] theorem doTideWait_lcs (q : Nat) (seq : Word) (d : Dev) : (doTideWait q seq d).lcs = d.lcs := by
  unfold doTideWait; simp

@[simp] theorem doObjRetire_lcs (q : Nat) (seq : Word) (d : Dev) : (doObjRetire q seq d).lcs = d.lcs := by
  unfold doObjRetire; (try dsimp only); repeat' first | rfl | split | rw [foldl_lcs] | rw [foldlp_lcs] | intro
  all_goals first | rfl | simp

@[simp] theorem doObjRetireDone_lcs (i : Nat) (d : Dev) : (doObjRetireDone i d).lcs = d.lcs := by
  unfold doObjRetireDone; simp

@[simp] theorem doObjCreate_lcs (d : Dev) : (doObjCreate d).lcs = d.lcs := by
  unfold doObjCreate; (try dsimp only); repeat' first | rfl | split | rw [foldl_lcs] | rw [foldlp_lcs] | intro
  all_goals first | rfl | simp

@[simp] theorem doObjRequestDone_lcs (d : Dev) : (doObjRequestDone d).lcs = d.lcs := by
  unfold doObjRequestDone; simp

@[simp] theorem doFenceInit_lcs (f : Nat) (owner : BitVec 16) (d : Dev) : (doFenceInit f owner d).lcs = d.lcs := by
  unfold doFenceInit; simp

@[simp] theorem doFenceReset_lcs (f : Nat) (d : Dev) : (doFenceReset f d).lcs = d.lcs := by
  unfold doFenceReset; simp

@[simp] theorem doFenceFree_lcs (f : Nat) (d : Dev) : (doFenceFree f d).lcs = d.lcs := by
  unfold doFenceFree; simp

@[simp] theorem doFncSignal_lcs (f : Nat) (status : BitVec 2) (d : Dev) : (doFncSignal f status d).lcs = d.lcs := by
  unfold doFncSignal; simp

@[simp] theorem Dev.ctxLeaves_lcs (d : Dev) (ctx : BitVec 16) : (Dev.ctxLeaves d ctx).lcs = d.lcs := by
  unfold Dev.ctxLeaves; simp

@[simp] theorem doCtxDestroy_lcs (ctx : BitVec 16) (d : Dev) : (doCtxDestroy ctx d).lcs = d.lcs := by
  unfold doCtxDestroy; simp

@[simp] theorem doCtxDestroyDone_lcs (d : Dev) : (doCtxDestroyDone d).lcs = d.lcs := by
  unfold doCtxDestroyDone; simp

@[simp] theorem Dev.postAll_lcs (n : Nat) (d : Dev) : (Dev.postAll n d).lcs = d.lcs := by
  induction n generalizing d with
  | zero => rfl
  | succ n ih =>
    unfold Dev.postAll
    split
    · rw [ih]; simp
    · rfl

@[simp] theorem Dev.funcReset_lcs (d : Dev) : (Dev.funcReset d).lcs = d.lcs := by
  unfold Dev.funcReset; simp

@[simp] theorem doTdispMessage_lcs (fn : Nat) (target : Tdi) (d : Dev) : (doTdispMessage fn target d).lcs = d.lcs := by
  unfold doTdispMessage; simp

@[simp] theorem doNonIdeTlpDrop_lcs (fn : Nat) (d : Dev) : (doNonIdeTlpDrop fn d).lcs = d.lcs := by
  unfold doNonIdeTlpDrop; simp

@[simp] theorem doEvalWindow_lcs (q : Nat) (seq : Word) (d : Dev) : (doEvalWindow q seq d).lcs = d.lcs := by
  unfold doEvalWindow; (try dsimp only)
  split
  · rfl
  · rw [Dev.started_lcs]
    intro c
    (try dsimp only)
    split
    · simp
    · split
      · simp
      · split
        · rename_i h
          have hk := congrArg (fun x => x.1.lcs) h
          simpa using hk.symm
        · rename_i h
          have hk := congrArg (fun x => x.1.lcs) h
          simp at hk
          split <;> simp [hk]

@[simp] theorem doEngineWatchdog_lcs (e : Nat) (d : Dev) : (doEngineWatchdog e d).lcs = d.lcs := by
  unfold doEngineWatchdog; (try dsimp only); repeat' first | rfl | split | rw [foldl_lcs] | rw [foldlp_lcs] | intro
  all_goals first | rfl | simp

@[simp] theorem doActivityOverrun_lcs (a : BitVec 16) (inst : Word) (d : Dev) : (doActivityOverrun a inst d).lcs = d.lcs := by
  unfold doActivityOverrun; (try dsimp only); repeat' first | rfl | split | rw [foldl_lcs] | rw [foldlp_lcs] | intro
  all_goals first | rfl | simp

@[simp] theorem Dev.rstAnswer_lcs (d : Dev) (r : BitVec 2) : (Dev.rstAnswer d r).lcs = d.lcs := by
  unfold Dev.rstAnswer; simp

@[simp] theorem Dev.rstRuns_lcs (d : Dev) (k : Nat) : (Dev.rstRuns d k).lcs = d.lcs := by
  unfold Dev.rstRuns; simp

@[simp] theorem doRstEngine_lcs (e : Nat) (d : Dev) : (doRstEngine e d).lcs = d.lcs := by
  unfold doRstEngine; (try dsimp only); repeat' first | rfl | split | rw [foldl_lcs] | rw [foldlp_lcs] | intro
  all_goals first | rfl | simp

@[simp] theorem doRstClearing_lcs (n : Nat) (d : Dev) : (doRstClearing n d).lcs = d.lcs := by
  unfold doRstClearing; simp

@[simp] theorem Dev.engineIdle_lcs (d : Dev) (e : Nat) : (Dev.engineIdle d e).lcs = d.lcs := by
  unfold Dev.engineIdle; simp

@[simp] theorem Dev.rstEnds_lcs (d : Dev) (n : Nat) : (Dev.rstEnds d n).lcs = d.lcs := by
  unfold Dev.rstEnds; simp

@[simp] theorem doEngineResetDone_lcs (e : Nat) (d : Dev) : (doEngineResetDone e d).lcs = d.lcs := by
  unfold doEngineResetDone; simp

@[simp] theorem doEngineResetTimeout_lcs (e : Nat) (d : Dev) : (doEngineResetTimeout e d).lcs = d.lcs := by
  unfold doEngineResetTimeout; (try dsimp only); repeat' first | rfl | split | rw [foldl_lcs] | rw [foldlp_lcs] | intro
  all_goals first | rfl | simp

@[simp] theorem doClearingResetDone_lcs (n : Nat) (d : Dev) : (doClearingResetDone n d).lcs = d.lcs := by
  unfold doClearingResetDone; simp

@[simp] theorem doClearingResetTimeout_lcs (n : Nat) (d : Dev) : (doClearingResetTimeout n d).lcs = d.lcs := by
  unfold doClearingResetTimeout; simp

@[simp] theorem doFencingDone_lcs (n : Nat) (d : Dev) : (doFencingDone n d).lcs = d.lcs := by
  unfold doFencingDone; simp

@[simp] theorem doNeighbourFailed_lcs (l : Nat) (d : Dev) : (doNeighbourFailed l d).lcs = d.lcs := by
  unfold doNeighbourFailed; simp

@[simp] theorem Dev.repairChunk_lcs (d : Dev) (f r ra : Nat) (rg : PlanRegion) (data : List Byte) : (Dev.repairChunk d f r ra rg data).lcs = d.lcs := by
  unfold Dev.repairChunk; (try dsimp only); repeat' first | rfl | split | rw [foldl_lcs] | rw [foldlp_lcs] | intro
  all_goals first | rfl | simp

@[simp] theorem Dev.dropRepairs_lcs (d : Dev) (lines : List Nat) : (Dev.dropRepairs d lines).lcs = d.lcs := by
  unfold Dev.dropRepairs; simp

@[simp] theorem Dev.repairFails_lcs (d : Dev) (f : Nat) (rs : List Repair) : (d.repairFails f rs).lcs = d.lcs := by
  unfold Dev.repairFails; dsimp only
  rw [Dev.raise_lcs, Dev.logEvent_lcs]
  split
  · rw [Dev.haltClr_lcs]
    refine foldl_lcs _ (fun d w => ?_) _ _
    repeat' split
    all_goals simp
  · refine foldl_lcs _ (fun d w => ?_) _ _
    repeat' split
    all_goals simp

@[simp] theorem doCommonsRepairDone_lcs (s sa : Nat) (ok : Bool) (copy : ChunkCopy) (d : Dev) : (doCommonsRepairDone s sa ok copy d).lcs = d.lcs := by
  unfold doCommonsRepairDone; (try dsimp only); repeat' first | rfl | split | rw [foldl_lcs] | rw [foldlp_lcs] | intro
  all_goals first | rfl | simp

@[simp] theorem doPwrOkRise_lcs (boot tide : Bool) (d : Dev) : (doPwrOkRise boot tide d).lcs = d.lcs := by
  unfold doPwrOkRise; simp

@[simp] theorem doPerstNAssert_lcs (d : Dev) : (doPerstNAssert d).lcs = d.lcs := by
  unfold doPerstNAssert; simp

@[simp] theorem doPerstNRelease_lcs (d : Dev) : (doPerstNRelease d).lcs = d.lcs := by
  unfold doPerstNRelease; simp

@[simp] theorem Dev.captureDump_lcs (d : Dev) (dump : List Byte) (cause : BitVec 7) : (Dev.captureDump d dump cause).lcs = d.lcs := by
  unfold Dev.captureDump; simp

@[simp] theorem Dev.modeBegins_lcs (d : Dev) : (Dev.modeBegins d).lcs = d.lcs := by
  unfold Dev.modeBegins; simp

@[simp] theorem doModeRequest_lcs (m : BitVec 2) (d : Dev) : (doModeRequest m d).lcs = d.lcs := by
  unfold doModeRequest; simp

@[simp] theorem doModeCancel_lcs (d : Dev) : (doModeCancel d).lcs = d.lcs := by
  unfold doModeCancel; simp

@[simp] theorem doModeChange_lcs (d : Dev) : (doModeChange d).lcs = d.lcs := by
  unfold doModeChange; simp

@[simp] theorem doModeRampDone_lcs (d : Dev) : (doModeRampDone d).lcs = d.lcs := by
  unfold doModeRampDone; simp

@[simp] theorem doPowerSample_lcs (w : BitVec 16) (parts : List (BitVec 16)) (mainMv auxMv : BitVec 16) (energyJ : BitVec 64) (d : Dev) : (doPowerSample w parts mainMv auxMv energyJ d).lcs = d.lcs := by
  unfold doPowerSample; simp

@[simp] theorem doExtFault_lcs (r : Nat) (d : Dev) : (doExtFault r d).lcs = d.lcs := by
  unfold doExtFault; simp

@[simp] theorem doVinMainApply_lcs (d : Dev) : (doVinMainApply d).lcs = d.lcs := by
  unfold doVinMainApply; simp

@[simp] theorem doOvercurrent_lcs (d : Dev) : (doOvercurrent d).lcs = d.lcs := by
  unfold doOvercurrent; simp

@[simp] theorem doStage2Fault_lcs (d : Dev) : (doStage2Fault d).lcs = d.lcs := by
  unfold doStage2Fault; simp

@[simp] theorem Dev.modDie_lcs (d : Dev) (k : Nat) (f : DieSt → DieSt) : (Dev.modDie d k f).lcs = d.lcs := by
  unfold Dev.modDie; simp

@[simp] theorem doDieTempSample_lcs (x : Die) (temp : Byte) (d : Dev) : (doDieTempSample x temp d).lcs = d.lcs := by
  unfold doDieTempSample; simp

@[simp] theorem Dev.modSpdm_lcs (d : Dev) (f : Spdm → Spdm) : (Dev.modSpdm d f).lcs = d.lcs := by
  unfold Dev.modSpdm; simp

theorem Dev.spdmDo_lcs (d : Dev) (r : SpdmReq) (x : Dev × SpdmResp) (h : d.spdmDo r = some x) :
    x.1.lcs = d.lcs := by
  cases r <;>
    simp only [Dev.spdmDo, Dev.spdmVersion, Dev.spdmCapabilities, Dev.spdmAlgorithms, Dev.spdmDigests,
      Dev.spdmCertificate, Dev.spdmChallenge, Dev.spdmMeasurements, Dev.spdmKeyExchange, Dev.spdmFinish,
      Dev.spdmHeartbeat, Dev.spdmKeyUpdate, Dev.spdmEndSession] at h <;>
    (repeat' split at h) <;> first | (cases h; done) | (injection h with h; subst h; simp)

@[simp] theorem Dev.spdmServe_lcs (d : Dev) (r : SpdmReq) : (Dev.spdmServe d r).lcs = d.lcs := by
  unfold Dev.spdmServe
  split
  · simp
  · split
    · rename_i h; simp [Dev.spdmDo_lcs _ _ _ h]
    · simp

@[simp] theorem Dev.spdmCome_lcs (d : Dev) (r : SpdmReq) : (Dev.spdmCome d r).lcs = d.lcs := by
  unfold Dev.spdmCome; simp

@[simp] theorem Dev.spdmWaiting_lcs (d : Dev) : (Dev.spdmWaiting d).lcs = d.lcs := by
  unfold Dev.spdmWaiting; simp

@[simp] theorem doGetVersion_lcs (d : Dev) : (doGetVersion d).lcs = d.lcs := by
  unfold doGetVersion; simp

@[simp] theorem doGetCapabilities_lcs (d : Dev) : (doGetCapabilities d).lcs = d.lcs := by
  unfold doGetCapabilities; simp

@[simp] theorem doNegotiateAlgorithms_lcs (sm2 sm3 sm4 : Bool) (d : Dev) : (doNegotiateAlgorithms sm2 sm3 sm4 d).lcs = d.lcs := by
  unfold doNegotiateAlgorithms; simp

@[simp] theorem doGetDigests_lcs (d : Dev) : (doGetDigests d).lcs = d.lcs := by
  unfold doGetDigests; simp

@[simp] theorem doGetCertificate_lcs (slot : BitVec 4) (d : Dev) : (doGetCertificate slot d).lcs = d.lcs := by
  unfold doGetCertificate; simp

@[simp] theorem doSpdmChallenge_lcs (nonce : B256) (d : Dev) : (doSpdmChallenge nonce d).lcs = d.lcs := by
  unfold doSpdmChallenge; simp

@[simp] theorem doGetMeasurements_lcs (index : Byte) (nonce : B256) (signed : Bool) (d : Dev) : (doGetMeasurements index nonce signed d).lcs = d.lcs := by
  unfold doGetMeasurements; simp

@[simp] theorem doKeyExchange_lcs (ok : Bool) (data : List Byte) (d : Dev) : (doKeyExchange ok data d).lcs = d.lcs := by
  unfold doKeyExchange; simp

@[simp] theorem doFinish_lcs (mac : List Byte) (d : Dev) : (doFinish mac d).lcs = d.lcs := by
  unfold doFinish; simp

@[simp] theorem doHeartbeat_lcs (d : Dev) : (doHeartbeat d).lcs = d.lcs := by
  unfold doHeartbeat; simp

@[simp] theorem doKeyUpdate_lcs (d : Dev) : (doKeyUpdate d).lcs = d.lcs := by
  unfold doKeyUpdate; simp

@[simp] theorem doEndSession_lcs (d : Dev) : (doEndSession d).lcs = d.lcs := by
  unfold doEndSession; simp

@[simp] theorem Dev.refuse_lcs (d : Dev) (r : SecRes) : (Dev.refuse d r).1.lcs = d.lcs := by
  unfold Dev.refuse; simp

@[simp] theorem Dev.serve_lcs (d : Dev) (code : BitVec 16) (f : Dev → Served) (hf : ∀ x0, (f x0).1.lcs = x0.lcs) : (Dev.serve d code f).lcs = d.lcs := by
  unfold Dev.serve; (try dsimp only); repeat' first | rfl | split | rw [foldl_lcs] | rw [foldlp_lcs] | intro
  all_goals (try dsimp only)
  all_goals repeat' split
  all_goals simp_all

@[simp] theorem Dev.serveSet_lcs (d : Dev) (code : BitVec 16) (f : Dev → Served) (hf : ∀ x0, (f x0).1.lcs = x0.lcs) : (Dev.serveSet d code f).lcs = d.lcs := by
  unfold Dev.serveSet; (try dsimp only); repeat' first | rfl | split | rw [foldl_lcs] | rw [foldlp_lcs] | intro
  all_goals (try dsimp only)
  all_goals repeat' split
  all_goals simp_all

@[simp] theorem Dev.checked_lcs (d : Dev) (cs : List (Bool × SecRes)) (f : Dev → Served) (hf : ∀ x0, (f x0).1.lcs = x0.lcs) : (Dev.checked d cs f).1.lcs = d.lcs := by
  unfold Dev.checked; (try dsimp only); repeat' first | rfl | split | rw [foldl_lcs] | rw [foldlp_lcs] | intro
  all_goals (try dsimp only)
  all_goals repeat' split
  all_goals simp_all

@[simp] theorem doGetQuote_lcs (nonce : B256) (d : Dev) : (doGetQuote nonce d).lcs = d.lcs := by
  unfold doGetQuote; simp

@[simp] theorem doGetCerts_lcs (d : Dev) : (doGetCerts d).lcs = d.lcs := by
  unfold doGetCerts; simp

@[simp] theorem Dev.putSystem_lcs (d : Dev) (i : Nat) (attr : BitVec 2) (key : B256) : (Dev.putSystem d i attr key).lcs = d.lcs := by
  unfold Dev.putSystem; simp

@[simp] theorem Dev.deriveSlots_lcs (d : Dev) (set : B256) : (Dev.deriveSlots d set).lcs = d.lcs := by
  unfold Dev.deriveSlots; (try dsimp only); repeat' split
  all_goals simp_all

@[simp] theorem Dev.installSetKey_lcs (d : Dev) (key : B256) (m : SetMember) : (Dev.installSetKey d key m).lcs = d.lcs := by
  unfold Dev.installSetKey; simp

@[simp] theorem doSetFound_lcs (root : B256) (p : SetPolicy) (addr : BitVec 20) (d : Dev) : (doSetFound root p addr d).lcs = d.lcs := by
  unfold doSetFound; simp

@[simp] theorem doSetAdmit_lcs (c : Candidate) (addr : BitVec 20) (d : Dev) : (doSetAdmit c addr d).lcs = d.lcs := by
  unfold doSetAdmit
  rw [Dev.serveSet_lcs]
  intro e
  (try dsimp only)
  repeat' first | split | rw [Dev.checked_lcs] | rfl | intro
  all_goals first | rfl | simp

@[simp] theorem doSetJoin_lcs (b : AdmissionBlob) (d : Dev) : (doSetJoin b d).lcs = d.lcs := by
  unfold doSetJoin
  rw [Dev.serveSet_lcs]
  intro e
  (try dsimp only)
  repeat' first | split | rw [Dev.checked_lcs] | rfl | intro
  all_goals first | rfl | simp

@[simp] theorem doSetRotate_lcs (o : RotationOrder) (d : Dev) : (doSetRotate o d).lcs = d.lcs := by
  unfold doSetRotate
  rw [Dev.serveSet_lcs]
  intro e
  (try dsimp only)
  repeat' first | split | rw [Dev.checked_lcs] | rfl | intro
  all_goals first | rfl | simp

@[simp] theorem doSetRetire_lcs (d : Dev) : (doSetRetire d).lcs = d.lcs := by
  unfold doSetRetire; simp

@[simp] theorem Dev.loadEntry_lcs (d : Dev) (source : BitVec 2) (held : Bool) (e : KeyEntry) : (Dev.loadEntry d source held e).lcs = d.lcs := by
  unfold Dev.loadEntry; simp

@[simp] theorem Dev.keysCame_lcs (d : Dev) : (Dev.keysCame d).lcs = d.lcs := by
  unfold Dev.keysCame; simp

@[simp] theorem Dev.loadEntries_lcs (d : Dev) (source : BitVec 2) (policy : Byte) (bundle : BitVec 16) (es : List KeyEntry) : (Dev.loadEntries d source policy bundle es).1.lcs = d.lcs := by
  unfold Dev.loadEntries; simp

@[simp] theorem doLoadBundle_lcs (bytes : List Byte) (d : Dev) : (doLoadBundle bytes d).lcs = d.lcs := by
  unfold doLoadBundle
  rw [Dev.serve_lcs]
  intro e
  (try dsimp only)
  repeat' first | split | rw [Dev.checked_lcs] | rfl | intro
  all_goals first | rfl | simp

@[simp] theorem doLoadReleased_lcs (r : Release) (d : Dev) : (doLoadReleased r d).lcs = d.lcs := by
  unfold doLoadReleased; simp

@[simp] theorem doMakeBundle_lcs (id : BitVec 16) (rs : List SlotRef) (d : Dev) : (doMakeBundle id rs d).lcs = d.lcs := by
  unfold doMakeBundle
  rw [Dev.serve_lcs]
  intro e
  (try dsimp only)
  repeat' first | split | rw [Dev.checked_lcs] | rfl | intro
  all_goals first | rfl | simp

@[simp] theorem doSwap_lcs (rs : List SlotRef) (pos : BitVec 64) (d : Dev) : (doSwap rs pos d).lcs = d.lcs := by
  unfold doSwap
  rw [Dev.serve_lcs]
  intro e
  (try dsimp only)
  repeat' first | split | rw [Dev.checked_lcs] | rfl | intro
  all_goals first | rfl | simp

@[simp] theorem doCancelSwap_lcs (rs : List SlotRef) (d : Dev) : (doCancelSwap rs d).lcs = d.lcs := by
  unfold doCancelSwap
  rw [Dev.serve_lcs]
  intro e
  (try dsimp only)
  repeat' first | split | rw [Dev.checked_lcs] | rfl | intro
  all_goals first | rfl | simp

@[simp] theorem doDestroy_lcs (rs : List SlotRef) (d : Dev) : (doDestroy rs d).lcs = d.lcs := by
  unfold doDestroy
  rw [Dev.serve_lcs]
  intro e
  (try dsimp only)
  repeat' first | split | rw [Dev.checked_lcs] | rfl | intro
  all_goals first | rfl | simp

@[simp] theorem doFwStage_lcs (img : FwImage) (d : Dev) : (doFwStage img d).lcs = d.lcs := by
  unfold doFwStage; simp

@[simp] theorem doFwActivate_lcs (d : Dev) : (doFwActivate d).lcs = d.lcs := by
  unfold doFwActivate; simp

@[simp] theorem Dev.commitBegin_lcs (d : Dev) : (Dev.commitBegin d).lcs = d.lcs := by
  unfold Dev.commitBegin; simp

@[simp] theorem Dev.commitEnd_lcs (d : Dev) : (Dev.commitEnd d).lcs = d.lcs := by
  unfold Dev.commitEnd; simp

@[simp] theorem doFwCommit_lcs (d : Dev) : (doFwCommit d).lcs = d.lcs := by
  unfold doFwCommit; simp

@[simp] theorem Dev.emitMark_lcs (d : Dev) (r : MarkRec) (needs : List Need) : (Dev.emitMark d r needs).lcs = d.lcs := by
  unfold Dev.emitMark; simp

@[simp] theorem doRootMarkTimer_lcs (needs : List Need) (d : Dev) : (doRootMarkTimer needs d).lcs = d.lcs := by
  unfold doRootMarkTimer; simp

@[simp] theorem Dev.setHoldover_lcs (d : Dev) (b : Bool) : (Dev.setHoldover d b).lcs = d.lcs := by
  unfold Dev.setHoldover; simp

@[simp] theorem doTideInFrameMissing_lcs (needs : List Need) (d : Dev) : (doTideInFrameMissing needs d).lcs = d.lcs := by
  unfold doTideInFrameMissing; simp

@[simp] theorem doTideInFrame_lcs (f : TideFrame) (onTime : Bool) (needs : List Need) (d : Dev) : (doTideInFrame f onTime needs d).lcs = d.lcs := by
  unfold doTideInFrame; simp

@[simp] theorem Dev.takeParent_lcs (d : Dev) (l : Nat) : (Dev.takeParent d l).lcs = d.lcs := by
  unfold Dev.takeParent; simp

@[simp] theorem Dev.acceptMark_lcs (d : Dev) (l : Nat) (r : MarkRec) (needs : List Need) : (Dev.acceptMark d l r needs).lcs = d.lcs := by
  unfold Dev.acceptMark; simp

@[simp] theorem Dev.rxTide_lcs (d : Dev) (l : Nat) (more : Bool) : (Dev.rxTide d l more).lcs = d.lcs := by
  unfold Dev.rxTide; split <;> simp

@[simp] theorem doMarkRecord_lcs (l : Lnk) (r : MarkRec) (tagOk : Bool) (needs : List Need) (more : Bool) (d : Dev) : (doMarkRecord l r tagOk needs more d).lcs = d.lcs := by
  unfold doMarkRecord; simp

@[simp] theorem Dev.lateReturn_lcs (d : Dev) : (Dev.lateReturn d).lcs = d.lcs := by
  unfold Dev.lateReturn; simp

@[simp] theorem doReturnRecord_lcs (l : Lnk) (r : RetRec) (tagOk : Bool) (rttNs : BitVec 20) (more : Bool) (d : Dev) : (doReturnRecord l r tagOk rttNs more d).lcs = d.lcs := by
  unfold doReturnRecord; (try dsimp only); repeat' first | rfl | split | rw [foldl_lcs] | rw [foldlp_lcs] | intro
  all_goals first | rfl | simp

@[simp] theorem doMergeCutoff_lcs (d : Dev) : (doMergeCutoff d).lcs = d.lcs := by
  unfold doMergeCutoff; (try dsimp only); repeat' first | rfl | split | rw [foldl_lcs] | rw [foldlp_lcs] | intro
  all_goals first | rfl | simp

@[simp] theorem Dev.loseTide_lcs (d : Dev) : (Dev.loseTide d).lcs = d.lcs := by
  unfold Dev.loseTide; simp

@[simp] theorem doMarkMissing_lcs (fourPeriods : Bool) (d : Dev) : (doMarkMissing fourPeriods d).lcs = d.lcs := by
  unfold doMarkMissing; simp

@[simp] theorem doTideSetbackReq_lcs (marks : BitVec 8) (d : Dev) : (doTideSetbackReq marks d).lcs = d.lcs := by
  unfold doTideSetbackReq; simp

@[simp] theorem Dev.writeEvent_lcs (d : Dev) (b : Blk) (data hw : Word) : (Dev.writeEvent d b data hw).lcs = d.lcs := by
  unfold Dev.writeEvent; simp

@[simp] theorem Dev.writeEventEn_lcs (d : Dev) (b : Blk) (data : Word) : (Dev.writeEventEn d b data).lcs = d.lcs := by
  unfold Dev.writeEventEn; simp

@[simp] theorem Dev.rcTide_lcs (d : Dev) (o : Nat) (hw : Word) : (Dev.rcTide d o hw).lcs = d.lcs := by
  unfold Dev.rcTide; (try dsimp only); repeat' first | rfl | split | rw [foldl_lcs] | rw [foldlp_lcs] | intro
  all_goals first | rfl | simp

@[simp] theorem Dev.rcNum_lcs (d : Dev) (n o : Nat) (hw : Word) : (Dev.rcNum d n o hw).lcs = d.lcs := by
  unfold Dev.rcNum; (try dsimp only); repeat' first | rfl | split | rw [foldl_lcs] | rw [foldlp_lcs] | intro
  all_goals first | rfl | simp

@[simp] theorem Dev.rcStack_lcs (d : Dev) (s o : Nat) (hw : Word) : (Dev.rcStack d s o hw).lcs = d.lcs := by
  unfold Dev.rcStack; (try dsimp only); repeat' first | rfl | split | rw [foldl_lcs] | rw [foldlp_lcs] | intro
  all_goals first | rfl | simp

@[simp] theorem Dev.rcMemClr_lcs (d : Dev) (n o : Nat) (hw : Word) : (Dev.rcMemClr d n o hw).lcs = d.lcs := by
  unfold Dev.rcMemClr; (try dsimp only); repeat' first | rfl | split | rw [foldl_lcs] | rw [foldlp_lcs] | intro
  all_goals first | rfl | simp

@[simp] theorem Dev.rcFrame_lcs (d : Dev) (f o : Nat) (hw : Word) : (Dev.rcFrame d f o hw).lcs = d.lcs := by
  unfold Dev.rcFrame; (try dsimp only); repeat' first | rfl | split | rw [foldl_lcs] | rw [foldlp_lcs] | intro
  all_goals first | rfl | simp

@[simp] theorem Dev.rcLink_lcs (d : Dev) (l o : Nat) (hw : Word) : (Dev.rcLink d l o hw).lcs = d.lcs := by
  unfold Dev.rcLink; (try dsimp only); repeat' first | rfl | split | rw [foldl_lcs] | rw [foldlp_lcs] | intro
  all_goals first | rfl | simp

@[simp] theorem Dev.rcThm_lcs (d : Dev) (o : Nat) (hw : Word) : (Dev.rcThm d o hw).lcs = d.lcs := by
  unfold Dev.rcThm; simp

@[simp] theorem Dev.clearRc_lcs (d : Dev) (off : Nat) (hw : Word) : (Dev.clearRc d off hw).lcs = d.lcs := by
  unfold Dev.clearRc; simp

@[simp] theorem Dev.latchHi_lcs (d : Dev) (off : Nat) : (Dev.latchHi d off).lcs = d.lcs := by
  unfold Dev.latchHi; simp

@[simp] theorem Dev.hostRead_lcs (d : Dev) (off : Nat) (hw : Word) : (Dev.hostRead d off hw).2.lcs = d.lcs := by
  unfold Dev.hostRead; (try dsimp only); repeat' first | rfl | split | rw [foldl_lcs] | rw [foldlp_lcs] | intro
  all_goals first | rfl | simp

@[simp] theorem Dev.answer_lcs (d : Dev) (v : Word) : (Dev.answer d v).lcs = d.lcs := by
  unfold Dev.answer; simp

@[simp] theorem doRegisterRead_lcs (off : Nat) (hw : Word) (d : Dev) : (doRegisterRead off hw d).lcs = d.lcs := by
  unfold doRegisterRead; simp

@[simp] theorem doRead64_lcs (off : Nat) (hw hw' : Word) (d : Dev) : (doRead64 off hw hw' d).lcs = d.lcs := by
  unfold doRead64; simp

@[simp] theorem doLoRegisterReadLatch_lcs (r : LoReg) (d : Dev) : (doLoRegisterReadLatch r d).lcs = d.lcs := by
  unfold doLoRegisterReadLatch; simp

@[simp] theorem doBar0MisalignedAccess_lcs (write : Bool) (d : Dev) : (doBar0MisalignedAccess write d).lcs = d.lcs := by
  unfold doBar0MisalignedAccess; simp

@[simp] theorem doBar0ReservedAccess_lcs (write : Bool) (d : Dev) : (doBar0ReservedAccess write d).lcs = d.lcs := by
  unfold doBar0ReservedAccess; simp

@[simp] theorem Dev.writeTide_lcs (d : Dev) (o : Nat) (v : Word) : (Dev.writeTide d o v).lcs = d.lcs := by
  unfold Dev.writeTide; simp

@[simp] theorem Dev.writePlan_lcs (d : Dev) (o : Nat) (v : Word) : (Dev.writePlan d o v).lcs = d.lcs := by
  unfold Dev.writePlan; (try dsimp only); repeat' first | rfl | split | rw [foldl_lcs] | rw [foldlp_lcs] | intro
  all_goals first | rfl | simp

@[simp] theorem Dev.writeQueue_lcs (d : Dev) (q o : Nat) (v : Word) : (Dev.writeQueue d q o v).lcs = d.lcs := by
  unfold Dev.writeQueue; (try dsimp only); repeat' first | rfl | split | rw [foldl_lcs] | rw [foldlp_lcs] | intro
  all_goals first | rfl | simp

@[simp] theorem Dev.writeDbl_lcs (d : Dev) (o : Nat) (v : Word) : (Dev.writeDbl d o v).lcs = d.lcs := by
  unfold Dev.writeDbl; simp

@[simp] theorem Dev.writeFnc_lcs (d : Dev) (f o : Nat) (v : Word) : (Dev.writeFnc d f o v).lcs = d.lcs := by
  unfold Dev.writeFnc; (try dsimp only); repeat' first | rfl | split | rw [foldl_lcs] | rw [foldlp_lcs] | intro
  all_goals first | rfl | simp

@[simp] theorem Dev.writeObjReg_lcs (d : Dev) (o : Nat) (v : Word) : (Dev.writeObjReg d o v).lcs = d.lcs := by
  unfold Dev.writeObjReg; (try dsimp only); repeat' first | rfl | split | rw [foldl_lcs] | rw [foldlp_lcs] | intro
  all_goals first | rfl | simp

@[simp] theorem Dev.writeMem_lcs (d : Dev) (o : Nat) (v hw : Word) : (Dev.writeMem d o v hw).lcs = d.lcs := by
  unfold Dev.writeMem; simp

@[simp] theorem Dev.writeMcx_lcs (d : Dev) (o : Nat) (v hw : Word) (line : BitVec 35) : (Dev.writeMcx d o v hw line).lcs = d.lcs := by
  unfold Dev.writeMcx; simp

@[simp] theorem doDoorbell_lcs (d : Dev) : (doDoorbell d).lcs = d.lcs := by
  unfold doDoorbell; simp

@[simp] theorem Dev.writeSec_lcs (d : Dev) (o : Nat) (v : Word) : (Dev.writeSec d o v).lcs = d.lcs := by
  unfold Dev.writeSec; simp

@[simp] theorem Dev.writeLnk_lcs (d : Dev) (o : Nat) (v : Word) : (Dev.writeLnk d o v).lcs = d.lcs := by
  unfold Dev.writeLnk; simp

@[simp] theorem Dev.writeStl_lcs (d : Dev) (o : Nat) (v : Word) : (Dev.writeStl d o v).lcs = d.lcs := by
  unfold Dev.writeStl; (try dsimp only); repeat' first | rfl | split | rw [foldl_lcs] | rw [foldlp_lcs] | intro
  all_goals first | rfl | simp

@[simp] theorem Dev.writeFlt_lcs (d : Dev) (o : Nat) (v hw : Word) : (Dev.writeFlt d o v hw).lcs = d.lcs := by
  unfold Dev.writeFlt; simp

@[simp] theorem Dev.writePwr_lcs (d : Dev) (o : Nat) (v : Word) : (Dev.writePwr d o v).lcs = d.lcs := by
  unfold Dev.writePwr; (try dsimp only); repeat' first | rfl | split | rw [foldl_lcs] | rw [foldlp_lcs] | intro
  all_goals first | rfl | simp

@[simp] theorem Dev.writeThm_lcs (d : Dev) (o : Nat) (v : Word) : (Dev.writeThm d o v).lcs = d.lcs := by
  unfold Dev.writeThm; simp

@[simp] theorem Dev.writeNum_lcs (d : Dev) (n o : Nat) (v hw : Word) : (Dev.writeNum d n o v hw).lcs = d.lcs := by
  unfold Dev.writeNum; simp

@[simp] theorem doI3cPrivateWrite_lcs (bs : List Byte) (d : Dev) : (doI3cPrivateWrite bs d).lcs = d.lcs := by
  unfold doI3cPrivateWrite; simp

@[simp] theorem Dev.i3cWords_lcs (n off : Nat) (d : Dev) : (Dev.i3cWords off n d).2.lcs = d.lcs := by
  induction n generalizing off d with
  | zero => rfl
  | succ n ih =>
    unfold Dev.i3cWords; dsimp only
    rw [ih]
    split <;> simp

@[simp] theorem doI3cPrivateRead_lcs (words : Nat) (d : Dev) : (doI3cPrivateRead words d).lcs = d.lcs := by
  unfold doI3cPrivateRead; simp

@[simp] theorem Dev.assignAddr_lcs (a : BitVec 7) (d : Dev) : (Dev.assignAddr a d).lcs = d.lcs := by
  unfold Dev.assignAddr; simp

end Sys2Proof.Machine
end

