-- ==== Sys2Proof/Laws/Tab.lean ====
section
/-! SUPPORT. The laws of sparse tables: what a write leaves, and that it keeps the canonical form. -/

namespace Sys2Proof

@[simp] theorem Tab.get_nil {α : Type} (d : α) (k : Nat) : Tab.get d [] k = d := rfl

/-- A write at one key leaves every other key alone. -/
theorem Tab.get_set_ne {α : Type} [DecidableEq α] (d : α) (t : Tab α) {k j : Nat} (v : α) (h : j ≠ k) :
    Tab.get d (Tab.set d t k v) j = Tab.get d t j := by
  induction t with
  | nil => unfold Tab.set; split <;> simp [Tab.get, Ne.symm h]
  | cons p t ih =>
    unfold Tab.set
    by_cases h1 : k < p.1
    · by_cases hv : v = d <;> simp [h1, hv, Tab.get, Ne.symm h]
    · by_cases h2 : k = p.1
      · have h3 : p.1 ≠ j := h2 ▸ Ne.symm h
        by_cases hv : v = d <;> simp [h2, hv, Tab.get, h3]
      · simp only [h1, h2, if_false, Tab.get, ih]

/-- A write of a value other than the default is read back. -/
theorem Tab.get_set_self {α : Type} [DecidableEq α] (d : α) (t : Tab α) (k : Nat) {v : α} (hv : v ≠ d) :
    Tab.get d (Tab.set d t k v) k = v := by
  induction t with
  | nil => simp [Tab.set, hv, Tab.get]
  | cons p t ih =>
    unfold Tab.set
    by_cases h1 : k < p.1
    · simp [h1, hv, Tab.get]
    · by_cases h2 : k = p.1
      · simp [h2, hv, Tab.get]
      · simp [h1, h2, Ne.symm h2, Tab.get, ih]

/-- The keys of a canonical table are at least its bound. -/
theorem Tab.get_below {α : Type} [DecidableEq α] (d : α) (t : Tab α) {lo k : Nat} (h : Tab.wfFrom d lo t = true)
    (hk : k < lo) : Tab.get d t k = d := by
  induction t generalizing lo with
  | nil => rfl
  | cons p t ih =>
    simp only [Tab.wfFrom, Bool.and_eq_true, decide_eq_true_eq] at h
    have : p.1 ≠ k := by omega
    simp only [Tab.get, this, if_false]
    exact ih h.2 (by omega)

theorem Tab.wfFrom_mono {α : Type} [DecidableEq α] (d : α) (t : Tab α) {lo hi : Nat} (h : Tab.wfFrom d hi t = true)
    (hl : lo ≤ hi) : Tab.wfFrom d lo t = true := by
  cases t with
  | nil => rfl
  | cons p t =>
    simp only [Tab.wfFrom, Bool.and_eq_true, decide_eq_true_eq] at h ⊢
    exact ⟨⟨by omega, h.1.2⟩, h.2⟩

/-- In a canonical table a write is read back, the default too. -/
theorem Tab.get_set {α : Type} [DecidableEq α] (d : α) (t : Tab α) {lo : Nat} (h : Tab.wfFrom d lo t = true)
    (k : Nat) (v : α) : Tab.get d (Tab.set d t k v) k = v := by
  by_cases hv : v = d
  · subst hv
    induction t generalizing lo with
    | nil => simp [Tab.set]
    | cons p t ih =>
      have hw := h
      simp only [Tab.wfFrom, Bool.and_eq_true, decide_eq_true_eq] at hw
      unfold Tab.set
      by_cases h1 : k < p.1
      · have : p.1 ≠ k := by omega
        simp only [h1, if_true, Tab.get, this, if_false]
        exact Tab.get_below v t hw.2 (by omega)
      · by_cases h2 : k = p.1
        · subst h2
          simp only [Nat.lt_irrefl, if_false, if_true]
          exact Tab.get_below v t hw.2 (by omega)
        · simp only [h1, h2, if_false, Tab.get, Ne.symm h2]
          exact ih hw.2
  · exact Tab.get_set_self d t k hv

/-- A write keeps the canonical form. -/
theorem Tab.set_wfFrom {α : Type} [DecidableEq α] (d : α) (t : Tab α) {lo : Nat} (h : Tab.wfFrom d lo t = true)
    {k : Nat} (hk : lo ≤ k) (v : α) : Tab.wfFrom d lo (Tab.set d t k v) = true := by
  induction t generalizing lo with
  | nil => by_cases hv : v = d <;> simp [Tab.set, hv, Tab.wfFrom, hk]
  | cons p t ih =>
    have hw := h
    simp only [Tab.wfFrom, Bool.and_eq_true, decide_eq_true_eq] at hw
    unfold Tab.set
    by_cases h1 : k < p.1
    · by_cases hv : v = d
      · simpa [h1, hv] using h
      · simp only [h1, if_true, hv, if_false, Tab.wfFrom, Bool.and_eq_true, decide_eq_true_eq]
        exact ⟨⟨hk, hv⟩, ⟨h1, hw.1.2⟩, hw.2⟩
    · by_cases h2 : k = p.1
      · by_cases hv : v = d
        · simp only [h2, hv, if_true, Nat.lt_irrefl, if_false]
          exact Tab.wfFrom_mono d t hw.2 (by omega)
        · simp only [h2, hv, if_false, if_true, Nat.lt_irrefl, Tab.wfFrom, Bool.and_eq_true, decide_eq_true_eq]
          exact ⟨⟨hw.1.1, hv⟩, hw.2⟩
      · simp only [h1, h2, if_false, Tab.wfFrom, Bool.and_eq_true, decide_eq_true_eq]
        exact ⟨hw.1, ih hw.2 (by omega)⟩

theorem Tab.set_wf {α : Type} [DecidableEq α] (d : α) (t : Tab α) (h : Tab.wf d t = true) (k : Nat) (v : α) :
    Tab.wf d (Tab.set d t k v) = true := Tab.set_wfFrom d t h (Nat.zero_le k) v

theorem Tab.mod_wf {α : Type} [DecidableEq α] (d : α) (t : Tab α) (h : Tab.wf d t = true) (k : Nat) (f : α → α) :
    Tab.wf d (Tab.mod d t k f) = true := Tab.set_wf d t h k _

theorem Tab.setRun_wf {α : Type} [DecidableEq α] (d : α) (vs : List α) (t : Tab α) (h : Tab.wf d t = true) (k : Nat) :
    Tab.wf d (Tab.setRun d t k vs) = true := by
  induction vs generalizing t k with
  | nil => exact h
  | cons v vs ih => exact ih _ (Tab.set_wf d t h k v) (k + 1)

theorem Tab.drop_wfFrom {α : Type} [DecidableEq α] (d : α) (t : Tab α) {lo : Nat} (h : Tab.wfFrom d lo t = true)
    (p : Nat → Bool) : Tab.wfFrom d lo (Tab.drop t p) = true := by
  induction t generalizing lo with
  | nil => rfl
  | cons e t ih =>
    simp only [Tab.wfFrom, Bool.and_eq_true, decide_eq_true_eq] at h
    have hi := ih h.2
    unfold Tab.drop at hi ⊢
    by_cases hp : p e.1
    · simp only [List.filter_cons, hp, Bool.not_true, Bool.false_eq_true, if_false]
      exact Tab.wfFrom_mono d _ hi (by omega)
    · simp only [List.filter_cons, hp, Bool.not_false, if_true, Tab.wfFrom, Bool.and_eq_true, decide_eq_true_eq]
      exact ⟨h.1, hi⟩

/-- Dropping entries keeps the canonical form. -/
theorem Tab.drop_wf {α : Type} [DecidableEq α] (d : α) (t : Tab α) (h : Tab.wf d t = true) (p : Nat → Bool) :
    Tab.wf d (Tab.drop t p) = true := Tab.drop_wfFrom d t h p

theorem Tab.each_wfFrom {α : Type} [DecidableEq α] (d : α) (t : Tab α) {lo : Nat} (h : Tab.wfFrom d lo t = true)
    (f : Nat → α → α) : Tab.wfFrom d lo (Tab.each d t f) = true := by
  induction t generalizing lo with
  | nil => rfl
  | cons e t ih =>
    simp only [Tab.wfFrom, Bool.and_eq_true, decide_eq_true_eq] at h
    have hi := ih h.2
    unfold Tab.each at hi ⊢
    by_cases hp : f e.1 e.2 = d
    · simp only [List.map_cons, List.filter_cons, hp, ne_eq, not_true, decide_false, Bool.false_eq_true, if_false]
      exact Tab.wfFrom_mono d _ hi (by omega)
    · simp only [List.map_cons, List.filter_cons, ne_eq, hp, not_false_eq_true, decide_true, if_true, Tab.wfFrom,
        Bool.and_eq_true, decide_eq_true_eq]
      exact ⟨⟨h.1.1, trivial⟩, hi⟩

/-- Changing every entry keeps the canonical form. -/
theorem Tab.each_wf {α : Type} [DecidableEq α] (d : α) (t : Tab α) (h : Tab.wf d t = true) (f : Nat → α → α) :
    Tab.wf d (Tab.each d t f) = true := Tab.each_wfFrom d t h f

end Sys2Proof
end

