-- ==== Sys2Proof/Laws/Fuses.lean ====
section
/-! SUPPORT. What burns, starts and resets do to the antifuses: every one only adds bits. -/

namespace Sys2Proof.Machine
open Sys2Proof

@[simp] theorem burntIn_refl (x : Word) : burntIn x x := by simp [burntIn]

@[simp] theorem burntIn_or (x y : Word) : burntIn x (x ||| y) := by
  unfold burntIn; ext i; simp; intro h; simp [h]

theorem burntIn_ones (x : Word) : burntIn x 0xFFFFFFFF := by
  unfold burntIn; exact BitVec.and_allOnes

theorem burntIn_trans {x y z : Word} (h : burntIn x y) (g : burntIn y z) : burntIn x z := by
  unfold burntIn at *
  rw [← h, BitVec.and_assoc, g]

@[simp] theorem burnt_grows (n i : Nat) (mask old final : Word) : burntIn old (burnt n i mask old final) := by
  unfold burnt; repeat' split
  all_goals simp

theorem Lcs.grows_refl (x : Lcs) : x.grows x := by simp [Lcs.grows, BurnRec.grows]

theorem Lcs.grows_trans {x y z : Lcs} (h : x.grows y) (g : y.grows z) : x.grows z :=
  ⟨burntIn_trans h.1 g.1, burntIn_trans h.2.1 g.2.1, burntIn_trans h.2.2.1 g.2.2.1, fun a => g.2.2.2.1 (h.2.2.2.1 a),
    fun k => ⟨burntIn_trans (h.2.2.2.2 k).1 (g.2.2.2.2 k).1, burntIn_trans (h.2.2.2.2 k).2 (g.2.2.2.2 k).2⟩⟩

theorem Lcs.grows_of_eq {x y : Lcs} (h : y = x) : x.grows y := h ▸ Lcs.grows_refl x

/-- A record that grows leaves the whole table of records grown. -/
theorem recs_set_grows (t : Tab BurnRec) (k : Nat) (v : BurnRec) (h : (Tab.get BurnRec.reset t k).grows v) (j : Nat) :
    (Tab.get BurnRec.reset t j).grows (Tab.get BurnRec.reset (Tab.set BurnRec.reset t k v) j) := by
  by_cases hj : j = k
  · subst hj
    by_cases hv : v = BurnRec.reset
    · have : Tab.get BurnRec.reset t j = BurnRec.reset := by
        subst hv
        obtain ⟨h1, h2⟩ := h
        cases hg : Tab.get BurnRec.reset t j with
        | mk a b =>
          rw [hg] at h1 h2
          simp [burntIn, BurnRec.reset] at h1 h2
          simp [h1.symm, h2.symm, BurnRec.reset]
      rw [this]
      simp [BurnRec.grows, BurnRec.reset, burntIn]
    · rw [Tab.get_set_self _ _ _ hv]; exact h
  · rw [Tab.get_set_ne _ _ _ hj]
    simp [BurnRec.grows]

/-- A burn only adds bits. -/
theorem Lcs.burn_grows (x : Lcs) (t : Lc) (k n : Nat) (mask : Word) : x.grows (x.burn t k n mask) := by
  refine ⟨burnt_grows .., burnt_grows .., burnt_grows .., ?_, recs_set_grows _ _ _ ⟨burnt_grows .., burnt_grows ..⟩⟩
  intro h; simp [Lcs.burn, h]

theorem Lcs.burnAll_grows (x : Lcs) (t : Lc) (k : Nat) : x.grows (x.burnAll t k) := Lcs.burn_grows ..

theorem Lcs.interrupt_grows (x : Lcs) (t : Lc) (n : Nat) (mask : Word) : x.grows (x.interrupt t n mask) := by
  unfold Lcs.interrupt; split
  · exact Lcs.burn_grows ..
  · exact Lcs.grows_refl x

theorem Lcs.resume_grows (x : Lcs) : x.grows x.resume := by
  unfold Lcs.resume
  split
  · exact Lcs.grows_refl x
  · dsimp only
    split
    · exact Lcs.grows_refl x
    · split
      · exact Lcs.burnAll_grows ..
      · exact ⟨burntIn_refl _, burntIn_refl _, burntIn_refl _, id, recs_set_grows _ _ _ ⟨burntIn_refl _, burntIn_ones _⟩⟩

theorem Lcs.vote_grows (x : Lcs) : x.grows x.vote := by
  unfold Lcs.vote
  split
  · exact Lcs.grows_refl x
  · exact Lcs.burnAll_grows ..

theorem Lcs.giveBack_grows (x : Lcs) : x.grows x.giveBack := by
  unfold Lcs.giveBack
  split
  · exact Lcs.burnAll_grows ..
  · exact Lcs.grows_refl x

/-- The start of a device only adds bits. -/
theorem Lcs.start_grows (x : Lcs) : x.grows x.start := by
  unfold Lcs.start
  generalize hy : ({ x with burning := false, waiting := none, resumed := false, invalidSeen := false, result := 0 } : Lcs) = y
  have hxy : x.grows y := by subst hy; exact Lcs.grows_refl x
  exact Lcs.grows_trans (Lcs.grows_trans (Lcs.grows_trans hxy (Lcs.resume_grows _)) (Lcs.vote_grows _))
    (Lcs.giveBack_grows _)

theorem Dev.boot_grows (d : Dev) : d.lcs.grows d.boot.lcs := by
  unfold Dev.boot; dsimp only
  simp
  exact Lcs.start_grows _

theorem Dev.fuses_grows (d : Dev) : d.lcs.grows d.fuses := Lcs.interrupt_grows ..

theorem Dev.coldWipe_grows (d : Dev) (c : Nat) : d.lcs.grows (d.coldWipe c).lcs := by
  unfold Dev.coldWipe; dsimp only
  rw [Dev.raiseIf_lcs]
  unfold Dev.wiped; dsimp only
  refine Lcs.grows_trans (Lcs.grows_of_eq ?_) (Dev.fuses_grows _)
  split <;> simp

/-- A cold reset only adds bits. -/
theorem Dev.coldReset_grows (d : Dev) (c : Nat) : d.lcs.grows (d.coldReset c).lcs :=
  Lcs.grows_trans (Dev.coldWipe_grows d c) (Dev.boot_grows _)

theorem Dev.unpowered_grows (d : Dev) (b : Bool) : d.lcs.grows (d.unpowered b).lcs := Dev.fuses_grows d

theorem Dev.advance_grows (d : Dev) (t : Lc) : d.lcs.grows (d.advance t).lcs := by
  unfold Dev.advance; dsimp only
  rw [Dev.forgetMemory_lcs, Dev.destroyAll_lcs, Dev.haltAll_lcs, Dev.tapGate_lcs]
  exact Lcs.grows_refl _

end Sys2Proof.Machine
end

