-- ==== Sys2Proof/Laws/Hbm.lean ====
section
/-! SUPPORT. Which operations leave HBM's contents alone: all but the writes, the write-backs, the erasures and
the repairs. One lemma per operation, so that a statement about memory looks at the few that change it. -/

set_option maxRecDepth 4000
namespace Sys2Proof.Machine
open Sys2Proof
@[simp] theorem foldl_hbm {α : Type} (f : Dev → α → Dev) (h : ∀ d x, (f d x).mem.hbm = d.mem.hbm) (l : List α) (d : Dev) :
    (l.foldl f d).mem.hbm = d.mem.hbm := by
  induction l generalizing d with
  | nil => rfl
  | cons x xs ih => simp [ih, h]

@[simp] theorem ite_hbm (c : Prop) [Decidable c] (a b : Dev) : (if c then a else b).mem.hbm = if c then a.mem.hbm else b.mem.hbm := by
  split <;> rfl

@[simp] theorem foldlp_hbm {α β : Type} (f : Dev × β → α → Dev × β) (h : ∀ a x, (f a x).1.mem.hbm = a.1.mem.hbm) (l : List α)
    (a : Dev × β) : (l.foldl f a).1.mem.hbm = a.1.mem.hbm := by
  induction l generalizing a with
  | nil => rfl
  | cons x xs ih => simp [ih, h]

@[simp] theorem itep_hbm {β : Type} (c : Prop) [Decidable c] (a b : Dev × β) :
    (if c then a else b).1.mem.hbm = if c then a.1.mem.hbm else b.1.mem.hbm := by
  split <;> rfl

@[simp] theorem foldr_hbm {α : Type} (f : α → Dev → Dev) (h : ∀ x d, (f x d).mem.hbm = d.mem.hbm) (l : List α) (d : Dev) :
    (l.foldr f d).mem.hbm = d.mem.hbm := by
  induction l with
  | nil => rfl
  | cons x xs ih => simp [ih, h]

@[simp] theorem Dev.modClr_hbm (d : Dev) (n : Nat) (f : Clearing → Clearing) : (Dev.modClr d n f).mem.hbm = d.mem.hbm := by
  unfold Dev.modClr; simp

@[simp] theorem Dev.modTile_hbm (d : Dev) (t : Nat) (f : TileSt → TileSt) : (Dev.modTile d t f).mem.hbm = d.mem.hbm := by
  unfold Dev.modTile; simp

@[simp] theorem Dev.modCtx_hbm (d : Dev) (k : Nat) (f : Ctx → Ctx) : (Dev.modCtx d k f).mem.hbm = d.mem.hbm := by
  unfold Dev.modCtx; simp

@[simp] theorem Dev.modLink_hbm (d : Dev) (l : Nat) (f : Link → Link) : (Dev.modLink d l f).mem.hbm = d.mem.hbm := by
  unfold Dev.modLink; simp

@[simp] theorem Dev.modQueue_hbm (d : Dev) (q : Nat) (f : Queue → Queue) : (Dev.modQueue d q f).mem.hbm = d.mem.hbm := by
  unfold Dev.modQueue; simp

@[simp] theorem Dev.modObj_hbm (d : Dev) (i : Nat) (f : Obj → Obj) : (Dev.modObj d i f).mem.hbm = d.mem.hbm := by
  unfold Dev.modObj; simp

@[simp] theorem Dev.modFence_hbm (d : Dev) (i : Nat) (f : Fence → Fence) : (Dev.modFence d i f).mem.hbm = d.mem.hbm := by
  unfold Dev.modFence; simp

@[simp] theorem Dev.modSlot_hbm (d : Dev) (i : Nat) (f : Slot → Slot) : (Dev.modSlot d i f).mem.hbm = d.mem.hbm := by
  unfold Dev.modSlot; simp

@[simp] theorem Dev.modFrame_hbm (d : Dev) (n : Nat) (f : McxFrame → McxFrame) : (Dev.modFrame d n f).mem.hbm = d.mem.hbm := by
  unfold Dev.modFrame; simp

@[simp] theorem Dev.modRegion_hbm (d : Dev) (k : Nat) (f : RegionSt → RegionSt) : (Dev.modRegion d k f).mem.hbm = d.mem.hbm := by
  unfold Dev.modRegion; simp

@[simp] theorem Dev.modStack_hbm (d : Dev) (k : Nat) (f : StackSt → StackSt) : (Dev.modStack d k f).mem.hbm = d.mem.hbm := by
  unfold Dev.modStack; simp

@[simp] theorem Dev.modNum_hbm (d : Dev) (n : Nat) (f : Num → Num) : (Dev.modNum d n f).mem.hbm = d.mem.hbm := by
  unfold Dev.modNum; simp

@[simp] theorem Dev.emit_hbm (d : Dev) (o : Output) : (Dev.emit d o).mem.hbm = d.mem.hbm := by
  unfold Dev.emit; simp

@[simp] theorem Dev.updateAlert_hbm (d : Dev) : (Dev.updateAlert d).mem.hbm = d.mem.hbm := by
  unfold Dev.updateAlert; simp

@[simp] theorem Dev.raise_hbm (d : Dev) (b : Blk) (bit : Nat) : (Dev.raise d b bit).mem.hbm = d.mem.hbm := by
  unfold Dev.raise; simp

@[simp] theorem Dev.raiseIf_hbm (d : Dev) (c : Bool) (b : Blk) (bit : Nat) : (Dev.raiseIf d c b bit).mem.hbm = d.mem.hbm := by
  unfold Dev.raiseIf; simp

@[simp] theorem Dev.tick_hbm (d : Dev) : (Dev.tick d).mem.hbm = d.mem.hbm := by
  unfold Dev.tick; simp

@[simp] theorem Dev.logEvent_hbm (d : Dev) (type : Byte) (clearing : Nat) (engine : BitVec 16) (status : Byte) (info : BitVec 64) : (Dev.logEvent d type clearing engine status info).mem.hbm = d.mem.hbm := by
  unfold Dev.logEvent; simp

@[simp] theorem Dev.loseCopies_hbm (d : Dev) : (Dev.loseCopies d).mem.hbm = d.mem.hbm := by
  unfold Dev.loseCopies; simp

@[simp] theorem Dev.modCmd_hbm (d : Dev) (q : Nat) (seq : Word) (f : Cmd → Cmd) : (Dev.modCmd d q seq f).mem.hbm = d.mem.hbm := by
  unfold Dev.modCmd; simp

@[simp] theorem Dev.addRefs_hbm (d : Dev) (hs : List Word) : (Dev.addRefs d hs).mem.hbm = d.mem.hbm := by
  unfold Dev.addRefs; simp

@[simp] theorem Dev.dropRefs_hbm (d : Dev) (hs : List Word) : (Dev.dropRefs d hs).mem.hbm = d.mem.hbm := by
  unfold Dev.dropRefs; simp

@[simp] theorem Dev.modRun_hbm (d : Dev) (a : BitVec 16) (i : Word) (f : ActRun → ActRun) : (Dev.modRun d a i f).mem.hbm = d.mem.hbm := by
  unfold Dev.modRun; simp

@[simp] theorem Dev.breakAct_hbm (d : Dev) (c : Cmd) : (Dev.breakAct d c).mem.hbm = d.mem.hbm := by
  unfold Dev.breakAct; simp

@[simp] theorem Dev.amend_hbm (d : Dev) (q : Nat) (c : Cmd) (st : Status) (det : Detail) (info : BitVec 64) (rank : BitVec 21) : (Dev.amend d q c st det info rank).mem.hbm = d.mem.hbm := by
  unfold Dev.amend; simp

@[simp] theorem Dev.completeCmd_hbm (d : Dev) (q : Nat) (c : Cmd) (st : Status) (det : Detail) (info : BitVec 64) (rank : BitVec 21) : (Dev.completeCmd d q c st det info rank).mem.hbm = d.mem.hbm := by
  unfold Dev.completeCmd; simp

@[simp] theorem Dev.blame_hbm (d₀ d : Dev) (q : Nat) (seq : Word) (st : Status) (det : Detail)
    (info : BitVec 64) (rank : BitVec 21) : (Dev.blame d₀ d q seq st det info rank).mem.hbm = d.mem.hbm := by
  unfold Dev.blame; split <;> simp

@[simp] theorem Dev.finish_hbm (d : Dev) (q : Nat) (seq : Word) (st : Status) (det : Detail) (info : BitVec 64) : (Dev.finish d q seq st det info).mem.hbm = d.mem.hbm := by
  unfold Dev.finish; (try dsimp only); repeat' first | rfl | split | rw [foldl_hbm] | rw [foldlp_hbm] | intro
  all_goals first | rfl | simp

@[simp] theorem Dev.finishOk_hbm (d : Dev) (q : Nat) (seq : Word) : (Dev.finishOk d q seq).mem.hbm = d.mem.hbm := by
  unfold Dev.finishOk; simp

@[simp] theorem Dev.freeLaunch_hbm (d : Dev) (id : Nat) : (Dev.freeLaunch d id).mem.hbm = d.mem.hbm := by
  unfold Dev.freeLaunch; simp

@[simp] theorem Dev.modProg_hbm (d : Dev) (t : Nat) (f : Prog → Prog) : (Dev.modProg d t f).mem.hbm = d.mem.hbm := by
  unfold Dev.modProg; simp

@[simp] theorem Dev.discardFlights_hbm (d : Dev) (fs : List Flight) : (Dev.discardFlights d fs).mem.hbm = d.mem.hbm := by
  unfold Dev.discardFlights; simp

@[simp] theorem Dev.dropProg_hbm (d : Dev) (t : Nat) : (Dev.dropProg d t).mem.hbm = d.mem.hbm := by
  unfold Dev.dropProg; simp

@[simp] theorem Dev.modColl_hbm (d : Dev) (c : Nat) (f : CollSlot → CollSlot) : (Dev.modColl d c f).mem.hbm = d.mem.hbm := by
  unfold Dev.modColl; simp

@[simp] theorem Dev.releaseSlot_hbm (d : Dev) (i : StageIn) : (Dev.releaseSlot d i).mem.hbm = d.mem.hbm := by
  unfold Dev.releaseSlot; dsimp only; repeat' split
  all_goals simp

@[simp] theorem Dev.dropFlits_hbm (d : Dev) (q : Nat) (seq : Word) : (Dev.dropFlits d q seq).mem.hbm = d.mem.hbm := by
  unfold Dev.dropFlits; simp

@[simp] theorem Dev.modXfer_hbm (d : Dev) (q : Nat) (seq : Word) (f : Xfer → Xfer) : (Dev.modXfer d q seq f).mem.hbm = d.mem.hbm := by
  unfold Dev.modXfer; simp

@[simp] theorem Dev.closeXfer_hbm (d : Dev) (q : Nat) (seq : Word) : (Dev.closeXfer d q seq).mem.hbm = d.mem.hbm := by
  unfold Dev.closeXfer; simp

@[simp] theorem Dev.dropXfer_hbm (d : Dev) (q : Nat) (seq : Word) : (Dev.dropXfer d q seq).mem.hbm = d.mem.hbm := by
  unfold Dev.dropXfer; (try dsimp only); repeat' first | rfl | split | rw [foldl_hbm] | rw [foldlp_hbm] | intro
  all_goals first | rfl | simp

@[simp] theorem Dev.kill_hbm (d : Dev) (q : Nat) (c : Cmd) (st : Status) (det : Detail) : (Dev.kill d q c st det).mem.hbm = d.mem.hbm := by
  unfold Dev.kill; dsimp only; repeat' split
  all_goals simp

@[simp] theorem Dev.abort_hbm (d : Dev) (q : Nat) (c : Cmd) (st : Status) (det : Detail) : (Dev.abort d q c st det).mem.hbm = d.mem.hbm := by
  unfold Dev.abort; repeat' split
  all_goals simp

@[simp] theorem Dev.abortWhere_hbm (d : Dev) (p : Nat → Cmd → Bool) (st : Status) (det : Detail) : (Dev.abortWhere d p st det).mem.hbm = d.mem.hbm := by
  unfold Dev.abortWhere; (try dsimp only); repeat' first | rfl | split | rw [foldl_hbm] | rw [foldlp_hbm] | intro
  all_goals first | rfl | simp

@[simp] theorem Dev.killWhere_hbm (d : Dev) (p : Nat → Cmd → Bool) (st : Status) (det : Detail) : (Dev.killWhere d p st det).mem.hbm = d.mem.hbm := by
  unfold Dev.killWhere; simp

@[simp] theorem Dev.completeWait_hbm (d : Dev) (q : Nat) (c : Cmd) (status : BitVec 2) : (Dev.completeWait d q c status).mem.hbm = d.mem.hbm := by
  unfold Dev.completeWait; simp

@[simp] theorem Dev.signalFence_hbm (d : Dev) (f : Nat) (status : BitVec 2) : (Dev.signalFence d f status).mem.hbm = d.mem.hbm := by
  unfold Dev.signalFence; simp

@[simp] theorem Dev.settle_hbm (d : Dev) (q : Nat) : (Dev.settle d q).mem.hbm = d.mem.hbm := by
  unfold Dev.settle; simp

@[simp] theorem Dev.disableQueue_hbm (d : Dev) (q : Nat) (det : Detail) : (Dev.disableQueue d q det).mem.hbm = d.mem.hbm := by
  unfold Dev.disableQueue; simp

@[simp] theorem Dev.haltClr_hbm (d : Dev) (n : Nat) (show_ : ClrSt) (st : Status) (det : Detail) : (Dev.haltClr d n show_ st det).mem.hbm = d.mem.hbm := by
  unfold Dev.haltClr; simp

@[simp] theorem Dev.haltAll_hbm (d : Dev) (st : Status) (det : Detail) : (Dev.haltAll d st det).mem.hbm = d.mem.hbm := by
  unfold Dev.haltAll; simp

@[simp] theorem Dev.remeasure_hbm (d : Dev) (n : Nat) : (Dev.remeasure d n).mem.hbm = d.mem.hbm := by
  unfold Dev.remeasure; (try dsimp only); repeat' first | rfl | split | rw [foldl_hbm] | rw [foldlp_hbm] | intro
  all_goals first | rfl | simp

@[simp] theorem Dev.remeasureSlot_hbm (d : Dev) (s : Nat) : (Dev.remeasureSlot d s).mem.hbm = d.mem.hbm := by
  unfold Dev.remeasureSlot; (try dsimp only); repeat' first | rfl | split | rw [foldl_hbm] | rw [foldlp_hbm] | intro
  all_goals first | rfl | simp

@[simp] theorem Dev.wipeSlot_hbm (d : Dev) (s : Nat) : (Dev.wipeSlot d s).mem.hbm = d.mem.hbm := by
  unfold Dev.wipeSlot; simp

@[simp] theorem Dev.destroySlot_hbm (d : Dev) (s : Nat) : (Dev.destroySlot d s).mem.hbm = d.mem.hbm := by
  unfold Dev.destroySlot; simp

@[simp] theorem Dev.destroySlots_hbm (d : Dev) (p : Nat → Slot → Bool) : (Dev.destroySlots d p).mem.hbm = d.mem.hbm := by
  unfold Dev.destroySlots; simp

@[simp] theorem Dev.leaveSlots_hbm (d : Dev) (n : Nat) (owner : BitVec 6) : (Dev.leaveSlots d n owner).mem.hbm = d.mem.hbm := by
  unfold Dev.leaveSlots; simp

@[simp] theorem Dev.leaveSet_hbm (d : Dev) : (Dev.leaveSet d).mem.hbm = d.mem.hbm := by
  unfold Dev.leaveSet; simp

@[simp] theorem Dev.modUnit_hbm (d : Dev) (k : Nat) (f : UnitMeta → UnitMeta) : (Dev.modUnit d k f).mem.hbm = d.mem.hbm := by
  unfold Dev.modUnit; simp

@[simp] theorem Dev.setMeta_hbm (d : Dev) (f r k : Nat) (g : UnitMeta → UnitMeta) : (Dev.setMeta d f r k g).mem.hbm = d.mem.hbm := by
  unfold Dev.setMeta; simp

@[simp] theorem Dev.modNode_hbm (d : Dev) (f r : Nat) (rg : PlanRegion) (level i : Nat) (g : NodeSt → NodeSt) : (Dev.modNode d f r rg level i g).mem.hbm = d.mem.hbm := by
  unfold Dev.modNode; simp

@[simp] theorem Dev.zeroLocals_hbm (d : Dev) (f r : Nat) (rg : PlanRegion) (leaf : Nat) : (Dev.zeroLocals d f r rg leaf).mem.hbm = d.mem.hbm := by
  unfold Dev.zeroLocals; (try dsimp only); refine foldl_hbm _ (fun d x => ?_) _ _; (try dsimp only); repeat' split
  all_goals simp

@[simp] theorem Dev.bumpMajor_hbm (d : Dev) (f r : Nat) (rg : PlanRegion) (level i : Nat) : (Dev.bumpMajor d f r rg level i).mem.hbm = d.mem.hbm := by
  unfold Dev.bumpMajor; simp

@[simp] theorem Dev.dirtyMeta_hbm (d : Dev) (f r level i : Nat) : (Dev.dirtyMeta d f r level i).mem.hbm = d.mem.hbm := by
  unfold Dev.dirtyMeta; simp

@[simp] theorem Dev.writeBackMeta_hbm (f r : Nat) (rg : PlanRegion) (fuel level i : Nat) (d : Dev) :
    (Dev.writeBackMeta f r rg fuel level i d).mem.hbm = d.mem.hbm := by
  induction fuel generalizing level i d with
  | zero => rfl
  | succ n ih =>
    unfold Dev.writeBackMeta; dsimp only
    split
    · rfl
    · split
      · split
        · simp
        · rw [ih]; simp
      · split
        · simp
        · rw [ih]; simp

@[simp] theorem Dev.fillMeta_hbm (d : Dev) (f r : Nat) (rg : PlanRegion) (level i : Nat) : (Dev.fillMeta d f r rg level i).mem.hbm = d.mem.hbm := by
  unfold Dev.fillMeta; (try dsimp only); repeat' first | rfl | split | rw [foldl_hbm] | rw [foldlp_hbm] | intro
  all_goals first | rfl | simp

@[simp] theorem Dev.touchMeta_hbm (d : Dev) (f r : Nat) (rg : PlanRegion) (ra : Nat) (write : Bool) : (Dev.touchMeta d f r rg ra write).mem.hbm = d.mem.hbm := by
  unfold Dev.touchMeta; simp

@[simp] theorem Dev.countWrite_hbm (d : Dev) (f r : Nat) (rg : PlanRegion) (ra k : Nat) : (Dev.countWrite d f r rg ra k).1.mem.hbm = d.mem.hbm := by
  unfold Dev.countWrite; simp

@[simp] theorem Dev.clearFlaw_hbm (d : Dev) (unit pa : Nat) : (Dev.clearFlaw d unit pa).mem.hbm = d.mem.hbm := by
  unfold Dev.clearFlaw; simp

@[simp] theorem Dev.clearPoison_hbm (d : Dev) (f r : Nat) (rg : PlanRegion) (u pa : Nat) : (Dev.clearPoison d f r rg u pa).mem.hbm = d.mem.hbm := by
  unfold Dev.clearPoison; simp

@[simp] theorem Dev.latchErr_hbm (d : Dev) (f : Nat) (st : Status) (r level : Nat) (partialW write : Bool) (line : Nat) : (Dev.latchErr d f st r level partialW write line).mem.hbm = d.mem.hbm := by
  unfold Dev.latchErr; simp

@[simp] theorem Dev.tamper_hbm (d : Dev) (f : Nat) : (Dev.tamper d f).mem.hbm = d.mem.hbm := by
  unfold Dev.tamper; simp

@[simp] theorem Dev.poison_hbm (d : Dev) (k : Nat) (cause : Byte) : (Dev.poison d k cause).mem.hbm = d.mem.hbm := by
  unfold Dev.poison; simp

@[simp] theorem Dev.unitTamper_hbm (d : Dev) (f r ra k : Nat) (partialW write : Bool) : (Dev.unitTamper d f r ra k partialW write).mem.hbm = d.mem.hbm := by
  unfold Dev.unitTamper; simp

@[simp] theorem Dev.reportUe_hbm (d : Dev) (pa : Nat) : (Dev.reportUe d pa).mem.hbm = d.mem.hbm := by
  unfold Dev.reportUe; simp

@[simp] theorem Dev.unitUncorrectable_hbm (d : Dev) (f r ra pa k : Nat) (mode : Byte) (partialW write : Bool) : (Dev.unitUncorrectable d f r ra pa k mode partialW write).mem.hbm = d.mem.hbm := by
  unfold Dev.unitUncorrectable; simp

@[simp] theorem Dev.markDirty_hbm (d : Dev) (f r ra : Nat) : (Dev.markDirty d f r ra).mem.hbm = d.mem.hbm := by
  unfold Dev.markDirty; (try dsimp only); repeat' first | rfl | split | rw [foldl_hbm] | rw [foldlp_hbm] | intro
  all_goals first | rfl | simp

@[simp] theorem Dev.modLine_hbm (d : Dev) (pa : Nat) (f : CacheLine → CacheLine) : (Dev.modLine d pa f).mem.hbm = d.mem.hbm := by
  unfold Dev.modLine; simp

@[simp] theorem Dev.dirtySector_hbm (d : Dev) (pa : Nat) : (Dev.dirtySector d pa).mem.hbm = d.mem.hbm := by
  unfold Dev.dirtySector; simp

@[simp] theorem Dev.checkRange_hbm (d : Dev) (f r ra n : Nat) : (Dev.checkRange d f r ra n).1.mem.hbm = d.mem.hbm := by
  unfold Dev.checkRange; (try dsimp only); repeat' first | rfl | split | rw [foldl_hbm] | rw [foldlp_hbm] | intro
  all_goals first | rfl | simp

@[simp] theorem Dev.checkObj_hbm (d : Dev) (o : Obj) (off n : Nat) : (Dev.checkObj d o off n).1.mem.hbm = d.mem.hbm := by
  unfold Dev.checkObj; simp

@[simp] theorem Dev.holdRepair_hbm (d : Dev) (line : Nat) (who : Nat × Word × BitVec 64) : (Dev.holdRepair d line who).mem.hbm = d.mem.hbm := by
  unfold Dev.holdRepair; simp

@[simp] theorem Dev.dropLines_hbm (d : Dev) (f : Nat) : (Dev.dropLines d f).mem.hbm = d.mem.hbm := by
  unfold Dev.dropLines; simp

@[simp] theorem Dev.sendCtrl_hbm (d : Dev) (l : Nat) (m : CtrlMsg) : (Dev.sendCtrl d l m).mem.hbm = d.mem.hbm := by
  unfold Dev.sendCtrl; simp

@[simp] theorem Dev.announce_hbm (d : Dev) (es : List RoleEntry) : (Dev.announce d es).mem.hbm = d.mem.hbm := by
  unfold Dev.announce; simp

@[simp] theorem Dev.bumpGroup_hbm (d : Dev) (t : Nat) : (Dev.bumpGroup d t).mem.hbm = d.mem.hbm := by
  unfold Dev.bumpGroup; simp

@[simp] theorem Dev.bumpChan_hbm (d : Dev) (e : Nat) : (Dev.bumpChan d e).mem.hbm = d.mem.hbm := by
  unfold Dev.bumpChan; simp

@[simp] theorem Dev.bumpClr_hbm (d : Dev) (n : Nat) : (Dev.bumpClr d n).mem.hbm = d.mem.hbm := by
  unfold Dev.bumpClr; simp

@[simp] theorem Dev.wipeTile_hbm (d : Dev) (t : Nat) : (Dev.wipeTile d t).mem.hbm = d.mem.hbm := by
  unfold Dev.wipeTile; simp

@[simp] theorem Dev.resetCmds_hbm (d : Dev) (cs : List (Nat × Cmd)) (st : Status) (det : Detail) : (Dev.resetCmds d cs st det).mem.hbm = d.mem.hbm := by
  unfold Dev.resetCmds; simp

@[simp] theorem Dev.deviceOut_hbm (d : Dev) : (Dev.deviceOut d).mem.hbm = d.mem.hbm := by
  unfold Dev.deviceOut; simp

@[simp] theorem Dev.recoveryReset_hbm (d : Dev) (n : Nat) : (Dev.recoveryReset d n).mem.hbm = d.mem.hbm := by
  unfold Dev.recoveryReset; simp

@[simp] theorem Dev.scramble_hbm (d : Dev) (t off n : Nat) : (Dev.scramble d t off n).mem.hbm = d.mem.hbm := by
  unfold Dev.scramble; simp

@[simp] theorem Dev.engineReset_hbm (d : Dev) (e : Nat) : (Dev.engineReset d e).mem.hbm = d.mem.hbm := by
  unfold Dev.engineReset; (try dsimp only); repeat' first | rfl | split | rw [foldl_hbm] | rw [foldlp_hbm] | intro
  all_goals first | rfl | simp

@[simp] theorem Dev.endRepairs_hbm (d : Dev) (n : Nat) : (Dev.endRepairs d n).mem.hbm = d.mem.hbm := by
  unfold Dev.endRepairs; (try dsimp only); refine foldl_hbm _ (fun d x => ?_) _ _; (try dsimp only); repeat' split
  all_goals simp

@[simp] theorem Dev.startFencing_hbm (d : Dev) (n : Nat) : (Dev.startFencing d n).mem.hbm = d.mem.hbm := by
  unfold Dev.startFencing; (try dsimp only); repeat' first | rfl | split | rw [foldl_hbm] | rw [foldlp_hbm] | intro
  all_goals first | rfl | simp

@[simp] theorem Dev.fenced_hbm (d : Dev) (n : Nat) : (Dev.fenced d n).mem.hbm = d.mem.hbm := by
  unfold Dev.fenced; simp

@[simp] theorem Dev.freeObj_hbm (d : Dev) (i : Nat) : (Dev.freeObj d i).mem.hbm = d.mem.hbm := by
  unfold Dev.freeObj; simp

@[simp] theorem Dev.freeObjs_hbm (d : Dev) (p : Obj → Bool) : (Dev.freeObjs d p).mem.hbm = d.mem.hbm := by
  unfold Dev.freeObjs; simp

@[simp] theorem Dev.dropRegions_hbm (d : Dev) (f : Nat) : (Dev.dropRegions d f).mem.hbm = d.mem.hbm := by
  unfold Dev.dropRegions; simp

@[simp] theorem Dev.startScrub_hbm (d : Dev) (n : Nat) (owner : BitVec 6) (gs tiles : List Nat) : (Dev.startScrub d n owner gs tiles).mem.hbm = d.mem.hbm := by
  unfold Dev.startScrub; simp

@[simp] theorem Dev.rxFlit_hbm (d : Dev) (l vc : Nat) (credit : Bool) : (Dev.rxFlit d l vc credit).mem.hbm = d.mem.hbm := by
  unfold Dev.rxFlit; simp

@[simp] theorem Dev.sendTide_hbm (d : Dev) (l : Nat) (r : TideRec) : (Dev.sendTide d l r).mem.hbm = d.mem.hbm := by
  unfold Dev.sendTide; simp

@[simp] theorem Dev.forwardMark_hbm (d : Dev) (r : MarkRec) : (Dev.forwardMark d r).mem.hbm = d.mem.hbm := by
  unfold Dev.forwardMark; simp

@[simp] theorem Dev.sendReturn_hbm (d : Dev) (needs : List Need) : (Dev.sendReturn d needs).mem.hbm = d.mem.hbm := by
  unfold Dev.sendReturn; simp

@[simp] theorem Dev.countChildren_hbm (d : Dev) : (Dev.countChildren d).mem.hbm = d.mem.hbm := by
  unfold Dev.countChildren; simp

@[simp] theorem Dev.auxPulse_hbm (d : Dev) : (Dev.auxPulse d).mem.hbm = d.mem.hbm := by
  unfold Dev.auxPulse; (try dsimp only); repeat' first | rfl | split | rw [foldl_hbm] | rw [foldlp_hbm] | intro
  all_goals first | rfl | simp

@[simp] theorem Dev.tideOut_hbm (d : Dev) : (Dev.tideOut d).mem.hbm = d.mem.hbm := by
  unfold Dev.tideOut; (try dsimp only); repeat' first | rfl | split | rw [foldl_hbm] | rw [foldlp_hbm] | intro
  all_goals first | rfl | simp

@[simp] theorem Dev.carryPass_hbm (d : Dev) (shadow : Bool) : (Dev.carryPass d shadow).mem.hbm = d.mem.hbm := by
  unfold Dev.carryPass; (try dsimp only); repeat' first | rfl | split | rw [foldl_hbm] | rw [foldlp_hbm] | intro
  all_goals first | rfl | simp

@[simp] theorem Dev.newInterval_hbm (d : Dev) (i base : Nat) : (Dev.newInterval d i base).mem.hbm = d.mem.hbm := by
  unfold Dev.newInterval; (try dsimp only); repeat' first | rfl | split | rw [foldl_hbm] | rw [foldlp_hbm] | intro
  all_goals first | rfl | simp

@[simp] theorem Dev.beginSave_hbm (d : Dev) (p : StandPlan) (deadline : Nat) : (Dev.beginSave d p deadline).mem.hbm = d.mem.hbm := by
  unfold Dev.beginSave; simp

@[simp] theorem Dev.beginShadow_hbm (d : Dev) (p : StandPlan) (deadline : Nat) : (Dev.beginShadow d p deadline).mem.hbm = d.mem.hbm := by
  unfold Dev.beginShadow; simp

@[simp] theorem Dev.startStrand_hbm (d : Dev) (p : StandPlan) (t : PlanTemplate) (a : PlanAct) (i deadline : Nat) : (Dev.startStrand d p t a i deadline).1.mem.hbm = d.mem.hbm := by
  unfold Dev.startStrand; (try dsimp only); repeat' first | rfl | split | rw [foldl_hbm] | rw [foldlp_hbm] | intro
  all_goals first | rfl | simp

@[simp] theorem Dev.startRun_hbm (d : Dev) (p : StandPlan) (t : PlanTemplate) (a : PlanAct) (i : Nat) (late : Bool) : (Dev.startRun d p t a i late).mem.hbm = d.mem.hbm := by
  unfold Dev.startRun; simp

@[simp] theorem Dev.startWaits_hbm (d : Dev) (p : StandPlan) (t : PlanTemplate) (a : PlanAct) : (Dev.startWaits d p t a).mem.hbm = d.mem.hbm := by
  unfold Dev.startWaits; simp

@[simp] theorem Dev.startDue_hbm (p : StandPlan) (t : PlanTemplate) (a : PlanAct) (fuel : Nat) (d : Dev) :
    (Dev.startDue p t a fuel d).mem.hbm = d.mem.hbm := by
  induction fuel generalizing d with
  | zero => rfl
  | succ n ih =>
    unfold Dev.startDue; dsimp only
    split
    · rw [ih]; split <;> simp
    · rfl

@[simp] theorem Dev.startAct_hbm (d : Dev) (p : StandPlan) (t : PlanTemplate) (a : PlanAct) : (Dev.startAct d p t a).mem.hbm = d.mem.hbm := by
  unfold Dev.startAct; simp

@[simp] theorem Dev.startActs_hbm (d : Dev) : (Dev.startActs d).mem.hbm = d.mem.hbm := by
  unfold Dev.startActs; (try dsimp only); repeat' first | rfl | split | rw [foldl_hbm] | rw [foldlp_hbm] | intro
  all_goals first | rfl | simp

@[simp] theorem Dev.deadlines_hbm (d : Dev) : (Dev.deadlines d).mem.hbm = d.mem.hbm := by
  unfold Dev.deadlines; simp

@[simp] theorem Dev.endShadow_hbm (d : Dev) : (Dev.endShadow d).mem.hbm = d.mem.hbm := by
  unfold Dev.endShadow; (try dsimp only); repeat' first | rfl | split | rw [foldl_hbm] | rw [foldlp_hbm] | intro
  all_goals first | rfl | simp

@[simp] theorem Dev.commitSave_hbm (d : Dev) : (Dev.commitSave d).mem.hbm = d.mem.hbm := by
  unfold Dev.commitSave; (try dsimp only); repeat' first | rfl | split | rw [foldl_hbm] | rw [foldlp_hbm] | intro
  all_goals first | rfl | simp

@[simp] theorem Dev.latchTraps_hbm (d : Dev) : (Dev.latchTraps d).mem.hbm = d.mem.hbm := by
  unfold Dev.latchTraps; simp

@[simp] theorem Dev.rekeyPair_hbm (d : Dev) (n : Nat) : (Dev.rekeyPair d n).mem.hbm = d.mem.hbm := by
  unfold Dev.rekeyPair; (try dsimp only); repeat' first | rfl | split | rw [foldl_hbm] | rw [foldlp_hbm] | intro
  all_goals first | rfl | simp

@[simp] theorem Dev.rekeys_hbm (d : Dev) (old : Nat) : (Dev.rekeys d old).mem.hbm = d.mem.hbm := by
  unfold Dev.rekeys; (try dsimp only); repeat' first | rfl | split | rw [foldl_hbm] | rw [foldlp_hbm] | intro
  all_goals first | rfl | simp

@[simp] theorem Dev.endTideWaits_hbm (d : Dev) : (Dev.endTideWaits d).mem.hbm = d.mem.hbm := by
  unfold Dev.endTideWaits; simp

@[simp] theorem Dev.markCounters_hbm (d : Dev) : (Dev.markCounters d).mem.hbm = d.mem.hbm := by
  unfold Dev.markCounters; (try dsimp only); repeat' first | rfl | split | rw [foldl_hbm] | rw [foldlp_hbm] | intro
  all_goals first | rfl | simp

@[simp] theorem Dev.schedule_hbm (d : Dev) (old : Nat) : (Dev.schedule d old).mem.hbm = d.mem.hbm := by
  unfold Dev.schedule; simp

@[simp] theorem Dev.takeMark_hbm (d : Dev) (r : MarkRec) (hop : BitVec 8) (needs : List Need) : (Dev.takeMark d r hop needs).mem.hbm = d.mem.hbm := by
  unfold Dev.takeMark; simp

@[simp] theorem Dev.loseHeld_hbm (d : Dev) : (Dev.loseHeld d).mem.hbm = d.mem.hbm := by
  unfold Dev.loseHeld; simp

@[simp] theorem Dev.drew_hbm (d : Dev) (used : Bool) (stream : BitVec 16) : (Dev.drew d used stream).mem.hbm = d.mem.hbm := by
  unfold Dev.drew; simp

@[simp] theorem Dev.convNans_hbm (d : Dev) (n src tile q : Nat) (seq : Word) (sweep : Nat) (nans : List Nat) : (Dev.convNans d n src tile q seq sweep nans).mem.hbm = d.mem.hbm := by
  unfold Dev.convNans; (try dsimp only); repeat' first | rfl | split | rw [foldl_hbm] | rw [foldlp_hbm] | intro
  all_goals first | rfl | simp

@[simp] theorem Dev.lossConversions_hbm (d : Dev) (n k : Nat) : (Dev.lossConversions d n k).mem.hbm = d.mem.hbm := by
  unfold Dev.lossConversions; simp

@[simp] theorem Dev.topoUpdate_hbm (d : Dev) : (Dev.topoUpdate d).mem.hbm = d.mem.hbm := by
  unfold Dev.topoUpdate; (try dsimp only); repeat' first | rfl | split | rw [foldl_hbm] | rw [foldlp_hbm] | intro
  all_goals first | rfl | simp

@[simp] theorem Dev.loadDone_hbm (d : Dev) (reason : Byte) (at_ : Place) : (Dev.loadDone d reason at_).mem.hbm = d.mem.hbm := by
  unfold Dev.loadDone; simp

@[simp] theorem Dev.loadFails_hbm (d : Dev) (reason : Byte) (at_ : Place) : (Dev.loadFails d reason at_).mem.hbm = d.mem.hbm := by
  unfold Dev.loadFails; simp

@[simp] theorem Dev.dropHeld_hbm (d : Dev) : (Dev.dropHeld d).mem.hbm = d.mem.hbm := by
  unfold Dev.dropHeld; simp

@[simp] theorem doPlanLoad_hbm (d : Dev) : (doPlanLoad d).mem.hbm = d.mem.hbm := by
  unfold doPlanLoad; simp

@[simp] theorem doPlanAbort_hbm (d : Dev) : (doPlanAbort d).mem.hbm = d.mem.hbm := by
  unfold doPlanAbort; simp

@[simp] theorem Dev.newSalt_hbm (d : Dev) : (Dev.newSalt d).mem.hbm = d.mem.hbm := by
  unfold Dev.newSalt; simp

@[simp] theorem Dev.takeRole_hbm (d : Dev) (p : StandPlan) : (Dev.takeRole d p).mem.hbm = d.mem.hbm := by
  unfold Dev.takeRole; simp

@[simp] theorem Dev.dropUnfit_hbm (d : Dev) (p : StandPlan) : (Dev.dropUnfit d p).mem.hbm = d.mem.hbm := by
  unfold Dev.dropUnfit; simp

@[simp] theorem Dev.rebind_hbm (d : Dev) (p : StandPlan) : (Dev.rebind d p).mem.hbm = d.mem.hbm := by
  unfold Dev.rebind; simp

@[simp] theorem Dev.reschedule_hbm (d : Dev) (p : StandPlan) (changed : BitVec 16) (pos : Nat) : (Dev.reschedule d p changed pos).mem.hbm = d.mem.hbm := by
  unfold Dev.reschedule; simp

@[simp] theorem Dev.endEngineResets_hbm (d : Dev) (n : Nat) (tiles : List Nat) : (Dev.endEngineResets d n tiles).mem.hbm = d.mem.hbm := by
  unfold Dev.endEngineResets; simp

@[simp] theorem Dev.recable_hbm (d : Dev) (a p : StandPlan) : (Dev.recable d a p).mem.hbm = d.mem.hbm := by
  unfold Dev.recable; simp

@[simp] theorem Dev.tapLeaves_hbm (d : Dev) : (Dev.tapLeaves d).mem.hbm = d.mem.hbm := by
  unfold Dev.tapLeaves; simp

@[simp] theorem Dev.remeasureAll_hbm (d : Dev) : (Dev.remeasureAll d).mem.hbm = d.mem.hbm := by
  unfold Dev.remeasureAll; simp

@[simp] theorem Dev.commitsEnded_hbm (d : Dev) : (Dev.commitsEnded d).mem.hbm = d.mem.hbm := by
  unfold Dev.commitsEnded; simp

@[simp] theorem Dev.takeImages_hbm (d : Dev) (images : List FwImage) : (Dev.takeImages d images).mem.hbm = d.mem.hbm := by
  unfold Dev.takeImages; (try dsimp only); repeat' first | rfl | split | rw [foldl_hbm] | rw [foldlp_hbm] | intro
  all_goals first | rfl | simp

@[simp] theorem Dev.signQuote_hbm (d : Dev) (nonce : B256) : (Dev.signQuote d nonce).1.mem.hbm = d.mem.hbm := by
  unfold Dev.signQuote; simp

@[simp] theorem Dev.startFirmware_hbm (d : Dev) : (Dev.startFirmware d).mem.hbm = d.mem.hbm := by
  unfold Dev.startFirmware; simp

@[simp] theorem Dev.makeRoot_hbm (d : Dev) : (Dev.makeRoot d).mem.hbm = d.mem.hbm := by
  unfold Dev.makeRoot; simp

@[simp] theorem Dev.drawDieKeys_hbm (d : Dev) : (Dev.drawDieKeys d).mem.hbm = d.mem.hbm := by
  unfold Dev.drawDieKeys; simp

@[simp] theorem Dev.boot_hbm (d : Dev) : (Dev.boot d).mem.hbm = d.mem.hbm := by
  unfold Dev.boot; simp

@[simp] theorem Dev.tapGate_hbm (d : Dev) : (Dev.tapGate d).mem.hbm = d.mem.hbm := by
  unfold Dev.tapGate; simp

@[simp] theorem Dev.destroyAll_hbm (d : Dev) : (Dev.destroyAll d).mem.hbm = d.mem.hbm := by
  unfold Dev.destroyAll; simp

@[simp] theorem Dev.progEnd_hbm (d : Dev) (t : Nat) : (Dev.progEnd d t).mem.hbm = d.mem.hbm := by
  unfold Dev.progEnd; (try dsimp only); repeat' first | rfl | split | rw [foldl_hbm] | rw [foldlp_hbm] | intro
  all_goals first | rfl | simp

@[simp] theorem Dev.checkRanges_hbm (d : Dev) (o : Obj) (rs : List (Nat × Nat)) : (Dev.checkRanges d o rs).1.mem.hbm = d.mem.hbm := by
  unfold Dev.checkRanges; simp

@[simp] theorem Dev.hurry_hbm (d : Dev) (f r ra n : Nat) : (Dev.hurry d f r ra n).mem.hbm = d.mem.hbm := by
  unfold Dev.hurry; simp

@[simp] theorem Dev.hurryPieces_hbm (d : Dev) (o : Obj) (ws : List (Nat × List Byte)) : (Dev.hurryPieces d o ws).mem.hbm = d.mem.hbm := by
  unfold Dev.hurryPieces; simp

@[simp] theorem Dev.tryRead_hbm (d : Dev) (n : Nat) (who : Option (Nat × Word)) (h : Word) (o : Obj) (rs : List (Nat × Nat)) : (Dev.tryRead d n who h o rs).1.mem.hbm = d.mem.hbm := by
  unfold Dev.tryRead; (try dsimp only); repeat' first | rfl | split | rw [foldl_hbm] | rw [foldlp_hbm] | intro
  all_goals first | rfl | simp

@[simp] theorem Dev.stripe_hbm (d : Dev) (ls : List Nat) (fs : List TxFlit) : (Dev.stripe d ls fs).mem.hbm = d.mem.hbm := by
  unfold Dev.stripe; (try dsimp only); repeat' first | rfl | split | rw [foldl_hbm] | rw [foldlp_hbm] | intro
  all_goals first | rfl | simp

@[simp] theorem Dev.acked_hbm (d : Dev) (l : Nat) (ack : Word) : (Dev.acked d l ack).mem.hbm = d.mem.hbm := by
  unfold Dev.acked; simp

@[simp] theorem Dev.moveFlit_hbm (d : Dev) (l : Nat) (g : Byte) (f : TxFlit) : (Dev.moveFlit d l g f).mem.hbm = d.mem.hbm := by
  unfold Dev.moveFlit; simp

@[simp] theorem Dev.takeDown_hbm (d : Dev) (l : Nat) : (Dev.takeDown d l).mem.hbm = d.mem.hbm := by
  unfold Dev.takeDown; simp

@[simp] theorem Dev.linkFails_hbm (d : Dev) (l : Nat) : (Dev.linkFails d l).mem.hbm = d.mem.hbm := by
  unfold Dev.linkFails; simp

@[simp] theorem Dev.sendNak_hbm (d : Dev) (l : Nat) : (Dev.sendNak d l).mem.hbm = d.mem.hbm := by
  unfold Dev.sendNak; simp

@[simp] theorem Dev.tagFails_hbm (d : Dev) (l : Nat) (tagOk : Bool) : (Dev.tagFails d l tagOk).mem.hbm = d.mem.hbm := by
  unfold Dev.tagFails; simp

@[simp] theorem Dev.takeFlit_hbm (d : Dev) (l : Nat) (h : FlitHdr) (credit : Bool) : (Dev.takeFlit d l h credit).mem.hbm = d.mem.hbm := by
  unfold Dev.takeFlit; simp

@[simp] theorem Dev.dropStale_hbm (d : Dev) (l : Nat) (h : FlitHdr) (cur : BitVec 12) : (Dev.dropStale d l h cur).mem.hbm = d.mem.hbm := by
  unfold Dev.dropStale; simp

@[simp] theorem Dev.countDeny_hbm (d : Dev) : (Dev.countDeny d).mem.hbm = d.mem.hbm := rfl

@[simp] theorem Dev.denyFlow_hbm (d : Dev) (l : Nat) (h : FlitHdr) : (Dev.denyFlow d l h).mem.hbm = d.mem.hbm := by
  unfold Dev.denyFlow; simp

@[simp] theorem Dev.receive_hbm (d : Dev) (l : Nat) (h : FlitHdr) (tagOk : Bool) (allowed : Dev → Bool) (eff : Dev → Dev) (heff : ∀ x0, (eff x0).mem.hbm = x0.mem.hbm) : (Dev.receive d l h tagOk allowed eff).mem.hbm = d.mem.hbm := by
  unfold Dev.receive; (try dsimp only); repeat' split
  all_goals simp_all

@[simp] theorem Dev.lcsAnswer_hbm (d : Dev) (r : BitVec 4) : (Dev.lcsAnswer d r).mem.hbm = d.mem.hbm := by
  unfold Dev.lcsAnswer; simp

@[simp] theorem Dev.dbgAnswer_hbm (d : Dev) (r : BitVec 4) : (Dev.dbgAnswer d r).mem.hbm = d.mem.hbm := by
  unfold Dev.dbgAnswer; simp

@[simp] theorem doDbgChallenge_hbm (scope : Byte) (d : Dev) : (doDbgChallenge scope d).mem.hbm = d.mem.hbm := by
  unfold doDbgChallenge; simp

@[simp] theorem Dev.reopen_hbm (d : Dev) (scope : Byte) : (Dev.reopen d scope).mem.hbm = d.mem.hbm := by
  unfold Dev.reopen; simp

@[simp] theorem doDbgOpen_hbm (r : DbgResp) (d : Dev) : (doDbgOpen r d).mem.hbm = d.mem.hbm := by
  unfold doDbgOpen; (try dsimp only); repeat' first | rfl | split | rw [foldl_hbm] | rw [foldlp_hbm] | intro
  all_goals first | rfl | simp

@[simp] theorem doDebugScopeOpen_hbm (d : Dev) : (doDebugScopeOpen d).mem.hbm = d.mem.hbm := by
  unfold doDebugScopeOpen; (try dsimp only); repeat' first | rfl | split | rw [foldl_hbm] | rw [foldlp_hbm] | intro
  all_goals first | rfl | simp

@[simp] theorem doDbgReturn_hbm (r : DbgResp) (d : Dev) : (doDbgReturn r d).mem.hbm = d.mem.hbm := by
  unfold doDbgReturn; (try dsimp only); repeat' first | rfl | split | rw [foldl_hbm] | rw [foldlp_hbm] | intro
  all_goals first | rfl | simp

@[simp] theorem Dev.tapSelect_hbm (d : Dev) (code : Byte) (f : Dev → Dev) (hf : ∀ x0, (f x0).mem.hbm = x0.mem.hbm) : (Dev.tapSelect d code f).mem.hbm = d.mem.hbm := by
  unfold Dev.tapSelect; (try dsimp only); repeat' first | rfl | split | rw [foldl_hbm] | rw [foldlp_hbm] | intro
  all_goals (try dsimp only)
  all_goals repeat' split
  all_goals simp_all

@[simp] theorem doSamplePreload_hbm (preload : Option (List Bool)) (d : Dev) : (doSamplePreload preload d).mem.hbm = d.mem.hbm := by
  unfold doSamplePreload; simp

@[simp] theorem doMemread_hbm (h : Word) (off : Nat) (st : Status) (d : Dev) : (doMemread h off st d).mem.hbm = d.mem.hbm := by
  unfold doMemread; simp

@[simp] theorem doTraceTriggerEdge_hbm (heldNs : Nat) (d : Dev) : (doTraceTriggerEdge heldNs d).mem.hbm = d.mem.hbm := by
  unfold doTraceTriggerEdge; simp

@[simp] theorem Dev.readChunk_hbm (d : Dev) (key : Nat) : (Dev.readChunk d key).1.mem.hbm = d.mem.hbm := by
  unfold Dev.readChunk; (try dsimp only); repeat' first | rfl | split | rw [foldl_hbm] | rw [foldlp_hbm] | intro
  all_goals first | rfl | simp

@[simp] theorem Dev.pullSet_hbm (d : Dev) (l : Nat) (w : SendSet) : (Dev.pullSet d l w).mem.hbm = d.mem.hbm := by
  unfold Dev.pullSet; dsimp only
  split
  · split
    · rename_i h
      have hk := congrArg (fun x => x.1.mem.hbm) h
      simpa using hk.symm
    · rename_i h
      have hk := congrArg (fun x => x.1.mem.hbm) h
      simp at hk
      simp [hk]
  · split <;> simp

@[simp] theorem Dev.pullStrand_hbm (d : Dev) (l : Nat) : (Dev.pullStrand d l).mem.hbm = d.mem.hbm := by
  unfold Dev.pullStrand; (try dsimp only); repeat' first | rfl | split | rw [foldl_hbm] | rw [foldlp_hbm] | intro
  all_goals first | rfl | simp

@[simp] theorem Dev.sendManifests_hbm (d : Dev) (addr : BitVec 20) : (Dev.sendManifests d addr).mem.hbm = d.mem.hbm := by
  unfold Dev.sendManifests; simp

@[simp] theorem doManifestSend_hbm (d : Dev) : (doManifestSend d).mem.hbm = d.mem.hbm := by
  unfold doManifestSend; (try dsimp only); repeat' first | rfl | split | rw [foldl_hbm] | rw [foldlp_hbm] | intro
  all_goals first | rfl | simp

@[simp] theorem Dev.endMarks_hbm (d : Dev) (a : BitVec 16) (inst : Word) : (Dev.endMarks d a inst).mem.hbm = d.mem.hbm := by
  unfold Dev.endMarks; simp

@[simp] theorem Dev.endRuns_hbm (d : Dev) (a : BitVec 16) : (Dev.endRuns d a).mem.hbm = d.mem.hbm := by
  unfold Dev.endRuns; simp

@[simp] theorem Dev.endStage_hbm (d : Dev) (k : Nat) : (Dev.endStage d k).mem.hbm = d.mem.hbm := by
  unfold Dev.endStage; (try dsimp only); repeat' first | rfl | split | rw [foldl_hbm] | rw [foldlp_hbm] | intro
  all_goals first | rfl | simp

@[simp] theorem Dev.settleStage_hbm (d : Dev) : (Dev.settleStage d).mem.hbm = d.mem.hbm := by
  unfold Dev.settleStage; (try dsimp only); repeat' first | rfl | split | rw [foldl_hbm] | rw [foldlp_hbm] | intro
  all_goals first | rfl | simp

@[simp] theorem Dev.updateTau_hbm (d : Dev) : (Dev.updateTau d).mem.hbm = d.mem.hbm := by
  unfold Dev.updateTau; (try dsimp only); repeat' first | rfl | split | rw [foldl_hbm] | rw [foldlp_hbm] | intro
  all_goals first | rfl | simp

@[simp] theorem doSaveDone_hbm (saveMs : Nat) (d : Dev) : (doSaveDone saveMs d).mem.hbm = d.mem.hbm := by
  unfold doSaveDone; (try dsimp only); repeat' first | rfl | split | rw [foldl_hbm] | rw [foldlp_hbm] | intro
  all_goals first | rfl | simp

@[simp] theorem Dev.sendLoss_hbm (d : Dev) (inst : Word) (w : AW) (addr : BitVec 20) : (Dev.sendLoss d inst w addr).mem.hbm = d.mem.hbm := by
  unfold Dev.sendLoss; simp

@[simp] theorem doLossWordRecord_hbm (d : Dev) : (doLossWordRecord d).mem.hbm = d.mem.hbm := by
  unfold doLossWordRecord; (try dsimp only); repeat' first | rfl | split | rw [foldl_hbm] | rw [foldlp_hbm] | intro
  all_goals first | rfl | simp

@[simp] theorem doLossVerify_hbm (inst : Word) (d : Dev) : (doLossVerify inst d).mem.hbm = d.mem.hbm := by
  unfold doLossVerify; (try dsimp only); repeat' first | rfl | split | rw [foldl_hbm] | rw [foldlp_hbm] | intro
  all_goals first | rfl | simp

@[simp] theorem Dev.dropDeep_hbm (d : Dev) (a : BitVec 16) : (Dev.dropDeep d a).mem.hbm = d.mem.hbm := by
  unfold Dev.dropDeep; simp

@[simp] theorem Dev.runStrandMark_hbm (d : Dev) (p : StandPlan) (q : Nat) (c : Cmd) (a : PlanAct) : (Dev.runStrandMark d p q c a).mem.hbm = d.mem.hbm := by
  unfold Dev.runStrandMark; simp

@[simp] theorem doStrandlineMark_hbm (q : Nat) (seq : Word) (d : Dev) : (doStrandlineMark q seq d).mem.hbm = d.mem.hbm := by
  unfold doStrandlineMark; (try dsimp only); repeat' first | rfl | split | rw [foldl_hbm] | rw [foldlp_hbm] | intro
  all_goals first | rfl | simp

@[simp] theorem Dev.deepRecords_hbm (index : Word) (ks : List Nat) (d : Dev) :
    (Dev.deepRecords index ks d).1.mem.hbm = d.mem.hbm := by
  induction ks generalizing d with
  | nil => rfl
  | cons k ks ih =>
    unfold Dev.deepRecords
    split
    · rename_i h
      have hk := congrArg (fun x => x.1.mem.hbm) h
      simpa using hk.symm
    · rename_i e _ h
      have hk := congrArg (fun x => x.1.mem.hbm) h
      simp at hk
      have hi := ih e
      split
      all_goals
        rename_i h2
        have h3 := congrArg (fun x => x.1.mem.hbm) h2
        simp [hi] at h3
        simp [hk, h3]

@[simp] theorem doDeepStrandlineDone_hbm (q : Nat) (seq : Word) (d : Dev) : (doDeepStrandlineDone q seq d).mem.hbm = d.mem.hbm := by
  unfold doDeepStrandlineDone; dsimp only
  split
  · split
    · split
      · rename_i h
        have hk := congrArg (fun x => x.1.mem.hbm) h
        simpa using hk.symm
      · rename_i h
        have hk := congrArg (fun x => x.1.mem.hbm) h
        simp at hk
        simp [hk]
    · rfl
  · rfl

@[simp] theorem Dev.storeStrand_hbm (d : Dev) (p : Nat) (clearing part off : Nat) (bs : List Byte) (index : Word) (last : Bool) : (Dev.storeStrand d p clearing part off bs index last).mem.hbm = d.mem.hbm := by
  unfold Dev.storeStrand; simp

@[simp] theorem Dev.takeStrand_hbm (d : Dev) (addr : BitVec 20) (clearing part : Nat) (fill : Bool) (off : Nat) (bs : List Byte) (index : Word) (last : Bool) : (Dev.takeStrand d addr clearing part fill off bs index last).mem.hbm = d.mem.hbm := by
  unfold Dev.takeStrand; (try dsimp only); repeat' first | rfl | split | rw [foldl_hbm] | rw [foldlp_hbm] | intro
  all_goals first | rfl | simp

@[simp] theorem doStrandFlit_hbm (l : Nat) (h : FlitHdr) (tagOk : Bool) (clearing part : Nat) (fill : Bool) (off : Nat) (bs : List Byte) (index : Word) (last : Bool) (d : Dev) : (doStrandFlit l h tagOk clearing part fill off bs index last d).mem.hbm = d.mem.hbm := by
  unfold doStrandFlit; dsimp only
  rw [Dev.settleStage_hbm, Dev.receive_hbm]
  intro e
  split <;> simp

@[simp] theorem Dev.stlResult_hbm (d : Dev) (res : BitVec 4) (op : BitVec 3) (clearing : Byte) : (Dev.stlResult d res op clearing).mem.hbm = d.mem.hbm := by
  unfold Dev.stlResult; simp

@[simp] theorem Dev.stlCmd_hbm (d : Dev) (op : BitVec 3) (f : Dev → Dev) (hf : ∀ x0, (f x0).mem.hbm = x0.mem.hbm) : (Dev.stlCmd d op f).mem.hbm = d.mem.hbm := by
  unfold Dev.stlCmd; (try dsimp only); repeat' first | rfl | split | rw [foldl_hbm] | rw [foldlp_hbm] | intro
  all_goals (try dsimp only)
  all_goals repeat' split
  all_goals simp_all

@[simp] theorem Dev.dropSaves_hbm (d : Dev) : (Dev.dropSaves d).mem.hbm = d.mem.hbm := by
  unfold Dev.dropSaves; simp

@[simp] theorem Dev.beginRestore_hbm (d : Dev) (st : StlSt) (op : BitVec 3) : (Dev.beginRestore d st op).mem.hbm = d.mem.hbm := by
  unfold Dev.beginRestore; simp

@[simp] theorem doRollback_hbm (d : Dev) : (doRollback d).mem.hbm = d.mem.hbm := by
  unfold doRollback; simp

@[simp] theorem doTakeover_hbm (d : Dev) : (doTakeover d).mem.hbm = d.mem.hbm := by
  unfold doTakeover
  rw [Dev.stlCmd_hbm]
  intro e
  repeat' split
  all_goals simp

@[simp] theorem doResume_hbm (d : Dev) : (doResume d).mem.hbm = d.mem.hbm := by
  unfold doResume
  rw [Dev.stlCmd_hbm]
  intro e
  dsimp only
  repeat' split
  all_goals simp

@[simp] theorem doRestoreDeep_hbm (d : Dev) : (doRestoreDeep d).mem.hbm = d.mem.hbm := by
  unfold doRestoreDeep; simp

@[simp] theorem Dev.sealRestored_hbm (d : Dev) (p : StandPlan) (n : Nat) (bs : List (Nat × Byte)) : (Dev.sealRestored d p n bs).mem.hbm = d.mem.hbm := by
  unfold Dev.sealRestored; (try dsimp only); repeat' first | rfl | split | rw [foldl_hbm] | rw [foldlp_hbm] | intro
  all_goals first | rfl | simp

@[simp] theorem Dev.restoreObjs_hbm (d : Dev) (n : Nat) (os : List (Nat × BitVec 12 × Nat × Nat × Nat × BitVec 16)) : (Dev.restoreObjs d n os).mem.hbm = d.mem.hbm := by
  unfold Dev.restoreObjs; simp

@[simp] theorem Dev.roleClr_hbm (d : Dev) (x : RestoreImage) : (Dev.roleClr d x).mem.hbm = d.mem.hbm := by
  unfold Dev.roleClr; simp

@[simp] theorem Dev.restoreFences_hbm (d : Dev) (fs : List FenceRecord) : (Dev.restoreFences d fs).mem.hbm = d.mem.hbm := by
  unfold Dev.restoreFences; simp

@[simp] theorem Dev.sendEnvelope_hbm (d : Dev) (addr : BitVec 64) (k : Nat × Nat × Nat) (payload : List Byte) : (Dev.sendEnvelope d addr k payload).mem.hbm = d.mem.hbm := by
  unfold Dev.sendEnvelope; simp

@[simp] theorem Dev.decodeProgram_hbm (d : Dev) (n q : Nat) (c : Cmd) : (Dev.decodeProgram d n q c).mem.hbm = d.mem.hbm := by
  unfold Dev.decodeProgram; dsimp only
  split
  · simp
  · split
    · rename_i h
      have hk := congrArg (fun x => x.1.mem.hbm) h
      simpa using hk.symm
    · rename_i h
      have hk := congrArg (fun x => x.1.mem.hbm) h
      simp at hk
      repeat' split
      all_goals simp [hk]

@[simp] theorem Dev.installProgram_hbm (d : Dev) (n q : Nat) (c : Cmd) : (Dev.installProgram d n q c).mem.hbm = d.mem.hbm := by
  unfold Dev.installProgram; simp

@[simp] theorem doSweepProgram_hbm (q : Nat) (seq : Word) (d : Dev) : (doSweepProgram q seq d).mem.hbm = d.mem.hbm := by
  unfold doSweepProgram; (try dsimp only); repeat' first | rfl | split | rw [foldl_hbm] | rw [foldlp_hbm] | intro
  all_goals first | rfl | simp

@[simp] theorem Dev.issueSweep_hbm (d : Dev) (t : Nat) (g : Prog) (idx : Nat) (i : SwInstr) (init : Bool) (slot k : Nat) : (Dev.issueSweep d t g idx i init slot k).mem.hbm = d.mem.hbm := by
  unfold Dev.issueSweep; simp

@[simp] theorem doSweep_hbm (t : Nat) (d : Dev) : (doSweep t d).mem.hbm = d.mem.hbm := by
  unfold doSweep; (try dsimp only); repeat' first | rfl | split | rw [foldl_hbm] | rw [foldlp_hbm] | intro
  all_goals first | rfl | simp

@[simp] theorem doAccAdd_hbm (t : Nat) (d : Dev) : (doAccAdd t d).mem.hbm = d.mem.hbm := by
  unfold doAccAdd; (try dsimp only); repeat' first | rfl | split | rw [foldl_hbm] | rw [foldlp_hbm] | intro
  all_goals first | rfl | simp

@[simp] theorem Dev.commitWords_hbm (d : Dev) (g : Prog) (f : Flight) (outs : List (Nat × List ElemRes)) : (Dev.commitWords d g f outs).mem.hbm = d.mem.hbm := by
  unfold Dev.commitWords; simp

@[simp] theorem Dev.strictStarts_hbm (d : Dev) (g : Prog) (f : Flight) : (Dev.strictStarts d g f).mem.hbm = d.mem.hbm := by
  unfold Dev.strictStarts; simp

@[simp] theorem Dev.commitFlight_hbm (d : Dev) (t : Nat) (g : Prog) (f : Flight) (outs : List (Nat × List ElemRes)) : (Dev.commitFlight d t g f outs).mem.hbm = d.mem.hbm := by
  unfold Dev.commitFlight; (try dsimp only); repeat' first | rfl | split | rw [foldl_hbm] | rw [foldlp_hbm] | intro
  all_goals first | rfl | simp

@[simp] theorem Dev.replayFlight_hbm (d : Dev) (t : Nat) (g : Prog) (f : Flight) (outs : List (Nat × List ElemRes)) : (Dev.replayFlight d t g f outs).mem.hbm = d.mem.hbm := by
  unfold Dev.replayFlight; simp

@[simp] theorem doSweepCommit_hbm (t : Nat) (d : Dev) : (doSweepCommit t d).mem.hbm = d.mem.hbm := by
  unfold doSweepCommit; (try dsimp only); repeat' first | rfl | split | rw [foldl_hbm] | rw [foldlp_hbm] | intro
  all_goals first | rfl | simp

@[simp] theorem Dev.endEpilogue_hbm (d : Dev) (t : Nat) (g : Prog) (idx : Nat) (i : SwInstr) : (Dev.endEpilogue d t g idx i).mem.hbm = d.mem.hbm := by
  unfold Dev.endEpilogue; (try dsimp only); repeat' first | rfl | split | rw [foldl_hbm] | rw [foldlp_hbm] | intro
  all_goals first | rfl | simp

@[simp] theorem doEpilogueDone_hbm (t : Nat) (d : Dev) : (doEpilogueDone t d).mem.hbm = d.mem.hbm := by
  unfold doEpilogueDone; (try dsimp only); repeat' first | rfl | split | rw [foldl_hbm] | rw [foldlp_hbm] | intro
  all_goals first | rfl | simp

@[simp] theorem Dev.startMove_hbm (d : Dev) (t idx : Nat) (st : Status) (det : Detail) (info : BitVec 64) : (Dev.startMove d t idx st det info).mem.hbm = d.mem.hbm := by
  unfold Dev.startMove; simp

@[simp] theorem Dev.failMove_hbm (d d₀ : Dev) (t : Nat) (g : Prog) (idx : Nat) (x : Hit) (info : BitVec 64) : (Dev.failMove d d₀ t g idx x info).mem.hbm = d.mem.hbm := by
  unfold Dev.failMove; simp

@[simp] theorem Dev.moveNotes_hbm (d : Dev) (t : Nat) (g : Prog) (idx : Nat) (sr : Bool) (y : Conv × Nat) : (Dev.moveNotes d t g idx sr y).mem.hbm = d.mem.hbm := by
  unfold Dev.moveNotes; simp

@[simp] theorem Dev.runLoad_hbm (d : Dev) (t : Nat) (g : Prog) (idx : Nat) (i : SwInstr) : (Dev.runLoad d t g idx i).mem.hbm = d.mem.hbm := by
  unfold Dev.runLoad; dsimp only
  split
  · split
    · rename_i h
      have hk := congrArg (fun x => x.1.mem.hbm) h
      simpa using hk.symm
    · rename_i h
      have hk := congrArg (fun x => x.1.mem.hbm) h
      simp at hk
      repeat' split
      all_goals simp [hk]
  · rfl

@[simp] theorem doLoad_hbm (t idx : Nat) (d : Dev) : (doLoad t idx d).mem.hbm = d.mem.hbm := by
  unfold doLoad; (try dsimp only); repeat' first | rfl | split | rw [foldl_hbm] | rw [foldlp_hbm] | intro
  all_goals first | rfl | simp

@[simp] theorem doMoverTransferDone_hbm (t idx : Nat) (d : Dev) : (doMoverTransferDone t idx d).mem.hbm = d.mem.hbm := by
  unfold doMoverTransferDone; (try dsimp only); repeat' first | rfl | split | rw [foldl_hbm] | rw [foldlp_hbm] | intro
  all_goals first | rfl | simp

@[simp] theorem Dev.fillSlot_hbm (d : Dev) (slot idx elem : Nat) (ws : List AW) : (Dev.fillSlot d slot idx elem ws).mem.hbm = d.mem.hbm := by
  unfold Dev.fillSlot; simp

@[simp] theorem Dev.sendChunk_hbm (d : Dev) (x : Xfer) (c : TxChunk) : (Dev.sendChunk d x c).1.mem.hbm = d.mem.hbm := by
  unfold Dev.sendChunk; simp

@[simp] theorem Dev.pumpOne_hbm (d : Dev) (x : Xfer) : (Dev.pumpOne d x).mem.hbm = d.mem.hbm := by
  unfold Dev.pumpOne; simp

@[simp] theorem Dev.pump_hbm (d : Dev) : (Dev.pump d).mem.hbm = d.mem.hbm := by
  unfold Dev.pump; simp

@[simp] theorem Dev.endXfer_hbm (d : Dev) (q : Nat) (seq : Word) : (Dev.endXfer d q seq).mem.hbm = d.mem.hbm := by
  unfold Dev.endXfer; (try dsimp only); repeat' first | rfl | split | rw [foldl_hbm] | rw [foldlp_hbm] | intro
  all_goals first | rfl | simp

@[simp] theorem Dev.endXfers_hbm (d : Dev) : (Dev.endXfers d).mem.hbm = d.mem.hbm := by
  unfold Dev.endXfers; simp

@[simp] theorem Dev.failXfer_hbm (d : Dev) (q : Nat) (seq : Word) (st : Status) (info : BitVec 64) : (Dev.failXfer d q seq st info).mem.hbm = d.mem.hbm := by
  unfold Dev.failXfer; simp

@[simp] theorem Dev.beginXfer_hbm (d : Dev) (n q : Nat) (c : Cmd) (a : CollArgs) (ins : List StageIn) (ws : List TxChunk) (trapped : Bool) : (Dev.beginXfer d n q c a ins ws trapped).mem.hbm = d.mem.hbm := by
  unfold Dev.beginXfer; simp

@[simp] theorem Dev.collSourceCodes_hbm (d : Dev) (n q : Nat) (c : Cmd) (a : CollArgs) : (Dev.collSourceCodes d n q c a).1.mem.hbm = d.mem.hbm := by
  unfold Dev.collSourceCodes; dsimp only
  split
  · split <;> rfl
  · split
    · rename_i h
      have hk := congrArg (fun x => x.1.mem.hbm) h
      simpa using hk.symm
    · rename_i h
      have hk := congrArg (fun x => x.1.mem.hbm) h
      simpa using hk.symm

@[simp] theorem doCombineDone_hbm (q : Nat) (seq : Word) (d : Dev) : (doCombineDone q seq d).mem.hbm = d.mem.hbm := by
  unfold doCombineDone; (try dsimp only); repeat' first | rfl | split | rw [foldl_hbm] | rw [foldlp_hbm] | intro
  all_goals first | rfl | simp

@[simp] theorem Dev.nextChunk_hbm (d : Dev) (q : Nat) (seq : Word) : (Dev.nextChunk d q seq).mem.hbm = d.mem.hbm := by
  unfold Dev.nextChunk; simp

@[simp] theorem Dev.transmit_hbm (d : Dev) (l : Nat) (f : TxFlit) : (Dev.transmit d l f).mem.hbm = d.mem.hbm := by
  unfold Dev.transmit; simp

theorem Dev.sendFirst_hbm (d : Dev) (l : Nat) (p : TxFlit → Bool) (e : Dev) (he : d.sendFirst l p = some e) :
    e.mem.hbm = d.mem.hbm := by
  unfold Dev.sendFirst at he; dsimp only at he
  split at he
  · injection he with he; subst he; simp
  · cases he

theorem Dev.sendCredit_hbm (d : Dev) (l : Nat) (e : Dev) (he : d.sendCredit l = some e) : e.mem.hbm = d.mem.hbm := by
  unfold Dev.sendCredit at he; dsimp only at he
  split at he
  · cases he
  · injection he with he; subst he; simp

theorem Dev.sendCtrlSlot_hbm (d : Dev) (l : Nat) (e : Dev) (he : d.sendCtrlSlot l = some e) : e.mem.hbm = d.mem.hbm := by
  unfold Dev.sendCtrlSlot at he
  split at he
  · rename_i h; injection he with he; subst he; exact Dev.sendFirst_hbm _ _ _ _ h
  · exact Dev.sendCredit_hbm _ _ _ he

theorem Dev.slotFlit_hbm (d : Dev) (l : Nat) (x : PlanLink) (fs : List Byte) (i : Nat) (e : Dev)
    (he : d.slotFlit l x fs i = some e) : e.mem.hbm = d.mem.hbm := by
  unfold Dev.slotFlit at he
  split at he
  · split at he
    · split at he
      · cases he
      · exact Dev.sendFirst_hbm _ _ _ _ he
    · cases he
  · split at he
    · exact Dev.sendFirst_hbm _ _ _ _ he
    · cases he
  · exact Dev.sendCtrlSlot_hbm _ _ _ he
  · cases he

theorem Dev.resendOne_hbm (d : Dev) (l : Nat) (e : Dev) (he : d.resendOne l = some e) : e.mem.hbm = d.mem.hbm := by
  unfold Dev.resendOne at he
  split at he
  · injection he with he; subst he; simp
  · cases he

@[simp] theorem Dev.emptySlot_hbm (d : Dev) (l : Nat) : (Dev.emptySlot d l).mem.hbm = d.mem.hbm := by
  unfold Dev.emptySlot; dsimp only
  repeat' split
  all_goals first | (simp; done) | (rename_i h; exact Dev.resendOne_hbm _ _ _ h)

@[simp] theorem Dev.sendTideFlit_hbm (d : Dev) (l : Nat) : (Dev.sendTideFlit d l).mem.hbm = d.mem.hbm := by
  unfold Dev.sendTideFlit; simp

theorem getD_hbm (o : Option Dev) (d0 : Dev) (h : ∀ e, o = some e → e.mem.hbm = d0.mem.hbm) (d : Dev) (hd : d.mem.hbm = d0.mem.hbm) :
    (o.getD d).mem.hbm = d0.mem.hbm := by
  cases o with
  | none => exact hd
  | some e => exact h e rfl

@[simp] theorem Dev.carrySlot_hbm (d : Dev) (l : Nat) (x : PlanLink) (fs : List Byte) (i : Nat) :
    (d.carrySlot l x fs i).mem.hbm = d.mem.hbm := by
  unfold Dev.carrySlot; dsimp only
  split
  · split <;> simp
  · split
    · split
      · exact (getD_hbm _ _ (fun e h => Dev.resendOne_hbm _ _ _ h) _ rfl).trans (by simp)
      · simp
    · split
      · split <;> simp
      · split
        · rename_i h
          rw [Dev.slotFlit_hbm _ _ _ _ _ _ h]
          split <;> simp
        · split <;> simp

@[simp] theorem Dev.ctrlSlot_hbm (d : Dev) (l : Nat) : (d.ctrlSlot l).mem.hbm = d.mem.hbm := by
  unfold Dev.ctrlSlot
  split
  · exact getD_hbm _ _ (fun e h => Dev.resendOne_hbm _ _ _ h) _ rfl
  · split
    · simp
    · split
      · rename_i h; exact Dev.sendCtrlSlot_hbm _ _ _ h
      · simp

@[simp] theorem Dev.criticalSlot_hbm (d : Dev) (l : Nat) : (d.criticalSlot l).mem.hbm = d.mem.hbm := by
  unfold Dev.criticalSlot; dsimp only
  split
  · simp
  · split
    · simp
    · exact getD_hbm _ _ (fun e h => Dev.sendCtrlSlot_hbm _ _ _ h) _ (by simp)

@[simp] theorem doFlitSlotSend_hbm (l : Nat) (d : Dev) : (doFlitSlotSend l d).mem.hbm = d.mem.hbm := by
  unfold doFlitSlotSend; (try dsimp only); repeat' first | rfl | split | rw [foldl_hbm] | rw [foldlp_hbm] | intro
  all_goals first | rfl | simp

@[simp] theorem doLinkTrainingStart_hbm (l : Nat) (d : Dev) : (doLinkTrainingStart l d).mem.hbm = d.mem.hbm := by
  unfold doLinkTrainingStart; simp

@[simp] theorem doOpticalTrainingDone_hbm (l : Nat) (failed : BitVec 9) (d : Dev) : (doOpticalTrainingDone l failed d).mem.hbm = d.mem.hbm := by
  unfold doOpticalTrainingDone; simp

@[simp] theorem Dev.sendHello_hbm (d : Dev) (l : Nat) : (Dev.sendHello d l).mem.hbm = d.mem.hbm := by
  unfold Dev.sendHello; simp

@[simp] theorem doKeyx_hbm (l : Nat) (chainOk : Bool) (keys : B256) (transcript : B256) (d : Dev) : (doKeyx l chainOk keys transcript d).mem.hbm = d.mem.hbm := by
  unfold doKeyx; simp

@[simp] theorem Dev.rescue_hbm (d : Dev) (l : Nat) : (Dev.rescue d l).mem.hbm = d.mem.hbm := by
  unfold Dev.rescue; (try dsimp only); repeat' first | rfl | split | rw [foldl_hbm] | rw [foldlp_hbm] | intro
  all_goals first | rfl | simp

@[simp] theorem doHello_hbm (l : Nat) (h : Hello) (proofOk : Bool) (d : Dev) : (doHello l h proofOk d).mem.hbm = d.mem.hbm := by
  unfold doHello; simp

@[simp] theorem doLinkDown_hbm (l : Nat) (why : DownCause) (d : Dev) : (doLinkDown l why d).mem.hbm = d.mem.hbm := by
  unfold doLinkDown; (try dsimp only); repeat' first | rfl | split | rw [foldl_hbm] | rw [foldlp_hbm] | intro
  all_goals first | rfl | simp

@[simp] theorem doLinkRetrainTimer_hbm (l : Nat) (d : Dev) : (doLinkRetrainTimer l d).mem.hbm = d.mem.hbm := by
  unfold doLinkRetrainTimer; simp

@[simp] theorem doLnkRetrain_hbm (l : Nat) (d : Dev) : (doLnkRetrain l d).mem.hbm = d.mem.hbm := by
  unfold doLnkRetrain; simp

@[simp] theorem doLinkRekey_hbm (l : Nat) (d : Dev) : (doLinkRekey l d).mem.hbm = d.mem.hbm := by
  unfold doLinkRekey; simp

@[simp] theorem Dev.settleLinks_hbm (d : Dev) : (Dev.settleLinks d).mem.hbm = d.mem.hbm := by
  unfold Dev.settleLinks; simp

@[simp] theorem doCollFlit_hbm (l : Nat) (h : FlitHdr) (tagOk : Bool) (slot : BitVec 12) (chunk elem : Nat) (elems : List AW) (d : Dev) : (doCollFlit l h tagOk slot chunk elem elems d).mem.hbm = d.mem.hbm := by
  unfold doCollFlit; (try dsimp only)
  rw [Dev.settleLinks_hbm, Dev.receive_hbm]
  intro e
  simp

@[simp] theorem doCoverFlit_hbm (l : Nat) (h : FlitHdr) (tagOk reserved : Bool) (d : Dev) : (doCoverFlit l h tagOk reserved d).mem.hbm = d.mem.hbm := by
  unfold doCoverFlit; simp

@[simp] theorem Dev.control_hbm (d : Dev) (l : Nat) (f : Dev → Dev) (hf : ∀ x0, (f x0).mem.hbm = x0.mem.hbm) : (Dev.control d l f).mem.hbm = d.mem.hbm := by
  unfold Dev.control; (try dsimp only); repeat' first | rfl | split | rw [foldl_hbm] | rw [foldlp_hbm] | intro
  all_goals (try dsimp only)
  all_goals repeat' split
  all_goals simp_all

@[simp] theorem doNak_hbm (l : Nat) (seq : BitVec 48) (d : Dev) : (doNak l seq d).mem.hbm = d.mem.hbm := by
  unfold doNak; simp

@[simp] theorem doAck_hbm (l : Nat) (seq : BitVec 48) (d : Dev) : (doAck l seq d).mem.hbm = d.mem.hbm := by
  unfold doAck; simp

@[simp] theorem doAckIdleTimeout_hbm (l : Nat) (d : Dev) : (doAckIdleTimeout l d).mem.hbm = d.mem.hbm := by
  unfold doAckIdleTimeout; simp

@[simp] theorem doCredit_hbm (l : Nat) (perVc : List Nat) (slots : List (BitVec 12)) (d : Dev) : (doCredit l perVc slots d).mem.hbm = d.mem.hbm := by
  unfold doCredit; simp

@[simp] theorem doRoleUpdate_hbm (l : Nat) (es : List RoleEntry) (d : Dev) : (doRoleUpdate l es d).mem.hbm = d.mem.hbm := by
  unfold doRoleUpdate; simp

@[simp] theorem doStaleRole_hbm (l : Nat) (stream : BitVec 16) (kind : BitVec 2) (unit : Byte) (dropped cur : BitVec 12) (d : Dev) : (doStaleRole l stream kind unit dropped cur d).mem.hbm = d.mem.hbm := by
  unfold doStaleRole
  rw [Dev.control_hbm]
  intro e
  (try dsimp only)
  repeat' first | split | rw [Dev.checked_hbm] | rfl | intro
  all_goals first | rfl | simp

@[simp] theorem doFlowDenied_hbm (l : Nat) (stream : BitVec 16) (d : Dev) : (doFlowDenied l stream d).mem.hbm = d.mem.hbm := by
  unfold doFlowDenied
  rw [Dev.control_hbm]
  intro e
  (try dsimp only)
  repeat' first | split | rw [Dev.checked_hbm] | rfl | intro
  all_goals first | rfl | simp

@[simp] theorem doTransferTimeout_hbm (q : Nat) (seq : Word) (l : Nat) (d : Dev) : (doTransferTimeout q seq l d).mem.hbm = d.mem.hbm := by
  unfold doTransferTimeout; simp

@[simp] theorem Dev.issue_hbm (d : Dev) (k : Nat) (regs : List Dest) (f : LaunchSt → Ctx → Ctx) : (Dev.issue d k regs f).mem.hbm = d.mem.hbm := by
  unfold Dev.issue; (try dsimp only); repeat' first | rfl | split | rw [foldl_hbm] | rw [foldlp_hbm] | intro
  all_goals first | rfl | simp

@[simp] theorem Dev.undefinedInstr_hbm (d : Dev) (k : Nat) (regs : List Dest) (fault : Dev → Dev) (hfault : ∀ x0, (fault x0).mem.hbm = x0.mem.hbm) : (Dev.undefinedInstr d k regs fault).mem.hbm = d.mem.hbm := by
  unfold Dev.undefinedInstr; repeat' split
  all_goals simp_all

@[simp] theorem Dev.modLaunch_hbm (d : Dev) (id : Nat) (f : LaunchSt → LaunchSt) : (Dev.modLaunch d id f).mem.hbm = d.mem.hbm := by
  unfold Dev.modLaunch; simp

@[simp] theorem Dev.faultLaunch_hbm (d : Dev) (k : Nat) (st : Status) (det : Detail) (info : BitVec 64) : (Dev.faultLaunch d k st det info).mem.hbm = d.mem.hbm := by
  unfold Dev.faultLaunch; (try dsimp only); repeat' first | rfl | split | rw [foldl_hbm] | rw [foldlp_hbm] | intro
  all_goals first | rfl | simp

@[simp] theorem Dev.blameLaunch_hbm (d₀ d : Dev) (k : Nat) (st : Status) (det : Detail) (info : BitVec 64) :
    (Dev.blameLaunch d₀ d k st det info).mem.hbm = d.mem.hbm := by
  unfold Dev.blameLaunch; split <;> simp

@[simp] theorem defined_hbm (k : Nat) (reserved : Bool) (f : Dev → Dev) (d : Dev) (hf : ∀ x0, (f x0).mem.hbm = x0.mem.hbm) : (defined k reserved f d).mem.hbm = d.mem.hbm := by
  unfold defined; (try dsimp only); repeat' split
  all_goals simp_all

@[simp] theorem Dev.memIssue_hbm (d : Dev) (k : Nat) (regs : List Dest) (slot : Nat) (off : BitVec 64) (size align : Nat) (write : Bool) (dest : Dest) (kind : Ctx → AccKind) : (Dev.memIssue d k regs slot off size align write dest kind).mem.hbm = d.mem.hbm := by
  unfold Dev.memIssue; (try dsimp only); repeat' first | rfl | split | rw [foldl_hbm] | rw [foldlp_hbm] | intro
  all_goals first | rfl | simp

@[simp] theorem Dev.releaseBarrier_hbm (d : Dev) (id t : Nat) : (Dev.releaseBarrier d id t).mem.hbm = d.mem.hbm := by
  unfold Dev.releaseBarrier; simp

@[simp] theorem Dev.countSectors_hbm (d : Dev) (o : Obj) (offs : List Nat) : (Dev.countSectors d o offs).mem.hbm = d.mem.hbm := by
  unfold Dev.countSectors; simp

@[simp] theorem Dev.runSetOp_hbm (d : Dev) (t : Nat) (l : LaunchSt) (o : SetOp) : (Dev.runSetOp d t l o).mem.hbm = d.mem.hbm := by
  unfold Dev.runSetOp; dsimp only
  split
  · simp
  · split
    · split
      · simp
      · split
        · rename_i h
          have hk := congrArg (fun x => x.1.mem.hbm) h
          simp at hk
          split <;> simp [hk]
        · rename_i h
          have hk := congrArg (fun x => x.1.mem.hbm) h
          simpa using hk.symm
    · split <;> simp

@[simp] theorem Dev.runVuBlock_hbm (d : Dev) (t : Nat) (l : LaunchSt) (b : VuBlock) (code : List VuInstr) : (Dev.runVuBlock d t l b code).mem.hbm = d.mem.hbm := by
  unfold Dev.runVuBlock; simp

@[simp] theorem Dev.decodeLaunch_hbm (d : Dev) (n q : Nat) (c : Cmd) (ps : LaunchParams) : (Dev.decodeLaunch d n q c ps).mem.hbm = d.mem.hbm := by
  unfold Dev.decodeLaunch; (try dsimp only); repeat' first | rfl | split | rw [foldl_hbm] | rw [foldlp_hbm] | intro
  all_goals first | rfl | simp

@[simp] theorem doLaunch_hbm (q : Nat) (seq : Word) (ps : LaunchParams) (d : Dev) : (doLaunch q seq ps d).mem.hbm = d.mem.hbm := by
  unfold doLaunch; (try dsimp only); repeat' first | rfl | split | rw [foldl_hbm] | rw [foldlp_hbm] | intro
  all_goals first | rfl | simp

@[simp] theorem Dev.startLaunch_hbm (d : Dev) (n q : Nat) (c : Cmd) (ps : LaunchParams) : (Dev.startLaunch d n q c ps).mem.hbm = d.mem.hbm := by
  unfold Dev.startLaunch; simp

@[simp] theorem doLaunchStart_hbm (q : Nat) (seq : Word) (d : Dev) : (doLaunchStart q seq d).mem.hbm = d.mem.hbm := by
  unfold doLaunchStart; (try dsimp only); repeat' first | rfl | split | rw [foldl_hbm] | rw [foldlp_hbm] | intro
  all_goals first | rfl | simp

@[simp] theorem doLaunchComplete_hbm (q : Nat) (seq : Word) (d : Dev) : (doLaunchComplete q seq d).mem.hbm = d.mem.hbm := by
  unfold doLaunchComplete; (try dsimp only); repeat' first | rfl | split | rw [foldl_hbm] | rw [foldlp_hbm] | intro
  all_goals first | rfl | simp

@[simp] theorem doThreadIntOp_hbm (k : Nat) (op : IntOp) (w : IntWidth) (sg : Bool) (rd ra rb rc : Nat) (d : Dev) : (doThreadIntOp k op w sg rd ra rb rc d).mem.hbm = d.mem.hbm := by
  unfold doThreadIntOp; simp

@[simp] theorem doThreadFloatOp_hbm (k : Nat) (op : ThreadFp) (rd ra rb rc : Nat) (d : Dev) : (doThreadFloatOp k op rd ra rb rc d).mem.hbm = d.mem.hbm := by
  unfold doThreadFloatOp; (try dsimp only); repeat' first | rfl | split | rw [foldl_hbm] | rw [foldlp_hbm] | intro
  all_goals first | rfl | simp

@[simp] theorem doThreadVectorOp_hbm (k : Nat) (op : ThreadVec) (vd va vb vc : Nat) (imm : BitVec 64) (d : Dev) : (doThreadVectorOp k op vd va vb vc imm d).mem.hbm = d.mem.hbm := by
  unfold doThreadVectorOp; simp

@[simp] theorem doThreadBranch_hbm (k : Nat) (b : BranchKind) (ra link : Nat) (target : DWord) (d : Dev) : (doThreadBranch k b ra link target d).mem.hbm = d.mem.hbm := by
  unfold doThreadBranch; (try dsimp only); repeat' first | rfl | split | rw [foldl_hbm] | rw [foldlp_hbm] | intro
  all_goals first | rfl | simp

@[simp] theorem doRdsr_hbm (k rd : Nat) (sr : SpecialReg) (clear : Bool) (d : Dev) : (doRdsr k rd sr clear d).mem.hbm = d.mem.hbm := by
  unfold doRdsr; simp

@[simp] theorem doCvtAw_hbm (k rd ra rb : Nat) (d : Dev) : (doCvtAw k rd ra rb d).mem.hbm = d.mem.hbm := by
  unfold doCvtAw; (try dsimp only); repeat' first | rfl | split | rw [foldl_hbm] | rw [foldlp_hbm] | intro
  all_goals first | rfl | simp

@[simp] theorem doExit_hbm (k : Nat) (d : Dev) : (doExit k d).mem.hbm = d.mem.hbm := by
  unfold doExit; (try dsimp only); repeat' first | rfl | split | rw [foldl_hbm] | rw [foldlp_hbm] | intro
  all_goals first | rfl | simp

@[simp] theorem doBarTile_hbm (k : Nat) (d : Dev) : (doBarTile k d).mem.hbm = d.mem.hbm := by
  unfold doBarTile; (try dsimp only); repeat' first | rfl | split | rw [foldl_hbm] | rw [foldlp_hbm] | intro
  all_goals first | rfl | simp

@[simp] theorem doFenceT_hbm (k : Nat) (d : Dev) : (doFenceT k d).mem.hbm = d.mem.hbm := by
  unfold doFenceT; simp

@[simp] theorem doWait_hbm (k ra : Nat) (d : Dev) : (doWait k ra d).mem.hbm = d.mem.hbm := by
  unfold doWait; simp

@[simp] theorem doXadd_hbm (k : Nat) (fmt : FpFmt) (rs slot : Nat) (off : BitVec 64) (d : Dev) : (doXadd k fmt rs slot off d).mem.hbm = d.mem.hbm := by
  unfold doXadd; simp

@[simp] theorem doLdt_hbm (k rd n : Nat) (off : BitVec 64) (d : Dev) : (doLdt k rd n off d).mem.hbm = d.mem.hbm := by
  unfold doLdt; (try dsimp only); repeat' first | rfl | split | rw [foldl_hbm] | rw [foldlp_hbm] | intro
  all_goals first | rfl | simp

@[simp] theorem doStt_hbm (k rs n : Nat) (off : BitVec 64) (d : Dev) : (doStt k rs n off d).mem.hbm = d.mem.hbm := by
  unfold doStt; (try dsimp only); repeat' first | rfl | split | rw [foldl_hbm] | rw [foldlp_hbm] | intro
  all_goals first | rfl | simp

@[simp] theorem doSetop_hbm (k rd : Nat) (desc : BitVec 64) (d : Dev) : (doSetop k rd desc d).mem.hbm = d.mem.hbm := by
  unfold doSetop; (try dsimp only); repeat' first | rfl | split | rw [foldl_hbm] | rw [foldlp_hbm] | intro
  all_goals first | rfl | simp

@[simp] theorem doVrun_hbm (k rd : Nat) (block : BitVec 64) (stream : BitVec 16) (draws : Bool) (d : Dev) : (doVrun k rd block stream draws d).mem.hbm = d.mem.hbm := by
  unfold doVrun; (try dsimp only); repeat' first | rfl | split | rw [foldl_hbm] | rw [foldlp_hbm] | intro
  all_goals first | rfl | simp

@[simp] theorem Dev.staleReply_hbm (d : Dev) : (Dev.staleReply d).mem.hbm = d.mem.hbm := by
  unfold Dev.staleReply; simp

@[simp] theorem doSetEngineOpStart_hbm (t : Nat) (d : Dev) : (doSetEngineOpStart t d).mem.hbm = d.mem.hbm := by
  unfold doSetEngineOpStart; (try dsimp only); repeat' first | rfl | split | rw [foldl_hbm] | rw [foldlp_hbm] | intro
  all_goals first | rfl | simp

@[simp] theorem doSetEngineOpDone_hbm (t : Nat) (d : Dev) : (doSetEngineOpDone t d).mem.hbm = d.mem.hbm := by
  unfold doSetEngineOpDone; (try dsimp only); repeat' first | rfl | split | rw [foldl_hbm] | rw [foldlp_hbm] | intro
  all_goals first | rfl | simp

@[simp] theorem doVectorBlockStart_hbm (t : Nat) (code : List VuInstr) (d : Dev) : (doVectorBlockStart t code d).mem.hbm = d.mem.hbm := by
  unfold doVectorBlockStart; (try dsimp only); repeat' first | rfl | split | rw [foldl_hbm] | rw [foldlp_hbm] | intro
  all_goals first | rfl | simp

@[simp] theorem doVectorBlockDone_hbm (t : Nat) (d : Dev) : (doVectorBlockDone t d).mem.hbm = d.mem.hbm := by
  unfold doVectorBlockDone; (try dsimp only); repeat' first | rfl | split | rw [foldl_hbm] | rw [foldlp_hbm] | intro
  all_goals first | rfl | simp

@[simp] theorem doMemoryResponse_hbm (id : Nat) (d : Dev) : (doMemoryResponse id d).mem.hbm = d.mem.hbm := by
  unfold doMemoryResponse; (try dsimp only); repeat' first | rfl | split | rw [foldl_hbm] | rw [foldlp_hbm] | intro
  all_goals first | rfl | simp

@[simp] theorem Dev.respond_hbm (d : Dev) (id : Nat) (st : Status) (det : Detail) (bs : List Byte) : (Dev.respond d id st det bs).mem.hbm = d.mem.hbm := by
  unfold Dev.respond; simp

@[simp] theorem Dev.failReq_hbm (d d₀ : Dev) (r : MemReq) (st : Status) (det : Detail) :
    (Dev.failReq d d₀ r st det).mem.hbm = d.mem.hbm := by
  unfold Dev.failReq; split <;> simp

@[simp] theorem Dev.countAccess_hbm (d : Dev) (f pa : Nat) (hit narrow : Bool) : (Dev.countAccess d f pa hit narrow).mem.hbm = d.mem.hbm := by
  unfold Dev.countAccess; simp

@[simp] theorem Dev.serveCheck_hbm (d : Dev) (r : MemReq) : (Dev.serveCheck d r).1.mem.hbm = d.mem.hbm := by
  unfold Dev.serveCheck; (try dsimp only); repeat' first | rfl | split | rw [foldl_hbm] | rw [foldlp_hbm] | intro
  all_goals first | rfl | simp

@[simp] theorem Dev.corrected_hbm (d : Dev) (s sa n : Nat) : (Dev.corrected d s sa n).mem.hbm = d.mem.hbm := by
  unfold Dev.corrected; simp

@[simp] theorem Dev.quarantineAt_hbm (d : Dev) (f r : Nat) (rg : PlanRegion) (lv : Level) (ra : Nat) (partialW write : Bool) : (Dev.quarantineAt d f r rg lv ra partialW write).mem.hbm = d.mem.hbm := by
  unfold Dev.quarantineAt; simp

@[simp] theorem Dev.subtreeTamper_hbm (d : Dev) (f r : Nat) (rg : PlanRegion) (lv : Level) (ra : Nat) (partialW write : Bool) : (Dev.subtreeTamper d f r rg lv ra partialW write).mem.hbm = d.mem.hbm := by
  unfold Dev.subtreeTamper; simp

@[simp] theorem Dev.resolveLine_hbm (d : Dev) (f r ra pa : Nat) (rg : PlanRegion) (partialW write : Bool) (ecc : Ecc) (macOk : Bool) (lv : Level) : (Dev.resolveLine d f r ra pa rg partialW write ecc macOk lv).1.mem.hbm = d.mem.hbm := by
  unfold Dev.resolveLine; simp

@[simp] theorem Dev.answerLine_hbm (d₀ d : Dev) (st : Status) (forReq : Option Nat) :
    (Dev.answerLine d₀ d st forReq).mem.hbm = d.mem.hbm := by
  unfold Dev.answerLine; split
  · split <;> simp
  · rfl

@[simp] theorem Dev.cliff_hbm (d : Dev) : (Dev.cliff d).mem.hbm = d.mem.hbm := by
  unfold Dev.cliff; simp

@[simp] theorem Dev.trip_hbm (d : Dev) : (Dev.trip d).mem.hbm = d.mem.hbm := by
  unfold Dev.trip; simp

@[simp] theorem doStackTempSample_hbm (s : Nat) (temp : Byte) (d : Dev) : (doStackTempSample s temp d).mem.hbm = d.mem.hbm := by
  unfold doStackTempSample; simp

@[simp] theorem Dev.cancelSwapOf_hbm (d : Dev) (slots : List Nat) : (Dev.cancelSwapOf d slots).mem.hbm = d.mem.hbm := by
  unfold Dev.cancelSwapOf; simp

@[simp] theorem Dev.sweepUnit_hbm (d : Dev) (f r : Nat) (rg : PlanRegion) (ra pa : Nat) : (Dev.sweepUnit d f r rg ra pa).mem.hbm = d.mem.hbm := by
  unfold Dev.sweepUnit; simp

@[simp] theorem Dev.sweepTo_hbm (d : Dev) (f r upTo : Nat) : (Dev.sweepTo d f r upTo).mem.hbm = d.mem.hbm := by
  unfold Dev.sweepTo; (try dsimp only); repeat' first | rfl | split | rw [foldl_hbm] | rw [foldlp_hbm] | intro
  all_goals first | rfl | simp

@[simp] theorem Dev.sweepRegion_hbm (d : Dev) (f r : Nat) : (Dev.sweepRegion d f r).mem.hbm = d.mem.hbm := by
  unfold Dev.sweepRegion; (try dsimp only); repeat' first | rfl | split | rw [foldl_hbm] | rw [foldlp_hbm] | intro
  all_goals first | rfl | simp

@[simp] theorem Dev.sweepRegions_hbm (d : Dev) (n a b : Nat) : (Dev.sweepRegions d n a b).mem.hbm = d.mem.hbm := by
  unfold Dev.sweepRegions; simp

@[simp] theorem Dev.sweepReaches_hbm (d : Dev) (n r : Nat) (line : BitVec 35) : (Dev.sweepReaches d n r line).mem.hbm = d.mem.hbm := by
  unfold Dev.sweepReaches; simp

@[simp] theorem Dev.leaveBehind_hbm (d : Dev) (n : Nat) : (Dev.leaveBehind d n).mem.hbm = d.mem.hbm := by
  unfold Dev.leaveBehind; simp

@[simp] theorem doRekeySweepDone_hbm (n : Nat) (reached : Option (Nat × BitVec 35)) (d : Dev) : (doRekeySweepDone n reached d).mem.hbm = d.mem.hbm := by
  unfold doRekeySweepDone; (try dsimp only); repeat' first | rfl | split | rw [foldl_hbm] | rw [foldlp_hbm] | intro
  all_goals first | rfl | simp

@[simp] theorem Dev.rebuild_hbm (d : Dev) (n : Nat) : (Dev.rebuild d n).mem.hbm = d.mem.hbm := by
  unfold Dev.rebuild; dsimp only
  rw [Dev.modFrame_hbm]
  rw [foldl_hbm _ (fun d r => by simp)]
  refine (foldl_hbm _ (fun d q => ?_) _ _).trans rfl
  split <;> simp

@[simp] theorem doIntegrityRepairDone_hbm (n : Nat) (ok : Bool) (d : Dev) : (doIntegrityRepairDone n ok d).mem.hbm = d.mem.hbm := by
  unfold doIntegrityRepairDone; simp

@[simp] theorem doScrubOverwriteStart_hbm (n : Nat) (d : Dev) : (doScrubOverwriteStart n d).mem.hbm = d.mem.hbm := by
  unfold doScrubOverwriteStart; simp

@[simp] theorem doDblTail_hbm (q : Nat) (v : Word) (d : Dev) : (doDblTail q v d).mem.hbm = d.mem.hbm := by
  unfold doDblTail; simp

@[simp] theorem doCommandFetch_hbm (q : Nat) (entry : BitVec 512) (dmaOk : Bool) (d : Dev) : (doCommandFetch q entry dmaOk d).mem.hbm = d.mem.hbm := by
  unfold doCommandFetch; simp

@[simp] theorem doCommandDecode_hbm (q : Nat) (d : Dev) : (doCommandDecode q d).mem.hbm = d.mem.hbm := by
  unfold doCommandDecode; dsimp only; repeat' split
  all_goals simp

@[simp] theorem doCommandStart_hbm (q : Nat) (seq : Word) (d : Dev) : (doCommandStart q seq d).mem.hbm = d.mem.hbm := by
  unfold doCommandStart; (try dsimp only); repeat' first | rfl | split | rw [foldl_hbm] | rw [foldlp_hbm] | intro
  all_goals first | rfl | simp

@[simp] theorem Dev.postRecord_hbm (d : Dev) (src : Nat) (c : Completion) : (Dev.postRecord d src c).mem.hbm = d.mem.hbm := by
  unfold Dev.postRecord; simp

@[simp] theorem doCompletionPost_hbm (d : Dev) : (doCompletionPost d).mem.hbm = d.mem.hbm := by
  unfold doCompletionPost; (try dsimp only); repeat' first | rfl | split | rw [foldl_hbm] | rw [foldlp_hbm] | intro
  all_goals first | rfl | simp

@[simp] theorem doQcfgCqHead_hbm (q : Nat) (v : Word) (d : Dev) : (doQcfgCqHead q v d).mem.hbm = d.mem.hbm := by
  unfold doQcfgCqHead; simp

@[simp] theorem Dev.resumeQueue_hbm (d : Dev) (q : Nat) : (Dev.resumeQueue d q).mem.hbm = d.mem.hbm := by
  unfold Dev.resumeQueue; simp

@[simp] theorem Dev.enableQueue_hbm (d : Dev) (q : Nat) : (Dev.enableQueue d q).mem.hbm = d.mem.hbm := by
  unfold Dev.enableQueue; dsimp only; repeat' split
  all_goals simp

@[simp] theorem Dev.writeQueueCtrl_hbm (d : Dev) (q : Nat) (v : Word) : (Dev.writeQueueCtrl d q v).mem.hbm = d.mem.hbm := by
  unfold Dev.writeQueueCtrl; simp

@[simp] theorem doQueueEnable_hbm (q : Nat) (ctrl : Word) (d : Dev) : (doQueueEnable q ctrl d).mem.hbm = d.mem.hbm := by
  unfold doQueueEnable; simp

@[simp] theorem doQueueDisable_hbm (q : Nat) (ctrl : Word) (d : Dev) : (doQueueDisable q ctrl d).mem.hbm = d.mem.hbm := by
  unfold doQueueDisable; simp

@[simp] theorem Dev.started_hbm (d : Dev) (q : Nat) (seq : Word) (op : Nat) (f : Cmd → Dev) (hf : ∀ x0, (f x0).mem.hbm = d.mem.hbm) : (Dev.started d q seq op f).mem.hbm = d.mem.hbm := by
  unfold Dev.started; (try dsimp only); repeat' first | rfl | split | rw [foldl_hbm] | rw [foldlp_hbm] | intro
  all_goals (try dsimp only)
  all_goals repeat' split
  all_goals simp_all

@[simp] theorem Dev.runningCmd_hbm (d : Dev) (q : Nat) (seq : Word) (op : Nat) (f : Cmd → Dev) (hf : ∀ x0, (f x0).mem.hbm = d.mem.hbm) : (Dev.runningCmd d q seq op f).mem.hbm = d.mem.hbm := by
  unfold Dev.runningCmd; (try dsimp only); repeat' first | rfl | split | rw [foldl_hbm] | rw [foldlp_hbm] | intro
  all_goals (try dsimp only)
  all_goals repeat' split
  all_goals simp_all

@[simp] theorem Dev.setRunning_hbm (d : Dev) (q : Nat) (seq : Word) : (Dev.setRunning d q seq).mem.hbm = d.mem.hbm := by
  unfold Dev.setRunning; simp

@[simp] theorem doFenceSignal_hbm (q : Nat) (seq : Word) (d : Dev) : (doFenceSignal q seq d).mem.hbm = d.mem.hbm := by
  unfold doFenceSignal; simp

@[simp] theorem doFenceSignalled_hbm (q : Nat) (seq : Word) (d : Dev) : (doFenceSignalled q seq d).mem.hbm = d.mem.hbm := by
  unfold doFenceSignalled; simp

@[simp] theorem doFenceWait_hbm (q : Nat) (seq : Word) (d : Dev) : (doFenceWait q seq d).mem.hbm = d.mem.hbm := by
  unfold doFenceWait; simp

@[simp] theorem doTideWait_hbm (q : Nat) (seq : Word) (d : Dev) : (doTideWait q seq d).mem.hbm = d.mem.hbm := by
  unfold doTideWait; simp

@[simp] theorem doObjRetire_hbm (q : Nat) (seq : Word) (d : Dev) : (doObjRetire q seq d).mem.hbm = d.mem.hbm := by
  unfold doObjRetire; (try dsimp only); repeat' first | rfl | split | rw [foldl_hbm] | rw [foldlp_hbm] | intro
  all_goals first | rfl | simp

@[simp] theorem doObjRetireDone_hbm (i : Nat) (d : Dev) : (doObjRetireDone i d).mem.hbm = d.mem.hbm := by
  unfold doObjRetireDone; simp

@[simp] theorem doObjCreate_hbm (d : Dev) : (doObjCreate d).mem.hbm = d.mem.hbm := by
  unfold doObjCreate; (try dsimp only); repeat' first | rfl | split | rw [foldl_hbm] | rw [foldlp_hbm] | intro
  all_goals first | rfl | simp

@[simp] theorem doObjRequestDone_hbm (d : Dev) : (doObjRequestDone d).mem.hbm = d.mem.hbm := by
  unfold doObjRequestDone; simp

@[simp] theorem doFenceInit_hbm (f : Nat) (owner : BitVec 16) (d : Dev) : (doFenceInit f owner d).mem.hbm = d.mem.hbm := by
  unfold doFenceInit; simp

@[simp] theorem doFenceReset_hbm (f : Nat) (d : Dev) : (doFenceReset f d).mem.hbm = d.mem.hbm := by
  unfold doFenceReset; simp

@[simp] theorem doFenceFree_hbm (f : Nat) (d : Dev) : (doFenceFree f d).mem.hbm = d.mem.hbm := by
  unfold doFenceFree; simp

@[simp] theorem doFncSignal_hbm (f : Nat) (status : BitVec 2) (d : Dev) : (doFncSignal f status d).mem.hbm = d.mem.hbm := by
  unfold doFncSignal; simp

@[simp] theorem Dev.ctxLeaves_hbm (d : Dev) (ctx : BitVec 16) : (Dev.ctxLeaves d ctx).mem.hbm = d.mem.hbm := by
  unfold Dev.ctxLeaves; simp

@[simp] theorem doCtxDestroy_hbm (ctx : BitVec 16) (d : Dev) : (doCtxDestroy ctx d).mem.hbm = d.mem.hbm := by
  unfold doCtxDestroy; simp

@[simp] theorem doCtxDestroyDone_hbm (d : Dev) : (doCtxDestroyDone d).mem.hbm = d.mem.hbm := by
  unfold doCtxDestroyDone; simp

@[simp] theorem Dev.postAll_hbm (n : Nat) (d : Dev) : (Dev.postAll n d).mem.hbm = d.mem.hbm := by
  induction n generalizing d with
  | zero => rfl
  | succ n ih =>
    unfold Dev.postAll
    split
    · rw [ih]; simp
    · rfl

@[simp] theorem Dev.funcReset_hbm (d : Dev) : (Dev.funcReset d).mem.hbm = d.mem.hbm := by
  unfold Dev.funcReset; simp

@[simp] theorem doTdispMessage_hbm (fn : Nat) (target : Tdi) (d : Dev) : (doTdispMessage fn target d).mem.hbm = d.mem.hbm := by
  unfold doTdispMessage; simp

@[simp] theorem doNonIdeTlpDrop_hbm (fn : Nat) (d : Dev) : (doNonIdeTlpDrop fn d).mem.hbm = d.mem.hbm := by
  unfold doNonIdeTlpDrop; simp

@[simp] theorem doEvalWindow_hbm (q : Nat) (seq : Word) (d : Dev) : (doEvalWindow q seq d).mem.hbm = d.mem.hbm := by
  unfold doEvalWindow; (try dsimp only)
  split
  · rfl
  · rw [Dev.started_hbm]
    intro c
    (try dsimp only)
    split
    · simp
    · split
      · simp
      · split
        · rename_i h
          have hk := congrArg (fun x => x.1.mem.hbm) h
          simpa using hk.symm
        · rename_i h
          have hk := congrArg (fun x => x.1.mem.hbm) h
          simp at hk
          split <;> simp [hk]

@[simp] theorem doEngineWatchdog_hbm (e : Nat) (d : Dev) : (doEngineWatchdog e d).mem.hbm = d.mem.hbm := by
  unfold doEngineWatchdog; (try dsimp only); repeat' first | rfl | split | rw [foldl_hbm] | rw [foldlp_hbm] | intro
  all_goals first | rfl | simp

@[simp] theorem doActivityOverrun_hbm (a : BitVec 16) (inst : Word) (d : Dev) : (doActivityOverrun a inst d).mem.hbm = d.mem.hbm := by
  unfold doActivityOverrun; (try dsimp only); repeat' first | rfl | split | rw [foldl_hbm] | rw [foldlp_hbm] | intro
  all_goals first | rfl | simp

@[simp] theorem Dev.rstAnswer_hbm (d : Dev) (r : BitVec 2) : (Dev.rstAnswer d r).mem.hbm = d.mem.hbm := by
  unfold Dev.rstAnswer; simp

@[simp] theorem Dev.rstRuns_hbm (d : Dev) (k : Nat) : (Dev.rstRuns d k).mem.hbm = d.mem.hbm := by
  unfold Dev.rstRuns; simp

@[simp] theorem doRstEngine_hbm (e : Nat) (d : Dev) : (doRstEngine e d).mem.hbm = d.mem.hbm := by
  unfold doRstEngine; (try dsimp only); repeat' first | rfl | split | rw [foldl_hbm] | rw [foldlp_hbm] | intro
  all_goals first | rfl | simp

@[simp] theorem doRstClearing_hbm (n : Nat) (d : Dev) : (doRstClearing n d).mem.hbm = d.mem.hbm := by
  unfold doRstClearing; simp

@[simp] theorem Dev.engineIdle_hbm (d : Dev) (e : Nat) : (Dev.engineIdle d e).mem.hbm = d.mem.hbm := by
  unfold Dev.engineIdle; simp

@[simp] theorem Dev.rstEnds_hbm (d : Dev) (n : Nat) : (Dev.rstEnds d n).mem.hbm = d.mem.hbm := by
  unfold Dev.rstEnds; simp

@[simp] theorem doEngineResetDone_hbm (e : Nat) (d : Dev) : (doEngineResetDone e d).mem.hbm = d.mem.hbm := by
  unfold doEngineResetDone; simp

@[simp] theorem doEngineResetTimeout_hbm (e : Nat) (d : Dev) : (doEngineResetTimeout e d).mem.hbm = d.mem.hbm := by
  unfold doEngineResetTimeout; (try dsimp only); repeat' first | rfl | split | rw [foldl_hbm] | rw [foldlp_hbm] | intro
  all_goals first | rfl | simp

@[simp] theorem doClearingResetDone_hbm (n : Nat) (d : Dev) : (doClearingResetDone n d).mem.hbm = d.mem.hbm := by
  unfold doClearingResetDone; simp

@[simp] theorem doClearingResetTimeout_hbm (n : Nat) (d : Dev) : (doClearingResetTimeout n d).mem.hbm = d.mem.hbm := by
  unfold doClearingResetTimeout; simp

@[simp] theorem doFencingDone_hbm (n : Nat) (d : Dev) : (doFencingDone n d).mem.hbm = d.mem.hbm := by
  unfold doFencingDone; simp

@[simp] theorem doNeighbourFailed_hbm (l : Nat) (d : Dev) : (doNeighbourFailed l d).mem.hbm = d.mem.hbm := by
  unfold doNeighbourFailed; simp

@[simp] theorem Dev.dropRepairs_hbm (d : Dev) (lines : List Nat) : (Dev.dropRepairs d lines).mem.hbm = d.mem.hbm := by
  unfold Dev.dropRepairs; simp

@[simp] theorem Dev.repairFails_hbm (d : Dev) (f : Nat) (rs : List Repair) : (d.repairFails f rs).mem.hbm = d.mem.hbm := by
  unfold Dev.repairFails; dsimp only
  rw [Dev.raise_hbm, Dev.logEvent_hbm]
  split
  · rw [Dev.haltClr_hbm]
    refine foldl_hbm _ (fun d w => ?_) _ _
    repeat' split
    all_goals simp
  · refine foldl_hbm _ (fun d w => ?_) _ _
    repeat' split
    all_goals simp

@[simp] theorem doSysRstNRelease_hbm (images : List FwImage) (d : Dev) : (doSysRstNRelease images d).mem.hbm = d.mem.hbm := by
  unfold doSysRstNRelease; simp

@[simp] theorem doPwrOkRise_hbm (boot tide : Bool) (d : Dev) : (doPwrOkRise boot tide d).mem.hbm = d.mem.hbm := by
  unfold doPwrOkRise; simp

@[simp] theorem doPerstNAssert_hbm (d : Dev) : (doPerstNAssert d).mem.hbm = d.mem.hbm := by
  unfold doPerstNAssert; simp

@[simp] theorem doPerstNRelease_hbm (d : Dev) : (doPerstNRelease d).mem.hbm = d.mem.hbm := by
  unfold doPerstNRelease; simp

@[simp] theorem Dev.captureDump_hbm (d : Dev) (dump : List Byte) (cause : BitVec 7) : (Dev.captureDump d dump cause).mem.hbm = d.mem.hbm := by
  unfold Dev.captureDump; simp

@[simp] theorem doBootReady_hbm (lanes : List (Nat × Nat)) (laneAt : List (Nat × Fin 36)) (trngFail : Bool) (d : Dev) : (doBootReady lanes laneAt trngFail d).mem.hbm = d.mem.hbm := by
  unfold doBootReady; simp

@[simp] theorem Dev.modeBegins_hbm (d : Dev) : (Dev.modeBegins d).mem.hbm = d.mem.hbm := by
  unfold Dev.modeBegins; simp

@[simp] theorem doModeRequest_hbm (m : BitVec 2) (d : Dev) : (doModeRequest m d).mem.hbm = d.mem.hbm := by
  unfold doModeRequest; simp

@[simp] theorem doModeCancel_hbm (d : Dev) : (doModeCancel d).mem.hbm = d.mem.hbm := by
  unfold doModeCancel; simp

@[simp] theorem doModeChange_hbm (d : Dev) : (doModeChange d).mem.hbm = d.mem.hbm := by
  unfold doModeChange; simp

@[simp] theorem doModeRampDone_hbm (d : Dev) : (doModeRampDone d).mem.hbm = d.mem.hbm := by
  unfold doModeRampDone; simp

@[simp] theorem doPowerSample_hbm (w : BitVec 16) (parts : List (BitVec 16)) (mainMv auxMv : BitVec 16) (energyJ : BitVec 64) (d : Dev) : (doPowerSample w parts mainMv auxMv energyJ d).mem.hbm = d.mem.hbm := by
  unfold doPowerSample; simp

@[simp] theorem doExtFault_hbm (r : Nat) (d : Dev) : (doExtFault r d).mem.hbm = d.mem.hbm := by
  unfold doExtFault; simp

@[simp] theorem doVinMainApply_hbm (d : Dev) : (doVinMainApply d).mem.hbm = d.mem.hbm := by
  unfold doVinMainApply; simp

@[simp] theorem doOvercurrent_hbm (d : Dev) : (doOvercurrent d).mem.hbm = d.mem.hbm := by
  unfold doOvercurrent; simp

@[simp] theorem doStage2Fault_hbm (d : Dev) : (doStage2Fault d).mem.hbm = d.mem.hbm := by
  unfold doStage2Fault; simp

@[simp] theorem Dev.modDie_hbm (d : Dev) (k : Nat) (f : DieSt → DieSt) : (Dev.modDie d k f).mem.hbm = d.mem.hbm := by
  unfold Dev.modDie; simp

@[simp] theorem doDieTempSample_hbm (x : Die) (temp : Byte) (d : Dev) : (doDieTempSample x temp d).mem.hbm = d.mem.hbm := by
  unfold doDieTempSample; simp

@[simp] theorem Dev.modSpdm_hbm (d : Dev) (f : Spdm → Spdm) : (Dev.modSpdm d f).mem.hbm = d.mem.hbm := by
  unfold Dev.modSpdm; simp

theorem Dev.spdmDo_hbm (d : Dev) (r : SpdmReq) (x : Dev × SpdmResp) (h : d.spdmDo r = some x) :
    x.1.mem.hbm = d.mem.hbm := by
  cases r <;>
    simp only [Dev.spdmDo, Dev.spdmVersion, Dev.spdmCapabilities, Dev.spdmAlgorithms, Dev.spdmDigests,
      Dev.spdmCertificate, Dev.spdmChallenge, Dev.spdmMeasurements, Dev.spdmKeyExchange, Dev.spdmFinish,
      Dev.spdmHeartbeat, Dev.spdmKeyUpdate, Dev.spdmEndSession] at h <;>
    (repeat' split at h) <;> first | (cases h; done) | (injection h with h; subst h; simp)

@[simp] theorem Dev.spdmServe_hbm (d : Dev) (r : SpdmReq) : (Dev.spdmServe d r).mem.hbm = d.mem.hbm := by
  unfold Dev.spdmServe
  split
  · simp
  · split
    · rename_i h; simp [Dev.spdmDo_hbm _ _ _ h]
    · simp

@[simp] theorem Dev.spdmCome_hbm (d : Dev) (r : SpdmReq) : (Dev.spdmCome d r).mem.hbm = d.mem.hbm := by
  unfold Dev.spdmCome; simp

@[simp] theorem Dev.spdmWaiting_hbm (d : Dev) : (Dev.spdmWaiting d).mem.hbm = d.mem.hbm := by
  unfold Dev.spdmWaiting; simp

@[simp] theorem doGetVersion_hbm (d : Dev) : (doGetVersion d).mem.hbm = d.mem.hbm := by
  unfold doGetVersion; simp

@[simp] theorem doGetCapabilities_hbm (d : Dev) : (doGetCapabilities d).mem.hbm = d.mem.hbm := by
  unfold doGetCapabilities; simp

@[simp] theorem doNegotiateAlgorithms_hbm (sm2 sm3 sm4 : Bool) (d : Dev) : (doNegotiateAlgorithms sm2 sm3 sm4 d).mem.hbm = d.mem.hbm := by
  unfold doNegotiateAlgorithms; simp

@[simp] theorem doGetDigests_hbm (d : Dev) : (doGetDigests d).mem.hbm = d.mem.hbm := by
  unfold doGetDigests; simp

@[simp] theorem doGetCertificate_hbm (slot : BitVec 4) (d : Dev) : (doGetCertificate slot d).mem.hbm = d.mem.hbm := by
  unfold doGetCertificate; simp

@[simp] theorem doSpdmChallenge_hbm (nonce : B256) (d : Dev) : (doSpdmChallenge nonce d).mem.hbm = d.mem.hbm := by
  unfold doSpdmChallenge; simp

@[simp] theorem doGetMeasurements_hbm (index : Byte) (nonce : B256) (signed : Bool) (d : Dev) : (doGetMeasurements index nonce signed d).mem.hbm = d.mem.hbm := by
  unfold doGetMeasurements; simp

@[simp] theorem doKeyExchange_hbm (ok : Bool) (data : List Byte) (d : Dev) : (doKeyExchange ok data d).mem.hbm = d.mem.hbm := by
  unfold doKeyExchange; simp

@[simp] theorem doFinish_hbm (mac : List Byte) (d : Dev) : (doFinish mac d).mem.hbm = d.mem.hbm := by
  unfold doFinish; simp

@[simp] theorem doHeartbeat_hbm (d : Dev) : (doHeartbeat d).mem.hbm = d.mem.hbm := by
  unfold doHeartbeat; simp

@[simp] theorem doKeyUpdate_hbm (d : Dev) : (doKeyUpdate d).mem.hbm = d.mem.hbm := by
  unfold doKeyUpdate; simp

@[simp] theorem doEndSession_hbm (d : Dev) : (doEndSession d).mem.hbm = d.mem.hbm := by
  unfold doEndSession; simp

@[simp] theorem Dev.refuse_hbm (d : Dev) (r : SecRes) : (Dev.refuse d r).1.mem.hbm = d.mem.hbm := by
  unfold Dev.refuse; simp

@[simp] theorem Dev.serve_hbm (d : Dev) (code : BitVec 16) (f : Dev → Served) (hf : ∀ x0, (f x0).1.mem.hbm = x0.mem.hbm) : (Dev.serve d code f).mem.hbm = d.mem.hbm := by
  unfold Dev.serve; (try dsimp only); repeat' first | rfl | split | rw [foldl_hbm] | rw [foldlp_hbm] | intro
  all_goals (try dsimp only)
  all_goals repeat' split
  all_goals simp_all

@[simp] theorem Dev.serveSet_hbm (d : Dev) (code : BitVec 16) (f : Dev → Served) (hf : ∀ x0, (f x0).1.mem.hbm = x0.mem.hbm) : (Dev.serveSet d code f).mem.hbm = d.mem.hbm := by
  unfold Dev.serveSet; (try dsimp only); repeat' first | rfl | split | rw [foldl_hbm] | rw [foldlp_hbm] | intro
  all_goals (try dsimp only)
  all_goals repeat' split
  all_goals simp_all

@[simp] theorem Dev.checked_hbm (d : Dev) (cs : List (Bool × SecRes)) (f : Dev → Served) (hf : ∀ x0, (f x0).1.mem.hbm = x0.mem.hbm) : (Dev.checked d cs f).1.mem.hbm = d.mem.hbm := by
  unfold Dev.checked; (try dsimp only); repeat' first | rfl | split | rw [foldl_hbm] | rw [foldlp_hbm] | intro
  all_goals (try dsimp only)
  all_goals repeat' split
  all_goals simp_all

@[simp] theorem doGetQuote_hbm (nonce : B256) (d : Dev) : (doGetQuote nonce d).mem.hbm = d.mem.hbm := by
  unfold doGetQuote; simp

@[simp] theorem doGetCerts_hbm (d : Dev) : (doGetCerts d).mem.hbm = d.mem.hbm := by
  unfold doGetCerts; simp

@[simp] theorem Dev.putSystem_hbm (d : Dev) (i : Nat) (attr : BitVec 2) (key : B256) : (Dev.putSystem d i attr key).mem.hbm = d.mem.hbm := by
  unfold Dev.putSystem; simp

@[simp] theorem Dev.deriveSlots_hbm (d : Dev) (set : B256) : (Dev.deriveSlots d set).mem.hbm = d.mem.hbm := by
  unfold Dev.deriveSlots; (try dsimp only); repeat' split
  all_goals simp_all

@[simp] theorem Dev.installSetKey_hbm (d : Dev) (key : B256) (m : SetMember) : (Dev.installSetKey d key m).mem.hbm = d.mem.hbm := by
  unfold Dev.installSetKey; simp

@[simp] theorem doSetFound_hbm (root : B256) (p : SetPolicy) (addr : BitVec 20) (d : Dev) : (doSetFound root p addr d).mem.hbm = d.mem.hbm := by
  unfold doSetFound; simp

@[simp] theorem doSetAdmit_hbm (c : Candidate) (addr : BitVec 20) (d : Dev) : (doSetAdmit c addr d).mem.hbm = d.mem.hbm := by
  unfold doSetAdmit
  rw [Dev.serveSet_hbm]
  intro e
  (try dsimp only)
  repeat' first | split | rw [Dev.checked_hbm] | rfl | intro
  all_goals first | rfl | simp

@[simp] theorem doSetJoin_hbm (b : AdmissionBlob) (d : Dev) : (doSetJoin b d).mem.hbm = d.mem.hbm := by
  unfold doSetJoin
  rw [Dev.serveSet_hbm]
  intro e
  (try dsimp only)
  repeat' first | split | rw [Dev.checked_hbm] | rfl | intro
  all_goals first | rfl | simp

@[simp] theorem doSetRotate_hbm (o : RotationOrder) (d : Dev) : (doSetRotate o d).mem.hbm = d.mem.hbm := by
  unfold doSetRotate
  rw [Dev.serveSet_hbm]
  intro e
  (try dsimp only)
  repeat' first | split | rw [Dev.checked_hbm] | rfl | intro
  all_goals first | rfl | simp

@[simp] theorem doSetRetire_hbm (d : Dev) : (doSetRetire d).mem.hbm = d.mem.hbm := by
  unfold doSetRetire; simp

@[simp] theorem Dev.loadEntry_hbm (d : Dev) (source : BitVec 2) (held : Bool) (e : KeyEntry) : (Dev.loadEntry d source held e).mem.hbm = d.mem.hbm := by
  unfold Dev.loadEntry; simp

@[simp] theorem Dev.keysCame_hbm (d : Dev) : (Dev.keysCame d).mem.hbm = d.mem.hbm := by
  unfold Dev.keysCame; simp

@[simp] theorem Dev.loadEntries_hbm (d : Dev) (source : BitVec 2) (policy : Byte) (bundle : BitVec 16) (es : List KeyEntry) : (Dev.loadEntries d source policy bundle es).1.mem.hbm = d.mem.hbm := by
  unfold Dev.loadEntries; simp

@[simp] theorem doLoadBundle_hbm (bytes : List Byte) (d : Dev) : (doLoadBundle bytes d).mem.hbm = d.mem.hbm := by
  unfold doLoadBundle
  rw [Dev.serve_hbm]
  intro e
  (try dsimp only)
  repeat' first | split | rw [Dev.checked_hbm] | rfl | intro
  all_goals first | rfl | simp

@[simp] theorem doLoadReleased_hbm (r : Release) (d : Dev) : (doLoadReleased r d).mem.hbm = d.mem.hbm := by
  unfold doLoadReleased; simp

@[simp] theorem doMakeBundle_hbm (id : BitVec 16) (rs : List SlotRef) (d : Dev) : (doMakeBundle id rs d).mem.hbm = d.mem.hbm := by
  unfold doMakeBundle
  rw [Dev.serve_hbm]
  intro e
  (try dsimp only)
  repeat' first | split | rw [Dev.checked_hbm] | rfl | intro
  all_goals first | rfl | simp

@[simp] theorem doSwap_hbm (rs : List SlotRef) (pos : BitVec 64) (d : Dev) : (doSwap rs pos d).mem.hbm = d.mem.hbm := by
  unfold doSwap
  rw [Dev.serve_hbm]
  intro e
  (try dsimp only)
  repeat' first | split | rw [Dev.checked_hbm] | rfl | intro
  all_goals first | rfl | simp

@[simp] theorem doCancelSwap_hbm (rs : List SlotRef) (d : Dev) : (doCancelSwap rs d).mem.hbm = d.mem.hbm := by
  unfold doCancelSwap
  rw [Dev.serve_hbm]
  intro e
  (try dsimp only)
  repeat' first | split | rw [Dev.checked_hbm] | rfl | intro
  all_goals first | rfl | simp

@[simp] theorem doDestroy_hbm (rs : List SlotRef) (d : Dev) : (doDestroy rs d).mem.hbm = d.mem.hbm := by
  unfold doDestroy
  rw [Dev.serve_hbm]
  intro e
  (try dsimp only)
  repeat' first | split | rw [Dev.checked_hbm] | rfl | intro
  all_goals first | rfl | simp

@[simp] theorem doFwStage_hbm (img : FwImage) (d : Dev) : (doFwStage img d).mem.hbm = d.mem.hbm := by
  unfold doFwStage; simp

@[simp] theorem doFwActivate_hbm (d : Dev) : (doFwActivate d).mem.hbm = d.mem.hbm := by
  unfold doFwActivate; simp

@[simp] theorem Dev.commitBegin_hbm (d : Dev) : (Dev.commitBegin d).mem.hbm = d.mem.hbm := by
  unfold Dev.commitBegin; simp

@[simp] theorem Dev.commitEnd_hbm (d : Dev) : (Dev.commitEnd d).mem.hbm = d.mem.hbm := by
  unfold Dev.commitEnd; simp

@[simp] theorem doFwCommit_hbm (d : Dev) : (doFwCommit d).mem.hbm = d.mem.hbm := by
  unfold doFwCommit; simp

@[simp] theorem Dev.emitMark_hbm (d : Dev) (r : MarkRec) (needs : List Need) : (Dev.emitMark d r needs).mem.hbm = d.mem.hbm := by
  unfold Dev.emitMark; simp

@[simp] theorem doRootMarkTimer_hbm (needs : List Need) (d : Dev) : (doRootMarkTimer needs d).mem.hbm = d.mem.hbm := by
  unfold doRootMarkTimer; simp

@[simp] theorem Dev.setHoldover_hbm (d : Dev) (b : Bool) : (Dev.setHoldover d b).mem.hbm = d.mem.hbm := by
  unfold Dev.setHoldover; simp

@[simp] theorem doTideInFrameMissing_hbm (needs : List Need) (d : Dev) : (doTideInFrameMissing needs d).mem.hbm = d.mem.hbm := by
  unfold doTideInFrameMissing; simp

@[simp] theorem doTideInFrame_hbm (f : TideFrame) (onTime : Bool) (needs : List Need) (d : Dev) : (doTideInFrame f onTime needs d).mem.hbm = d.mem.hbm := by
  unfold doTideInFrame; simp

@[simp] theorem Dev.takeParent_hbm (d : Dev) (l : Nat) : (Dev.takeParent d l).mem.hbm = d.mem.hbm := by
  unfold Dev.takeParent; simp

@[simp] theorem Dev.acceptMark_hbm (d : Dev) (l : Nat) (r : MarkRec) (needs : List Need) : (Dev.acceptMark d l r needs).mem.hbm = d.mem.hbm := by
  unfold Dev.acceptMark; simp

@[simp] theorem Dev.rxTide_hbm (d : Dev) (l : Nat) (more : Bool) : (Dev.rxTide d l more).mem.hbm = d.mem.hbm := by
  unfold Dev.rxTide; split <;> simp

@[simp] theorem doMarkRecord_hbm (l : Lnk) (r : MarkRec) (tagOk : Bool) (needs : List Need) (more : Bool) (d : Dev) : (doMarkRecord l r tagOk needs more d).mem.hbm = d.mem.hbm := by
  unfold doMarkRecord; simp

@[simp] theorem Dev.lateReturn_hbm (d : Dev) : (Dev.lateReturn d).mem.hbm = d.mem.hbm := by
  unfold Dev.lateReturn; simp

@[simp] theorem doReturnRecord_hbm (l : Lnk) (r : RetRec) (tagOk : Bool) (rttNs : BitVec 20) (more : Bool) (d : Dev) : (doReturnRecord l r tagOk rttNs more d).mem.hbm = d.mem.hbm := by
  unfold doReturnRecord; (try dsimp only); repeat' first | rfl | split | rw [foldl_hbm] | rw [foldlp_hbm] | intro
  all_goals first | rfl | simp

@[simp] theorem doMergeCutoff_hbm (d : Dev) : (doMergeCutoff d).mem.hbm = d.mem.hbm := by
  unfold doMergeCutoff; (try dsimp only); repeat' first | rfl | split | rw [foldl_hbm] | rw [foldlp_hbm] | intro
  all_goals first | rfl | simp

@[simp] theorem Dev.loseTide_hbm (d : Dev) : (Dev.loseTide d).mem.hbm = d.mem.hbm := by
  unfold Dev.loseTide; simp

@[simp] theorem doMarkMissing_hbm (fourPeriods : Bool) (d : Dev) : (doMarkMissing fourPeriods d).mem.hbm = d.mem.hbm := by
  unfold doMarkMissing; simp

@[simp] theorem doTideSetbackReq_hbm (marks : BitVec 8) (d : Dev) : (doTideSetbackReq marks d).mem.hbm = d.mem.hbm := by
  unfold doTideSetbackReq; simp

@[simp] theorem Dev.writeEvent_hbm (d : Dev) (b : Blk) (data hw : Word) : (Dev.writeEvent d b data hw).mem.hbm = d.mem.hbm := by
  unfold Dev.writeEvent; simp

@[simp] theorem Dev.writeEventEn_hbm (d : Dev) (b : Blk) (data : Word) : (Dev.writeEventEn d b data).mem.hbm = d.mem.hbm := by
  unfold Dev.writeEventEn; simp

@[simp] theorem Dev.rcTide_hbm (d : Dev) (o : Nat) (hw : Word) : (Dev.rcTide d o hw).mem.hbm = d.mem.hbm := by
  unfold Dev.rcTide; (try dsimp only); repeat' first | rfl | split | rw [foldl_hbm] | rw [foldlp_hbm] | intro
  all_goals first | rfl | simp

@[simp] theorem Dev.rcNum_hbm (d : Dev) (n o : Nat) (hw : Word) : (Dev.rcNum d n o hw).mem.hbm = d.mem.hbm := by
  unfold Dev.rcNum; (try dsimp only); repeat' first | rfl | split | rw [foldl_hbm] | rw [foldlp_hbm] | intro
  all_goals first | rfl | simp

@[simp] theorem Dev.rcStack_hbm (d : Dev) (s o : Nat) (hw : Word) : (Dev.rcStack d s o hw).mem.hbm = d.mem.hbm := by
  unfold Dev.rcStack; (try dsimp only); repeat' first | rfl | split | rw [foldl_hbm] | rw [foldlp_hbm] | intro
  all_goals first | rfl | simp

@[simp] theorem Dev.rcMemClr_hbm (d : Dev) (n o : Nat) (hw : Word) : (Dev.rcMemClr d n o hw).mem.hbm = d.mem.hbm := by
  unfold Dev.rcMemClr; (try dsimp only); repeat' first | rfl | split | rw [foldl_hbm] | rw [foldlp_hbm] | intro
  all_goals first | rfl | simp

@[simp] theorem Dev.rcFrame_hbm (d : Dev) (f o : Nat) (hw : Word) : (Dev.rcFrame d f o hw).mem.hbm = d.mem.hbm := by
  unfold Dev.rcFrame; (try dsimp only); repeat' first | rfl | split | rw [foldl_hbm] | rw [foldlp_hbm] | intro
  all_goals first | rfl | simp

@[simp] theorem Dev.rcLink_hbm (d : Dev) (l o : Nat) (hw : Word) : (Dev.rcLink d l o hw).mem.hbm = d.mem.hbm := by
  unfold Dev.rcLink; (try dsimp only); repeat' first | rfl | split | rw [foldl_hbm] | rw [foldlp_hbm] | intro
  all_goals first | rfl | simp

@[simp] theorem Dev.rcThm_hbm (d : Dev) (o : Nat) (hw : Word) : (Dev.rcThm d o hw).mem.hbm = d.mem.hbm := by
  unfold Dev.rcThm; simp

@[simp] theorem Dev.clearRc_hbm (d : Dev) (off : Nat) (hw : Word) : (Dev.clearRc d off hw).mem.hbm = d.mem.hbm := by
  unfold Dev.clearRc; simp

@[simp] theorem Dev.latchHi_hbm (d : Dev) (off : Nat) : (Dev.latchHi d off).mem.hbm = d.mem.hbm := by
  unfold Dev.latchHi; simp

@[simp] theorem Dev.hostRead_hbm (d : Dev) (off : Nat) (hw : Word) : (Dev.hostRead d off hw).2.mem.hbm = d.mem.hbm := by
  unfold Dev.hostRead; (try dsimp only); repeat' first | rfl | split | rw [foldl_hbm] | rw [foldlp_hbm] | intro
  all_goals first | rfl | simp

@[simp] theorem Dev.answer_hbm (d : Dev) (v : Word) : (Dev.answer d v).mem.hbm = d.mem.hbm := by
  unfold Dev.answer; simp

@[simp] theorem doRegisterRead_hbm (off : Nat) (hw : Word) (d : Dev) : (doRegisterRead off hw d).mem.hbm = d.mem.hbm := by
  unfold doRegisterRead; simp

@[simp] theorem doRead64_hbm (off : Nat) (hw hw' : Word) (d : Dev) : (doRead64 off hw hw' d).mem.hbm = d.mem.hbm := by
  unfold doRead64; simp

@[simp] theorem doLoRegisterReadLatch_hbm (r : LoReg) (d : Dev) : (doLoRegisterReadLatch r d).mem.hbm = d.mem.hbm := by
  unfold doLoRegisterReadLatch; simp

@[simp] theorem doBar0MisalignedAccess_hbm (write : Bool) (d : Dev) : (doBar0MisalignedAccess write d).mem.hbm = d.mem.hbm := by
  unfold doBar0MisalignedAccess; simp

@[simp] theorem doBar0ReservedAccess_hbm (write : Bool) (d : Dev) : (doBar0ReservedAccess write d).mem.hbm = d.mem.hbm := by
  unfold doBar0ReservedAccess; simp

@[simp] theorem Dev.writeTide_hbm (d : Dev) (o : Nat) (v : Word) : (Dev.writeTide d o v).mem.hbm = d.mem.hbm := by
  unfold Dev.writeTide; simp

@[simp] theorem Dev.writePlan_hbm (d : Dev) (o : Nat) (v : Word) : (Dev.writePlan d o v).mem.hbm = d.mem.hbm := by
  unfold Dev.writePlan; (try dsimp only); repeat' first | rfl | split | rw [foldl_hbm] | rw [foldlp_hbm] | intro
  all_goals first | rfl | simp

@[simp] theorem Dev.writeQueue_hbm (d : Dev) (q o : Nat) (v : Word) : (Dev.writeQueue d q o v).mem.hbm = d.mem.hbm := by
  unfold Dev.writeQueue; (try dsimp only); repeat' first | rfl | split | rw [foldl_hbm] | rw [foldlp_hbm] | intro
  all_goals first | rfl | simp

@[simp] theorem Dev.writeDbl_hbm (d : Dev) (o : Nat) (v : Word) : (Dev.writeDbl d o v).mem.hbm = d.mem.hbm := by
  unfold Dev.writeDbl; simp

@[simp] theorem Dev.writeFnc_hbm (d : Dev) (f o : Nat) (v : Word) : (Dev.writeFnc d f o v).mem.hbm = d.mem.hbm := by
  unfold Dev.writeFnc; (try dsimp only); repeat' first | rfl | split | rw [foldl_hbm] | rw [foldlp_hbm] | intro
  all_goals first | rfl | simp

@[simp] theorem Dev.writeObjReg_hbm (d : Dev) (o : Nat) (v : Word) : (Dev.writeObjReg d o v).mem.hbm = d.mem.hbm := by
  unfold Dev.writeObjReg; (try dsimp only); repeat' first | rfl | split | rw [foldl_hbm] | rw [foldlp_hbm] | intro
  all_goals first | rfl | simp

@[simp] theorem Dev.writeMem_hbm (d : Dev) (o : Nat) (v hw : Word) : (Dev.writeMem d o v hw).mem.hbm = d.mem.hbm := by
  unfold Dev.writeMem; simp

@[simp] theorem doDoorbell_hbm (d : Dev) : (doDoorbell d).mem.hbm = d.mem.hbm := by
  unfold doDoorbell; simp

@[simp] theorem Dev.writeSec_hbm (d : Dev) (o : Nat) (v : Word) : (Dev.writeSec d o v).mem.hbm = d.mem.hbm := by
  unfold Dev.writeSec; simp

@[simp] theorem Dev.writeLnk_hbm (d : Dev) (o : Nat) (v : Word) : (Dev.writeLnk d o v).mem.hbm = d.mem.hbm := by
  unfold Dev.writeLnk; simp

@[simp] theorem Dev.writeStl_hbm (d : Dev) (o : Nat) (v : Word) : (Dev.writeStl d o v).mem.hbm = d.mem.hbm := by
  unfold Dev.writeStl; (try dsimp only); repeat' first | rfl | split | rw [foldl_hbm] | rw [foldlp_hbm] | intro
  all_goals first | rfl | simp

@[simp] theorem Dev.writeFlt_hbm (d : Dev) (o : Nat) (v hw : Word) : (Dev.writeFlt d o v hw).mem.hbm = d.mem.hbm := by
  unfold Dev.writeFlt; simp

@[simp] theorem Dev.writeDbg_hbm (d : Dev) (o : Nat) (v : Word) : (Dev.writeDbg d o v).mem.hbm = d.mem.hbm := by
  unfold Dev.writeDbg; simp

@[simp] theorem Dev.writePwr_hbm (d : Dev) (o : Nat) (v : Word) : (Dev.writePwr d o v).mem.hbm = d.mem.hbm := by
  unfold Dev.writePwr; (try dsimp only); repeat' first | rfl | split | rw [foldl_hbm] | rw [foldlp_hbm] | intro
  all_goals first | rfl | simp

@[simp] theorem Dev.writeThm_hbm (d : Dev) (o : Nat) (v : Word) : (Dev.writeThm d o v).mem.hbm = d.mem.hbm := by
  unfold Dev.writeThm; simp

@[simp] theorem Dev.writeNum_hbm (d : Dev) (n o : Nat) (v hw : Word) : (Dev.writeNum d n o v hw).mem.hbm = d.mem.hbm := by
  unfold Dev.writeNum; simp

@[simp] theorem doI3cPrivateWrite_hbm (bs : List Byte) (d : Dev) : (doI3cPrivateWrite bs d).mem.hbm = d.mem.hbm := by
  unfold doI3cPrivateWrite; simp

@[simp] theorem Dev.i3cWords_hbm (n off : Nat) (d : Dev) : (Dev.i3cWords off n d).2.mem.hbm = d.mem.hbm := by
  induction n generalizing off d with
  | zero => rfl
  | succ n ih =>
    unfold Dev.i3cWords; dsimp only
    rw [ih]
    split <;> simp

@[simp] theorem doI3cPrivateRead_hbm (words : Nat) (d : Dev) : (doI3cPrivateRead words d).mem.hbm = d.mem.hbm := by
  unfold doI3cPrivateRead; simp

@[simp] theorem Dev.assignAddr_hbm (a : BitVec 7) (d : Dev) : (Dev.assignAddr a d).mem.hbm = d.mem.hbm := by
  unfold Dev.assignAddr; simp

end Sys2Proof.Machine
end

