-- ==== Sys2Proof/Laws/Memory.lean ====
section
/-! SUPPORT. Every operation over HBM keeps its canonical form: addresses strictly rising, and no entry for a
byte that nothing has written (log entry 12). -/

set_option maxRecDepth 4000
namespace Sys2Proof.Machine
open Sys2Proof

/-! ## Operations that leave the contents alone, and sequences of operations -/

theorem memWf_of_hbm {d d' : Dev} (h : Memory.wf d = true) (e : d'.mem.hbm = d.mem.hbm) : Memory.wf d' = true := by
  simpa [Memory.wf, e] using h

theorem foldl_memWf {α : Type} (f : Dev → α → Dev) (hf : ∀ d x, Memory.wf d = true → Memory.wf (f d x) = true)
    (l : List α) {d : Dev} (h : Memory.wf d = true) : Memory.wf (l.foldl f d) = true := by
  induction l generalizing d with
  | nil => exact h
  | cons x xs ih => exact ih (hf d x h)

theorem foldlp_memWf {α β : Type} (f : Dev × β → α → Dev × β)
    (hf : ∀ a x, Memory.wf a.1 = true → Memory.wf (f a x).1 = true) (l : List α) {a : Dev × β}
    (h : Memory.wf a.1 = true) : Memory.wf (l.foldl f a).1 = true := by
  induction l generalizing a with
  | nil => exact h
  | cons x xs ih => exact ih (hf a x h)

/-! ## Writes -/

/-- A byte written reads back. -/
theorem Dev.putHbm_same (pa : Nat) (b : Option Byte) {d : Dev} (h : Memory.wf d = true) :
    Tab.get none (d.putHbm pa b).mem.hbm pa = b := Tab.get_set _ _ h _ _

/-- A write leaves every other byte alone. -/
theorem Dev.putHbm_other {pa a : Nat} (b : Option Byte) (d : Dev) (h : a ≠ pa) :
    Tab.get none (d.putHbm pa b).mem.hbm a = Tab.get none d.mem.hbm a := Tab.get_set_ne _ _ _ h

theorem Dev.putHbm_memWf (pa : Nat) (b : Option Byte) {d : Dev} (h : Memory.wf d = true) :
    Memory.wf (d.putHbm pa b) = true := Tab.set_wf _ _ h _ _

theorem Dev.putByte_memWf (pa : Nat) (b : Byte) {d : Dev} (h : Memory.wf d = true) :
    Memory.wf (d.putByte pa b) = true := by
  unfold Dev.putByte
  split
  · exact memWf_of_hbm h (by simp)
  · exact Dev.putHbm_memWf _ _ h

theorem Dev.writeUnit_memWf (f r : Nat) (rg : PlanRegion) (rmw : Bool) (u ra : Nat) (bs : List Byte) {d : Dev}
    (h : Memory.wf d = true) : Memory.wf (d.writeUnit f r rg rmw u ra bs).1 = true := by
  unfold Dev.writeUnit
  split
  · exact h
  · dsimp only
    split
    · refine memWf_of_hbm ?_ (Dev.markDirty_hbm _ _ _ _)
      refine foldl_memWf _ (fun d x hd => ?_) _ h
      exact Dev.putByte_memWf _ _ (memWf_of_hbm hd (Dev.dirtySector_hbm _ _))
    · split
      · exact h
      · split
        · split
          · exact memWf_of_hbm h (by simp)
          · exact memWf_of_hbm h (by simp)
        · have hc := fun k => memWf_of_hbm h (Dev.countWrite_hbm d f r rg u k)
          split
          · refine memWf_of_hbm (d := (_ : List (Byte × Nat)).foldl _ ((d.countWrite f r rg u _).1.clearFlaw rg.unit _)) ?_
              (Dev.markDirty_hbm _ _ _ _)
            refine foldl_memWf _ (fun d x hd => Dev.putByte_memWf _ _ hd) _ ?_
            exact memWf_of_hbm (hc _) (Dev.clearFlaw_hbm _ _ _)
          · exact hc _

theorem Dev.writeRange_memWf (f r ra : Nat) (bs : List Byte) {d : Dev} (h : Memory.wf d = true) :
    Memory.wf (d.writeRange f r ra bs).1 = true := by
  unfold Dev.writeRange
  split
  · exact h
  · refine foldlp_memWf _ (fun a u ha => ?_) _ (a := (d, Hit.ok)) h
    exact Dev.writeUnit_memWf _ _ _ _ _ _ _ ha

theorem Dev.writeObj_memWf (o : Obj) (off : Nat) (bs : List Byte) {d : Dev} (h : Memory.wf d = true) :
    Memory.wf (d.writeObj o off bs).1 = true := Dev.writeRange_memWf _ _ _ _ h

theorem Dev.writePieces_memWf (o : Obj) (ws : List (Nat × List Byte)) {d : Dev} (h : Memory.wf d = true) :
    Memory.wf (d.writePieces o ws).1 = true := by
  unfold Dev.writePieces
  refine foldlp_memWf _ (fun a x ha => ?_) _ (a := (d, Hit.ok)) h
  exact Dev.writeObj_memWf _ _ _ ha

theorem Dev.tryWrite_memWf (n : Nat) (o : Obj) (ws : List (Nat × List Byte)) {d : Dev} (h : Memory.wf d = true) :
    Memory.wf (d.tryWrite n o ws).1 = true := by
  unfold Dev.tryWrite
  split
  · exact h
  · split
    · exact memWf_of_hbm h (by simp)
    · exact Dev.writePieces_memWf _ _ h

/-! ## The cache -/

theorem Dev.writeBack_memWf (key : Nat) {d : Dev} (h : Memory.wf d = true) : Memory.wf (d.writeBack key) = true := by
  unfold Dev.writeBack; dsimp only
  split
  · exact h
  · refine foldl_memWf _ (fun d k hd => ?_) _ h
    have hc := fun f r rg u k => memWf_of_hbm hd (Dev.countWrite_hbm d f r rg u k)
    split
    · exact hd
    · split
      · refine foldl_memWf _ (fun d x hd => Dev.putHbm_memWf _ _ hd) _ ?_
        exact memWf_of_hbm (hc ..) (Dev.clearFlaw_hbm _ _ _)
      · exact hc ..

theorem Dev.makeRoom_memWf (f pa : Nat) {d : Dev} (h : Memory.wf d = true) : Memory.wf (d.makeRoom f pa) = true := by
  unfold Dev.makeRoom; dsimp only
  split
  · exact h
  · split
    · rename_i v _
      exact memWf_of_hbm (Dev.writeBack_memWf v h) (Dev.tick_hbm _)
    · exact h

theorem Dev.fillLine_memWf (f r ra pa : Nat) (rg : PlanRegion) {d : Dev} (h : Memory.wf d = true) :
    Memory.wf (d.fillLine f r ra pa rg) = true := by
  unfold Dev.fillLine; dsimp only
  refine memWf_of_hbm ?_ (Dev.modLine_hbm _ _ _)
  split
  · exact Dev.makeRoom_memWf _ _ h
  · exact h

theorem Dev.serveLine_memWf (r : MemReq) (pa : Nat) {d : Dev} (h : Memory.wf d = true) :
    Memory.wf (d.serveLine r pa) = true := by
  have g : ∀ x : Option (List Byte), Memory.wf (match x with
      | none => d
      | some new =>
        (new.zipIdx.foldl (fun (d : Dev) (b : Byte × Nat) => (d.dirtySector (pa + b.2)).putByte (pa + b.2) b.1) d).markDirty
          r.clearing r.region r.ra) = true := by
    intro x
    split
    · exact h
    · refine memWf_of_hbm ?_ (Dev.markDirty_hbm _ _ _ _)
      refine foldl_memWf _ (fun d x hd => ?_) _ h
      exact Dev.putByte_memWf _ _ (memWf_of_hbm hd (Dev.dirtySector_hbm _ _))
  unfold Dev.serveLine
  refine memWf_of_hbm ?_ (Dev.respond_hbm _ _ _ _ _)
  refine memWf_of_hbm ?_ (Dev.tick_hbm _)
  split
  · exact memWf_of_hbm (g _) (Dev.loseHeld_hbm _)
  · exact g _

theorem Dev.serveNarrow_memWf (r : MemReq) (rg : PlanRegion) {d : Dev} (h : Memory.wf d = true) :
    Memory.wf (d.serveNarrow r rg) = true := by
  unfold Dev.serveNarrow
  split
  · exact memWf_of_hbm (Dev.writeRange_memWf _ _ _ _ h) (Dev.failReq_hbm _ _ _ _ _)
  · refine memWf_of_hbm ?_ (Dev.failReq_hbm _ _ _ _ _)
    exact memWf_of_hbm (Dev.writeUnit_memWf _ _ _ _ _ _ _ h) (Dev.tick_hbm _)
  · exact memWf_of_hbm h (by simp)

theorem Dev.partition_memWf (p : StandPlan) {d : Dev} (h : Memory.wf d = true) : Memory.wf (d.partition p) = true := by
  unfold Dev.partition
  refine foldl_memWf _ (fun d i hd => ?_) _ h
  dsimp only
  split
  · exact memWf_of_hbm (foldl_memWf _ (fun d k hd => Dev.writeBack_memWf k hd) _ hd) rfl
  · exact hd

/-! ## Erasures and free contents -/

theorem Dev.eraseGranules_memWf (gs : List Nat) {d : Dev} (h : Memory.wf d = true) :
    Memory.wf (d.eraseGranules gs) = true := by
  unfold Dev.eraseGranules
  exact Tab.drop_wf none d.mem.hbm h fun pa => gs.contains (pa / 2 ^ 30)

theorem Dev.forgetRegion_memWf (f r : Nat) {d : Dev} (h : Memory.wf d = true) :
    Memory.wf (d.forgetRegion f r) = true := by
  unfold Dev.forgetRegion
  exact Tab.drop_wf none d.mem.hbm h fun pa => (d.granulesOf f r).contains (pa / 2 ^ 30)

theorem Dev.formRegion_memWf (f r : Nat) {d : Dev} (h : Memory.wf d = true) :
    Memory.wf (d.formRegion f r) = true := by
  refine memWf_of_hbm (Dev.eraseGranules_memWf (d.granulesOf f r) h) ?_
  unfold Dev.formRegion
  simp

theorem Dev.formAll_memWf (f : Nat) {d : Dev} (h : Memory.wf d = true) : Memory.wf (d.formAll f) = true := by
  unfold Dev.formAll
  split
  · exact foldl_memWf _ (fun d r hd => Dev.formRegion_memWf _ _ hd) _ h
  · exact h

theorem Dev.swapPair_memWf (n : Nat) (slots : List Nat) {d : Dev} (h : Memory.wf d = true) :
    Memory.wf (d.swapPair n slots) = true := by
  unfold Dev.swapPair; dsimp only
  refine memWf_of_hbm ?_ (Dev.raise_hbm _ _ _)
  refine memWf_of_hbm ?_ (foldl_hbm _ (fun d s => Dev.remeasureSlot_hbm d s) _ _)
  have h₁ : Memory.wf ((slots.foldl (fun d s => d.modSlot s (Slot.swapIn · true)) d).modFrame n
      fun x => { x with kg := !x.kg, rekey := true, sweepPos := 0 }) = true := by
    refine memWf_of_hbm h ?_
    simp
  split
  · exact foldl_memWf _ (fun d r hd => Dev.forgetRegion_memWf _ _ hd) _ h₁
  · exact h₁

theorem doBist_memWf {d : Dev} (h : Memory.wf d = true) : Memory.wf (doBist d) = true := by
  unfold doBist Dev.tapSelect
  dsimp only
  split
  · split
    · exact memWf_of_hbm (d := { d with mem := { d.mem with hbm := [] } }) rfl rfl
    · exact memWf_of_hbm h rfl
  · exact memWf_of_hbm h rfl

/-! ## Repairs and restores -/

theorem Dev.repairChunk_memWf (f r ra : Nat) (rg : PlanRegion) (data : List Byte) {d : Dev}
    (h : Memory.wf d = true) : Memory.wf (d.repairChunk f r ra rg data) = true := by
  unfold Dev.repairChunk
  refine foldl_memWf _ (fun d i hd => ?_) _ h
  dsimp only
  split
  · exact hd
  · split
    · exact hd
    · refine memWf_of_hbm ?_ (Dev.countWrite_hbm _ _ _ _ _ _)
      refine foldl_memWf _ (fun d x hd => Dev.putByte_memWf _ _ hd) _ ?_
      exact memWf_of_hbm hd (by simp)

theorem Dev.restoreByte_memWf (p : StandPlan) (n : Nat) (x : Nat × Byte) {d : Dev} (h : Memory.wf d = true) :
    Memory.wf (d.restoreByte p n x) = true := by
  unfold Dev.restoreByte
  split
  · exact h
  · split
    · exact Dev.putByte_memWf _ _ (memWf_of_hbm h (by simp))
    · exact h

theorem Dev.restoreClr_memWf (p : StandPlan) (x : RestoreImage) {d : Dev} (h : Memory.wf d = true) :
    Memory.wf (d.restoreClr p x) = true := by
  unfold Dev.restoreClr; dsimp only
  refine memWf_of_hbm (d := (x.copies.flatMap fun c => c.bytes (d.imageKey x)).foldl
    (fun (d : Dev) b => d.restoreByte p x.clearing.val b) d) ?_ (by simp [foldl_hbm])
  exact foldl_memWf _ (fun d b hd => Dev.restoreByte_memWf _ _ _ hd) _ h

/-! ## What a line's decoding leaves altered -/

theorem Dev.takeFlaw_memWf (pa : Nat) (c : Bool) (flaw : BitVec 512) {d : Dev} (h : Memory.wf d = true) :
    Memory.wf (d.takeFlaw pa c flaw) = true := by
  unfold Dev.takeFlaw
  split
  · exact h
  · split
    · refine foldl_memWf _ (fun d i hd => ?_) _ h
      dsimp only
      split
      · exact Dev.putHbm_memWf _ _ hd
      · exact hd
    · exact memWf_of_hbm h rfl

theorem Dev.lineCame_memWf (pa : Nat) (c : Bool) (x : RsOut) {d : Dev} (h : Memory.wf d = true) :
    Memory.wf (d.lineCame pa c x) = true := by
  unfold Dev.lineCame; dsimp only
  refine Dev.takeFlaw_memWf _ _ _ (memWf_of_hbm h ?_)
  split <;> simp

theorem Dev.lineReturns_memWf (f r ra : Nat) (rg : PlanRegion) (write partialW : Bool) (es : List SymErr) (lv : Level)
    {d : Dev} (h : Memory.wf d = true) : Memory.wf (d.lineReturns f r ra rg write partialW es lv).1 = true := by
  unfold Dev.lineReturns
  split
  · exact h
  · exact memWf_of_hbm h (Dev.resolveLine_hbm ..)
  · exact h
  · exact memWf_of_hbm (Dev.lineCame_memWf _ _ _ h) (Dev.resolveLine_hbm ..)

theorem doHbmLineRead_memWf (s sa : Nat) (write partialW : Bool) (es : List SymErr) (lv : Level)
    (forReq : Option Nat) {d : Dev} (h : Memory.wf d = true) :
    Memory.wf (doHbmLineRead s sa write partialW es lv forReq d) = true := by
  unfold doHbmLineRead; dsimp only
  split
  · exact h
  · split
    · split
      · exact memWf_of_hbm h (by simp)
      · split
        · exact memWf_of_hbm h (by simp)
        · exact h
    · exact memWf_of_hbm (Dev.lineReturns_memWf _ _ _ _ _ _ _ _ h) (Dev.answerLine_hbm ..)

theorem doPatrolRead_memWf (s sa : Nat) (es : List SymErr) {d : Dev} (h : Memory.wf d = true) :
    Memory.wf (doPatrolRead s sa es d) = true := by
  unfold doPatrolRead; dsimp only
  split
  · exact h
  · split
    · exact Dev.lineCame_memWf _ _ _ h
    · split
      · exact h
      · exact memWf_of_hbm h (by simp)

theorem Dev.forgetMemory_memWf (d : Dev) : Memory.wf d.forgetMemory = true := rfl

/-! ## The state after reset -/

theorem reset_memWf : Memory.wf State.reset.dev = true := rfl

end Sys2Proof.Machine
end

