-- ==== Sys2Proof/Laws/State.lean ====
section
/-! SUPPORT. What each update of a table of the device leaves alone, field by field, and what it writes. The
lemmas about the life-cycle block stand in Laws/Lcs.lean. -/

namespace Sys2Proof.Machine
open Sys2Proof

/-! ## Dev.modClr -/

@[simp] theorem Dev.modClr_free (d : Dev) (n : Nat) (f : Clearing → Clearing) : (d.modClr n f).free = d.free := rfl
@[simp] theorem Dev.modClr_timeUs (d : Dev) (n : Nat) (f : Clearing → Clearing) : (d.modClr n f).timeUs = d.timeUs := rfl
@[simp] theorem Dev.modClr_bus (d : Dev) (n : Nat) (f : Clearing → Clearing) : (d.modClr n f).bus = d.bus := rfl
@[simp] theorem Dev.modClr_ev (d : Dev) (n : Nat) (f : Clearing → Clearing) : (d.modClr n f).ev = d.ev := rfl
@[simp] theorem Dev.modClr_tide (d : Dev) (n : Nat) (f : Clearing → Clearing) : (d.modClr n f).tide = d.tide := rfl
@[simp] theorem Dev.modClr_plan (d : Dev) (n : Nat) (f : Clearing → Clearing) : (d.modClr n f).plan = d.plan := rfl
@[simp] theorem Dev.modClr_sched (d : Dev) (n : Nat) (f : Clearing → Clearing) : (d.modClr n f).sched = d.sched := rfl
@[simp] theorem Dev.modClr_tiles (d : Dev) (n : Nat) (f : Clearing → Clearing) : (d.modClr n f).tiles = d.tiles := rfl
@[simp] theorem Dev.modClr_ctxs (d : Dev) (n : Nat) (f : Clearing → Clearing) : (d.modClr n f).ctxs = d.ctxs := rfl
@[simp] theorem Dev.modClr_launches (d : Dev) (n : Nat) (f : Clearing → Clearing) : (d.modClr n f).launches = d.launches := rfl
@[simp] theorem Dev.modClr_nextLaunch (d : Dev) (n : Nat) (f : Clearing → Clearing) : (d.modClr n f).nextLaunch = d.nextLaunch := rfl
@[simp] theorem Dev.modClr_mem (d : Dev) (n : Nat) (f : Clearing → Clearing) : (d.modClr n f).mem = d.mem := rfl
@[simp] theorem Dev.modClr_sec (d : Dev) (n : Nat) (f : Clearing → Clearing) : (d.modClr n f).sec = d.sec := rfl
@[simp] theorem Dev.modClr_spdm (d : Dev) (n : Nat) (f : Clearing → Clearing) : (d.modClr n f).spdm = d.spdm := rfl
@[simp] theorem Dev.modClr_lnk (d : Dev) (n : Nat) (f : Clearing → Clearing) : (d.modClr n f).lnk = d.lnk := rfl
@[simp] theorem Dev.modClr_host (d : Dev) (n : Nat) (f : Clearing → Clearing) : (d.modClr n f).host = d.host := rfl
@[simp] theorem Dev.modClr_stl (d : Dev) (n : Nat) (f : Clearing → Clearing) : (d.modClr n f).stl = d.stl := rfl
@[simp] theorem Dev.modClr_flt (d : Dev) (n : Nat) (f : Clearing → Clearing) : (d.modClr n f).flt = d.flt := rfl
@[simp] theorem Dev.modClr_dbg (d : Dev) (n : Nat) (f : Clearing → Clearing) : (d.modClr n f).dbg = d.dbg := rfl
@[simp] theorem Dev.modClr_pwr (d : Dev) (n : Nat) (f : Clearing → Clearing) : (d.modClr n f).pwr = d.pwr := rfl
@[simp] theorem Dev.modClr_thm (d : Dev) (n : Nat) (f : Clearing → Clearing) : (d.modClr n f).thm = d.thm := rfl
@[simp] theorem Dev.modClr_pins (d : Dev) (n : Nat) (f : Clearing → Clearing) : (d.modClr n f).pins = d.pins := rfl
@[simp] theorem Dev.modClr_outbox (d : Dev) (n : Nat) (f : Clearing → Clearing) : (d.modClr n f).outbox = d.outbox := rfl

/-! ## Dev.modTile -/

@[simp] theorem Dev.modTile_free (d : Dev) (n : Nat) (f : TileSt → TileSt) : (d.modTile n f).free = d.free := rfl
@[simp] theorem Dev.modTile_timeUs (d : Dev) (n : Nat) (f : TileSt → TileSt) : (d.modTile n f).timeUs = d.timeUs := rfl
@[simp] theorem Dev.modTile_bus (d : Dev) (n : Nat) (f : TileSt → TileSt) : (d.modTile n f).bus = d.bus := rfl
@[simp] theorem Dev.modTile_ev (d : Dev) (n : Nat) (f : TileSt → TileSt) : (d.modTile n f).ev = d.ev := rfl
@[simp] theorem Dev.modTile_tide (d : Dev) (n : Nat) (f : TileSt → TileSt) : (d.modTile n f).tide = d.tide := rfl
@[simp] theorem Dev.modTile_plan (d : Dev) (n : Nat) (f : TileSt → TileSt) : (d.modTile n f).plan = d.plan := rfl
@[simp] theorem Dev.modTile_sched (d : Dev) (n : Nat) (f : TileSt → TileSt) : (d.modTile n f).sched = d.sched := rfl
@[simp] theorem Dev.modTile_clrs (d : Dev) (n : Nat) (f : TileSt → TileSt) : (d.modTile n f).clrs = d.clrs := rfl
@[simp] theorem Dev.modTile_ctxs (d : Dev) (n : Nat) (f : TileSt → TileSt) : (d.modTile n f).ctxs = d.ctxs := rfl
@[simp] theorem Dev.modTile_launches (d : Dev) (n : Nat) (f : TileSt → TileSt) : (d.modTile n f).launches = d.launches := rfl
@[simp] theorem Dev.modTile_nextLaunch (d : Dev) (n : Nat) (f : TileSt → TileSt) : (d.modTile n f).nextLaunch = d.nextLaunch := rfl
@[simp] theorem Dev.modTile_mem (d : Dev) (n : Nat) (f : TileSt → TileSt) : (d.modTile n f).mem = d.mem := rfl
@[simp] theorem Dev.modTile_sec (d : Dev) (n : Nat) (f : TileSt → TileSt) : (d.modTile n f).sec = d.sec := rfl
@[simp] theorem Dev.modTile_spdm (d : Dev) (n : Nat) (f : TileSt → TileSt) : (d.modTile n f).spdm = d.spdm := rfl
@[simp] theorem Dev.modTile_lnk (d : Dev) (n : Nat) (f : TileSt → TileSt) : (d.modTile n f).lnk = d.lnk := rfl
@[simp] theorem Dev.modTile_host (d : Dev) (n : Nat) (f : TileSt → TileSt) : (d.modTile n f).host = d.host := rfl
@[simp] theorem Dev.modTile_stl (d : Dev) (n : Nat) (f : TileSt → TileSt) : (d.modTile n f).stl = d.stl := rfl
@[simp] theorem Dev.modTile_flt (d : Dev) (n : Nat) (f : TileSt → TileSt) : (d.modTile n f).flt = d.flt := rfl
@[simp] theorem Dev.modTile_dbg (d : Dev) (n : Nat) (f : TileSt → TileSt) : (d.modTile n f).dbg = d.dbg := rfl
@[simp] theorem Dev.modTile_pwr (d : Dev) (n : Nat) (f : TileSt → TileSt) : (d.modTile n f).pwr = d.pwr := rfl
@[simp] theorem Dev.modTile_thm (d : Dev) (n : Nat) (f : TileSt → TileSt) : (d.modTile n f).thm = d.thm := rfl
@[simp] theorem Dev.modTile_pins (d : Dev) (n : Nat) (f : TileSt → TileSt) : (d.modTile n f).pins = d.pins := rfl
@[simp] theorem Dev.modTile_outbox (d : Dev) (n : Nat) (f : TileSt → TileSt) : (d.modTile n f).outbox = d.outbox := rfl

/-! ## Dev.modCtx -/

@[simp] theorem Dev.modCtx_free (d : Dev) (n : Nat) (f : Ctx → Ctx) : (d.modCtx n f).free = d.free := rfl
@[simp] theorem Dev.modCtx_timeUs (d : Dev) (n : Nat) (f : Ctx → Ctx) : (d.modCtx n f).timeUs = d.timeUs := rfl
@[simp] theorem Dev.modCtx_bus (d : Dev) (n : Nat) (f : Ctx → Ctx) : (d.modCtx n f).bus = d.bus := rfl
@[simp] theorem Dev.modCtx_ev (d : Dev) (n : Nat) (f : Ctx → Ctx) : (d.modCtx n f).ev = d.ev := rfl
@[simp] theorem Dev.modCtx_tide (d : Dev) (n : Nat) (f : Ctx → Ctx) : (d.modCtx n f).tide = d.tide := rfl
@[simp] theorem Dev.modCtx_plan (d : Dev) (n : Nat) (f : Ctx → Ctx) : (d.modCtx n f).plan = d.plan := rfl
@[simp] theorem Dev.modCtx_sched (d : Dev) (n : Nat) (f : Ctx → Ctx) : (d.modCtx n f).sched = d.sched := rfl
@[simp] theorem Dev.modCtx_clrs (d : Dev) (n : Nat) (f : Ctx → Ctx) : (d.modCtx n f).clrs = d.clrs := rfl
@[simp] theorem Dev.modCtx_tiles (d : Dev) (n : Nat) (f : Ctx → Ctx) : (d.modCtx n f).tiles = d.tiles := rfl
@[simp] theorem Dev.modCtx_launches (d : Dev) (n : Nat) (f : Ctx → Ctx) : (d.modCtx n f).launches = d.launches := rfl
@[simp] theorem Dev.modCtx_nextLaunch (d : Dev) (n : Nat) (f : Ctx → Ctx) : (d.modCtx n f).nextLaunch = d.nextLaunch := rfl
@[simp] theorem Dev.modCtx_mem (d : Dev) (n : Nat) (f : Ctx → Ctx) : (d.modCtx n f).mem = d.mem := rfl
@[simp] theorem Dev.modCtx_sec (d : Dev) (n : Nat) (f : Ctx → Ctx) : (d.modCtx n f).sec = d.sec := rfl
@[simp] theorem Dev.modCtx_spdm (d : Dev) (n : Nat) (f : Ctx → Ctx) : (d.modCtx n f).spdm = d.spdm := rfl
@[simp] theorem Dev.modCtx_lnk (d : Dev) (n : Nat) (f : Ctx → Ctx) : (d.modCtx n f).lnk = d.lnk := rfl
@[simp] theorem Dev.modCtx_host (d : Dev) (n : Nat) (f : Ctx → Ctx) : (d.modCtx n f).host = d.host := rfl
@[simp] theorem Dev.modCtx_stl (d : Dev) (n : Nat) (f : Ctx → Ctx) : (d.modCtx n f).stl = d.stl := rfl
@[simp] theorem Dev.modCtx_flt (d : Dev) (n : Nat) (f : Ctx → Ctx) : (d.modCtx n f).flt = d.flt := rfl
@[simp] theorem Dev.modCtx_dbg (d : Dev) (n : Nat) (f : Ctx → Ctx) : (d.modCtx n f).dbg = d.dbg := rfl
@[simp] theorem Dev.modCtx_pwr (d : Dev) (n : Nat) (f : Ctx → Ctx) : (d.modCtx n f).pwr = d.pwr := rfl
@[simp] theorem Dev.modCtx_thm (d : Dev) (n : Nat) (f : Ctx → Ctx) : (d.modCtx n f).thm = d.thm := rfl
@[simp] theorem Dev.modCtx_pins (d : Dev) (n : Nat) (f : Ctx → Ctx) : (d.modCtx n f).pins = d.pins := rfl
@[simp] theorem Dev.modCtx_outbox (d : Dev) (n : Nat) (f : Ctx → Ctx) : (d.modCtx n f).outbox = d.outbox := rfl

/-! ## Dev.modLink -/

@[simp] theorem Dev.modLink_free (d : Dev) (n : Nat) (f : Link → Link) : (d.modLink n f).free = d.free := rfl
@[simp] theorem Dev.modLink_timeUs (d : Dev) (n : Nat) (f : Link → Link) : (d.modLink n f).timeUs = d.timeUs := rfl
@[simp] theorem Dev.modLink_bus (d : Dev) (n : Nat) (f : Link → Link) : (d.modLink n f).bus = d.bus := rfl
@[simp] theorem Dev.modLink_ev (d : Dev) (n : Nat) (f : Link → Link) : (d.modLink n f).ev = d.ev := rfl
@[simp] theorem Dev.modLink_tide (d : Dev) (n : Nat) (f : Link → Link) : (d.modLink n f).tide = d.tide := rfl
@[simp] theorem Dev.modLink_plan (d : Dev) (n : Nat) (f : Link → Link) : (d.modLink n f).plan = d.plan := rfl
@[simp] theorem Dev.modLink_sched (d : Dev) (n : Nat) (f : Link → Link) : (d.modLink n f).sched = d.sched := rfl
@[simp] theorem Dev.modLink_clrs (d : Dev) (n : Nat) (f : Link → Link) : (d.modLink n f).clrs = d.clrs := rfl
@[simp] theorem Dev.modLink_tiles (d : Dev) (n : Nat) (f : Link → Link) : (d.modLink n f).tiles = d.tiles := rfl
@[simp] theorem Dev.modLink_ctxs (d : Dev) (n : Nat) (f : Link → Link) : (d.modLink n f).ctxs = d.ctxs := rfl
@[simp] theorem Dev.modLink_launches (d : Dev) (n : Nat) (f : Link → Link) : (d.modLink n f).launches = d.launches := rfl
@[simp] theorem Dev.modLink_nextLaunch (d : Dev) (n : Nat) (f : Link → Link) : (d.modLink n f).nextLaunch = d.nextLaunch := rfl
@[simp] theorem Dev.modLink_mem (d : Dev) (n : Nat) (f : Link → Link) : (d.modLink n f).mem = d.mem := rfl
@[simp] theorem Dev.modLink_sec (d : Dev) (n : Nat) (f : Link → Link) : (d.modLink n f).sec = d.sec := rfl
@[simp] theorem Dev.modLink_spdm (d : Dev) (n : Nat) (f : Link → Link) : (d.modLink n f).spdm = d.spdm := rfl
@[simp] theorem Dev.modLink_host (d : Dev) (n : Nat) (f : Link → Link) : (d.modLink n f).host = d.host := rfl
@[simp] theorem Dev.modLink_stl (d : Dev) (n : Nat) (f : Link → Link) : (d.modLink n f).stl = d.stl := rfl
@[simp] theorem Dev.modLink_flt (d : Dev) (n : Nat) (f : Link → Link) : (d.modLink n f).flt = d.flt := rfl
@[simp] theorem Dev.modLink_dbg (d : Dev) (n : Nat) (f : Link → Link) : (d.modLink n f).dbg = d.dbg := rfl
@[simp] theorem Dev.modLink_pwr (d : Dev) (n : Nat) (f : Link → Link) : (d.modLink n f).pwr = d.pwr := rfl
@[simp] theorem Dev.modLink_thm (d : Dev) (n : Nat) (f : Link → Link) : (d.modLink n f).thm = d.thm := rfl
@[simp] theorem Dev.modLink_pins (d : Dev) (n : Nat) (f : Link → Link) : (d.modLink n f).pins = d.pins := rfl
@[simp] theorem Dev.modLink_outbox (d : Dev) (n : Nat) (f : Link → Link) : (d.modLink n f).outbox = d.outbox := rfl

/-! ## Dev.modQueue -/

@[simp] theorem Dev.modQueue_free (d : Dev) (n : Nat) (f : Queue → Queue) : (d.modQueue n f).free = d.free := rfl
@[simp] theorem Dev.modQueue_timeUs (d : Dev) (n : Nat) (f : Queue → Queue) : (d.modQueue n f).timeUs = d.timeUs := rfl
@[simp] theorem Dev.modQueue_bus (d : Dev) (n : Nat) (f : Queue → Queue) : (d.modQueue n f).bus = d.bus := rfl
@[simp] theorem Dev.modQueue_ev (d : Dev) (n : Nat) (f : Queue → Queue) : (d.modQueue n f).ev = d.ev := rfl
@[simp] theorem Dev.modQueue_tide (d : Dev) (n : Nat) (f : Queue → Queue) : (d.modQueue n f).tide = d.tide := rfl
@[simp] theorem Dev.modQueue_plan (d : Dev) (n : Nat) (f : Queue → Queue) : (d.modQueue n f).plan = d.plan := rfl
@[simp] theorem Dev.modQueue_sched (d : Dev) (n : Nat) (f : Queue → Queue) : (d.modQueue n f).sched = d.sched := rfl
@[simp] theorem Dev.modQueue_clrs (d : Dev) (n : Nat) (f : Queue → Queue) : (d.modQueue n f).clrs = d.clrs := rfl
@[simp] theorem Dev.modQueue_tiles (d : Dev) (n : Nat) (f : Queue → Queue) : (d.modQueue n f).tiles = d.tiles := rfl
@[simp] theorem Dev.modQueue_ctxs (d : Dev) (n : Nat) (f : Queue → Queue) : (d.modQueue n f).ctxs = d.ctxs := rfl
@[simp] theorem Dev.modQueue_launches (d : Dev) (n : Nat) (f : Queue → Queue) : (d.modQueue n f).launches = d.launches := rfl
@[simp] theorem Dev.modQueue_nextLaunch (d : Dev) (n : Nat) (f : Queue → Queue) : (d.modQueue n f).nextLaunch = d.nextLaunch := rfl
@[simp] theorem Dev.modQueue_mem (d : Dev) (n : Nat) (f : Queue → Queue) : (d.modQueue n f).mem = d.mem := rfl
@[simp] theorem Dev.modQueue_sec (d : Dev) (n : Nat) (f : Queue → Queue) : (d.modQueue n f).sec = d.sec := rfl
@[simp] theorem Dev.modQueue_spdm (d : Dev) (n : Nat) (f : Queue → Queue) : (d.modQueue n f).spdm = d.spdm := rfl
@[simp] theorem Dev.modQueue_lnk (d : Dev) (n : Nat) (f : Queue → Queue) : (d.modQueue n f).lnk = d.lnk := rfl
@[simp] theorem Dev.modQueue_stl (d : Dev) (n : Nat) (f : Queue → Queue) : (d.modQueue n f).stl = d.stl := rfl
@[simp] theorem Dev.modQueue_flt (d : Dev) (n : Nat) (f : Queue → Queue) : (d.modQueue n f).flt = d.flt := rfl
@[simp] theorem Dev.modQueue_dbg (d : Dev) (n : Nat) (f : Queue → Queue) : (d.modQueue n f).dbg = d.dbg := rfl
@[simp] theorem Dev.modQueue_pwr (d : Dev) (n : Nat) (f : Queue → Queue) : (d.modQueue n f).pwr = d.pwr := rfl
@[simp] theorem Dev.modQueue_thm (d : Dev) (n : Nat) (f : Queue → Queue) : (d.modQueue n f).thm = d.thm := rfl
@[simp] theorem Dev.modQueue_pins (d : Dev) (n : Nat) (f : Queue → Queue) : (d.modQueue n f).pins = d.pins := rfl
@[simp] theorem Dev.modQueue_outbox (d : Dev) (n : Nat) (f : Queue → Queue) : (d.modQueue n f).outbox = d.outbox := rfl

/-! ## Dev.modObj -/

@[simp] theorem Dev.modObj_free (d : Dev) (n : Nat) (f : Obj → Obj) : (d.modObj n f).free = d.free := rfl
@[simp] theorem Dev.modObj_timeUs (d : Dev) (n : Nat) (f : Obj → Obj) : (d.modObj n f).timeUs = d.timeUs := rfl
@[simp] theorem Dev.modObj_bus (d : Dev) (n : Nat) (f : Obj → Obj) : (d.modObj n f).bus = d.bus := rfl
@[simp] theorem Dev.modObj_ev (d : Dev) (n : Nat) (f : Obj → Obj) : (d.modObj n f).ev = d.ev := rfl
@[simp] theorem Dev.modObj_tide (d : Dev) (n : Nat) (f : Obj → Obj) : (d.modObj n f).tide = d.tide := rfl
@[simp] theorem Dev.modObj_plan (d : Dev) (n : Nat) (f : Obj → Obj) : (d.modObj n f).plan = d.plan := rfl
@[simp] theorem Dev.modObj_sched (d : Dev) (n : Nat) (f : Obj → Obj) : (d.modObj n f).sched = d.sched := rfl
@[simp] theorem Dev.modObj_clrs (d : Dev) (n : Nat) (f : Obj → Obj) : (d.modObj n f).clrs = d.clrs := rfl
@[simp] theorem Dev.modObj_tiles (d : Dev) (n : Nat) (f : Obj → Obj) : (d.modObj n f).tiles = d.tiles := rfl
@[simp] theorem Dev.modObj_ctxs (d : Dev) (n : Nat) (f : Obj → Obj) : (d.modObj n f).ctxs = d.ctxs := rfl
@[simp] theorem Dev.modObj_launches (d : Dev) (n : Nat) (f : Obj → Obj) : (d.modObj n f).launches = d.launches := rfl
@[simp] theorem Dev.modObj_nextLaunch (d : Dev) (n : Nat) (f : Obj → Obj) : (d.modObj n f).nextLaunch = d.nextLaunch := rfl
@[simp] theorem Dev.modObj_mem (d : Dev) (n : Nat) (f : Obj → Obj) : (d.modObj n f).mem = d.mem := rfl
@[simp] theorem Dev.modObj_sec (d : Dev) (n : Nat) (f : Obj → Obj) : (d.modObj n f).sec = d.sec := rfl
@[simp] theorem Dev.modObj_spdm (d : Dev) (n : Nat) (f : Obj → Obj) : (d.modObj n f).spdm = d.spdm := rfl
@[simp] theorem Dev.modObj_lnk (d : Dev) (n : Nat) (f : Obj → Obj) : (d.modObj n f).lnk = d.lnk := rfl
@[simp] theorem Dev.modObj_stl (d : Dev) (n : Nat) (f : Obj → Obj) : (d.modObj n f).stl = d.stl := rfl
@[simp] theorem Dev.modObj_flt (d : Dev) (n : Nat) (f : Obj → Obj) : (d.modObj n f).flt = d.flt := rfl
@[simp] theorem Dev.modObj_dbg (d : Dev) (n : Nat) (f : Obj → Obj) : (d.modObj n f).dbg = d.dbg := rfl
@[simp] theorem Dev.modObj_pwr (d : Dev) (n : Nat) (f : Obj → Obj) : (d.modObj n f).pwr = d.pwr := rfl
@[simp] theorem Dev.modObj_thm (d : Dev) (n : Nat) (f : Obj → Obj) : (d.modObj n f).thm = d.thm := rfl
@[simp] theorem Dev.modObj_pins (d : Dev) (n : Nat) (f : Obj → Obj) : (d.modObj n f).pins = d.pins := rfl
@[simp] theorem Dev.modObj_outbox (d : Dev) (n : Nat) (f : Obj → Obj) : (d.modObj n f).outbox = d.outbox := rfl

/-! ## Dev.modFence -/

@[simp] theorem Dev.modFence_free (d : Dev) (n : Nat) (f : Fence → Fence) : (d.modFence n f).free = d.free := rfl
@[simp] theorem Dev.modFence_timeUs (d : Dev) (n : Nat) (f : Fence → Fence) : (d.modFence n f).timeUs = d.timeUs := rfl
@[simp] theorem Dev.modFence_bus (d : Dev) (n : Nat) (f : Fence → Fence) : (d.modFence n f).bus = d.bus := rfl
@[simp] theorem Dev.modFence_ev (d : Dev) (n : Nat) (f : Fence → Fence) : (d.modFence n f).ev = d.ev := rfl
@[simp] theorem Dev.modFence_tide (d : Dev) (n : Nat) (f : Fence → Fence) : (d.modFence n f).tide = d.tide := rfl
@[simp] theorem Dev.modFence_plan (d : Dev) (n : Nat) (f : Fence → Fence) : (d.modFence n f).plan = d.plan := rfl
@[simp] theorem Dev.modFence_sched (d : Dev) (n : Nat) (f : Fence → Fence) : (d.modFence n f).sched = d.sched := rfl
@[simp] theorem Dev.modFence_clrs (d : Dev) (n : Nat) (f : Fence → Fence) : (d.modFence n f).clrs = d.clrs := rfl
@[simp] theorem Dev.modFence_tiles (d : Dev) (n : Nat) (f : Fence → Fence) : (d.modFence n f).tiles = d.tiles := rfl
@[simp] theorem Dev.modFence_ctxs (d : Dev) (n : Nat) (f : Fence → Fence) : (d.modFence n f).ctxs = d.ctxs := rfl
@[simp] theorem Dev.modFence_launches (d : Dev) (n : Nat) (f : Fence → Fence) : (d.modFence n f).launches = d.launches := rfl
@[simp] theorem Dev.modFence_nextLaunch (d : Dev) (n : Nat) (f : Fence → Fence) : (d.modFence n f).nextLaunch = d.nextLaunch := rfl
@[simp] theorem Dev.modFence_mem (d : Dev) (n : Nat) (f : Fence → Fence) : (d.modFence n f).mem = d.mem := rfl
@[simp] theorem Dev.modFence_sec (d : Dev) (n : Nat) (f : Fence → Fence) : (d.modFence n f).sec = d.sec := rfl
@[simp] theorem Dev.modFence_spdm (d : Dev) (n : Nat) (f : Fence → Fence) : (d.modFence n f).spdm = d.spdm := rfl
@[simp] theorem Dev.modFence_lnk (d : Dev) (n : Nat) (f : Fence → Fence) : (d.modFence n f).lnk = d.lnk := rfl
@[simp] theorem Dev.modFence_stl (d : Dev) (n : Nat) (f : Fence → Fence) : (d.modFence n f).stl = d.stl := rfl
@[simp] theorem Dev.modFence_flt (d : Dev) (n : Nat) (f : Fence → Fence) : (d.modFence n f).flt = d.flt := rfl
@[simp] theorem Dev.modFence_dbg (d : Dev) (n : Nat) (f : Fence → Fence) : (d.modFence n f).dbg = d.dbg := rfl
@[simp] theorem Dev.modFence_pwr (d : Dev) (n : Nat) (f : Fence → Fence) : (d.modFence n f).pwr = d.pwr := rfl
@[simp] theorem Dev.modFence_thm (d : Dev) (n : Nat) (f : Fence → Fence) : (d.modFence n f).thm = d.thm := rfl
@[simp] theorem Dev.modFence_pins (d : Dev) (n : Nat) (f : Fence → Fence) : (d.modFence n f).pins = d.pins := rfl
@[simp] theorem Dev.modFence_outbox (d : Dev) (n : Nat) (f : Fence → Fence) : (d.modFence n f).outbox = d.outbox := rfl

/-! ## Dev.modSlot -/

@[simp] theorem Dev.modSlot_free (d : Dev) (n : Nat) (f : Slot → Slot) : (d.modSlot n f).free = d.free := rfl
@[simp] theorem Dev.modSlot_timeUs (d : Dev) (n : Nat) (f : Slot → Slot) : (d.modSlot n f).timeUs = d.timeUs := rfl
@[simp] theorem Dev.modSlot_bus (d : Dev) (n : Nat) (f : Slot → Slot) : (d.modSlot n f).bus = d.bus := rfl
@[simp] theorem Dev.modSlot_ev (d : Dev) (n : Nat) (f : Slot → Slot) : (d.modSlot n f).ev = d.ev := rfl
@[simp] theorem Dev.modSlot_tide (d : Dev) (n : Nat) (f : Slot → Slot) : (d.modSlot n f).tide = d.tide := rfl
@[simp] theorem Dev.modSlot_plan (d : Dev) (n : Nat) (f : Slot → Slot) : (d.modSlot n f).plan = d.plan := rfl
@[simp] theorem Dev.modSlot_sched (d : Dev) (n : Nat) (f : Slot → Slot) : (d.modSlot n f).sched = d.sched := rfl
@[simp] theorem Dev.modSlot_clrs (d : Dev) (n : Nat) (f : Slot → Slot) : (d.modSlot n f).clrs = d.clrs := rfl
@[simp] theorem Dev.modSlot_tiles (d : Dev) (n : Nat) (f : Slot → Slot) : (d.modSlot n f).tiles = d.tiles := rfl
@[simp] theorem Dev.modSlot_ctxs (d : Dev) (n : Nat) (f : Slot → Slot) : (d.modSlot n f).ctxs = d.ctxs := rfl
@[simp] theorem Dev.modSlot_launches (d : Dev) (n : Nat) (f : Slot → Slot) : (d.modSlot n f).launches = d.launches := rfl
@[simp] theorem Dev.modSlot_nextLaunch (d : Dev) (n : Nat) (f : Slot → Slot) : (d.modSlot n f).nextLaunch = d.nextLaunch := rfl
@[simp] theorem Dev.modSlot_mem (d : Dev) (n : Nat) (f : Slot → Slot) : (d.modSlot n f).mem = d.mem := rfl
@[simp] theorem Dev.modSlot_spdm (d : Dev) (n : Nat) (f : Slot → Slot) : (d.modSlot n f).spdm = d.spdm := rfl
@[simp] theorem Dev.modSlot_lnk (d : Dev) (n : Nat) (f : Slot → Slot) : (d.modSlot n f).lnk = d.lnk := rfl
@[simp] theorem Dev.modSlot_host (d : Dev) (n : Nat) (f : Slot → Slot) : (d.modSlot n f).host = d.host := rfl
@[simp] theorem Dev.modSlot_stl (d : Dev) (n : Nat) (f : Slot → Slot) : (d.modSlot n f).stl = d.stl := rfl
@[simp] theorem Dev.modSlot_flt (d : Dev) (n : Nat) (f : Slot → Slot) : (d.modSlot n f).flt = d.flt := rfl
@[simp] theorem Dev.modSlot_dbg (d : Dev) (n : Nat) (f : Slot → Slot) : (d.modSlot n f).dbg = d.dbg := rfl
@[simp] theorem Dev.modSlot_pwr (d : Dev) (n : Nat) (f : Slot → Slot) : (d.modSlot n f).pwr = d.pwr := rfl
@[simp] theorem Dev.modSlot_thm (d : Dev) (n : Nat) (f : Slot → Slot) : (d.modSlot n f).thm = d.thm := rfl
@[simp] theorem Dev.modSlot_pins (d : Dev) (n : Nat) (f : Slot → Slot) : (d.modSlot n f).pins = d.pins := rfl
@[simp] theorem Dev.modSlot_outbox (d : Dev) (n : Nat) (f : Slot → Slot) : (d.modSlot n f).outbox = d.outbox := rfl

/-! ## Dev.modFrame -/

@[simp] theorem Dev.modFrame_free (d : Dev) (n : Nat) (f : McxFrame → McxFrame) : (d.modFrame n f).free = d.free := rfl
@[simp] theorem Dev.modFrame_timeUs (d : Dev) (n : Nat) (f : McxFrame → McxFrame) : (d.modFrame n f).timeUs = d.timeUs := rfl
@[simp] theorem Dev.modFrame_bus (d : Dev) (n : Nat) (f : McxFrame → McxFrame) : (d.modFrame n f).bus = d.bus := rfl
@[simp] theorem Dev.modFrame_ev (d : Dev) (n : Nat) (f : McxFrame → McxFrame) : (d.modFrame n f).ev = d.ev := rfl
@[simp] theorem Dev.modFrame_tide (d : Dev) (n : Nat) (f : McxFrame → McxFrame) : (d.modFrame n f).tide = d.tide := rfl
@[simp] theorem Dev.modFrame_plan (d : Dev) (n : Nat) (f : McxFrame → McxFrame) : (d.modFrame n f).plan = d.plan := rfl
@[simp] theorem Dev.modFrame_sched (d : Dev) (n : Nat) (f : McxFrame → McxFrame) : (d.modFrame n f).sched = d.sched := rfl
@[simp] theorem Dev.modFrame_clrs (d : Dev) (n : Nat) (f : McxFrame → McxFrame) : (d.modFrame n f).clrs = d.clrs := rfl
@[simp] theorem Dev.modFrame_tiles (d : Dev) (n : Nat) (f : McxFrame → McxFrame) : (d.modFrame n f).tiles = d.tiles := rfl
@[simp] theorem Dev.modFrame_ctxs (d : Dev) (n : Nat) (f : McxFrame → McxFrame) : (d.modFrame n f).ctxs = d.ctxs := rfl
@[simp] theorem Dev.modFrame_launches (d : Dev) (n : Nat) (f : McxFrame → McxFrame) : (d.modFrame n f).launches = d.launches := rfl
@[simp] theorem Dev.modFrame_nextLaunch (d : Dev) (n : Nat) (f : McxFrame → McxFrame) : (d.modFrame n f).nextLaunch = d.nextLaunch := rfl
@[simp] theorem Dev.modFrame_sec (d : Dev) (n : Nat) (f : McxFrame → McxFrame) : (d.modFrame n f).sec = d.sec := rfl
@[simp] theorem Dev.modFrame_spdm (d : Dev) (n : Nat) (f : McxFrame → McxFrame) : (d.modFrame n f).spdm = d.spdm := rfl
@[simp] theorem Dev.modFrame_lnk (d : Dev) (n : Nat) (f : McxFrame → McxFrame) : (d.modFrame n f).lnk = d.lnk := rfl
@[simp] theorem Dev.modFrame_host (d : Dev) (n : Nat) (f : McxFrame → McxFrame) : (d.modFrame n f).host = d.host := rfl
@[simp] theorem Dev.modFrame_stl (d : Dev) (n : Nat) (f : McxFrame → McxFrame) : (d.modFrame n f).stl = d.stl := rfl
@[simp] theorem Dev.modFrame_flt (d : Dev) (n : Nat) (f : McxFrame → McxFrame) : (d.modFrame n f).flt = d.flt := rfl
@[simp] theorem Dev.modFrame_dbg (d : Dev) (n : Nat) (f : McxFrame → McxFrame) : (d.modFrame n f).dbg = d.dbg := rfl
@[simp] theorem Dev.modFrame_pwr (d : Dev) (n : Nat) (f : McxFrame → McxFrame) : (d.modFrame n f).pwr = d.pwr := rfl
@[simp] theorem Dev.modFrame_thm (d : Dev) (n : Nat) (f : McxFrame → McxFrame) : (d.modFrame n f).thm = d.thm := rfl
@[simp] theorem Dev.modFrame_pins (d : Dev) (n : Nat) (f : McxFrame → McxFrame) : (d.modFrame n f).pins = d.pins := rfl
@[simp] theorem Dev.modFrame_outbox (d : Dev) (n : Nat) (f : McxFrame → McxFrame) : (d.modFrame n f).outbox = d.outbox := rfl

/-! ## Dev.modRegion -/

@[simp] theorem Dev.modRegion_free (d : Dev) (n : Nat) (f : RegionSt → RegionSt) : (d.modRegion n f).free = d.free := rfl
@[simp] theorem Dev.modRegion_timeUs (d : Dev) (n : Nat) (f : RegionSt → RegionSt) : (d.modRegion n f).timeUs = d.timeUs := rfl
@[simp] theorem Dev.modRegion_bus (d : Dev) (n : Nat) (f : RegionSt → RegionSt) : (d.modRegion n f).bus = d.bus := rfl
@[simp] theorem Dev.modRegion_ev (d : Dev) (n : Nat) (f : RegionSt → RegionSt) : (d.modRegion n f).ev = d.ev := rfl
@[simp] theorem Dev.modRegion_tide (d : Dev) (n : Nat) (f : RegionSt → RegionSt) : (d.modRegion n f).tide = d.tide := rfl
@[simp] theorem Dev.modRegion_plan (d : Dev) (n : Nat) (f : RegionSt → RegionSt) : (d.modRegion n f).plan = d.plan := rfl
@[simp] theorem Dev.modRegion_sched (d : Dev) (n : Nat) (f : RegionSt → RegionSt) : (d.modRegion n f).sched = d.sched := rfl
@[simp] theorem Dev.modRegion_clrs (d : Dev) (n : Nat) (f : RegionSt → RegionSt) : (d.modRegion n f).clrs = d.clrs := rfl
@[simp] theorem Dev.modRegion_tiles (d : Dev) (n : Nat) (f : RegionSt → RegionSt) : (d.modRegion n f).tiles = d.tiles := rfl
@[simp] theorem Dev.modRegion_ctxs (d : Dev) (n : Nat) (f : RegionSt → RegionSt) : (d.modRegion n f).ctxs = d.ctxs := rfl
@[simp] theorem Dev.modRegion_launches (d : Dev) (n : Nat) (f : RegionSt → RegionSt) : (d.modRegion n f).launches = d.launches := rfl
@[simp] theorem Dev.modRegion_nextLaunch (d : Dev) (n : Nat) (f : RegionSt → RegionSt) : (d.modRegion n f).nextLaunch = d.nextLaunch := rfl
@[simp] theorem Dev.modRegion_sec (d : Dev) (n : Nat) (f : RegionSt → RegionSt) : (d.modRegion n f).sec = d.sec := rfl
@[simp] theorem Dev.modRegion_spdm (d : Dev) (n : Nat) (f : RegionSt → RegionSt) : (d.modRegion n f).spdm = d.spdm := rfl
@[simp] theorem Dev.modRegion_lnk (d : Dev) (n : Nat) (f : RegionSt → RegionSt) : (d.modRegion n f).lnk = d.lnk := rfl
@[simp] theorem Dev.modRegion_host (d : Dev) (n : Nat) (f : RegionSt → RegionSt) : (d.modRegion n f).host = d.host := rfl
@[simp] theorem Dev.modRegion_stl (d : Dev) (n : Nat) (f : RegionSt → RegionSt) : (d.modRegion n f).stl = d.stl := rfl
@[simp] theorem Dev.modRegion_flt (d : Dev) (n : Nat) (f : RegionSt → RegionSt) : (d.modRegion n f).flt = d.flt := rfl
@[simp] theorem Dev.modRegion_dbg (d : Dev) (n : Nat) (f : RegionSt → RegionSt) : (d.modRegion n f).dbg = d.dbg := rfl
@[simp] theorem Dev.modRegion_pwr (d : Dev) (n : Nat) (f : RegionSt → RegionSt) : (d.modRegion n f).pwr = d.pwr := rfl
@[simp] theorem Dev.modRegion_thm (d : Dev) (n : Nat) (f : RegionSt → RegionSt) : (d.modRegion n f).thm = d.thm := rfl
@[simp] theorem Dev.modRegion_pins (d : Dev) (n : Nat) (f : RegionSt → RegionSt) : (d.modRegion n f).pins = d.pins := rfl
@[simp] theorem Dev.modRegion_outbox (d : Dev) (n : Nat) (f : RegionSt → RegionSt) : (d.modRegion n f).outbox = d.outbox := rfl

/-! ## Dev.modStack -/

@[simp] theorem Dev.modStack_free (d : Dev) (n : Nat) (f : StackSt → StackSt) : (d.modStack n f).free = d.free := rfl
@[simp] theorem Dev.modStack_timeUs (d : Dev) (n : Nat) (f : StackSt → StackSt) : (d.modStack n f).timeUs = d.timeUs := rfl
@[simp] theorem Dev.modStack_bus (d : Dev) (n : Nat) (f : StackSt → StackSt) : (d.modStack n f).bus = d.bus := rfl
@[simp] theorem Dev.modStack_ev (d : Dev) (n : Nat) (f : StackSt → StackSt) : (d.modStack n f).ev = d.ev := rfl
@[simp] theorem Dev.modStack_tide (d : Dev) (n : Nat) (f : StackSt → StackSt) : (d.modStack n f).tide = d.tide := rfl
@[simp] theorem Dev.modStack_plan (d : Dev) (n : Nat) (f : StackSt → StackSt) : (d.modStack n f).plan = d.plan := rfl
@[simp] theorem Dev.modStack_sched (d : Dev) (n : Nat) (f : StackSt → StackSt) : (d.modStack n f).sched = d.sched := rfl
@[simp] theorem Dev.modStack_clrs (d : Dev) (n : Nat) (f : StackSt → StackSt) : (d.modStack n f).clrs = d.clrs := rfl
@[simp] theorem Dev.modStack_tiles (d : Dev) (n : Nat) (f : StackSt → StackSt) : (d.modStack n f).tiles = d.tiles := rfl
@[simp] theorem Dev.modStack_ctxs (d : Dev) (n : Nat) (f : StackSt → StackSt) : (d.modStack n f).ctxs = d.ctxs := rfl
@[simp] theorem Dev.modStack_launches (d : Dev) (n : Nat) (f : StackSt → StackSt) : (d.modStack n f).launches = d.launches := rfl
@[simp] theorem Dev.modStack_nextLaunch (d : Dev) (n : Nat) (f : StackSt → StackSt) : (d.modStack n f).nextLaunch = d.nextLaunch := rfl
@[simp] theorem Dev.modStack_sec (d : Dev) (n : Nat) (f : StackSt → StackSt) : (d.modStack n f).sec = d.sec := rfl
@[simp] theorem Dev.modStack_spdm (d : Dev) (n : Nat) (f : StackSt → StackSt) : (d.modStack n f).spdm = d.spdm := rfl
@[simp] theorem Dev.modStack_lnk (d : Dev) (n : Nat) (f : StackSt → StackSt) : (d.modStack n f).lnk = d.lnk := rfl
@[simp] theorem Dev.modStack_host (d : Dev) (n : Nat) (f : StackSt → StackSt) : (d.modStack n f).host = d.host := rfl
@[simp] theorem Dev.modStack_stl (d : Dev) (n : Nat) (f : StackSt → StackSt) : (d.modStack n f).stl = d.stl := rfl
@[simp] theorem Dev.modStack_flt (d : Dev) (n : Nat) (f : StackSt → StackSt) : (d.modStack n f).flt = d.flt := rfl
@[simp] theorem Dev.modStack_dbg (d : Dev) (n : Nat) (f : StackSt → StackSt) : (d.modStack n f).dbg = d.dbg := rfl
@[simp] theorem Dev.modStack_pwr (d : Dev) (n : Nat) (f : StackSt → StackSt) : (d.modStack n f).pwr = d.pwr := rfl
@[simp] theorem Dev.modStack_thm (d : Dev) (n : Nat) (f : StackSt → StackSt) : (d.modStack n f).thm = d.thm := rfl
@[simp] theorem Dev.modStack_pins (d : Dev) (n : Nat) (f : StackSt → StackSt) : (d.modStack n f).pins = d.pins := rfl
@[simp] theorem Dev.modStack_outbox (d : Dev) (n : Nat) (f : StackSt → StackSt) : (d.modStack n f).outbox = d.outbox := rfl

/-! ## Dev.modNum -/

@[simp] theorem Dev.modNum_free (d : Dev) (n : Nat) (f : Num → Num) : (d.modNum n f).free = d.free := rfl
@[simp] theorem Dev.modNum_timeUs (d : Dev) (n : Nat) (f : Num → Num) : (d.modNum n f).timeUs = d.timeUs := rfl
@[simp] theorem Dev.modNum_bus (d : Dev) (n : Nat) (f : Num → Num) : (d.modNum n f).bus = d.bus := rfl
@[simp] theorem Dev.modNum_ev (d : Dev) (n : Nat) (f : Num → Num) : (d.modNum n f).ev = d.ev := rfl
@[simp] theorem Dev.modNum_tide (d : Dev) (n : Nat) (f : Num → Num) : (d.modNum n f).tide = d.tide := rfl
@[simp] theorem Dev.modNum_plan (d : Dev) (n : Nat) (f : Num → Num) : (d.modNum n f).plan = d.plan := rfl
@[simp] theorem Dev.modNum_sched (d : Dev) (n : Nat) (f : Num → Num) : (d.modNum n f).sched = d.sched := rfl
@[simp] theorem Dev.modNum_tiles (d : Dev) (n : Nat) (f : Num → Num) : (d.modNum n f).tiles = d.tiles := rfl
@[simp] theorem Dev.modNum_ctxs (d : Dev) (n : Nat) (f : Num → Num) : (d.modNum n f).ctxs = d.ctxs := rfl
@[simp] theorem Dev.modNum_launches (d : Dev) (n : Nat) (f : Num → Num) : (d.modNum n f).launches = d.launches := rfl
@[simp] theorem Dev.modNum_nextLaunch (d : Dev) (n : Nat) (f : Num → Num) : (d.modNum n f).nextLaunch = d.nextLaunch := rfl
@[simp] theorem Dev.modNum_mem (d : Dev) (n : Nat) (f : Num → Num) : (d.modNum n f).mem = d.mem := rfl
@[simp] theorem Dev.modNum_sec (d : Dev) (n : Nat) (f : Num → Num) : (d.modNum n f).sec = d.sec := rfl
@[simp] theorem Dev.modNum_spdm (d : Dev) (n : Nat) (f : Num → Num) : (d.modNum n f).spdm = d.spdm := rfl
@[simp] theorem Dev.modNum_lnk (d : Dev) (n : Nat) (f : Num → Num) : (d.modNum n f).lnk = d.lnk := rfl
@[simp] theorem Dev.modNum_host (d : Dev) (n : Nat) (f : Num → Num) : (d.modNum n f).host = d.host := rfl
@[simp] theorem Dev.modNum_stl (d : Dev) (n : Nat) (f : Num → Num) : (d.modNum n f).stl = d.stl := rfl
@[simp] theorem Dev.modNum_flt (d : Dev) (n : Nat) (f : Num → Num) : (d.modNum n f).flt = d.flt := rfl
@[simp] theorem Dev.modNum_dbg (d : Dev) (n : Nat) (f : Num → Num) : (d.modNum n f).dbg = d.dbg := rfl
@[simp] theorem Dev.modNum_pwr (d : Dev) (n : Nat) (f : Num → Num) : (d.modNum n f).pwr = d.pwr := rfl
@[simp] theorem Dev.modNum_thm (d : Dev) (n : Nat) (f : Num → Num) : (d.modNum n f).thm = d.thm := rfl
@[simp] theorem Dev.modNum_pins (d : Dev) (n : Nat) (f : Num → Num) : (d.modNum n f).pins = d.pins := rfl
@[simp] theorem Dev.modNum_outbox (d : Dev) (n : Nat) (f : Num → Num) : (d.modNum n f).outbox = d.outbox := rfl

/-! ## Dev.modUnit -/

@[simp] theorem Dev.modUnit_free (d : Dev) (k : Nat) (f : UnitMeta → UnitMeta) : (d.modUnit k f).free = d.free := rfl
@[simp] theorem Dev.modUnit_timeUs (d : Dev) (k : Nat) (f : UnitMeta → UnitMeta) : (d.modUnit k f).timeUs = d.timeUs := rfl
@[simp] theorem Dev.modUnit_bus (d : Dev) (k : Nat) (f : UnitMeta → UnitMeta) : (d.modUnit k f).bus = d.bus := rfl
@[simp] theorem Dev.modUnit_ev (d : Dev) (k : Nat) (f : UnitMeta → UnitMeta) : (d.modUnit k f).ev = d.ev := rfl
@[simp] theorem Dev.modUnit_tide (d : Dev) (k : Nat) (f : UnitMeta → UnitMeta) : (d.modUnit k f).tide = d.tide := rfl
@[simp] theorem Dev.modUnit_plan (d : Dev) (k : Nat) (f : UnitMeta → UnitMeta) : (d.modUnit k f).plan = d.plan := rfl
@[simp] theorem Dev.modUnit_sched (d : Dev) (k : Nat) (f : UnitMeta → UnitMeta) : (d.modUnit k f).sched = d.sched := rfl
@[simp] theorem Dev.modUnit_tiles (d : Dev) (k : Nat) (f : UnitMeta → UnitMeta) : (d.modUnit k f).tiles = d.tiles := rfl
@[simp] theorem Dev.modUnit_ctxs (d : Dev) (k : Nat) (f : UnitMeta → UnitMeta) : (d.modUnit k f).ctxs = d.ctxs := rfl
@[simp] theorem Dev.modUnit_launches (d : Dev) (k : Nat) (f : UnitMeta → UnitMeta) : (d.modUnit k f).launches = d.launches := rfl
@[simp] theorem Dev.modUnit_nextLaunch (d : Dev) (k : Nat) (f : UnitMeta → UnitMeta) : (d.modUnit k f).nextLaunch = d.nextLaunch := rfl
@[simp] theorem Dev.modUnit_clrs (d : Dev) (k : Nat) (f : UnitMeta → UnitMeta) : (d.modUnit k f).clrs = d.clrs := rfl
@[simp] theorem Dev.modUnit_sec (d : Dev) (k : Nat) (f : UnitMeta → UnitMeta) : (d.modUnit k f).sec = d.sec := rfl
@[simp] theorem Dev.modUnit_spdm (d : Dev) (k : Nat) (f : UnitMeta → UnitMeta) : (d.modUnit k f).spdm = d.spdm := rfl
@[simp] theorem Dev.modUnit_lnk (d : Dev) (k : Nat) (f : UnitMeta → UnitMeta) : (d.modUnit k f).lnk = d.lnk := rfl
@[simp] theorem Dev.modUnit_host (d : Dev) (k : Nat) (f : UnitMeta → UnitMeta) : (d.modUnit k f).host = d.host := rfl
@[simp] theorem Dev.modUnit_stl (d : Dev) (k : Nat) (f : UnitMeta → UnitMeta) : (d.modUnit k f).stl = d.stl := rfl
@[simp] theorem Dev.modUnit_flt (d : Dev) (k : Nat) (f : UnitMeta → UnitMeta) : (d.modUnit k f).flt = d.flt := rfl
@[simp] theorem Dev.modUnit_dbg (d : Dev) (k : Nat) (f : UnitMeta → UnitMeta) : (d.modUnit k f).dbg = d.dbg := rfl
@[simp] theorem Dev.modUnit_pwr (d : Dev) (k : Nat) (f : UnitMeta → UnitMeta) : (d.modUnit k f).pwr = d.pwr := rfl
@[simp] theorem Dev.modUnit_thm (d : Dev) (k : Nat) (f : UnitMeta → UnitMeta) : (d.modUnit k f).thm = d.thm := rfl
@[simp] theorem Dev.modUnit_pins (d : Dev) (k : Nat) (f : UnitMeta → UnitMeta) : (d.modUnit k f).pins = d.pins := rfl
@[simp] theorem Dev.modUnit_outbox (d : Dev) (k : Nat) (f : UnitMeta → UnitMeta) : (d.modUnit k f).outbox = d.outbox := rfl
@[simp] theorem Dev.modUnit_cache (d : Dev) (k : Nat) (f : UnitMeta → UnitMeta) :
    (d.modUnit k f).mem.cache = d.mem.cache := rfl
@[simp] theorem Dev.modUnit_reqs (d : Dev) (k : Nat) (f : UnitMeta → UnitMeta) :
    (d.modUnit k f).mem.reqs = d.mem.reqs := rfl
@[simp] theorem Dev.modUnit_frames (d : Dev) (k : Nat) (f : UnitMeta → UnitMeta) :
    (d.modUnit k f).mem.frames = d.mem.frames := rfl
@[simp] theorem Dev.modUnit_regions (d : Dev) (k : Nat) (f : UnitMeta → UnitMeta) :
    (d.modUnit k f).mem.regions = d.mem.regions := rfl
@[simp] theorem Dev.modUnit_flaws (d : Dev) (k : Nat) (f : UnitMeta → UnitMeta) :
    (d.modUnit k f).mem.flaws = d.mem.flaws := rfl
@[simp] theorem Dev.modUnit_mcache (d : Dev) (k : Nat) (f : UnitMeta → UnitMeta) :
    (d.modUnit k f).mem.mcache = d.mem.mcache := rfl
@[simp] theorem Dev.modUnit_stk (d : Dev) (k : Nat) (f : UnitMeta → UnitMeta) :
    (d.modUnit k f).mem.stk = d.mem.stk := rfl

/-! ## Dev.emit -/

@[simp] theorem Dev.emit_free (d : Dev) (o : Output) : (d.emit o).free = d.free := rfl
@[simp] theorem Dev.emit_timeUs (d : Dev) (o : Output) : (d.emit o).timeUs = d.timeUs := rfl
@[simp] theorem Dev.emit_bus (d : Dev) (o : Output) : (d.emit o).bus = d.bus := rfl
@[simp] theorem Dev.emit_ev (d : Dev) (o : Output) : (d.emit o).ev = d.ev := rfl
@[simp] theorem Dev.emit_tide (d : Dev) (o : Output) : (d.emit o).tide = d.tide := rfl
@[simp] theorem Dev.emit_plan (d : Dev) (o : Output) : (d.emit o).plan = d.plan := rfl
@[simp] theorem Dev.emit_sched (d : Dev) (o : Output) : (d.emit o).sched = d.sched := rfl
@[simp] theorem Dev.emit_clrs (d : Dev) (o : Output) : (d.emit o).clrs = d.clrs := rfl
@[simp] theorem Dev.emit_tiles (d : Dev) (o : Output) : (d.emit o).tiles = d.tiles := rfl
@[simp] theorem Dev.emit_ctxs (d : Dev) (o : Output) : (d.emit o).ctxs = d.ctxs := rfl
@[simp] theorem Dev.emit_launches (d : Dev) (o : Output) : (d.emit o).launches = d.launches := rfl
@[simp] theorem Dev.emit_nextLaunch (d : Dev) (o : Output) : (d.emit o).nextLaunch = d.nextLaunch := rfl
@[simp] theorem Dev.emit_mem (d : Dev) (o : Output) : (d.emit o).mem = d.mem := rfl
@[simp] theorem Dev.emit_sec (d : Dev) (o : Output) : (d.emit o).sec = d.sec := rfl
@[simp] theorem Dev.emit_spdm (d : Dev) (o : Output) : (d.emit o).spdm = d.spdm := rfl
@[simp] theorem Dev.emit_lnk (d : Dev) (o : Output) : (d.emit o).lnk = d.lnk := rfl
@[simp] theorem Dev.emit_host (d : Dev) (o : Output) : (d.emit o).host = d.host := rfl
@[simp] theorem Dev.emit_stl (d : Dev) (o : Output) : (d.emit o).stl = d.stl := rfl
@[simp] theorem Dev.emit_flt (d : Dev) (o : Output) : (d.emit o).flt = d.flt := rfl
@[simp] theorem Dev.emit_dbg (d : Dev) (o : Output) : (d.emit o).dbg = d.dbg := rfl
@[simp] theorem Dev.emit_pwr (d : Dev) (o : Output) : (d.emit o).pwr = d.pwr := rfl
@[simp] theorem Dev.emit_thm (d : Dev) (o : Output) : (d.emit o).thm = d.thm := rfl
@[simp] theorem Dev.emit_pins (d : Dev) (o : Output) : (d.emit o).pins = d.pins := rfl

/-! ## Dev.tick -/

@[simp] theorem Dev.tick_timeUs (d : Dev) : d.tick.timeUs = d.timeUs := rfl
@[simp] theorem Dev.tick_bus (d : Dev) : d.tick.bus = d.bus := rfl
@[simp] theorem Dev.tick_ev (d : Dev) : d.tick.ev = d.ev := rfl
@[simp] theorem Dev.tick_tide (d : Dev) : d.tick.tide = d.tide := rfl
@[simp] theorem Dev.tick_plan (d : Dev) : d.tick.plan = d.plan := rfl
@[simp] theorem Dev.tick_sched (d : Dev) : d.tick.sched = d.sched := rfl
@[simp] theorem Dev.tick_clrs (d : Dev) : d.tick.clrs = d.clrs := rfl
@[simp] theorem Dev.tick_tiles (d : Dev) : d.tick.tiles = d.tiles := rfl
@[simp] theorem Dev.tick_ctxs (d : Dev) : d.tick.ctxs = d.ctxs := rfl
@[simp] theorem Dev.tick_launches (d : Dev) : d.tick.launches = d.launches := rfl
@[simp] theorem Dev.tick_nextLaunch (d : Dev) : d.tick.nextLaunch = d.nextLaunch := rfl
@[simp] theorem Dev.tick_mem (d : Dev) : d.tick.mem = d.mem := rfl
@[simp] theorem Dev.tick_sec (d : Dev) : d.tick.sec = d.sec := rfl
@[simp] theorem Dev.tick_spdm (d : Dev) : d.tick.spdm = d.spdm := rfl
@[simp] theorem Dev.tick_lnk (d : Dev) : d.tick.lnk = d.lnk := rfl
@[simp] theorem Dev.tick_host (d : Dev) : d.tick.host = d.host := rfl
@[simp] theorem Dev.tick_stl (d : Dev) : d.tick.stl = d.stl := rfl
@[simp] theorem Dev.tick_flt (d : Dev) : d.tick.flt = d.flt := rfl
@[simp] theorem Dev.tick_dbg (d : Dev) : d.tick.dbg = d.dbg := rfl
@[simp] theorem Dev.tick_pwr (d : Dev) : d.tick.pwr = d.pwr := rfl
@[simp] theorem Dev.tick_thm (d : Dev) : d.tick.thm = d.thm := rfl
@[simp] theorem Dev.tick_pins (d : Dev) : d.tick.pins = d.pins := rfl
@[simp] theorem Dev.tick_outbox (d : Dev) : d.tick.outbox = d.outbox := rfl

/-! ## Reading an entry after an update -/

/-- An update of one entry leaves the others alone. -/
theorem Dev.modClr_clr_ne (d : Dev) {n k : Nat} (f : Clearing → Clearing) (h : k ≠ n) : (d.modClr n f).clr k = d.clr k :=
  Tab.get_set_ne _ _ _ h

/-- An update of one entry leaves the others alone. -/
theorem Dev.modTile_tile_ne (d : Dev) {n k : Nat} (f : TileSt → TileSt) (h : k ≠ n) : (d.modTile n f).tile k = d.tile k :=
  Tab.get_set_ne _ _ _ h

/-- An update of one entry leaves the others alone. -/
theorem Dev.modCtx_ctx_ne (d : Dev) {n k : Nat} (f : Ctx → Ctx) (h : k ≠ n) : (d.modCtx n f).ctx k = d.ctx k :=
  Tab.get_set_ne _ _ _ h

/-- An update of one entry leaves the others alone. -/
theorem Dev.modLink_link_ne (d : Dev) {n k : Nat} (f : Link → Link) (h : k ≠ n) : (d.modLink n f).link k = d.link k :=
  Tab.get_set_ne _ _ _ h

/-- An update of one entry leaves the others alone. -/
theorem Dev.modQueue_queue_ne (d : Dev) {n k : Nat} (f : Queue → Queue) (h : k ≠ n) : (d.modQueue n f).queue k = d.queue k :=
  Tab.get_set_ne _ _ _ h

/-- An update of one entry leaves the others alone. -/
theorem Dev.modObj_obj_ne (d : Dev) {n k : Nat} (f : Obj → Obj) (h : k ≠ n) : (d.modObj n f).obj k = d.obj k :=
  Tab.get_set_ne _ _ _ h

/-- An update of one entry leaves the others alone. -/
theorem Dev.modFence_fence_ne (d : Dev) {n k : Nat} (f : Fence → Fence) (h : k ≠ n) : (d.modFence n f).fence k = d.fence k :=
  Tab.get_set_ne _ _ _ h

/-- An update of one entry leaves the others alone. -/
theorem Dev.modSlot_slot_ne (d : Dev) {n k : Nat} (f : Slot → Slot) (h : k ≠ n) : (d.modSlot n f).slot k = d.slot k :=
  Tab.get_set_ne _ _ _ h

/-- An update of one entry leaves the others alone. -/
theorem Dev.modFrame_frame_ne (d : Dev) {n k : Nat} (f : McxFrame → McxFrame) (h : k ≠ n) : (d.modFrame n f).frame k = d.frame k :=
  Tab.get_set_ne _ _ _ h

/-- An update of one entry leaves the others alone. -/
theorem Dev.modRegion_region_ne (d : Dev) {n k : Nat} (f : RegionSt → RegionSt) (h : k ≠ n) : (d.modRegion n f).region k = d.region k :=
  Tab.get_set_ne _ _ _ h

/-- An update of one entry leaves the others alone. -/
theorem Dev.modStack_stack_ne (d : Dev) {n k : Nat} (f : StackSt → StackSt) (h : k ≠ n) : (d.modStack n f).stack k = d.stack k :=
  Tab.get_set_ne _ _ _ h

/-- In a canonical table the updated entry is read back. -/
theorem Dev.modClr_clr_self (d : Dev) (n : Nat) (f : Clearing → Clearing) (h : Tab.wf Clearing.reset d.clrs = true) :
    (d.modClr n f).clr n = f (d.clr n) := Tab.get_set _ _ h _ _

/-- In a canonical table the updated entry is read back. -/
theorem Dev.modTile_tile_self (d : Dev) (n : Nat) (f : TileSt → TileSt) (h : Tab.wf TileSt.reset d.tiles = true) :
    (d.modTile n f).tile n = f (d.tile n) := Tab.get_set _ _ h _ _

/-- In a canonical table the updated entry is read back. -/
theorem Dev.modCtx_ctx_self (d : Dev) (n : Nat) (f : Ctx → Ctx) (h : Tab.wf Ctx.reset d.ctxs = true) :
    (d.modCtx n f).ctx n = f (d.ctx n) := Tab.get_set _ _ h _ _

/-- In a canonical table the updated entry is read back. -/
theorem Dev.modLink_link_self (d : Dev) (n : Nat) (f : Link → Link) (h : Tab.wf Link.reset d.lnk.links = true) :
    (d.modLink n f).link n = f (d.link n) := Tab.get_set _ _ h _ _

/-- In a canonical table the updated entry is read back. -/
theorem Dev.modQueue_queue_self (d : Dev) (n : Nat) (f : Queue → Queue) (h : Tab.wf Queue.reset d.host.queues = true) :
    (d.modQueue n f).queue n = f (d.queue n) := Tab.get_set _ _ h _ _

/-- In a canonical table the updated entry is read back. -/
theorem Dev.modObj_obj_self (d : Dev) (n : Nat) (f : Obj → Obj) (h : Tab.wf Obj.reset d.host.objs = true) :
    (d.modObj n f).obj n = f (d.obj n) := Tab.get_set _ _ h _ _

/-- In a canonical table the updated entry is read back. -/
theorem Dev.modFence_fence_self (d : Dev) (n : Nat) (f : Fence → Fence) (h : Tab.wf Fence.reset d.host.fences = true) :
    (d.modFence n f).fence n = f (d.fence n) := Tab.get_set _ _ h _ _

/-- In a canonical table the updated entry is read back. -/
theorem Dev.modSlot_slot_self (d : Dev) (n : Nat) (f : Slot → Slot) (h : Tab.wf Slot.reset d.sec.slots = true) :
    (d.modSlot n f).slot n = f (d.slot n) := Tab.get_set _ _ h _ _

/-- In a canonical table the updated entry is read back. -/
theorem Dev.modFrame_frame_self (d : Dev) (n : Nat) (f : McxFrame → McxFrame) (h : Tab.wf McxFrame.reset d.mem.frames = true) :
    (d.modFrame n f).frame n = f (d.frame n) := Tab.get_set _ _ h _ _

/-- In a canonical table the updated entry is read back. -/
theorem Dev.modRegion_region_self (d : Dev) (n : Nat) (f : RegionSt → RegionSt) (h : Tab.wf RegionSt.reset d.mem.regions = true) :
    (d.modRegion n f).region n = f (d.region n) := Tab.get_set _ _ h _ _

/-- In a canonical table the updated entry is read back. -/
theorem Dev.modStack_stack_self (d : Dev) (n : Nat) (f : StackSt → StackSt) (h : Tab.wf StackSt.reset d.mem.stk = true) :
    (d.modStack n f).stack n = f (d.stack n) := Tab.get_set _ _ h _ _

/-- An update of one unit's tag fields leaves the others alone. -/
theorem Dev.modUnit_unitMeta_ne (d : Dev) {n k : Nat} (f : UnitMeta → UnitMeta) (h : k ≠ n) :
    (d.modUnit n f).unitMeta k = d.unitMeta k := Tab.get_set_ne _ _ _ h

/-- The unit reads as written. -/
theorem Dev.modUnit_unitMeta_self (d : Dev) (n : Nat) (f : UnitMeta → UnitMeta)
    (h : Tab.wf UnitMeta.reset d.mem.meta_ = true) : (d.modUnit n f).unitMeta n = f (d.unitMeta n) :=
  Tab.get_set _ _ h _ _

/-! ## Events -/

@[simp] theorem Events.get_set_self (e : Events) (b : Blk) (v : Ev) : (e.set b v).get b = v := by
  cases b <;> rfl

theorem Events.get_set_ne (e : Events) {b c : Blk} (v : Ev) (h : c ≠ b) : (e.set b v).get c = e.get c := by
  cases b <;> cases c <;> first | rfl | exact absurd rfl h

/-- ALERT_N changes pins and outbox alone. -/
theorem Dev.updateAlert_frame (d : Dev) :
    d.updateAlert = { d with pins := d.updateAlert.pins, outbox := d.updateAlert.outbox } := by
  unfold Dev.updateAlert; dsimp only; split <;> rfl

/-- An event changes the event registers, pins and outbox alone. -/
theorem Dev.raise_frame (d : Dev) (b : Blk) (k : Nat) :
    d.raise b k =
      { d with ev := (d.raise b k).ev, pins := (d.raise b k).pins, outbox := (d.raise b k).outbox } := by
  unfold Dev.raise; dsimp only
  split <;> (rw [Dev.updateAlert_frame]; try rfl)

/-- An event sets its bit and leaves EVENT_EN alone. -/
theorem Dev.raise_ev (d : Dev) (b : Blk) (k : Nat) :
    (d.raise b k).ev = d.ev.set b { d.ev.get b with ev := setBit (d.ev.get b).ev k } := by
  unfold Dev.raise; dsimp only
  split <;> (rw [Dev.updateAlert_frame]; try rfl)

@[simp] theorem Dev.raise_free (d : Dev) (b : Blk) (k : Nat) : (d.raise b k).free = d.free := by
  rw [Dev.raise_frame]

@[simp] theorem Dev.raiseIf_free (d : Dev) (c : Bool) (b : Blk) (k : Nat) : (d.raiseIf c b k).free = d.free := by
  unfold Dev.raiseIf; split <;> simp

@[simp] theorem Dev.raise_timeUs (d : Dev) (b : Blk) (k : Nat) : (d.raise b k).timeUs = d.timeUs := by
  rw [Dev.raise_frame]

@[simp] theorem Dev.raiseIf_timeUs (d : Dev) (c : Bool) (b : Blk) (k : Nat) : (d.raiseIf c b k).timeUs = d.timeUs := by
  unfold Dev.raiseIf; split <;> simp

@[simp] theorem Dev.raise_bus (d : Dev) (b : Blk) (k : Nat) : (d.raise b k).bus = d.bus := by
  rw [Dev.raise_frame]

@[simp] theorem Dev.raiseIf_bus (d : Dev) (c : Bool) (b : Blk) (k : Nat) : (d.raiseIf c b k).bus = d.bus := by
  unfold Dev.raiseIf; split <;> simp

@[simp] theorem Dev.raise_tide (d : Dev) (b : Blk) (k : Nat) : (d.raise b k).tide = d.tide := by
  rw [Dev.raise_frame]

@[simp] theorem Dev.raiseIf_tide (d : Dev) (c : Bool) (b : Blk) (k : Nat) : (d.raiseIf c b k).tide = d.tide := by
  unfold Dev.raiseIf; split <;> simp

@[simp] theorem Dev.raise_plan (d : Dev) (b : Blk) (k : Nat) : (d.raise b k).plan = d.plan := by
  rw [Dev.raise_frame]

@[simp] theorem Dev.raiseIf_plan (d : Dev) (c : Bool) (b : Blk) (k : Nat) : (d.raiseIf c b k).plan = d.plan := by
  unfold Dev.raiseIf; split <;> simp

@[simp] theorem Dev.raise_sched (d : Dev) (b : Blk) (k : Nat) : (d.raise b k).sched = d.sched := by
  rw [Dev.raise_frame]

@[simp] theorem Dev.raiseIf_sched (d : Dev) (c : Bool) (b : Blk) (k : Nat) : (d.raiseIf c b k).sched = d.sched := by
  unfold Dev.raiseIf; split <;> simp

@[simp] theorem Dev.raise_clrs (d : Dev) (b : Blk) (k : Nat) : (d.raise b k).clrs = d.clrs := by
  rw [Dev.raise_frame]

@[simp] theorem Dev.raiseIf_clrs (d : Dev) (c : Bool) (b : Blk) (k : Nat) : (d.raiseIf c b k).clrs = d.clrs := by
  unfold Dev.raiseIf; split <;> simp

@[simp] theorem Dev.raise_tiles (d : Dev) (b : Blk) (k : Nat) : (d.raise b k).tiles = d.tiles := by
  rw [Dev.raise_frame]

@[simp] theorem Dev.raiseIf_tiles (d : Dev) (c : Bool) (b : Blk) (k : Nat) : (d.raiseIf c b k).tiles = d.tiles := by
  unfold Dev.raiseIf; split <;> simp

@[simp] theorem Dev.raise_ctxs (d : Dev) (b : Blk) (k : Nat) : (d.raise b k).ctxs = d.ctxs := by
  rw [Dev.raise_frame]

@[simp] theorem Dev.raiseIf_ctxs (d : Dev) (c : Bool) (b : Blk) (k : Nat) : (d.raiseIf c b k).ctxs = d.ctxs := by
  unfold Dev.raiseIf; split <;> simp

@[simp] theorem Dev.raise_launches (d : Dev) (b : Blk) (k : Nat) : (d.raise b k).launches = d.launches := by
  rw [Dev.raise_frame]

@[simp] theorem Dev.raiseIf_launches (d : Dev) (c : Bool) (b : Blk) (k : Nat) : (d.raiseIf c b k).launches = d.launches := by
  unfold Dev.raiseIf; split <;> simp

@[simp] theorem Dev.raise_nextLaunch (d : Dev) (b : Blk) (k : Nat) : (d.raise b k).nextLaunch = d.nextLaunch := by
  rw [Dev.raise_frame]

@[simp] theorem Dev.raiseIf_nextLaunch (d : Dev) (c : Bool) (b : Blk) (k : Nat) : (d.raiseIf c b k).nextLaunch = d.nextLaunch := by
  unfold Dev.raiseIf; split <;> simp

@[simp] theorem Dev.raise_mem (d : Dev) (b : Blk) (k : Nat) : (d.raise b k).mem = d.mem := by
  rw [Dev.raise_frame]

@[simp] theorem Dev.raiseIf_mem (d : Dev) (c : Bool) (b : Blk) (k : Nat) : (d.raiseIf c b k).mem = d.mem := by
  unfold Dev.raiseIf; split <;> simp

@[simp] theorem Dev.raise_sec (d : Dev) (b : Blk) (k : Nat) : (d.raise b k).sec = d.sec := by
  rw [Dev.raise_frame]

@[simp] theorem Dev.raiseIf_sec (d : Dev) (c : Bool) (b : Blk) (k : Nat) : (d.raiseIf c b k).sec = d.sec := by
  unfold Dev.raiseIf; split <;> simp

@[simp] theorem Dev.raise_spdm (d : Dev) (b : Blk) (k : Nat) : (d.raise b k).spdm = d.spdm := by
  rw [Dev.raise_frame]

@[simp] theorem Dev.raiseIf_spdm (d : Dev) (c : Bool) (b : Blk) (k : Nat) : (d.raiseIf c b k).spdm = d.spdm := by
  unfold Dev.raiseIf; split <;> simp

@[simp] theorem Dev.raise_lnk (d : Dev) (b : Blk) (k : Nat) : (d.raise b k).lnk = d.lnk := by
  rw [Dev.raise_frame]

@[simp] theorem Dev.raiseIf_lnk (d : Dev) (c : Bool) (b : Blk) (k : Nat) : (d.raiseIf c b k).lnk = d.lnk := by
  unfold Dev.raiseIf; split <;> simp

@[simp] theorem Dev.raise_host (d : Dev) (b : Blk) (k : Nat) : (d.raise b k).host = d.host := by
  rw [Dev.raise_frame]

@[simp] theorem Dev.raiseIf_host (d : Dev) (c : Bool) (b : Blk) (k : Nat) : (d.raiseIf c b k).host = d.host := by
  unfold Dev.raiseIf; split <;> simp

@[simp] theorem Dev.raise_stl (d : Dev) (b : Blk) (k : Nat) : (d.raise b k).stl = d.stl := by
  rw [Dev.raise_frame]

@[simp] theorem Dev.raiseIf_stl (d : Dev) (c : Bool) (b : Blk) (k : Nat) : (d.raiseIf c b k).stl = d.stl := by
  unfold Dev.raiseIf; split <;> simp

@[simp] theorem Dev.raise_flt (d : Dev) (b : Blk) (k : Nat) : (d.raise b k).flt = d.flt := by
  rw [Dev.raise_frame]

@[simp] theorem Dev.raiseIf_flt (d : Dev) (c : Bool) (b : Blk) (k : Nat) : (d.raiseIf c b k).flt = d.flt := by
  unfold Dev.raiseIf; split <;> simp

@[simp] theorem Dev.raise_dbg (d : Dev) (b : Blk) (k : Nat) : (d.raise b k).dbg = d.dbg := by
  rw [Dev.raise_frame]

@[simp] theorem Dev.raiseIf_dbg (d : Dev) (c : Bool) (b : Blk) (k : Nat) : (d.raiseIf c b k).dbg = d.dbg := by
  unfold Dev.raiseIf; split <;> simp

@[simp] theorem Dev.raise_pwr (d : Dev) (b : Blk) (k : Nat) : (d.raise b k).pwr = d.pwr := by
  rw [Dev.raise_frame]

@[simp] theorem Dev.raiseIf_pwr (d : Dev) (c : Bool) (b : Blk) (k : Nat) : (d.raiseIf c b k).pwr = d.pwr := by
  unfold Dev.raiseIf; split <;> simp

@[simp] theorem Dev.raise_thm (d : Dev) (b : Blk) (k : Nat) : (d.raise b k).thm = d.thm := by
  rw [Dev.raise_frame]

@[simp] theorem Dev.raiseIf_thm (d : Dev) (c : Bool) (b : Blk) (k : Nat) : (d.raiseIf c b k).thm = d.thm := by
  unfold Dev.raiseIf; split <;> simp

@[simp] theorem Dev.logEvent_free (d : Dev) (t : Byte) (n : Nat) (e : BitVec 16) (st : Byte) (i : BitVec 64) :
    (d.logEvent t n e st i).free = d.free := rfl

@[simp] theorem Dev.logEvent_timeUs (d : Dev) (t : Byte) (n : Nat) (e : BitVec 16) (st : Byte) (i : BitVec 64) :
    (d.logEvent t n e st i).timeUs = d.timeUs := rfl

@[simp] theorem Dev.logEvent_bus (d : Dev) (t : Byte) (n : Nat) (e : BitVec 16) (st : Byte) (i : BitVec 64) :
    (d.logEvent t n e st i).bus = d.bus := rfl

@[simp] theorem Dev.logEvent_ev (d : Dev) (t : Byte) (n : Nat) (e : BitVec 16) (st : Byte) (i : BitVec 64) :
    (d.logEvent t n e st i).ev = d.ev := rfl

@[simp] theorem Dev.logEvent_tide (d : Dev) (t : Byte) (n : Nat) (e : BitVec 16) (st : Byte) (i : BitVec 64) :
    (d.logEvent t n e st i).tide = d.tide := rfl

@[simp] theorem Dev.logEvent_plan (d : Dev) (t : Byte) (n : Nat) (e : BitVec 16) (st : Byte) (i : BitVec 64) :
    (d.logEvent t n e st i).plan = d.plan := rfl

@[simp] theorem Dev.logEvent_sched (d : Dev) (t : Byte) (n : Nat) (e : BitVec 16) (st : Byte) (i : BitVec 64) :
    (d.logEvent t n e st i).sched = d.sched := rfl

@[simp] theorem Dev.logEvent_clrs (d : Dev) (t : Byte) (n : Nat) (e : BitVec 16) (st : Byte) (i : BitVec 64) :
    (d.logEvent t n e st i).clrs = d.clrs := rfl

@[simp] theorem Dev.logEvent_tiles (d : Dev) (t : Byte) (n : Nat) (e : BitVec 16) (st : Byte) (i : BitVec 64) :
    (d.logEvent t n e st i).tiles = d.tiles := rfl

@[simp] theorem Dev.logEvent_ctxs (d : Dev) (t : Byte) (n : Nat) (e : BitVec 16) (st : Byte) (i : BitVec 64) :
    (d.logEvent t n e st i).ctxs = d.ctxs := rfl

@[simp] theorem Dev.logEvent_launches (d : Dev) (t : Byte) (n : Nat) (e : BitVec 16) (st : Byte) (i : BitVec 64) :
    (d.logEvent t n e st i).launches = d.launches := rfl

@[simp] theorem Dev.logEvent_nextLaunch (d : Dev) (t : Byte) (n : Nat) (e : BitVec 16) (st : Byte) (i : BitVec 64) :
    (d.logEvent t n e st i).nextLaunch = d.nextLaunch := rfl

@[simp] theorem Dev.logEvent_mem (d : Dev) (t : Byte) (n : Nat) (e : BitVec 16) (st : Byte) (i : BitVec 64) :
    (d.logEvent t n e st i).mem = d.mem := rfl

@[simp] theorem Dev.logEvent_sec (d : Dev) (t : Byte) (n : Nat) (e : BitVec 16) (st : Byte) (i : BitVec 64) :
    (d.logEvent t n e st i).sec = d.sec := rfl

@[simp] theorem Dev.logEvent_spdm (d : Dev) (t : Byte) (n : Nat) (e : BitVec 16) (st : Byte) (i : BitVec 64) :
    (d.logEvent t n e st i).spdm = d.spdm := rfl

@[simp] theorem Dev.logEvent_lnk (d : Dev) (t : Byte) (n : Nat) (e : BitVec 16) (st : Byte) (i : BitVec 64) :
    (d.logEvent t n e st i).lnk = d.lnk := rfl

@[simp] theorem Dev.logEvent_host (d : Dev) (t : Byte) (n : Nat) (e : BitVec 16) (st : Byte) (i : BitVec 64) :
    (d.logEvent t n e st i).host = d.host := rfl

@[simp] theorem Dev.logEvent_stl (d : Dev) (t : Byte) (n : Nat) (e : BitVec 16) (st : Byte) (i : BitVec 64) :
    (d.logEvent t n e st i).stl = d.stl := rfl

@[simp] theorem Dev.logEvent_dbg (d : Dev) (t : Byte) (n : Nat) (e : BitVec 16) (st : Byte) (i : BitVec 64) :
    (d.logEvent t n e st i).dbg = d.dbg := rfl

@[simp] theorem Dev.logEvent_pwr (d : Dev) (t : Byte) (n : Nat) (e : BitVec 16) (st : Byte) (i : BitVec 64) :
    (d.logEvent t n e st i).pwr = d.pwr := rfl

@[simp] theorem Dev.logEvent_thm (d : Dev) (t : Byte) (n : Nat) (e : BitVec 16) (st : Byte) (i : BitVec 64) :
    (d.logEvent t n e st i).thm = d.thm := rfl

@[simp] theorem Dev.logEvent_pins (d : Dev) (t : Byte) (n : Nat) (e : BitVec 16) (st : Byte) (i : BitVec 64) :
    (d.logEvent t n e st i).pins = d.pins := rfl

@[simp] theorem Dev.logEvent_outbox (d : Dev) (t : Byte) (n : Nat) (e : BitVec 16) (st : Byte) (i : BitVec 64) :
    (d.logEvent t n e st i).outbox = d.outbox := rfl

end Sys2Proof.Machine
end

