-- ==== Sys2Proof/Tests/Slice0.lean ====
section
/-! SUPPORT. The model's own tests: a small device and its plan; an ill-formed term for every check of
WellFormed; for every statement about the model a state and operands that meet its hypotheses; and the worked
examples of the spec. -/
open Sys2Proof Sys2Proof.Machine
namespace Sys2Proof.Tests
set_option maxRecDepth 20000
set_option Elab.async false

/-! ## A small stand -/

/-- A link entry of group `g`: all three shares. -/
def linkTo (g : Byte) (addr : BitVec 20) : PlanLink :=
  { group := g, data := 32, strand := 8, tidectl := 24, cover := 0, enabled := true, nbrAddr := addr, farLink := 0,
    reservedZero := true }

def linkOff : PlanLink :=
  { group := 0, data := 0, strand := 0, tidectl := 0, cover := 0, enabled := false, nbrAddr := 0, farLink := 0,
    reservedZero := true }

def clearingAt (n : Byte) (owner : BitVec 6) (arith : Byte) (tiles : BitVec 96) (base : BitVec 16) : PlanClearing :=
  { index := n, owner := owner, valid := true, arith := arith, tiles := tiles, queueBase := base, queueCount := 8,
    flags := 1, reservedZero := true }

def clearingNone (n : Byte) : PlanClearing :=
  { index := n, owner := 0, valid := false, arith := 0, tiles := 0, queueBase := 0, queueCount := 0, flags := 0,
    reservedZero := true }

def regionAt (f mode sector : Byte) (first count : Word) : PlanRegion :=
  { clearing := f, mode := mode, sector := sector, first := first, count := count, reservedZero := true }

def noStage : PlanStage := { ins := [], outs := [], partialOf := none }

def actOf (id : BitVec 16) (kind clr : Byte) (q : BitVec 16) (st : PlanStage) : PlanAct :=
  { actId := id, kind := kind, clearing := clr, startOff := 0, deadlineOff := 8, preds := [], queue := q, rflags := 7,
    stage := st }

/-- The collective stages of the test schedule: one that receives, one that sends, a confluence. -/
def recvStage : PlanStage := { ins := [{ slot := 5, addr := 7, clr := 2 }], outs := [], partialOf := none }
def sendStage : PlanStage :=
  { ins := [], outs := [{ group := 0, slot := 2, clr := 2, handle := 0, off := 0 }], partialOf := none }

def acts : List PlanAct :=
  [actOf 1 3 2 8 noStage, actOf 2 6 2 8 noStage, actOf 3 1 2 8 recvStage, actOf 4 1 2 8 sendStage,
   actOf 5 2 2 8 { recvStage with ins := [{ slot := 1, addr := 7, clr := 4 }, { slot := 3, addr := 9, clr := 4 }] },
   actOf 6 0 2 8 noStage, actOf 7 5 2 8 noStage]

def sectionLens : List (Nat × Nat) :=
  [(1, 64), (2, 64), (3, 524), (4, 3264), (5, 64), (6, 1793), (7, 64), (8, 64), (9, 64), (10, 64), (12, 128), (14, 64),
   (15, 64), (255, 64)]

def dirFrom : Nat → List (Nat × Nat) → List DirEntry
  | _, [] => []
  | at_, (t, n) :: xs =>
    { type := BitVec.ofNat 8 t, offset := BitVec.ofNat 32 at_, length := BitVec.ofNat 32 n, reservedZero := true } ::
      dirFrom (at_ + (n + 63) / 64 * 64) xs

/-- The length of the plan: its header, its directory, and its sections. -/
def planBytes : Nat := 64 + 16 * 14 + 32 + ((sectionLens.map fun x => (x.2 + 63) / 64 * 64).foldl (· + ·) 0)

/-- Clearing 2, a holding of owner 5 on tiles 0 and 1 with queues 8–15, and clearing 3, the Commons, on tile 8. -/
def stand : StandPlan :=
  { raw := [],
    header := { magic := 0x4C505356, version := 1, sectionCount := 14, totalLength := BitVec.ofNat 32 planBytes,
                flags := 0, planId := 1, serial := 5, setId := 77, addr := 3, reservedZero := true },
    dir := dirFrom 320 sectionLens, paddingZero := true, layoutLens := sectionLens.map (·.2),
    device := { topoHash := 0, shaded := 0, tamperPolicy := 0, reservedZero := true },
    tide := { role := 1, periodNs := 10000, outEn := false, parent := 0, altParent := 1, altValid := true, depth := 3,
              div := 0, delaysNs := [] },
    clearings := [clearingNone 0, clearingNone 1, clearingAt 2 5 0 3 8, clearingAt 3 0 0 256 16] ++
      (List.range 12).map fun n => clearingNone (BitVec.ofNat 8 (n + 4)),
    gangs := List.replicate 12 0,
    carveouts := [0, 0, 7, 24] ++ List.replicate 12 0 ++ [32],
    regions := [regionAt 2 1 0 0 1, regionAt 2 0 0 1 1, regionAt 2 2 0 2 1, regionAt 3 0 1 0 1, regionAt 3 1 0 1 1,
      regionAt 16 1 0 0 1],
    linkMode := 0, links := [linkTo 0 7, linkTo 1 9] ++ List.replicate 62 linkOff,
    fractions := [[0, 0, 64], [0, 0, 64]] ++ List.replicate 62 [],
    ownerMask := 33, quorum := 2,
    flows := [{ src := 3, dst := 2, kind := 1, contributors := 0 }, { src := 2, dst := 0xFF, kind := 5, contributors := 0 }],
    keyPolicy := [{ clearing := 2, slotFirst := 0x10, slotCount := 8, source := 0, bundleId := 1, rekeySteps := 0 },
      { clearing := 3, slotFirst := 0x20, slotCount := 4, source := 1, bundleId := 0, rekeySteps := 0 }],
    templates := [{ templateId := 1, base := 100, length := 50, acts := acts }],
    strandline := some
      { k := 1, role := 0, d := 1, tauMinSteps := 2, tauMaxS := 60, buddy0 := 7, buddy1 := 0, shadowAddr := 0,
        shadowValid := false, lossClearing := 2, lossAct := 6, lossRa := 0, lossRegion := 0, template := 1,
        saves := [{ clearing := 2, shadow := false, region := 0, first := 0, chunks := 1 }],
        peers := [{ addr := 7, shadow := false, region := 0, firstMib := 0, sizeMib := 128 }] },
    escalation := none,
    claims := [{ cls := 3, section_ := 3, entry := 2, first := 2, last := 2, reservedZero := true },
      { cls := 3, section_ := 3, entry := 3, first := 3, last := 3, reservedZero := true },
      { cls := 4, section_ := 9, entry := 2, first := 5, last := 5, reservedZero := true },
      { cls := 6, section_ := 9, entry := 3, first := 1, last := 1, reservedZero := true },
      { cls := 4, section_ := 9, entry := 4, first := 1, last := 1, reservedZero := true },
      { cls := 4, section_ := 9, entry := 4, first := 3, last := 3, reservedZero := true },
      { cls := 6, section_ := 10, entry := 0, first := 2, last := 2, reservedZero := true },
      { cls := 6, section_ := 10, entry := 0, first := 10, last := 10, reservedZero := true }],
    trace := none, report := 15, signerKey := 1, chainCerts := 2 }

def policy : SetPolicy :=
  { setId := 77, ordering := 0, minSvn := 0, pairs := [], roster := [(0, 0), (5, 0)], verifies := true }

def member : SetMember := { setId := 77, epoch := 1, addr := 3, root := 9, policy := policy, origin := none }

def keyed (attr : BitVec 2) (owner : BitVec 6) (mask : BitVec 16) : Slot :=
  { Slot.reset with loaded := true, key := 0x1234, attr := attr, owner := owner, mask := mask, gen := 1, source := 1 }

/-- A running device at home in the stand: clearings 2 and 3 ACTIVE with their pairs loaded, links 0 and 1 UP,
the tide running. -/
def home : Dev :=
  { Dev.reset with
    flt := { Flt.reset with ready := true },
    lcs := { Lcs.reset with st := .fielded },
    plan := { PlanRegs.reset with active := some stand, st := .active, len := BitVec.ofNat 32 planBytes },
    clrs := [(2, { Clearing.reset with st := .active }), (3, { Clearing.reset with st := .active })],
    sec := { Sec.reset with
      member := some member,
      slots := [(0, { keyed 3 0 0 with source := 3 }), (3, keyed 0 0 0), (4, keyed 1 0 0), (0x10, keyed 0 5 4), (0x11, keyed 1 5 4),
        (0x20, keyed 0 0 8), (0x21, keyed 1 0 0xC)] },
    lnk := { LnkBlk.reset with
      links := [(0, { Link.reset with st := .up, adm := .member, farAddr := 7, rxSeq := 1, txSeq := 1 }),
        (1, { Link.reset with st := .up, adm := .member, farAddr := 9, rxSeq := 1, txSeq := 1 })] },
    tide := { Tide.reset with
      isSource := true, firstSeen := true, locked := true, count := 1000, pos := 1000, cardFirst := false } }

def at_ (d : Dev) : State := { pending := [], dev := d }

/-- The device after a command; the device before it where the command stops. -/
def after (d : Dev) (c : Instr) : Dev := match exec c (at_ d) with | .next t => t.dev | _ => d

/-! ## Ill-formed operands are refused -/

theorem test_ill_register_offset :
    (Instr.registerWrite 0x0100002 0 0).wf = false ∧ (Instr.registerWrite 0x3000000 0 0).wf = false ∧
      (Instr.rcRegisterRead 0x0100041 0).wf = false ∧ (Instr.rcRegisterRead 0x3FFFFFC 0).wf = false ∧
      (Instr.registerWrite 0x2FFFFFC 0 0).wf = true := by decide
theorem test_ill_bar0 :
    (Instr.bar0MisalignedAccess 0x0100004 4 true).wf = false ∧ (Instr.bar0MisalignedAccess 0x0100008 8 false).wf = false ∧
      (Instr.bar0MisalignedAccess 0x0100004 8 false).wf = true ∧ (Instr.bar0MisalignedAccess 0x0100000 2 false).wf = true ∧
      (Instr.bar0ReservedAccess 0x2FFFFFC true).wf = false ∧ (Instr.bar0ReservedAccess 0x3000000 true).wf = true := by
  decide
theorem test_ill_launch :
    (Instr.launch 0 0 { handles := List.replicate 15 0, arg := List.replicate 256 0 }).wf = false ∧
      (Instr.launch 0 0 { handles := List.replicate 16 0, arg := List.replicate 257 0 }).wf = false := by decide
theorem test_ill_stack_address :
    (Instr.hbmLineRead 0 0x1800000000 false false [] [] .unit none).wf = false ∧
      (Instr.patrolRead 15 0x1800000000 []).wf = false ∧ (Instr.patrolRead 15 0x17FFFFFFFF []).wf = true ∧
      (Instr.commonsRepairDone 0 0x1800000000 false ⟨0, 0, [], List.replicate 4096 0⟩).wf = false ∧
      (Instr.commonsRepairDone 0 0 true ⟨0, 0, [], [0]⟩).wf = false := by decide +kernel
theorem test_ill_frame : (Instr.mcxEpochRenew 16 0).wf = false ∧ (Instr.mcxEpochRenew 15 2047).wf = true := by decide
theorem test_ill_make_bundle :
    (Instr.makeBundle 1 (List.replicate 257 { slot := 0x10, gen := 0 })).wf = false := by decide
def hdr : FlitHdr :=
  { seq := 1, tag := 0, vc := 1, dst := 2, dstKind := 0, dstGen := 0, ackSeq := 0, srcOwner := 5, src := 3, stream := 7 }
theorem test_ill_flit_payload :
    (Instr.dataFlit 0 hdr 1 0 []).wf = false ∧ (Instr.dataFlit 0 hdr 1 0 (List.replicate 225 0)).wf = false ∧
      (Instr.dataFlit 0 hdr 1 0 (List.replicate 224 0)).wf = true ∧
      (Instr.strandFlit 0 hdr 2 0 false 0 (List.replicate 225 0) 1 false).wf = false ∧
      (Instr.collFlit 0 hdr 1 0 0 0x0A (List.replicate 15 0)).wf = false ∧
      (Instr.collFlit 0 hdr 1 0 0 8 (List.replicate 57 0)).wf = false ∧
      (Instr.collFlit 0 hdr 1 0 0 6 (List.replicate 113 0)).wf = false ∧
      (Instr.collFlit 0 hdr 1 0 0 7 [0]).wf = false := by decide
theorem test_ill_credit : (Instr.credit 0 [0, 0, 0, 0, 0, 0, 0, 0, 0] []).wf = false := by decide
theorem test_ill_dump (bs : List Byte) (h : bs.length = 262145) :
    (Instr.ngataselWatchdog bs).wf = false ∧ (Instr.controlDieEccError bs).wf = false := by
  have g : decide (bs.length ≤ 262144) = false := by simp [h]
  exact ⟨g, g⟩
theorem test_ill_boot_lane : (Instr.bootReady [(1024, 1)] [] false).wf = false := by decide
theorem test_ill_preload : (Instr.samplePreload (some [true])).wf = false := by decide
theorem test_ill_mode : (Instr.modeRequest 3).wf = false := by decide
theorem test_ill_power_sample : (Instr.powerSample 0 [1, 2, 3, 4, 5, 6, 7] 48000 12000 0).wf = false := by decide
theorem test_ill_i3c : (Instr.i3cPrivateWrite [0, 0]).wf = false := by decide

/-- No row of the table gives bits. -/
theorem test_no_word_spells_a_command : decodeTableWord 32 0xFFFFFFFF = none := by decide

/-! ## States that meet the statements' hypotheses -/

theorem test_witness_StepRuns :
    (at_ home).pending = [] ∧ home.running = true ∧
      ({ home with pins := { home.pins with inReset := true } } : Dev).running = false := by decide +kernel

theorem test_witness_RegisterWindow :
    home.running = true ∧ 0x3000000 ≤ (0x3000000 : BitVec 26).toNat ∧ naturalAccess 0x0100012 4 = false ∧
      naturalAccess 0x0100014 8 = false ∧ naturalAccess 0x0100000 2 = false ∧
      (0x0100040 : BitVec 26).toNat % 8 = 0 ∧ (0x0100038 : BitVec 26).toNat % 4 = 0 ∧ eventReg 0x0100038 = some (.tide, false) ∧
      eventReg 0x2A00004 = some (.thm, false) := by decide +kernel

def i3cAt (a : Option (BitVec 7)) : Dev := { home with pins := { home.pins with i3cAddr := a } }

theorem test_witness_ReadsLatchAndClear :
    home.running = true ∧ 0x0100040 ∈ rcWords ∧ 0x1801FE8 ∈ rcWords ∧
      Tab.wf Clearing.reset home.clrs = true ∧ Tab.wf StackSt.reset home.mem.stk = true ∧
      Tab.wf McxFrame.reset home.mem.frames = true ∧ Tab.wf Link.reset home.lnk.links = true ∧
      (i3cAt none).running = true ∧ (i3cAt none).pins.i3cAddr = none ∧
      (i3cAt (some 0x22)).running = true ∧ (i3cAt (some 0x22)).pins.i3cAddr ≠ none := by decide +kernel

def planIn (st : PlanSt) : Dev := { home with plan := { home.plan with st := st } }
def queueIn (q : Nat) (st : QSt) : Dev := home.modQueue q fun u => { u with st := st }

theorem test_witness_RegisterWrites :
    home.running = true ∧
      (let v : Word := 0x00463B46
       70 ≤ (v.extractLsb' 0 8).toNat ∧ (v.extractLsb' 0 8).toNat ≤ 100 ∧ (v.extractLsb' 8 8).toNat < 60 ∧
         70 ≤ (v.extractLsb' 16 8).toNat ∧ (v.extractLsb' 16 8).toNat ≤ 95) ∧
      (let v : Word := 0x005F0064
       70 ≤ (v.extractLsb' 0 8).toNat ∧ (v.extractLsb' 0 8).toNat ≤ 100 ∧ (v.extractLsb' 8 8).toNat < 60 ∧
         70 ≤ (v.extractLsb' 16 8).toNat ∧ (v.extractLsb' 16 8).toNat ≤ 95) ∧
      ([PlanSt.fetching, .checking, .armed, .empty, .active, .failed].all fun st =>
        (planIn st).running && (planIn st).plan.st == st) = true ∧
      (16777216 : Word).toNat ≤ 16777216 ∧
      (0x53FFC0 : BitVec 26).toNat = 0x500000 + 64 * (4095 : Que).val ∧
      (queueIn 4095 .running).running = true ∧ ((queueIn 4095 .running).queue 4095).st ≠ .disabled ∧
      (queueIn 4095 .disabled).running = true ∧ ((queueIn 4095 .disabled).queue 4095).st = .disabled := by
  decide +kernel

def tideOf (f : Tide → Tide) : Dev := { home with tide := f home.tide }
def inRole (n : BitVec 2) (d : Dev) : Dev :=
  { d with plan := { d.plan with active := some { stand with tide := { stand.tide with role := n } } } }
def frameOf (c : BitVec 64) (crc : BitVec 16) : TideFrame := { count := c, flags := 1, crc := crc }

theorem test_witness_SourceMarks :
    (home.running = true ∧ home.tide.isSource = true ∧ home.tide.split = false ∧ home.tide.lost = false ∧
      home.tide.firstSeen = true ∧ home.tideRole = 1) ∧
    (let d := inRole 2 (tideOf fun t => { t with holdover := true })
     d.running = true ∧ d.tide.isSource = true ∧ d.tide.split = false ∧ d.tide.lost = false ∧
      d.tide.firstSeen = true ∧ d.tideRole = 2 ∧ d.tide.holdover = true) ∧
    (let d := inRole 3 (tideOf fun t => { t with missing := 1 })
     d.running = true ∧ d.tide.isSource = true ∧ d.tide.split = false ∧ d.tide.lost = false ∧
      d.tide.firstSeen = true ∧ d.tideRole = 3 ∧ d.tide.missing < 2) ∧
    (let d := inRole 3 (tideOf fun t => { t with missing := 2 })
     d.running = true ∧ d.tide.isSource = true ∧ d.tide.split = false ∧ d.tide.lost = false ∧
      d.tideRole = 3 ∧ 2 ≤ d.tide.missing) ∧
    (let d := tideOf fun t => { t with firstSeen := false }
     d.running = true ∧ d.tide.isSource = true ∧ d.tide.split = false ∧ d.tide.lost = false ∧
      d.tide.firstSeen = false ∧ d.tideRole = 1) ∧
    (let d := inRole 2 home
     d.running = true ∧ d.tide.isSource = true ∧ d.tideRole = 2 ∧ d.tide.split = false ∧ d.tide.lost = false ∧
      d.tide.firstSeen = true ∧ d.tide.cardFirst = false) ∧
    frameGood (frameOf 1001 30049) = true ∧ (frameOf 1001 30049).count = home.tide.count + 1 ∧
    frameGood (frameOf 1001 0) = false ∧ frameGood (frameOf 1003 44011) = true ∧ (frameOf 1003 44011).count ≠ home.tide.count + 1 ∧
    (inRole 2 home).tide.holdover = false ∧ (inRole 2 home).tide.cardMissed = 0 ∧
    (let d := inRole 2 (tideOf fun t => { t with cardMissed := 1 })
     d.running = true ∧ d.tide.isSource = true ∧ d.tideRole = 2 ∧ d.tide.split = false ∧ d.tide.lost = false ∧
      d.tide.firstSeen = true ∧ d.tide.cardFirst = false ∧ d.tide.holdover = false ∧ d.tide.cardMissed ≠ 0) := by
  decide +kernel

def follower (f : Tide → Tide) : Dev :=
  inRole 3 (tideOf fun t => f { t with isSource := false, following := true, parent := 0, alt := 1, altValid := true })
def markAt (c : BitVec 64) (e : BitVec 16) : MarkRec :=
  { count := c, shift := 3, pending := 2, holdover := false, failover := false, epoch := e, source := 44, hop := 2 }
/-- The device follows the tide over link `l`. -/
def follows (d : Dev) (l : Nat) : Bool :=
  d.running && !d.tide.isSource && d.tide.following && !d.tide.split && d.linkUsable l && d.linkEnabled l

theorem test_witness_FollowerMarks :
    follows (follower id) 0 = true ∧ (0 : Lnk).val = (follower id).tide.parent.toNat ∧
      (follower id).tide.epoch.toNat ≤ (markAt 1010 0).epoch.toNat ∧
      follows (follower id) 1 = true ∧ (1 : Lnk).val ≠ (follower id).tide.parent.toNat ∧
      (follower id).tide.altValid = true ∧ (1 : Lnk).val = (follower id).tide.alt.toNat ∧
      (follower id).tide.epoch.toNat < (markAt 1010 1).epoch.toNat ∧
      (let d := follower fun t => { t with missing := 2 }
       follows d 1 = true ∧ d.tide.altValid = true ∧ d.tide.epoch.toNat = (markAt 1010 0).epoch.toNat ∧
        2 ≤ d.tide.missing) := by decide +kernel

/-- For every record some tag verifies and some tag fails. -/
theorem test_witness_record_tags :
    (follower id).recordOpens 0 (MarkRec.bytes (markAt 1010 0))
        (tagOf (recordTag (((follower id).link 0).rxKey ((follower id).link 0).rxSeq) (MarkRec.bytes (markAt 1010 0)))) =
      true ∧
    (∃ tag, (follower id).recordOpens 0 (MarkRec.bytes (markAt 1010 0)) tag = false) ∧
    ∀ r : RetRec, ∃ tag, home.recordOpens 1 (RetRec.bytes r) tag = true :=
  ⟨recordOpens_tag _ _ _, recordOpens_fails _ _ _, fun _ => ⟨_, recordOpens_tag _ _ _⟩⟩

theorem test_witness_MarksNotTaken :
    (let d := follower fun t => { t with split := true }
     d.running = true ∧ d.tide.isSource = false ∧ d.tide.following = true ∧ d.tide.split = true) ∧
    (follows (follower id) 0 = true ∧ (0 : Lnk).val = (follower id).tide.parent.toNat) ∧
    (let d := follower fun t => { t with altValid := false }
     follows d 1 = true ∧ (1 : Lnk).val ≠ d.tide.parent.toNat ∧ d.tide.altValid = false) ∧
    (let d := follower fun t => { t with alt := 5 }
     follows d 1 = true ∧ (1 : Lnk).val ≠ d.tide.parent.toNat ∧ (1 : Lnk).val ≠ d.tide.alt.toNat) ∧
    (let d := follower fun t => { t with epoch := 1 }
     follows d 0 = true ∧ (markAt 1010 0).epoch.toNat < d.tide.epoch.toNat) ∧
    (let d := follower fun t => { t with firstSeen := false }
     d.running = true ∧ d.tide.firstSeen = false) ∧
    (let d := follower fun t => { t with missing := 2 }
     follows d 0 = true ∧ d.tide.firstSeen = true ∧ d.tide.lost = false ∧ d.planActive = true ∧ d.tide.missing < 3) ∧
    (let d := follower fun t => { t with missing := 3 }
     follows d 0 = true ∧ d.tide.firstSeen = true ∧ d.tide.lost = false ∧ d.planActive = true ∧ d.tide.missing = 3) := by
  decide +kernel

def ret (k : BitVec 8) : RetRec :=
  { countLow := 1000, setback := k, late := false, failed := false, lateCount := 0, reqAddr := 7, reason := 1,
    failedAddr := 0 }
def sendsReturns : Dev :=
  { home with
    plan := { home.plan with active := some { stand with tide := { stand.tide with outEn := true } } },
    tide := { home.tide with window := some (ret 3) } }

theorem test_witness_ReturnsMerge :
    (home.running = true ∧ home.tide.isSource = true ∧ home.linkUsable 1 = true ∧ home.linkEnabled 1 = true ∧
      home.failed = false ∧ (ret 3).countLow = home.tide.count.setWidth 32 ∧ home.tide.cutoff = false ∧
      home.planActive = true ∧ stand.tide.outEn = false) ∧
    (let d := tideOf fun t => { t with cutoff := true }
     d.running = true ∧ d.tide.isSource = true ∧ d.linkUsable 1 = true ∧ d.linkEnabled 1 = true ∧ d.failed = false ∧
      d.tide.cutoff = true) ∧
    (sendsReturns.running = true ∧ sendsReturns.tide.isSource = true ∧ sendsReturns.planActive = true ∧
      sendsReturns.plan.active.any (·.tide.outEn) = true ∧ sendsReturns.tide.window = some (ret 3)) ∧
    ((ret 2).setback.toNat < (ret 3).setback.toNat ∧ (ret 3).setback = (ret 3).setback) := by decide +kernel

def heldKeys : Dev :=
  { planIn .armed with
    sec := { home.sec with slots := home.sec.slots ++
      [(0x30, { keyed 0 5 4 with held := true }),
       (0x31, { Slot.reset with
         held := true, gen := 7,
         shadow := some { key := 5, kcv := 6, attr := 0, owner := 0, mask := 0, source := 0, bundleOk := true } })] } }

theorem test_witness_PlanLoads :
    ([PlanSt.fetching, .checking, .armed].all fun st => (planIn st).running && (planIn st).plan.st == st) = true ∧
    (let d : Dev := { planIn .empty with lcs := { home.lcs with st := .scrapped } }
     d.running = true ∧ d.plan.st = .empty ∧ d.lcs.st = .scrapped) ∧
    (let d : Dev := { planIn .failed with flt := { home.flt with oos := true } }
     d.running = true ∧ d.plan.st = .failed ∧ d.flt.ready = true ∧ d.retired = true) ∧
    (home.running = true ∧ home.plan.st = .active ∧ home.lcs.st ≠ .scrapped ∧ home.flt.ready = true ∧
      home.retired = false ∧ home.trainFailed = false) ∧
    (heldKeys.running = true ∧ heldKeys.plan.st = .armed ∧ Tab.wf Slot.reset heldKeys.sec.slots = true ∧
      (heldKeys.slot 0x30).held = true ∧ (heldKeys.slot 0x30).loaded = true ∧
      (heldKeys.slot 0x31).held = true ∧ (heldKeys.slot 0x31).shadow.isSome = true ∧
      (heldKeys.slot 0x10).held = false) := by decide +kernel

def fetchingFirst : Dev := { home with plan := { home.plan with st := .fetching, active := none } }
def fetchingNext : Dev := { home with plan := { home.plan with st := .fetching } }
def signed : PlanVerdict := { sigOk := true, chainOk := true, selfSigned := false }
/-- The stand with the topology hash of the device that reads it, and the next plan after it. -/
def fits : StandPlan :=
  { stand with device := { stand.device with topoHash := home.topoHash (StandPlan.linkOn stand) } }
def next_ : StandPlan := { fits with header := { fits.header with serial := 6 } }
def contested : StandPlan :=
  { next_ with claims := stand.claims ++
    [{ cls := 7, section_ := 2, entry := 1, first := 1, last := 1, reservedZero := true }] }

theorem test_witness_PlanCheck_first :
    fetchingFirst.running = true ∧ fetchingFirst.plan.st = .fetching ∧ fetchingFirst.plan.active = none ∧
      fits.conflict = none := by decide +kernel
/-- The topology check (R65's check 9) compares the plan's hash with the one it was made from. -/
theorem topo_fits (d : Dev) (h : d.lnk = home.lnk) (p : StandPlan) (hl : p.links = stand.links)
    (hd : p.device.topoHash = home.topoHash (StandPlan.linkOn stand)) :
    (p.device.topoHash != d.topoHash (StandPlan.linkOn p)) = false := by
  have e : StandPlan.linkOn p = StandPlan.linkOn stand := by funext l; simp only [StandPlan.linkOn, hl]
  have t : d.topoRecord = home.topoRecord := by
    funext f l
    simp only [Dev.topoRecord, Dev.linkUsable, Dev.link, h]
    rfl
  rw [e, hd, Dev.topoHash, Dev.topoHash, t, bne_self_eq_false]
/-- The plan's hash is the one of its own links, which the device finds. -/
theorem topo_expected : expectedTopo stand = home.topoHash (StandPlan.linkOn stand) :=
  congrArg Config.sm3 (by decide +kernel)
theorem topo_right (p : StandPlan) (hl : p.links = stand.links)
    (hd : p.device.topoHash = home.topoHash (StandPlan.linkOn stand)) : (p.device.topoHash == expectedTopo p) = true := by
  rw [hd, ← topo_expected, expectedTopo, expectedTopo, hl, beq_self_eq_true]
theorem test_witness_PlanCheck_first_early : firstReject (fetchingFirst.checkEarly fits signed) = none := by
  unfold Dev.checkEarly
  rw [topo_fits fetchingFirst rfl fits rfl rfl, topo_right fits rfl rfl]
  decide +kernel
theorem test_witness_PlanCheck_next_early : firstReject (fetchingNext.checkEarly next_ signed) = none := by
  unfold Dev.checkEarly
  rw [topo_fits fetchingNext rfl next_ rfl rfl, topo_right next_ rfl rfl]
  decide +kernel
theorem test_witness_PlanCheck_contested_early : firstReject (fetchingNext.checkEarly contested signed) = none := by
  unfold Dev.checkEarly
  rw [topo_fits fetchingNext rfl contested rfl rfl, topo_right contested rfl rfl]
  decide +kernel
theorem test_witness_PlanCheck_late :
    firstReject (fetchingFirst.checkLate fits) = none ∧ firstReject (fetchingNext.checkLate next_) = none := by
  decide +kernel
theorem test_witness_PlanCheck_refused : firstReject (fetchingNext.checkEarly fits signed) = some (4, 0, 0) := by
  decide +kernel
theorem test_witness_PlanCheck_contested : contested.conflict.isSome = true := by decide +kernel

def otherArith : StandPlan :=
  { stand with
    clearings := stand.clearings.set 2 (clearingAt 2 5 32 3 8), header := { stand.header with serial := 9 } }
def armedDev : Dev :=
  { home with plan := { home.plan with st := .armed, armed := some otherArith, changed := 4, due := true } }
def overwriting : Dev := { home with plan := { home.plan with overwrites := [(1, 2), (2, 3)] } }

theorem test_witness_PlanApplies :
    (armedDev.running = true ∧ armedDev.plan.st = .armed ∧ armedDev.plan.active = some stand ∧
      armedDev.plan.armed = some otherArith ∧ armedDev.plan.due = true ∧ armedDev.stageRuns stand = false ∧
      (List.range 16).all (fun n => !armedDev.plan.changed.getLsbD n || ((armedDev.clr n).st != .fenced &&
        !(armedDev.clr n).fencing && (armedDev.clr n).st != .resetting)) = true ∧
      armedDev.plan.changed.getLsbD 2 = true ∧ Tab.wf Clearing.reset armedDev.clrs = true) ∧
    (let d := armedDev.modClr 2 fun c => { c with st := .fenced }
     d.running = true ∧ Tab.wf Clearing.reset d.clrs = true ∧ d.plan.st = .armed ∧ d.plan.due = true ∧
      d.stageRuns stand = false ∧ (d.clr 2).st = .fenced) ∧
    (let d := armedDev.modClr 2 fun c => { c with st := .resetting }
     d.running = true ∧ Tab.wf Clearing.reset d.clrs = true ∧ d.plan.st = .armed ∧ d.plan.due = true ∧
      d.stageRuns stand = false ∧ (d.clr 2).st = .resetting ∧
      (List.range 16).all (fun n => (d.clr n).st != .fenced && !(d.clr n).fencing) = true) ∧
    (let d : Dev := { armedDev with plan := { armedDev.plan with due := false } }
     d.running = true ∧ d.plan.st = .armed ∧ d.plan.due = false) ∧
    (overwriting.running = true ∧ overwriting.plan.overwrites.any (fun w => w.1 == (1 : Fin 1536).val) = true) := by
  decide +kernel

/-! ### Sweep programs -/

def sweepOf (init epi : Bool) (slot k : Nat) : SwInstr :=
  .sweep 8 8 false false false false init epi 0 8192 0 0 slot k 0 8 false false 0 0 0 65536 0
/-- A command of clearing 2 with its opcode, its phase and the bytes of its body from byte 16 on. -/
def cmdOf (opcode : Nat) (seq : Word) (ph : CmdPh) (body : Nat) : Cmd :=
  { seq := seq, raw := BitVec.ofNat 512 (opcode + 2 ^ 16 * 9 + 2 ^ 32 * 0xFFFF + 2 ^ 128 * body), ph := ph, refs := [],
    src := 10, decodedAt := 5, stepKey := 1, prog := [], params := none }
/-- Body fields at their byte offsets. -/
def body (f : List (Nat × Nat)) : Nat := (f.map fun x => x.2 * 256 ^ (x.1 - 16)).foldl (· + ·) 0
def withCmds (d : Dev) (q : Nat) (cs : List Cmd) : Dev :=
  d.modQueue q fun u => { u with st := .running, clearing := 2, cmds := cs, outstanding := cs.length, seq := 7 }
def objAt (n : BitVec 4) (r : BitVec 11) (owner : BitVec 6) (base size : Nat) : Obj :=
  { Obj.reset with
    st := .live, clearing := n, region := r, owner := owner, base := base, size := size, mode := 1, ctx := 9 }
/-- The device at home with two objects of clearing 2, one of the Commons, and one in a second region. -/
def rich : Dev :=
  { home with host := { home.host with
      objs := [(1, objAt 2 0 5 0 65536), (2, objAt 2 0 5 65536 65536), (3, objAt 3 0 0 0 4096),
        (4, objAt 2 1 5 0 65536)] } }
def progOf (is : List SwInstr) : Prog :=
  { queue := 8, seq := 3, clearing := 2, members := [0], rows := 1, cols := 1, instrs := is, srStream := 0xFFFF,
    stepKey := 3, issued := [], done := [], flights := [], epilogues := [], movers := [], stopped := false,
    status := .ok, detail := .none, info := 0 }
def progCmd (ph : CmdPh) : Cmd := { cmdOf 2 3 ph 0 with prog := [sweepOf true true 0 2] }
def runs (g : Prog) : Dev :=
  (withCmds rich 8 [progCmd .running]).modTile 0 fun x =>
    { x with
      prog := some g, op := (List.range 8).map fun i => (4 * i + 3, 0x3F), acc := [(0, 5)] }

theorem test_witness_SweepsIssue :
    (let d := withCmds rich 8 [progCmd .started]
     d.running = true ∧ d.cmd 8 3 = some (progCmd .started) ∧ d.queueClr 8 = some 2 ∧ (progCmd .started).opcode = 2 ∧
      (d.tile (fld (progCmd .started).raw 28 1)).prog = none ∧ d.programFirst 8 (progCmd .started) = true) ∧
    (let g := progOf [sweepOf false true 0 2, .accAdd 1 0]
     ((runs g).running = true ∧ ((runs g).tile 0).prog = some g ∧ g.nextCalc = some (0, sweepOf false true 0 2) ∧
      g.calcReady ((runs g).readsOf g) 0 (sweepOf false true 0 2) = true)) ∧
    (let g := { progOf [sweepOf false true 0 2, .accAdd 1 0] with issued := [0], done := [0] }
     (((runs g).tile 0).prog = some g ∧ g.nextCalc = some (1, .accAdd 1 0) ∧ g.calcReady ((runs g).readsOf g) 1 (.accAdd 1 0) = true)) := by
  decide +kernel

def addFlight : Flight :=
  { idx := 0, isAdd := true, slot := 1, work := [], replays := 0, start := [(0, List.replicate 1024 0)] }
def addProg : Prog := { progOf [.accAdd 1 0, sweepOf true true 0 2] with issued := [0], flights := [addFlight] }
/-- A word whose anchor is too low for 1.0, so that it overflows. -/
def lowWord : AW :=
  ({ w := 0, a := -300, nan := false, esc := false, escs := false, loss := false, sat := false, anch := true } : Acc).word
def lowFlight : Flight :=
  { idx := 0, isAdd := false, slot := 0, replays := 0, start := [(0, List.replicate 1024 0)],
    work := [(0, List.replicate 1024 lowWord)] }
def lowProg : Prog :=
  { progOf [sweepOf false true 0 1, .accAdd 1 0] with issued := [0], flights := [lowFlight] }
def ones (g : Prog) : Dev :=
  (runs g).modTile 0 fun x =>
    { x with op := [(2, 0x80), (3, 0x3F), (8194, 0x80), (8195, 0x3F)] }

theorem test_witness_SweepsCommit :
    (let d := runs addProg
     d.running = true ∧ (d.tile 0).prog = some addProg ∧ addProg.flights = addFlight :: [] ∧
      ((d.flightPass addProg addFlight).all fun o => o.2.all fun e => !e.ovf) = true ∧
      firstNan (commitEvents addProg addFlight (d.mode 2 == .strict && !addFlight.isAdd) (d.nanTrap 2 == 1)
        (d.flightPass addProg addFlight)) = none ∧
      addProg.stopped = false ∧ addProg.done.length + 1 < addProg.instrs.length ∧
      d.startsStrict addProg addFlight = false) ∧
    (let d := ones lowProg
     d.running = true ∧ (d.tile 0).prog = some lowProg ∧ lowProg.flights = lowFlight :: [] ∧
      ((d.flightPass lowProg lowFlight).any fun o => o.2.any fun e => e.ovf) = true) := by
  decide +kernel

def epiProg : Prog := { progOf [sweepOf true true 0 2, .accAdd 1 0] with issued := [0], epilogues := [0] }
def loadI : SwInstr := .load 8 false 6 false false false 0 0 0 0 0 1 0 2 3 64 2048
def loadAccI : SwInstr := .load 10 false 10 false true false 0 0 0 0 0 1 0 2 2 64 2048
def storeI : SwInstr := .store 8 false 8 false false false 0 0 0 0 2 0 2 2 64 2048
/-- The transfer of instruction 0 meets no error. -/
def moves (i : SwInstr) (store : Bool) : Bool :=
  let g := progOf [i, .accAdd 1 0]
  let d := runs g
  d.running && (d.tile 0).prog == some g && g.instrs[0]? == some i && g.moveReady (d.readsOf g) 0 i store

theorem test_witness_PanelsMove :
    (let d := runs epiProg
     d.running = true ∧ (d.tile 0).prog = some epiProg ∧ epiProg.stopped = false ∧ d.nanTrap 2 ≠ 1 ∧
      Tab.wf TileSt.reset d.tiles = true ∧ epiProg.done.length + 1 < epiProg.instrs.length ∧
      epiProg.instrs[0]? = some (sweepOf true true 0 2)) ∧
    (moves loadI false = true ∧ moves loadAccI false = true ∧
      (runs (progOf [loadI, .accAdd 1 0])).keyAllows 2 2 false = true) ∧
    (let d := runs (progOf [loadI, .accAdd 1 0])
     (d.checkRanges (d.obj (objIndex 1)) (windowRanges (fmtOr 8) false false 0 2 3 64 2048)).2.status = .ok) ∧
    (let g : Prog := { progOf [sweepOf true true 0 2, .accAdd 1 0] with movers := [⟨0, .ok, .none, 0⟩] }
     ((runs g).tile 0).prog = some g ∧ g.movers.find? (fun r => r.idx == 0) = some ⟨0, .ok, .none, 0⟩ ∧
      g.done.length + 1 < g.instrs.length) := by decide +kernel

def copyCmd : Cmd := cmdOf 1 3 .started (body [(16, 1), (20, 2), (30, 8), (31, 6), (40, 5), (46, 0xFFFF)])

theorem test_witness_WindowsWritten :
    (let d := runs (progOf [storeI, .accAdd 1 0])
     moves storeI true = true ∧ d.nanTrap 2 ≠ 1 ∧ d.keyAllows 2 2 true = true ∧
      (let o := d.obj (objIndex 2)
       let y := convertRaw .s32 .s32 false false false (d.mode 2) (d.rounding 2 0) 2 (fun e => d.drawAt 3 0xFFFF 0 e)
         ((d.tile 0).rawPanel d.free (fmtOr 8) false false 0 2 2)
       let ws := windowWrites (fmtOr 8) false false 2 (fun r => 0 + r * 64) (0 + 2048) (planeShape false 2 2).2 none y.1
       d.piecesWait o ws = false ∧ (d.writePieces o ws).2.status = .ok)) ∧
    (let d := withCmds rich 8 [copyCmd]
     let a := copyCmd.copyArgs
     d.running = true ∧ d.nanTrap 2 ≠ 1 ∧ d.cmd 8 3 = some copyCmd ∧ d.queueClr 8 = some 2 ∧ copyCmd.opcode = 1 ∧
      a.dir = 0 ∧ d.keyAllows 2 2 false = true ∧ d.keyAllows 2 2 true = true ∧
      (d.checkRanges (d.obj (objIndex a.srcH)) (lineRanges a.src a.blkS a.srcOff a.count a.srcDelta)).2.status = .ok ∧
      (let e := (d.checkRanges (d.obj (objIndex a.srcH)) (lineRanges a.src a.blkS a.srcOff a.count a.srcDelta)).1.tick
       let o := d.obj (objIndex a.dstH)
       let y := convertRaw a.src a.dst a.blkS a.blkD false (d.mode 2) (d.rounding 2 0) a.count
         (e.drawAt copyCmd.stepKey (BitVec.ofNat 16 (fld copyCmd.raw 46 2)) 0)
         (e.rawWindow (d.obj (objIndex a.srcH)) a.src a.blkS false a.srcOff 1 a.count 0 a.srcDelta)
       let ws := windowWrites a.dst a.blkD false a.count (fun _ => a.dstOff) (a.dstOff + a.dstDelta) 0 none y.1
       e.piecesWait o ws = false ∧ (e.writePieces o ws).2.status = .ok)) := by
  decide +kernel

/-! ### Threads -/

def launched : LaunchSt :=
  { id := 1, queue := 8, seq := 3, clearing := 2, tiles := 3, perCore := 2,
    handles := [1, 2, 3, 4] ++ List.replicate 12 0xFFFFFFFF, arg := List.replicate 256 0, tsFirst := 1, tsCount := 3,
    srStream := 0xFFFF, stepKey := 7, entry := 0x1000, ph := .running, status := .ok, detail := .none, info := 0,
    rank := 0 }
def ctxOf (slot : Nat) : Ctx :=
  { Ctx.reset with
    launch := some 1, slotIdx := slot, pc := 0x1000,
    x := [(1, 0xFFFFFFFFFFFFFFF0), (2, 0x17), (4, 0x40490FDB), (5, 0x3F800001)], v := [(2, 0x12345678)] }
/-- Launch 1 runs on contexts 0 and 1 of core 0. -/
def threads : Dev :=
  { withCmds rich 8 [{ cmdOf 3 3 .running 0 with src := 11 }] with
    launches := [launched], nextLaunch := 2, ctxs := [(0, ctxOf 0), (1, ctxOf 1)], free := 17 }
def ci : CtxId := { core := 0, n := 0 }

/-- The context is ready for every register an instruction may name. -/
theorem ready_threads (rs : List Dest) : Ready threads 0 rs launched := by
  refine ⟨?_, rfl, rfl, rfl, ?_, ?_⟩
  · decide +kernel
  · decide +kernel
  · intro r _
    exact List.not_mem_nil

theorem test_witness_IntegerOps :
    threads.running = true ∧ Ready threads (512 * ci.core.val + ci.n.val) [.x 9, .x 1, .x 2, .x 3] launched ∧
      ((threads.ctx 0).getX 0).setWidth 8 = (0 : BitVec 8) ∧
      (((threads.ctx 0).getX 2).setWidth 32).toNat < 32 ∧ 8 ≤ (((threads.ctx 0).getX 2).setWidth 8).toNat := by
  refine ⟨by decide +kernel, ready_threads _, by decide +kernel, by decide +kernel, by decide +kernel⟩

/-- A context that may issue, and a device none of whose contexts may. -/
theorem test_witness_UndefinedInstructions :
    threads.running = true ∧ Ready threads 0 [] launched ∧ home.running = true ∧ ∀ l, ¬ Ready home 0 [] l := by
  refine ⟨by decide +kernel, ready_threads _, by decide +kernel, fun l h => ?_⟩
  exact absurd h.1 (by rw [show home.ctxLaunch 0 = none by decide +kernel]; exact nofun)

/-- The launch's other thread on the tile has exited. -/
def lastThread : Dev := { threads with ctxs := [(0, ctxOf 0), (1, { ctxOf 1 with exited := true })] }
def waitingReq (served : Bool) : MemReq :=
  { id := 4, ctx := 0, tile := 0, gen := 0, clearing := 2, asker := 2, handle := 1, region := 0, ra := 64, kind := .ld 8,
    dest := .x 9, served := served, status := .ok, detail := .none, result := [] }
def asked (served : Bool) : Dev := { threads with mem := { threads.mem with reqs := [waitingReq served] } }
theorem ready_asked (b : Bool) (rs : List Dest) : Ready (asked b) 0 rs launched := by
  refine ⟨?_, rfl, rfl, rfl, ?_, fun r _ => List.not_mem_nil⟩
  · cases b <;> decide +kernel
  · cases b <;> decide +kernel

theorem test_witness_ThreadValues :
    threads.running = true ∧ Ready threads 0 [.x 9, .x 4, .x 5, .x 0] launched ∧
      Ready threads 0 [.v 3, .v 1, .v 2, .v 2] launched ∧ Ready threads 0 [] launched ∧
      Tab.wf Clearing.reset threads.clrs = true ∧ Tab.wf Ctx.reset threads.ctxs = true ∧
      (Fmt.s32.convert (threads.mode 2) .rne 0
        ((Acc.ofWord ((threads.ctx 0).getX 5 ++ (threads.ctx 0).getX 4)).val .rne)).2 = false ∧
      (threads.mem.reqs.all fun r => r.ctx != 0 || r.served) = true ∧
      Ready (asked false) 0 [] launched ∧ ((asked false).mem.reqs.any fun r => r.ctx == 0 && !r.served) = true ∧
      ((threads.ctx 1).launch = some launched.id ∧ ctxTile 1 = ctxTile 0 ∧ (threads.ctx 1).atBarrier = false ∧
        (threads.ctx 1).exited = false) := by
  refine ⟨by decide +kernel, ready_threads _, ready_threads _, ready_threads _, by decide +kernel, by decide +kernel,
    by decide +kernel, by decide +kernel, ready_asked _ _, by decide +kernel, by decide +kernel⟩
/-- Every other thread of the launch on the tile has exited, so that a barrier releases. -/
theorem test_witness_ThreadValues_last :
    lastThread.running = true ∧ Ready lastThread 0 [] launched ∧ Tab.wf Ctx.reset lastThread.ctxs = true ∧
      ∀ j, (lastThread.ctx j).launch = some launched.id ∧ ctxTile j = ctxTile 0 → j ≠ 0 →
        (lastThread.ctx j).atBarrier = true ∨ (lastThread.ctx j).exited = true := by
  refine ⟨by decide +kernel, ⟨by decide +kernel, rfl, rfl, rfl, by decide +kernel, fun r _ => List.not_mem_nil⟩,
    by decide +kernel, ?_⟩
  intro j h n
  have e : lastThread.ctx j = if 0 = j then ctxOf 0 else
      if 1 = j then { ctxOf 1 with exited := true } else Ctx.reset := rfl
  rw [e] at h ⊢
  split at h
  · omega
  · split at h
    · right
      simp_all
    · exact absurd h.1 (by decide)

theorem reaches_ (d : Dev) (slot off n : Nat) (w : Bool) : Reaches d launched slot off n w ↔
    (let h := launched.handles[slot]?.getD 0xFFFFFFFF
     let o := d.obj (objIndex h)
     h ≠ 0xFFFFFFFF ∧ off + n ≤ o.size ∧
      (o.clearing.toNat = 2 ∨ (w = false ∧ o.owner = 0 ∧ d.readGrant o.clearing.toNat 2 = true)) ∧ off % n = 0) :=
  Iff.rfl

theorem test_witness_ThreadAccesses :
    threads.running = true ∧ Ready threads 0 [.x 9] launched ∧ Ready threads 0 [.v 3] launched ∧
      Reaches threads launched 0 65528 8 true ∧ Reaches threads launched 1 65504 32 true ∧
      Reaches threads launched 2 64 8 false ∧ Reaches threads launched 0 48 16 true ∧
      launched.handles[5]?.getD 0xFFFFFFFF = 0xFFFFFFFF ∧
      (threads.obj 1).size < 65529 + 8 ∧ (4 : Nat) % 8 ≠ 0 ∧ 4 + 8 ≤ (threads.obj 1).size ∧
      (threads.obj 1).clearing.toNat = launched.clearing ∧ 0 + 8 ≤ (threads.obj 3).size ∧
      (threads.obj 3).clearing.toNat ≠ launched.clearing := by
  simp only [reaches_]
  refine ⟨by decide +kernel, ready_threads _, ready_threads _, ?_⟩
  decide +kernel
theorem test_witness_ThreadAccesses_denied :
    let d : Dev := { threads with plan := { threads.plan with active := some { stand with flows := [] } } }
    d.running = true ∧ Ready d 0 [.x 9] launched ∧ (d.obj 3).clearing.toNat ≠ launched.clearing ∧
      d.readGrant (d.obj 3).clearing.toNat launched.clearing = false := by
  refine ⟨by decide +kernel, ⟨by decide +kernel, rfl, rfl, rfl, by decide +kernel, fun r _ => List.not_mem_nil⟩, ?_⟩
  decide +kernel

theorem test_witness_TileMemory :
    threads.running = true ∧ Ready threads 0 [.x 9] launched ∧
      (4096 * launched.tsFirst ≤ 4096 ∧ 16376 + 8 ≤ 4096 * (launched.tsFirst + launched.tsCount) ∧ 16376 + 8 ≤ 8388608) ∧
      ¬ (16377 + 8 ≤ 4096 * (launched.tsFirst + launched.tsCount)) ∧ ¬ (4096 * launched.tsFirst ≤ 4095) ∧
      Tab.wf 0 (threads.tile 0).op = true ∧ Tab.wf TileSt.reset threads.tiles = true := by
  refine ⟨by decide +kernel, ready_threads _, by decide, by decide, by decide, by decide +kernel, by decide +kernel⟩

def cachedDev : Dev :=
  { asked false with mem := { (asked false).mem with
      cache := [(0, { CacheLine.reset with valid := 15, frame := 2 })] } }
/-- The same context has asked twice for one byte. -/
def twice : Dev :=
  { threads with mem := { threads.mem with reqs := [waitingReq false, { waitingReq false with id := 5 }] } }

theorem test_witness_HomeSliceServes :
    cachedDev.running = true ∧
      cachedDev.mem.reqs.find? (fun r => r.id == 4 && !r.served && !cachedDev.behindOwn r) = some (waitingReq false) ∧
      cachedDev.mem.lockdown = false ∧ (cachedDev.planRegion 2 0).isSome = true ∧ cachedDev.phys 2 0 64 = some 64 ∧
      cachedDev.keyAllows 2 2 true = true ∧ cachedDev.cached 64 32 = true ∧
      cachedDev.rangeWaits 2 0 64 32 = false ∧
      (twice.running = true ∧ twice.mem.reqs = [waitingReq false, { waitingReq false with id := 5 }] ∧
        (waitingReq false).id < 5 ∧ (waitingReq false).served = false ∧
        (waitingReq false).ra < (waitingReq false).ra + (waitingReq false).kind.size) := by decide +kernel
theorem test_witness_HomeSliceServes_lines (i : Nat) :
    Tab.wf none (Tab.get CacheLine.reset cachedDev.mem.cache i).bytes = true := by
  have e : Tab.get CacheLine.reset cachedDev.mem.cache i =
      if 0 = i then { CacheLine.reset with valid := 15, frame := 2 } else CacheLine.reset := rfl
  rw [e]
  split <;> rfl

def cell (anch esc : Bool) (a : Int) : Acc :=
  { w := 0, a := a, nan := false, esc := esc, escs := false, loss := false, sat := false, anch := anch }

theorem test_witness_ExactCells :
    (cell false false 0).anch = false ∧ (cell true false 0).anch = true ∧ Val.isNan (.nan false true 0 0) = true ∧
      (cell true false 0).a + 91 ≤ floorLog2 1 91 ∧ floorLog2 1 90 < (cell true false 0).a + 91 ∧
      (cell true true 0).esc = true := by decide

def launchBody : Nat := body [(20, 0x1000), (24, 3), (36, 2), (48, 1), (50, 3)]
def launchCmd (ph : CmdPh) : Cmd := { cmdOf 3 3 ph launchBody with src := 20 }
def ps : LaunchParams := { handles := [1, 2, 3, 1] ++ List.replicate 12 0xFFFFFFFF, arg := List.replicate 256 5 }
/-- A LAUNCH on a tile that its clearing does not own. -/
def badLaunch : Cmd := cmdOf 3 3 .decoding (body [(20, 0x1000), (24, 7), (36, 2), (48, 1), (50, 3)])

theorem test_witness_LaunchLifecycle :
    (let d := withCmds rich 8 [launchCmd .decoding]
     d.running = true ∧ d.cmd 8 3 = some (launchCmd .decoding) ∧ d.queueClr 8 = some 2 ∧
      (launchCmd .decoding).opcode = 3 ∧
      (((ps.handles.take 16).filter (· != 0xFFFFFFFF)).all fun h => d.liveHandle h && d.handleOwned 2 h false) = true ∧
      d.launchOk 2 (launchCmd .decoding) = true ∧ d.launchOk 2 badLaunch = false) ∧
    (let c := { launchCmd .started with params := some ps }
     let d := withCmds rich 8 [c]
     d.cmd 8 3 = some c ∧ c.ph = .started ∧ c.params = some ps ∧
      d.roomFor (fld c.raw 24 12) (fld c.raw 36 2) = true ∧ d.launchFirst 8 c = true) ∧
    (let l : LaunchSt := { launched with ph := .stopping }
     let d : Dev := { threads with launches := [l] }
     d.running = true ∧ d.launchOf 8 3 = some l ∧ l.ph = .stopping ∧ d.launchQuiet l.id = true) ∧
    (let d : Dev := { threads with ctxs := [(0, { ctxOf 0 with exited := true })] }
     d.running = true ∧ d.launchOf 8 3 = some launched ∧ d.allExited launched.id = true ∧
      d.launchQuiet launched.id = true) := by decide +kernel

theorem test_witness_ResponsesArrive :
    (let r : MemReq := { waitingReq true with gen := 3 }
     let d : Dev := { threads with mem := { threads.mem with reqs := [r] } }
     d.running = true ∧ d.mem.reqs.find? (fun r => r.id == 4 && r.served) = some r ∧ r.gen ≠ d.tileGen r.tile) ∧
    ((asked true).mem.reqs.find? (fun r => r.id == 4 && r.served) = some (waitingReq true) ∧
      (waitingReq true).gen = (asked true).tileGen (waitingReq true).tile ∧ (waitingReq true).status = .ok) ∧
    (let r : MemReq := { waitingReq true with status := .uncorrectable }
     let d : Dev := { threads with mem := { threads.mem with reqs := [r] } }
     d.running = true ∧ d.mem.reqs.find? (fun r => r.id == 4 && r.served) = some r ∧ r.gen = d.tileGen r.tile ∧
      r.status ≠ .ok ∧ d.ctxLaunch r.ctx = some launched ∧ launched.ph = .running) := by decide +kernel

/-- Clearing 2 also owns a GENERATOR slot. -/
def withGen (d : Dev) : Dev := { d with sec := { d.sec with slots := d.sec.slots.take 5 ++ [(0x12, keyed 3 5 4)] ++ d.sec.slots.drop 5 } }
def queuedOps (n : Nat) : Dev := threads.modTile 0 fun x =>
  { x with setq := List.replicate n ⟨1, 2, 3, 0⟩, vecq := List.replicate n ⟨1, 2, 3, 4, 5, 0⟩ }
theorem ready_queuedOps (n : Nat) (rs : List Dest) : Ready (queuedOps n) 0 rs launched :=
  ⟨rfl, rfl, rfl, rfl, by show 0 < 16; decide, fun _ _ => List.not_mem_nil⟩

theorem test_witness_EnginesQueue :
    threads.running = true ∧ Ready threads 0 [.x 9] launched ∧ (threads.tile 0).setq.length < 16 ∧
      Ready (queuedOps 15) 0 [.x 9] launched ∧ ((queuedOps 15).tile 0).setq.length < 16 ∧
      Ready (queuedOps 16) 0 [.x 9] launched ∧ 16 ≤ ((queuedOps 16).tile 0).setq.length ∧
      ((queuedOps 7).tile 0).vecq.length < 8 ∧ 8 ≤ ((queuedOps 8).tile 0).vecq.length ∧
      ((withGen threads).genSlot launched.clearing).isSome = true ∧ threads.genSlot launched.clearing = none := by
  refine ⟨by decide +kernel, ready_threads _, by decide +kernel, ready_queuedOps _ _, by decide +kernel,
    ready_queuedOps _ _, by decide +kernel, by decide +kernel, by decide +kernel, by decide +kernel, by decide +kernel⟩

theorem test_witness_SetStreams :
    [1, 3, 5].Pairwise (· < ·) ∧ [3, 4].Pairwise (· < ·) ∧ [1, 3, 3].Pairwise (· ≤ ·) ∧
      [1, 3, 5].length + [3, 4].length ≤ 5 := by decide

/-- A set descriptor in the tile: two streams, the output and its limit. -/
def setDesc (op : Byte) : List Byte :=
  [op, 0, 0, 0] ++ leBytes 4 4352 ++ leBytes 4 3 ++ leBytes 4 4364 ++ leBytes 4 4 ++ leBytes 4 4500 ++ leBytes 4 0 ++
    leBytes 4 3
/-- A PROBE of a table of one bucket, in the tile or in the object of slot 0. -/
def probeDesc (mem : Bool) : List Byte :=
  [5, if mem then 2 else 0, 0, 0] ++ leBytes 4 4352 ++ leBytes 4 3 ++ leBytes 4 (if mem then 0 else 4608) ++
    leBytes 4 1 ++ leBytes 4 4500 ++ leBytes 4 0 ++ leBytes 4 3
def withDesc (b : List Byte) : Dev :=
  threads.modTile 0 fun x => ({ x with setq := [⟨0, 9, 4096, 0⟩] } : TileSt).write 4096 b
def setDev (op : Byte) : Dev := withDesc (setDesc op)
/-- The table's bucket is empty. -/
def probing (mem : Bool) : Dev :=
  let d := withDesc (probeDesc mem)
  { d with mem := { d.mem with hbm := (List.range 64).map fun i => (i, some 0xFF) } }
/-- The descriptor at the head of the engine's queue. -/
def descOf (d : Dev) : SetDesc := parseSet ((d.tile 0).read 0 4096 32)
def atEngine (d : Dev) : Bool :=
  d.running && (d.tile 0).setq == [⟨0, 9, 4096, 0⟩] && (d.tile 0).setRun.isNone && d.ctxLaunch 0 == some launched
def vuOf (op : VuOp) : VuInstr := { op := op, vd := 1, va := 1, vb := 2, vc := 3, dstOff := 0 }
def vecDev : Dev := threads.modTile 0 fun x => { x with vecq := [⟨0, 9, 4096, 0xFFFF, 88, 0⟩] }
def vecCode (off : Nat) : List VuInstr := [vuOf (.loadReg off), vuOf (.arith .add .s32 .rne), vuOf (.storeReg 8704)]
def vecRuns (code : List VuInstr) : VuSt :=
  code.foldl (vecDev.vuStep 0 launched 0xFFFF) { regs := [], stores := [], flags := 0, ok := true, clear := false }

theorem test_witness_EnginesRun :
    (atEngine (setDev 1) = true ∧ launched.inPages 4096 32 = true ∧ (descOf (setDev 1)).ok launched = true ∧
      (descOf (setDev 1)).op ≠ 5 ∧ (descOf (setDev 1)).limit < 2 ^ 32) ∧
    (atEngine (probing false) = true ∧ (descOf (probing false)).ok launched = true ∧ (descOf (probing false)).op = 5 ∧
      (descOf (probing false)).tableMem = false) ∧
    (atEngine (setDev 7) = true ∧ (descOf (setDev 7)).ok launched = false ∧ launched.ph = .running) ∧
    (let d := (setDev 1).modTile 0 fun z => { z with setRun := some 77 }
     d.running = true ∧ (d.tile 0).setq = ⟨0, 9, 4096, 0⟩ :: [] ∧ (d.tile 0).setRun = some 77 ∧
      (0 : BitVec 12) = d.tileGen 0) ∧
    (let d := (setDev 1).modTile 0 fun z => { z with setRun := some 77, gen := 5 }
     (d.tile 0).setRun = some 77 ∧ (0 : BitVec 12) ≠ d.tileGen 0) ∧
    (vecDev.running = true ∧ (vecDev.tile 0).vecq = ⟨0, 9, 4096, 0xFFFF, 88, 0⟩ :: [] ∧
      (vecDev.tile 0).vecRun = none ∧ vecDev.ctxLaunch 0 = some launched ∧ launched.ph = .running ∧
      (vecRuns (vecCode 8192)).ok = true ∧ launched.inPages 4096 (8 * (vecCode 8192).length) = true ∧
      (vecRuns (vecCode 0)).ok = false ∧ launched.inPages 4096 (8 * 2000) = false) ∧
    (let d := vecDev.modTile 0 fun z => { z with vecRun := some ([], 3) }
     (d.tile 0).vecRun = some ([], 3) ∧ (0 : BitVec 12) = d.tileGen 0) ∧
    (let d := vecDev.modTile 0 fun z => { z with vecRun := some ([], 3), gen := 5 }
     (d.tile 0).vecRun = some ([], 3) ∧ (0 : BitVec 12) ≠ d.tileGen 0) := by
  decide +kernel
theorem test_witness_EnginesRun_memory :
    atEngine (probing true) = true ∧ (descOf (probing true)).ok launched = true ∧
      (let d := probing true
       let y := descOf d
       let c := d.threadCheck launched y.slot y.bOff (64 * y.bCount) 64 false
       let offs := ((d.tile 0).probes y fun b => d.readObj c.2.1 (y.bOff + 64 * b) 64).map fun b => y.bOff + 64 * b
       y.op = 5 ∧ y.tableMem = true ∧ c.2.2 = .ok ∧ d.keyAllows c.2.1.clearing.toNat launched.clearing false = true ∧
        offs = [0, 0, 0] ∧
        ((d.countSectors c.2.1 offs).checkRanges c.2.1 (offs.map fun o => (o, 64))).2.status = .ok) := by
  decide +kernel

def stackIn (therm : BitVec 2) (below : Nat) : Dev := home.modStack 3 fun y => { y with therm := therm, below := below }
/-- The code's generator polynomial: a pattern that is a codeword. -/
def codeword : List SymErr := [(0, 64), (1, 120), (2, 54), (3, 15), (4, 1)]
/-- The outcome of a read of address `pa` under an error pattern. -/
def readsAs (pa : Nat) (es : List SymErr) : RsOut := rsDecode (home.laneErrors pa es)

theorem test_witness_LinesReturn_code :
    (∀ pa ∈ [300, 256, 2 ^ 31 + 256], (readsAs pa []).ecc = .clean ∧ (readsAs pa []).flaw = 0) ∧
      ((readsAs 300 [(3, 5)]).ecc = .corrected ∧ (readsAs 300 [(3, 5)]).flaw = 0) ∧
      ((readsAs 300 [(3, 5), (30, 9)]).ecc = .corrected ∧ (readsAs 300 [(3, 5), (30, 9)]).syms = 2) ∧
      (∀ pa ∈ [300, 256], (readsAs pa [(3, 5), (7, 9), (9, 1)]).ecc = .uncorrectable) ∧
      ((readsAs (2 ^ 31 + 256) codeword).ecc = .clean ∧ (readsAs (2 ^ 31 + 256) codeword).flaw ≠ 0) := by decide +kernel

theorem test_witness_LinesReturn :
    home.running = true ∧ stackSize ≤ (0x1800000000 : BitVec 37).toNat ∧ (0x17FFFFFFFF : BitVec 37).toNat < stackSize ∧
      Tab.wf StackSt.reset home.mem.stk = true ∧ Tab.wf none home.mem.hbm = true ∧
      Tab.wf McxFrame.reset home.mem.frames = true ∧ (300 / 64) ∉ home.mem.ueList ∧
      ((stackIn 2 0).running = true ∧ ((stackIn 2 0).stack 3).therm = 2 ∧ (home.stack 0).therm ≠ 2) ∧
      physOf 0 (300 : BitVec 37).toNat = 300 ∧ physOf 0 (0x8000012C : BitVec 37).toNat = 2 ^ 31 + 300 ∧
      (let rg := regionAt 2 1 0 0 1
       home.findPa 300 = some (2, 0, 300, rg) ∧ rg.metaLineAt 300 = none ∧ 300 < rg.dataBytes ∧ rg.unit = 64 ∧
        home.phys 2 0 256 = some 256 ∧ home.quarantined 2 0 256 = false ∧ home.causeAt 2 0 256 (unitKey 64 256) = 0 ∧
        home.unitFails 2 0 rg 256 256 = false ∧ rg.mode ≠ 2) ∧
      (let rg := regionAt 2 2 0 2 1
       home.findPa (2 ^ 31 + 300) = some (2, 2, 300, rg) ∧ rg.metaLineAt 300 = none ∧ 300 < rg.dataBytes ∧
        rg.unit = 64 ∧ home.phys 2 2 256 = some (2 ^ 31 + 256) ∧ home.quarantined 2 2 256 = false ∧ rg.mode = 2) ∧
      (asked false).mem.reqs.any (fun x => x.id == 4 && !x.served) = true := by decide +kernel

/-- A unit whose tag no longer fits its bytes. -/
def broken : Dev := home.modUnit (unitKey 64 256) fun m => { m with dead := true }

theorem test_witness_TamperContains :
    let rg := regionAt 2 1 0 0 1
    broken.running = true ∧ (300 : BitVec 37).toNat < stackSize ∧ (broken.stack 0).therm ≠ 2 ∧
      broken.findPa (physOf 0 (300 : BitVec 37).toNat) = some (2, 0, 300, rg) ∧ rg.metaLineAt 300 = none ∧
      300 < rg.dataBytes ∧ broken.phys 2 0 256 = some 256 ∧ (rsDecode (broken.laneErrors 256 [])).ecc = .clean ∧
      (rsDecode (broken.laneErrors 256 [])).flaw = 0 ∧ broken.unitFails 2 0 rg 256 256 = true ∧ rg.mode ≠ 2 ∧
      broken.quarantined 2 0 256 = false ∧ broken.causeAt 2 0 256 (unitKey 64 256) = 0 ∧
      broken.lockdownPolicy = false ∧ Tab.wf McxFrame.reset broken.mem.frames = true ∧
      Tab.wf Clearing.reset broken.clrs = true ∧ (broken.clr 2).st = .active := by decide +kernel

theorem test_witness_StackTemperatures :
    home.running = true ∧ Tab.wf StackSt.reset home.mem.stk = true ∧ (home.stack 3).therm = 0 ∧
      (85 : BitVec 8).toNat ≤ 85 ∧ 85 < (86 : BitVec 8).toNat ∧ (94 : BitVec 8).toNat < 95 ∧
      (stackIn 1 99).running = true ∧ Tab.wf StackSt.reset (stackIn 1 99).mem.stk = true ∧
      ((stackIn 1 99).stack 3).therm = 1 ∧ (81 : BitVec 8).toNat < 82 ∧ 99 ≤ ((stackIn 1 99).stack 3).below ∧
      95 ≤ (95 : BitVec 8).toNat ∧ (104 : BitVec 8).toNat < 105 ∧ 105 ≤ (105 : BitVec 8).toNat := by decide +kernel

/-! ### Keys and the mailbox -/

def shadowOf (k : B256) (attr : BitVec 2) : Shadow :=
  { key := k, kcv := 5, attr := attr, owner := 5, mask := 4, source := 2, bundleOk := true }
def renewing : Dev := home.modRegion 4096 fun y => { y with renew := true }
def unpaired : Dev := home.modSlot 0x12 fun _ =>
  { keyed 2 5 4 with shadow := some (shadowOf 7 3), swapPos := some 1000 }
def paired : Dev :=
  (home.modSlot 0x10 fun x => { x with shadow := some (shadowOf 8 0), swapPos := some 1000 }).modSlot 0x11 fun x =>
    { x with shadow := some (shadowOf 9 1), swapPos := some 10 }
def rekeying (waits : Bool) : Dev :=
  let out (k : B256) (attr : BitVec 2) (x : Slot) : Slot := { x with shadow := some (shadowOf k attr), outgoing := true }
  ((home.modSlot 0x10 (out 8 0)).modSlot 0x11 (out 9 1)).modFrame 2 fun y => { y with rekey := true, rekeyWaits := waits }

theorem test_witness_KeysRenew :
    (home.running = true ∧ ((home.planRegion 2 0).any fun g => g.mode == 1) = true ∧
      ((home.planRegion 2 1).any fun g => g.mode == 0) = true ∧ ((home.planRegion 2 2).any fun g => g.mode == 2) = true ∧
      (home.region (2048 * 2 + 1)).renew = false) ∧
    (renewing.running = true ∧ (renewing.region (2048 * (2 : Clr).val + (0 : BitVec 11).toNat)).renew = true ∧
      (renewing.region 4096).renewAt ≠ renewing.tide.count ∧
      (let d := home.modRegion 4096 fun y => { y with renew := true, renewAt := 1000 }
       (d.region 4096).renewAt = d.tide.count)) ∧
    (armedDev.running = true ∧ armedDev.plan.due = true) := by decide +kernel
theorem test_witness_KeysRenew_alone :
    (unpaired.running = true ∧ unpaired.swapDue 0x12 = true ∧ unpaired.plan.due = false ∧ unpaired.pairOf 0x12 = none ∧
      (unpaired.slot 0x12).shadow.isSome = true ∧ unpaired.slotClearings 0x12 = [2] ∧
      Tab.wf Slot.reset unpaired.sec.slots = true ∧ (unpaired.frame 2).contained = false ∧
      (unpaired.clr 2).st ≠ .fenced ∧ (unpaired.clr 2).fencing = false ∧ (unpaired.clr 2).st ≠ .resetting) ∧
    (let d := unpaired.modFrame 2 fun y => { y with contained := true }
     d.swapDue 0x12 = true ∧ d.pairOf 0x12 = none ∧ d.slotClearings 0x12 = [2] ∧ (d.frame 2).contained = true) ∧
    (let d := unpaired.modClr 2 fun c => { c with st := .resetting }
     d.swapDue 0x12 = true ∧ d.pairOf 0x12 = none ∧ (d.clr 2).st = .resetting ∧ (d.clr 2).fencing = false ∧
      (d.frame 2).contained = false) := by decide +kernel
theorem test_witness_KeysRenew_pair :
    (paired.running = true ∧ paired.swapDue 0x10 = true ∧ paired.plan.due = false ∧ paired.pairOf 0x10 = some 2 ∧
      (paired.frame 2).contained = false ∧ (paired.clr 2).st ≠ .fenced ∧ (paired.clr 2).fencing = false ∧
      (paired.clr 2).st ≠ .resetting ∧ (paired.pairSlots 2).all paired.swapDue = true ∧
      (paired.pairSlots 2).Nodup ∧ (paired.frame 2).rekey = false) ∧
    (let d := paired.modFrame 2 fun y => { y with rekey := true }
     d.running = true ∧ d.swapDue 0x10 = true ∧ d.pairOf 0x10 = some 2 ∧ (d.frame 2).contained = false ∧
      (d.clr 2).st ≠ .fenced ∧ (d.clr 2).fencing = false ∧ (d.frame 2).rekey = true) ∧
    (∀ w ∈ [false, true], (rekeying w).running = true ∧ ((rekeying w).frame 2).rekey = true ∧ ((rekeying w).frame 2).rekeyWaits = w ∧
      Tab.wf McxFrame.reset (rekeying w).mem.frames = true ∧ Tab.wf Slot.reset (rekeying w).sec.slots = true ∧
      (rekeying w).lockdownPolicy = false ∧ (rekeying w).sec.trngFail = false ∧
      (rekeying w).pairSlots 2 = [0x10, 0x11] ∧ ((rekeying w).slot 0x10).outgoing = true ∧ ((rekeying w).slot 0x11).outgoing = true) := by
  decide +kernel

/-- A repair whose quarantined range lies in chunks that a buddy holds, or does not. -/
def repairing (current : Bool) : Dev :=
  let d := home.modFrame 2 fun y => { y with repair := true, quarantine := [(0, 0, 63)] }
  { d with stl := { d.stl with buddyIdx0 := if current then 4 else 0xFFFFFFFF } }
def scrubbing (erased over_ : Bool) : Dev :=
  (home.modFrame 2 fun y => { y with scrub := true, erased := erased, overwriting := over_ }).modClr 2 fun c =>
    { c with st := .scrubbing, scrubOwner := 5, scrubGs := [0, 1], scrubTiles := [0, 3] }
def canonical (d : Dev) : Bool :=
  d.running && Tab.wf McxFrame.reset d.mem.frames && Tab.wf Clearing.reset d.clrs

theorem test_witness_ScrubAndRepair :
    (∀ current ∈ [false, true], canonical (repairing current) = true ∧ ((repairing current).frame 2).repair = true ∧
      (repairing current).copiesCurrent 2 = current ∧ ((repairing current).frame 2).rekey = false ∧
      ((repairing current).frame 2).rekeyWaits = false ∧
      (((repairing current).pairSlots 2).all fun j => ((repairing current).slot j).swapPos.isNone) = true ∧
      ((repairing current).clr 2).st = .active) ∧
    (let d := (repairing true).modFrame 2 fun y => { y with rekey := true }
     d.copiesCurrent 2 = true ∧ (d.frame 2).rekey = true) ∧
    (let d := scrubbing false false
     canonical d = true ∧ (d.frame 2).scrub = true ∧ (d.frame 2).erased = false ∧
      (d.mem.reqs.all fun r => r.served || r.clearing != 2) = true) ∧
    (let d : Dev := { scrubbing false false with mem := { (scrubbing false false).mem with reqs := [waitingReq false] } }
     canonical d = true ∧ (d.frame 2).scrub = true ∧ (d.frame 2).erased = false ∧
      (d.mem.reqs.any fun r => !r.served && r.clearing == 2) = true) ∧
    (let d := scrubbing true false
     canonical d = true ∧ (d.frame 2).erased = true ∧ (d.frame 2).overwriting = false ∧
      (d.planClr 2).isSome = true ∧ d.pairLoaded 2 = true) ∧
    (let d := (scrubbing true false).modSlot 0x11 fun _ => Slot.reset
     canonical d = true ∧ (d.frame 2).erased = true ∧ (d.frame 2).overwriting = false ∧
      (d.planClr 2).isSome = true ∧ d.pairLoaded 2 = false) ∧
    (let d := scrubbing true true
     canonical d = true ∧ (d.frame 2).scrub = true ∧ (d.frame 2).overwriting = true ∧
      Tab.wf TileSt.reset d.tiles = true ∧ (0 + 5) / 2 ^ 30 ∈ (d.clr 2).scrubGs ∧ d.enteredOther 2 0 = false ∧
      3 ∈ (d.clr 2).scrubTiles) := by decide +kernel

def inLc (st : Lc) : Dev := { home with lcs := { home.lcs with st := st } }
def image (svn : Byte) : FwImage := { target := true, svn := svn, hash := 99, sig := [1], iv := zeros 12, cipher := [], tag := zeros 16 }
def withFw (f : FwState → FwState) : Dev := { home with sec := { home.sec with fw := f home.sec.fw } }
def serving : Dev := { home with sec := { home.sec with job := some { code := 0x22, res := .ok, body := .empty } } }

theorem test_witness_MailboxServes :
    (serving.running = true ∧ serving.sec.job = some { code := 0x22, res := .ok, body := .empty }) ∧
    (home.running = true ∧ home.sec.job = none ∧ home.lcs.st = .fielded) ∧
    ((inLc .scrapped).running = true ∧ (inLc .scrapped).sec.job = none ∧ (inLc .scrapped).lcs.st = .scrapped) ∧
    ((inLc .returned).running = true ∧ (inLc .returned).lcs.st ≠ .fielded) ∧
    (∃ j, serving.sec.job = some j ∧ j.code ≠ 0x0032) ∧
    (FwImage.wellLaid (image 127) = true ∧ FwImage.wellLaid (image 128) = false) ∧
    ((withFw fun f => { f with staged := some ⟨true, 5, 6⟩ }).sec.fw.staged.isSome = true ∧ home.sec.fw.staged = none) := by
  refine ⟨by decide +kernel, by decide +kernel, by decide +kernel, by decide +kernel,
    ⟨_, rfl, by decide +kernel⟩, by decide +kernel, by decide +kernel⟩
/-- The fused SVN, whatever the part came with, against an image's and the running one's. -/
theorem test_witness_MailboxServes_svn :
    home.fuseSvn.toNat ≤ (image 127).svn.toNat ∧
      (let d := withFw fun f => { f with commits := [(3, true)] }
       d.running = true ∧ d.sec.job = none ∧ d.lcs.st ≠ .scrapped ∧ (image 0).svn.toNat < d.fuseSvn.toNat) ∧
      (let d := withFw fun f => { f with svn := some 0 }
       d.running = true ∧ d.sec.job = none ∧ d.lcs.st ≠ .scrapped ∧ d.fwSvn.toNat ≤ d.fuseSvn.toNat) ∧
      (let d := withFw fun f => { f with svn := some 255 }
       d.running = true ∧ d.sec.job = none ∧ d.lcs.st ≠ .scrapped ∧ d.fuseSvn.toNat < d.fwSvn.toNat ∧
        d.sec.fw.commits.length < 16 ∧ d.lcs.burning = false) := by
  have h : (Config.fuseSvn.setWidth 8).toNat ≤ 127 := by
    have := Config.fuseSvn.isLt
    simp only [BitVec.toNat_setWidth]
    omega
  refine ⟨h, ⟨by decide +kernel, rfl, by decide +kernel, ?_⟩, ⟨by decide +kernel, rfl, by decide +kernel, Nat.zero_le _⟩,
    ⟨by decide +kernel, rfl, by decide +kernel, ?_, by decide +kernel, by decide +kernel⟩⟩
  · show 0 < (if (Config.fuseSvn.setWidth 8).toNat < 3 then (3 : Byte) else Config.fuseSvn.setWidth 8).toNat
    split
    · decide
    · omega
  · show (Config.fuseSvn.setWidth 8).toNat < 255
    omega

/-- A 16-byte key, and an entry that carries it with its check value. -/
def key16 (n : Nat) : B256 := BitVec.ofNat 256 (n * 2 ^ 128)
def entry (slot : SlotId) (attr : BitVec 2) (owner : BitVec 6) (mask : BitVec 16) (n : Nat) : KeyEntry :=
  { slot := slot, attr := attr, owner := owner, bundleOk := false, mask := mask, kcv := kcvOf (key16 n) 16, keyLen := 16,
    key := key16 n }
def slotOf (e : KeyEntry) : Slot :=
  { Slot.reset with key := e.key, kcv := e.kcv, attr := e.attr, owner := e.owner, mask := e.mask }
/-- A bundle of the member's set with the given entries. -/
def bundleOf (es : List KeyEntry) : List Byte :=
  sealBundle (home.slot 0).key (bundleHeader es.length member.setId member.epoch 1 (zeros 12))
    (es.flatMap fun e => entryBytes e.slot.val (slotOf e))
def pairEntries : List KeyEntry := [entry 0x10 0 5 4 100, entry 0x11 1 5 4 101]
/-- The first key's check value is another's. -/
def misfits : List KeyEntry := [{ entry 0x10 0 5 4 100 with kcv := kcvOf (key16 100) 16 + 1 }, entry 0x11 1 5 4 101]
/-- A bundle of set 77 and epoch `e` with one entry of zeros, whose tag is `t`. -/
def rawHead (set : Word) (e : BitVec 16) : List Byte := bundleHeader 1 set e 1 (zeros 12)
def rawBundle (set : Word) (e : BitVec 16) (t : List Byte) : List Byte := rawHead set e ++ (zeros 64 ++ t)
def emptyPair : Dev := (home.modSlot 0x10 fun _ => { Slot.reset with gen := 4 }).modSlot 0x11 fun _ => Slot.reset
def keysFree (d : Dev) : Bool := d.running && d.sec.job.isNone && d.lcs.st != .scrapped

/-- The device's slots may differ from home's beside slot 0x00. -/
theorem opens_pair (d : Dev) (hm : d.sec.member = some member) (h0 : (d.slot 0).key = (home.slot 0).key) (a b : KeyEntry)
    (ha : a.attr ≠ 3) (hb : b.attr ≠ 3)
    (ra : a = { a with bundleOk := false, keyLen := 16, key := strOf (strBytes a.key 16 ++ zeros 16) })
    (rb : b = { b with bundleOk := false, keyLen := 16, key := strOf (strBytes b.key 16 ++ zeros 16) }) :
    d.openBundle (bundleOf [a, b]) =
      { wellLaid := true, setId := 77, setEpoch := 1, bundleId := 1, tagOk := true, entries := some [a, b] } := by
  have la := entryBytes_length a.slot.val (slotOf a)
  have lb := entryBytes_length b.slot.val (slotOf b)
  have e := openBundle_sealBundle d member hm 2 1 (zeros 12)
    (entryBytes a.slot.val (slotOf a) ++ entryBytes b.slot.val (slotOf b)) (by decide) (by decide) rfl (by simp [la, lb])
  have x : readEntry ((entryBytes a.slot.val (slotOf a) ++ entryBytes b.slot.val (slotOf b)).take 64) = some a :=
    (readEntry_entryBytes a.slot (slotOf a) ha _).trans (congrArg some ra.symm)
  have y : readEntry ((entryBytes b.slot.val (slotOf b)).take 64) = some b := by
    have y := readEntry_entryBytes b.slot (slotOf b) hb []
    rw [List.append_nil] at y
    exact y.trans (congrArg some rb.symm)
  have z : ((entryBytes a.slot.val (slotOf a) ++ entryBytes b.slot.val (slotOf b)).drop 64) =
      entryBytes b.slot.val (slotOf b) := by rw [← la, List.drop_left']; rfl
  have r : (List.range 2).mapM (fun i => readEntry (((entryBytes a.slot.val (slotOf a) ++
      entryBytes b.slot.val (slotOf b)).drop (64 * i)).take 64)) = some [a, b] := by
    rw [show List.range 2 = [0, 1] from rfl]
    simp only [List.mapM_cons, List.mapM_nil, Nat.mul_zero, Nat.mul_one, List.drop_zero, x, y, z]
    rfl
  rw [h0, r] at e
  simp only [bundleOf, List.flatMap_cons, List.flatMap_nil, List.append_nil, List.length_cons, List.length_nil]
  exact e
theorem test_witness_KeyRequests_bundle :
    (∀ d ∈ [home, emptyPair], keysFree d = true ∧ d.sec.member = some member ∧
      ∀ e ∈ pairEntries, (d.placeFor 0 1 e).isSome = true ∧ (d.slot e.slot.val).shadow = none) := by decide +kernel
theorem test_witness_KeyRequests_opens :
    ∀ d ∈ [home, emptyPair], ∀ es ∈ [pairEntries, misfits], (d.openBundle (bundleOf es)).wellLaid = true ∧
      (d.openBundle (bundleOf es)).setId = member.setId ∧ (d.openBundle (bundleOf es)).setEpoch = member.epoch ∧
      (d.openBundle (bundleOf es)).tagOk = true ∧ (d.openBundle (bundleOf es)).entries = some es := by
  have h (n : Nat) (g : n = 100 ∨ n = 101) : strOf (strBytes (key16 n) 16 ++ zeros 16) = key16 n := by
    rcases g with rfl | rfl <;> decide +kernel
  have q (n : Nat) (g : n = 100 ∨ n = 101) (s : SlotId) (at_ : BitVec 2) (o : BitVec 6) (k : BitVec 16) (c : BitVec 24) :
      { entry s at_ o k n with kcv := c } = { entry s at_ o k n with
        kcv := c, bundleOk := false, keyLen := 16, key := strOf (strBytes (key16 n) 16 ++ zeros 16) } := by
    rw [h n g]
    rfl
  intro d hd es he
  have m : d.sec.member = some member ∧ (d.slot 0).key = (home.slot 0).key := by
    simp only [List.mem_cons, List.not_mem_nil, or_false] at hd
    rcases hd with rfl | rfl
    · exact ⟨rfl, rfl⟩
    · exact ⟨rfl, by decide +kernel⟩
  simp only [List.mem_cons, List.not_mem_nil, or_false] at he
  rcases he with rfl | rfl
  · have o := opens_pair d m.1 m.2 (entry 0x10 0 5 4 100) (entry 0x11 1 5 4 101) (by decide) (by decide)
      (q 100 (.inl rfl) _ _ _ _ _) (q 101 (.inr rfl) _ _ _ _ _)
    rw [pairEntries, o]
    exact ⟨rfl, rfl, rfl, rfl, rfl⟩
  · have o := opens_pair d m.1 m.2 { entry 0x10 0 5 4 100 with kcv := kcvOf (key16 100) 16 + 1 } (entry 0x11 1 5 4 101)
      (by decide) (by decide) (q 100 (.inl rfl) _ _ _ _ _) (q 101 (.inr rfl) _ _ _ _ _)
    rw [misfits, o]
    exact ⟨rfl, rfl, rfl, rfl, rfl⟩
theorem test_witness_KeyRequests_laid : entriesLaid pairEntries = true ∧ entriesLaid misfits = true := by decide +kernel
theorem test_witness_KeyRequests_kcv : ∀ e ∈ pairEntries, kcvOf e.key e.keyLen = e.kcv := by
  simp [pairEntries, entry]
theorem test_witness_KeyRequests_mismatch :
    (∃ e ∈ misfits, kcvOf e.key e.keyLen ≠ e.kcv) ∧ ∀ e ∈ misfits, (home.placeFor 0 1 e).isSome = true := by
  refine ⟨⟨_, List.mem_cons_self, ?_⟩, by decide +kernel⟩
  show kcvOf (key16 100) 16 ≠ kcvOf (key16 100) 16 + 1
  intro h
  simp at h
theorem test_witness_KeyRequests_refused :
    (home.openBundle []).wellLaid = false ∧
      (let b := home.openBundle (rawBundle 5 1 (zeros 16))
       b.wellLaid = true ∧ b.setId ≠ member.setId) ∧
      (let m : SetMember := { member with epoch := 3 }
       let d : Dev := { home with sec := { home.sec with member := some m } }
       let b := d.openBundle (rawBundle 77 1 (zeros 16))
       keysFree d = true ∧ b.wellLaid = true ∧ b.setId = m.setId ∧ b.setEpoch.toNat + 1 < m.epoch.toNat) := by
  decide +kernel
theorem test_witness_KeyRequests_tag :
    ∃ t, t.length = 16 ∧ (home.openBundle (rawBundle 77 1 t)).wellLaid = true ∧
      (home.openBundle (rawBundle 77 1 t)).setId = member.setId ∧
      (home.openBundle (rawBundle 77 1 t)).setEpoch = member.epoch ∧
      (home.openBundle (rawBundle 77 1 t)).tagOk = false := by
  have k (t : List Byte) (h : (home.openBundle (rawBundle 77 1 t)).tagOk = true) (n : t.length = 16) :
      t = gcmTag (bundleKey (home.slot 0).key (rawHead 77 1)) (zeros 12) (rawHead 77 1) (zeros 64) := by
    have e : (home.openBundle (rawBundle 77 1 t)).tagOk =
        gcmOpens (bundleKey (home.slot 0).key (rawHead 77 1)) (zeros 12) (rawHead 77 1) (zeros 64) t := rfl
    rw [e] at h
    simp only [gcmOpens, beq_iff_eq] at h
    rw [n, List.take_of_length_le (by rw [gcmTag_length])] at h
    exact h
  by_cases a : (home.openBundle (rawBundle 77 1 (zeros 16))).tagOk = true
  · refine ⟨1 :: zeros 15, rfl, by decide +kernel, by decide +kernel, by decide +kernel, ?_⟩
    by_contra b
    simp only [Bool.not_eq_false] at b
    exact absurd ((k _ a rfl).trans (k _ b rfl).symm) (by decide)
  · exact ⟨zeros 16, rfl, by decide +kernel, by decide +kernel, by decide +kernel, by simpa using a⟩

def rosterHome : Dev :=
  { home with sec := { home.sec with
      nonces := [(9, 0)], member := some { member with policy := { policy with roster := [(0, Config.rootHash 1)] } } } }
def commonsEntries : List KeyEntry := [entry 0x20 0 0 8 100, entry 0x21 1 0 0xC 101]
def releaseOf (es : List KeyEntry) : Release :=
  { wellLaid := true, addr := 3, identity := rosterHome.identity, nonce := 9, owner := 0, sigKey := 1, sigOk := true,
    entries := es }

theorem test_witness_KeyRequests_release :
    keysFree rosterHome = true ∧ rosterHome.nonceFresh (releaseOf commonsEntries).nonce = true ∧
      (releaseOf commonsEntries).addr = rosterHome.addr ∧ (releaseOf commonsEntries).wellLaid = true ∧
      (releaseOf commonsEntries).sigOk = true ∧
      ∀ e ∈ commonsEntries, e.owner = 0 ∧ (rosterHome.placeFor 1 0 e).isSome = true ∧
        (rosterHome.slot e.slot.val).shadow = none := by decide +kernel
theorem test_witness_KeyRequests_release_key :
    rosterHome.releaseKeyOk (releaseOf commonsEntries).owner (releaseOf commonsEntries).sigKey = true ∧
      entriesLaid commonsEntries = true ∧ ∀ e ∈ commonsEntries, kcvOf e.key e.keyLen = e.kcv := by
  refine ⟨?_, by decide +kernel, by simp [commonsEntries, entry]⟩
  show ([((0 : BitVec 6), Config.rootHash 1)].any fun r => r.1 == 0 && r.2 == Config.rootHash 1) = true
  simp

def refsOf (ns : List SlotId) (g : BitVec 12) : List SlotRef := ns.map fun n => { slot := n, gen := g }

theorem test_witness_KeyRequests_slots :
    (refsOf [0x10, 15] 1 ≠ [] ∧ (refsOf [0x10, 15] 1).any (fun x => decide (x.slot.val < 16)) = true) ∧
    ((refsOf [0x10] 2).all (fun x => decide (16 ≤ x.slot.val)) = true ∧
      (refsOf [0x10] 2).any (fun x => (home.slot x.slot.val).gen != x.gen) = true) ∧
    (let rs := refsOf [0x10, 0x11] 1
     keysFree home = true ∧ rs ≠ [] ∧
      (rs.all fun x => decide (16 ≤ x.slot.val) && (paired.slot x.slot.val).gen == x.gen) = true ∧
      Tab.wf Slot.reset paired.sec.slots = true ∧ paired.halfPair (rs.map (·.slot.val)) = false ∧
      (rs.all fun x => (paired.slot x.slot.val).swapPos.isSome) = true ∧
      (let d := (paired.modSlot 0x10 fun x => { x with swapPos := none }).modSlot 0x11 fun x => { x with swapPos := none }
       keysFree d = true ∧ (rs.all fun x => (d.slot x.slot.val).swapPos.isNone && !(d.slot x.slot.val).outgoing &&
         (d.slot x.slot.val).shadow.isSome) = true ∧ d.tide.pos.toNat < (1001 : BitVec 64).toNat ∧
        (1000 : BitVec 64).toNat ≤ d.tide.pos.toNat ∧ d.halfPair (rs.map (·.slot.val)) = false) ∧
      home.sec.member = some member ∧ rs.length ≤ 32 ∧ (rs.map (·.slot.val)).Nodup ∧
      (rs.all fun x => (home.slot x.slot.val).loaded && (home.slot x.slot.val).source == 1) = true) := by decide +kernel

def alone : Dev :=
  { home with
    plan := PlanRegs.reset, sec := { home.sec with member := none, slots := [(0x10, keyed 0 5 4)] } }
def order2 : RotationOrder := { setId := 77, epoch := 2, origin := 3, sigOk := true }
def blobOf (o : Option RotationOrder) (e : BitVec 16) : AdmissionBlob :=
  { opens := true, sigOk := true, setKey := 66, epoch := e, policy := policy, root := 9, addr := 4, order := o }
def candidate : Candidate :=
  { chainOk := true, sigOk := true, nonceOk := true, lcs := 2, debugOpened := false, lockdown := false, fwCtrl := 1,
    fwNgs := 2, fwSvn := 3, setId := 0, setEpoch := 0 }
def admitter : SetMember := { member with policy := { policy with pairs := [(1, 2)] } }

theorem test_witness_SetRequests :
    (keysFree alone = true ∧ alone.lcs.st = .fielded ∧ alone.sec.member = none ∧ alone.plan.active = none ∧
      policy.verifies = true ∧ policy.setId ≠ 0 ∧ alone.sec.trngFail = false) ∧
    ((blobOf none 1).order = none ∧ (blobOf none 1).epoch = 1 ∧ (blobOf (some order2) 2).order = some order2 ∧
      order2.sigOk = true ∧ order2.setId = policy.setId ∧ order2.epoch = (blobOf (some order2) 2).epoch) ∧
    (keysFree home = true ∧ home.lcs.st = .fielded ∧ home.sec.member = some member ∧ order2.setId = member.setId ∧
      order2.origin = member.addr ∧ order2.epoch = member.epoch + 1 ∧ home.sec.trngFail = false ∧
      Tab.wf Slot.reset home.sec.slots = true) ∧
    (home.admissionFails admitter candidate = [] ∧ home.admissionFails admitter { candidate with lcs := 1 } = [3]) := by
  decide +kernel

def spdmIn (v c a : Bool) (x : Option Bool) : Dev :=
  { home with spdm := { Spdm.reset with version := v, caps := c, algs := a, session := x, keyGen := 4, secret := 7 } }

theorem test_witness_SpdmAnswers :
    (serving.running = true ∧ serving.sec.job.isSome = true) ∧
    ((inLc .scrapped).running = true ∧ (inLc .scrapped).lcs.st = .scrapped) ∧
    ((inLc .scrapped).sec.job = none ∧ home.sec.job = none) ∧
    (home.running = true ∧ home.lcs.st ≠ .scrapped ∧ home.spdm.version = false ∧ home.spdm.algs = false ∧
      home.spdm.session ≠ some false) ∧
    (∀ x ∈ [none, some false, some true], (spdmIn true true true x).running = true ∧
      (spdmIn true true true x).spdm.version = true ∧ (spdmIn true true true x).spdm.caps = true ∧
      (spdmIn true true true x).spdm.algs = true ∧ (spdmIn true true true x).spdm.session = x) ∧
    0x10 ≤ (0x1F : Byte).toNat ∧ (0x1F : Byte).toNat ≤ 0x1F := by decide +kernel
/-- One verify data ends the handshake and another does not; a block that exists, and one that does not. -/
theorem test_witness_SpdmAnswers_finish :
    let d := spdmIn true true true (some false)
    let fin (mac : List Byte) := d.spdm.logK ++ SpdmReq.bytes (.finish mac)
    (∃ mac, mac = spdmVerify d.spdm.secret "requester" (fin mac)) ∧
      (∃ mac, mac ≠ spdmVerify d.spdm.secret "requester" (fin mac)) ∧
      (home.spdmMeasure 0x1F 5).isSome = true ∧ home.spdmMeasure 0x40 5 = none := by
  refine ⟨⟨spdmVerify _ "requester" ((spdmIn true true true (some false)).spdm.logK ++ SpdmReq.bytes (.finish [])), rfl⟩,
    ⟨[], ?_⟩, rfl, rfl⟩
  intro h
  have := congrArg List.length h
  simp [spdmVerify] at this

/-! ### Links -/

def onL (l : Nat) (f : Link → Link) : Dev := rich.onLink l f
def keyxMsg : TxFlit := ctrlTx (.keyx [1, 2, 3])
def sentOf (n : BitVec 48) : SentFlit :=
  { seq := n, ack := 0, gen := 0, keyEpoch := 0, flit := keyxMsg, wire := zeros 256 }
def helloOf (set : Word) (bench : Bool) (proof : List Byte) : Hello :=
  { addr := 44, link := 9, identity := 55, setId := set, setEpoch := 1, bench := bench, planActive := true,
    shaded := false, planTopo := 0, proof := proof }
/-- A member whose link 5 awaits HELLO, with the set's key of slot 0x02; and the proof of a fellow member. -/
def greeting : Dev := (onL 5 fun k => { k with st := .hello, transcript := 9 }).modSlot 2 fun _ => keyed 0 0 0
def fellow : List Byte :=
  setProof (greeting.slot 2).key (helloFields 44 9 55 77 1 false true false 0) (greeting.link 5).transcript
theorem setProof_length (key : B256) (fs : List Byte) (t : B256) : (setProof key fs t).length = 16 := by
  simp [setProof]
theorem test_witness_LinkLife_proof :
    greeting.proofOk 5 (helloOf 77 false fellow) = true ∧ greeting.proofOk 5 (helloOf 77 false []) = false := by
  constructor
  · have h : (greeting.slot 2).loaded = true := by decide +kernel
    unfold Dev.proofOk
    simp only [h, Bool.true_and, Bool.or_eq_true, beq_iff_eq]
    exact .inl rfl
  · have n (key : B256) (fs : List Byte) (t : B256) : (([] : List Byte) == setProof key fs t) = false := by
      rw [beq_eq_false_iff_ne]
      intro h
      have := congrArg List.length h
      rw [setProof_length] at this
      exact absurd this (by decide)
    unfold Dev.proofOk
    simp only [show (helloOf 77 false []).proof = [] from rfl, n, Bool.and_false, Bool.or_false]
def loner (bench : Bool) : Dev :=
  { home with
    sec := { home.sec with member := none },
    plan := { home.plan with active := some { stand with header :=
      { stand.header with flags := if bench then 1 else 0 } } } }

theorem test_witness_LinkLife :
    (rich.running = true ∧ (rich.link 5).st = .down ∧ (rich.link 5).retrainDue = false) ∧
    (let d := onL 5 fun k => { k with retrainDue := true }
     d.running = true ∧ (d.link 5).st = .down ∧ (d.link 5).retrainDue = true) ∧
    (((onL 5 fun k => { k with st := .optical }).link 5).st = .optical ∧
      (bitsOf (256 : BitVec 9).toNat 9).length < 2 ∧ 2 ≤ (bitsOf (3 : BitVec 9).toNat 9).length) ∧
    ((onL 5 fun k => { k with st := .keyx }).link 5).st = .keyx ∧
    (greeting.running = true ∧ (greeting.link 5).st = .hello ∧ greeting.sec.member = some member ∧
      member.setId = (helloOf 77 false fellow).setId ∧ (helloOf 77 false fellow).setId ≠ 0 ∧
      member.setId ≠ (helloOf 5 false []).setId) ∧
    ((loner true).running = true ∧ (loner true).sec.member = none ∧ (loner true).benchActive = true ∧
      (helloOf 0 true []).bench = true ∧ (loner false).sec.member = none ∧ (loner false).benchActive = false) ∧
    ((rich.link 0).st = .up ∧ (rich.link 0).keyEpoch = (rich.link 0).txSeq.toNat / 2 ^ 32 ∧
      (rich.link 0).txSeq ≠ BitVec.allOnes 48 ∧ (rich.link 0).txSeq.getLsbD 31 = false) ∧
    (let d := onL 0 fun k => { k with txSeq := 0x100000000 }
     (d.link 0).st = .up ∧ (d.link 0).keyEpoch < (d.link 0).txSeq.toNat / 2 ^ 32) ∧
    (let d := onL 0 fun k => { k with txSeq := 0x80000000 }
     (d.link 0).st = .up ∧ (d.link 0).keyEpoch = (d.link 0).txSeq.toNat / 2 ^ 32 ∧ (d.link 0).rekeying = false ∧
      (d.link 0).txSeq.getLsbD 31 = true) ∧
    (let d := onL 0 fun k => { k with rekeying := true }
     d.running = true ∧ (d.link 0).st = .up ∧ (d.link 0).rekeying = true) := by decide +kernel

/-- Link 0 may send in this slot. -/
def sends (d : Dev) : Bool :=
  let k := d.link 0
  d.running && k.st == .up && decide (k.txSeq.toNat / 2 ^ 32 ≤ k.keyEpoch) && k.txSeq != BitVec.allOnes 48 &&
    !d.ioCritical 0 && decide (k.replay.length < 1024)
def mark1 : TideRec :=
  .mark { count := 9, shift := 0, pending := 0, holdover := false, failover := false, epoch := 0, source := 0, hop := 0 }
def apart (f : Link → Link) : Dev := onL 0 fun k => f { k with adm := .foreign }

/-- A DATA flit of clearing 2 for one of the same. -/
def dataMsg : TxFlit :=
  { vc := 1, clearing := 2, owner := 5, dst := some 2, stream := 3, queue := 8, cmdSeq := 1, body := .data 1 0 [7] }

theorem test_witness_FlitSlots :
    (let d := onL 0 fun k => { k with tideQ := List.replicate 8 mark1 }
     sends d = true ∧ (d.link 0).resend = [] ∧ d.linkCarries 0 = true ∧ (d.link 0).slot = 0 ∧ (d.frameOf 0).isSome = true ∧
      (d.link 0).tideQ ≠ [] ∧ (d.link 0).hasCredit 4 = true) ∧
    (let d := onL 0 fun k => { k with txq := [keyxMsg, dataMsg] }
     sends d = true ∧ (d.link 0).resend = [] ∧ d.linkCarries 0 = true ∧ (d.link 0).slot = 0 ∧ (d.link 0).tideQ = [] ∧
      (d.link 0).displaced = [] ∧ d.linkMatch 0 = true ∧ d.quiet 2 = false ∧
      (match d.frameOf 0 with
       | some x => shareOf x.1 0 == .data && dataOwner x.1 x.2 0 == some 2
       | none => false) = true ∧
      (d.link 0).txq.find? (fun f => f.clearing == 2 && f.vc < 4 && f.vc != 2 && (d.link 0).hasCredit f.vc) =
        some dataMsg) ∧
    (let d := apart fun k => { k with txq := [keyxMsg] }
     sends d = true ∧ (d.link 0).resend = [] ∧ d.linkCarries 0 = false ∧
      (d.link 0).txq.find? (fun f => f.vc == 5 && (d.link 0).hasCredit f.vc) = some keyxMsg) ∧
    (sends (apart id) = true ∧ ((apart id).link 0).resend = [] ∧ (apart id).linkCarries 0 = false ∧
      ((apart id).link 0).txq.find? (fun f => f.vc == 5 && ((apart id).link 0).hasCredit f.vc) = none ∧
      ((apart id).link 0).owed = [] ∧ ((apart id).link 0).released = [] ∧ stand.device.shaded ≠ 1) ∧
    (let p : StandPlan := { stand with device := { stand.device with shaded := 1 } }
     let d : Dev := { apart id with plan := { home.plan with active := some p } }
     sends d = true ∧ d.linkCarries 0 = false ∧ (d.plan.active.all fun p => p.device.shaded == 1) = true) ∧
    (let d := apart fun k => { k with resend := [sentOf 4, sentOf 5] }
     sends d = true ∧ (d.link 0).resend = sentOf 4 :: [sentOf 5] ∧ d.linkCarries 0 = false) := by decide +kernel

def hin : FlitHdr := { hdr with src := 2, stream := 66 }
theorem calm_rich : Calm rich := ⟨rfl, rfl⟩

/-- The header of a flit that carries `b`, with its tag. -/
def sealed (b : TxBody) : FlitHdr := { hin with tag := rich.flitTag 0 hin b }
theorem inOrder_sealed (b : TxBody) : InOrder rich 0 (sealed b) b :=
  ⟨by decide +kernel, flitOpens_tag _ _ _ _, rfl, rfl⟩

theorem test_witness_FlitsArrive :
    (rich.running = true ∧ Calm rich) ∧
      (let h := sealed (.data 1 65535 [7])
       InOrder rich 0 h (.data 1 65535 [7]) ∧ rich.dataAllowed h 1 65535 1 = true ∧ h.dst.toNat = 2 ∧
        rich.keyAllows 2 2 true = true ∧ rich.objWaits (rich.obj 1) 65535 1 = false ∧ rich.flt.cliff = false) ∧
      (let h := sealed (.coll 5 3 1021 10 [1, 2, 3])
       InOrder rich 0 h (.coll 5 3 1021 10 [1, 2, 3]) ∧ rich.collAllowed 0 h 5 3 1021 3 = true) ∧
      (let h := sealed (.coll 2 0 0 10 [1, 2, 3])
       InOrder rich 0 h (.coll 2 0 0 10 [1, 2, 3]) ∧ rich.collAllowed 0 h 2 0 0 3 = false) ∧
      (∀ part ∈ [(0 : BitVec 3), 3], InOrder rich 0 (sealed (.strand 3 part false 100 [1, 2, 3]))
        (.strand 3 part false 100 [1, 2, 3])) := by
  refine ⟨⟨by decide +kernel, calm_rich⟩, ⟨inOrder_sealed _, rfl, rfl, ?_⟩, ⟨inOrder_sealed _, rfl⟩, ⟨inOrder_sealed _, rfl⟩,
    fun _ _ => inOrder_sealed _⟩
  decide +kernel
theorem test_witness_FlitsArrive_strand :
    (rich.strand.bind fun p => peerOf p (rich.link 0).farAddr).isSome = true ∧ rich.failed = false ∧
      (rich.frame 16).contained = false ∧ rich.strandAllowed 7 3 false 100 3 = true ∧
      rich.strandAllowed 7 0 false 100 3 = true ∧ Tab.wf PeerCopy.reset rich.stl.peers = true ∧
      Tab.wf 0 (Tab.get PeerCopy.reset rich.stl.peers 0).bytes = true := by decide +kernel
/-- A COVER flit verifies; a COLL flit of an old generation does; and for every flit some tag fails. -/
theorem test_witness_FlitsArrive_tags :
    ((rich.link 0).st = .up ∧ hin.seq = (rich.link 0).rxSeq ∧ rich.flitOpens 0 (sealed .cover) .cover = true ∧
      (let r : Fin 10 × List Byte := (9, [1])
       rich.wireOpens 0 { hin with tag := rich.wireTag 0 hin (reservedWire r) } (reservedWire r) = true)) ∧
      (let o : FlitHdr := { hin with dstGen := 4 }
       let b : TxBody := .coll 1 3 1021 10 [1, 2, 3]
       rich.linkCarries 0 = true ∧ (rich.staleGen 0 o).isSome = true ∧
        rich.flitOpens 0 { o with tag := rich.flitTag 0 o b } b = true) ∧
      (let d := onL 0 fun k => { k with tagRun := 14 }
       d.running = true ∧ (d.link 0).st = .up ∧ (d.link 0).tagRun < 15 ∧ (d.link 0).awaiting = false ∧
        (∀ b : TxBody, ∃ tag, d.flitOpens 0 { hin with tag := tag } b = false) ∧
          ∀ r, ∃ tag, d.wireOpens 0 { hin with tag := tag } (reservedWire r) = false) :=
  ⟨⟨by decide +kernel, by decide +kernel, flitOpens_tag _ _ _ _, wireOpens_tag _ _ _ _⟩,
    ⟨by decide +kernel, by decide +kernel, flitOpens_tag _ _ _ _⟩,
    ⟨by decide +kernel, by decide +kernel, by decide +kernel, by decide +kernel, fun _ => flitOpens_fails _ _ _ _,
      fun _ => wireOpens_fails _ _ _ _⟩⟩

def xferOf (carry : Carry) (sum : Option (List AW)) : Xfer :=
  { queue := 8, seq := 3, clearing := 2, stream := 66, confl := false, carry := carry, count := 5,
    ins := [{ slot := 1, addr := 7, clr := 2 }, { slot := 5, addr := 9, clr := 2 }], chunk := 0, sum := sum, waiting := [],
    partial_ := [] }
/-- A command of the schedule's activity `act`. -/
def actCmd (opcode act : Nat) (ph : CmdPh) (b : Nat) : Cmd :=
  { cmdOf opcode 3 ph b with raw := BitVec.ofNat 512 (opcode + 2 ^ 16 * 9 + 2 ^ 32 * act + 2 ^ 128 * b) }
def collCmd (act kinds : Nat) (ph : CmdPh) : Cmd :=
  actCmd 4 act ph (body [(19, kinds), (31, 0), (43, 1), (44, 2), (45, 3), (48, 5)])
def conflCmd : Cmd := actCmd 5 5 .started (body [(16, 1), (30, 3), (32, 9)])
def combining (x : Xfer) (cs : Tab CollSlot) : Dev :=
  let d := withCmds rich 8 [collCmd 3 4 .running]
  { d with lnk := { d.lnk with xfers := [x], colls := cs } }
def gathered (n : Nat) : Tab CollSlot :=
  [(1, { chunk := 0, got := n, elems := [(0, 5)] }), (5, { chunk := 0, got := n, elems := [(0, 6)] })]

theorem test_witness_LinkControl :
    ((rich.link 5).st ≠ .up ∧ (rich.link 0).st = .up ∧ rich.running = true ∧ (rich.link 0).ackDue = false) ∧ Calm rich ∧
    ((onL 0 fun k => { k with ackDue := true }).link 0).ackDue = true ∧ Tab.wf 0 rich.lnk.nbrGens = true ∧
    (let d := combining (xferOf .exact none) []
     d.running = true ∧ (d.link 0).st = .up ∧ d.streamXfer 66 = some (xferOf .exact none) ∧
      d.cmd 8 3 = some (collCmd 3 4 .running) ∧ d.stalled 8 3 4 = false) ∧
    (let x := { xferOf .exact none with
       waiting := [{ out := { group := 9, slot := 2, clr := 2, handle := 0, off := 0 }, idx := 0, words := [1] }] }
     let d := combining x []
     d.running = true ∧ d.cmd 8 3 = some (collCmd 3 4 .running) ∧ d.stalled 8 3 4 = true) := by
  refine ⟨by decide +kernel, calm_rich, ?_⟩
  decide +kernel

theorem test_witness_StagesRun :
    (let c := collCmd 3 4 .started
     let d := withCmds rich 8 [c]
     let g := d.stageOfCmd c
     d.running = true ∧ d.cmd 8 3 = some c ∧ d.queueClr 8 = some 2 ∧ d.lnk.xfers = [] ∧ c.opcode = 4 ∧
      0 < c.collArgs.count ∧ c.collArgs.sends g = false ∧ g.ins ≠ [] ∧ g.partialOf = none) ∧
    (let c := collCmd 4 1 .started
     let d := withCmds rich 8 [c]
     let e : Dev := { d with lnk := { d.lnk with farBusy := [(0, 2)] } }
     let g := e.stageOfCmd c
     e.cmd 8 3 = some c ∧ e.lnk.xfers = [] ∧ 0 < c.collArgs.count ∧ c.collArgs.sends g = true ∧ g.ins = [] ∧
      c.collArgs.srcKind = 1 ∧ c.collArgs.carry = .exact ∧
      (g.outs.all fun o => o.group != 0xFF && e.lnk.farBusy.contains (o.group, o.slot)) = true ∧
      e.slotHeld c.collArgs.srcTile c.collArgs.srcSlot = false) ∧
    (let d := withCmds rich 8 [conflCmd]
     d.cmd 8 3 = some conflCmd ∧ conflCmd.opcode = 5 ∧ conflCmd.collArgs.confl = some true ∧
      0 < conflCmd.collArgs.count ∧ (d.stageOfCmd conflCmd).partialOf = none ∧
      ((d.stageOfCmd conflCmd).ins.filter d.inService).length = 2 ∧ stand.quorum.toNat = 2 ∧
      2 < ({ stand with quorum := 3 } : StandPlan).quorum.toNat) ∧
    ((combining (xferOf .exact none) (gathered 4)).setReady (xferOf .exact none) = false ∧
      (combining (xferOf .exact none) (gathered 5)).setReady (xferOf .exact none) = true ∧
      (xferOf .exact none).waiting = [] ∧
      Tab.wf CollSlot.reset (combining (xferOf .exact none) (gathered 5)).lnk.colls = true) ∧
    (let x := xferOf .exact (some [5, 6])
     let d := combining x []
     d.running = true ∧ d.lnk.xfers = [x] ∧ d.cmd 8 3 = some (collCmd 3 4 .running) ∧ x.sum = some [5, 6] ∧
      (collCmd 3 4 .running).collArgs.dstKind = 1 ∧ d.slotHeld 1 3 = false ∧ Tab.wf TileSt.reset d.tiles = true ∧
      Tab.wf 0 (d.tile 1).acc = true ∧
      (let p := { progOf [] with flights := [{ idx := 0, isAdd := false, slot := 3, start := [], work := [], replays := 0 }] }
       (d.modTile (d.leader 1) fun z => { z with prog := some p }).slotHeld 1 3 = true)) := by decide +kernel

def inQueue (f : Queue → Queue) : Dev := rich.modQueue 8 fun u => f { u with st := .running, clearing := 2 }
def recOf (q : Que) (seq : Word) (ord : Nat) : Completion :=
  Dev.completion q.val (cmdOf 8 seq .running 0) .ok .none 0 0 ord
def posting (f : Queue → Queue) (fs : Tab (List Completion)) (last : Nat) : Dev :=
  let d := inQueue f
  { d with host := { d.host with fifos := fs, lastSrc := last } }
/-- No source before `src` in the rotation has a record that may go. -/
def nextSource (d : Dev) (src : Nat) : Bool :=
  d.host.fifos.all fun f => f.2.head?.all fun x =>
    (d.host.fifos.any fun g => g.2.any fun y => y.queue == x.queue && decide (y.ord < x.ord)) ||
      (if d.host.lastSrc < src then decide (f.1 ≤ d.host.lastSrc ∨ src ≤ f.1)
        else decide (f.1 ≤ d.host.lastSrc ∧ src ≤ f.1))

theorem test_witness_QueueLife :
    (let d := inQueue fun u => { u with head := 63, tail := 3, outstanding := 63 }
     d.running = true ∧ Tab.wf Queue.reset d.host.queues = true ∧ Tab.wf TileSt.reset d.tiles = true ∧
      2 ^ (d.queue 8).log2.toNat = 64 ∧ ((63 : Word).setWidth 16 : BitVec 16).toNat < 64 ∧
      64 ≤ ((64 : Word).setWidth 16 : BitVec 16).toNat ∧ d.dbg.cpHalted = false ∧ (d.queue 8).st = .running ∧
      (d.queue 8).head ≠ (d.queue 8).tail ∧ (d.queue 8).outstanding < 64) ∧
    (let d := inQueue fun u => { u with st := .stopped, tail := 3, outstanding := 64 }
     d.running = true ∧ (d.queue 8).st = .stopped ∧ (d.queue 8).head ≠ (d.queue 8).tail ∧ 64 ≤ (d.queue 8).outstanding) ∧
    ((rich.queue 9).st = .disabled ∧ rich.queueClr 9 = some 2 ∧ (rich.queue 100).st = .disabled ∧
      rich.queueClr 100 = none) ∧
    (let c := cmdOf 6 4 .decoded 0
     let d := withCmds rich 8 [c]
     (d.queue 8).st = .running ∧ c ∈ (d.queue 8).cmds ∧ d.cmd 8 c.seq = some c ∧ d.progTile 8 c.seq = none ∧
      d.launchOf 8 c.seq = none) ∧
    ((inQueue id).queue 8).cmds = [] ∧ rich.host.fifos = [] ∧
    (let d := posting id [(4, [recOf 8 3 7]), (10, [recOf 9 4 8, recOf 8 5 9])] 4
     d.running = true ∧ Tab.wf [] d.host.fifos = true ∧ Tab.get [] d.host.fifos 10 = recOf 9 4 8 :: [recOf 8 5 9] ∧
      (d.host.fifos.all fun f => f.2.all fun x => x.queue != 9 || decide (8 ≤ x.ord)) = true ∧
      nextSource d 10 = true ∧ Tab.wf Queue.reset d.host.queues = true ∧ (d.queue 9).st ≠ .draining) ∧
    (let d := posting (fun u => { u with st := .draining }) [(4, [recOf 8 3 7]), (10, [recOf 9 4 8])] 10
     d.running = true ∧ Tab.wf [] d.host.fifos = true ∧ Tab.get [] d.host.fifos 4 = recOf 8 3 7 :: [] ∧
      (d.queue 8).st = .draining ∧ (d.queue 8).cmds = [] ∧ nextSource d 4 = true ∧
      (d.host.fifos.all fun f => f.1 == 4 || f.2.all fun x => x.queue != 8) = true) := by decide +kernel

/-! ### Commands -/

def cmdCtx (opcode ctx act : Nat) (ph : CmdPh) (b : Nat) : Cmd :=
  { cmdOf opcode 3 ph b with raw := BitVec.ofNat 512 (opcode + 2 ^ 16 * ctx + 2 ^ 32 * act + 2 ^ 128 * b) }
def fetched (opcode ctx act b : Nat) : Cmd := cmdCtx opcode ctx act .fetched b
/-- The command is the next that queue 8 decodes, and its source has room. -/
def decodes (d : Dev) (c : Cmd) : Bool :=
  let d := withCmds d 8 [c]
  d.running && !d.dbg.cpHalted && d.queueClr 8 == some 2 && (d.queue 8).cmds.find? (·.ph == .fetched) == some c &&
    d.cmd 8 c.seq == some c && d.nextDecode == some 8 && !d.decoding && decide (d.fifoUse (d.sourceOf c) < 32)
/-- Its opcode, its context and its reserved bits are in order, and no carve-out of its clearing is unformed. -/
def wellFormed (d : Dev) (c : Cmd) : Bool :=
  decide (0 < c.opcode) && decide (c.opcode ≤ 11) && decide (c.context ≠ 0) && !d.host.deadCtx.contains c.context &&
    reservedZero c.raw && !d.unformed 2
def clearingIn (st : ClrSt) : Dev := rich.modClr 2 fun c => { c with st := st }
def tideCmd : Cmd := fetched 8 9 0xFFFF 5
/-- It may run: its clearing serves it, its activity is its own, and its handles are live. -/
def serves (d : Dev) (c : Cmd) : Bool :=
  decodes d c && wellFormed d c && (d.clr 2).st == .active && !d.outOfService 2 &&
    (decide (c.actId = 0xFFFF ∧ c.opcode ∉ [4, 5, 10, 11]) ||
      (d.activity c.actId).any fun x => x.2.clearing.toNat == 2 && x.2.queue.toNat == 8)

theorem test_witness_CommandsBegin_refused :
    (decodes rich (fetched 0 9 0xFFFF 5) = true ∧ (fetched 0 9 0xFFFF 5).opcode = 0 ∧
      decodes rich (fetched 12 9 0xFFFF 5) = true ∧ 11 < (fetched 12 9 0xFFFF 5).opcode ∧
      decodes rich (fetched 8 0 0xFFFF 5) = true ∧ (fetched 8 0 0xFFFF 5).context = 0) ∧
    (let d : Dev := { rich with host := { rich.host with deadCtx := [9] } }
     decodes d tideCmd = true ∧ tideCmd.context ∈ d.host.deadCtx) ∧
    (decodes rich (fetched 8 9 0xFFFF (2 ^ 100)) = true ∧ reservedZero (fetched 8 9 0xFFFF (2 ^ 100)).raw = false) ∧
    ([ClrSt.resetting, .scrubbing, .fenced, .halted, .absent, .contained].all fun st =>
      decodes (clearingIn st) tideCmd && wellFormed (clearingIn st) tideCmd && ((clearingIn st).clr 2).st == st) = true ∧
    (let d := rich.modClr 2 fun c => { c with oos := true }
     decodes d tideCmd = true ∧ wellFormed d tideCmd = true ∧ (d.clr 2).st = .active ∧ d.outOfService 2 = true) ∧
    (decodes rich (fetched 4 9 0xFFFF 0) = true ∧ wellFormed rich (fetched 4 9 0xFFFF 0) = true ∧
      rich.outOfService 2 = false ∧ (fetched 4 9 0xFFFF 0).actId = 0xFFFF) ∧
    (decodes rich (fetched 8 9 99 0) = true ∧ wellFormed rich (fetched 8 9 99 0) = true ∧
      rich.activity (fetched 8 9 99 0).actId = none) ∧
    (let d := withCmds (rich.modQueue 9 fun u => { u with st := .running, cmds := [cmdCtx 8 9 0xFFFF .decoding 0] }) 8 [tideCmd]
     d.decoding = true ∧ d.nextDecode = some 8 ∧ d.cmd 8 3 = some tideCmd) ∧
    (let d : Dev := { rich with host := { rich.host with
       fifos := [(104, List.replicate 32 (Dev.completion 9 tideCmd .ok .none 0 0 1))] } }
     (withCmds d 8 [tideCmd]).nextDecode = some 8 ∧ 32 ≤ (withCmds d 8 [tideCmd]).fifoUse (d.sourceOf tideCmd)) := by
  decide +kernel

def withFence (sig : Bool) (st : BitVec 2) (d : Dev) : Dev := d.modFence 4 fun _ =>
  { Fence.reset with alloc := true, gen := 1, owner := 9, sig := sig, status := st }
def fh : Nat := (fenceHandle 4 1).toNat

theorem test_witness_CommandsBegin_served :
    (let c := fetched 1 9 0xFFFF (body [(16, 77), (20, 2), (32, 1)])
     serves rich c = true ∧ ((rich.handlesOf c).find? fun h => !rich.liveHandle h.1).isSome = true) ∧
    (let d := rich.modObj 1 fun o => { o with clearing := 3 }
     let c := fetched 1 9 0xFFFF (body [(16, 1), (20, 2)])
     serves d c = true ∧ ((d.handlesOf c).all fun h => d.liveHandle h.1) = true ∧
      ((d.handlesOf c).find? fun h => !d.handleOwned 2 h.1 h.2).isSome = true) ∧
    (let c := fetched 6 9 0xFFFF 0x12345
     serves rich c = true ∧ rich.handlesOf c = [] ∧ rich.fenceUse c = false) ∧
    ((serves (withFence false 0 rich) (fetched 6 9 0xFFFF fh) && (withFence false 0 rich).fenceUse (fetched 6 9 0xFFFF fh) &&
        (withFence false 0 rich).opcodeOk 2 (fetched 6 9 0xFFFF fh) &&
      serves rich (fetched 9 9 0xFFFF 1) && rich.fenceUse (fetched 9 9 0xFFFF 1) && rich.opcodeOk 2 (fetched 9 9 0xFFFF 1) &&
      ((rich.handlesOf (fetched 9 9 0xFFFF 1)).all fun h => rich.liveHandle h.1 && rich.handleOwned 2 h.1 h.2) &&
      serves rich (fetched 10 9 1 0) && rich.fenceUse (fetched 10 9 1 0) && rich.opcodeOk 2 (fetched 10 9 1 0))) = true := by
  decide +kernel

def decoded (opcode act : Nat) (seq : Word) (b : Nat) : Cmd := { actCmd opcode act .decoded b with seq := seq }
def runningCmd (opcode : Nat) (seq : Word) : Cmd := { decoded opcode 0xFFFF seq 0 with ph := .running }
def barriered : Cmd := { decoded 1 0xFFFF 5 0 with raw := (decoded 1 0xFFFF 5 0).raw ||| 0x200 }
/-- Command `c` of a running queue 8 whose ring holds `cs`. -/
def inRing (cs : List Cmd) (c : Cmd) : Bool :=
  let d := withCmds rich 8 cs
  d.running && !d.dbg.cpHalted && d.cmd 8 c.seq == some c && d.queueClr 8 == some 2 && (d.queue 8).st == .running &&
    c.ph == .decoded && decide (d.fifoUse c.src < 32)

theorem test_witness_CommandStart :
    (let c := decoded 1 0xFFFF 5 0
     let cs := [runningCmd 1 3, runningCmd 6 4, c]
     inRing cs c = true ∧ cs.takeWhile (·.seq != c.seq) = [runningCmd 1 3, runningCmd 6 4] ∧ c.barrier = false ∧
      c.actId = 0xFFFF ∧ rich.tide.missing = 0 ∧ c.decodedAt.toNat < rich.tide.count.toNat ∧ c.opcode ≠ 11) ∧
    (inRing [barriered] barriered = true ∧ barriered.barrier = true) ∧
    (let c := decoded 10 1 5 0
     let d : Dev := { withCmds rich 8 [c] with sched := { rich.sched with nextInst := [(1, 1)] } }
     inRing [c] c = true ∧ c.actId ≠ 0xFFFF ∧ c.inst.toNat < Tab.get 0 d.sched.nextInst c.actId.toNat ∧
      d.sched.waits = []) ∧
    (let c := decoded 10 1 5 0
     let w : ActWait := { act := 1, inst := 0, late := false }
     let d : Dev := { withCmds rich 8 [c] with sched := { rich.sched with nextInst := [(1, 1)], waits := [w] } }
     c.actId ≠ 0xFFFF ∧ w ∈ d.sched.waits ∧ w.act = c.actId ∧ w.inst = c.inst.toNat) ∧
    (let c : Cmd := { decoded 1 0xFFFF 5 0 with decodedAt := 1000 }
     inRing [c] c = true ∧ rich.tide.count.toNat ≤ c.decodedAt.toNat ∧
      (tideOf fun t => { t with missing := 2 }).tide.missing ≠ 0) ∧
    (inRing [runningCmd 1 3, barriered] barriered = true ∧
      inRing [runningCmd 7 3, decoded 1 0xFFFF 5 0] (decoded 1 0xFFFF 5 0) = true ∧
      inRing [decoded 1 0xFFFF 4 0, decoded 1 0xFFFF 5 0] (decoded 1 0xFFFF 5 0) = true) := by decide +kernel

def atFence (sig : Bool) (st : BitVec 2) (cs : List Cmd) : Dev := withFence sig st (withCmds rich 8 cs)
def inPh (opcode : Nat) (ph : CmdPh) (b : Nat) : Cmd := { actCmd opcode 0xFFFF ph b with seq := 5 }

theorem test_witness_FencesAndWaits :
    (let c := inPh 6 .started fh
     (atFence false 0 [c]).running = true ∧ (atFence false 0 [c]).cmd 8 5 = some c ∧ c.opcode = 6 ∧ c.ph = .started) ∧
    (let c := inPh 6 .running fh
     (atFence false 0 [runningCmd 1 4, c]).cmd 8 5 = some c ∧
      (atFence false 0 [runningCmd 1 4, c]).earlierDone 8 5 = false ∧
      (atFence false 0 [c]).earlierDone 8 5 = true ∧ (atFence false 0 [c]).fenceCurrent (c.word 16) = true ∧
      ((atFence false 0 [c]).fence (fenceIndex (c.word 16))).sig = false ∧ (atFence false 0 [c]).waiters (c.word 16) = [] ∧
      ((atFence true 2 [c]).fence (fenceIndex (c.word 16))).sig = true ∧
      (let w : Cmd := { inPh 7 .running fh with seq := 6 }
       (atFence false 0 [c, w]).waiters (c.word 16) = [(8, w)] ∧ (atFence false 0 [c, w]).cmd 8 6 = some w)) ∧
    (let c := inPh 6 .running (fh + 1)
     (atFence false 0 [c]).cmd 8 5 = some c ∧ (atFence false 0 [c]).earlierDone 8 5 = true ∧
      (atFence false 0 [c]).fenceCurrent (c.word 16) = false) ∧
    (let c := inPh 7 .started (fh + 2 ^ 32)
     (atFence true 1 [c]).cmd 8 5 = some c ∧ c.opcode = 7 ∧ (atFence true 1 [c]).fenceCurrent (c.word 16) = true ∧
      ((atFence true 1 [c]).fence (fenceIndex (c.word 16))).status ≠ 0 ∧ fld c.raw 20 1 % 2 = 1 ∧
      ((atFence true 0 [c]).fence (fenceIndex (c.word 16))).status = 0 ∧
      ((atFence true 1 [c]).queue 8).st = .running ∧ fld (inPh 7 .started fh).raw 20 1 % 2 = 0) ∧
    (let c := inPh 8 .started 1000
     (withCmds rich 8 [c]).cmd 8 5 = some c ∧ c.opcode = 8 ∧ fld c.raw 16 8 ≤ rich.tide.pos.toNat ∧
      rich.tide.pos.toNat < fld (inPh 8 .started 1001).raw 16 8) := by decide +kernel

/-- STRANDLINE_MARK of activity `act` with its DEEP flag and its length. -/
def markCmd (act deep len : Nat) : Cmd :=
  { actCmd 10 act .started (body [(16, deep), (32, len)]) with seq := 5, src := 104 }
def actRun (act : BitVec 16) (done : Bool) : ActRun :=
  { act := act, inst := 0, clearing := 2, startPos := 0, deadline := 8, startMark := 904, late := false,
    counted := false, done := done }
def atMark (c : Cmd) (rs : List ActRun) : Dev := { withCmds rich 8 [c] with sched := { rich.sched with runs := rs } }
def kindOf (d : Dev) (c : Cmd) : Option Byte := (d.activity c.actId).map (·.2.kind)
def evalCmd (len room : Nat) : Cmd :=
  { actCmd 11 7 .started (body [(16, 1), (28, len), (32, 0x77000), (40, room)]) with seq := 5, src := 104 }
/-- Clearing 2 has an egress key and the flow that allows it. -/
def outward (d : Dev) : Dev :=
  let d := d.modSlot 0x12 fun _ => keyed 2 5 4
  { d with plan := { d.plan with active := some { stand with
      flows := stand.flows ++ [{ src := 2, dst := 0xFF, kind := 3, contributors := 0 }] } } }
def evalRead (d : Dev) (c : Cmd) : Option Status :=
  match d.tryRead 2 (c.holder 8) (c.word 16) (d.obj (objIndex (c.word 16))) [(fld c.raw 20 6, fld c.raw 28 4)] with
  | (e, some x) => if (e.cmd 8 5).isSome then some x.status else none
  | _ => none

theorem test_witness_TrainingCommands :
    ((atMark (markCmd 1 1 0) []).running = true ∧ (atMark (markCmd 1 1 0) []).cmd 8 5 = some (markCmd 1 1 0) ∧
      kindOf rich (markCmd 1 1 0) = some 3 ∧ fld (markCmd 1 1 0).raw 16 1 % 2 = 1) ∧
    (kindOf rich (markCmd 2 1 0) = some 6 ∧ (atMark (markCmd 2 1 0) []).run (markCmd 2 1 0).actId (markCmd 2 1 0).inst = none) ∧
    (let c := markCmd 1 0 0
     fld c.raw 16 1 % 2 = 0 ∧ (atMark c [actRun 1 false]).run c.actId c.inst = some (actRun 1 false) ∧
      (atMark c [actRun 1 true]).run c.actId c.inst = some (actRun 1 true)) ∧
    (let n := deepBytes stand rich.stl.deepMan
     0 < n ∧ n ≤ fld (markCmd 2 1 n).raw 32 8 ∧ fld (markCmd 2 1 (n - 1)).raw 32 8 < n ∧
      (atMark (markCmd 2 1 n) [actRun 2 false]).run 2 0 = some (actRun 2 false)) ∧
    (let d := withCmds rich 8 [evalCmd 10 200]
     d.running = true ∧ d.cmd 8 5 = some (evalCmd 10 200) ∧ d.queueClr 8 = some 2 ∧ d.egress 2 = none ∧
      (d.activity (evalCmd 10 200).actId).isSome = true) ∧
    (let d := withCmds (outward rich) 8 [evalCmd 10 126]
     d.running = true ∧ (d.egress 2).isSome = true ∧ 0 < fld (evalCmd 10 126).raw 28 4 ∧
      fld (evalCmd 10 126).raw 28 4 ≤ 65536 ∧ (d.obj 1).holds 0 10 = true ∧
      116 + fld (evalCmd 10 126).raw 28 4 ≤ fld (evalCmd 10 126).raw 40 4 ∧
      evalRead d (evalCmd 10 126) = some .ok ∧ fld (evalCmd 10 125).raw 40 4 < 116 + 10 ∧
      (d.obj 1).holds 0 65537 = false) ∧
    (let d := outward { rich with mem := { rich.mem with meta_ := [(unitKey 64 0, { UnitMeta.reset with cause := 2 })] } }
     evalRead (withCmds d 8 [evalCmd 10 200]) (evalCmd 10 200) = some .uncorrectable) := by decide +kernel

/-! ### Objects, fences and contexts -/

def asking (d : Dev) (n r size : Nat) : Dev :=
  { d with host := { d.host with
      reqWhere := BitVec.ofNat 32 (n + 16 * r + 2 ^ 16 * 9), reqSizeLo := BitVec.ofNat 32 size,
      reqSizeHi := BitVec.ofNat 32 (size / 2 ^ 32) } }
def retireCmd (ph : CmdPh) : Cmd := { actCmd 9 0xFFFF ph 1 with seq := 5 }

theorem test_witness_ObjectLife :
    (rich.running = true ∧ rich.host.objBusy = false ∧ ({ rich with host := { rich.host with objBusy := true } } : Dev).running = true ∧
      Tab.wf Obj.reset rich.host.objs = true ∧ (rich.clr 4).st ≠ .active ∧ (rich.clr 2).st = .active ∧
      rich.planRegion 2 9 = none ∧ (rich.planRegion 2 0).isSome = true ∧ (rich.obj 0).st = .free ∧
      (rich.host.objs.all fun o => o.2.base % 4096 == 0) = true) ∧
    ((asking rich 2 0 0).host.reqSizeHi ++ (asking rich 2 0 0).host.reqSizeLo).toNat = 0 ∧
    (let d := withCmds rich 8 [retireCmd .decoding]
     d.cmd 8 5 = some (retireCmd .decoding) ∧ d.liveHandle 1 = true ∧
      (d.modObj 1 fun o => { o with st := .retiring }).liveHandle 1 = false) ∧
    (withCmds rich 8 [retireCmd .started]).cmd 8 5 = some (retireCmd .started) ∧
    (let d := (withCmds rich 8 [retireCmd .running]).modObj 1 fun o => { o with st := .retiring, gen := 0xFFE, retire := [(8, 5)] }
     d.running = true ∧ Tab.wf Obj.reset d.host.objs = true ∧ Tab.wf Queue.reset d.host.queues = true ∧
      (d.obj 1).st = .retiring ∧ (d.obj 1).refs = 0 ∧ d.cmd 8 5 = some (retireCmd .running) ∧
      (retireCmd .running).refs = []) ∧
    (let d := rich.modObj 1 fun o => { o with st := .retiring, refs := 1 }
     (d.obj 1).st = .retiring ∧ 0 < (d.obj 1).refs) := by decide +kernel

/-- A create of one page beside an object at the region's first page: the lowest free base is the second page. -/
theorem test_witness_ObjectLife_room :
    let d : Dev := asking { home with host := { home.host with objs := [(1, objAt 2 0 5 0 4096)] } } 2 0 4096
    let len := ((d.host.reqSizeHi ++ d.host.reqSizeLo).toNat + 4095) / 4096 * 4096
    let room (b : Nat) : Prop :=
      b % 4096 = 0 ∧ b + len ≤ 1006632960 ∧ ∀ o ∈ d.host.objs, o.2.st ≠ .free → o.2.clearing.toNat = 2 → o.2.region.toNat = 0 →
        b + len ≤ o.2.base ∨ o.2.base + (o.2.size + 4095) / 4096 * 4096 ≤ b
    len = 4096 ∧ (d.planRegion 2 0).map (·.dataBytes) = some 1006632960 ∧ room 4096 ∧ ∀ a, a < 4096 → ¬ room a := by
  intro d len room
  have hl : len = 4096 := by decide +kernel
  refine ⟨hl, by decide +kernel, ?_, ?_⟩
  · refine ⟨by decide, by omega, ?_⟩
    intro o ho _ _ _
    have e : o = (1, objAt 2 0 5 0 4096) := List.mem_singleton.mp ho
    subst e
    exact .inr (by decide)
  · intro a ha h
    have h0 : a = 0 := by omega
    subst h0
    have := h.2.2 (1, objAt 2 0 5 0 4096) (List.mem_singleton.mpr rfl) (by decide) (by decide) (by decide)
    rw [hl] at this
    exact absurd this (by decide)
/-- A create that is larger than its region finds no room. -/
theorem test_witness_ObjectLife_full :
    let d := asking rich 2 0 1006632961
    let len := ((d.host.reqSizeHi ++ d.host.reqSizeLo).toNat + 4095) / 4096 * 4096
    (d.planRegion 2 0).map (·.dataBytes) = some 1006632960 ∧ ∀ b, ¬ (b + len ≤ 1006632960) := by
  intro d len
  have hl : 1006632960 < len := by decide +kernel
  exact ⟨by decide +kernel, fun b h => by omega⟩

/-- Every index below `k + n` from `k` on holds the object `o`. -/
def crowd (o : Obj) (k : Nat) : Nat → Tab Obj
  | 0 => []
  | n + 1 => (k, o) :: crowd o (k + 1) n
theorem crowd_get (o : Obj) : ∀ n k i, k ≤ i → i < k + n → Tab.get Obj.reset (crowd o k n) i = o
  | 0, k, i, h, h' => by omega
  | n + 1, k, i, h, h' => by
    by_cases e : k = i
    · simp [crowd, Tab.get, e]
    · simp only [crowd, Tab.get, e, if_false]
      exact crowd_get o n (k + 1) i (by omega) (by omega)
theorem crowd_wf (o : Obj) (ho : o ≠ Obj.reset) : ∀ n k, Tab.wfFrom Obj.reset k (crowd o k n) = true
  | 0, _ => rfl
  | n + 1, k => by simp [crowd, Tab.wfFrom, ho, crowd_wf o ho n (k + 1)]
theorem wf_lower {α : Type} [DecidableEq α] (z : α) : ∀ (t : Tab α) (k : Nat), Tab.wfFrom z k t = true → Tab.wfFrom z 0 t = true
  | [], _, _ => rfl
  | p :: t, k, h => by
    simp only [Tab.wfFrom, Bool.and_eq_true] at h ⊢
    exact ⟨⟨by simp, h.1.2⟩, h.2⟩
/-- With every index taken, a create has none. -/
theorem test_witness_ObjectLife_indexes :
    let d : Dev := { home with host := { home.host with objs := crowd (objAt 2 0 5 0 1) 0 (2 ^ 20) } }
    Tab.wf Obj.reset d.host.objs = true ∧ ∀ k, k < 2 ^ 20 → (d.obj k).st ≠ .free := by
  intro d
  refine ⟨crowd_wf _ (by decide) _ _, fun k hk => ?_⟩
  show (Tab.get Obj.reset (crowd (objAt 2 0 5 0 1) 0 (2 ^ 20)) k).st ≠ .free
  rw [crowd_get _ _ _ _ (Nat.zero_le _) (by omega)]
  decide

def waiting7 : Cmd := { actCmd 7 0xFFFF .running fh with seq := 5 }
def fenceDev (alloc sig : Bool) : Dev :=
  (withCmds rich 8 [waiting7]).modFence 4 fun _ => { Fence.reset with alloc := alloc, gen := 1, owner := 9, sig := sig }
def destroying (d : Dev) : Dev := { d with host := { d.host with ctxBusy := true, ctxNum := 9, deadCtx := [9] } }

theorem test_witness_FencesAndContexts :
    (let d := fenceDev true false
     d.running = true ∧ Tab.wf Queue.reset d.host.queues = true ∧ Tab.wf Fence.reset d.host.fences = true ∧
      Tab.wf Obj.reset d.host.objs = true ∧ (d.fence 4).alloc = true ∧ (d.fence 4).sig = false ∧
      d.waiters (fenceHandle 4 (d.fence 4).gen) = [(8, waiting7)] ∧ d.cmd 8 5 = some waiting7 ∧
      d.host.ctxBusy = false ∧ Tab.wf TileSt.reset d.tiles = true ∧ waiting7.context = 9 ∧
      d.progTile 8 5 = none ∧ d.launchOf 8 5 = none) ∧
    ((fenceDev false false).fence 4).alloc = false ∧ ((fenceDev true true).fence 4).sig = true ∧
    (let d := destroying (fenceDev true false)
     d.running = true ∧ d.host.ctxBusy = true ∧ d.host.ctxNum = 9 ∧ (d.cmds.any fun y => y.2.context == 9) = true) ∧
    (let d := destroying rich
     d.cmds = [] ∧ (d.host.objs.any fun o => o.2.st != .free && o.2.ctx == 9) = true) ∧
    (let d := destroying home
     d.running = true ∧ d.cmds = [] ∧ d.host.objs = []) := by decide +kernel

/-! ### Resets -/

def tdiDev (t : Tdi) : Dev := { rich with bus := { rich.bus with tdi := Tab.set .configUnlocked [] 1 t } }

theorem test_witness_FunctionResets :
    (rich.running = true ∧ Tab.wf Obj.reset rich.host.objs = true ∧ rich.bus.perst = false) ∧
    (let c := cmdCtx 8 9 0xFFFF .running 0
     let d := withCmds rich 8 [c]
     d.cmds = [(8, c)] ∧ d.host.fifos = [] ∧ d.progTile 8 3 = none ∧ d.launchOf 8 3 = none ∧ (d.queue 8).cmds = [c]) ∧
    (tdiMoves ((tdiDev .configLocked).tdi 1) .run = true ∧ tdiMoves ((tdiDev .run).tdi 1) .error = true ∧
      tdiMoves ((tdiDev .configUnlocked).tdi 1) .run = false) ∧
    ((tdiDev .run).tdi 1 = .run ∧ rich.tdi 1 ≠ .run) := by decide +kernel

def movingCmd : Cmd := { actCmd 1 7 .running 0 with src := 96 }
def moving (f : Dev → Dev) : Dev := f (withCmds rich 8 [movingCmd])
def resetsSo (n : Nat) (d : Dev) : Dev := d.modClr 2 fun c => { c with engResets := List.replicate n 0 }

theorem test_witness_EngineResets :
    (let d := moving id
     d.running = true ∧ Tab.wf Queue.reset d.host.queues = true ∧ Tab.wf TileSt.reset d.tiles = true ∧
      Tab.wf 0 d.flt.chanGen = true ∧ d.engineClr 0xFFFF = none ∧ d.engineClr (0x5002 : BitVec 16).toNat = some 2 ∧
      d.engineClr 0x10 = some 2 ∧ d.underReset 2 = false ∧ 0 + 1 < d.esc.engCount ∧
      d.cmds.filter (fun x => d.onEngine 0x5002 x.1 x.2) = [(8, movingCmd)] ∧ d.cmd 8 3 = some movingCmd ∧
      d.firstFailure 8 movingCmd = none ∧ (d.cmds.all fun x => !d.onEngine 0x10 x.1 x.2) = true) ∧
    (let d := (moving id).modClr 2 fun c => { c with st := .resetting }
     d.engineClr 0x5002 = some 2 ∧ d.underReset 2 = true) ∧
    (let d := resetsSo ((moving id).esc.engCount - 1) (moving id)
     d.engineClr 0x5002 = some 2 ∧ d.underReset 2 = false ∧
      d.esc.engCount ≤ ((d.clr 2).engResets.filter fun u => d.timeUs < u + d.esc.engWindowS * 1000000).length + 1) ∧
    (let d : Dev := { moving id with flt := { (moving id).flt with engBusy := [0x5002] } }
     d.engineClr 0x5002 = some 2 ∧ (0x5002 : BitVec 16) ∈ d.flt.engBusy) ∧
    (let d : Dev := { moving id with sched := { rich.sched with runs := [actRun 7 false] } }
     d.run 7 0 = some (actRun 7 false) ∧ (d.activity 7).map (fun x => (x.2.startOff, x.2.deadlineOff)) = some (0, 8) ∧
      (actRun 7 false).startMark.toNat + 4 * 8 + 64 = 1000 ∧ d.tide.count.toNat = 1000 ∧
      (allEngines.filter fun e => d.worksFor e fun c => c.actId == 7 && c.inst == 0) = [0x5002]) := by decide +kernel

def clrDev (f : Clearing → Clearing) : Dev := (withCmds rich 8 [cmdOf 8 3 .running 5]).modClr 2 f
def hurt (buddy : Bool) : Dev :=
  let d := withCmds rich 8 [movingCmd]
  { d with
    mem := { d.mem with
      repairs := [⟨1, [(8, 3, 99)]⟩], meta_ := [(unitKey 64 64, { UnitMeta.reset with cause := 2 })] },
    stl := { d.stl with buddyIdx0 := if buddy then 4 else 0xFFFFFFFF } }

theorem test_witness_ClearingResets :
    (let d := clrDev id
     d.running = true ∧ Tab.wf Queue.reset d.host.queues = true ∧ Tab.wf TileSt.reset d.tiles = true ∧
      Tab.wf Obj.reset d.host.objs = true ∧ d.planClr 5 = none ∧ (d.planClr 2).isSome = true ∧ d.underReset 2 = false ∧
      d.cmds.filter (fun x => d.queueClr x.1 == some 2) = [(8, cmdOf 8 3 .running 5)] ∧
      d.cmd 8 3 = some (cmdOf 8 3 .running 5) ∧ d.firstFailure 8 (cmdOf 8 3 .running 5) = none ∧ (d.clr 2).oos = false ∧
      (d.clr 2).st ≠ .resetting) ∧
    (let d := clrDev fun c => { c with st := .resetting }
     d.underReset 2 = true ∧ (d.clr 2).st = .resetting ∧ (d.clr 2).fencing = false ∧ d.mem.repairs = []) ∧
    (let d := clrDev fun c => { c with st := .resetting, fencing := true }
     (d.clr 2).fencing = true ∧ 0 + 1 < d.esc.fenced24h) ∧
    (((rich.onLink 0 fun k => { k with badMarks := 2 }).link 0).badMarks < 3 ∧
      3 ≤ ((rich.onLink 0 fun k => { k with badMarks := 3 }).link 0).badMarks) ∧
    ((64 : BitVec 37).toNat < stackSize ∧ physOf 0 64 = 64 ∧
      (hurt true).mem.repairs.find? (fun r => r.line == 64 / 64) = some ⟨1, [(8, 3, 99)]⟩ ∧
      ((hurt true).findPa 64).map (fun x => (x.1, x.2.1, x.2.2.1)) = some (2, 0, 64) ∧
      (chunkKey stand 2 0 64).any (hurt true).buddyHas = true ∧ (chunkKey stand 2 0 64).any (hurt false).buddyHas = false ∧
      Tab.wf UnitMeta.reset (hurt true).mem.meta_ = true ∧ ((hurt false).clr 2).st = .active ∧
      (hurt false).cmd 8 3 = some movingCmd ∧ stackSize ≤ (0x1800000000 : BitVec 37).toNat) := by decide +kernel

/-- The chunk that repairs it. -/
def hurtCopy : ChunkCopy :=
  let c : ChunkCopy := { chunk := 0, index := 4, tag := [], cipher := List.replicate 4096 9 }
  { c with tag := c.tagFor ((hurt true).strandKey 2) }
theorem test_witness_ClearingResets_copy :
    (chunkKey stand 2 0 64).map (· % 2 ^ 40) = some hurtCopy.chunk ∧ ((hurt true).openChunk 2 hurtCopy).isSome = true ∧
      (hurt true).openChunk 2 ⟨0, 4, [], []⟩ = none := by
  refine ⟨by decide +kernel, ?_, by decide +kernel⟩
  unfold hurtCopy
  rw [Dev.openChunk_tagFor _ _ _ List.length_replicate]
  rfl

/-- A sweep program whose LOAD waits for the repair has a sweep in flight. -/
theorem test_witness_ClearingResets_program :
    let d : Dev := { runs lowProg with mem := { (runs lowProg).mem with repairs := [⟨1, [(8, 3, 99)]⟩] } }
    d.running = true ∧ d.mem.repairs.find? (fun r => r.line == 64 / 64) = some ⟨1, [(8, 3, 99)]⟩ ∧
      (d.findPa 64).map (fun x => (x.1, x.2.1, x.2.2.1)) = some (2, 0, 64) ∧ (chunkKey stand 2 0 64).isSome = true ∧
      (d.clr 2).st = .active ∧ d.cmd 8 3 = some (progCmd .running) ∧ d.progTile 8 3 = some 0 ∧
      (d.tile 0).prog = some lowProg ∧ lowProg.flights ≠ [] ∧ Tab.wf TileSt.reset d.tiles = true := by decide +kernel

/-! ### Resets, power and temperature -/

/-- A device whose cold resets of the last day came at these times. -/
def resetAt (ts : List Nat) : Dev := { rich with timeUs := 90000000000, flt := { rich.flt with colds := ts } }
def coldsOf (d : Dev) : List Nat := d.timeUs :: d.flt.colds.filter fun t => d.timeUs < t + 86400 * 1000000

theorem test_witness_ColdResets :
    ((resetAt [1]).running = true ∧ (resetAt [1]).pins.pwrOk = true ∧
      (coldsOf (resetAt [1])).length < (resetAt [1]).esc.cold24h ∧ (resetAt [1]).flt.oos = false) ∧
    ((resetAt [80000000000, 89000000000]).esc.cold24h ≤ (coldsOf (resetAt [80000000000, 89000000000])).length) ∧
    (let d : Dev := { rich with pins := { rich.pins with pwrOk := false } }
     d.running = true ∧ d.pins.pwrOk = false) := by decide +kernel

theorem test_witness_PowerComesAndGoes :
    ((after rich (.powerRemoval true)).pins.powered = false ∧ rich.pins.powered = true ∧ rich.running = true ∧
      rich.flt.ready = true) ∧
    (Dev.reset.running = true ∧ Dev.reset.flt.ready = false ∧ Tab.wf StackSt.reset Dev.reset.mem.stk = true ∧
      (Dev.reset.stack 15).train = 0) := by decide +kernel

def planless : Dev := { rich with plan := PlanRegs.reset }
def wanting (d : Dev) (posLo : Word) (ramping : Bool) : Dev :=
  { d with pwr := { d.pwr with pending := true, target := 1, posLo := posLo, ramping := ramping } }
def dieIn (st : BitVec 2) (below : Nat) : Dev :=
  let y : DieSt := { DieSt.reset with st := st, below := below }
  { rich with thm := { rich.thm with dies := Tab.set DieSt.reset rich.thm.dies (dieKey (.cd 3)) y } }

theorem test_witness_PowerAndTemperature :
    (rich.running = true ∧ rich.plan.active.isSome = true ∧ planless.running = true ∧ planless.plan.active = none ∧
      planless.pwr.ramping = false) ∧
    (let d := wanting rich 1000 false
     d.pwr.pending = true ∧ d.pwr.ramping = false ∧ d.plan.active.isSome = true ∧ d.tide.firstSeen = true ∧
      (d.pwr.posHi ++ d.pwr.posLo).toNat ≤ d.tide.pos.toNat) ∧
    (let d := wanting rich 1001 false
     d.tide.pos.toNat < (d.pwr.posHi ++ d.pwr.posLo).toNat) ∧
    (wanting planless 0 true).pwr.ramping = true ∧
    (rich.dieLimits (.cd 3) = (100, some 110, 115) ∧ rich.dieLimits .ctrl = (95, none, 110)) ∧
    (((dieIn 0 0).die (dieKey (.cd 3))).st = 0 ∧ ((dieIn 2 0).die (dieKey (.cd 3))).st = 2 ∧
      ((dieIn 1 99).die (dieKey (.cd 3))).st = 1 ∧ 99 ≤ ((dieIn 1 99).die (dieKey (.cd 3))).below ∧
      Tab.wf DieSt.reset (dieIn 1 99).thm.dies = true) := by decide +kernel

/-! ### Saves and recovery -/

def inStl (f : Stl → Stl) (d : Dev) : Dev := { d with stl := f d.stl }
def strand0 : PlanStrand :=
  { k := 1, role := 0, d := 1, tauMinSteps := 2, tauMaxS := 60, buddy0 := 7, buddy1 := 0, shadowAddr := 0,
    shadowValid := false, lossClearing := 2, lossAct := 6, lossRa := 0, lossRegion := 0, template := 1,
    saves := [{ clearing := 2, shadow := false, region := 0, first := 0, chunks := 1 }],
    peers := [{ addr := 7, shadow := false, region := 0, firstMib := 0, sizeMib := 128 }] }
def strand2 : PlanStrand := { strand0 with k := 2, buddy1 := 9 }
def withStrand (g : Option PlanStrand) (d : Dev) : Dev :=
  { d with plan := { d.plan with active := some { stand with strandline := g } } }
def twoManifests : List Manifest := [⟨2, [1], [2, 3]⟩, ⟨0xFF, [1], []⟩]
def saving (st : StlSt) : Dev := inStl (fun x => { x with st := st, index := 4, manifests := twoManifests }) rich
def saved : Dev :=
  inStl (fun x => { x with
    manifestsSent := true, costMs := 100, peers := [(0, { index := 4, complete := true, bytes := [] })] }) (saving .stageA)
def lossRun (inst : Word) (d : Dev) : Dev :=
  let r : ActRun := { act := 6, inst := inst, clearing := 2, startPos := 0, deadline := 8, startMark := 1, late := false, counted := false, done := true }
  { d with sched := { d.sched with runs := [r] } }
/-- The replay's device: the loss word is written, and the log holds `lg`. -/
def replaying (lg : List (Word × AW)) : Dev :=
  lossRun 3 (inStl (fun x => { x with lossLog := lg, st := .replay, lastInst := 2, stopAt := false })
    (rich.writeObj (rich.obj 1) 0 (List.replicate 64 5)).1)
def replayed : AW := (replaying []).lossWord strand0
def deepCmd : Cmd := { cmdCtx 10 9 2 .running (1 + 2 ^ 64 * 0xABC000 + 2 ^ 128 * 99999) with seq := 5, src := 104 }
def deepDev : Dev := withCmds (inStl (fun x => { x with deep := true, deepMan := twoManifests, index := 3 }) rich) 8 [deepCmd]

theorem test_witness_SavesRun :
    (stand.strandline = some strand0 ∧ rich.plan.active = some stand ∧ rich.running = true) ∧
    (let d := saving .stageA
     d.stl.st = .stageA ∧ d.stl.manifestsSent = false ∧ d.setSent .stageA strand0 = true ∧
      d.linksTo (SendSet.stageA.addr strand0) ≠ []) ∧
    (let d := withStrand (some strand2) (saving .stageB)
     d.stl.st = .stageB ∧ d.setSent .stageB strand2 = true ∧ d.linksTo (SendSet.stageB.addr strand2) ≠ [] ∧
      strand2.k ≠ 1) ∧
    (let d := inStl (fun x => { x with pend0 := [4] }) (saving .stageA)
     d.stl.shadowEnd = none ∧ d.setSent .stageA strand0 = false) ∧
    (saved.stl.st = .stageA ∧ strand0.k = 1 ∧ saved.stl.manifestsSent = true ∧ saved.setSent .stageA strand0 = true ∧
      saved.receiptsDone strand0 = true ∧ (108 : Int) - saved.stl.costMs = 8 * 1) ∧
    (((lossRun 3 rich).newLoss strand0).isSome = true ∧ rich.newLoss strand0 = none) := by decide +kernel

theorem test_witness_SavesRun_replay :
    ((replaying []).stl.st = .replay ∧
      ((replaying []).run strand0.lossAct ((replaying []).stl.lastInst + 1)).any (replaying []).runComplete = true) ∧
    (replaying []).stl.lossLog.find? (·.1 == 3) = none ∧
    (let d := replaying [(3, replayed)]
     (d.stl.lossLog.find? (·.1 == 3)).any (fun e => e.2 == d.lossWord strand0) = true) ∧
    (let d := replaying [(3, 12345)]
     (d.stl.lossLog.find? (·.1 == 3)).any (fun e => e.2 != d.lossWord strand0) = true) ∧
    (deepDev.cmd 8 5 = some deepCmd ∧ deepCmd.opcode = 10 ∧ deepCmd.ph = .running ∧ fld deepCmd.raw 16 1 % 2 = 1 ∧
      deepDev.stl.deep = true ∧ deepDev.running = true ∧
      (Dev.deepRecords deepDev.stl.index (allChunks stand) deepDev).2.isSome = true) := by decide +kernel

/-- A device whose plan holds clearing 2 alone. -/
def alonePlan : StandPlan :=
  let cs := (List.range 16).map fun n => if n = 2 then clearingAt 2 5 0 3 8 else clearingNone (BitVec.ofNat 8 n)
  { stand with clearings := cs }
def aloneDev : Dev := { rich with plan := { rich.plan with active := some alonePlan } }
/-- A manifest header of the device's member epoch, without its MAGIC; the hash follows byte 47. -/
def rheader (d : Dev) (clearing owner : Nat) : List Byte :=
  ascii "VXSL" ++ leBytes 2 1 ++ leBytes 1 clearing ++ leBytes 1 owner ++ leBytes 4 d.addr.toNat ++ leBytes 4 66 ++
    leBytes 2 (match d.sec.member with | some m => m.epoch.toNat | none => 0) ++ leBytes 2 1 ++ leBytes 8 77 ++
    leBytes 8 500 ++ leBytes 4 1 ++ leBytes 8 3 ++ strBytes (planHash alonePlan) 32
/-- The manifest of that header with its tag. -/
def rmanifest (d : Dev) (clearing owner : Nat) : SealedManifest :=
  let m : SealedManifest := { header := rheader d clearing owner, body := [1, 2, 3], tag := [] }
  { m with tag := m.tagFor (m.key (d.slot 0).key) }
/-- A chunk under the key of the manifest, with its tag. -/
def rcopy (d : Dev) (m : SealedManifest) : ChunkCopy :=
  let c : ChunkCopy := { chunk := 0, index := 66, cipher := List.replicate 4096 9, tag := [] }
  { c with tag := c.tagFor (m.key (d.slot 0).key) }
def rimage : RestoreImage :=
  { clearing := 2, manifest := rmanifest aloneDev 2 5, roleGen := 5, genKcv := 0,
    copies := [rcopy aloneDev (rmanifest aloneDev 2 5)],
    objects := [(7, 4, 0, 4096, 100, 9), (1, 2, 0, 8192, 5, 9)], counters := [1, 2, 3, 4, 5, 6], trap := none,
    queues := [(8, 44)] }
def restoring (op : BitVec 3) : Dev := inStl (fun x => { x with st := .rollback, op := op }) aloneDev

theorem test_witness_RecoveryRuns :
    ((restoring 1).running = true ∧ (restoring 1).stl.st = .rollback) ∧
    (rich.stl.st = .idle ∧ rich.strand = some strand0 ∧ strand0.role ≠ 1 ∧ rich.stl.restored = false ∧
      (withStrand none rich).strand = none ∧ (withStrand (some { strand0 with role := 1 }) rich).strand =
        some { strand0 with role := 1 } ∧ (withStrand (some { strand0 with role := 1 }) rich).running = true) ∧
    (let d := inStl (fun x => { x with restored := true, lastInst := 2, resPosLo := 5000 }) rich
     d.stl.restored = true ∧ (stand.templates.find? (·.templateId == strand0.template)).any (fun t =>
      decide (d.instBase t (d.stl.lastInst + 1).toNat ≤ (d.stl.resPosHi ++ d.stl.resPosLo).toNat)) = true) ∧
    ((restoring 1).clearings = [2] ∧ rimage.clearing.val = 2 ∧
      (∀ x ∈ [{ rimage with clearing := 3 }], x.clearing.val ≠ 2) ∧ (restoring 1).stl.op ≠ 2 ∧
      (∀ o ∈ rimage.objects, ∀ o' ∈ rimage.objects, o'.1 = o.1 → o' = o) ∧
      (restoring 1).restoreFail alonePlan { rimage with manifest := { rimage.manifest with header := [] } } = some 7) := by
  decide +kernel
theorem manifestFail_rmanifest (c o : Nat)
    (h : (rmanifest aloneDev c o).names (restoring 1).addr.toNat c o = true ∧
      (restoring 1).epochKey ((rmanifest aloneDev c o).field 16 2) = some (aloneDev.slot 0).key)
    (len : (rheader aloneDev c o).drop 48 = strBytes (planHash alonePlan) 32) :
    (restoring 1).manifestFail alonePlan (rmanifest aloneDev c o) c o = none := by
  have e : (rmanifest aloneDev c o).opens ((rmanifest aloneDev c o).key (aloneDev.slot 0).key) = true :=
    SealedManifest.opens_tagFor _ _
  have hd : (rmanifest aloneDev c o).header = rheader aloneDev c o := rfl
  unfold Dev.manifestFail
  rw [h.2]
  dsimp only
  rw [h.1, e, hd, len]
  simp
theorem test_witness_RecoveryRuns_image :
    (restoring 1).restoreFail alonePlan rimage = none ∧
      (restoring 1).manifestFail alonePlan (rmanifest aloneDev 0xFF 0) 0xFF 0 = none ∧
      (restoring 1).manifestFail alonePlan { rmanifest aloneDev 0xFF 0 with header := [] } 0xFF 0 = some 7 := by
  have k : (restoring 1).keySlot 2 3 = none ∧ (restoring 1).pairLoaded 2 = true ∧
      (restoring 1).ownerOf 2 = 5 ∧ rimage.clearing.val = 2 := by decide +kernel
  have m := manifestFail_rmanifest 2 5 (by decide +kernel) (List.drop_left' (by decide +kernel))
  have c : (rcopy aloneDev (rmanifest aloneDev 2 5)).opens ((restoring 1).imageKey rimage) = true :=
    ChunkCopy.opens_tagFor _ _ List.length_replicate
  refine ⟨?_, manifestFail_rmanifest 0xFF 0 (by decide +kernel) (List.drop_left' (by decide +kernel)), by decide +kernel⟩
  unfold Dev.restoreFail
  dsimp only
  rw [k.2.2.2, k.2.2.1, show rimage.manifest = rmanifest aloneDev 2 5 from rfl,
    show (5 : BitVec 6).toNat = 5 from rfl, m, k.1, k.2.1, show rimage.copies = [rcopy aloneDev (rmanifest aloneDev 2 5)] from rfl]
  rw [show ([rcopy aloneDev (rmanifest aloneDev 2 5)].all fun c => c.opens ((restoring 1).imageKey rimage)) = true by
    rw [List.all_cons, c]; rfl]
  rfl

/-! ### The life cycle, the reopening and the TAP -/

def lcsOf (f : Lcs → Lcs) : Dev := { rich with lcs := f rich.lcs }
def inDbg (f : Dbg → Dbg) (d : Dev) : Dev := { d with dbg := f d.dbg }
def usedRecs (n : Nat) : Tab BurnRec := (List.range n).map fun k => (k, { target := 0xFFFF, done := 0xFFFFFFFF })
def advance (f t : Nat) : Word := BitVec.ofNat 32 (2 ^ 31 + f + 16 * t)

theorem test_witness_LifeCycleAndDebug :
    ((0x42 : Word).getLsbD 31 = false ∧ rich.running = true ∧ rich.lcs.burning = false ∧ rich.lcs.waiting = none) ∧
    ((lcsOf fun x => { x with burning := true }).lcs.burning = true ∧ (lcsOf fun x => { x with burning := true }).running = true) ∧
    ((advance 0 1).getLsbD 31 = true ∧ ((advance 0 1).extractLsb' 0 3).toNat = 0 ∧ ((advance 0 1).extractLsb' 4 3).toNat = 1 ∧
      ((advance 2 4).extractLsb' 0 3).toNat = rich.lcs.st.code ∧ ((advance 2 4).extractLsb' 4 3).toNat = Lc.scrapped.code ∧
      ((advance 2 1).extractLsb' 4 3).toNat = Lc.integrator.code ∧ 4 < ((advance 2 5).extractLsb' 4 3).toNat) ∧
    (∃ k, k < 7 ∧ (Tab.get BurnRec.reset rich.lcs.recs k).target = 0) ∧
    (let d := lcsOf fun x => { x with st := .integrator, recs := usedRecs 7 }
     d.running = true ∧ ∀ k, k < 7 → (Tab.get BurnRec.reset d.lcs.recs k).target ≠ 0) ∧
    (rich.sec.fw.commits.any (!·.2) = false ∧ Tab.wf Slot.reset rich.sec.slots = true ∧
      ({ rich.sec.fw with commits := [(4, false)] }).commits.any (!·.2) = true) ∧
    (rich.dbg.opening = none ∧ rich.lcs.st = .fielded) ∧
    (let d := inDbg (fun x => { x with opening := some 3 }) rich
     d.dbg.opening = some 3 ∧ (∀ x ∈ d.tiles, x.2.prog = none) ∧ d.running = true) ∧
    (let d := inDbg (fun x => { x with opening := some 3 }) (runs (progOf []))
     d.dbg.opening = some 3 ∧ ∃ x ∈ d.tiles, x.2.prog.isSome = true) := by decide +kernel

def resp : DbgResp :=
  { wellLaid := true, scope := 3, nonce := 4, identity := rich.identity, bootId := 99, keyOk := true, sigOk := true }
def challenged (scope : Byte) : Dev :=
  inDbg (fun x => { x with chal := some ⟨scope, 4, 1000, []⟩, bootId := 99 }) { rich with timeUs := 600000999 }

theorem test_witness_LifeCycleAndDebug_checks :
    ((challenged 0xFF).running = true ∧ (challenged 0xFF).dbg.opening = none ∧ (challenged 0xFF).lcs.st = .fielded ∧
      (challenged 0xFF).dbg.chal = some ⟨0xFF, 4, 1000, []⟩ ∧ (challenged 0xFF).timeUs < 1000 + 600000000 ∧
      (challenged 0xFF).dbg.opened = false ∧ (challenged 0xFF).lcs.returnPending = false ∧
      ((resp.scope &&& 0xE0) == 0 && resp.scope != 0) = true ∧ resp.nonce = 4 ∧ resp.bootId = (challenged 0xFF).dbg.bootId ∧
      resp.scope &&& ~~~(0xFF : Byte) = 0 ∧ resp.scope &&& ~~~(2 : Byte) ≠ 0 ∧ rich.dbg.chal = none) ∧
    resp.identity = (challenged 0xFF).identity := ⟨by decide +kernel, rfl⟩

def benchDev : Dev :=
  let p : StandPlan := { stand with header := { stand.header with flags := 1 } }
  { lcsOf (fun x => { x with st := .maker }) with
    sec := { rich.sec with member := none }, plan := { rich.plan with active := some p } }
def tracing : Dev :=
  let c : PlanClaim := { cls := 1, section_ := 13, entry := 0, first := 0, last := 0, reservedZero := true }
  let p : StandPlan := { stand with claims := c :: stand.claims, trace := some [false] }
  { rich with plan := { rich.plan with active := some p } }

theorem test_witness_TestAccess :
    (rich.lcs.st = .fielded ∧ rich.dbg.opened = false ∧ rich.plan.active.isSome = true) ∧
    (let d := inDbg (fun x => { x with opened := true, scope := 0x1F }) planless
     d.running = true ∧ d.plan.active = none ∧ d.dbg.opened = true ∧ d.dbg.scope.getLsbD 4 = true ∧
      ∀ n ∈ d.clearings, (d.clr n).st = .halted) ∧
    (rich.clearings = [2, 3] ∧ (rich.clr 2).st = .active) ∧
    (benchDev.running = true ∧ benchDev.lcs.st = .maker ∧ benchDev.benchActive = true ∧
      (benchDev.obj (objIndex 1)).st ≠ .free ∧ (benchDev.obj (objIndex 1)).gen = objGen 1 ∧
      (benchDev.obj (objIndex 1)).holds 64 64 = true ∧ (benchDev.obj (objIndex 1)).holds 65536 64 = false ∧
      (benchDev.keySlot (benchDev.obj (objIndex 1)).clearing.toNat 1).isSome = true ∧ rich.benchActive = false) ∧
    (tracing.running = true ∧ tracing.traceIn = true ∧ tracing.tide.auxHiZ = false ∧ rich.traceIn = false) := by
  decide +kernel

/-! ### What every step keeps -/

/-- A state in which one command waits. -/
def waitingFor (c : Instr) (d : Dev) : State := { pending := [c], dev := d }
def steps (s : State) : Bool := match step s with | .next _ => true | _ => false

theorem test_witness_FusesKept :
    Fused (lcsOf id).lcs (waitingFor (.lcsAdvance (advance 2 4)) rich) ∧
      steps (waitingFor (.lcsAdvance (advance 2 4)) rich) = true := by
  refine ⟨⟨?_, ?_, ?_, id, fun k => ⟨?_, ?_⟩⟩, by decide +kernel⟩ <;> exact BitVec.and_self
theorem test_witness_MemoryKept :
    let d : Dev := { rich with mem := { rich.mem with hbm := [(5, some 7)] } }
    Memory.wf d = true ∧ steps (waitingFor .bist d) = true := by decide +kernel
theorem test_witness_DarkKept :
    Dark (after rich (.powerRemoval true)) (waitingFor .stage2Fault (after rich (.powerRemoval true))) ∧
      steps (waitingFor .stage2Fault (after rich (.powerRemoval true))) = true :=
  ⟨⟨rfl, by decide +kernel, by decide +kernel⟩, by decide +kernel⟩

/-! ### Worked examples of the spec -/

/-- A value from S32 to H16 with RNE in each mode, and whether it counts as a conversion NaN. -/
def toH16 (code : Nat) : List (Nat × Bool) :=
  [Mode.fastSat, .fastIeee, .strict].map fun md => Fmt.h16.convert md .rne 0 (Fmt.s32.value code)

/-- Chapter 04's example after R91: overflow, a tiny value and a signalling NaN. -/
theorem test_convert_s32_to_h16 :
    toH16 0x4788B800 = [(0x7BFF, false), (0x7C00, false), (0x7C00, false)] ∧
    toH16 0x33400000 = [(0, false), (0, false), (1, false)] ∧
    toH16 0xFF800001 = [(0x7E00, true), (0x7E00, true), (0xFE00, true)] := by decide +kernel

/-- Chapter 04's example after R413: the block takes the scale 2^2 because 500 would round up past 448. -/
theorem test_convert_block :
    (let xs := [0x447A0000, 0xC0400000, 0x3C000000, 0x3BC00000, 0x40A00000, 0x40880000, 0x80000000, 0x40E00000] ++
       List.replicate 24 0
     let r := convertBlock .f8m .s32 .fastSat .rne (List.replicate 32 0) (xs.map Fmt.s32.value)
     (r.1, r.2.1)) =
    (0x81, [0x78, 0xB4, 0x01, 0x00, 0x3A, 0x38, 0x80, 0x3E] ++ List.replicate 24 0) := by decide +kernel

/-- A fresh word after one FAST pass over these products. -/
def swept (emax : Int) (ps : List (Val × Val)) : Acc :=
  let ts := ps.map fun p => term p.1 p.2
  let x := ts.foldl Acc.flag (Acc.fresh.anchorAt (some emax))
  (x.pass ts).1
def s32s (ps : List (Nat × Nat)) : List (Val × Val) := ps.map fun p => (Fmt.s32.value p.1, Fmt.s32.value p.2)
/-- A block's two products with both scales `x`. -/
def edge (x : Nat) : List (Val × Val) :=
  [(0x7E, 0x7E), (0x38, 0xB8)].map fun p => (scaled x (Fmt.f8m.value p.1), scaled x (Fmt.f8m.value p.2))

/-- Chapter 05's examples after R104 (a split reduction) and R107 (the scales at their edges). -/
theorem test_sweep_words :
    (swept 2 (s32s [(0x3F800000, 0x3F800000), (0x33800000, 0x3F800000), (0x33800000, 0x3F800000)])).word =
      0x83A70000020000040000000000000000 ∧
    (swept 2 (s32s [(0x3F800000, 0x3F800000), (0x33800000, 0x3F800000)])).word = 0x83A70000020000020000000000000000 ∧
    (swept (-22) (s32s [(0x33800000, 0x3F800000)])).word = 0x838F0000020000000000000000000000 ∧
    (swept 244 (edge 0xF0)).word = 0x80990000061FFE000000000000000000 ∧
    (swept (-236) (edge 0)).word = 0x82B90000061FFE000000000000000000 := by decide +kernel

/-- The sum of two words, R103, and its value in S32. -/
theorem test_word_sum :
    (let s := (Acc.ofWord 0x83A70000020000020000000000000000).add (Acc.ofWord 0x838F0000020000000000000000000000)
     (s.word, (Fmt.s32.convert .fastSat .rne 0 (s.val .rne)).1)) = (0x83A70000020000040000000000000000, 0x3F800001) := by
  decide +kernel

/-- The sixteen lanes of chapter 05's last example. -/
def nanLanes : List (Val × Val) :=
  s32s ([(0x53C00000, 0x4E800000), (0x5F800000, 0x5F800000), (0x7F800042, 0x3F800000), (0xDD800000, 0x40A00000)] ++
    List.replicate 12 (0, 0))

/-- Chapter 05's example of one NaN and one overflow, FAST and STRICT (R96, R108, R109). -/
theorem test_one_nan_one_overflow :
    (swept 130 nanLanes).word = 0x842700000200000000000000BF600000 ∧
    (strictSweep .rne nanLanes 0 0 0 none).1 = 0x7FC00042 ∧
    (strictSweep .rne (nanLanes.take 2) 0 0 0 none).1 = 0x7F800000 ∧
    (strictWord 0x7FC00042).word = 0x8600000000000000000000007FC00042 ∧
    (strictSweep .rne (edge 0) 0 0 0 none).1 = 0x80000000 ∧ (strictSweep .ru (edge 0) 0 0 0 none).1 = 1 := by
  decide +kernel

/-- Chapter 07's example: three adds into an exact cell, in two orders, and one that sets LOSS (R150, R151). -/
theorem test_exact_cell :
    (let add (x : Acc) (c : Nat) : Acc := x.xadd (Fmt.s32.value c)
     ([0x41400000, 0xC0A00000, 0x2F800000].foldl add (xinitCell 0x3D8)).word = 0x83D80000000000000000070000000100 ∧
     ([0xC0A00000, 0x2F800000].foldl add (xinitCell 0x3D8)).word = 0x83D8FFFFFFFFFFFFFFFFFB0000000100 ∧
     ([0xC0A00000, 0x2F800000, 0x20000000, 0x41400000].foldl add (xinitCell 0x3D8)).word =
       0xA3D80000000000000000070000000100) := by decide +kernel

/-- Chapter 08's example: an object byte's place in its stack (R171, R172). -/
theorem test_interleave :
    (let gs := (List.range 4).flatMap fun h => (List.range 64).map fun p => 96 * (h + 4) + p
     let pa := (locateIn (interleave gs) 0x123456780).getD 0
     let sa := stackAddr pa
     (stackOf pa, sa, saPseudoChannel sa, saBank sa, saRow sa, saPair sa)) = (6, 0x541234780, 44, 0x27, 5380, 2) := by
  decide +kernel

/-- Chapter 12's example: the handle of an object (R276). -/
theorem test_handle :
    objHandle 0x00123 7 = 0x00700123 ∧ objIndex 0x00700123 = 0x123 ∧ objGen 0x00800123 = 8 := by decide

end Sys2Proof.Tests
end

/-! PROOFS. The register window of BAR0 (R5–R10): reserved offsets, the two words of a 64-bit access, and the event
registers that a 1 clears. -/

namespace Sys2Proof.Machine
open Sys2Proof

/-! ## The arms of the register accesses -/

theorem exec_registerWrite (off : BitVec 26) (v hw : Word) (line : BitVec 35) (high : Option (Word × Word)) (s : State) :
    exec (.registerWrite off v hw line high) s = execRegisterWrite off v hw s line high := rfl

theorem exec_rcRegisterRead (off : BitVec 26) (hw : Word) (high : Option Word) (s : State) :
    exec (.rcRegisterRead off hw high) s = execRcRegisterRead off hw s high := rfl

/-! ## The reserved range (R10) -/

section
/- No block of R277 reaches past 0x2FF_FFFF. -/
variable {off : Nat} (h : 0x3000000 ≤ off)
include h

theorem eventReg_reserved : eventReg off = none := by
  simp (disch := omega) only [eventReg, if_neg, List.findSome?, id]

theorem Dev.readReg_reserved (d : Dev) : d.readReg off = 0 := by
  simp (disch := omega) only [Dev.readReg, Bool.and_eq_true, decide_eq_true_eq, if_neg]

theorem Dev.latchHi_reserved (d : Dev) : d.latchHi off = d := by
  rw [Dev.latchHi, if_neg, if_neg, if_neg, if_neg] <;> omega

theorem Dev.clearRc_reserved (d : Dev) (hw : Word) : d.clearRc off hw = d := by
  simp (disch := omega) only [Dev.clearRc, Bool.and_eq_true, decide_eq_true_eq, if_neg]

theorem Dev.writeReg_reserved (d : Dev) (v hw : Word) (line : BitVec 35) : d.writeReg off v hw line = d := by
  simp (disch := omega) only [Dev.writeReg, Bool.and_eq_true, decide_eq_true_eq, if_neg]

theorem Dev.hostRead_reserved (d : Dev) (hw : Word) : d.hostRead off hw = (0, d) := by
  simp only [Dev.hostRead, Dev.readReg_reserved h, Dev.latchHi_reserved h, Dev.clearRc_reserved h, ite_self]

theorem doRegisterWrite_reserved (d : Dev) (v hw : Word) (line : BitVec 35) : doRegisterWrite off v hw line d = d := by
  simp only [doRegisterWrite, eventReg_reserved h, Dev.writeReg_reserved h, ite_self]

end

/-! ## An answer on the bus is seen by no other access (R9)

The two words of a 64-bit access are two accesses: the first one's answer changes neither what the second reads nor what
it latches and clears. -/

section
variable (d : Dev) (w : Word) (n o : Nat)

@[simp] theorem Dev.survey_answer : (d.answer w).survey = d.survey := rfl
@[simp] theorem Dev.readTide_answer : (d.answer w).readTide o = d.readTide o := rfl
@[simp] theorem Dev.readPlan_answer : (d.answer w).readPlan o = d.readPlan o := rfl
@[simp] theorem Dev.readDbl_answer : (d.answer w).readDbl o = d.readDbl o := rfl
@[simp] theorem Dev.readObjReg_answer : (d.answer w).readObjReg o = d.readObjReg o := rfl
@[simp] theorem Dev.readMem_answer : (d.answer w).readMem o = d.readMem o := rfl
@[simp] theorem Dev.readMcx_answer : (d.answer w).readMcx o = d.readMcx o := rfl
@[simp] theorem Dev.readSec_answer : (d.answer w).readSec o = d.readSec o := rfl
@[simp] theorem Dev.readLnk_answer : (d.answer w).readLnk o = d.readLnk o := rfl
@[simp] theorem Dev.readStl_answer : (d.answer w).readStl o = d.readStl o := rfl
@[simp] theorem Dev.readFlt_answer : (d.answer w).readFlt o = d.readFlt o := rfl
@[simp] theorem Dev.readRst_answer : (d.answer w).readRst o = d.readRst o := rfl
@[simp] theorem Dev.readLcs_answer : (d.answer w).readLcs o = d.readLcs o := rfl
@[simp] theorem Dev.readDbg_answer : (d.answer w).readDbg o = d.readDbg o := rfl
@[simp] theorem Dev.readPwr_answer : (d.answer w).readPwr o = d.readPwr o := rfl
@[simp] theorem Dev.readThm_answer : (d.answer w).readThm o = d.readThm o := rfl
@[simp] theorem Dev.readNum_answer : (d.answer w).readNum o = d.readNum o := rfl
@[simp] theorem Dev.readClr_answer : (d.answer w).readClr n o = d.readClr n o := rfl
@[simp] theorem Dev.readFnc_answer : (d.answer w).readFnc n o = d.readFnc n o := rfl

theorem Dev.readReg_answer (off : Nat) : (d.answer w).readReg off = d.readReg off := by
  unfold Dev.readReg
  rw [survey_answer, readTide_answer, readPlan_answer, readClr_answer, readDbl_answer, readFnc_answer,
    readObjReg_answer, readMem_answer, readMcx_answer, readSec_answer, readLnk_answer, readStl_answer,
    readFlt_answer, readRst_answer, readLcs_answer, readDbg_answer, readPwr_answer, readThm_answer, readNum_answer]

theorem Dev.latchHi_answer (off : Nat) : (d.answer w).latchHi off = (d.latchHi off).answer w := by
  unfold Dev.latchHi; split_ifs <;> rfl

variable (hw : Word)

@[simp] theorem Dev.rcTide_answer : (d.answer w).rcTide o hw = (d.rcTide o hw).answer w := by
  unfold Dev.rcTide; split <;> rfl
@[simp] theorem Dev.rcThm_answer : (d.answer w).rcThm o hw = (d.rcThm o hw).answer w := by
  unfold Dev.rcThm; split_ifs <;> rfl
@[simp] theorem Dev.rcStack_answer : (d.answer w).rcStack n o hw = (d.rcStack n o hw).answer w := by
  unfold Dev.rcStack; split <;> rfl
@[simp] theorem Dev.rcMemClr_answer : (d.answer w).rcMemClr n o hw = (d.rcMemClr n o hw).answer w := by
  unfold Dev.rcMemClr; split <;> rfl
@[simp] theorem Dev.rcFrame_answer : (d.answer w).rcFrame n o hw = (d.rcFrame n o hw).answer w := by
  unfold Dev.rcFrame; split <;> rfl
@[simp] theorem Dev.rcLink_answer : (d.answer w).rcLink n o hw = (d.rcLink n o hw).answer w := by
  unfold Dev.rcLink; split <;> rfl
@[simp] theorem Dev.rcNum_answer : (d.answer w).rcNum n o hw = (d.rcNum n o hw).answer w := by
  unfold Dev.rcNum; split <;> rfl

theorem Dev.clearRc_answer (off : Nat) : (d.answer w).clearRc off hw = (d.clearRc off hw).answer w := by
  simp only [Dev.clearRc, apply_ite (fun x : Dev => x.answer w), rcTide_answer, rcStack_answer, rcMemClr_answer,
    rcFrame_answer, rcLink_answer, rcThm_answer, rcNum_answer]
  rfl

/-- A read returns the same value and leaves the same device under an earlier answer. -/
theorem Dev.hostRead_answer (off : Nat) :
    (d.answer w).hostRead off hw = ((d.hostRead off hw).1, (d.hostRead off hw).2.answer w) := by
  simp only [Dev.hostRead, readReg_answer, latchHi_answer, clearRc_answer]
  split_ifs <;> rfl

end

/-! ## The two words of a 64-bit access (R9) -/

/-- The second word of an aligned 64-bit access stands 4 bytes higher, with no wrap. -/
theorem toNat_add_four {off : BitVec 26} (h : off.toNat % 8 = 0) : (off + 4).toNat = off.toNat + 4 := by
  bv_omega

/-- A 64-bit read is the two 32-bit reads, the first one's answer its low word and the second's its high word. -/
theorem doRead64_eq (off : Nat) (hw hw' : Word) (d : Dev) :
    let t := doRegisterRead off hw d
    let u := doRegisterRead (off + 4) hw' t
    doRead64 off hw hw' d =
      { u with bus := { u.bus with readData := t.bus.readData, readHigh := u.bus.readData } } := by
  simp only [doRead64, doRegisterRead, Dev.hostRead_answer]
  rfl

/-! ## A read leaves the pins alone -/

section
variable (d : Dev) (n o : Nat) (hw : Word)

@[simp] theorem Dev.rcTide_pins : (d.rcTide o hw).pins = d.pins := by unfold Dev.rcTide; split <;> rfl
@[simp] theorem Dev.rcThm_pins : (d.rcThm o hw).pins = d.pins := by unfold Dev.rcThm; split_ifs <;> rfl
@[simp] theorem Dev.rcStack_pins : (d.rcStack n o hw).pins = d.pins := by unfold Dev.rcStack; split <;> rfl
@[simp] theorem Dev.rcMemClr_pins : (d.rcMemClr n o hw).pins = d.pins := by unfold Dev.rcMemClr; split <;> rfl
@[simp] theorem Dev.rcFrame_pins : (d.rcFrame n o hw).pins = d.pins := by unfold Dev.rcFrame; split <;> rfl
@[simp] theorem Dev.rcLink_pins : (d.rcLink n o hw).pins = d.pins := by unfold Dev.rcLink; split <;> rfl
@[simp] theorem Dev.rcNum_pins : (d.rcNum n o hw).pins = d.pins := by unfold Dev.rcNum; split <;> rfl

theorem Dev.clearRc_pins (off : Nat) : (d.clearRc off hw).pins = d.pins := by
  simp only [Dev.clearRc, apply_ite Dev.pins, rcTide_pins, rcStack_pins, rcMemClr_pins, rcFrame_pins, rcLink_pins,
    rcThm_pins, rcNum_pins, ite_self]

theorem Dev.latchHi_pins (off : Nat) : (d.latchHi off).pins = d.pins := by
  simp only [Dev.latchHi, apply_ite Dev.pins, ite_self]

theorem doRegisterRead_pins (off : Nat) : (doRegisterRead off hw d).pins = d.pins := by
  unfold doRegisterRead Dev.hostRead Dev.answer
  split_ifs <;> simp [Dev.clearRc_pins, Dev.latchHi_pins]

theorem doRegisterRead_running (off : Nat) : (doRegisterRead off hw d).running = d.running := by
  simp only [Dev.running, doRegisterRead_pins]

end

/-! ## The event registers (R6, R390) -/

theorem getLsbD_setBit {w : Nat} (v : BitVec w) (k : Nat) {i : Nat} (hi : i < w) :
    (setBit v k).getLsbD i = (v.getLsbD i || decide (i = k)) := by
  rw [setBit, BitVec.getLsbD_or, BitVec.getLsbD_ofNat, Nat.testBit_two_pow]
  simp [hi, eq_comm]

theorem mem_bitsOf {v n i : Nat} : i ∈ bitsOf v n ↔ i < n ∧ v.testBit i = true := by
  simp [bitsOf]

/-- ALERT_N is set to whether an alerting bit stands. -/
theorem Dev.updateAlert_eq (d : Dev) :
    d.updateAlert =
      { d with pins := { d.pins with alertN := d.ev.alertSrc != 0 }, outbox := d.updateAlert.outbox } := by
  unfold Dev.updateAlert; dsimp only; split <;> rfl

@[simp] theorem Dev.updateAlert_ev (d : Dev) : d.updateAlert.ev = d.ev := by rw [Dev.updateAlert_eq]

/-- Of the pins, an event changes ALERT_N alone. -/
theorem Dev.raise_alertN (d : Dev) (b : Blk) (k : Nat) :
    ∃ e a o, d.raise b k = { d with ev := e, pins := { d.pins with alertN := a }, outbox := o } := by
  unfold Dev.raise
  dsimp only
  split <;> (rw [Dev.updateAlert_eq]; exact ⟨_, _, _, rfl⟩)

/-- The device after the events `l` of one block. -/
def Dev.raiseAll (d : Dev) (b : Blk) (l : List Nat) : Dev := l.foldl (fun d i => d.raise b i) d

theorem Dev.raiseAll_cons (d : Dev) (b : Blk) (k : Nat) (l : List Nat) :
    d.raiseAll b (k :: l) = (d.raise b k).raiseAll b l := rfl

section
variable (d : Dev) (b : Blk) (l : List Nat)

/-- Events set their bits, and no others. -/
theorem Dev.raiseAll_bit {i : Nat} (hi : i < 32) :
    ((d.raiseAll b l).ev.get b).ev.getLsbD i = ((d.ev.get b).ev.getLsbD i || decide (i ∈ l)) := by
  induction l generalizing d with
  | nil => simp [raiseAll]
  | cons k l ih =>
    have h := ih (d.raise b k)
    rw [Dev.raise_ev, Events.get_set_self, getLsbD_setBit _ _ hi] at h
    simpa [raiseAll, Bool.or_assoc] using h

theorem Dev.raiseAll_en : ((d.raiseAll b l).ev.get b).en = (d.ev.get b).en := by
  induction l generalizing d with
  | nil => rfl
  | cons k l ih => exact (ih (d.raise b k)).trans (by rw [Dev.raise_ev, Events.get_set_self])

/-- Events of one block leave the other blocks' registers alone. -/
theorem Dev.raiseAll_other {c : Blk} (h : c ≠ b) : (d.raiseAll b l).ev.get c = d.ev.get c := by
  induction l generalizing d with
  | nil => rfl
  | cons k l ih => exact (ih (d.raise b k)).trans (by rw [Dev.raise_ev, Events.get_set_ne _ _ h])

/-- After events, ALERT_N follows the event registers; beside these and the outbox nothing changes. -/
theorem Dev.raiseAll_frame :
    (d.raiseAll b l).updateAlert =
      { d with
        ev := (d.raiseAll b l).ev, pins := { d.pins with alertN := (d.raiseAll b l).ev.alertSrc != 0 },
        outbox := (d.raiseAll b l).updateAlert.outbox } := by
  induction l generalizing d with
  | nil => exact d.updateAlert_eq
  | cons k l ih =>
    obtain ⟨e, a, o, hr⟩ := d.raise_alertN b k
    have h := ih (d.raise b k)
    rw [← raiseAll_cons] at h
    rw [h, hr]

end

section
variable (d : Dev) (b : Blk) (v hw : Word)

/-- A write of an EVENT register: the written bits clear, then the cycle's own events occur. -/
theorem Dev.writeEvent_eq :
    d.writeEvent b v hw =
      (Dev.raiseAll { d with ev := d.ev.set b { d.ev.get b with ev := (d.ev.get b).ev &&& ~~~v } } b
        (bitsOf hw.toNat b.defined)).updateAlert := rfl

/-- R6: a bit written 1 clears, and one that hardware sets in the same cycle stays set. -/
theorem Dev.writeEvent_bit {i : Nat} (hi : i < 32) :
    ((d.writeEvent b v hw).ev.get b).ev.getLsbD i =
      (((d.ev.get b).ev.getLsbD i && !v.getLsbD i) || (hw.getLsbD i && decide (i < b.defined))) := by
  rw [writeEvent_eq, updateAlert_ev, raiseAll_bit _ _ _ hi, Events.get_set_self]
  simp only [BitVec.getLsbD_and, BitVec.getLsbD_not, hi, decide_true, Bool.true_and, mem_bitsOf, Bool.decide_and,
    Bool.decide_eq_true, BitVec.testBit_toNat, Bool.and_comm (decide (i < b.defined))]

theorem Dev.writeEvent_en : ((d.writeEvent b v hw).ev.get b).en = (d.ev.get b).en := by
  rw [writeEvent_eq, updateAlert_ev, raiseAll_en, Events.get_set_self]

theorem Dev.writeEvent_other {c : Blk} (h : c ≠ b) : (d.writeEvent b v hw).ev.get c = d.ev.get c := by
  rw [writeEvent_eq, updateAlert_ev, raiseAll_other _ _ _ h, Events.get_set_ne _ _ h]

/-- R390: ALERT_N follows the event registers; beside these and the outbox nothing changes. -/
theorem Dev.writeEvent_frame :
    d.writeEvent b v hw =
      { d with
        ev := (d.writeEvent b v hw).ev, pins := { d.pins with alertN := (d.writeEvent b v hw).ev.alertSrc != 0 },
        outbox := (d.writeEvent b v hw).outbox } := by
  rw [writeEvent_eq, updateAlert_ev]
  exact raiseAll_frame _ _ _

end

theorem doRegisterWrite_event {off : Nat} {b : Blk} (ha : off % 4 = 0) (he : eventReg off = some (b, false))
    (v hw : Word) (line : BitVec 35) (d : Dev) : doRegisterWrite off v hw line d = d.writeEvent b v hw := by
  simp only [doRegisterWrite, ha, he, ne_eq, not_true_eq_false, if_false]

/-! ## The window on a running device -/

section
variable {s : State} (hr : s.dev.running = true)
include hr

theorem exec_registerWrite_running (off : BitVec 26) (v hw : Word) (line : BitVec 35) :
    exec (.registerWrite off v hw line) s = .next { s with dev := doRegisterWrite off.toNat v hw line s.dev } := by
  rw [exec_registerWrite, execRegisterWrite, act_running hr]

theorem exec_registerWrite64_running (off : BitVec 26) (v hw w hw' : Word) (line : BitVec 35) :
    exec (.registerWrite off v hw line (some (w, hw'))) s =
      .next { s with dev := doRegisterWrite (off.toNat + 4) w hw' line (doRegisterWrite off.toNat v hw line s.dev) } := by
  rw [exec_registerWrite, execRegisterWrite, act_running hr]

theorem exec_rcRegisterRead_running (off : BitVec 26) (hw : Word) :
    exec (.rcRegisterRead off hw) s = .next { s with dev := doRegisterRead off.toNat hw s.dev } := by
  rw [exec_rcRegisterRead, execRcRegisterRead, act_running hr]

theorem exec_rcRegisterRead64_running (off : BitVec 26) (hw hw' : Word) :
    exec (.rcRegisterRead off hw (some hw')) s = .next { s with dev := doRead64 off.toNat hw hw' s.dev } := by
  rw [exec_rcRegisterRead, execRcRegisterRead, act_running hr]

theorem reserved_accesses {off : BitVec 26} (h : 0x3000000 ≤ off.toNat) (v hw : Word) :
    exec (.bar0ReservedAccess off false) s = .next { s with dev := s.dev.answer 0 } ∧
      exec (.bar0ReservedAccess off true) s = .next s ∧
      exec (.rcRegisterRead off hw) s = .next { s with dev := s.dev.answer 0 } ∧
      exec (.registerWrite off v hw) s = .next s := by
  refine ⟨act_running hr _, act_running hr _, ?_, ?_⟩
  · rw [exec_rcRegisterRead_running hr, doRegisterRead, Dev.hostRead_reserved h]
  · rw [exec_registerWrite_running hr, doRegisterWrite_reserved h]

theorem misaligned_accesses (off : BitVec 26) (bytes : Nat) :
    exec (.bar0MisalignedAccess off bytes false) s = .next { s with dev := s.dev.answer 0 } ∧
      exec (.bar0MisalignedAccess off bytes true) s = .next s :=
  ⟨act_running hr _, act_running hr _⟩

/-- R9: a 64-bit write is the two writes in the order of their addresses, while the first leaves the device running. -/
theorem write64_is_two_writes {off : BitVec 26} (ha : off.toNat % 8 = 0) (v hw w hw' : Word) (line : BitVec 35) :
    ∃ t, exec (.registerWrite off v hw line) s = .next t ∧
      (t.dev.running = true → exec (.registerWrite off v hw line (some (w, hw'))) s =
        exec (.registerWrite (off + 4) w hw' line) t) := by
  refine ⟨_, exec_registerWrite_running hr off v hw line, fun ht => ?_⟩
  rw [exec_registerWrite_running ht, exec_registerWrite64_running hr, toNat_add_four ha]

/-- R9: a 64-bit read is the two reads in the order of their addresses. -/
theorem read64_is_two_reads {off : BitVec 26} (ha : off.toNat % 8 = 0) (hw hw' : Word) :
    ∃ t u, exec (.rcRegisterRead off hw) s = .next t ∧ exec (.rcRegisterRead (off + 4) hw') t = .next u ∧
      exec (.rcRegisterRead off hw (some hw')) s = .next { u with dev := { u.dev with bus := { u.dev.bus with
        readData := t.dev.bus.readData, readHigh := u.dev.bus.readData } } } := by
  have ht := (doRegisterRead_running s.dev hw off.toNat).trans hr
  refine ⟨_, _, exec_rcRegisterRead_running hr off hw, exec_rcRegisterRead_running ht (off + 4) hw', ?_⟩
  rw [exec_rcRegisterRead64_running hr, doRead64_eq, toNat_add_four ha]

/-- R6, R390: a write of an EVENT register. -/
theorem event_write {off : BitVec 26} {b : Blk} (ha : off.toNat % 4 = 0)
    (he : eventReg off.toNat = some (b, false)) (v hw : Word) :
    exec (.registerWrite off v hw) s = .next { s with dev := s.dev.writeEvent b v hw } := by
  rw [exec_registerWrite_running hr, doRegisterWrite_event ha he]

end

/-- Settles O2: on a running device each access is its effect, so the reserved range answers 0 and discards (R10), a
64-bit access is two of 32 bits (R9), and an event register's write is `Dev.writeEvent` (R6, R390). -/
theorem registerWindow : Obligations.RegisterWindow := by
  refine ⟨fun s off bytes v hw hr => ⟨fun h => reserved_accesses hr h v hw, fun _ => misaligned_accesses hr off bytes⟩,
    fun s off v hw w hw' line hr ha => ⟨write64_is_two_writes hr ha v hw w hw' line, read64_is_two_reads hr ha hw hw'⟩,
    fun s off b v hw hr ha he => ⟨s.dev.writeEvent b v hw, event_write hr ha he v hw, ?_⟩⟩
  exact ⟨fun i hi => s.dev.writeEvent_bit b v hw hi, s.dev.writeEvent_en b v hw,
    fun c hc => s.dev.writeEvent_other b v hw hc, s.dev.writeEvent_frame b v hw⟩

end Sys2Proof.Machine

/-! PROOFS. The marks of a source (R25, R27, R33, R37, R40): what the effects of a mark leave alone, what a device that
takes a mark shows, and the commands that make a source emit one. -/

namespace Sys2Proof

/-! ## A property of one entry of a sparse table -/

section
variable {α : Type} [DecidableEq α] {d : α} {P : α → Prop} (hd : ¬ P d)
include hd

/-- A property that the default lacks and that `f` keeps survives a change by `f` of any one entry. -/
theorem Tab.get_mod_of {f : α → α} (hf : ∀ v, P v → P (f v)) (t : Tab α) (n : Nat) {k : Nat}
    (h : P (Tab.get d t k)) : P (Tab.get d (Tab.mod d t n f) k) := by
  by_cases hk : k = n
  · subst hk
    have hv := hf _ h
    rwa [Tab.mod, Tab.get_set_self d t k fun e => hd (e ▸ hv)]
  · rwa [Tab.mod, Tab.get_set_ne d t _ hk]

/-- It survives a change by `f` of every entry. -/
theorem Tab.get_each_of {f : Nat → α → α} (hf : ∀ n v, P v → P (f n v)) (t : Tab α) {k : Nat}
    (h : P (Tab.get d t k)) : P (Tab.get d (Tab.each d t f) k) := by
  induction t with
  | nil => exact absurd h hd
  | cons p t ih =>
    by_cases hp : p.1 = k
    · subst hp
      have hv := hf p.1 p.2 (by simpa [Tab.get] using h)
      have hne : f p.1 p.2 ≠ d := fun e => hd (e ▸ hv)
      simpa [Tab.each, hne, Tab.get] using hv
    · rw [Tab.get, if_neg hp] at h
      have hi := ih h
      unfold Tab.each at hi ⊢
      by_cases hv : f p.1 p.2 = d <;> simpa [hv, Tab.get, hp] using hi

end

end Sys2Proof

namespace Sys2Proof.Machine
open Sys2Proof

/-! ## What the effects of a mark leave alone

The schedule and the return record that follow a mark write many blocks. `MarkKeeps` says what they all leave as it is;
each operation on the way keeps it, and so does their composition. -/

/-- An ACTIVE or HALTED clearing: the effects of a mark leave it one of the two. -/
def Clearing.Live (c : Clearing) : Prop := c.st = .active ∨ c.st = .halted

/-- The tide registers, with those set aside that deadlines and return records write. -/
def Tide.settled (t : Tide) : Tide :=
  { t with
    hostSent := false, lastMarks := 0, lastReason := 0, lateCount := 0, upward := none, window := none, needs := [] }

/-- From `d` to `d'` the registers of the mark, the plan, the fuses, the debug port, the session, the dies' states and
the read registers stay; no event bit clears; no tide record leaves its queue; a HALTED clearing stays HALTED, and an
ACTIVE one stays ACTIVE or halts. -/
structure MarkKeeps (d d' : Dev) : Prop where
  tide : d'.tide.settled = d.tide.settled
  plan : d'.plan = d.plan
  lcs : d'.lcs = d.lcs
  dbg : d'.dbg = d.dbg
  spdm : d'.spdm = d.spdm
  thm : d'.thm = d.thm
  bus : d'.bus = d.bus
  ev : ∀ b i, (d.ev.get b).ev.getLsbD i = true → (d'.ev.get b).ev.getLsbD i = true
  tideQ : ∀ l r, r ∈ (d.link l).tideQ → r ∈ (d'.link l).tideQ
  halted : ∀ n, (d.clr n).st = .halted → (d'.clr n).st = .halted
  live : ∀ n, (d.clr n).Live → (d'.clr n).Live

/-- The parts of a device that `MarkKeeps` speaks of. -/
def Dev.markFrame (d : Dev) :=
  (d.tide.settled, d.plan, d.lcs, d.dbg, d.spdm, d.thm, d.bus, d.ev, d.lnk.links, d.clrs)

namespace MarkKeeps
variable {a b c : Dev}

/-- An operation that writes none of these parts. -/
theorem of_frame (h : b.markFrame = a.markFrame) : MarkKeeps a b := by
  simp only [Dev.markFrame, Prod.mk.injEq] at h
  obtain ⟨ht, hp, hl, hd, hs, hm, hb, he, hk, hc⟩ := h
  refine ⟨ht, hp, hl, hd, hs, hm, hb, ?_, ?_, ?_, ?_⟩ <;> simp only [he, hk, hc, Dev.link, Dev.clr] <;>
    exact fun _ => by simp

theorem refl (d : Dev) : MarkKeeps d d := of_frame rfl

theorem trans (h : MarkKeeps a b) (g : MarkKeeps b c) : MarkKeeps a c where
  tide := g.tide.trans h.tide
  plan := g.plan.trans h.plan
  lcs := g.lcs.trans h.lcs
  dbg := g.dbg.trans h.dbg
  spdm := g.spdm.trans h.spdm
  thm := g.thm.trans h.thm
  bus := g.bus.trans h.bus
  ev := fun b i hi => g.ev b i (h.ev b i hi)
  tideQ := fun l r hr => g.tideQ l r (h.tideQ l r hr)
  halted := fun n hn => g.halted n (h.halted n hn)
  live := fun n hn => g.live n (h.live n hn)

/-- Such an operation before one that keeps them. -/
theorem after (g : MarkKeeps b c) (h : b.markFrame = a.markFrame) : MarkKeeps a c := (of_frame h).trans g

/-- A tide register that is not set aside reads as before. -/
theorem reg (h : MarkKeeps a b) {α : Type} (f : Tide → α) (hf : ∀ t : Tide, f t.settled = f t) :
    f b.tide = f a.tide :=
  (hf _).symm.trans ((congrArg f h.tide).trans (hf _))

theorem foldl {α : Type} {f : Dev → α → Dev} (h : ∀ d x, MarkKeeps d (f d x)) (l : List α) (d : Dev) :
    MarkKeeps d (l.foldl f d) := by
  induction l generalizing d with
  | nil => exact refl d
  | cons x l ih => exact (h d x).trans (ih (f d x))

theorem ite {p : Prop} [Decidable p] (h : MarkKeeps a b) (g : MarkKeeps a c) : MarkKeeps a (if p then b else c) := by
  split
  · exact h
  · exact g

theorem ite_fst {p : Prop} [Decidable p] {x y : Dev × Bool} (h : MarkKeeps a x.1) (g : MarkKeeps a y.1) :
    MarkKeeps a (if p then x else y).1 := by
  split
  · exact h
  · exact g

/-- The same writes of tide and plan registers on both sides. -/
theorem update (h : MarkKeeps a b) (t : Tide) (p : PlanRegs) :
    MarkKeeps { a with tide := t, plan := p } { b with tide := t, plan := p } :=
  { h with tide := rfl, plan := rfl }

end MarkKeeps

/-! ## Tables, events and outputs -/

section
variable (d : Dev)

theorem Dev.modClr_keeps (n : Nat) {f : Clearing → Clearing} (hh : ∀ c, c.st = .halted → (f c).st = .halted)
    (hl : ∀ c, c.Live → (f c).Live) : MarkKeeps d (d.modClr n f) :=
  { MarkKeeps.refl d with
    halted := fun _ h => Tab.get_mod_of (P := fun c : Clearing => c.st = .halted) (by decide) hh d.clrs n h
    live := fun _ h => Tab.get_mod_of (P := Clearing.Live) (by unfold Clearing.Live; decide) hl d.clrs n h }

theorem Dev.modNum_keeps (n : Nat) (f : Num → Num) : MarkKeeps d (d.modNum n f) :=
  d.modClr_keeps n (fun _ h => h) fun _ h => h

theorem Dev.modLink_keeps (n : Nat) {f : Link → Link} (hf : ∀ k r, r ∈ k.tideQ → r ∈ (f k).tideQ) :
    MarkKeeps d (d.modLink n f) :=
  { MarkKeeps.refl d with
    tideQ := fun _ r h =>
      Tab.get_mod_of (P := fun k : Link => r ∈ k.tideQ) List.not_mem_nil (fun k => hf k r) d.lnk.links n h }

/-- A link's entry that `f` does not turn into the reset entry reads as `f` made it. -/
theorem Dev.modLink_link (l : Nat) {f : Link → Link} (h : f (d.link l) ≠ Link.reset) :
    (d.modLink l f).link l = f (d.link l) :=
  Tab.get_set_self Link.reset d.lnk.links l h

theorem Dev.eachLink_keeps {f : Nat → Link → Link} (hf : ∀ n k, (f n k).tideQ = k.tideQ) :
    MarkKeeps d { d with lnk := { d.lnk with links := Tab.each Link.reset d.lnk.links f } } :=
  { MarkKeeps.refl d with
    tideQ := fun _ r h =>
      Tab.get_each_of (P := fun k : Link => r ∈ k.tideQ) List.not_mem_nil (fun n k hk => (hf n k).symm ▸ hk)
        d.lnk.links h }

theorem Dev.raise_keeps (b : Blk) (k : Nat) : MarkKeeps d (d.raise b k) := by
  have hev : ∀ c i, (d.ev.get c).ev.getLsbD i = true → ((d.raise b k).ev.get c).ev.getLsbD i = true := by
    intro c i hi
    rw [Dev.raise_ev]
    by_cases hc : c = b
    · subst hc
      simp [setBit, hi]
    · rwa [Events.get_set_ne _ _ hc]
  obtain ⟨e, a, o, h⟩ := d.raise_alertN b k
  rw [h] at hev ⊢
  exact { MarkKeeps.refl d with ev := hev }

theorem Dev.raiseIf_keeps (p : Bool) (b : Blk) (k : Nat) : MarkKeeps d (d.raiseIf p b k) :=
  .ite (d.raise_keeps b k) (.refl d)

/-! ## Commands that complete or abort -/

theorem Dev.modTile_keeps (t : Nat) (f : TileSt → TileSt) : MarkKeeps d (d.modTile t f) := .of_frame rfl

theorem Dev.dropRefs_keeps (hs : List Word) : MarkKeeps d (d.dropRefs hs) := by
  refine .foldl (fun d h => ?_) hs d
  exact .of_frame rfl

theorem Dev.completeCmd_keeps (q : Nat) (c : Cmd) (st : Status) (det : Detail) (info : BitVec 64) (rank : BitVec 21) :
    MarkKeeps d (d.completeCmd q c st det info rank) := by
  unfold Dev.completeCmd
  split
  · exact .of_frame rfl
  · exact .after ((Dev.dropRefs_keeps _ c.refs).trans (.of_frame rfl)) rfl

theorem Dev.dropProg_keeps (t : Nat) : MarkKeeps d (d.dropProg t) := by
  refine .trans (.foldl (fun d f => ?_) _ d) (Dev.modTile_keeps _ t _)
  exact .foldl (fun d x => d.modTile_keeps x.1 _) f.start d

theorem Dev.releaseSlot_keeps (i : StageIn) : MarkKeeps d (d.releaseSlot i) := by
  have hc : MarkKeeps d (d.modColl i.slot.toNat fun _ => CollSlot.reset) := .of_frame rfl
  unfold Dev.releaseSlot
  dsimp only
  split
  · exact hc.trans (Dev.modLink_keeps _ _ fun _ _ h => h)
  · exact hc

theorem Dev.dropFlits_keeps (q : Nat) (seq : Word) : MarkKeeps d (d.dropFlits q seq) :=
  d.eachLink_keeps fun _ _ => rfl

theorem Dev.closeXfer_keeps (q : Nat) (seq : Word) : MarkKeeps d (d.closeXfer q seq) := by
  have hslots := MarkKeeps.foldl Dev.releaseSlot_keeps (d.loneSlots q seq) d
  exact hslots.trans (.after (Dev.dropFlits_keeps _ q seq) rfl)

theorem Dev.dropXfer_keeps (q : Nat) (seq : Word) : MarkKeeps d (d.dropXfer q seq) := by
  refine .trans ?_ (Dev.closeXfer_keeps _ q seq)
  split
  · exact .refl d
  · exact .foldl Dev.releaseSlot_keeps _ d

theorem Dev.freeLaunch_keeps (id : Nat) : MarkKeeps d (d.freeLaunch id) := .of_frame rfl

theorem Dev.kill_keeps (q : Nat) (c : Cmd) (st : Status) (det : Detail) : MarkKeeps d (d.kill q c st det) := by
  have hprog : MarkKeeps d (match d.progTile q c.seq with | some t => d.dropProg t | none => d) := by
    split
    · exact d.dropProg_keeps _
    · exact .refl d
  have hlaunch (e : Dev) : MarkKeeps e (match e.launchOf q c.seq with | some l => e.freeLaunch l.id | none => e) := by
    split
    · exact e.freeLaunch_keeps _
    · exact .refl e
  exact hprog.trans ((hlaunch _).trans ((Dev.dropXfer_keeps _ q c.seq).trans (Dev.completeCmd_keeps _ q c _ _ _ _)))

theorem Dev.abort_keeps (q : Nat) (c : Cmd) (st : Status) (det : Detail) : MarkKeeps d (d.abort q c st det) := by
  unfold Dev.abort
  split
  · split
    · exact .ite (d.kill_keeps q c st det) (d.modTile_keeps _ _)
    · exact d.kill_keeps q c st det
  · exact d.kill_keeps q c st det

theorem Dev.abortWhere_keeps (p : Nat → Cmd → Bool) (st : Status) (det : Detail) :
    MarkKeeps d (d.abortWhere p st det) := by
  refine .foldl (fun d x => ?_) _ d
  exact d.abort_keeps x.1 x.2 st det

/-! ## Clearings that halt (R33) -/

/-- The state that a halting clearing shows. -/
def Clearing.halts (c : Clearing) : Clearing :=
  if c.st = .active || (c.st = .halted && ClrSt.halted = .contained) then { c with st := .halted } else c

theorem Clearing.halts_of_live {c : Clearing} (h : c.Live) : c.halts.st = .halted := by
  unfold Clearing.halts
  rcases h with h | h <;> simp [h]

theorem Dev.haltClr_keeps (n : Nat) (st : Status) (det : Detail) : MarkKeeps d (d.haltClr n .halted st det) :=
  (d.modClr_keeps n (f := Clearing.halts) (fun _ h => Clearing.halts_of_live (.inr h))
    fun _ h => .inr (Clearing.halts_of_live h)).trans (Dev.abortWhere_keeps _ _ st det)

theorem Dev.haltAll_keeps (st : Status) (det : Detail) : MarkKeeps d (d.haltAll st det) :=
  .foldl (fun d n => d.haltClr_keeps n st det) _ d

/-- A clearing that was ACTIVE has halted. -/
theorem Dev.haltClr_halts {n : Nat} (st : Status) (det : Detail) (h : (d.clr n).Live) :
    ((d.haltClr n .halted st det).clr n).st = .halted := by
  have hc : (d.clr n).halts.st = .halted := Clearing.halts_of_live h
  have hne : (d.clr n).halts ≠ Clearing.reset := fun e => absurd (e ▸ hc) (by decide)
  have hm : ((d.modClr n Clearing.halts).clr n).st = .halted :=
    (congrArg Clearing.st (Tab.get_set_self Clearing.reset d.clrs n hne)).trans hc
  exact (Dev.abortWhere_keeps (d.modClr n Clearing.halts) _ st det).halted n hm

theorem Dev.haltAll_halts {n : Nat} (hn : n < 16) (st : Status) (det : Detail) (h : (d.clr n).Live) :
    ((d.haltAll st det).clr n).st = .halted := by
  obtain ⟨as, bs, hl⟩ := List.append_of_mem (List.mem_range.2 hn)
  have hk (d : Dev) (k : Nat) := d.haltClr_keeps k st det
  rw [Dev.haltAll, hl, List.foldl_append, List.foldl_cons]
  exact (MarkKeeps.foldl hk bs _).halted n (Dev.haltClr_halts _ st det ((MarkKeeps.foldl hk as d).live n h))

/-! ## The schedule at a mark (R33–R36, R113, R220, R330) -/

theorem Dev.latchTraps_keeps : MarkKeeps d d.latchTraps :=
  .foldl (fun d n => d.modNum_keeps n _) _ d

theorem Dev.commitSave_keeps : MarkKeeps d d.commitSave := by
  unfold Dev.commitSave
  split
  · exact .ite (.after (Dev.raise_keeps _ .stl 1) rfl) (.refl d)
  · exact .refl d

theorem Dev.endShadow_keeps : MarkKeeps d d.endShadow := by
  unfold Dev.endShadow
  split
  · exact .ite (.of_frame rfl) (.refl d)
  · exact .refl d

theorem Dev.modSlot_keeps (n : Nat) (f : Slot → Slot) : MarkKeeps d (d.modSlot n f) := .of_frame rfl

theorem Dev.modFrame_keeps (n : Nat) (f : McxFrame → McxFrame) : MarkKeeps d (d.modFrame n f) := .of_frame rfl

theorem Dev.tick_keeps : MarkKeeps d d.tick := .of_frame rfl

theorem Dev.rekeyPair_keeps (n : Nat) : MarkKeeps d (d.rekeyPair n) := by
  unfold Dev.rekeyPair
  split
  · refine .ite (d.modFrame_keeps n _) (.ite (.refl d) ?_)
    exact (d.modSlot_keeps _ _).trans ((Dev.modSlot_keeps _ _ _).trans (Dev.tick_keeps _))
  · exact .refl d

theorem Dev.rekeys_keeps (old : Nat) : MarkKeeps d (d.rekeys old) := by
  unfold Dev.rekeys
  split
  · refine .foldl (fun d k => ?_) _ d
    split
    · exact .ite (d.rekeyPair_keeps _) (.refl d)
    · exact .refl d
  · exact .refl d

theorem Dev.carryPass_keeps (shadow : Bool) : MarkKeeps d (d.carryPass shadow) := by
  unfold Dev.carryPass
  split
  · exact .refl d
  · refine .foldl (fun d r => ?_) _ d
    exact .of_frame rfl

theorem Dev.newInterval_keeps (i base : Nat) : MarkKeeps d (d.newInterval i base) := by
  unfold Dev.newInterval
  split
  · exact .ite (.of_frame rfl) (.refl d)
  · exact .refl d

theorem Dev.beginSave_keeps (p : StandPlan) (deadline : Nat) : MarkKeeps d (d.beginSave p deadline) := .of_frame rfl

theorem Dev.beginShadow_keeps (p : StandPlan) (deadline : Nat) : MarkKeeps d (d.beginShadow p deadline) := .of_frame rfl

/-- A save, a shadow or a deep activity starts, or has nothing to do. -/
theorem Dev.startStrand_keeps (p : StandPlan) (t : PlanTemplate) (a : PlanAct) (i deadline : Nat) :
    MarkKeeps d (d.startStrand p t a i deadline).1 := by
  have shadow : MarkKeeps d ((d.carryPass true).beginShadow p deadline) :=
    (d.carryPass_keeps true).trans (Dev.beginShadow_keeps _ p deadline)
  have saves (e : Dev) : MarkKeeps e ((e.beginSave p deadline).carryPass false) :=
    (e.beginSave_keeps p deadline).trans (Dev.carryPass_keeps _ false)
  have hnew : MarkKeeps d (d.newInterval i (d.instBase t i)) := d.newInterval_keeps i _
  have hdeep : MarkKeeps d { d with stl := { d.stl with deepMan := d.manifestsAt p d.stl.index true } } := .of_frame rfl
  refine .ite_fst ?_ (.ite_fst (.ite_fst hdeep (.refl d)) (.refl d))
  split
  · exact .ite_fst (hnew.trans (saves _)) hnew
  · exact .ite_fst (.ite_fst (.after (Dev.carryPass_keeps _ false) rfl) (.refl d)) (.ite_fst shadow (.refl d))
  · exact .ite_fst shadow (.refl d)

theorem Dev.startRun_keeps (p : StandPlan) (t : PlanTemplate) (a : PlanAct) (i : Nat) (late : Bool) :
    MarkKeeps d (d.startRun p t a i late) :=
  (d.startStrand_keeps p t a i _).trans (.of_frame rfl)

theorem Dev.startWaits_keeps (p : StandPlan) (t : PlanTemplate) (a : PlanAct) : MarkKeeps d (d.startWaits p t a) := by
  refine .foldl (fun d w => ?_) _ d
  exact .ite (.after (Dev.startRun_keeps _ p t a w.inst w.late) rfl) (.refl d)

theorem Dev.startDue_keeps (p : StandPlan) (t : PlanTemplate) (a : PlanAct) (fuel : Nat) :
    MarkKeeps d (Dev.startDue p t a fuel d) := by
  induction fuel generalizing d with
  | zero => exact .refl d
  | succ fuel ih =>
    refine .ite (.trans ?_ (ih _)) (.refl d)
    exact .ite (.after (Dev.startRun_keeps _ p t a _ false) rfl) (.of_frame rfl)

theorem Dev.startAct_keeps (p : StandPlan) (t : PlanTemplate) (a : PlanAct) : MarkKeeps d (d.startAct p t a) :=
  (d.startWaits_keeps p t a).trans (Dev.startDue_keeps _ p t a _)

theorem Dev.startActs_keeps : MarkKeeps d d.startActs := by
  unfold Dev.startActs
  split
  · refine .ite (.foldl (fun d t => ?_) _ d) (.refl d)
    exact .foldl (fun d a => d.startAct_keeps _ t a) t.acts d
  · exact .refl d

theorem Dev.deadlines_keeps : MarkKeeps d d.deadlines :=
  .after (Dev.raiseIf_keeps _ _ .tide 0) rfl

theorem Dev.endTideWaits_keeps : MarkKeeps d d.endTideWaits := by
  refine .foldl (fun d x => ?_) _ d
  exact d.completeCmd_keeps x.1 x.2 .ok .none 0 0

theorem Dev.markCounters_keeps : MarkKeeps d d.markCounters := by
  unfold Dev.markCounters
  dsimp only
  split
  · exact .of_frame rfl
  · exact .of_frame rfl

theorem Dev.schedule_keeps (old : Nat) : MarkKeeps d (d.schedule old) := by
  have hacts (e : Dev) : MarkKeeps e (if e.applyCommits then e else e.startActs) := .ite (.refl e) e.startActs_keeps
  have hsaves (e : Dev) : MarkKeeps e e.commitSave.endShadow := e.commitSave_keeps.trans (Dev.endShadow_keeps _)
  have hend (e : Dev) :
      MarkKeeps e ({ e with stl := { e.stl with deepNeed := BitVec.ofNat 64 e.deepNeed } } : Dev).markCounters :=
    .after (Dev.markCounters_keeps _) rfl
  have hbegin := (d.latchTraps_keeps.trans (hsaves _)).trans ((Dev.rekeys_keeps _ old).trans (hacts _))
  exact hbegin.trans ((Dev.deadlines_keeps _).trans ((Dev.endTideWaits_keeps _).trans (hend _)))

/-! ## Children, outputs and the return record -/

theorem Dev.countChildren_keeps : MarkKeeps d d.countChildren := by
  refine d.eachLink_keeps fun _ k => ?_
  dsimp only
  split <;> rfl

theorem Dev.sendTide_keeps (l : Nat) (r : TideRec) : MarkKeeps d (d.sendTide l r) :=
  d.modLink_keeps l fun _ _ h => List.mem_append_left _ h

theorem Dev.sendReturn_keeps (needs : List Need) : MarkKeeps d (d.sendReturn needs) := by
  unfold Dev.sendReturn
  dsimp only
  refine .ite ?source (.ite ?follower ?none)
  case source => exact .of_frame rfl
  case follower => exact .after (Dev.sendTide_keeps _ _ _) rfl
  case none => exact .of_frame rfl

/-- The outputs of a mark: TIDE_OUT's frame and the auxiliary pulse (R28, R401). -/
theorem Dev.auxPulse_tideOut_frame : ∃ n o, d.auxPulse.tideOut = { d with free := n, outbox := o } := by
  have haux : ∃ o, d.auxPulse = { d with outbox := o } := by
    unfold Dev.auxPulse
    split
    · split
      · exact ⟨_, rfl⟩
      · exact ⟨_, rfl⟩
    · exact ⟨_, rfl⟩
  obtain ⟨o, ho⟩ := haux
  rw [ho, Dev.tideOut]
  split
  · split
    · exact ⟨_, _, rfl⟩
    · exact ⟨_, _, rfl⟩
  · exact ⟨_, _, rfl⟩

end

/-! ## Taking a mark (R30, R33, R66) -/

section
variable (d : Dev) (r : MarkRec) (hop : BitVec 8)

/-- `Splits`, as the device decides it. -/
def Dev.splitsOn : Bool :=
  d.tide.firstSeen && decide ((r.count - r.shift.setWidth 64).toNat < d.tide.pos.toNat)

theorem Dev.splitsOn_iff : d.splitsOn r = true ↔ Splits d r := by
  simp [Dev.splitsOn, Splits]

/-- The tide registers with the record in them, before the position moves. -/
def Dev.markTide : Tide :=
  { d.tide with
    hostReq := heldHost d.tide r.shift, count := r.count, shift := r.shift, pendingSb := r.pending, epoch := r.epoch,
    source := r.source, hop := hop, locked := true, missing := 0, firstSeen := true, auxHiZ := false }

/-- The plan registers at the mark: an armed plan is due from PLAN_APPLY_POS on (R66). -/
def Dev.markPlan : PlanRegs :=
  { d.plan with
    due := d.plan.st == .armed && !d.splitsOn r &&
      decide ((d.plan.applyHi ++ d.plan.applyLo).toNat ≤ (r.count - r.shift.setWidth 64).toNat) }

/-- The device that shows the mark, with its position or TIDE_SPLIT, before the mark's effects. -/
def Dev.shows : Dev :=
  { d with
    tide := { d.markTide r hop with
      split := d.tide.split || d.splitsOn r,
      pos := if d.splitsOn r then d.tide.pos else r.count - r.shift.setWidth 64 }
    plan := d.markPlan r }

/-- The device whose children are counted and whose registers hold the record. -/
def Dev.atMark : Dev := { d.countChildren with tide := d.markTide r hop, plan := d.markPlan r }

variable (needs : List Need)

theorem Dev.takeMark_eq :
    d.takeMark r hop needs =
      let e := (d.atMark r hop).auxPulse.tideOut
      let ns := e.standing needs (r.shift.toNat - (if d.tide.firstSeen then d.tide.shift else r.shift).toNat)
      if d.splitsOn r then
        ((({ e with tide := { e.tide with split := true } } : Dev).raise .tide 6).haltAll .aborted
          .clearingHalted).sendReturn ns
      else
        (({ e with tide := { e.tide with pos := r.count - r.shift.setWidth 64 } } : Dev).schedule
          (if d.tide.firstSeen then d.tide.pos.toNat else (r.count - r.shift.setWidth 64).toNat)).sendReturn ns := rfl

/-- The effects of a mark leave alone what it shows. -/
theorem Dev.takeMark_keeps : MarkKeeps (d.shows r hop) (d.takeMark r hop needs) := by
  obtain ⟨n, o, h⟩ := (d.atMark r hop).auxPulse_tideOut_frame
  have hmark (t : Tide) : MarkKeeps { d with tide := t, plan := d.markPlan r }
      { d.atMark r hop with tide := t, free := n, outbox := o } :=
    (d.countChildren_keeps.update t (d.markPlan r)).trans (.of_frame rfl)
  rw [Dev.takeMark_eq, h, Dev.shows]
  cases hs : d.splitsOn r with
  | true =>
    simp only [if_true, Bool.or_true]
    exact (hmark _).trans
      ((Dev.raise_keeps _ .tide 6).trans ((Dev.haltAll_keeps _ _ _).trans (Dev.sendReturn_keeps _ _)))
  | false =>
    simp only [Bool.false_eq_true, if_false, Bool.or_false]
    exact (hmark _).trans ((Dev.schedule_keeps _ _).trans (Dev.sendReturn_keeps _ _))

/-- A record that splits halts every ACTIVE clearing. -/
theorem Dev.takeMark_halts (hs : Splits d r) {n : Nat} (hn : n < 16) (ha : (d.clr n).st = .active) :
    ((d.takeMark r hop needs).clr n).st = .halted := by
  obtain ⟨m, o, h⟩ := (d.atMark r hop).auxPulse_tideOut_frame
  rw [Dev.takeMark_eq, h]
  simp only [(d.splitsOn_iff r).2 hs, if_true]
  refine (Dev.sendReturn_keeps _ _).halted n (Dev.haltAll_halts _ hn _ _ ((Dev.raise_keeps _ _ _).live n ?_))
  exact .inl ha

theorem Dev.takeMark_tookMark : TookMark d r hop (d.takeMark r hop needs) := by
  have h := d.takeMark_keeps r hop needs
  have hsplit := h.reg Tide.split fun _ => rfl
  have hpos := h.reg Tide.pos fun _ => rfl
  refine ⟨h.reg Tide.count fun _ => rfl, h.reg Tide.shift fun _ => rfl, h.reg Tide.pendingSb fun _ => rfl,
    h.reg Tide.epoch fun _ => rfl, h.reg Tide.source fun _ => rfl, h.reg Tide.hop fun _ => rfl,
    h.reg Tide.locked fun _ => rfl, h.reg Tide.missing fun _ => rfl, h.reg Tide.firstSeen fun _ => rfl,
    fun hs => ?_, fun hs => ?_, ?_, ?_, h.lcs, h.dbg, h.spdm, h.thm, h.bus⟩
  · rw [hsplit, hpos, Dev.shows]
    simp only [(d.splitsOn_iff r).2 hs, if_true, Bool.or_true, true_and]
    exact fun n hn ha => d.takeMark_halts r hop needs hs hn ha
  · rw [hsplit, hpos, Dev.shows]
    simp [mt (d.splitsOn_iff r).1 hs]
  · rw [h.plan, ← d.splitsOn_iff r]
    simp [Dev.shows, Dev.markPlan, and_assoc]
  · rw [h.plan]
    rfl

end

/-! ## A record goes out on links (R30) -/

/-- The record waits on each of the links `ls`. -/
def Dev.sendMarks (d : Dev) (ls : List Nat) (r : MarkRec) : Dev := ls.foldl (fun d l => d.sendTide l (.mark r)) d

section
variable (d : Dev) (ls : List Nat) (r : MarkRec)

theorem Dev.sendMarks_frame : ∃ x, d.sendMarks ls r = { d with lnk := x } := by
  induction ls generalizing d with
  | nil => exact ⟨_, rfl⟩
  | cons l ls ih =>
    obtain ⟨x, h⟩ := ih (d.sendTide l (.mark r))
    exact ⟨x, h⟩

/-- A link holds the record that has just been sent on it: a link with a record that waits is not the reset entry. -/
theorem Dev.sendTide_tideQ (l : Nat) (x : TideRec) : x ∈ ((d.sendTide l x).link l).tideQ := by
  rw [Dev.sendTide, Dev.modLink_link]
  · exact List.mem_append_right _ (List.mem_singleton_self x)
  · exact fun h => List.append_ne_nil_of_right_ne_nil _ (List.cons_ne_nil x []) (congrArg Link.tideQ h)

theorem Dev.sendMarks_forwarded : Forwarded ls r (d.sendMarks ls r) := by
  intro l hl
  obtain ⟨as, bs, rfl⟩ := List.append_of_mem hl
  have hk (d : Dev) (k : Nat) := d.sendTide_keeps k (.mark r)
  rw [Dev.sendMarks, List.foldl_append, List.foldl_cons]
  exact (MarkKeeps.foldl hk bs _).tideQ l _ (Dev.sendTide_tideQ _ l _)

end

/-! ## A source's mark (R25, R37) -/

section
variable (d : Dev) (r : MarkRec) (needs : List Need)

/-- The device whose merge window opens for its next mark (R32). -/
def Dev.openWindow : Dev :=
  { d with tide := { d.tide with window := d.tide.nextWindow, nextWindow := none, cutoff := false } }

theorem Dev.emitMark_eq :
    d.emitMark r needs = (d.openWindow.sendMarks d.forwardLinks r).takeMark r 0 needs := rfl

/-- A source takes its own mark at depth 0. -/
theorem Dev.emitMark_tookMark : TookMark d r 0 (d.emitMark r needs) := by
  obtain ⟨x, h⟩ := d.openWindow.sendMarks_frame d.forwardLinks r
  rw [Dev.emitMark_eq, h]
  exact Dev.takeMark_tookMark { d.openWindow with lnk := x } r 0 needs

theorem Dev.emitMark_forwarded : Forwarded d.forwardLinks r (d.emitMark r needs) := fun l hl =>
  (Dev.takeMark_keeps _ r 0 needs).tideQ l _ (d.openWindow.sendMarks_forwarded d.forwardLinks r l hl)

/-- The registers of the source's role and of its card are no part of a mark. -/
theorem Dev.emitMark_stays :
    (d.emitMark r needs).tide.isSource = d.tide.isSource ∧ (d.emitMark r needs).tide.holdover = d.tide.holdover ∧
      (d.emitMark r needs).tide.cardMissed = d.tide.cardMissed ∧
      (d.emitMark r needs).tide.missCount = d.tide.missCount := by
  obtain ⟨x, h⟩ := d.openWindow.sendMarks_frame d.forwardLinks r
  rw [Dev.emitMark_eq, h]
  have hk := Dev.takeMark_keeps { d.openWindow with lnk := x } r 0 needs
  exact ⟨hk.reg Tide.isSource fun _ => rfl, hk.reg Tide.holdover fun _ => rfl, hk.reg Tide.cardMissed fun _ => rfl,
    hk.reg Tide.missCount fun _ => rfl⟩

/-- A mark clears no event. -/
theorem Dev.emitMark_ev {b : Blk} {i : Nat} (hi : (d.ev.get b).ev.getLsbD i = true) :
    ((d.emitMark r needs).ev.get b).ev.getLsbD i = true := by
  obtain ⟨x, h⟩ := d.openWindow.sendMarks_frame d.forwardLinks r
  rw [Dev.emitMark_eq, h]
  exact (Dev.takeMark_keeps { d.openWindow with lnk := x } r 0 needs).ev b i hi

end

/-! ## The arms of a source's commands -/

section
variable {s : State} (hr : s.dev.running = true)
include hr

theorem exec_rootMarkTimer_running (needs : List Need) :
    exec (.rootMarkTimer needs) s = .next { s with dev := doRootMarkTimer needs s.dev } := act_running hr _

theorem exec_tideInFrame_running (f : TideFrame) (onTime : Bool) (needs : List Need) :
    exec (.tideInFrame f onTime needs) s = .next { s with dev := doTideInFrame f onTime needs s.dev } :=
  act_running hr _

theorem exec_tideInFrameMissing_running (needs : List Need) :
    exec (.tideInFrameMissing needs) s = .next { s with dev := doTideInFrameMissing needs s.dev } := act_running hr _

end

/-! ## The mark timer of a source (R25, R37, R40) -/

section
variable {d : Dev} (needs : List Need) (hs : d.tide.isSource = true) (hsp : d.tide.split = false)
  (hl : d.tide.lost = false)
include hs hsp hl

/-- A root, a root in holdover and a secondary that has taken the source role emit the next mark of R37. -/
theorem doRootMarkTimer_next (hf : d.tide.firstSeen = true)
    (hrole : d.tideRole = 1 ∨ (d.tideRole = 2 ∧ d.tide.holdover = true) ∨ (d.tideRole = 3 ∧ d.tide.missing < 2)) :
    doRootMarkTimer needs d = d.emitMark (d.nextMark (d.tide.count + 1)) needs := by
  have hc : d.nextCount = d.tide.count + 1 := if_pos hf
  rcases hrole with h | ⟨h, hh⟩ | ⟨h, hm⟩
  · simp [doRootMarkTimer, hs, hsp, hl, hf, hc, h]
  · simp [doRootMarkTimer, hs, hsp, hl, hf, hc, h, hh]
  · simp [doRootMarkTimer, hs, hsp, hl, hf, hc, h, Nat.not_le.2 hm]

/-- A secondary that took the source role after two missing marks emits R40's first mark. -/
theorem doRootMarkTimer_failover (h3 : d.tideRole = 3) (hm : 2 ≤ d.tide.missing) :
    doRootMarkTimer needs d = d.emitMark d.failoverMark needs := by
  simp [doRootMarkTimer, hs, hsp, hl, h3, hm]

/-- An internal root's very first mark has a free count (log entry 9). -/
theorem doRootMarkTimer_first (hf : d.tide.firstSeen = false) (h1 : d.tideRole = 1) :
    doRootMarkTimer needs d = d.tick.emitMark (d.nextMark d.freeVal) needs := by
  simp [doRootMarkTimer, Dev.nextCount, hs, hsp, hl, hf, h1]

end

/-! ## The external card (R27) -/

/-- The registers of the card as a frame or a missing one leaves them, before the mark. -/
def Dev.cardRegs (d : Dev) (holdover : Bool) (missed : Nat) (miss : Word) : Dev :=
  { d with tide := { d.tide with cardFirst := false, holdover := holdover, cardMissed := missed, missCount := miss } }

/-- The mark that a card's root emits next, in holdover or not. -/
def Dev.cardMark (d : Dev) (holdover : Bool) : MarkRec := { d.nextMark (d.tide.count + 1) with holdover := holdover }

section
variable {d : Dev} (f : TideFrame) (needs : List Need) (hs : d.tide.isSource = true) (hrole : d.tideRole = 2)
  (hsp : d.tide.split = false) (hl : d.tide.lost = false)

section
include hs hrole hsp hl

theorem Dev.cardRoot_eq_true : d.cardRoot = true := by
  simp [Dev.cardRoot, hs, hrole, hsp, hl]

/-- A frame with a bad CRC, or one out of time with the next count, is a missing frame. -/
theorem doTideInFrame_missing {onTime : Bool} (hc : d.tide.cardFirst = false)
    (h : frameGood f = false ∨ (onTime = false ∧ f.count = d.tide.count + 1)) :
    doTideInFrame f onTime needs d = doTideInFrameMissing needs d := by
  have hroot := d.cardRoot_eq_true hs hrole hsp hl
  rcases h with h | ⟨ht, hn⟩
  · simp [doTideInFrame, hroot, h]
  · simp [doTideInFrame, hroot, ht, hn, hc]

end

variable (hc : d.tide.cardFirst = false) (hf : d.tide.firstSeen = true)
include hs hrole hsp hl hc

/-- A frame on time with the next count is the mark's own instant, and ends holdover. -/
theorem doTideInFrame_next (hg : frameGood f = true) (hn : f.count = d.tide.count + 1) :
    doTideInFrame f true needs d =
      (d.cardRegs false 0 d.tide.missCount).emitMark (d.cardMark false) needs := by
  simp [doTideInFrame, d.cardRoot_eq_true hs hrole hsp hl, hg, hn, hc, Dev.cardRegs, Dev.cardMark, Dev.nextMark,
    Dev.rootP, Dev.addr]

include hf

/-- A frame with another count enters holdover and raises TIDE_IN_MISMATCH, and the mark follows. -/
theorem doTideInFrame_mismatch (onTime : Bool) (hg : frameGood f = true) (hn : f.count ≠ d.tide.count + 1) :
    doTideInFrame f onTime needs d =
      ((d.setHoldover true).raise .tide 5).emitMark (d.cardMark true) needs := by
  have hmark : ((d.setHoldover true).raise .tide 5).nextMark ((d.setHoldover true).raise .tide 5).nextCount =
      d.cardMark true := by
    simp [Dev.nextMark, Dev.nextCount, Dev.rootP, Dev.addr, Dev.setHoldover, Dev.cardMark, hf]
  have hne : (f.count != d.tide.count + 1) = true := bne_iff_ne.2 hn
  simp only [doTideInFrame, d.cardRoot_eq_true hs hrole hsp hl, hg, hne, hc, hmark, Bool.not_true, Bool.not_false,
    Bool.false_eq_true, Bool.and_self, if_false, if_true]

/-- One missing frame is bridged and counted. -/
theorem doTideInFrameMissing_first (hh : d.tide.holdover = false) (hm : d.tide.cardMissed = 0) :
    doTideInFrameMissing needs d =
      (d.cardRegs false 1 (satInc d.tide.missCount)).emitMark (d.cardMark false) needs := by
  simp [doTideInFrameMissing, d.cardRoot_eq_true hs hrole hsp hl, hc, hh, hm, Dev.cardRegs, Dev.cardMark,
    Dev.nextMark, Dev.nextCount, Dev.rootP, Dev.addr, hf]

/-- The second missing frame enters holdover. -/
theorem doTideInFrameMissing_second (hh : d.tide.holdover = false) (hm : d.tide.cardMissed ≠ 0) :
    doTideInFrameMissing needs d =
      (d.cardRegs true (d.tide.cardMissed + 1) d.tide.missCount).emitMark (d.cardMark true) needs := by
  simp [doTideInFrameMissing, d.cardRoot_eq_true hs hrole hsp hl, hc, hh, hm, Dev.cardRegs, Dev.cardMark,
    Dev.nextMark, Dev.nextCount, Dev.rootP, Dev.addr, hf, Dev.setHoldover]

end


/-- The card's registers are no part of a mark, and a mark leaves them. -/
theorem Dev.cardRegs_emitMark (d : Dev) (holdover : Bool) (missed : Nat) (miss : Word) (r : MarkRec)
    (needs : List Need) :
    let e := (d.cardRegs holdover missed miss).emitMark r needs
    TookMark d r 0 e ∧ e.tide.holdover = holdover ∧ e.tide.cardMissed = missed ∧ e.tide.missCount = miss ∧
      Forwarded d.forwardLinks r e := by
  obtain ⟨-, hh, hm, hc⟩ := (d.cardRegs holdover missed miss).emitMark_stays r needs
  exact ⟨(d.cardRegs holdover missed miss).emitMark_tookMark r needs, hh, hm, hc,
    (d.cardRegs holdover missed miss).emitMark_forwarded r needs⟩

/-- A mark after TIDE_IN_MISMATCH in holdover: the event stands. -/
theorem Dev.mismatch_emitMark (d : Dev) (r : MarkRec) (needs : List Need) :
    let e := ((d.setHoldover true).raise .tide 5).emitMark r needs
    TookMark d r 0 e ∧ e.tide.holdover = true ∧ (e.ev.get .tide).ev.getLsbD 5 = true ∧
      Forwarded d.forwardLinks r e := by
  have hev : ((((d.setHoldover true).raise .tide 5).ev.get .tide).ev).getLsbD 5 = true := by
    rw [Dev.raise_ev, Events.get_set_self, getLsbD_setBit _ _ (by decide)]
    simp
  have hev' := Dev.emitMark_ev _ r needs hev
  obtain ⟨-, hh, -⟩ := ((d.setHoldover true).raise .tide 5).emitMark_stays r needs
  rw [Dev.raise_tide] at hh
  have hraised := (d.setHoldover true).raise_alertN .tide 5
  generalize (d.setHoldover true).raise .tide 5 = e at hh hev' hraised
  have hls : e.forwardLinks = d.forwardLinks := by
    obtain ⟨v, a, o, rfl⟩ := hraised
    rfl
  have hfwd := hls ▸ e.emitMark_forwarded r needs
  obtain ⟨v, a, o, rfl⟩ := hraised
  exact ⟨Dev.emitMark_tookMark _ r needs, hh, hev', hfwd⟩

/-- Settles O5. Every case of a source's timer and of its card is `Dev.emitMark` on the device with its card registers
set; that emits, forwards and takes the record, and whatever the mark starts keeps what the record shows. The free first
count and the mark at a frame with another count are choices of log entry 9; that a record which splits is taken all the
same is log entry 117. -/
theorem sourceMarks : Obligations.SourceMarks := by
  refine ⟨fun s needs hr hs hsp hl => ⟨fun hf hrole => ?_, fun h3 hm => ?_, fun hf h1 => ?_⟩,
    fun s f needs hr hs hrole hsp hl hf hc => ⟨fun hg hn => ?_, fun onTime hg hn => ?_, fun onTime h => ?_,
      fun hh hm => ?_, fun hh hm => ?_⟩⟩
  · refine ⟨_, exec_rootMarkTimer_running hr needs, ?_⟩
    rw [doRootMarkTimer_next needs hs hsp hl hf hrole]
    exact ⟨Dev.emitMark_tookMark _ _ _, Dev.emitMark_forwarded _ _ _, (Dev.emitMark_stays _ _ _).1.trans hs⟩
  · refine ⟨_, exec_rootMarkTimer_running hr needs, ?_⟩
    rw [doRootMarkTimer_failover needs hs hsp hl h3 hm]
    exact ⟨Dev.emitMark_tookMark _ _ _, Dev.emitMark_forwarded _ _ _⟩
  · refine ⟨_, exec_rootMarkTimer_running hr needs, ?_⟩
    rw [doRootMarkTimer_first needs hs hsp hl hf h1]
    obtain ⟨hcount, -, -, -, -, -, hlocked, -, hfirst, -⟩ :=
      s.dev.tick.emitMark_tookMark (s.dev.nextMark s.dev.freeVal) needs
    exact ⟨hcount, hfirst, hlocked⟩
  · refine ⟨_, exec_tideInFrame_running hr f true needs, ?_⟩
    rw [doTideInFrame_next f needs hs hrole hsp hl hc hg hn]
    exact Dev.cardRegs_emitMark _ _ _ _ _ _
  · refine ⟨_, exec_tideInFrame_running hr f onTime needs, ?_⟩
    rw [doTideInFrame_mismatch f needs hs hrole hsp hl hc hf onTime hg hn]
    exact Dev.mismatch_emitMark _ _ _
  · rw [exec_tideInFrame_running hr, exec_tideInFrameMissing_running hr,
      doTideInFrame_missing f needs hs hrole hsp hl hc h]
  · refine ⟨_, exec_tideInFrameMissing_running hr needs, ?_⟩
    rw [doTideInFrameMissing_first needs hs hrole hsp hl hc hf hh hm]
    exact Dev.cardRegs_emitMark _ _ _ _ _ _
  · refine ⟨_, exec_tideInFrameMissing_running hr needs, ?_⟩
    rw [doTideInFrameMissing_second needs hs hrole hsp hl hc hf hh hm]
    obtain ⟨ht, hhold, -, hcount, hfwd⟩ := Dev.cardRegs_emitMark s.dev true (s.dev.tide.cardMissed + 1)
      s.dev.tide.missCount (s.dev.cardMark true) needs
    exact ⟨ht, hhold, hcount, hfwd⟩

end Sys2Proof.Machine

/-! PROOFS. Return records at a source (R31, R32, R39, R43): receiving one, the merge cutoff, and how two merge. -/

namespace Sys2Proof.Machine
open Sys2Proof

/-! ## A record of the tide is received on its link (R249) -/

section
variable (d : Dev) (l : Nat) (more : Bool)

theorem Dev.rxTide_frame : ∃ x, d.rxTide l more = { d with lnk := x } := by
  unfold Dev.rxTide Dev.rxFlit
  split
  · exact ⟨_, rfl⟩
  · split
    · exact ⟨_, rfl⟩
    · exact ⟨_, rfl⟩

/-- Receiving a flit leaves the link as usable as it was. -/
theorem Dev.rxTide_linkUsable : (d.rxTide l more).linkUsable l = d.linkUsable l := by
  unfold Dev.rxTide Dev.rxFlit
  split
  · rfl
  · split
    · rfl
    · rw [Dev.linkUsable, Dev.modLink_link]
      · rfl
      · exact fun h => nomatch (congrArg Link.ackDue h : true = false)

end

/-! ## Return records at a source (R31, R32, R39) -/

/-- The link of arrival of return record `r` becomes a child link. -/
def Dev.childReturns (d : Dev) (l : Nat) (r : RetRec) (current : Bool) : Dev :=
  d.modLink l fun k =>
    { k with child := true, retSeen := k.retSeen || current,
             retFailed := k.retFailed || (current && r.failed && r.failedAddr == k.farAddr) }

theorem Dev.childReturns_child (d : Dev) (l : Nat) (r : RetRec) (current : Bool) :
    ((d.childReturns l r current).link l).child = true := by
  rw [Dev.childReturns, Dev.modLink_link]
  exact fun h => nomatch (congrArg Link.child h : true = false)

/-- What a source does with a return record that it takes: it notes the round trip (R39), and merges the record into
the open window, or counts it late and merges it into the window that is open or, after the cutoff, the next (R32). -/
def Dev.mergeReturn (d : Dev) (r : RetRec) (rtt : BitVec 20) (current : Bool) : Dev :=
  let t : Tide := { d.tide with rttNs := if d.tide.rttNs.toNat < rtt.toNat then rtt else d.tide.rttNs }
  if current && !t.cutoff then { d with tide := { t with window := mergeInto t.window (d.ownFailed r) } }
  else if t.cutoff then
    ({ d with tide := { t with
        nextWindow := mergeInto t.nextWindow r, retLateCount := satInc t.retLateCount } } : Dev).raise .tide 4
  else
    ({ d with tide := { t with
        window := mergeInto t.window r, retLateCount := satInc t.retLateCount } } : Dev).raise .tide 4

/-- The device that has received return record `r` on link `l`. -/
def Dev.childOn (d : Dev) (l : Nat) (r : RetRec) (more : Bool) : Dev :=
  (d.rxTide l more).childReturns l r (r.countLow == d.tide.count.setWidth 32)

theorem Dev.childOn_frame (d : Dev) (l : Nat) (r : RetRec) (more : Bool) :
    d.childOn l r more = { d with lnk := (d.childOn l r more).lnk } := by
  obtain ⟨x, hx⟩ := d.rxTide_frame l more
  rw [Dev.childOn, hx]
  rfl

/-- A source takes a verified return record of a usable, enabled link. -/
theorem doReturnRecord_source {d : Dev} {l : Lnk} (r : RetRec) (rtt : BitVec 20) (more : Bool)
    (hs : d.tide.isSource = true) (hu : d.linkUsable l.val = true) (he : d.linkEnabled l.val = true) :
    doReturnRecord l r true rtt more d =
      (d.childOn l.val r more).mergeReturn r rtt (r.countLow == d.tide.count.setWidth 32) := by
  obtain ⟨x, hx⟩ := d.rxTide_frame l.val more
  have ht : (d.rxTide l.val more).tide = d.tide := by rw [hx]
  have hu' := (d.rxTide_linkUsable l.val more).trans hu
  have he' : (d.rxTide l.val more).linkEnabled l.val = true := by rw [hx]; exact he
  unfold Dev.childOn doReturnRecord
  rw [← ht] at hs ⊢
  generalize d.rxTide l.val more = e at hs hu' he'
  have htake :
      ¬ (!true || !e.linkUsable l.val || !e.linkEnabled l.val || !(e.tide.isSource || e.tide.following)) = true := by
    simp [hu', he', hs]
  exact (if_neg htake).trans (if_pos hs)

theorem exec_returnRecord (l : Lnk) (r : RetRec) (tag : DWord) (rtt : BitVec 20) (more : Bool) (s : State) :
    exec (.returnRecord l r tag rtt more) s = execReturnRecord l r tag rtt s more := rfl

theorem exec_returnRecord_running {s : State} (hr : s.dev.running = true) (l : Lnk) (r : RetRec) (tag : DWord)
    (rtt : BitVec 20) (more : Bool) :
    exec (.returnRecord l r tag rtt more) s = .next
      { s with dev := doReturnRecord l r (s.dev.recordOpens l.val (RetRec.bytes r) tag) rtt more s.dev } := by
  rw [exec_returnRecord, execReturnRecord, act_running hr]

section
variable {d : Dev} (r : RetRec) (rtt : BitVec 20)

theorem Dev.mergeReturn_open (hf : d.failed = false) (hc : d.tide.cutoff = false) :
    d.mergeReturn r rtt true = { d with tide :=
      { d.tide with
        rttNs := if d.tide.rttNs.toNat < rtt.toNat then rtt else d.tide.rttNs,
        window := mergeInto d.tide.window r } } := by
  have ho : d.ownFailed r = r := by simp [Dev.ownFailed, hf]
  simp [Dev.mergeReturn, hc, ho]

theorem Dev.mergeReturn_late (current : Bool) (hc : d.tide.cutoff = true) :
    d.mergeReturn r rtt current = ({ d with tide :=
      { d.tide with
        rttNs := if d.tide.rttNs.toNat < rtt.toNat then rtt else d.tide.rttNs,
        nextWindow := mergeInto d.tide.nextWindow r,
        retLateCount := satInc d.tide.retLateCount } } : Dev).raise .tide 4 := by
  simp [Dev.mergeReturn, hc]

theorem Dev.mergeReturn_other (hc : d.tide.cutoff = false) :
    d.mergeReturn r rtt false = ({ d with tide :=
      { d.tide with
        rttNs := if d.tide.rttNs.toNat < rtt.toNat then rtt else d.tide.rttNs,
        window := mergeInto d.tide.window r,
        retLateCount := satInc d.tide.retLateCount } } : Dev).raise .tide 4 := by
  simp [Dev.mergeReturn, hc]

end

/-- R31, R32, R39: what a verified return record does at a source that has not failed. -/
theorem returnRecord_at_source {s : State} (hr : s.dev.running = true) {l : Lnk} {r : RetRec} {tag : DWord}
    (rtt : BitVec 20) (more : Bool) (ho : s.dev.recordOpens l.val (RetRec.bytes r) tag = true)
    (hs : s.dev.tide.isSource = true) (hu : s.dev.linkUsable l.val = true) (he : s.dev.linkEnabled l.val = true)
    (hf : s.dev.failed = false) :
    let t := s.dev.tide
    let top := if t.rttNs.toNat < rtt.toNat then rtt else t.rttNs
    ∃ d₁ : Dev, d₁ = { s.dev with lnk := d₁.lnk } ∧ (d₁.link l.val).child = true ∧
      (r.countLow = t.count.setWidth 32 → t.cutoff = false →
        exec (.returnRecord l r tag rtt more) s = .next { s with dev := { d₁ with tide :=
          { t with rttNs := top, window := mergeInto t.window r } } }) ∧
      (t.cutoff = true →
        exec (.returnRecord l r tag rtt more) s = .next { s with dev := ({ d₁ with tide :=
          { t with
            rttNs := top, nextWindow := mergeInto t.nextWindow r,
            retLateCount := satInc t.retLateCount } } : Dev).raise .tide 4 }) ∧
      (r.countLow ≠ t.count.setWidth 32 → t.cutoff = false →
        exec (.returnRecord l r tag rtt more) s = .next { s with dev := ({ d₁ with tide :=
          { t with
            rttNs := top, window := mergeInto t.window r,
            retLateCount := satInc t.retLateCount } } : Dev).raise .tide 4 }) := by
  have hframe := s.dev.childOn_frame l.val r more
  have hrun := exec_returnRecord_running hr l r tag rtt more
  rw [ho, doReturnRecord_source r rtt more hs hu he] at hrun
  have hchild : ((s.dev.childOn l.val r more).link l.val).child = true := Dev.childReturns_child _ _ _ _
  refine ⟨s.dev.childOn l.val r more, hframe, hchild, ?_⟩
  generalize s.dev.childOn l.val r more = d₁ at hframe hrun ⊢
  have ht : d₁.tide = s.dev.tide := by rw [hframe]
  have hf₁ : d₁.failed = false := by rw [hframe]; exact hf
  rw [← ht] at hrun ⊢
  refine ⟨fun hn hc => ?_, fun hc => ?_, fun hn hc => ?_⟩
  · rw [hrun, beq_iff_eq.2 hn, Dev.mergeReturn_open r rtt hf₁ hc]
  · rw [hrun, Dev.mergeReturn_late r rtt _ hc]
  · rw [hrun, beq_false_of_ne hn, Dev.mergeReturn_other r rtt hc]

/-! ## The merge cutoff (R28, R31) -/

section
variable {d : Dev} {p : StandPlan} (hs : d.tide.isSource = true) (hp : d.plan.active = some p)
include hs hp

theorem doMergeCutoff_silent (ho : p.tide.outEn = false) :
    doMergeCutoff d = { d with tide := { d.tide with cutoff := true } } := by
  simp [doMergeCutoff, hs, hp, ho]

/-- With OUT_EN the return frame carries the window's set-back and LATE under its CRC. -/
theorem doMergeCutoff_frame (ho : p.tide.outEn = true) {w : RetRec} (hw : d.tide.window = some w) :
    doMergeCutoff d =
      { d with
        tide := { d.tide with cutoff := true },
        outbox := d.outbox ++ [.tideReturn (d.tide.count.setWidth 32) w.setback w.late
          (crc16 (leBytes 4 (d.tide.count.setWidth 32).toNat ++ [w.setback, if w.late then 1 else 0]))] } := by
  simp [doMergeCutoff, hs, hp, ho, hw, Dev.emit]

end

/-! ## How two return records merge (R31) -/

theorem toNat_satAdd {w : Nat} (v : BitVec w) (n : Nat) : (satAdd v n).toNat = min (2 ^ w - 1) (v.toNat + n) := by
  unfold satAdd
  split
  · rw [BitVec.toNat_ofNat, Nat.mod_eq_of_lt ‹_›]
    omega
  · rw [BitVec.toNat_allOnes]
    omega

section
variable (a b : RetRec)

theorem mergeRet_lateCount : (mergeRet a b).lateCount.toNat = min 0xFFFF (a.lateCount.toNat + b.lateCount.toNat) :=
  toNat_satAdd _ _

/-- The larger request wins, with its requester and reason. -/
theorem mergeRet_of_lt (h : b.setback.toNat < a.setback.toNat) :
    (mergeRet a b).setback = a.setback ∧ (mergeRet a b).reqAddr = a.reqAddr ∧ (mergeRet a b).reason = a.reason := by
  simp [mergeRet, h]

theorem mergeRet_of_gt (h : a.setback.toNat < b.setback.toNat) :
    (mergeRet a b).setback = b.setback ∧ (mergeRet a b).reqAddr = b.reqAddr ∧ (mergeRet a b).reason = b.reason := by
  have hne : a.setback ≠ b.setback := fun e => by rw [e] at h; omega
  have hle : ¬ b.setback.toNat < a.setback.toNat := by omega
  simp [mergeRet, hne, hle]

/-- Of equal requests the lower address stands. -/
theorem mergeRet_of_eq (h : a.setback = b.setback) :
    (mergeRet a b).setback = a.setback ∧ (mergeRet a b).reqAddr.toNat = min a.reqAddr.toNat b.reqAddr.toNat := by
  by_cases hle : a.reqAddr.toNat ≤ b.reqAddr.toNat
  · simp [mergeRet, h, hle]
  · simp [mergeRet, h, hle, Nat.min_eq_right (Nat.le_of_not_le hle)]

theorem mergeRet_setback : (mergeRet a b).setback.toNat = max a.setback.toNat b.setback.toNat := by
  rcases lt_trichotomy a.setback.toNat b.setback.toNat with h | h | h
  · rw [(mergeRet_of_gt a b h).1, max_eq_right h.le]
  · rw [(mergeRet_of_eq a b (BitVec.eq_of_toNat_eq h)).1, max_eq_left h.ge]
  · rw [(mergeRet_of_lt a b h).1, max_eq_left h.le]

/-- Of two failed addresses the lower stands. -/
theorem mergeRet_failedAddr_both (ha : a.failed = true) (hb : b.failed = true) :
    (mergeRet a b).failedAddr.toNat = min a.failedAddr.toNat b.failedAddr.toNat := by
  by_cases hle : a.failedAddr.toNat ≤ b.failedAddr.toNat
  · simp [mergeRet, ha, hb, hle]
  · simp [mergeRet, ha, hb, hle, Nat.min_eq_right (Nat.le_of_not_le hle)]

theorem mergeRet_failedAddr_left (ha : a.failed = true) (hb : b.failed = false) :
    (mergeRet a b).failedAddr = a.failedAddr := by simp [mergeRet, ha, hb]

theorem mergeRet_failedAddr_right (ha : a.failed = false) (hb : b.failed = true) :
    (mergeRet a b).failedAddr = b.failedAddr := by simp [mergeRet, ha, hb]

end

/-- Settles O8. A return record at a source is `Dev.mergeReturn` on the device whose link of arrival has become a child
link; the merge of two records follows from the order of their requests. -/
theorem returnsMerge : Obligations.ReturnsMerge := by
  refine ⟨fun s l r tag rtt more m hr => ⟨fun ho hs hu he hf => returnRecord_at_source hr rtt more ho hs hu he hf,
    act_running hr _, fun hs hp => ?_⟩, fun a b => ?_⟩
  · obtain ⟨p, hp⟩ := Option.isSome_iff_exists.1 hp
    have hcut : exec .mergeCutoff s = .next { s with dev := doMergeCutoff s.dev } := act_running hr _
    refine ⟨p, hp, fun ho => ?_, fun ho w hw => ?_⟩
    · rw [hcut, doMergeCutoff_silent hs hp ho]
    · rw [hcut, doMergeCutoff_frame hs hp ho hw]
  · exact ⟨mergeRet_setback a b, rfl, rfl, mergeRet_lateCount a b, fun h => (mergeRet_of_lt a b h).2,
      fun h => (mergeRet_of_gt a b h).2, fun h => (mergeRet_of_eq a b h).2, mergeRet_failedAddr_both a b,
      mergeRet_failedAddr_left a b, mergeRet_failedAddr_right a b⟩

end Sys2Proof.Machine

/-! PROOFS. The antifuses (R364–R366, R370): what each of the commands that burn, reset or advance does to them. -/

namespace Sys2Proof.Machine
open Sys2Proof

/-! ## The commands that change the life cycle -/

section
variable (d : Dev)

theorem Dev.grows_of_lcs {d e : Dev} (h : e.lcs = d.lcs) : d.lcs.grows e.lcs := Lcs.grows_of_eq h

theorem Dev.grows_ite {x : Lcs} {p : Prop} [Decidable p] {a b : Dev} (ha : x.grows a.lcs) (hb : x.grows b.lcs) :
    x.grows (if p then a else b).lcs := by
  split
  · exact ha
  · exact hb

theorem doLcsAdvance_grows (v : Word) : d.lcs.grows (doLcsAdvance v d).lcs := by
  have answer (r : BitVec 4) : d.lcs.grows (d.lcsAnswer r).lcs := Lcs.grows_refl d.lcs
  unfold doLcsAdvance
  split
  · exact Lcs.grows_refl _
  split
  · exact answer 3
  split
  · exact answer 1
  split
  · exact answer 2
  split
  · exact answer 2
  dsimp only
  split
  · exact Lcs.grows_refl d.lcs
  · exact Lcs.grows_trans (answer 0) (Dev.advance_grows _ _)

theorem doLcsBurnDone_grows : d.lcs.grows (doLcsBurnDone d).lcs := by
  unfold doLcsBurnDone
  split
  · dsimp only
    refine Lcs.grows_trans ?_ (Dev.coldReset_grows _ _)
    exact Lcs.burnAll_grows d.lcs d.lcs.st d.lcs.progRec.toNat
  · exact Lcs.grows_refl _

theorem doDbgReturn_grows (r : DbgResp) : d.lcs.grows (doDbgReturn r d).lcs := by
  unfold doDbgReturn
  split
  · exact Lcs.grows_refl _
  split
  · exact Lcs.grows_refl d.lcs
  split
  · exact Lcs.grows_refl d.lcs
  · exact Lcs.grows_refl d.lcs

theorem doMailboxRequestDone_grows : d.lcs.grows (doMailboxRequestDone d).lcs := by
  unfold doMailboxRequestDone
  split
  · exact Lcs.grows_refl _
  split
  · exact Lcs.grows_refl _
  dsimp only
  split
  · refine Lcs.grows_trans ?_ (Dev.advance_grows _ _)
    exact Dev.grows_of_lcs (by simp [apply_ite Dev.lcs])
  · exact Dev.grows_of_lcs (by simp [apply_ite Dev.lcs])

theorem Dev.makeRoot_grows : d.lcs.grows d.makeRoot.lcs := by
  unfold Dev.makeRoot
  split
  · rw [Dev.tick_lcs]
    exact Lcs.grows_refl d.lcs
  · exact Lcs.grows_refl _

theorem doBootReady_grows (lanes : List (Nat × Nat)) (laneAt : List (Nat × Fin 36)) (trngFail : Bool) :
    d.lcs.grows (doBootReady lanes laneAt trngFail d).lcs := by
  unfold doBootReady
  split
  · exact Lcs.grows_refl _
  · dsimp only
    refine Lcs.grows_trans ?_ (Dev.makeRoot_grows _)
    refine Dev.grows_of_lcs ?_
    simp only [Dev.raiseIf_lcs]
    refine foldl_lcs _ (fun d x => ?_) lanes d
    simp [apply_ite Dev.lcs]

theorem doSysRstNAssert_grows : d.lcs.grows (doSysRstNAssert d).lcs := by
  unfold doSysRstNAssert
  split
  · exact Lcs.grows_refl _
  · exact Dev.coldWipe_grows _ _

theorem doSysRstNRelease_grows (images : List FwImage) : d.lcs.grows (doSysRstNRelease images d).lcs := by
  unfold doSysRstNRelease
  split
  · dsimp only
    refine Lcs.grows_trans (Dev.grows_of_lcs ?_) (Dev.boot_grows _)
    split
    · exact Dev.takeImages_lcs d images
    · rfl
  · exact Lcs.grows_refl _

theorem doPwrOkDeassert_grows : d.lcs.grows (doPwrOkDeassert d).lcs := by
  unfold doPwrOkDeassert
  split
  · dsimp only
    split
    · exact Dev.coldReset_grows d _
    · exact Lcs.grows_refl _
  · exact Lcs.grows_refl _

theorem doVinMainUndervolt_grows : d.lcs.grows (doVinMainUndervolt d).lcs := by
  unfold doVinMainUndervolt
  split
  · rw [Dev.raise_lcs]; exact Dev.coldReset_grows _ _
  · exact Lcs.grows_refl _

theorem Dev.writeDbg_grows (o : Nat) (v : Word) : d.lcs.grows (d.writeDbg o v).lcs := by
  unfold Dev.writeDbg
  dsimp only
  split
  · split
    · exact Dev.grows_of_lcs (doDbgChallenge_lcs ..)
    split
    · exact Dev.grows_of_lcs (doDbgOpen_lcs ..)
    split
    · exact doDbgReturn_grows ..
    · exact Lcs.grows_refl _
  · split
    · exact Lcs.grows_refl d.lcs
    · exact Lcs.grows_refl _

theorem Dev.writeRst_grows (o : Nat) (v : Word) : d.lcs.grows (d.writeRst o v).lcs := by
  unfold Dev.writeRst
  dsimp only
  repeat' split
  · exact Lcs.grows_refl _
  · exact Dev.grows_of_lcs (doRstEngine_lcs ..)
  · exact Dev.grows_of_lcs (doRstClearing_lcs ..)
  · exact Dev.coldReset_grows _ _
  · exact Lcs.grows_refl _

theorem Dev.writeReg_grows (off : Nat) (v hw : Word) (line : BitVec 35) :
    d.lcs.grows (d.writeReg off v hw line).lcs := by
  unfold Dev.writeReg
  iterate 11 refine Dev.grows_ite (Dev.grows_of_lcs (by simp)) ?_
  refine Dev.grows_ite (Dev.writeRst_grows ..) (Dev.grows_ite (doLcsAdvance_grows ..)
    (Dev.grows_ite (Dev.writeDbg_grows ..) ?_))
  iterate 3 refine Dev.grows_ite (Dev.grows_of_lcs (by simp)) ?_
  exact Lcs.grows_refl _

theorem doRegisterWrite_grows (off : Nat) (v hw : Word) (line : BitVec 35) :
    d.lcs.grows (doRegisterWrite off v hw line d).lcs := by
  unfold doRegisterWrite
  split
  · exact Lcs.grows_refl _
  split
  · exact Dev.grows_of_lcs (Dev.writeEvent_lcs ..)
  · exact Dev.grows_of_lcs (Dev.writeEventEn_lcs ..)
  · exact Dev.writeReg_grows ..

/-- A cold reset that takes its crash dump and its log first only adds bits. -/
theorem Dev.grows_coldReset {d e : Dev} (h : e.lcs = d.lcs) (c : Nat) : d.lcs.grows (e.coldReset c).lcs :=
  h ▸ Dev.coldReset_grows e c

end

/-! ## Every command -/

section
variable {s t : State} {f : Dev → Dev}

theorem act_grows (h : act s f = .next t) (hf : ∀ d : Dev, d.lcs.grows (f d).lcs) : s.dev.lcs.grows t.dev.lcs := by
  unfold act at h
  split at h <;> cases h
  · exact hf _
  · exact Lcs.grows_refl _

theorem actMem_grows {b : Bool} (h : actMem s b f = .next t) (hf : ∀ d : Dev, d.lcs.grows (f d).lcs) :
    s.dev.lcs.grows t.dev.lcs := by
  unfold actMem at h
  repeat' split at h
  · cases h; exact hf _
  · cases h
  · cases h; exact Lcs.grows_refl _

theorem always_grows (h : always s f = .next t) (hf : ∀ d : Dev, d.lcs.grows (f d).lcs) :
    s.dev.lcs.grows t.dev.lcs := by
  cases h; exact hf _

end

/-- The commands that burn, advance or reset only add bits; every other command leaves the fuses alone. -/
theorem exec_grows {i : Instr} {s t : State} (h : exec i s = .next t) : s.dev.lcs.grows t.dev.lcs := by
  cases i
  case registerWrite off v hw line high =>
    dsimp only [exec, execRegisterWrite] at h
    refine act_grows h fun d => ?_
    split
    · exact doRegisterWrite_grows ..
    · exact Lcs.grows_trans (doRegisterWrite_grows ..) (doRegisterWrite_grows ..)
  case rcRegisterRead off hw high =>
    dsimp only [exec, execRcRegisterRead] at h
    refine act_grows h fun d => Dev.grows_of_lcs ?_
    split
    · exact doRegisterRead_lcs ..
    · exact doRead64_lcs ..
  case lcsAdvance => exact act_grows h (doLcsAdvance_grows · _)
  case lcsBurnDone => exact act_grows h doLcsBurnDone_grows
  case dbgReturn => exact act_grows h (doDbgReturn_grows · _)
  case mailboxRequestDone => exact act_grows h doMailboxRequestDone_grows
  case bootReady => exact act_grows h (doBootReady_grows · _ _ _)
  case rstCold =>
    dsimp only [exec, execRstCold] at h
    exact act_grows h (Dev.coldReset_grows · _)
  case ngataselWatchdog =>
    dsimp only [exec, execNgataselWatchdog] at h
    exact act_grows h fun d => Dev.grows_coldReset (by simp) _
  case controlDieEccError =>
    dsimp only [exec, execControlDieEccError] at h
    exact act_grows h fun d => Dev.grows_coldReset (by simp) _
  case vinMainUndervolt => exact act_grows h doVinMainUndervolt_grows
  case sysRstNAssert => exact always_grows h doSysRstNAssert_grows
  case sysRstNRelease => exact always_grows h (doSysRstNRelease_grows · _)
  case pwrOkDeassert => exact always_grows h doPwrOkDeassert_grows
  case powerRemoval =>
    dsimp only [exec, execPowerRemoval] at h
    exact always_grows h (Dev.unpowered_grows · _)
  case pwrOkRise => exact always_grows h fun d => Dev.grows_of_lcs (doPwrOkRise_lcs ..)
  case perstNAssert => exact always_grows h fun d => Dev.grows_of_lcs (doPerstNAssert_lcs d)
  case perstNRelease => exact always_grows h fun d => Dev.grows_of_lcs (doPerstNRelease_lcs d)
  case vinMainApply => exact always_grows h fun d => Dev.grows_of_lcs (doVinMainApply_lcs d)
  case hbmLineRead => exact actMem_grows h fun d => Dev.grows_of_lcs (by simp)
  case patrolRead => exact actMem_grows h fun d => Dev.grows_of_lcs (by simp)
  case commonsRepairDone => exact actMem_grows h fun d => Dev.grows_of_lcs (by simp)
  all_goals
    dsimp only [exec, execPlanCheck, execNumTrapRelease, execCopyConvert, execKeyx, execQueueResume,
      execChallengeExpiry, execBypass, execIdcode, execExtest, execClamp, execHighz, execTrace, execCtrl, execLinkLoop,
      execNgsScan] at h
    refine act_grows h fun d => Dev.grows_of_lcs ?_
    simp

/-- Settles O56: a step runs one command, which only adds bits, or advances the clock. -/
theorem fusesKept : Obligations.FusesKept := by
  intro x s t hx h
  refine Lcs.grows_trans hx ?_
  unfold step at h
  split at h
  · exact act_grows h fun d => Lcs.grows_refl d.lcs
  · next c rest _ => exact exec_grows (s := { s with pending := rest }) h

end Sys2Proof.Machine

/-! PROOFS. HBM's canonical form (R169, R208): what each of the commands that write, erase or repair memory does to it. -/

namespace Sys2Proof.Machine
open Sys2Proof

theorem memWf_ite {p : Prop} [Decidable p] {a b : Dev} (ha : Memory.wf a = true) (hb : Memory.wf b = true) :
    Memory.wf (if p then a else b) = true := by
  split
  · exact ha
  · exact hb

theorem memWf_of_tryWrite {d : Dev} (h : Memory.wf d = true) {n : Nat} {o : Obj} {ws : List (Nat × List Byte)}
    {r : Dev × Option Hit} (hw : d.tryWrite n o ws = r) : Memory.wf r.1 = true := hw ▸ Dev.tryWrite_memWf n o ws h

theorem memWf_of_tryRead {d : Dev} (h : Memory.wf d = true) {n : Nat} {w : Option (Nat × Word)} {hd : Word} {o : Obj}
    {ws : List (Nat × Nat)} {r : Dev × Option Hit} (hr : d.tryRead n w hd o ws = r) : Memory.wf r.1 = true :=
  memWf_of_hbm h ((congrArg (·.1.mem.hbm) hr).symm.trans (Dev.tryRead_hbm ..))

/-! ## A plan that takes effect (R66–R68) -/

section
variable {d : Dev} (h : Memory.wf d = true)
include h

theorem Dev.openClearing_memWf (n : Nat) : Memory.wf (d.openClearing n) = true :=
  memWf_of_hbm (Dev.formAll_memWf n h) (by simp [Dev.openClearing])

theorem Dev.activate_memWf (p : StandPlan) : Memory.wf (d.activate p) = true := by
  unfold Dev.activate
  simp only [Memory.wf, Dev.raise_hbm, ite_hbm, foldl_hbm, Dev.disableQueue_hbm, Dev.tapLeaves_hbm, ite_self,
    implies_true]
  exact Dev.partition_memWf p h

theorem Dev.applyFirst_memWf (p : StandPlan) : Memory.wf (d.applyFirst p) = true := by
  have open_ : Memory.wf ((List.range 16).foldl (fun d n => if (p.clr n).isSome then d.openClearing n else d)
      { (d.activate p).takeRole p with
        sched := Sched.reset
        tide := { ((d.activate p).takeRole p).tide with firstSeen := false, split := false, lost := false } }) = true := by
    refine foldl_memWf _ (fun d n hd => ?_) _ (memWf_of_hbm (Dev.activate_memWf h p) (by simp))
    split
    · exact Dev.openClearing_memWf hd n
    · exact hd
  unfold Dev.applyFirst
  simp only [Memory.wf, Dev.topoUpdate_hbm, Dev.rebind_hbm, Dev.newSalt_hbm]
  exact Dev.formAll_memWf 16 open_

theorem Dev.renewRegions_memWf (a p : StandPlan) (n : Nat) : Memory.wf (d.renewRegions a p n) = true := by
  unfold Dev.renewRegions
  refine foldl_memWf _ (fun d r hd => ?_) _ h
  have freed := memWf_of_hbm hd (Dev.freeObjs_hbm d fun o => o.clearing.toNat == n && o.region.toNat == r)
  exact memWf_ite hd (memWf_ite (Dev.formRegion_memWf n r freed) (memWf_of_hbm freed (Dev.modRegion_hbm ..)))

theorem Dev.changeClr_memWf (a p : StandPlan) (n : Nat) : Memory.wf (d.changeClr a p n) = true := by
  unfold Dev.changeClr
  dsimp only
  split
  · exact h
  · refine Dev.openClearing_memWf ?_ n
    exact h
  · refine memWf_ite ?_ (memWf_of_hbm h (by simp))
    simp only [Memory.wf, Dev.raise_hbm, Dev.logEvent_hbm]
    exact Dev.renewRegions_memWf (memWf_of_hbm h (by simp)) a p n

theorem Dev.applyReplacement_memWf (a p : StandPlan) : Memory.wf (d.applyReplacement a p) = true := by
  unfold Dev.applyReplacement
  simp only [Memory.wf, Dev.topoUpdate_hbm, Dev.remeasureAll_hbm, Dev.rebind_hbm, Dev.newSalt_hbm, Dev.recable_hbm,
    Dev.reschedule_hbm]
  refine foldl_memWf _ (fun d n hd => Dev.changeClr_memWf hd a p n) _ ?_
  simp only [Memory.wf, ite_hbm, Dev.takeRole_hbm, ite_self]
  refine Dev.activate_memWf (memWf_of_hbm h ?_) p
  simp

theorem Dev.armPlan_memWf (p : StandPlan) : Memory.wf (d.armPlan p) = true := by
  unfold Dev.armPlan
  dsimp only
  split
  · exact memWf_of_hbm h (by simp)
  · exact Dev.applyFirst_memWf (memWf_of_hbm h (by simp)) p

theorem doPlanCheck_memWf (p : StandPlan) (v : PlanVerdict) : Memory.wf (doPlanCheck p v d) = true := by
  unfold doPlanCheck
  split
  · exact h
  split
  · exact memWf_of_hbm h (by simp)
  split
  · exact memWf_of_hbm h (by simp)
  split
  · exact memWf_of_hbm h (by simp)
  · exact Dev.armPlan_memWf h p

theorem doPlanApply_memWf : Memory.wf (doPlanApply d) = true := by
  unfold doPlanApply
  split
  · split
    · exact h
    split
    · exact memWf_of_hbm h (by simp)
    · exact memWf_of_hbm (Dev.applyReplacement_memWf h _ _) (Dev.startActs_hbm _)
  · exact h

theorem doGranuleOverwriteDone_memWf (g : Fin 1536) : Memory.wf (doGranuleOverwriteDone g d) = true := by
  unfold doGranuleOverwriteDone
  split
  · exact Dev.eraseGranules_memWf [g.val] h
  · exact h

/-! ## Commands that write an object -/

theorem Dev.copyTo_memWf (n q : Nat) (c : Cmd) (a : CopyArgs) (x : Raw) : Memory.wf (d.copyTo n q c a x) = true := by
  unfold Dev.copyTo
  dsimp only
  refine memWf_ite ?_ ?_
  · split
    · exact memWf_of_hbm h (by simp)
    · exact memWf_of_hbm h (by simp)
  · split
    · next hw => exact memWf_of_tryWrite h hw
    · next hw => exact memWf_of_hbm (memWf_of_tryWrite h hw) (by simp)

theorem doCopyConvert_memWf (q : Nat) (seq : Word) (env : Envelope) (tagOk : Bool) :
    Memory.wf (doCopyConvert q seq env tagOk d) = true := by
  have stops (q : Nat) (c : Cmd) (st : Status) (det : Detail) :
      Memory.wf (d.completeCmd q c st det 0 0) = true := memWf_of_hbm h (by simp)
  unfold doCopyConvert
  split
  · refine memWf_ite h (memWf_ite ?_ (memWf_ite (stops ..) ?_))
    · exact memWf_ite (stops ..) (memWf_ite (stops ..) (memWf_ite (stops ..) (Dev.copyTo_memWf h ..)))
    · dsimp only
      split
      · next hr => exact memWf_of_tryRead h hr
      · next d' _ hr =>
        have hd : Memory.wf d' = true := memWf_of_tryRead h hr
        exact memWf_ite (Dev.copyTo_memWf hd ..) (memWf_of_hbm hd (by simp))
  · exact h

theorem Dev.runStore_memWf (t : Nat) (g : Prog) (idx : Nat) (i : SwInstr) :
    Memory.wf (d.runStore t g idx i) = true := by
  unfold Dev.runStore
  dsimp only
  split
  · split
    · next hw => exact memWf_of_tryWrite h hw
    · next hw => exact memWf_of_hbm (memWf_of_tryWrite h hw) (by simp)
  · exact h

theorem doStore_memWf (t idx : Nat) : Memory.wf (doStore t idx d) = true := by
  unfold doStore
  split
  · exact h
  split
  · exact memWf_ite (Dev.runStore_memWf h ..) h
  · exact h

theorem Dev.runCopy_memWf (n q : Nat) (c : Cmd) (a : CollArgs) (s : PlanStage) (bs : List Byte) :
    Memory.wf (d.runCopy n q c a s bs) = true := by
  unfold Dev.runCopy
  dsimp only
  refine memWf_ite (memWf_of_hbm h (by simp)) ?_
  split
  · next hw => exact memWf_of_tryWrite h hw
  · next hw => exact memWf_of_hbm (memWf_of_tryWrite h hw) (by simp)

theorem Dev.runStage_memWf (n q : Nat) (c : Cmd) (a : CollArgs) (ins : List StageIn) :
    Memory.wf (d.runStage n q c a ins) = true := by
  unfold Dev.runStage
  dsimp only
  refine memWf_ite (memWf_of_hbm h (by simp)) ?_
  split
  · next hr => exact memWf_of_hbm h (by simpa [hr] using Dev.collSourceCodes_hbm d n q c a)
  · next d' x hr =>
    have hd : Memory.wf d' = true := memWf_of_hbm h (by simpa [hr] using Dev.collSourceCodes_hbm d n q c a)
    refine memWf_ite (memWf_of_hbm hd (by simp)) (memWf_ite (Dev.runCopy_memWf hd ..) ?_)
    split
    · exact memWf_of_hbm hd (by simp)
    · exact memWf_of_hbm hd (by simp)

theorem doCollective_memWf (q : Nat) (seq : Word) : Memory.wf (doCollective q seq d) = true := by
  unfold doCollective
  split
  · exact memWf_ite (Dev.runStage_memWf h ..) h
  · exact h

theorem doConfluence_memWf (q : Nat) (seq : Word) : Memory.wf (doConfluence q seq d) = true := by
  unfold doConfluence
  split
  · refine memWf_ite h (memWf_ite (memWf_ite (memWf_of_hbm h ?_) (Dev.runStage_memWf h ..)) (Dev.runStage_memWf h ..))
    simp
  · exact h

theorem Dev.deliverObject_memWf (x : Xfer) (c : Cmd) (a : CollArgs) (ws : List AW) :
    Memory.wf (d.deliverObject x c a ws) = true := by
  unfold Dev.deliverObject
  dsimp only
  split
  · next hw => exact memWf_of_tryWrite h hw
  · next hw => exact memWf_of_hbm (memWf_of_tryWrite h hw) (by simp)

theorem doCollectorDelivery_memWf (q : Nat) (seq : Word) : Memory.wf (doCollectorDelivery q seq d) = true := by
  unfold doCollectorDelivery
  split
  · split
    · exact memWf_ite (memWf_of_hbm h (by simp)) (memWf_ite (memWf_ite h (memWf_of_hbm h (by simp)))
        (Dev.deliverObject_memWf h ..))
    · exact h
  · exact h

theorem Dev.receive_memWf (l : Nat) (x : FlitHdr) (tagOk : Bool) (allowed : Dev → Bool) {eff : Dev → Dev}
    (heff : ∀ e, Memory.wf e = true → Memory.wf (eff e) = true) : Memory.wf (d.receive l x tagOk allowed eff) = true := by
  have taken := memWf_of_hbm h (Dev.takeFlit_hbm d l x true)
  unfold Dev.receive
  refine memWf_ite h (memWf_ite (memWf_of_hbm h (by simp)) (memWf_ite taken ?_))
  split
  · exact memWf_of_hbm taken (by simp)
  · exact memWf_ite (heff _ taken) (memWf_of_hbm taken (by simp))

theorem doDataFlit_memWf (l : Nat) (x : FlitHdr) (tagOk : Bool) (handle : Word) (off : Nat) (bs : List Byte) :
    Memory.wf (doDataFlit l x tagOk handle off bs d) = true := by
  unfold doDataFlit
  dsimp only
  refine memWf_ite (memWf_of_hbm h (by simp)) (memWf_of_hbm ?_ (Dev.settleLinks_hbm _))
  exact Dev.receive_memWf h _ _ _ _ fun e he => memWf_ite he (Dev.tryWrite_memWf _ _ _ he)

/-! ## Accesses at a home slice -/

theorem memWf_of_serveCheck {p : Prop} [Decidable p] {r : MemReq} {x : Dev × Option Hit}
    (hc : (if p then d.serveCheck r else (d, some Hit.ok)) = x) : Memory.wf x.1 = true :=
  memWf_of_hbm h (by rw [← hc, itep_hbm, Dev.serveCheck_hbm, ite_self])

theorem doHomeSliceAccess_memWf (id : Nat) : Memory.wf (doHomeSliceAccess id d) = true := by
  unfold doHomeSliceAccess
  split
  · exact h
  dsimp only
  split
  · next rg pa _ _ =>
    refine memWf_ite (memWf_of_hbm h (by simp)) (memWf_ite (memWf_of_hbm h (by simp))
      (memWf_ite (Dev.serveLine_memWf _ _ (memWf_of_hbm h (by simp))) ?_))
    split
    · next hc => exact memWf_of_serveCheck h hc
    · next d' _ hc =>
      have hd (f pa : Nat) (hit narrow : Bool) : Memory.wf (d'.countAccess f pa hit narrow) = true :=
        memWf_of_hbm (memWf_of_serveCheck h hc) (Dev.countAccess_hbm ..)
      exact memWf_ite (memWf_of_hbm (hd ..) (Dev.failReq_hbm ..))
        (memWf_ite (Dev.serveLine_memWf _ _ (Dev.fillLine_memWf _ _ _ _ _ (hd ..))) (Dev.serveNarrow_memWf _ _ (hd ..)))
  · exact h

/-! ## Keys, epochs and scrubs -/

theorem doEpochRenewal_memWf (f r : Nat) : Memory.wf (doEpochRenewal f r d) = true := by
  have renewed : Memory.wf (d.modRegion (regKey f r) fun x => { x with renew := false, epoch := x.epoch + 1 }) = true :=
    memWf_of_hbm h (by simp)
  unfold doEpochRenewal
  refine memWf_ite ?_ h
  dsimp only
  split
  · exact memWf_ite (Dev.forgetRegion_memWf f r renewed) renewed
  · exact renewed

theorem doMcxEpochRenew_memWf (n r : Nat) : Memory.wf (doMcxEpochRenew n r d) = true := by
  unfold doMcxEpochRenew
  split
  · exact memWf_ite (memWf_of_hbm (doEpochRenewal_memWf h n r) (by simp)) h
  · exact h

theorem doKeySwap_memWf (s : Nat) : Memory.wf (doKeySwap s d) = true := by
  unfold doKeySwap
  refine memWf_ite h ?_
  dsimp only
  split
  · exact memWf_ite (memWf_of_hbm h (by simp)) (memWf_ite h (Dev.swapPair_memWf _ _ h))
  · exact memWf_ite (memWf_of_hbm h (by simp)) (memWf_ite h (memWf_of_hbm h (by simp)))

theorem doScrubKeyErase_memWf (n : Nat) : Memory.wf (doScrubKeyErase n d) = true := by
  unfold doScrubKeyErase
  refine memWf_ite ?_ h
  dsimp only
  simp only [Memory.wf, Dev.modFrame_hbm, Dev.dropRegions_hbm]
  refine Dev.eraseGranules_memWf _ ?_
  split
  · exact memWf_of_hbm h (by simp)
  · exact memWf_of_hbm h (by simp)

theorem doScrubDone_memWf (n : Nat) : Memory.wf (doScrubDone n d) = true := by
  unfold doScrubDone
  have erased := Dev.eraseGranules_memWf ((d.clr n).scrubGs.filter fun g => !d.enteredOther n g) h
  refine memWf_ite ?_ h
  simp only [Memory.wf, Dev.raise_hbm, Dev.remeasure_hbm, Dev.modClr_hbm, Dev.modFrame_hbm, foldl_hbm, Dev.wipeTile_hbm,
    implies_true]
  split
  · exact foldl_memWf _ (fun d r hd => Dev.formRegion_memWf n r hd) _ erased
  · exact erased

/-! ## Repairs and restores -/

theorem doCommonsRepairDone_memWf (s sa : Nat) (ok : Bool) (copy : ChunkCopy) :
    Memory.wf (doCommonsRepairDone s sa ok copy d) = true := by
  unfold doCommonsRepairDone
  dsimp only
  split
  · split
    · simp only [Memory.wf, Dev.raise_hbm, Dev.logEvent_hbm, Dev.dropRepairs_hbm]
      exact Dev.repairChunk_memWf _ _ _ _ _ h
    · exact memWf_of_hbm h (by simp)
  · exact h

theorem Dev.restoreAll_memWf (p : StandPlan) (images : List RestoreImage) (role : Bool) :
    Memory.wf (d.restoreAll p images role).1 = true := by
  unfold Dev.restoreAll
  refine foldlp_memWf _ (fun a x ha => ?_) _ (a := (d, none)) h
  split
  · exact ha
  split
  · exact ha
  · dsimp only
    exact memWf_ite (memWf_of_hbm (Dev.restoreClr_memWf p _ ha) (Dev.roleClr_hbm ..)) (Dev.restoreClr_memWf p _ ha)

theorem doRestoreDone_memWf (images : List RestoreImage) (r : RestoreRecord) (copyFound : Bool) (gapS : Nat) :
    Memory.wf (doRestoreDone images r copyFound gapS d) = true := by
  unfold doRestoreDone
  split
  · exact h
  next p _ =>
  refine memWf_ite h (memWf_ite (memWf_of_hbm h (by simp)) ?_)
  have restored := Dev.restoreAll_memWf h p images (d.stl.st == .fill && d.stl.op == 2)
  split
  · next hr => exact memWf_of_hbm (hr ▸ restored) (by simp)
  · next hr =>
    split
    · exact memWf_of_hbm (hr ▸ restored) (by simp)
    · exact memWf_of_hbm (hr ▸ restored) (by simp)

end

/-! ## Resets and the life cycle: memory is empty after them -/

section
variable (d : Dev)

theorem Dev.coldWipe_memWf (c : Nat) : Memory.wf (d.coldWipe c) = true := by
  unfold Dev.coldWipe
  simp only [Memory.wf, Dev.raiseIf_hbm]
  rfl

theorem Dev.coldReset_memWf (c : Nat) : Memory.wf (d.coldReset c) = true :=
  memWf_of_hbm (Dev.coldWipe_memWf d c) (Dev.boot_hbm _)

theorem Dev.advance_memWf (t : Lc) : Memory.wf (d.advance t) = true := Dev.forgetMemory_memWf _

variable {d} (h : Memory.wf d = true)
include h

theorem doLcsAdvance_memWf (v : Word) : Memory.wf (doLcsAdvance v d) = true := by
  have answer (r : BitVec 4) : Memory.wf (d.lcsAnswer r) = true := h
  unfold doLcsAdvance
  refine memWf_ite h (memWf_ite (answer 3) (memWf_ite (answer 1) ?_))
  split
  · exact answer 2
  · exact memWf_ite (answer 2) (memWf_ite (answer 0) (Dev.advance_memWf _ _))

theorem doLcsBurnDone_memWf : Memory.wf (doLcsBurnDone d) = true := memWf_ite (Dev.coldReset_memWf _ _) h

theorem doMailboxRequestDone_memWf : Memory.wf (doMailboxRequestDone d) = true := by
  unfold doMailboxRequestDone
  split
  · exact h
  refine memWf_ite h ?_
  dsimp only
  split
  · exact Dev.advance_memWf _ _
  · exact memWf_of_hbm h (by simp)

theorem doSysRstNAssert_memWf : Memory.wf (doSysRstNAssert d) = true := memWf_ite h (Dev.coldWipe_memWf d 2)

theorem doPwrOkDeassert_memWf : Memory.wf (doPwrOkDeassert d) = true := by
  unfold doPwrOkDeassert
  split
  · exact memWf_ite (p := d.running = true) (Dev.coldReset_memWf d 3) h
  · exact h

theorem doVinMainUndervolt_memWf : Memory.wf (doVinMainUndervolt d) = true :=
  memWf_ite (memWf_of_hbm (Dev.coldReset_memWf d 3) (Dev.raise_hbm ..)) h

/-! ## Register writes -/

theorem Dev.writeMcx_memWf (o : Nat) (v hw : Word) (line : BitVec 35) : Memory.wf (d.writeMcx o v hw line) = true := by
  unfold Dev.writeMcx
  exact memWf_ite (doMcxEpochRenew_memWf h _ _) (memWf_ite h (memWf_ite (memWf_of_hbm h (by simp)) h))

theorem Dev.writeRst_memWf (o : Nat) (v : Word) : Memory.wf (d.writeRst o v) = true := by
  unfold Dev.writeRst
  exact memWf_ite h (memWf_ite (memWf_of_hbm h (by simp)) (memWf_ite (memWf_of_hbm h (by simp))
    (memWf_ite (Dev.coldReset_memWf d 4) h)))

theorem Dev.writeDbg_memWf (o : Nat) (v : Word) : Memory.wf (d.writeDbg o v) = true := by
  unfold Dev.writeDbg
  exact memWf_ite (memWf_ite (memWf_of_hbm h (by simp)) (memWf_ite (memWf_of_hbm h (by simp))
    (memWf_ite (memWf_of_hbm h (by simp)) h))) (memWf_ite h h)

theorem Dev.writeReg_memWf (off : Nat) (v hw : Word) (line : BitVec 35) :
    Memory.wf (d.writeReg off v hw line) = true := by
  unfold Dev.writeReg
  iterate 6 refine memWf_ite (memWf_of_hbm h (by simp)) ?_
  refine memWf_ite (Dev.writeMcx_memWf h ..) ?_
  iterate 4 refine memWf_ite (memWf_of_hbm h (by simp)) ?_
  refine memWf_ite (Dev.writeRst_memWf h ..) (memWf_ite (doLcsAdvance_memWf h _) (memWf_ite (Dev.writeDbg_memWf h ..) ?_))
  iterate 3 refine memWf_ite (memWf_of_hbm h (by simp)) ?_
  exact h

theorem doRegisterWrite_memWf (off : Nat) (v hw : Word) (line : BitVec 35) :
    Memory.wf (doRegisterWrite off v hw line d) = true := by
  unfold doRegisterWrite
  split
  · exact h
  split
  · exact memWf_of_hbm h (by simp)
  · exact memWf_of_hbm h (by simp)
  · exact Dev.writeReg_memWf h ..

end

/-! ## Every command -/

section
variable {s t : State} {f : Dev → Dev} (hs : Memory.wf s.dev = true)
include hs

theorem act_memWf (h : act s f = .next t) (hf : ∀ {d : Dev}, Memory.wf d = true → Memory.wf (f d) = true) :
    Memory.wf t.dev = true := by
  unfold act at h
  split at h <;> cases h
  · exact hf hs
  · exact hs

theorem act_memWf_of_hbm (h : act s f = .next t) (hf : ∀ d : Dev, (f d).mem.hbm = d.mem.hbm) :
    Memory.wf t.dev = true := act_memWf hs h fun hd => memWf_of_hbm hd (hf _)

theorem actMem_memWf {b : Bool} (h : actMem s b f = .next t)
    (hf : ∀ {d : Dev}, Memory.wf d = true → Memory.wf (f d) = true) : Memory.wf t.dev = true := by
  unfold actMem at h
  repeat' split at h
  · cases h; exact hf hs
  · cases h
  · cases h; exact hs

theorem always_memWf (h : always s f = .next t) (hf : ∀ {d : Dev}, Memory.wf d = true → Memory.wf (f d) = true) :
    Memory.wf t.dev = true := by
  cases h; exact hf hs

theorem always_memWf_of_hbm (h : always s f = .next t) (hf : ∀ d : Dev, (f d).mem.hbm = d.mem.hbm) :
    Memory.wf t.dev = true := always_memWf hs h fun hd => memWf_of_hbm hd (hf _)

/-- The commands that write, erase or repair memory keep its form; every other command leaves its contents alone. -/
theorem exec_memWf {i : Instr} (h : exec i s = .next t) : Memory.wf t.dev = true := by
  cases i
  case registerWrite off v hw line high =>
    dsimp only [exec, execRegisterWrite] at h
    refine act_memWf hs h fun hd => ?_
    split
    · exact doRegisterWrite_memWf hd ..
    · exact doRegisterWrite_memWf (doRegisterWrite_memWf hd ..) ..
  case rcRegisterRead off hw high =>
    dsimp only [exec, execRcRegisterRead] at h
    refine act_memWf_of_hbm hs h fun d => ?_
    split
    · exact doRegisterRead_hbm ..
    · exact doRead64_hbm ..
  case planCheck =>
    dsimp only [exec, execPlanCheck] at h
    exact act_memWf hs h fun hd => doPlanCheck_memWf hd _ _
  case planApply => exact act_memWf hs h doPlanApply_memWf
  case granuleOverwriteDone => exact act_memWf hs h fun hd => doGranuleOverwriteDone_memWf hd _
  case copyConvert =>
    dsimp only [exec, execCopyConvert] at h
    exact act_memWf hs h fun hd => doCopyConvert_memWf hd _ _ _ _
  case store => exact act_memWf hs h fun hd => doStore_memWf hd _ _
  case collective => exact act_memWf hs h fun hd => doCollective_memWf hd _ _
  case confluence => exact act_memWf hs h fun hd => doConfluence_memWf hd _ _
  case collectorDelivery => exact act_memWf hs h fun hd => doCollectorDelivery_memWf hd _ _
  case dataFlit =>
    dsimp only [exec, execDataFlit] at h
    exact act_memWf hs h fun hd => doDataFlit_memWf hd _ _ _ _ _ _
  case homeSliceAccess => exact act_memWf hs h fun hd => doHomeSliceAccess_memWf hd _
  case hbmLineRead => exact actMem_memWf hs h fun hd => doHbmLineRead_memWf _ _ _ _ _ _ _ hd
  case patrolRead => exact actMem_memWf hs h fun hd => doPatrolRead_memWf _ _ _ hd
  case mcxEpochRenew => exact act_memWf hs h fun hd => doMcxEpochRenew_memWf hd _ _
  case epochRenewal => exact act_memWf hs h fun hd => doEpochRenewal_memWf hd _ _
  case keySwap => exact act_memWf hs h fun hd => doKeySwap_memWf hd _
  case scrubKeyErase => exact act_memWf hs h fun hd => doScrubKeyErase_memWf hd _
  case scrubDone => exact act_memWf hs h fun hd => doScrubDone_memWf hd _
  case restoreDone => exact act_memWf hs h fun hd => doRestoreDone_memWf hd _ _ _ _
  case commonsRepairDone => exact actMem_memWf hs h fun hd => doCommonsRepairDone_memWf hd _ _ _ _
  case bist => exact act_memWf hs h doBist_memWf
  case idcode =>
    dsimp only [exec, execIdcode] at h
    exact act_memWf_of_hbm hs h fun d => Dev.tapSelect_hbm _ _ _ fun _ => Dev.emit_hbm ..
  case lcsAdvance => exact act_memWf hs h fun hd => doLcsAdvance_memWf hd _
  case lcsBurnDone => exact act_memWf hs h doLcsBurnDone_memWf
  case mailboxRequestDone => exact act_memWf hs h doMailboxRequestDone_memWf
  case rstCold =>
    dsimp only [exec, execRstCold] at h
    exact act_memWf hs h fun _ => Dev.coldReset_memWf _ _
  case ngataselWatchdog =>
    dsimp only [exec, execNgataselWatchdog] at h
    exact act_memWf hs h fun _ => Dev.coldReset_memWf _ _
  case controlDieEccError =>
    dsimp only [exec, execControlDieEccError] at h
    exact act_memWf hs h fun _ => Dev.coldReset_memWf _ _
  case vinMainUndervolt => exact act_memWf hs h doVinMainUndervolt_memWf
  case sysRstNAssert => exact always_memWf hs h doSysRstNAssert_memWf
  case sysRstNRelease => exact always_memWf_of_hbm hs h (doSysRstNRelease_hbm _)
  case pwrOkDeassert => exact always_memWf hs h doPwrOkDeassert_memWf
  case powerRemoval =>
    dsimp only [exec, execPowerRemoval] at h
    exact always_memWf hs h fun _ => rfl
  case pwrOkRise => exact always_memWf_of_hbm hs h (doPwrOkRise_hbm _ _)
  case perstNAssert => exact always_memWf_of_hbm hs h doPerstNAssert_hbm
  case perstNRelease => exact always_memWf_of_hbm hs h doPerstNRelease_hbm
  case vinMainApply => exact always_memWf_of_hbm hs h doVinMainApply_hbm
  all_goals
    dsimp only [exec, execNumTrapRelease, execKeyx, execQueueResume, execChallengeExpiry, execBypass, execExtest,
      execClamp, execHighz, execTrace, execCtrl, execLinkLoop, execNgsScan] at h
    refine act_memWf_of_hbm hs h fun d => ?_
    simp

end

/-- Settles O57: a step runs one command, or advances the clock, which touches no memory. -/
theorem memoryKept : Obligations.MemoryKept := by
  intro s t hs h
  unfold step at h
  split at h
  · unfold idle at h
    exact act_memWf hs h id
  · next c rest _ => exact exec_memWf (s := { s with pending := rest }) hs h

end Sys2Proof.Machine

/-! PROOFS. The whole machine: one step of the queue (log entries 1 and 11), a device that does not run (R384, R389), and
the state after reset (R1). -/

namespace Sys2Proof.Machine
open Sys2Proof

/-! ## A step of the queue -/

/-- Settles O1: `step` takes the front command, and with none waiting it is `idle`, which acts on a running device. -/
theorem stepRuns : Obligations.StepRuns := by
  refine ⟨fun c s => rfl, fun s hp => ⟨fun hr => ?_, fun hr => ?_⟩⟩
  · have h : step s = idle s := by simp [step, hp]
    rw [h]
    exact act_running hr _
  · have h : step s = idle s := by simp [step, hp]
    rw [h]
    exact act_dark hr _

/-! ## A device that does not run -/

/-- Every command but those of the supplies and the reset balls leaves a device that does not run alone. -/
theorem exec_dark {i : Instr} {s : State} (hr : s.dev.running = false) (hi : Instr.supply i = false) :
    exec i s = .next s := by
  cases i
  case sysRstNAssert | sysRstNRelease | powerRemoval | vinMainApply | pwrOkDeassert | pwrOkRise | perstNAssert
    | perstNRelease => cases hi
  case hbmLineRead | patrolRead | commonsRepairDone => exact actMem_dark hr _ _
  all_goals
    dsimp only [exec, execRegisterWrite, execRcRegisterRead, execPlanCheck, execNumTrapRelease, execCopyConvert, execKeyx,
      execQueueResume, execRstCold, execNgataselWatchdog, execControlDieEccError, execChallengeExpiry, execBypass,
      execIdcode, execExtest, execClamp, execHighz, execTrace, execCtrl, execLinkLoop, execNgsScan]
    exact act_dark hr _

/-- Settles O58: the front command is none of the supplies', and the clock of a device that does not run stands. -/
theorem darkKept : Obligations.DarkKept := by
  rintro d s t ⟨hd, hr, hp⟩ h
  have hs : s.dev.running = false := hd ▸ hr
  unfold step at h
  split at h
  · next hn =>
    rw [idle, act_dark hs] at h
    cases h
    exact ⟨hd, hr, hp⟩
  · next c rest hc =>
    simp only [hc, List.all_cons, Bool.and_eq_true, Bool.not_eq_true'] at hp
    rw [exec_dark (s := { s with pending := rest }) hs hp.1] at h
    cases h
    exact ⟨hd, hr, hp.2⟩

/-! ## The state after reset -/

/-- Settles O59: every field holds its reset value, and a table that lists nothing reads as its reset entry. -/
theorem resetState : Obligations.ResetState := by
  have clearings (n : Nat) : (State.reset.dev.clr n).st = .absent := rfl
  have queues (q : Nat) : (State.reset.dev.queue q).st = .disabled ∧ (State.reset.dev.queue q).log2 = 6 ∧
      (State.reset.dev.queue q).vector = 0x010 := ⟨rfl, rfl, rfl⟩
  have links (l : Nat) : (State.reset.dev.link l).st = .down ∧ (State.reset.dev.link l).adm = .none := ⟨rfl, rfl⟩
  have slots (k : Nat) : (State.reset.dev.slot k).loaded = false ∧ (State.reset.dev.slot k).gen = 0 := ⟨rfl, rfl⟩
  have events (b : Blk) : State.reset.dev.ev.get b = Ev.reset := by cases b <;> rfl
  refine ⟨rfl, rfl, reset_memWf, rfl, rfl, rfl, rfl, clearings, queues, links, slots, rfl, rfl, ?_⟩
  have lcs : Lcs.reset.lastRec = some 0 ∧ Lcs.reset.voted = some 0x0000FFFF := ⟨rfl, rfl⟩
  refine ⟨rfl, rfl, rfl, rfl, lcs.1, lcs.2, rfl, rfl, rfl, rfl, rfl, rfl, rfl, rfl, rfl, rfl, rfl, rfl, rfl, rfl, events,
    rfl, rfl, fun _ => rfl, fun _ => rfl⟩

end Sys2Proof.Machine

/-! PROOFS. When a context issues an instruction (R138, R139, R162): a ready context's instruction takes its effect, one
with a reserved field stops the launch, and a context that may not issue changes nothing. -/

namespace Sys2Proof.Machine
open Sys2Proof

section
variable {d : Dev} {k : Nat} {regs : List Dest} {l : LaunchSt}

/-- A context issues exactly when it is ready. -/
theorem Dev.issuer_eq_some_iff : d.issuer k regs = some l ↔ Ready d k regs l := by
  unfold Dev.issuer Ready Dev.memOut
  split
  · next m hm =>
    simp only [hm, Option.some.injEq, Bool.and_eq_true, beq_iff_eq, Bool.not_eq_true', decide_eq_true_eq,
      List.all_eq_true, List.contains_eq_mem, decide_eq_false_iff_not]
    constructor
    · intro h
      split at h
      · next hr =>
        obtain ⟨⟨⟨⟨hp, he⟩, hb⟩, ho⟩, hw⟩ := hr
        cases h
        exact ⟨rfl, hp, he, hb, ho, hw⟩
      · cases h
    · rintro ⟨rfl, hp, he, hb, ho, hw⟩
      rw [if_pos ⟨⟨⟨⟨hp, he⟩, hb⟩, ho⟩, hw⟩]
  · next hn => simp [hn]

theorem Dev.issuer_of_ready (h : Ready d k regs l) : d.issuer k regs = some l := Dev.issuer_eq_some_iff.2 h

theorem Dev.issuer_of_not_ready (h : ∀ l, ¬ Ready d k regs l) : d.issuer k regs = none :=
  Option.eq_none_iff_forall_ne_some.2 fun l hl => h l (Dev.issuer_eq_some_iff.1 hl)

/-- A context that is ready for an instruction is ready for one that names fewer registers. -/
theorem Ready.mono {rs : List Dest} (h : Ready d k regs l) (hs : ∀ r ∈ rs, r ∈ regs) : Ready d k rs l :=
  ⟨h.1, h.2.1, h.2.2.1, h.2.2.2.1, h.2.2.2.2.1, fun r hr => h.2.2.2.2.2 r (hs r hr)⟩

theorem Ready.launch (h : Ready d k regs l) : d.ctxLaunch k = some l := h.1

theorem Ready.runs (h : Ready d k regs l) : l.ph = .running := h.2.1

theorem Dev.issue_of_ready (h : Ready d k regs l) (f : LaunchSt → Ctx → Ctx) : d.issue k regs f = d.steps k (f l) := by
  unfold Dev.issue
  rw [Dev.issuer_of_ready h]
  rfl

/-- A fault of a running launch's context stops the launch (R162). -/
theorem Dev.faultLaunch_eq_faults (hl : d.ctxLaunch k = some l) (hp : l.ph = .running) (st : Status) (info : BitVec 64) :
    d.faultLaunch k st .none info = d.faults k l st info := by
  simp only [Dev.faultLaunch, hl, hp, if_true]
  rfl

theorem Dev.faultLaunch_of_ready (h : Ready d k regs l) (st : Status) (info : BitVec 64) :
    d.faultLaunch k st .none info = d.faults k l st info := Dev.faultLaunch_eq_faults h.launch h.runs st info

theorem Dev.undefinedInstr_of_ready (h : Ready d k regs l) (f : Dev → Dev) : d.undefinedInstr k regs f = f d := by
  rw [Dev.undefinedInstr, Dev.issuer_of_ready h]

theorem defined_reserved_of_ready (h : Ready d k [] l) (f : Dev → Dev) : defined k true f d = d.faults k l .aborted 0 := by
  rw [defined, if_pos rfl, Dev.undefinedInstr_of_ready h, Dev.faultLaunch_of_ready h]

theorem defined_reserved_of_not_ready (h : ∀ l, ¬ Ready d k [] l) (f : Dev → Dev) : defined k true f d = d := by
  rw [defined, if_pos rfl, Dev.undefinedInstr, Dev.issuer_of_not_ready h]

end

/-- Settles O60: every form whose reserved field is not 0 is `defined` with the fault alone. -/
theorem undefinedInstructions : Obligations.UndefinedInstructions := by
  intro s ci l op fop vop bk aop w sg wide ret draws rd ra rb rc vd va vb vc slot x lanes anchor fmt stream sr hr d₀ k forms
  have reserved : ∀ i ∈ forms, ∃ f, exec i s = act s (defined k true f) := by
    simp only [forms, List.forall_mem_cons]
    repeat' refine And.intro ⟨_, rfl⟩ ?_
    exact fun i hi => absurd hi List.not_mem_nil
  refine ⟨fun h i hi => ?_, fun h i hi => ?_⟩
  · obtain ⟨f, hf⟩ := reserved i hi
    rw [hf, act_running hr, defined_reserved_of_ready h]
  · obtain ⟨f, hf⟩ := reserved i hi
    rw [hf, act_running hr, defined_reserved_of_not_ready h]

end Sys2Proof.Machine

/-! PROOFS. Integer instructions (R138, R139, R162): `intOp` computes on integers what the operations of bit vectors
compute, at every width up to 64. -/

namespace Sys2Proof.Machine
open Sys2Proof

/-! ## Operands and results as bit vectors -/

/-- The integer that a bit vector stands for. -/
def valOf {n : Nat} (sg : Bool) (v : BitVec n) : Int := if sg then v.toInt else v.toNat

/-- A result extended to 64 bits by its signedness. -/
def extended {n : Nat} (sg : Bool) (v : BitVec n) : DWord := if sg then v.signExtend 64 else v.setWidth 64

section
variable {n : Nat} (sg : Bool)

theorem intOf_toNat (hn : 0 < n) (u : Nat) : intOf n sg u = valOf sg (BitVec.ofNat n u) := by
  cases sg
  · simp [intOf, valOf]
  · have h2 : 2 ^ n = 2 * 2 ^ (n - 1) := by rw [← Nat.pow_succ']; congr 1; omega
    simp only [intOf, valOf, Bool.true_and, decide_eq_true_eq, if_true, BitVec.toInt_eq_toNat_cond, BitVec.toNat_ofNat]
    have hz : (2 : Int) ^ n = ((2 ^ n : Nat) : Int) := by push_cast; rfl
    rw [hz]
    generalize u % 2 ^ n = r
    split_ifs <;> omega

theorem intOf_setWidth (hn : 0 < n) (x : DWord) : intOf n sg x.toNat = valOf sg (x.setWidth n) := by
  rw [intOf_toNat sg hn, BitVec.ofNat_toNat]

@[simp] theorem ofInt_valOf (v : BitVec n) : BitVec.ofInt n (valOf sg v) = v := by
  cases sg
  · simp [valOf]
  · simp [valOf]

theorem valOf_inj {a b : BitVec n} : valOf sg a = valOf sg b ↔ a = b :=
  ⟨fun h => by rw [← ofInt_valOf sg a, h, ofInt_valOf], fun h => h ▸ rfl⟩

theorem ofInt_sub (i j : Int) : BitVec.ofInt n (i - j) = BitVec.ofInt n i - BitVec.ofInt n j := by
  rw [Int.sub_eq_add_neg, BitVec.ofInt_add, BitVec.ofInt_neg, BitVec.sub_eq_add_neg]

theorem intTo_eq (h0 : 0 < n) (i : Int) : intTo n sg i = extended sg (BitVec.ofInt n i) := by
  have hp : (0 : Int) < 2 ^ n := by positivity
  have hi : BitVec.ofNat n (i % 2 ^ n).toNat = BitVec.ofInt n i := by
    apply BitVec.eq_of_toNat_eq
    rw [BitVec.toNat_ofInt, BitVec.toNat_ofNat, Nat.mod_eq_of_lt]
    · simp
    · have := Int.emod_nonneg i hp.ne'
      have := Int.emod_lt_of_pos i hp
      zify
      omega
  rw [intTo, intOf_toNat sg h0, hi]
  cases sg
  · simp only [valOf, extended, Bool.false_eq_true, if_false, BitVec.ofInt_natCast, BitVec.ofNat_toNat]
  · simp only [valOf, extended, if_true, BitVec.signExtend]

theorem intTo_natCast (h0 : 0 < n) (u : Nat) : intTo n sg u = extended sg (BitVec.ofNat n u) := by
  rw [intTo_eq sg h0, BitVec.ofInt_natCast]

/-- A number that the width holds beside its sign bit is not changed by its extension. -/
theorem extended_ofNat_toNat (h64 : n ≤ 64) {u : Nat} (hu : u < 2 ^ (n - 1)) :
    (extended sg (BitVec.ofNat n u)).toNat = u := by
  have hn : 2 ^ (n - 1) ≤ 2 ^ n := Nat.pow_le_pow_right (by omega) (by omega)
  have h2 : 2 ^ n ≤ 2 ^ 64 := Nat.pow_le_pow_right (by omega) h64
  cases sg
  · simp only [extended, Bool.false_eq_true, if_false, BitVec.toNat_setWidth, BitVec.toNat_ofNat]
    rw [Nat.mod_eq_of_lt (a := u) (by omega), Nat.mod_eq_of_lt (by omega)]
  · have hm : (BitVec.ofNat n u).msb = false := by
      rw [BitVec.msb_eq_decide, BitVec.toNat_ofNat, Nat.mod_eq_of_lt (by omega)]
      simpa using hu
    simp only [extended, if_true, BitVec.signExtend_eq_setWidth_of_msb_false hm, BitVec.toNat_setWidth, BitVec.toNat_ofNat]
    rw [Nat.mod_eq_of_lt (a := u) (by omega), Nat.mod_eq_of_lt (by omega)]

end

/-! ## The operations -/

section
variable {n : Nat} (h0 : 0 < n) (sg : Bool) (free x y z : DWord)
include h0

theorem intOp_add : intOp .add n sg free x.toNat y.toNat z.toNat = extended sg (x.setWidth n + y.setWidth n) := by
  simp only [intOp, intOf_setWidth sg h0, intTo_eq sg h0, BitVec.ofInt_add, ofInt_valOf]

theorem intOp_sub : intOp .sub n sg free x.toNat y.toNat z.toNat = extended sg (x.setWidth n - y.setWidth n) := by
  simp only [intOp, intOf_setWidth sg h0, intTo_eq sg h0, ofInt_sub, ofInt_valOf]

theorem intOp_mul : intOp .mul n sg free x.toNat y.toNat z.toNat = extended sg (x.setWidth n * y.setWidth n) := by
  simp only [intOp, intOf_setWidth sg h0, intTo_eq sg h0, BitVec.ofInt_mul, ofInt_valOf]

theorem intOp_mulhi : intOp .mulhi n sg free x.toNat y.toNat z.toNat =
    extended sg (BitVec.ofInt n ((if sg then (x.setWidth n).toInt * (y.setWidth n).toInt
      else (((x.setWidth n).toNat * (y.setWidth n).toNat : Nat) : Int)) / 2 ^ n)) := by
  simp only [intOp, intOf_setWidth sg h0, intTo_eq sg h0, valOf]
  cases sg <;> simp

omit h0 in
theorem toNat_mod_eq : x.toNat % 2 ^ n = (x.setWidth n).toNat := (BitVec.toNat_setWidth n x).symm

theorem intOp_and : intOp .and n sg free x.toNat y.toNat z.toNat = extended sg (x.setWidth n &&& y.setWidth n) := by
  simp only [intOp, intTo_natCast sg h0, toNat_mod_eq, ← BitVec.toNat_and, BitVec.ofNat_toNat, BitVec.setWidth_eq]

theorem intOp_or : intOp .or n sg free x.toNat y.toNat z.toNat = extended sg (x.setWidth n ||| y.setWidth n) := by
  simp only [intOp, intTo_natCast sg h0, toNat_mod_eq, ← BitVec.toNat_or, BitVec.ofNat_toNat, BitVec.setWidth_eq]

theorem intOp_xor : intOp .xor n sg free x.toNat y.toNat z.toNat = extended sg (x.setWidth n ^^^ y.setWidth n) := by
  simp only [intOp, intTo_natCast sg h0, toNat_mod_eq, ← BitVec.toNat_xor, BitVec.ofNat_toNat, BitVec.setWidth_eq]

theorem intOp_cmpEq : intOp .cmpEq n sg free x.toNat y.toNat z.toNat =
    if x.setWidth n = y.setWidth n then 1 else 0 := by
  simp only [intOp, intOf_setWidth sg h0, beq_iff_eq, valOf_inj]

omit h0 in
theorem valOf_lt (a b : BitVec n) : valOf sg a < valOf sg b ↔ (if sg then a.slt b else a.ult b) = true := by
  cases sg
  · simp [valOf, BitVec.ult]
  · simp [valOf, BitVec.slt]

theorem intOp_cmpLt : intOp .cmpLt n sg free x.toNat y.toNat z.toNat =
    if (if sg then (x.setWidth n).slt (y.setWidth n) else (x.setWidth n).ult (y.setWidth n)) then 1 else 0 := by
  simp only [intOp, intOf_setWidth sg h0, decide_eq_true_eq, valOf_lt sg]

theorem intOp_select : intOp .select n sg free x.toNat y.toNat z.toNat =
    extended sg (if x.setWidth n = 0 then z.setWidth n else y.setWidth n) := by
  have hz : x.toNat % 2 ^ n = 0 ↔ x.setWidth n = 0 := by
    rw [toNat_mod_eq, ← BitVec.toNat_inj]; rfl
  simp only [intOp, intOf_setWidth sg h0, intTo_eq sg h0, ofInt_valOf, hz]
  split <;> rfl

theorem intOp_div_zero (hy : y.setWidth n = 0) :
    intOp .div n sg free x.toNat y.toNat z.toNat = 0 ∧ intOp .rem n sg free x.toNat y.toNat z.toNat = 0 := by
  have hv : intOf n sg y.toNat = 0 := by rw [intOf_setWidth sg h0, hy]; cases sg <;> simp [valOf]
  simp only [intOp, hv, if_true, and_self]

omit h0 in
theorem valOf_ne_zero {b : BitVec n} (hb : b ≠ 0) : valOf sg b ≠ 0 := by
  intro h
  refine hb ((valOf_inj sg).1 (h.trans ?_))
  cases sg <;> simp [valOf]

theorem intOp_udiv (hy : y.setWidth n ≠ 0) : intOp .div n false free x.toNat y.toNat z.toNat =
    extended false (x.setWidth n / y.setWidth n) := by
  simp only [intOp, intOf_setWidth false h0, valOf_ne_zero false hy, Bool.false_and, Bool.false_eq_true, if_false,
    intTo_eq false h0]
  congr 1
  apply BitVec.eq_of_toNat_eq
  simp only [valOf, Bool.false_eq_true, if_false, ← Int.ofNat_tdiv, BitVec.ofInt_natCast]
  rw [BitVec.toNat_ofNat, Nat.mod_eq_of_lt (Nat.lt_of_le_of_lt (Nat.div_le_self _ _) (BitVec.isLt _))]
  rfl

theorem intOp_umod (hy : y.setWidth n ≠ 0) : intOp .rem n false free x.toNat y.toNat z.toNat =
    extended false (x.setWidth n % y.setWidth n) := by
  simp only [intOp, intOf_setWidth false h0, valOf_ne_zero false hy, if_false, intTo_eq false h0]
  congr 1
  apply BitVec.eq_of_toNat_eq
  simp only [valOf, Bool.false_eq_true, if_false, ← Int.ofNat_tmod, BitVec.ofInt_natCast]
  rw [BitVec.toNat_ofNat, Nat.mod_eq_of_lt (Nat.lt_of_le_of_lt (Nat.mod_le _ _) (BitVec.isLt _))]
  rfl

theorem intOp_sdiv (hy : y.setWidth n ≠ 0) : intOp .div n true free x.toNat y.toNat z.toNat =
    if x.setWidth n = BitVec.intMin n ∧ y.setWidth n = BitVec.allOnes n then free
    else extended true ((x.setWidth n).sdiv (y.setWidth n)) := by
  have hmin : valOf true (x.setWidth n) = -(2 ^ (n - 1)) ↔ x.setWidth n = BitVec.intMin n := by
    rw [← valOf_inj true]
    simp [valOf, BitVec.toInt_intMin_of_pos h0]
  have hones : valOf true (y.setWidth n) = -1 ↔ y.setWidth n = BitVec.allOnes n := by
    rw [← valOf_inj true]
    simp [valOf, BitVec.toInt_allOnes, h0]
  simp only [intOp, intOf_setWidth true h0, valOf_ne_zero true hy, if_false, intTo_eq true h0, Bool.true_and,
    Bool.and_eq_true, beq_iff_eq, hmin, hones]
  congr 2
  rw [← BitVec.toInt_inj, BitVec.toInt_ofInt, BitVec.toInt_sdiv]
  rfl

theorem intOp_srem (hy : y.setWidth n ≠ 0) : intOp .rem n true free x.toNat y.toNat z.toNat =
    extended true ((x.setWidth n).srem (y.setWidth n)) := by
  simp only [intOp, intOf_setWidth true h0, valOf_ne_zero true hy, if_false, intTo_eq true h0]
  congr 1
  rw [← BitVec.ofInt_toInt (x := BitVec.srem _ _), BitVec.toInt_srem]
  rfl

theorem intOp_shl (hy : (y.setWidth n).toNat < n) : intOp .shl n sg free x.toNat y.toNat z.toNat =
    extended sg (x.setWidth n <<< (y.setWidth n).toNat) := by
  simp only [intOp, toNat_mod_eq, hy, if_true, intTo_natCast sg h0]
  congr 1
  apply BitVec.eq_of_toNat_eq
  simp [Nat.shiftLeft_eq]

theorem intOp_shr (hy : (y.setWidth n).toNat < n) : intOp .shr n sg free x.toNat y.toNat z.toNat =
    extended sg (if sg then (x.setWidth n).sshiftRight (y.setWidth n).toNat else x.setWidth n >>> (y.setWidth n).toNat) := by
  simp only [intOp, toNat_mod_eq, hy, if_true, intTo_eq sg h0, intOf_setWidth sg h0]
  congr 1
  cases sg
  · simp only [valOf, Bool.false_eq_true, if_false]
    apply BitVec.eq_of_toNat_eq
    rw [BitVec.toNat_ushiftRight, Nat.shiftRight_eq_div_pow]
    norm_cast
    rw [BitVec.ofInt_natCast, BitVec.toNat_ofNat, Nat.mod_eq_of_lt (Nat.lt_of_le_of_lt (Nat.div_le_self _ _) (BitVec.isLt _))]
  · simp only [valOf, if_true]
    rw [← BitVec.ofInt_toInt (x := BitVec.sshiftRight _ _), BitVec.toInt_sshiftRight, Int.shiftRight_eq_div_pow]
    norm_cast

omit h0 in
theorem intOp_shift_beyond (hy : n ≤ (y.setWidth n).toNat) : intOp .shl n sg free x.toNat y.toNat z.toNat = free ∧
    intOp .shr n sg free x.toNat y.toNat z.toNat = free := by
  simp only [intOp, toNat_mod_eq, Nat.not_lt.2 hy, if_false, and_self]

theorem intOp_rotl : intOp .rotl n sg free x.toNat y.toNat z.toNat =
    extended sg ((x.setWidth n).rotateLeft (y.setWidth n).toNat) := by
  simp only [intOp, toNat_mod_eq, intTo_natCast sg h0]
  congr 1
  apply BitVec.eq_of_toNat_eq
  rw [BitVec.toNat_rotateLeft]
  generalize hk : (y.setWidth n).toNat % n = k
  have hkn : k < n := hk ▸ Nat.mod_lt _ h0
  have hn : 2 ^ n = 2 ^ k * 2 ^ (n - k) := by rw [← Nat.pow_add]; congr 1; omega
  have hu : (x.setWidth n).toNat / 2 ^ (n - k) < 2 ^ k := by
    rw [Nat.div_lt_iff_lt_mul (by positivity), ← hn]
    exact BitVec.isLt _
  have hl : (x.setWidth n).toNat * 2 ^ k % 2 ^ n = 2 ^ k * ((x.setWidth n).toNat % 2 ^ (n - k)) := by
    rw [Nat.mul_comm, hn, Nat.mul_mod_mul_left]
  have hs : (x.setWidth n).toNat * 2 ^ k % 2 ^ n + (x.setWidth n).toNat / 2 ^ (n - k) < 2 ^ n := by
    have hm := Nat.mod_lt (x.setWidth n).toNat (show 0 < 2 ^ (n - k) by positivity)
    calc _ < 2 ^ k * ((x.setWidth n).toNat % 2 ^ (n - k)) + 2 ^ k := by rw [hl]; omega
      _ = 2 ^ k * ((x.setWidth n).toNat % 2 ^ (n - k) + 1) := by ring
      _ ≤ 2 ^ n := hn ▸ Nat.mul_le_mul_left _ hm
  rw [BitVec.toNat_ofNat, Nat.mod_eq_of_lt hs, Nat.shiftLeft_eq, Nat.shiftRight_eq_div_pow, hl,
    Nat.two_pow_add_eq_or_of_lt hu]

section
variable (h64 : n ≤ 64) (h8 : 8 ≤ n)
include h64 h8

/-- A width holds its own number beside its sign bit. -/
theorem width_lt_half (m : Nat) (hm : m ≤ n) : m < 2 ^ (n - 1) := by
  have : n - 1 < 2 ^ (n - 1) := Nat.lt_two_pow_self
  have : 2 ^ (n - 1) = 2 * 2 ^ (n - 2) := by rw [← Nat.pow_succ']; congr 1; omega
  have : n - 2 < 2 ^ (n - 2) := Nat.lt_two_pow_self
  omega

theorem intOp_clz : (intOp .clz n sg free x.toNat y.toNat z.toNat).toNat = leadingZeros n (x.setWidth n).toNat := by
  simp only [intOp, toNat_mod_eq, intTo_natCast sg h0]
  refine extended_ofNat_toNat sg h64 (width_lt_half h0 h64 h8 _ ?_)
  unfold leadingZeros
  split <;> omega

theorem intOp_popcount : (intOp .popcount n sg free x.toNat y.toNat z.toNat).toNat =
    ((List.range n).filter fun i => (x.setWidth n).getLsbD i).length := by
  simp only [intOp, toNat_mod_eq, intTo_natCast sg h0]
  refine extended_ofNat_toNat sg h64 (width_lt_half h0 h64 h8 _ ?_)
  exact (List.length_filter_le _ _).trans List.length_range.le

end

end

theorem leadingZeros_le (n v : Nat) : leadingZeros n v ≤ n := by
  unfold leadingZeros
  split <;> omega

/-- What counts the leading zeros bounds the value. -/
theorem lt_two_pow_leadingZeros {n v : Nat} (hv : v < 2 ^ n) : v < 2 ^ (n - leadingZeros n v) := by
  unfold leadingZeros
  split
  · next h => simp [h]
  · next h =>
    have hl : Nat.log2 v < n := (Nat.log2_lt h).2 hv
    rw [show n - (n - 1 - Nat.log2 v) = Nat.log2 v + 1 by omega]
    exact Nat.lt_log2_self

theorem two_pow_leadingZeros_le {n v : Nat} (hv : v < 2 ^ n) (h : v ≠ 0) : 2 ^ (n - 1 - leadingZeros n v) ≤ v := by
  have hl : Nat.log2 v < n := (Nat.log2_lt h).2 hv
  rw [leadingZeros, if_neg h, show n - 1 - (n - 1 - Nat.log2 v) = Nat.log2 v by omega]
  exact Nat.log2_self_le h

theorem Ctx.putX_zero (c : Ctx) (v : DWord) : c.putX 0 v = c := rfl

/-- Settles O16: a ready context issues, and `intOp` is the operation on the operands' bit vectors. -/
theorem integerOps : Obligations.IntegerOps := by
  intro s ci op w sg rd ra rb rc l hr d₀ k hready n a b c ext free v
  have h8 : 8 ≤ n := by cases w <;> decide
  have h64 : n ≤ 64 := by cases w <;> decide
  have h0 : 0 < n := by omega
  have hv (o : IntOp) (ho : op = o) : v = intOp o n sg free ((d₀.ctx k).getX ra.val).toNat
    ((d₀.ctx k).getX rb.val).toNat ((d₀.ctx k).getX rc.val).toNat := ho ▸ rfl
  refine ⟨?_, fun h => h ▸ Ctx.putX_zero _ _, fun h => hv _ h ▸ intOp_add h0 .., fun h => hv _ h ▸ intOp_sub h0 ..,
    fun h => hv _ h ▸ intOp_mul h0 .., fun h => hv _ h ▸ intOp_mulhi h0 .., fun h => hv _ h ▸ intOp_and h0 ..,
    fun h => hv _ h ▸ intOp_or h0 .., fun h => hv _ h ▸ intOp_xor h0 .., fun h => hv _ h ▸ intOp_cmpEq h0 ..,
    fun h => hv _ h ▸ intOp_cmpLt h0 .., fun h => hv _ h ▸ intOp_select h0 .., fun h => ?_,
    fun h => (congrArg BitVec.toNat (hv _ h)).trans (intOp_popcount h0 sg _ _ _ _ h64 h8),
    fun h => hv _ h ▸ intOp_rotl h0 .., fun h hb => ?_, fun h hs hb => ?_, fun h hs hb => ?_, fun h hs hb => ?_,
    fun h hs hb => ?_, fun h hb => hv _ h ▸ intOp_shl h0 _ _ _ _ _ hb, fun h hb => hv _ h ▸ intOp_shr h0 _ _ _ _ _ hb,
    fun h hb => ?_⟩
  · refine (act_running hr _).trans ?_
    exact congrArg (fun d => Host.Outcome.next { s with dev := d }) (Dev.issue_of_ready hready _)
  · have hz : v.toNat = leadingZeros n a.toNat := (congrArg BitVec.toNat (hv _ h)).trans (intOp_clz h0 sg _ _ _ _ h64 h8)
    rw [hz]
    exact ⟨leadingZeros_le _ _, lt_two_pow_leadingZeros a.isLt, fun ha => two_pow_leadingZeros_le a.isLt fun h0 =>
      ha (BitVec.eq_of_toNat_eq h0)⟩
  · rcases h with h | h
    · exact hv _ h ▸ (intOp_div_zero h0 sg free _ _ _ hb).1
    · exact hv _ h ▸ (intOp_div_zero h0 sg free _ _ _ hb).2
  · subst hs; exact hv _ h ▸ intOp_udiv h0 _ _ _ _ hb
  · subst hs; exact hv _ h ▸ intOp_umod h0 _ _ _ _ hb
  · subst hs; exact hv _ h ▸ intOp_sdiv h0 _ _ _ _ hb
  · subst hs; exact hv _ h ▸ intOp_srem h0 _ _ _ _ hb
  · rcases h with h | h
    · exact hv _ h ▸ (intOp_shift_beyond sg free _ _ _ hb).1
    · exact hv _ h ▸ (intOp_shift_beyond sg free _ _ _ hb).2

end Sys2Proof.Machine

/-! PROOFS. The arms of `exec` on a device that runs. -/

namespace Sys2Proof.Machine
open Sys2Proof

theorem act_eq_next {s : State} {f : Dev → Dev} {d : Dev} (hr : s.dev.running = true) (h : f s.dev = d) :
    act s f = .next { s with dev := d } := by rw [act_running hr, h]

/-- The outcome of an arm names the device it leaves. -/
theorem dev_of_act_eq {s : State} {f : Dev → Dev} {d : Dev} (hr : s.dev.running = true)
    (h : act s f = .next { s with dev := d }) : f s.dev = d := by
  have := (act_running hr f).symm.trans h
  injection this with this
  injection this

theorem defined_false (k : Nat) (f : Dev → Dev) : defined k false f = f := by
  funext d
  rw [defined, if_neg Bool.false_ne_true]

/-- An instruction whose reserved field is 0 (R162). -/
theorem act_defined_eq_next {s : State} {k : Nat} {f : Dev → Dev} {d : Dev} (hr : s.dev.running = true) (h : f s.dev = d) :
    act s (defined k false f) = .next { s with dev := d } := by rw [defined_false, act_eq_next hr h]

end Sys2Proof.Machine

/-! PROOFS. Tables: their entries and their reads (log 12's canonical form). -/

namespace Sys2Proof.Machine
open Sys2Proof

section
variable {α : Type} {z : α}

/-- A read that is not the default is listed. -/
theorem Tab.mem_of_get {t : Tab α} {k : Nat} (h : Tab.get z t k ≠ z) : (k, Tab.get z t k) ∈ t := by
  induction t with
  | nil => exact absurd rfl h
  | cons p t ih =>
    rw [Tab.get] at h ⊢
    split at h
    · next hp => rw [if_pos hp, ← hp]; exact List.mem_cons_self
    · next hp => rw [if_neg hp]; exact List.mem_cons_of_mem _ (ih h)

variable [DecidableEq α]

theorem Tab.le_of_mem {t : Tab α} {lo k : Nat} {v : α} (h : Tab.wfFrom z lo t = true) (hm : (k, v) ∈ t) :
    lo ≤ k ∧ v ≠ z := by
  induction t generalizing lo with
  | nil => cases hm
  | cons p t ih =>
    simp only [Tab.wfFrom, Bool.and_eq_true, decide_eq_true_eq] at h
    obtain ⟨⟨hlo, hp⟩, ht⟩ := h
    rcases List.mem_cons.1 hm with rfl | hm
    · exact ⟨hlo, hp⟩
    · exact ⟨by have := (ih ht hm).1; omega, (ih ht hm).2⟩

/-- What a canonical table lists under a number is what it reads there. -/
theorem Tab.get_of_mem {t : Tab α} {lo k : Nat} {v : α} (h : Tab.wfFrom z lo t = true) (hm : (k, v) ∈ t) :
    Tab.get z t k = v := by
  induction t generalizing lo with
  | nil => cases hm
  | cons p t ih =>
    simp only [Tab.wfFrom, Bool.and_eq_true, decide_eq_true_eq] at h
    obtain ⟨_, ht⟩ := h
    rcases List.mem_cons.1 hm with rfl | hm
    · simp [Tab.get]
    · have := (Tab.le_of_mem ht hm).1
      rw [Tab.get, if_neg (by omega), ih ht hm]

theorem Tab.get_mod {t : Tab α} {lo : Nat} (h : Tab.wfFrom z lo t = true) (k j : Nat) (f : α → α) :
    Tab.get z (Tab.mod z t k f) j = if j = k then f (Tab.get z t k) else Tab.get z t j := by
  split
  · next hj => subst hj; exact Tab.get_set z t h _ _
  · next hj => exact Tab.get_set_ne z t _ hj

theorem Tab.get_setRun {t : Tab α} (h : Tab.wf z t = true) (vs : List α) (k j : Nat) :
    Tab.get z (Tab.setRun z t k vs) j = if k ≤ j ∧ j < k + vs.length then vs[j - k]?.getD z else Tab.get z t j := by
  induction vs generalizing t k with
  | nil => rw [if_neg (by simp)]; rfl
  | cons v vs ih =>
    rw [Tab.setRun, ih (Tab.set_wf z t h k v)]
    by_cases hj : j = k
    · subst hj
      rw [if_neg (by omega), if_pos (by simp), Tab.get_set z t h]
      simp
    · rw [Tab.get_set_ne z t v hj, List.length_cons]
      by_cases hr : k + 1 ≤ j ∧ j < k + 1 + vs.length
      · rw [if_pos hr, if_pos (by omega), show j - k = (j - (k + 1)) + 1 by omega, List.getElem?_cons_succ]
      · rw [if_neg hr, if_neg (by omega)]

/-- A run of changes of listed entries, each of which changes nothing the second time. -/
theorem Tab.get_foldl_mod {f : α → α} (hf : ∀ v, f (f v) = f v) (ks : List Nat) {t : Tab α}
    (h : Tab.wf z t = true) (j : Nat) :
    Tab.get z (ks.foldl (fun t k => Tab.mod z t k f) t) j = if j ∈ ks then f (Tab.get z t j) else Tab.get z t j := by
  induction ks generalizing t with
  | nil => simp
  | cons k ks ih =>
    rw [List.foldl_cons, ih (Tab.mod_wf z t h k f), Tab.get_mod h]
    by_cases hj : j = k
    · subst hj; simp [hf]
    · simp [hj]

end
end Sys2Proof.Machine

/-! PROOFS. Floating-point, vector, identity and control instructions of a thread (R142–R145, R149, R160). -/

namespace Sys2Proof.Machine
open Sys2Proof

theorem FpFmt.scalar_iff {f : FpFmt} : f.scalar = true ↔ f = .s32 ∨ f = .d64 := by cases f <;> simp [FpFmt.scalar]

theorem FpFmt.not_scalar {f : FpFmt} (h : ¬ (f = .s32 ∨ f = .d64)) : f.scalar = false := by
  rw [← FpFmt.scalar_iff] at h
  simpa using h

/-! ## The operations on a ready context -/

section
variable {d : Dev} {k : Nat} {l : LaunchSt}

/-- A change of a context is what it makes of the context as it stands. -/
theorem Dev.modCtx_congr {f g : Ctx → Ctx} (h : f (d.ctx k) = g (d.ctx k)) : d.modCtx k f = d.modCtx k g := by
  simp only [Dev.modCtx, Tab.mod]
  rw [show f (Tab.get Ctx.reset d.ctxs k) = g (Tab.get Ctx.reset d.ctxs k) from h]

theorem Dev.steps_congr {f g : Ctx → Ctx} (h : f (d.ctx k) = g (d.ctx k)) : d.steps k f = d.steps k g :=
  Dev.modCtx_congr (congrArg Ctx.advance h)

section
variable {op : ThreadFp} {rd ra rb rc : Nat} (h : Ready d k [.x rd, .x ra, .x rb, .x rc] l)
include h

theorem doThreadFloatOp_of_some {v : DWord}
    (hv : threadFp op ((d.ctx k).getX ra) ((d.ctx k).getX rb) ((d.ctx k).getX rc) = some v) :
    doThreadFloatOp k op rd ra rb rc d = d.steps k (fun c => c.putX rd v) := by
  unfold doThreadFloatOp
  dsimp only
  rw [hv]
  exact Dev.issue_of_ready h _

theorem doThreadFloatOp_of_none
    (hv : threadFp op ((d.ctx k).getX ra) ((d.ctx k).getX rb) ((d.ctx k).getX rc) = none) :
    doThreadFloatOp k op rd ra rb rc d = d.faults k l .aborted 0 := by
  unfold doThreadFloatOp
  dsimp only
  rw [hv]
  dsimp only
  rw [Dev.undefinedInstr_of_ready h, Dev.faultLaunch_of_ready h]

end

theorem doRdsr_of_ready {rd : Nat} (h : Ready d k [.x rd] l) (sr : SpecialReg) :
    doRdsr k rd sr false d = d.steps k (fun c => c.putX rd (l.special k c sr)) := Dev.issue_of_ready h _

theorem doThreadBranch_of_ready {ra link : Nat} (h : Ready d k [.x ra, .x link] l) (b : BranchKind) (target : DWord) :
    doThreadBranch k b ra link target d = d.modCtx k fun c =>
      { (if b = .call then c.putX link (c.pc + 4) else c) with pc := branchTo b c ra target } := by
  rw [doThreadBranch, Dev.issuer_of_ready h]

/-- An exact word with a value of its own is converted, and a loss is counted (R106, R144). -/
theorem doCvtAw_of_ready {rd ra rb : Nat} (h : Ready d k [.x rd, .x ra, .x rb] l)
    (hn : (Fmt.s32.convert (d.mode l.clearing) .rne 0
      ((Acc.ofWord ((d.ctx k).getX rb ++ (d.ctx k).getX ra)).val .rne)).2 = false) :
    doCvtAw k rd ra rb d =
      (d.lossConversions l.clearing (b2n (Acc.ofWord ((d.ctx k).getX rb ++ (d.ctx k).getX ra)).loss)).modCtx k fun c =>
        (c.putX rd (BitVec.ofNat 64 (Fmt.s32.convert (d.mode l.clearing) .rne 0
          ((Acc.ofWord ((d.ctx k).getX rb ++ (d.ctx k).getX ra)).val .rne)).1)).advance := by
  rw [doCvtAw, Dev.issuer_of_ready h]
  simp only [hn, Bool.false_eq_true, if_false, Bool.false_and]

/-- A fence holds its context while an access of it has not been served (R149). -/
theorem doFenceT_of_waits (h : ∃ r ∈ d.mem.reqs, r.ctx = k ∧ r.served = false) : doFenceT k d = d := by
  rw [doFenceT, if_pos]
  simpa using h

theorem doFenceT_of_ready (hs : ∀ r ∈ d.mem.reqs, r.ctx = k → r.served = true) (h : Ready d k [] l) :
    doFenceT k d = d.modCtx k Ctx.advance := by
  rw [doFenceT, if_neg]
  · exact Dev.issue_of_ready h _
  · simpa using hs

end

/-! ## The barrier of a tile (R145) -/

theorem Dev.foldl_modCtx (f : Ctx → Ctx) (ks : List Nat) (d : Dev) :
    ks.foldl (fun d k => d.modCtx k f) d = { d with ctxs := ks.foldl (fun c k => Tab.mod Ctx.reset c k f) d.ctxs } := by
  induction ks generalizing d with
  | nil => rfl
  | cons k ks ih => rw [List.foldl_cons, ih]; rfl

/-- The context `j` belongs to the launch `id` on the tile `t`. -/
def Dev.Peer (d : Dev) (id t j : Nat) : Prop := (d.ctx j).launch = some id ∧ ctxTile j = t

def Ctx.released (c : Ctx) : Ctx := { c with atBarrier := false }

section
variable {d : Dev} {id t : Nat} (hw : Tab.wf Ctx.reset d.ctxs = true)
include hw

theorem Dev.mem_peers {j : Nat} : j ∈ d.peers id t ↔ d.Peer id t j := by
  simp only [Dev.peers, Dev.Peer, List.mem_map, List.mem_filter, Bool.and_eq_true, beq_iff_eq, Prod.exists,
    exists_and_right, exists_eq_right]
  constructor
  · rintro ⟨v, hm, hl, ht⟩
    exact ⟨(congrArg Ctx.launch (Tab.get_of_mem hw hm)).trans hl, ht⟩
  · rintro ⟨hl, ht⟩
    refine ⟨_, Tab.mem_of_get fun hz => ?_, hl, ht⟩
    rw [show d.ctx j = Ctx.reset from hz] at hl
    cases hl

/-- While a thread neither waits nor has exited, those that wait stay. -/
theorem Dev.releaseBarrier_of_waits
    (h : ∃ j, d.Peer id t j ∧ (d.ctx j).atBarrier = false ∧ (d.ctx j).exited = false) : d.releaseBarrier id t = d := by
  obtain ⟨j, hj, hb, he⟩ := h
  rw [Dev.releaseBarrier]
  refine if_neg fun hall => ?_
  have := List.all_eq_true.1 hall j ((Dev.mem_peers hw).2 hj)
  simp [hb, he] at this

theorem Dev.releaseBarrier_of_all (h : ∀ j, d.Peer id t j → (d.ctx j).atBarrier = true ∨ (d.ctx j).exited = true) :
    d.releaseBarrier id t = { d with ctxs := (d.releaseBarrier id t).ctxs } ∧
    ∀ j, (d.Peer id t j → (d.releaseBarrier id t).ctx j = (d.ctx j).released) ∧
      (¬ d.Peer id t j → (d.releaseBarrier id t).ctx j = d.ctx j) := by
  have hrel : d.releaseBarrier id t = { d with
      ctxs := (d.peers id t).foldl (fun c k => Tab.mod Ctx.reset c k Ctx.released) d.ctxs } := by
    rw [Dev.releaseBarrier]
    refine (if_pos (List.all_eq_true.2 fun j hj => ?_)).trans (Dev.foldl_modCtx _ _ d)
    simpa using h j ((Dev.mem_peers hw).1 hj)
  have hget (j : Nat) := Tab.get_foldl_mod (f := Ctx.released) (fun _ => rfl) (d.peers id t) hw j
  rw [hrel]
  exact ⟨rfl, fun j => ⟨fun hp => (hget j).trans (if_pos ((Dev.mem_peers hw).2 hp)),
    fun hp => (hget j).trans (if_neg fun hm => hp ((Dev.mem_peers hw).1 hm))⟩⟩

section
variable {k : Nat} {f : Ctx → Ctx} (hf : ∀ c, (f c).launch = c.launch)
include hf

theorem Dev.peer_modCtx {j : Nat} : (d.modCtx k f).Peer id t j ↔ d.Peer id t j := by
  have : ((d.modCtx k f).ctx j).launch = (d.ctx j).launch := by
    rw [show (d.modCtx k f).ctx j = _ from Tab.get_mod hw k j f]
    split
    · next hj => subst hj; exact hf _
    · rfl
  simp only [Dev.Peer, this]

/-- A context that comes to the barrier, or exits, before another thread of its launch leaves the others as they are. -/
theorem Dev.releaseBarrier_modCtx_of_waits
    (h : ∃ j, d.Peer id t j ∧ j ≠ k ∧ (d.ctx j).atBarrier = false ∧ (d.ctx j).exited = false) :
    (d.modCtx k f).releaseBarrier id t = d.modCtx k f := by
  obtain ⟨j, hj, hk, hb, he⟩ := h
  have hc : (d.modCtx k f).ctx j = d.ctx j := Tab.get_set_ne _ _ _ hk
  exact Dev.releaseBarrier_of_waits (Tab.mod_wf _ _ hw _ _)
    ⟨j, (Dev.peer_modCtx hw hf).2 hj, hc ▸ hb, hc ▸ he⟩

/-- The last thread that comes to the barrier, or exits, releases all. -/
theorem Dev.releaseBarrier_modCtx_of_last (hk : d.Peer id t k)
    (hlast : (f (d.ctx k)).atBarrier = true ∨ (f (d.ctx k)).exited = true)
    (h : ∀ j, d.Peer id t j → j ≠ k → (d.ctx j).atBarrier = true ∨ (d.ctx j).exited = true) :
    (d.modCtx k f).releaseBarrier id t = { d with ctxs := ((d.modCtx k f).releaseBarrier id t).ctxs } ∧
    ((d.modCtx k f).releaseBarrier id t).ctx k = (f (d.ctx k)).released ∧
    (∀ j, d.Peer id t j → j ≠ k → ((d.modCtx k f).releaseBarrier id t).ctx j = (d.ctx j).released) ∧
    ∀ j, ¬ d.Peer id t j → ((d.modCtx k f).releaseBarrier id t).ctx j = d.ctx j := by
  have hself : (d.modCtx k f).ctx k = f (d.ctx k) := Tab.get_set _ _ hw _ _
  have hne {j : Nat} (hj : j ≠ k) : (d.modCtx k f).ctx j = d.ctx j := Tab.get_set_ne _ _ _ hj
  obtain ⟨hframe, hctx⟩ := Dev.releaseBarrier_of_all (id := id) (t := t) (Tab.mod_wf _ _ hw k f) fun j hj => by
    by_cases hjk : j = k
    · rw [hjk]; exact hself ▸ hlast
    · exact (hne hjk) ▸ h j ((Dev.peer_modCtx hw hf).1 hj) hjk
  refine ⟨hframe, ?_, fun j hj hjk => ?_, fun j hj => ?_⟩
  · exact ((hctx k).1 ((Dev.peer_modCtx hw hf).2 hk)).trans (congrArg _ hself)
  · exact ((hctx j).1 ((Dev.peer_modCtx hw hf).2 hj)).trans (congrArg _ (hne hjk))
  · exact ((hctx j).2 (mt (Dev.peer_modCtx hw hf).1 hj)).trans (hne fun hjk => hj (hjk ▸ hk))

end

end

theorem Ready.launchId {d : Dev} {k : Nat} {regs : List Dest} {l : LaunchSt} (h : Ready d k regs l) :
    (d.ctx k).launch = some l.id := by
  have hl := h.launch
  unfold Dev.ctxLaunch at hl
  split at hl
  · next i hi =>
    have hid := List.find?_some hl
    simp only [beq_iff_eq] at hid
    rw [hi, hid]
  · cases hl

/-- Settles O17: a ready context issues, and each operation's own effect follows. -/
theorem threadValues : Obligations.ThreadValues := by
  constructor
  · intro s ci rd ra rb rc l hr d₀ k c
    refine ⟨?_, ?_, ?_, ?_⟩
    · intro h a puts stops scalar
      have gives {op : ThreadFp} {v : DWord}
          (hv : threadFp op (c.getX ra.val) (c.getX rb.val) (c.getX rc.val) = some v) : puts op v :=
        act_defined_eq_next hr (doThreadFloatOp_of_some h hv)
      have refuses {op : ThreadFp}
          (hv : threadFp op (c.getX ra.val) (c.getX rb.val) (c.getX rc.val) = none) : stops op :=
        act_defined_eq_next hr (doThreadFloatOp_of_none h hv)
      refine ⟨fun op f => ⟨fun hf => gives ?_, fun hf => refuses ?_⟩,
        fun f g => ⟨fun hf hg => gives ?_, fun hf => refuses ?_⟩,
        fun f w sg => ⟨fun hf => ⟨gives ?_, gives ?_⟩, fun hf => ⟨refuses ?_, refuses ?_⟩⟩⟩
      · simp only [threadFp, FpFmt.scalar_iff.2 hf, if_true, a]
      · simp only [threadFp, FpFmt.not_scalar hf, Bool.false_eq_true, if_false]
      · simp only [threadFp, FpFmt.scalar_iff.2 hf, FpFmt.scalar_iff.2 hg, Bool.and_true, if_true, a]
      · have : (f.scalar && g.scalar) = false := by
          rcases hf with hf | hf <;> simp [FpFmt.not_scalar hf]
        simp only [threadFp, this, Bool.false_eq_true, if_false]
      · simp only [threadFp, FpFmt.scalar_iff.2 hf, if_true, a]
      · simp only [threadFp, FpFmt.scalar_iff.2 hf, if_true, a]
      · simp only [threadFp, FpFmt.not_scalar hf, Bool.false_eq_true, if_false]
      · simp only [threadFp, FpFmt.not_scalar hf, Bool.false_eq_true, if_false]
    · intro op vd va vb vc imm h y
      exact act_defined_eq_next hr ((Dev.issue_of_ready h _).trans (Dev.steps_congr rfl))
    · intro h pos all i reads
      have hs {sr : SpecialReg} {v : DWord} (hv : l.special k c sr = v) : reads sr v :=
        act_defined_eq_next hr ((doRdsr_of_ready h sr).trans (Dev.steps_congr (congrArg (c.putX rd.val) hv)))
      have hcore : k / 512 = ci.core.val := by have := ci.n.isLt; omega
      have htile : ctxTile k = ci.core.val / 32 := by rw [ctxTile, hcore]
      refine ⟨hs ?_, hs ?_, hs rfl, hs ?_, hs rfl, hs rfl, hs rfl, hs rfl, fun sr => ?_⟩
      · rw [LaunchSt.special, htile]
      · rw [LaunchSt.special, hcore]
      · rw [LaunchSt.special, LaunchSt.rankOf, htile, hcore]; rfl
      · exact act_defined_eq_next hr (Dev.issue_of_ready (h.mono fun _ hn => absurd hn List.not_mem_nil) _)
    · intro h x r hn hw
      refine ⟨_, act_defined_eq_next hr (doCvtAw_of_ready h hn), rfl, ?_, rfl⟩
      exact congrArg Clearing.num (Tab.get_set _ _ hw _ _)
  · intro s ci ra link target l hr d₀ k c goes
    refine ⟨fun h => ?_, fun h => act_defined_eq_next hr (Dev.issue_of_ready h _), fun h => ⟨fun hs => ?_, fun hs => ?_, ?_⟩⟩
    · have gives {b : BranchKind} {f : Ctx → Ctx}
          (hf : { (if b = .call then c.putX link.val (c.pc + 4) else c) with pc := branchTo b c ra.val target } = f c) :
          exec (.threadBranch ci b ra link target) s = goes f :=
        act_defined_eq_next hr ((doThreadBranch_of_ready h b target).trans (Dev.modCtx_congr hf))
      exact ⟨gives rfl, gives rfl, gives rfl, gives rfl, gives rfl⟩
    · exact act_defined_eq_next hr (doFenceT_of_ready hs h)
    · exact act_defined_eq_next hr (doFenceT_of_waits hs)
    · intro hw peer bar gone
      have bars : doBarTile k d₀ = (d₀.modCtx k bar).releaseBarrier l.id (ctxTile k) := by
        rw [doBarTile, Dev.issuer_of_ready h]; rfl
      have exits : doExit k d₀ = (d₀.modCtx k gone).releaseBarrier l.id (ctxTile k) := by
        rw [doExit, Dev.issuer_of_ready h]
      have hk : d₀.Peer l.id (ctxTile k) k := ⟨h.launchId, rfl⟩
      refine ⟨fun hj => ⟨?_, ?_⟩, fun hj => ?_⟩
      · exact act_defined_eq_next hr (bars.trans (Dev.releaseBarrier_modCtx_of_waits hw (fun _ => rfl) hj))
      · exact act_defined_eq_next hr (exits.trans (Dev.releaseBarrier_modCtx_of_waits hw (fun _ => rfl) hj))
      · obtain ⟨hd, hdk, hdp, hdn⟩ := Dev.releaseBarrier_modCtx_of_last (f := bar) hw (fun _ => rfl) hk (.inl rfl) hj
        obtain ⟨he, hek, hep, hen⟩ := Dev.releaseBarrier_modCtx_of_last (f := gone) hw (fun _ => rfl) hk (.inr rfl) hj
        exact ⟨_, _, act_defined_eq_next hr bars, act_defined_eq_next hr exits, hd, he, hdk, hek,
          fun j hp hjk => ⟨hdp j hp hjk, hep j hp hjk⟩, fun j hp => ⟨hdn j hp, hen j hp⟩⟩

end Sys2Proof.Machine

/-! PROOFS. Memory accesses of a thread (R146, R147) and the queues of the engines (R154, R159). -/

namespace Sys2Proof.Machine
open Sys2Proof

/-! ## The check of an access (R146) -/

/-- The handle that a slot of the launch holds. -/
def LaunchSt.handleOf (l : LaunchSt) (slot : Nat) : Word := l.handles[slot]?.getD 0xFFFFFFFF

/-- The object that a slot of the launch is bound to. -/
def Dev.slotObj (d : Dev) (l : LaunchSt) (slot : Nat) : Obj := d.obj (objIndex (l.handleOf slot))

section
variable {d : Dev} {l : LaunchSt} {slot off n m : Nat} {write : Bool}

/-- The checks of R146 in their order. -/
theorem Dev.threadCheck_eq (d : Dev) (l : LaunchSt) (slot off n m : Nat) (write : Bool) :
    d.threadCheck l slot off n m write = (l.handleOf slot, d.slotObj l slot,
      if l.handleOf slot = 0xFFFFFFFF then .aborted
      else if ¬ off + n ≤ (d.slotObj l slot).size then .aborted
      else if ¬ ((d.slotObj l slot).clearing.toNat = l.clearing ∨ (write = false ∧ (d.slotObj l slot).owner = 0 ∧
        d.readGrant (d.slotObj l slot).clearing.toNat l.clearing = true)) then .ownerDenied
      else if off % m ≠ 0 then .aborted else .ok) := by
  simp only [Dev.threadCheck, LaunchSt.handleOf, Dev.slotObj]
  simp only [Obj.holds, Bool.not_eq_true', decide_eq_false_iff_not, Bool.or_eq_false_iff, beq_eq_false_iff_ne,
    Bool.and_eq_false_imp, Bool.and_eq_true, beq_iff_eq, and_imp, not_or, not_and, Bool.not_eq_true]
  split_ifs <;> rfl

theorem Dev.threadCheck_of_reaches (h : Reaches d l slot off n write) :
    (d.threadCheck l slot off n n write).2.2 = .ok := by
  obtain ⟨hb, hn, hc, ha⟩ := h
  rw [Dev.threadCheck_eq]
  exact (if_neg hb).trans ((if_neg (not_not.2 hn)).trans ((if_neg (not_not.2 hc)).trans (if_neg (not_not.2 ha))))

theorem Dev.threadCheck_outside (h : l.handleOf slot = 0xFFFFFFFF ∨ (d.slotObj l slot).size < off + n) :
    (d.threadCheck l slot off n m write).2.2 = .aborted := by
  rw [Dev.threadCheck_eq]
  dsimp only
  by_cases hb : l.handleOf slot = 0xFFFFFFFF
  · rw [if_pos hb]
  · rw [if_neg hb, if_pos (Nat.not_le.2 (h.resolve_left hb))]

section
variable (hb : l.handleOf slot ≠ 0xFFFFFFFF) (hn : off + n ≤ (d.slotObj l slot).size)
include hb hn

theorem Dev.threadCheck_denied (hc : (d.slotObj l slot).clearing.toNat ≠ l.clearing)
    (hw : write = true ∨ (d.slotObj l slot).owner ≠ 0 ∨
      d.readGrant (d.slotObj l slot).clearing.toNat l.clearing = false) :
    (d.threadCheck l slot off n m write).2.2 = .ownerDenied := by
  rw [Dev.threadCheck_eq]
  dsimp only
  rw [if_neg hb, if_neg (not_not.2 hn), if_pos]
  rintro (h | ⟨h1, h2, h3⟩)
  · exact hc h
  · simp [h1, h2, h3] at hw

theorem Dev.threadCheck_unaligned (hc : (d.slotObj l slot).clearing.toNat = l.clearing)
    (ha : off % m ≠ 0) : (d.threadCheck l slot off n m write).2.2 = .aborted := by
  rw [Dev.threadCheck_eq]
  dsimp only
  rw [if_neg hb, if_neg (not_not.2 hn), if_neg (not_not.2 (.inl hc)), if_pos ha]

end

end

/-! ## The issue of an access -/

section
variable {d : Dev} {k : Nat} {regs : List Dest} {l : LaunchSt} {slot n : Nat} {off : BitVec 64} {write : Bool}
  {dest : Dest} {kind : Ctx → AccKind} (h : Ready d k regs l)
include h

theorem Dev.memIssue_of_reaches (hr : Reaches d l slot off.toNat n write) :
    d.memIssue k regs slot off n n write dest kind = d.asks k l slot off.toNat dest (kind (d.ctx k)) := by
  rw [Dev.memIssue, Dev.issuer_of_ready h]
  dsimp only
  rw [if_neg (not_not.2 (Dev.threadCheck_of_reaches hr)), Dev.threadCheck_eq]
  rfl

theorem Dev.memIssue_of_aborted (hc : (d.threadCheck l slot off.toNat n n write).2.2 = .aborted) :
    d.memIssue k regs slot off n n write dest kind = d.faults k l .aborted 0 := by
  rw [Dev.memIssue, Dev.issuer_of_ready h]
  dsimp only
  rw [hc, if_pos (by simp), if_neg (by simp), Dev.faultLaunch_of_ready h]

theorem Dev.memIssue_of_denied (hc : (d.threadCheck l slot off.toNat n n write).2.2 = .ownerDenied) :
    d.memIssue k regs slot off n n write dest kind = d.faults k l .ownerDenied ((l.handleOf slot).setWidth 64) := by
  rw [Dev.memIssue, Dev.issuer_of_ready h]
  dsimp only
  rw [hc, if_pos (by simp), if_pos rfl, Dev.faultLaunch_of_ready h, Dev.threadCheck_eq]

end

/-- Settles O18: an access that reaches its object waits at its home slice; `threadCheck` names what stops another. -/
theorem threadAccesses : Obligations.ThreadAccesses := by
  constructor
  · intro s ci rd rs rc v slot off l hr d₀ k c out
    refine ⟨fun w => ⟨fun h hx => ?_, fun h hx => ?_⟩, fun h hx => ?_, fun h hx => ⟨?_, fun m => ?_⟩,
      fun op wide ret h hx => ?_, fun ret h hx => ?_, fun anchor h hx => ?_, fun f hf h hx => ?_⟩
    · exact act_defined_eq_next hr (Dev.memIssue_of_reaches h hx)
    · exact act_defined_eq_next hr (Dev.memIssue_of_reaches h hx)
    · exact act_defined_eq_next hr (Dev.memIssue_of_reaches h hx)
    · exact act_defined_eq_next hr (Dev.memIssue_of_reaches h hx)
    · exact act_defined_eq_next hr (Dev.memIssue_of_reaches h hx)
    · refine act_defined_eq_next hr ((Dev.memIssue_of_reaches h hx).trans ?_)
      simp only [Bool.or_eq_true, decide_eq_true_eq, or_assoc]
      rfl
    · exact act_defined_eq_next hr (Dev.memIssue_of_reaches h hx)
    · exact act_defined_eq_next hr (Dev.memIssue_of_reaches h hx)
    · refine act_defined_eq_next hr (Eq.trans ?_ (Dev.memIssue_of_reaches (kind := fun x => .xadd f (x.getX rs.val)) h hx))
      exact if_neg hf
  · intro s ci rd rs w slot off l hr d₀ k n h o stops
    refine ⟨fun hk => ⟨fun hx => ?_, fun hb hn hc hx => ?_, fun hb hn hc hx => ?_⟩, fun hk hb hn hc => ?_⟩
    · exact act_defined_eq_next hr (Dev.memIssue_of_aborted hk (Dev.threadCheck_outside hx))
    · exact act_defined_eq_next hr (Dev.memIssue_of_denied hk (Dev.threadCheck_denied hb hn hc (.inr hx)))
    · exact act_defined_eq_next hr (Dev.memIssue_of_aborted hk (Dev.threadCheck_unaligned hb hn hc hx))
    · exact act_defined_eq_next hr (Dev.memIssue_of_denied hk (Dev.threadCheck_denied hb hn hc (.inl rfl)))

/-! ## The tile's operand store (R147) -/

theorem leBytes_getElem? {n v i : Nat} (h : i < n) : (leBytes n v)[i]? = some (BitVec.ofNat 8 (v / 256 ^ i)) := by
  induction n generalizing v i with
  | zero => omega
  | succ n ih =>
    cases i with
    | zero => simp [leBytes]
    | succ i =>
      rw [leBytes, List.getElem?_cons_succ, ih (by omega), Nat.div_div_eq_div_mul, ← Nat.pow_succ']

theorem LaunchSt.inPages_iff {l : LaunchSt} {off n : Nat} (h0 : 0 < n) : l.inPages off n = true ↔
    4096 * l.tsFirst ≤ off ∧ off + n ≤ 4096 * (l.tsFirst + l.tsCount) ∧ off + n ≤ 8388608 := by
  have : (n == 0) = false := by simpa using h0.ne'
  simp only [LaunchSt.inPages, this, Bool.false_or, Bool.and_eq_true, decide_eq_true_eq, and_assoc]
  rfl

theorem TileSt.read_eq {x : TileSt} {off n : Nat} (free : Nat) (h : off + n ≤ 8388608) :
    x.read free off n = (List.range n).map fun i => Tab.get 0 x.op (off + i) := by
  refine List.map_congr_left fun i hi => if_pos ?_
  have := List.mem_range.1 hi
  have : opBytes = 8388608 := by decide
  omega

/-- The bytes of the operand store after a write within it. -/
theorem TileSt.get_write {x : TileSt} {off n v : Nat} (hw : Tab.wf 0 x.op = true) (h : off + n ≤ 8388608) (i : Nat) :
    Tab.get 0 (x.write off (leBytes n v)).op i =
      if off ≤ i ∧ i < off + n then BitVec.ofNat 8 (v / 256 ^ (i - off)) else Tab.get 0 x.op i := by
  have hb : opBytes = 8388608 := by decide
  have hlen : (leBytes n v).length = n := leBytes_length n v
  rw [TileSt.write, List.take_of_length_le (by omega)]
  refine (Tab.get_setRun hw _ off i).trans ?_
  rw [hlen]
  split
  · next hi => rw [leBytes_getElem? (by omega)]; rfl
  · rfl

section
variable {d : Dev} {k : Nat} {l : LaunchSt} {rd n : Nat} {off : BitVec 64} (h : Ready d k [.x rd] l)
include h

theorem doLdt_inside (hn : 0 < n) (hin : l.inPages off.toNat n = true) : doLdt k rd n off d = d.steps k fun c =>
    c.putX rd (BitVec.ofNat 64 (leVal ((List.range n).map fun i => Tab.get 0 (d.tile (ctxTile k)).op (off.toNat + i)))) := by
  rw [doLdt, Dev.issuer_of_ready h, ← TileSt.read_eq 0 ((LaunchSt.inPages_iff hn).1 hin).2.2]
  exact if_pos hin

theorem doStt_inside (hin : l.inPages off.toNat n = true) : doStt k rd n off d =
    (d.modTile (ctxTile k) fun x => x.write off.toNat (leBytes n ((d.ctx k).getX rd).toNat)).modCtx k Ctx.advance := by
  rw [doStt, Dev.issuer_of_ready h]
  exact if_pos hin

theorem doTileAccess_outside (hin : ¬ l.inPages off.toNat n = true) :
    doLdt k rd n off d = d.faults k l .aborted 0 ∧ doStt k rd n off d = d.faults k l .aborted 0 := by
  rw [doLdt, doStt, Dev.issuer_of_ready h]
  exact ⟨(if_neg hin).trans (Dev.faultLaunch_of_ready h _ _), (if_neg hin).trans (Dev.faultLaunch_of_ready h _ _)⟩

end

/-- The number of a context gives its tile. -/
theorem ctxTile_ctxKey (c : CtxId) : ctxTile (ctxKey c) = c.core.val / 32 := by
  have := c.n.isLt
  simp only [ctxTile, ctxKey]
  omega

/-- Settles O19: within the launch's pages the tile is read and written; outside the launch stops. -/
theorem tileMemory : Obligations.TileMemory := by
  intro s ci rd w off l hr d₀ k t n h inside
  have h0 : 0 < n := by cases w <;> decide
  have ht : ctxTile k = t := ctxTile_ctxKey ci
  have hin : l.inPages off.toNat n = true ↔ inside := LaunchSt.inPages_iff h0
  refine ⟨fun hi => ⟨?_, fun hw htw => ?_⟩, fun hi => ⟨?_, ?_⟩⟩
  · rw [← ht]
    exact act_defined_eq_next hr (doLdt_inside h h0 (hin.2 hi))
  · have hd := doStt_inside h (hin.2 hi)
    rw [ht] at hd
    have htile : ((d₀.modTile t fun x => x.write off.toNat (leBytes n ((d₀.ctx k).getX rd.val).toNat)).tile t) =
      (d₀.tile t).write off.toNat (leBytes n ((d₀.ctx k).getX rd.val).toNat) := Tab.get_set _ _ htw _ _
    refine ⟨_, act_defined_eq_next hr hd, fun i => ?_, ?_, fun u hu => ?_, rfl⟩
    · exact (congrArg (fun x : TileSt => Tab.get 0 x.op i) htile).trans (TileSt.get_write hw hi.2.2 i)
    · exact (congrArg TileSt.acc htile).trans rfl
    · exact Tab.get_set_ne _ _ _ hu
  · exact act_defined_eq_next hr (doTileAccess_outside h (mt hin.1 hi)).1
  · exact act_defined_eq_next hr (doTileAccess_outside h (mt hin.1 hi)).2

/-! ## The queues of the engines (R154, R159) -/

section
variable {d : Dev} {k : Nat} {l : LaunchSt} {rd : Nat} {desc : BitVec 64} (h : Ready d k [.x rd] l)
include h

theorem doSetop_of_ready : doSetop k rd desc d =
    if 16 ≤ (d.tile (ctxTile k)).setq.length then d
    else (d.modTile (ctxTile k) fun x => { x with
      setq := x.setq ++ [{ ctx := k, rd := rd, desc := desc.toNat, gen := d.tileGen (ctxTile k) }] }).modCtx k
        fun c => (c.await (.x rd)).advance := by
  rw [doSetop, Dev.issuer_of_ready h]

theorem doVrun_of_ready {stream : BitVec 16} {draws : Bool} : doVrun k rd desc stream draws d =
    if draws && (d.genSlot l.clearing).isNone then d.faultLaunch k .aborted .decode 0
    else if 8 ≤ (d.tile (ctxTile k)).vecq.length then d
    else (d.modTile (ctxTile k) fun x => { x with
      vecq := x.vecq ++ [{
        ctx := k, rd := rd, block := desc.toNat, stream := stream,
        token := openResult .token 64 [desc.toNat, stream.toNat], gen := d.tileGen (ctxTile k) }] }).modCtx k
          fun c => (c.await (.x rd)).advance := by
  rw [doVrun, Dev.issuer_of_ready h]

end

/-- Settles O24: an engine's queue takes the operation while it has room. -/
theorem enginesQueue : Obligations.EnginesQueue := by
  intro s ci rd desc stream draws l hr d₀ k t waits h
  have ht : ctxTile k = t := ctxTile_ctxKey ci
  have hset := doSetop_of_ready (desc := desc) h
  have hvec := doVrun_of_ready (desc := desc) (stream := stream) (draws := draws) h
  rw [ht] at hset hvec
  refine ⟨fun hl => ?_, fun hl => ?_, fun hg => ?_, fun hd hg => ?_⟩
  · exact act_defined_eq_next hr (hset.trans (if_neg (Nat.not_le.2 hl)))
  · exact act_defined_eq_next hr (hset.trans (if_pos hl))
  · rw [if_neg] at hvec
    · exact ⟨fun hl => ⟨_, rfl, rfl, rfl, rfl, rfl, act_defined_eq_next hr (hvec.trans (if_neg (Nat.not_le.2 hl)))⟩,
        fun hl => act_defined_eq_next hr (hvec.trans (if_pos hl))⟩
    · rw [Bool.and_eq_true]
      rintro ⟨hd, hn⟩
      have := hg hd
      cases hs : d₀.genSlot l.clearing <;> simp_all
  · refine act_defined_eq_next hr (hvec.trans ((if_pos (by simp [hd, hg])).trans ?_))
    simp only [Dev.faultLaunch, h.launch, h.runs, if_true]
    rfl

end Sys2Proof.Machine

/-! PROOFS. What a memory response does at the context that waits for it (R140, R162, R358). -/

namespace Sys2Proof.Machine
open Sys2Proof

section
variable {d : Dev} {id : Nat} {r : MemReq} (h : d.mem.reqs.find? (fun r => r.id == id && r.served) = some r)
include h

/-- The device once a response has left the list of requests. -/
theorem doMemoryResponse_eq : doMemoryResponse id d =
    let d₀ : Dev := { d with mem := { d.mem with reqs := d.mem.reqs.filter fun x => x.id != id } }
    if r.gen ≠ d.tileGen r.tile then d₀.staleReply
    else if r.status ≠ .ok then
      d₀.faultLaunch r.ctx r.status r.detail (hitInfo r.handle (d.obj (objIndex r.handle))
        { status := r.status, detail := r.detail, addr := r.ra })
    else d₀.modCtx r.ctx fun c =>
      c.arrive r.dest (BitVec.ofNat 64 (leVal r.result)) (BitVec.ofNat 256 (leVal r.result)) := by
  rw [doMemoryResponse, h]
  rfl

end

/-- A fault of a running launch's context is the launch's own: no other launch changes, and no number. -/
theorem Dev.faultLaunch_launches {d : Dev} {k : Nat} {l : LaunchSt} (hl : d.ctxLaunch k = some l) (hp : l.ph = .running)
    (st : Status) (det : Detail) (info : BitVec 64) :
    (∀ x ∈ (d.faultLaunch k st det info).launches, x.id = l.id → x.ph = .stopping ∧ x.status = st ∧ x.info = info) ∧
    d.faultLaunch k st det info = { d with launches := (d.faultLaunch k st det info).launches } ∧
    (d.faultLaunch k st det info).launches.map (·.id) = d.launches.map (·.id) := by
  simp only [Dev.faultLaunch, hl, hp, if_true, Dev.modLaunch]
  refine ⟨fun x hx hid => ?_, trivial, ?_⟩
  · obtain ⟨y, _, rfl⟩ := List.mem_map.1 hx
    by_cases hy : y.id = l.id
    · simp only [hy, if_true, and_self]
    · simp only [hy, if_false] at hid
  · rw [List.map_map]
    refine List.map_congr_left fun y _ => ?_
    simp only [Function.comp_apply]
    split <;> rfl

/-- Settles O23: the response is dropped, stops the launch or arrives, by its generation and its status. -/
theorem responsesArrive : Obligations.ResponsesArrive := by
  intro s id r l hr h d₀
  have hd := doMemoryResponse_eq h
  refine ⟨fun hg => ?_, fun hg hs => ?_, fun hg hs hl hp => ?_⟩
  · exact act_eq_next hr (hd.trans (if_pos hg))
  · exact act_eq_next hr (hd.trans ((if_neg (not_not.2 hg)).trans (if_neg (not_not.2 hs))))
  · obtain ⟨hall, hframe, hids⟩ := Dev.faultLaunch_launches hl hp r.status r.detail
      (hitInfo r.handle (s.dev.obj (objIndex r.handle)) { status := r.status, detail := r.detail, addr := r.ra })
    exact ⟨_, _, act_eq_next hr (hd.trans ((if_neg (not_not.2 hg)).trans (if_pos hs))), hall, hframe, hids⟩

end Sys2Proof.Machine

/-! PROOFS. The home slice: its sectors, and the accesses it serves (R149–R151, R176). -/

namespace Sys2Proof.Machine
open Sys2Proof

/-! ## Bytes of the home slice's lines -/

/-- The bytes of every line are in canonical form. -/
def Dev.LinesWf (d : Dev) : Prop := ∀ i, Tab.wf none (Tab.get CacheLine.reset d.mem.cache i).bytes = true

/-- Only the lines of the slice differ. -/
def Dev.SliceOnly (d d' : Dev) : Prop := d' = { d with mem := { d.mem with cache := d'.mem.cache } }

section
variable {d : Dev} {p a : Nat}

theorem Dev.line_modLine {f : CacheLine → CacheLine} (hf : f (d.line p) ≠ CacheLine.reset) :
    (d.modLine p f).line a = if a / 128 = p / 128 then f (d.line p) else d.line a := by
  split
  · next h => rw [Dev.line, h]; exact Tab.get_set_self _ _ _ hf
  · next h => exact Tab.get_set_ne _ _ _ h

theorem Dev.LinesWf.line (h : d.LinesWf) : Tab.wf none (d.line p).bytes = true := h _

theorem Dev.linesWf_modLine {f : CacheLine → CacheLine} (hf : f (d.line p) ≠ CacheLine.reset)
    (hw : Tab.wf none (f (d.line p)).bytes = true) (h : d.LinesWf) : (d.modLine p f).LinesWf := by
  intro i
  by_cases hi : i = p / 128
  · rw [hi, show Tab.get CacheLine.reset (d.modLine p f).mem.cache (p / 128) = f (d.line p) from
      Tab.get_set_self _ _ _ hf]
    exact hw
  · rw [show Tab.get CacheLine.reset (d.modLine p f).mem.cache i = Tab.get CacheLine.reset d.mem.cache i from
      Tab.get_set_ne _ _ _ hi]
    exact h i

/-- The byte's sector is dirty: its bytes are the slice's. -/
def Dev.dirtyAt (d : Dev) (p : Nat) : Bool := (d.line p).dirty.getLsbD (p % 128 / 32)

theorem CacheLine.ne_reset_of_dirty {l : CacheLine} {i : Nat} (h : l.dirty.getLsbD i = true) : l ≠ CacheLine.reset := by
  rintro rfl
  simp [CacheLine.reset] at h

theorem Dev.dirtySector_of_dirty (h : d.dirtyAt p = true) : d.dirtySector p = d := if_pos h

theorem getLsbD_setBit_sector (v : BitVec 4) (s a : Nat) :
    (setBit v s).getLsbD (a % 128 / 32) = (v.getLsbD (a % 128 / 32) || decide (a % 128 / 32 = s)) :=
  getLsbD_setBit v s (by omega)

/-- What memory holds in the sector of a byte. -/
@[irreducible] def Dev.memSector (d : Dev) (p : Nat) : List (Option Byte) :=
  (List.range 32).map fun i => Tab.get none d.mem.hbm (p / 32 * 32 + i)

theorem Dev.memSector_getElem? {p i : Nat} (hi : i < 32) :
    (d.memSector p)[i]? = some (Tab.get none d.mem.hbm (p / 32 * 32 + i)) := by
  rw [Dev.memSector, List.getElem?_map, List.getElem?_range hi]
  rfl

theorem Dev.memSector_length : (d.memSector p).length = 32 := by simp [Dev.memSector]

/-- The line once a clean sector of it is dirty. -/
def Dev.dirtied (d : Dev) (p : Nat) (l : CacheLine) : CacheLine :=
  { l with
    dirty := setBit l.dirty (p % 128 / 32)
    bytes := Tab.setRun none l.bytes (32 * (p % 128 / 32)) (d.memSector p) }

theorem Dev.dirtySector_of_clean (h : ¬ d.dirtyAt p = true) : d.dirtySector p = d.modLine p (d.dirtied p) := by
  unfold Dev.dirtied Dev.memSector
  exact if_neg h

theorem Dev.dirtied_ne_reset (l : CacheLine) : d.dirtied p l ≠ CacheLine.reset :=
  CacheLine.ne_reset_of_dirty (i := p % 128 / 32) (by simp [Dev.dirtied, getLsbD_setBit_sector])

theorem Dev.dirtyAt_dirtySector (d : Dev) (p : Nat) : (d.dirtySector p).dirtyAt p = true := by
  by_cases h : d.dirtyAt p = true
  · rwa [Dev.dirtySector_of_dirty h]
  · rw [Dev.dirtySector_of_clean h, Dev.dirtyAt, Dev.line_modLine (Dev.dirtied_ne_reset _), if_pos rfl]
    simp [Dev.dirtied, getLsbD_setBit_sector]

theorem Dev.linesWf_dirtySector (hw : d.LinesWf) : (d.dirtySector p).LinesWf := by
  by_cases h : d.dirtyAt p = true
  · rwa [Dev.dirtySector_of_dirty h]
  · rw [Dev.dirtySector_of_clean h]
    exact Dev.linesWf_modLine (Dev.dirtied_ne_reset _) (Tab.setRun_wf none _ _ hw.line _) hw

theorem Dev.sliceOnly_dirtySector (d : Dev) (p : Nat) : d.SliceOnly (d.dirtySector p) := by
  by_cases h : d.dirtyAt p = true
  · rw [Dev.dirtySector_of_dirty h]; rfl
  · rw [Dev.dirtySector_of_clean h]; rfl

theorem Dev.byteAt_eq (hl : d.mem.lockdown = false) (a : Nat) :
    d.byteAt a = if d.dirtyAt a then Tab.get none (d.line a).bytes (a % 128) else Tab.get none d.mem.hbm a := by
  unfold Dev.byteAt Dev.dirtyAt
  simp [hl]

/-- A sector that becomes dirty holds what memory held. -/
theorem Dev.byteAt_dirtySector (hl : d.mem.lockdown = false) (hw : d.LinesWf) (a : Nat) :
    (d.dirtySector p).byteAt a = d.byteAt a := by
  by_cases h : d.dirtyAt p = true
  · rw [Dev.dirtySector_of_dirty h]
  rw [Dev.dirtySector_of_clean h, Dev.byteAt_eq hl, Dev.byteAt_eq (d := d.modLine p _) hl, Dev.dirtyAt,
    Dev.line_modLine (Dev.dirtied_ne_reset _)]
  by_cases hline : a / 128 = p / 128
  · have hla : d.line a = d.line p := by rw [Dev.line, Dev.line, hline]
    rw [if_pos hline]
    simp only [Dev.dirtied, getLsbD_setBit_sector]
    have hget : Tab.get none (Tab.setRun none (d.line p).bytes (32 * (p % 128 / 32)) (d.memSector p)) (a % 128) =
      if a % 128 / 32 = p % 128 / 32 then Tab.get none d.mem.hbm a else Tab.get none (d.line p).bytes (a % 128) := by
      rw [Tab.get_setRun hw.line, Dev.memSector_length]
      by_cases hs : a % 128 / 32 = p % 128 / 32
      · rw [if_pos hs, if_pos (by omega), Dev.memSector_getElem? (by omega), Option.getD_some]
        congr 1
        omega
      · rw [if_neg hs, if_neg (by omega)]
    by_cases hs : a % 128 / 32 = p % 128 / 32
    · have hn : d.dirtyAt a = false := by
        simp only [Dev.dirtyAt, hla, hs]
        simpa [Dev.dirtyAt] using h
      simp only [hget, hs, decide_true, Bool.or_true, if_true, hn, Bool.false_eq_true, if_false]
    · simp only [hget, hs, decide_false, Bool.or_false, if_false, Dev.dirtyAt, hla]
      rfl
  · rw [if_neg hline]
    rfl

section
variable (h : d.dirtyAt p = true) (b : Byte)
include h

theorem Dev.putByte_of_dirty : d.putByte p b = d.modLine p fun l => { l with bytes := Tab.set none l.bytes (p % 128) (some b) } :=
  if_pos h

theorem Dev.sliceOnly_putByte : d.SliceOnly (d.putByte p b) := by rw [Dev.putByte_of_dirty h]; rfl

omit h in
theorem CacheLine.withBytes_ne_reset {l : CacheLine} {i : Nat} (hl : l.dirty.getLsbD i = true) (t : Tab (Option Byte)) :
    ({ l with bytes := t } : CacheLine) ≠ CacheLine.reset := CacheLine.ne_reset_of_dirty (i := i) hl

theorem Dev.linesWf_putByte (hw : d.LinesWf) : (d.putByte p b).LinesWf := by
  rw [Dev.putByte_of_dirty h]
  exact Dev.linesWf_modLine (CacheLine.withBytes_ne_reset h _) (Tab.set_wf none _ hw.line _ _) hw

/-- A byte written into a dirty sector is the slice's alone. -/
theorem Dev.byteAt_putByte (hl : d.mem.lockdown = false) (hw : d.LinesWf) (a : Nat) :
    (d.putByte p b).byteAt a = if a = p then some b else d.byteAt a := by
  rw [Dev.putByte_of_dirty h, Dev.byteAt_eq hl, Dev.byteAt_eq (d := d.modLine p _) hl, Dev.dirtyAt,
    Dev.line_modLine (CacheLine.withBytes_ne_reset h _)]
  by_cases hline : a / 128 = p / 128
  · have hla : d.line a = d.line p := by rw [Dev.line, Dev.line, hline]
    rw [if_pos hline]
    dsimp only
    by_cases ha : a = p
    · subst ha
      exact (if_pos h).trans ((Tab.get_set none _ hw.line _ _).trans (if_pos rfl).symm)
    · rw [if_neg ha, Tab.get_set_ne none _ _ (by omega), Dev.dirtyAt, hla]
      rfl
  · rw [if_neg hline, if_neg fun ha : a = p => hline (ha ▸ rfl)]
    rfl

end

/-- Write a byte into the slice: its sector is dirty from then on. -/
def Dev.sliceWrite (d : Dev) (p : Nat) (b : Byte) : Dev := (d.dirtySector p).putByte p b

theorem Dev.SliceOnly.trans {d₁ d₂ d₃ : Dev} (h : d₁.SliceOnly d₂) (h' : d₂.SliceOnly d₃) : d₁.SliceOnly d₃ := by
  unfold Dev.SliceOnly at *
  rw [h', h]

/-- A run of bytes written into the slice. -/
theorem Dev.sliceWrite_run (bs : List Byte) (i : Nat) {d : Dev} (hl : d.mem.lockdown = false) (hw : d.LinesWf) :
    let d' := (bs.zipIdx i).foldl (fun d b => d.sliceWrite (p + b.2) b.1) d
    d.SliceOnly d' ∧
    ∀ a, d'.byteAt a = if p + i ≤ a ∧ a < p + i + bs.length then bs[a - (p + i)]? else d.byteAt a := by
  induction bs generalizing i d with
  | nil => exact ⟨rfl, fun a => by rw [if_neg (by simp)]; rfl⟩
  | cons b bs ih =>
    have hd := Dev.dirtyAt_dirtySector d (p + i)
    have hs := Dev.sliceOnly_dirtySector d (p + i)
    have hl' : (d.dirtySector (p + i)).mem.lockdown = false := by rw [hs]; exact hl
    have hw' := Dev.linesWf_dirtySector (p := p + i) hw
    have hone : d.SliceOnly (d.sliceWrite (p + i) b) := hs.trans (Dev.sliceOnly_putByte hd b)
    obtain ⟨hrest, hbytes⟩ := ih (i + 1) (d := d.sliceWrite (p + i) b)
      (by rw [hone]; exact hl) (Dev.linesWf_putByte hd b hw')
    refine ⟨hone.trans hrest, fun a => (hbytes a).trans ?_⟩
    rw [Dev.sliceWrite, Dev.byteAt_putByte hd b hl' hw', Dev.byteAt_dirtySector hl hw]
    by_cases ha : a = p + i
    · subst ha
      rw [if_neg (by omega), if_pos rfl, if_pos (by simp)]
      simp
    · rw [List.length_cons]
      by_cases hr : p + (i + 1) ≤ a ∧ a < p + (i + 1) + bs.length
      · rw [if_pos hr, if_pos (by omega), show a - (p + i) = (a - (p + (i + 1))) + 1 by omega, List.getElem?_cons_succ]
      · rw [if_neg hr, if_neg ha, if_neg (by omega)]

end

/-! ## An access served by the slice -/

/-- Accounts and checks of the device, beside what it computes on, differ: neither memory nor what the engines, the
host, the keys and the links hold. -/
structure Dev.ServeFrame (d d' : Dev) : Prop where
  reqs : d'.mem.reqs = d.mem.reqs
  byteAt : ∀ a, d'.byteAt a = d.byteAt a
  hbm : d'.mem.hbm = d.mem.hbm
  ctxs : d'.ctxs = d.ctxs
  tiles : d'.tiles = d.tiles
  launches : d'.launches = d.launches
  host : d'.host = d.host
  sec : d'.sec = d.sec
  lnk : d'.lnk = d.lnk

theorem Dev.byteAt_congr {d d' : Dev} (h : d'.mem = d.mem) (a : Nat) : d'.byteAt a = d.byteAt a := by
  unfold Dev.byteAt Dev.line
  rw [h]

section
variable {d d' : Dev}

theorem Dev.ServeFrame.of_mem (h : d'.mem = d.mem) (hc : d'.ctxs = d.ctxs) (ht : d'.tiles = d.tiles)
    (hl : d'.launches = d.launches) (hh : d'.host = d.host) (hs : d'.sec = d.sec) (hk : d'.lnk = d.lnk) :
    d.ServeFrame d' :=
  ⟨by rw [h], Dev.byteAt_congr h, by rw [h], hc, ht, hl, hh, hs, hk⟩

theorem Dev.ServeFrame.trans {d₁ d₂ d₃ : Dev} (h : d₁.ServeFrame d₂) (h' : d₂.ServeFrame d₃) : d₁.ServeFrame d₃ :=
  ⟨h'.reqs.trans h.reqs, fun a => (h'.byteAt a).trans (h.byteAt a), h'.hbm.trans h.hbm, h'.ctxs.trans h.ctxs,
    h'.tiles.trans h.tiles, h'.launches.trans h.launches, h'.host.trans h.host, h'.sec.trans h.sec, h'.lnk.trans h.lnk⟩

theorem Dev.markDirty_frame (d : Dev) (f r ra : Nat) : d.ServeFrame (d.markDirty f r ra) := by
  unfold Dev.markDirty
  split
  · exact .of_mem rfl rfl rfl rfl rfl rfl rfl
  · exact .of_mem rfl rfl rfl rfl rfl rfl rfl

theorem Dev.loseHeld_frame (d : Dev) : d.ServeFrame d.loseHeld := by
  unfold Dev.loseHeld
  split
  · exact .of_mem (by simp) (by simp) (by simp) (by simp) (by simp) (by simp) (by simp)
  · exact .of_mem rfl rfl rfl rfl rfl rfl rfl

theorem Dev.countAccess_mem (d : Dev) (f pa : Nat) (hit narrow : Bool) : (d.countAccess f pa hit narrow).mem = d.mem ∧
    (d.countAccess f pa hit narrow).free = d.free := by
  unfold Dev.countAccess
  split <;> exact ⟨rfl, rfl⟩

theorem Dev.countAccess_frame (d : Dev) (f pa : Nat) (hit narrow : Bool) : d.ServeFrame (d.countAccess f pa hit narrow) := by
  unfold Dev.countAccess
  split
  · exact .of_mem rfl rfl rfl rfl rfl rfl rfl
  · exact .of_mem rfl rfl rfl rfl rfl rfl rfl

end

/-- The bytes that an access finds. -/
def Dev.oldBytes (d : Dev) (r : MemReq) (pa : Nat) : List Byte := (List.range r.kind.size).map fun i => d.readByte (pa + i)

/-- The bytes of the slice after an access that leaves `new` there. -/
def Dev.stored (d : Dev) (r : MemReq) (pa : Nat) : Option (List Byte) → Dev
  | none => d
  | some new => (new.zipIdx.foldl (fun d b => d.sliceWrite (pa + b.2) b.1) d).markDirty r.clearing r.region r.ra

def Dev.heldLost (d : Dev) (k : AccKind) : Dev := match k with | .fadd _ => d.loseHeld | _ => d

theorem Dev.serveLine_eq (d : Dev) (r : MemReq) (pa : Nat) : d.serveLine r pa =
    (((d.stored r pa (r.kind.result (d.oldBytes r pa))).heldLost r.kind).tick).respond r.id .ok .none (d.oldBytes r pa) := by
  unfold Dev.serveLine Dev.stored
  dsimp only [Dev.oldBytes]
  cases r.kind.result ((List.range r.kind.size).map fun i => d.readByte (pa + i)) <;> rfl

theorem Dev.heldLost_frame (d : Dev) (k : AccKind) : d.ServeFrame (d.heldLost k) := by
  unfold Dev.heldLost
  split
  · exact d.loseHeld_frame
  · exact .of_mem rfl rfl rfl rfl rfl rfl rfl

section
variable {d : Dev} {r : MemReq} {pa : Nat}

theorem Dev.SliceOnly.reqs {d' : Dev} (h : d.SliceOnly d') : d'.mem.reqs = d.mem.reqs := by rw [h]

/-- What a served access leaves besides the bytes and the request. -/
theorem Dev.stored_frame (hl : d.mem.lockdown = false) (hw : d.LinesWf) (o : Option (List Byte)) :
    let d' := d.stored r pa o
    d'.mem.reqs = d.mem.reqs ∧ d'.mem.hbm = d.mem.hbm ∧ d'.ctxs = d.ctxs ∧ d'.tiles = d.tiles ∧
      d'.launches = d.launches ∧ d'.host = d.host ∧ d'.sec = d.sec ∧ d'.lnk = d.lnk := by
  cases o with
  | none => exact ⟨rfl, rfl, rfl, rfl, rfl, rfl, rfl, rfl⟩
  | some new =>
    obtain ⟨hs, _⟩ := Dev.sliceWrite_run (p := pa) new 0 hl hw
    generalize hd : new.zipIdx.foldl (fun d b => d.sliceWrite (pa + b.2) b.1) d = d₁ at hs
    have hm := d₁.markDirty_frame r.clearing r.region r.ra
    simp only [Dev.stored, hd, hm.reqs, hm.hbm, hm.ctxs, hm.tiles, hm.launches, hm.host, hm.sec, hm.lnk]
    rw [hs]
    exact ⟨rfl, rfl, rfl, rfl, rfl, rfl, rfl, rfl⟩

theorem Dev.stored_byteAt (hl : d.mem.lockdown = false) (hw : d.LinesWf) (bs : List Byte) (a : Nat) :
    (d.stored r pa (some bs)).byteAt a = if pa ≤ a ∧ a < pa + bs.length then bs[a - pa]? else d.byteAt a := by
  obtain ⟨_, hb⟩ := Dev.sliceWrite_run (p := pa) bs 0 hl hw
  exact ((Dev.markDirty_frame _ _ _ _).byteAt a).trans (hb a)

end

theorem AccKind.result_of_reads {k : AccKind} (h : k.writes = false) (old : List Byte) : k.result old = none := by
  cases k <;> simp_all [AccKind.writes, AccKind.result]

section
variable {d : Dev} {id : Nat} {r : MemReq}

/-- A hit of the home slice is served at once (R150, R176). -/
theorem doHomeSliceAccess_of_cached {rg : PlanRegion} {pa : Nat}
    (hf : d.mem.reqs.find? (fun r => r.id == id && !r.served && !d.behindOwn r) = some r)
    (hg : d.planRegion r.clearing r.region = some rg) (hp : d.phys r.clearing r.region r.ra = some pa)
    (hk : d.keyAllows r.clearing r.asker r.kind.writes = true) (hc : d.cached pa r.kind.size = true)
    (hw : r.kind.writes = true → d.rangeWaits r.clearing r.region r.ra r.kind.size = false) :
    doHomeSliceAccess id d = (d.countAccess r.clearing pa true false).serveLine r pa := by
  have hw' : (r.kind.writes && d.rangeWaits r.clearing r.region r.ra r.kind.size) = false := by
    cases h : r.kind.writes
    · rfl
    · rw [hw h]; rfl
  rw [doHomeSliceAccess, hf]
  dsimp only
  rw [hg, hp]
  dsimp only
  rw [hk, hc, hw']
  rfl

/-- An access behind an earlier one of its own context waits (R149). -/
theorem doHomeSliceAccess_of_none
    (hf : d.mem.reqs.find? (fun r => r.id == id && !r.served && !d.behindOwn r) = none) : doHomeSliceAccess id d = d := by
  rw [doHomeSliceAccess, hf]

end

/-- A request is served in place. -/
theorem Dev.mem_respond {d : Dev} {r : MemReq} (h : r ∈ d.mem.reqs) (st : Status) (det : Detail) (bs : List Byte) :
    { r with served := true, status := st, detail := det, result := bs } ∈ (d.respond r.id st det bs).mem.reqs :=
  List.mem_map.2 ⟨r, h, if_pos rfl⟩

/-- Settles O20: an access that hits is served from its sectors, and only the bytes it writes change. -/
theorem homeSliceServes : Obligations.HomeSliceServes := by
  constructor
  · intro s id hr h
    refine act_eq_next hr (doHomeSliceAccess_of_none (List.find?_eq_none.2 fun r hm => ?_))
    intro hx
    simp only [Bool.and_eq_true, beq_iff_eq, Bool.not_eq_true'] at hx
    obtain ⟨⟨hid, hs⟩, hb⟩ := hx
    obtain ⟨x, hxm, hlt, hxs, hc, hcl, hrg, h1, h2⟩ := h r hm hid hs
    have : s.dev.behindOwn r = true := by
      refine List.any_eq_true.2 ⟨x, hxm, ?_⟩
      simp [hid, hlt, hxs, hc, hcl, hrg, h1, h2]
    rw [hb] at this
    cases this
  · intro s id r rg pa hr d₀ hf hl hg hp hk hc hwf n old hw
    have hcount := d₀.countAccess_frame r.clearing pa true false
    have hmem := d₀.countAccess_mem r.clearing pa true false
    have hserve := Dev.serveLine_eq (d₀.countAccess r.clearing pa true false) r pa
    generalize hd : d₀.countAccess r.clearing pa true false = d₁ at hcount hmem hserve
    obtain ⟨hm, hfree⟩ := hmem
    have hl₁ : d₁.mem.lockdown = false := by rw [hm]; exact hl
    have hwf₁ : d₁.LinesWf := by unfold Dev.LinesWf; rw [hm]; exact hwf
    have hold : d₁.oldBytes r pa = old := by
      refine List.map_congr_left fun i _ => ?_
      rw [Dev.readByte, Dev.byteAt_congr hm, hfree]
      rfl
    rw [hold] at hserve
    obtain ⟨hreqs, hhbm, hctxs, htiles, hlaunches, hhost, hsec, hlnk⟩ :=
      Dev.stored_frame (r := r) (pa := pa) hl₁ hwf₁ (r.kind.result old)
    have hheld := (d₁.stored r pa (r.kind.result old)).heldLost_frame r.kind
    have hr₁ : r ∈ ((d₁.stored r pa (r.kind.result old)).heldLost r.kind).tick.mem.reqs := by
      rw [Dev.tick_mem, hheld.reqs, hreqs, hm]
      exact List.mem_of_find?_eq_some hf
    refine ⟨_, act_eq_next hr ((doHomeSliceAccess_of_cached hf hg hp hk hc hw).trans (hd ▸ hserve)),
      ⟨_, Dev.mem_respond hr₁ _ _ _, rfl⟩, fun hn a => ?_, fun bs hbs a => ?_, ?_, ?_, ?_, ?_, ?_, ?_, ?_⟩
    · rw [AccKind.result_of_reads hn]
      exact ((Dev.heldLost_frame _ _).byteAt a).trans (hcount.byteAt a)
    · rw [hbs]
      exact ((Dev.heldLost_frame _ _).byteAt a).trans
        ((Dev.stored_byteAt hl₁ hwf₁ bs a).trans (by rw [hcount.byteAt]))
    · exact hheld.hbm.trans (hhbm.trans hcount.hbm)
    · exact hheld.ctxs.trans (hctxs.trans hcount.ctxs)
    · exact hheld.tiles.trans (htiles.trans hcount.tiles)
    · exact hheld.launches.trans (hlaunches.trans hcount.launches)
    · exact hheld.host.trans (hhost.trans hcount.host)
    · exact hheld.sec.trans (hsec.trans hcount.sec)
    · exact hheld.lnk.trans (hlnk.trans hcount.lnk)

end Sys2Proof.Machine

/-! PROOFS. A command's end: its completion record, its queue and its references (R289, R297). -/

namespace Sys2Proof.Machine
open Sys2Proof

section
variable {d : Dev} {q : Nat} {c : Cmd}

theorem Dev.foldl_modObj {α : Type} (i : α → Nat) (f : α → Obj → Obj) (hs : List α) (d : Dev) :
    hs.foldl (fun d h => d.modObj (i h) (f h)) d = { d with host := { d.host with
      objs := hs.foldl (fun t h => Tab.mod Obj.reset t (i h) (f h)) d.host.objs } } := by
  induction hs generalizing d with
  | nil => rfl
  | cons h hs ih => rw [List.foldl_cons, ih]; rfl

/-- References dropped from a table of objects (R289). -/
def refsDropped (objs : Tab Obj) (hs : List Word) : Tab Obj :=
  hs.foldl (fun t h => Tab.mod Obj.reset t (objIndex h) fun o =>
    if o.gen = objGen h then { o with refs := o.refs - 1 } else o) objs

theorem Dev.dropRefs_eq (d : Dev) (hs : List Word) :
    d.dropRefs hs = { d with host := { d.host with objs := refsDropped d.host.objs hs } } :=
  Dev.foldl_modObj _ _ _ _

/-- The queue once a command has left it. -/
def Queue.without (u : Queue) (seq : Word) (st : Status) : Queue :=
  { u with cmds := u.cmds.filter (fun x => x.seq != seq), spanBad := u.spanBad || st != .ok }

/-- A command that stands in its queue leaves it, its references are dropped, and its record joins its source's FIFO. -/
theorem Dev.completeCmd_eq (h : (d.cmd q c.seq).isSome = true) (st : Status) (det : Detail) (info : BitVec 64)
    (rank : BitVec 21) : d.completeCmd q c st det info rank = { d with host := { d.host with
      queues := Tab.mod Queue.reset d.host.queues q (·.without c.seq st)
      objs := refsDropped d.host.objs c.refs
      fifos := Tab.mod [] d.host.fifos c.src (· ++ [Dev.completion q c st det info rank d.host.nextOrd])
      nextOrd := d.host.nextOrd + 1 } } := by
  have hn : ¬ (d.cmd q c.seq).isNone = true := by
    rw [← Option.not_isSome, h]
    simp
  rw [Dev.completeCmd, if_neg hn]
  dsimp only
  rw [Dev.dropRefs_eq]
  rfl

theorem Dev.cmd_modQueue_without (hw : Tab.wf Queue.reset d.host.queues = true) (seq : Word) (st : Status) :
    (d.modQueue q (·.without seq st)).cmd q seq = none := by
  rw [Dev.cmd, Dev.modQueue_queue_self d q _ hw]
  refine List.find?_eq_none.2 fun x hx => ?_
  simpa [Queue.without] using (List.mem_filter.1 hx).2

section
variable (h : (d.cmd q c.seq).isSome = true) (st : Status) (det : Detail) (info : BitVec 64) (rank : BitVec 21)
include h

theorem Dev.completeCmd_cmd (hw : Tab.wf Queue.reset d.host.queues = true) :
    (d.completeCmd q c st det info rank).cmd q c.seq = none := by
  rw [Dev.completeCmd_eq h]
  exact Dev.cmd_modQueue_without hw c.seq st

theorem Dev.completeCmd_fifos : Tab.get [] (d.completeCmd q c st det info rank).host.fifos c.src =
    Tab.get [] d.host.fifos c.src ++ [Dev.completion q c st det info rank d.host.nextOrd] := by
  rw [Dev.completeCmd_eq h]
  exact Tab.get_set_self _ _ _ (by simp)

theorem Dev.completeCmd_frame : d.completeCmd q c st det info rank =
    { d with host := (d.completeCmd q c st det info rank).host } := by
  rw [Dev.completeCmd_eq h]

theorem Dev.completeCmd_completes : Completes d q c st det info (d.completeCmd q c st det info 0) :=
  ⟨Dev.completeCmd_cmd h st det info 0, Dev.completeCmd_fifos h st det info 0⟩

end

theorem Dev.cmd_seq {seq : Word} (h : d.cmd q seq = some c) : c.seq = seq := by
  have := List.find?_some h
  simpa using this

theorem Dev.cmd_isSome {seq : Word} (h : d.cmd q seq = some c) : (d.cmd q c.seq).isSome = true := by
  rw [Dev.cmd_seq h, h]
  rfl

end

end Sys2Proof.Machine

/-! PROOFS. The life of a LAUNCH (R141, R142, R289). -/

namespace Sys2Proof.Machine
open Sys2Proof

/-! ## The contexts a launch takes (R142) -/

section
variable {d : Dev}

/-- Contexts set to values of their own. -/
theorem Dev.ctx_foldl_set {α : Type} (key : α → Nat) (v : α → Ctx) (hv : ∀ x, v x ≠ Ctx.reset) (xs : List α)
    (hn : (xs.map key).Nodup) (d : Dev) :
    (∀ x ∈ xs, (xs.foldl (fun d x => d.modCtx (key x) fun _ => v x) d).ctx (key x) = v x) ∧
    (∀ k, k ∉ xs.map key → (xs.foldl (fun d x => d.modCtx (key x) fun _ => v x) d).ctx k = d.ctx k) ∧
    xs.foldl (fun d x => d.modCtx (key x) fun _ => v x) d =
      { d with ctxs := (xs.foldl (fun d x => d.modCtx (key x) fun _ => v x) d).ctxs } := by
  induction xs generalizing d with
  | nil => exact ⟨fun x hx => absurd hx List.not_mem_nil, fun k _ => rfl, rfl⟩
  | cons y xs ih =>
    rw [List.map_cons, List.nodup_cons] at hn
    obtain ⟨hy, hn⟩ := hn
    obtain ⟨hin, hout, hframe⟩ := ih hn (d.modCtx (key y) fun _ => v y)
    simp only [List.foldl_cons]
    refine ⟨fun x hx => ?_, fun k hk => ?_, hframe⟩
    · rcases List.mem_cons.1 hx with rfl | hx
      · exact (hout _ hy).trans (Tab.get_set_self _ _ _ (hv x))
      · exact hin x hx
    · rw [List.map_cons, List.mem_cons, not_or] at hk
      exact (hout k hk.2).trans (Tab.get_set_ne _ _ _ hk.1)

theorem Dev.freeCtxs_core {core k : Nat} (h : k ∈ d.freeCtxs core) : k / 512 = core := by
  obtain ⟨i, hi, rfl⟩ := List.mem_map.1 (List.mem_filter.1 h).1
  have := List.mem_range.1 hi
  omega

theorem Dev.freeCtxs_nodup (core : Nat) : (d.freeCtxs core).Nodup :=
  (List.nodup_range.map fun _ _ h => Nat.add_left_cancel h).filter _

/-- A launch takes each context once. -/
theorem Dev.launchCtxs_nodup (tiles per : Nat) : ((d.launchCtxs tiles per).map (·.1)).Nodup := by
  have hmap : (d.launchCtxs tiles per).map (·.1) = (bitsOf tiles 96).flatMap fun t =>
      (List.range 32).flatMap fun i => (d.freeCtxs (32 * t + i)).take per := by
    simp only [Dev.launchCtxs, List.map_flatMap, List.zipIdx_map_fst]
  rw [hmap, List.nodup_flatMap]
  refine ⟨fun t _ => List.nodup_flatMap.2 ⟨fun i _ => (Dev.freeCtxs_nodup _).sublist (List.take_sublist _ _), ?_⟩, ?_⟩
  · refine List.nodup_range.imp fun {i j} hij k hi hj => hij ?_
    have := Dev.freeCtxs_core (List.mem_of_mem_take hi)
    have := Dev.freeCtxs_core (List.mem_of_mem_take hj)
    omega
  · refine (List.nodup_range.filter _).imp fun {t u} htu k ht hu => htu ?_
    obtain ⟨i, hi, hki⟩ := List.mem_flatMap.1 ht
    obtain ⟨j, hj, hkj⟩ := List.mem_flatMap.1 hu
    have := Dev.freeCtxs_core (List.mem_of_mem_take hki)
    have := Dev.freeCtxs_core (List.mem_of_mem_take hkj)
    have := List.mem_range.1 hi
    have := List.mem_range.1 hj
    omega

end

/-! ## The decode of a LAUNCH (R141) -/

section
variable {d : Dev} {n q : Nat} {seq : Word} {c : Cmd} {ps : LaunchParams}

theorem doLaunch_eq (hc : d.cmd q seq = some c) (hq : d.queueClr q = some n) (ho : c.opcode = 3) (hp : c.ph = .decoding)
    (hs : ∀ h ∈ (ps.handles.take 16).filter (· != 0xFFFFFFFF), d.liveHandle h = true ∧ d.handleOwned n h false = true) :
    doLaunch q seq ps d =
      if d.launchOk n c then
        (d.addRefs ((ps.handles.take 16).filter (· != 0xFFFFFFFF))).modCmd q c.seq fun x =>
          { x with
            ph := .decoded, refs := x.refs ++ (ps.handles.take 16).filter (· != 0xFFFFFFFF), params := some ps }
      else d.completeCmd q c .aborted .decode 0 0 := by
  rw [doLaunch, hc, hq]
  dsimp only
  rw [if_pos (by simp [ho, hp]), Dev.decodeLaunch, List.find?_eq_none.2 fun h hm => by simp [(hs h hm).1], List.find?_eq_none.2 fun h hm => by simp [(hs h hm).2]]

theorem doLaunchStart_eq (hc : d.cmd q seq = some c) (hq : d.queueClr q = some n) (ho : c.opcode = 3) (hp : c.ph = .started)
    (hps : c.params = some ps) (hr : d.roomFor (fld c.raw 24 12) (fld c.raw 36 2) = true)
    (hf : d.launchFirst q c = true) : doLaunchStart q seq d = d.startLaunch n q c ps := by
  rw [doLaunchStart, hc, hq]
  dsimp only
  rw [hps]
  exact if_pos (by simp [ho, hp, hr, hf])

end

/-- The launch that a command starts. -/
def Dev.newLaunch (d : Dev) (n q : Nat) (c : Cmd) (ps : LaunchParams) : LaunchSt :=
  { id := d.nextLaunch, queue := Fin.ofNat 4096 q, seq := c.seq, clearing := n,
    tiles := BitVec.ofNat 96 (fld c.raw 24 12), perCore := fld c.raw 36 2, handles := ps.handles, arg := ps.arg,
    tsFirst := fld c.raw 48 2, tsCount := fld c.raw 50 2, srStream := BitVec.ofNat 16 (fld c.raw 38 2),
    stepKey := c.stepKey, entry := BitVec.ofNat 64 (fld c.raw 20 4), ph := .running, status := .ok,
    detail := .none, info := 0, rank := 0 }

/-- A context as a launch takes it. -/
def LaunchSt.fresh (l : LaunchSt) (slot : Nat) : Ctx :=
  { Ctx.reset with launch := some l.id, slotIdx := slot, pc := l.entry }

theorem LaunchSt.fresh_ne_reset (l : LaunchSt) (slot : Nat) : l.fresh slot ≠ Ctx.reset := fun h => by
  have := congrArg Ctx.launch h
  cases this

/-- The device once the contexts are taken. -/
def Dev.taken (d : Dev) (l : LaunchSt) (took : List (Nat × Nat)) : Dev :=
  took.foldl (fun d x => d.modCtx x.1 fun _ => l.fresh x.2) d

theorem Dev.startLaunch_eq (d : Dev) (n q : Nat) (c : Cmd) (ps : LaunchParams) : d.startLaunch n q c ps =
    let l := d.newLaunch n q c ps
    { (d.modCmd q c.seq fun x => { x with ph := .running }) with
      launches := d.launches ++ [l], nextLaunch := d.nextLaunch + 1,
      ctxs := (d.taken l (d.launchCtxs (fld c.raw 24 12) (fld c.raw 36 2))).ctxs } := by
  have hframe := (Dev.ctx_foldl_set (fun x : Nat × Nat => x.1) (fun x => (d.newLaunch n q c ps).fresh x.2)
    (fun x => LaunchSt.fresh_ne_reset _ _) _ (Dev.launchCtxs_nodup (d := d) (fld c.raw 24 12) (fld c.raw 36 2)) d).2.2
  have h : d.startLaunch n q c ps =
      let l := d.newLaunch n q c ps
      let x := (d.taken l (d.launchCtxs (fld c.raw 24 12) (fld c.raw 36 2))).modCmd q c.seq fun x => { x with ph := .running }
      { x with launches := x.launches ++ [l], nextLaunch := x.nextLaunch + 1 } := rfl
  rw [h]
  dsimp only
  rw [show d.taken (d.newLaunch n q c ps) _ = _ from hframe]
  rfl

/-! ## Its end -/

section
variable {d : Dev} {id : Nat}

theorem Tab.get_drop {α : Type} (z : α) (t : Tab α) (p : Nat → Bool) (k : Nat) :
    Tab.get z (Tab.drop t p) k = if p k then z else Tab.get z t k := by
  induction t with
  | nil => simp [Tab.drop]
  | cons e t ih =>
    rw [Tab.drop] at ih ⊢
    by_cases he : p e.1 = true
    · rw [List.filter_cons_of_neg (by simp [he]), ih, Tab.get]
      by_cases hk : e.1 = k
      · subst hk; simp [he]
      · rw [if_neg hk]
    · rw [List.filter_cons_of_pos (by simpa using he), Tab.get, ih, Tab.get]
      by_cases hk : e.1 = k
      · subst hk; simp [he]
      · rw [if_neg hk, if_neg hk]

theorem Dev.freeLaunch_ctx (k : Nat) :
    (d.freeLaunch id).ctx k = if (d.ctx k).launch = some id then Ctx.reset else d.ctx k := by
  refine (Tab.get_drop Ctx.reset d.ctxs (fun k => (d.ctx k).launch == some id) k).trans ?_
  simp only [beq_iff_eq]
  rfl

theorem Dev.mem_launches_freeLaunch {x : LaunchSt} :
    x ∈ (d.freeLaunch id).launches ↔ x ∈ d.launches ∧ x.id ≠ id := by
  simp [Dev.freeLaunch]

theorem doLaunchComplete_eq {q : Nat} {seq : Word} {l : LaunchSt} {c : Cmd} (hl : d.launchOf q seq = some l)
    (hc : d.cmd q seq = some c) (he : l.ph = .stopping ∨ d.allExited l.id = true) (hq : d.launchQuiet l.id = true) :
    doLaunchComplete q seq d =
      (d.freeLaunch l.id).completeCmd q c l.status l.detail l.info (if l.ph = .stopping then l.rank else 0) := by
  rw [doLaunchComplete, hl, hc]
  refine if_pos ?_
  rcases he with he | he <;> simp [he, hq]

end

/-- Settles O22: the launch's decode, start and end. -/
theorem launchLifecycle : Obligations.LaunchLifecycle := by
  intro s q seq ps c n hr d₀ hc hq ho
  have hseq : c.seq = seq := Dev.cmd_seq hc
  have hsome := Dev.cmd_isSome hc
  refine ⟨?_, ?_, fun l hl he hquiet => ?_⟩
  · intro hp hs hh ready
    refine ⟨fun hok => ?_, fun hok => ?_⟩
    · refine act_eq_next hr ((doLaunch_eq hc hq ho hp hh).trans ((if_pos hok).trans ?_))
      rw [hseq]
    · exact ⟨_, act_eq_next hr ((doLaunch_eq hc hq ho hp hh).trans (if_neg (by simp [hok]))),
        Dev.completeCmd_completes hsome _ _ _, Dev.completeCmd_frame hsome _ _ _ _⟩
  · intro hp hps tiles per hroom hfirst took
    have hd := doLaunchStart_eq hc hq ho hp hps hroom hfirst
    rw [Dev.startLaunch_eq, hseq] at hd
    obtain ⟨hin, hout, _⟩ := Dev.ctx_foldl_set (fun x : Nat × Nat => x.1) (fun x => (d₀.newLaunch n q.val c ps).fresh x.2)
      (fun x => LaunchSt.fresh_ne_reset _ _) took (Dev.launchCtxs_nodup tiles per) d₀
    exact ⟨_, d₀.newLaunch n q.val c ps, act_eq_next hr hd, rfl, rfl, Fin.ext (Nat.mod_eq_of_lt q.isLt), rfl, rfl, rfl, rfl, rfl,
      rfl, rfl, rfl, rfl, rfl, rfl, hin, hout, rfl⟩
  · have hsome' : ((d₀.freeLaunch l.id).cmd q.val c.seq).isSome = true := hsome
    have hd := doLaunchComplete_eq hl hc he hquiet
    refine ⟨_, act_eq_next hr hd, ?_, fun hw => ?_, fun k => ?_, fun x => ?_, ?_, ?_, ?_⟩
    · exact Dev.completeCmd_fifos hsome' _ _ _ _
    · rw [← hseq]
      exact Dev.completeCmd_cmd hsome' _ _ _ _ hw
    all_goals rw [Dev.completeCmd_eq hsome']
    · exact Dev.freeLaunch_ctx k
    · exact Dev.mem_launches_freeLaunch
    · rfl
    · rfl
    · rfl

end Sys2Proof.Machine

/-! PROOFS. The streams of INTERSECT, UNION, DIFF and MERGE (R155, R156): on streams in order, with room for the output,
the set engine's merge is the merge of the two lists. -/

namespace Sys2Proof.Machine
open Sys2Proof

/-- The order that operation `op` requires of its streams: MERGE (4) admits equal neighbours. -/
def Before (op x y : Nat) : Prop := if op = 4 then x ≤ y else x < y

theorem Before.trans {op x y z : Nat} (h : Before op x y) (h' : Before op y z) : Before op x z := by
  unfold Before at *
  split_ifs at * <;> omega

theorem Before.of_lt {op x y : Nat} (h : x < y) : Before op x y := by
  unfold Before
  split_ifs <;> omega

/-- The output of operation `op` on two streams that stand at positions `ia` and `ib`. -/
def kept (op : Nat) : List Nat → List Nat → Nat → Nat → List (Nat × Nat × Nat)
  | [], [], _, _ => []
  | a :: as, [], ia, ib => if op = 1 then kept op as [] (ia + 1) ib else (a, ia, ib) :: kept op as [] (ia + 1) ib
  | [], b :: bs, ia, ib =>
    if op = 2 ∨ op = 4 then (b, ia, ib) :: kept op [] bs ia (ib + 1) else kept op [] bs ia (ib + 1)
  | a :: as, b :: bs, ia, ib =>
    if a < b ∨ (op = 4 ∧ a = b) then
      if op = 1 then kept op as (b :: bs) (ia + 1) ib else (a, ia, ib) :: kept op as (b :: bs) (ia + 1) ib
    else if a = b then
      if op = 3 then kept op as bs (ia + 1) (ib + 1) else (a, ia, ib) :: kept op as bs (ia + 1) (ib + 1)
    else if op = 2 ∨ op = 4 then (b, ia, ib) :: kept op (a :: as) bs ia (ib + 1) else kept op (a :: as) bs ia (ib + 1)
termination_by as bs => as.length + bs.length

/-- A stream in order, after the element that was taken from it last. -/
def Follows (op : Nat) (prev : Option Nat) (as : List Nat) : Prop := (prev.toList ++ as).Pairwise (Before op)

section
variable {op : Nat}

theorem Follows.head {prev : Option Nat} {a : Nat} {as : List Nat} (h : Follows op prev (a :: as)) :
    ¬ outOfOrder (op == 4) prev a = true := by
  cases prev with
  | none => simp [outOfOrder]
  | some p =>
    have : Before op p a := (List.pairwise_cons.1 h).1 a (by simp)
    unfold Before at this
    simp only [outOfOrder, beq_iff_eq]
    split_ifs at * <;> simpa using this

theorem Follows.tail {prev : Option Nat} {a : Nat} {as : List Nat} (h : Follows op prev (a :: as)) :
    Follows op (some a) as :=
  h.sublist (List.sublist_append_right prev.toList (a :: as))

/-- On streams in order, with room, the engine's merge takes no exit. -/
theorem setMerge_eq_kept (fuel : Nat) {as bs : List Nat} {pa pb : Option Nat} {ia ib left : Nat}
    (hf : as.length + bs.length < fuel) (hl : as.length + bs.length ≤ left) (ha : Follows op pa as)
    (hb : Follows op pb bs) :
    setMerge op fuel as bs pa pb ia ib left = { vals := kept op as bs ia ib, status := 0, pos := 0 } := by
  induction fuel generalizing as bs pa pb ia ib left with
  | zero => omega
  | succ fuel ih =>
    unfold setMerge
    match as, bs with
    | [], [] => simp [kept]
    | a :: as, [] =>
      simp only [List.length_cons, List.length_nil] at hf hl
      obtain ⟨n, rfl⟩ : ∃ n, left = n + 1 := ⟨left - 1, by omega⟩
      have hk (l) (h : as.length ≤ l) := ih (left := l) (ia := ia + 1) (ib := ib) (bs := []) (by simp; omega) (by simpa) ha.tail hb
      simp only [List.head?_cons, List.head?_nil, if_neg ha.head, Bool.false_eq_true, if_false, kept]
      rw [hk _ (by omega), hk _ (by omega)]
      split_ifs <;> rfl
    | [], b :: bs =>
      simp only [List.length_cons, List.length_nil] at hf hl
      obtain ⟨n, rfl⟩ : ∃ n, left = n + 1 := ⟨left - 1, by omega⟩
      have hk (l) (h : bs.length ≤ l) := ih (left := l) (ia := ia) (ib := ib + 1) (as := []) (by simp; omega) (by simpa) ha hb.tail
      simp only [List.head?_cons, List.head?_nil, if_neg hb.head, Bool.false_eq_true, if_false, kept]
      rw [hk _ (by omega), hk _ (by omega)]
      simp only [Bool.or_eq_true, decide_eq_true_eq]
      split_ifs <;> rfl
    | a :: as, b :: bs =>
      simp only [List.length_cons] at hf hl
      obtain ⟨n, rfl⟩ : ∃ n, left = n + 1 := ⟨left - 1, by omega⟩
      have hka (l) (h : as.length + bs.length + 1 ≤ l) := ih (left := l) (ia := ia + 1) (ib := ib) (as := as) (bs := b :: bs)
        (by simp; omega) (by simp; omega) ha.tail hb
      have hkb (l) (h : as.length + bs.length + 1 ≤ l) := ih (left := l) (ia := ia) (ib := ib + 1) (as := a :: as) (bs := bs)
        (by simp; omega) (by simp; omega) ha hb.tail
      have hkab (l) (h : as.length + bs.length ≤ l) := ih (left := l) (ia := ia + 1) (ib := ib + 1) (as := as) (bs := bs)
        (by omega) h ha.tail hb.tail
      simp only [List.head?_cons, if_neg ha.head, if_neg hb.head, kept]
      rw [hka _ (by omega), hka _ (by omega), hkb _ (by omega), hkb _ (by omega), hkab _ (by omega), hkab _ (by omega)]
      simp only [Bool.or_eq_true, Bool.and_eq_true, decide_eq_true_eq]
      split_ifs <;> rfl

/-- Nothing is made up. -/
theorem mem_of_mem_kept {as bs : List Nat} {ia ib x : Nat} (h : x ∈ (kept op as bs ia ib).map (·.1)) :
    x ∈ as ∨ x ∈ bs := by
  induction as, bs, ia, ib using kept.induct (op := op) <;> simp_all only [kept] <;> grind

theorem kept_cons_pairwise {x : Nat} {as bs : List Nat} {i j ia ib : Nat}
    (h : ((kept op as bs ia ib).map (·.1)).Pairwise (Before op)) (ha : ∀ y ∈ as, Before op x y)
    (hb : ∀ y ∈ bs, Before op x y) : (((x, i, j) :: kept op as bs ia ib).map (·.1)).Pairwise (Before op) :=
  List.pairwise_cons.2 ⟨fun y hy => (mem_of_mem_kept hy).elim (ha y) (hb y), h⟩

theorem Before.of_cons {x b : Nat} {bs : List Nat} (h : Before op x b) (hb : (b :: bs).Pairwise (Before op)) :
    ∀ y ∈ b :: bs, Before op x y := by
  intro y hy
  rcases List.mem_cons.1 hy with rfl | hy
  · exact h
  · exact h.trans ((List.pairwise_cons.1 hb).1 y hy)

theorem Before.of_first {a b : Nat} (h : a < b ∨ (op = 4 ∧ a = b)) : Before op a b := by
  rcases h with h | ⟨rfl, rfl⟩
  · exact .of_lt h
  · simp [Before]

/-- The output stands in the order of the streams. -/
theorem kept_pairwise {as bs : List Nat} {ia ib : Nat} (ha : as.Pairwise (Before op)) (hb : bs.Pairwise (Before op)) :
    ((kept op as bs ia ib).map (·.1)).Pairwise (Before op) := by
  induction as, bs, ia, ib using kept.induct (op := op) with
  | case1 => simp [kept]
  | case2 a as ia ib h1 ih =>
    rw [kept, if_pos h1]
    exact ih ha.tail hb
  | case3 a as ia ib h1 ih =>
    rw [kept, if_neg h1]
    exact kept_cons_pairwise (ih ha.tail hb) (List.pairwise_cons.1 ha).1 (by simp)
  | case4 b bs ia ib h1 ih =>
    rw [kept, if_pos h1]
    exact kept_cons_pairwise (ih ha hb.tail) (by simp) (List.pairwise_cons.1 hb).1
  | case5 b bs ia ib h1 ih =>
    rw [kept, if_neg h1]
    exact ih ha hb.tail
  | case6 a as b bs ia ib hab h1 ih =>
    rw [kept, if_pos hab, if_pos h1]
    exact ih ha.tail hb
  | case7 a as b bs ia ib hab h1 ih =>
    rw [kept, if_pos hab, if_neg h1]
    exact kept_cons_pairwise (ih ha.tail hb) (List.pairwise_cons.1 ha).1 (Before.of_cons (.of_first hab) hb)
  | case8 as b bs ia ib h3 hab ih =>
    rw [kept, if_neg hab, if_pos rfl, if_pos h3]
    exact ih ha.tail hb.tail
  | case9 as b bs ia ib h3 hab ih =>
    rw [kept, if_neg hab, if_pos rfl, if_neg h3]
    exact kept_cons_pairwise (ih ha.tail hb.tail) (List.pairwise_cons.1 ha).1 (List.pairwise_cons.1 hb).1
  | case10 a as b bs ia ib hab hne h ih =>
    rw [kept, if_neg hab, if_neg hne, if_pos h]
    exact kept_cons_pairwise (ih ha hb.tail) (Before.of_cons (.of_lt (by omega)) ha) (List.pairwise_cons.1 hb).1
  | case11 a as b bs ia ib hab hne h ih =>
    rw [kept, if_neg hab, if_neg hne, if_neg h]
    exact ih ha hb.tail

/-- The values that each of INTERSECT (1), UNION (2) and DIFF (3) keeps. -/
def Keeps (op x : Nat) (as bs : List Nat) : Prop :=
  (op = 1 ∧ x ∈ as ∧ x ∈ bs) ∨ (op = 2 ∧ (x ∈ as ∨ x ∈ bs)) ∨ (op = 3 ∧ x ∈ as ∧ x ∉ bs)

/-- What follows the head of an ascending stream that starts at `b` or beyond is above `a`. -/
theorem not_mem_of_lt {a b : Nat} {bs : List Nat} (hab : a < b) (hb : (b :: bs).Pairwise (· < ·)) : a ∉ b :: bs := by
  intro h
  rcases List.mem_cons.1 h with rfl | h
  · omega
  · have := (List.pairwise_cons.1 hb).1 a h
    omega

theorem mem_kept_iff (h1 : 1 ≤ op) (h3 : op ≤ 3) {as bs : List Nat} {ia ib x : Nat} (ha : as.Pairwise (· < ·))
    (hb : bs.Pairwise (· < ·)) : x ∈ (kept op as bs ia ib).map (·.1) ↔ Keeps op x as bs := by
  have h4 : op ≠ 4 := by omega
  induction as, bs, ia, ib using kept.induct (op := op) with
  | case1 => simp [kept, Keeps]
  | case2 a as ia ib hop ih =>
    have ih : _ ↔ _ := ih ha.tail hb
    rw [kept, if_pos hop, ih]
    simp [Keeps, hop]
  | case3 a as ia ib hop ih =>
    have ih : _ ↔ _ := ih ha.tail hb
    rw [kept, if_neg hop, List.map_cons, List.mem_cons, ih]
    simp only [Keeps, List.mem_cons, List.not_mem_nil]
    grind
  | case4 b bs ia ib hop ih =>
    have ih : _ ↔ _ := ih ha hb.tail
    rw [kept, if_pos hop, List.map_cons, List.mem_cons, ih]
    simp only [Keeps, List.mem_cons, List.not_mem_nil]
    grind
  | case5 b bs ia ib hop ih =>
    have ih : _ ↔ _ := ih ha hb.tail
    rw [kept, if_neg hop, ih]
    simp only [Keeps, List.mem_cons, List.not_mem_nil]
    grind
  | case6 a as b bs ia ib hab hop ih =>
    have hn := not_mem_of_lt (by omega : a < b) hb
    have ih : _ ↔ _ := ih ha.tail hb
    rw [kept, if_pos hab, if_pos hop, ih]
    simp only [Keeps, List.mem_cons] at hn ⊢
    grind
  | case7 a as b bs ia ib hab hop ih =>
    have hn := not_mem_of_lt (by omega : a < b) hb
    have ih : _ ↔ _ := ih ha.tail hb
    rw [kept, if_pos hab, if_neg hop, List.map_cons, List.mem_cons, ih]
    simp only [Keeps, List.mem_cons] at hn ⊢
    grind
  | case8 as b bs ia ib hop hab ih =>
    have ih : _ ↔ _ := ih ha.tail hb.tail
    rw [kept, if_neg hab, if_pos rfl, if_pos hop, ih]
    have hn : b ∉ as := fun h => Nat.lt_irrefl _ ((List.pairwise_cons.1 ha).1 b h)
    simp only [Keeps, List.mem_cons, hop]
    grind
  | case9 as b bs ia ib hop hab ih =>
    have ih : _ ↔ _ := ih ha.tail hb.tail
    rw [kept, if_neg hab, if_pos rfl, if_neg hop, List.map_cons, List.mem_cons, ih]
    simp only [Keeps, List.mem_cons]
    grind
  | case10 a as b bs ia ib hab hne hop ih =>
    have ih : _ ↔ _ := ih ha hb.tail
    rw [kept, if_neg hab, if_neg hne, if_pos hop, List.map_cons, List.mem_cons, ih]
    simp only [Keeps, List.mem_cons]
    grind
  | case11 a as b bs ia ib hab hne hop ih =>
    have hn := not_mem_of_lt (by omega : b < a) ha
    have ih : _ ↔ _ := ih ha hb.tail
    rw [kept, if_neg hab, if_neg hne, if_neg hop, ih]
    simp only [Keeps, List.mem_cons] at hn ⊢
    grind

/-- A position in a stream whose head was taken. -/
theorem getElem?_after {a x i ia : Nat} {as : List Nat} (hi : ia + 1 ≤ i) (h : as[i - (ia + 1)]? = some x) :
    ia ≤ i ∧ (a :: as)[i - ia]? = some x := by
  rw [show i - ia = i - (ia + 1) + 1 by omega, List.getElem?_cons_succ]
  exact ⟨by omega, h⟩

/-- Each value that INTERSECT keeps stands in both streams at the positions it gives. -/
theorem kept_positions {as bs : List Nat} {ia ib : Nat} {v : Nat × Nat × Nat} (h : v ∈ kept 1 as bs ia ib) :
    (ia ≤ v.2.1 ∧ as[v.2.1 - ia]? = some v.1) ∧ (ib ≤ v.2.2 ∧ bs[v.2.2 - ib]? = some v.1) := by
  induction as, bs, ia, ib using kept.induct (op := 1) with
  | case1 => simp [kept] at h
  | case2 a as ia ib hop ih =>
    rw [kept, if_pos hop] at h
    obtain ⟨⟨ha, ha'⟩, hb⟩ := ih h
    exact ⟨getElem?_after ha ha', hb⟩
  | case3 a as ia ib hop ih => exact absurd rfl hop
  | case4 b bs ia ib hop ih => omega
  | case5 b bs ia ib hop ih =>
    rw [kept, if_neg hop] at h
    obtain ⟨ha, ⟨hb, hb'⟩⟩ := ih h
    exact ⟨ha, getElem?_after hb hb'⟩
  | case6 a as b bs ia ib hab hop ih =>
    rw [kept, if_pos hab, if_pos hop] at h
    obtain ⟨⟨ha, ha'⟩, hb⟩ := ih h
    exact ⟨getElem?_after ha ha', hb⟩
  | case7 a as b bs ia ib hab hop ih => exact absurd rfl hop
  | case8 as b bs ia ib hop hab ih => omega
  | case9 as b bs ia ib hop hab ih =>
    rw [kept, if_neg hab, if_pos rfl, if_neg hop] at h
    rcases List.mem_cons.1 h with rfl | h
    · simp
    · obtain ⟨⟨ha, ha'⟩, hb, hb'⟩ := ih h
      exact ⟨getElem?_after ha ha', getElem?_after hb hb'⟩
  | case10 a as b bs ia ib hab hne hop ih => omega
  | case11 a as b bs ia ib hab hne hop ih =>
    rw [kept, if_neg hab, if_neg hne, if_neg hop] at h
    obtain ⟨ha, ⟨hb, hb'⟩⟩ := ih h
    exact ⟨ha, getElem?_after hb hb'⟩

/-- MERGE keeps every element of both. -/
theorem kept_perm {as bs : List Nat} {ia ib : Nat} : ((kept 4 as bs ia ib).map (·.1)).Perm (as ++ bs) := by
  induction as, bs, ia, ib using kept.induct (op := 4) with
  | case1 => simp [kept]
  | case2 a as ia ib hop ih => omega
  | case3 a as ia ib hop ih =>
    rw [kept, if_neg hop]
    exact ih.cons a
  | case4 b bs ia ib hop ih =>
    rw [kept, if_pos hop]
    exact ih.cons b
  | case5 b bs ia ib hop ih => omega
  | case6 a as b bs ia ib hab hop ih => omega
  | case7 a as b bs ia ib hab hop ih =>
    rw [kept, if_pos hab, if_neg hop]
    exact ih.cons a
  | case8 as b bs ia ib hop hab ih => omega
  | case9 as b bs ia ib hop hab ih => omega
  | case10 a as b bs ia ib hab hne hop ih =>
    rw [kept, if_neg hab, if_neg hne, if_pos hop]
    exact (ih.cons b).trans List.perm_middle.symm
  | case11 a as b bs ia ib hab hne hop ih => omega

end

/-- Settles O25: with room for the output the engine's merge is `kept`, whose values the lemmas above give. -/
theorem setStreams : Obligations.SetStreams := by
  intro as bs run vals
  have hrun {op limit : Nat} (hl : as.length + bs.length ≤ limit) (ha : as.Pairwise (Before op))
      (hb : bs.Pairwise (Before op)) : run op limit = { vals := kept op as bs 0 0, status := 0, pos := 0 } :=
    setMerge_eq_kept _ (Nat.lt_succ_self _) hl ha hb
  have hvals {op limit : Nat} (hl : as.length + bs.length ≤ limit) (ha : as.Pairwise (Before op))
      (hb : bs.Pairwise (Before op)) : vals op limit = (kept op as bs 0 0).map (·.1) :=
    congrArg (fun r : SetOut => r.vals.map (·.1)) (hrun hl ha hb)
  constructor
  · intro ha hb limit hl
    have strict {op : Nat} (h : op ≤ 3) {xs : List Nat} (hx : xs.Pairwise (· < ·)) : xs.Pairwise (Before op) :=
      hx.imp .of_lt
    have keeps {op : Nat} (h1 : 1 ≤ op) (h3 : op ≤ 3) (x : Nat) : x ∈ vals op limit ↔ Keeps op x as bs := by
      rw [hvals hl (strict h3 ha) (strict h3 hb)]
      exact mem_kept_iff h1 h3 ha hb
    refine ⟨fun x => ⟨?_, ?_, ?_⟩, fun op h1 h3 => ⟨?_, ?_, fun ho v hv => ?_⟩⟩
    · rw [keeps (by omega) (by omega)]; simp [Keeps]
    · rw [keeps (by omega) (by omega)]; simp [Keeps]
    · rw [keeps (by omega) (by omega)]; simp [Keeps]
    · rw [hvals hl (strict h3 ha) (strict h3 hb)]
      refine (kept_pairwise (strict h3 ha) (strict h3 hb)).imp fun {x y} h => ?_
      rwa [Before, if_neg (by omega)] at h
    · rw [hrun hl (strict h3 ha) (strict h3 hb)]
    · subst ho
      rw [hrun hl (strict h3 ha) (strict h3 hb)] at hv
      obtain ⟨⟨_, hpa⟩, ⟨_, hpb⟩⟩ := kept_positions hv
      exact ⟨hpa, hpb⟩
  · intro ha hb limit hl
    have weak {xs : List Nat} (hx : xs.Pairwise (· ≤ ·)) : xs.Pairwise (Before 4) := hx.imp fun h => by simpa [Before]
    rw [hvals hl (weak ha) (weak hb), hrun hl (weak ha) (weak hb)]
    exact ⟨kept_perm, (kept_pairwise (weak ha) (weak hb)).imp fun h => by simpa [Before] using h, rfl⟩

end Sys2Proof.Machine

/-! PROOFS. The set engine and the vector unit (R154, R156–R161, R358). -/

namespace Sys2Proof.Machine
open Sys2Proof

/-! ## The set engine takes an operation (R154, R157) -/

section
variable {d : Dev} {t : Nat} {l : LaunchSt} {o : SetOp} {os : List SetOp}

theorem doSetEngineOpStart_eq (hq : (d.tile t).setq = o :: os) (hn : (d.tile t).setRun = none)
    (hl : d.ctxLaunch o.ctx = some l) : doSetEngineOpStart t d = d.runSetOp t l o := by
  rw [doSetEngineOpStart, hq, hn]
  dsimp only
  rw [hl]

theorem Dev.runSetOp_faults (hl : d.ctxLaunch o.ctx = some l) (hp : l.ph = .running)
    (h : l.inPages o.desc 32 = false ∨ (parseSet ((d.tile t).read 0 o.desc 32)).ok l = false) :
    d.runSetOp t l o = (d.faults o.ctx l .aborted 0).modTile t fun z => { z with setq := z.setq.tail } := by
  have hc : (!l.inPages o.desc 32 || !(parseSet ((d.tile t).read 0 o.desc 32)).ok l) = true := by
    rcases h with h | h <;> simp [h]
  refine (if_pos hc).trans ?_
  rw [Dev.faultLaunch_eq_faults hl hp]

section
variable (hi : l.inPages o.desc 32 = true) (hok : (parseSet ((d.tile t).read 0 o.desc 32)).ok l = true)
include hi hok

theorem setChecks : ¬ (!l.inPages o.desc 32 || !(parseSet ((d.tile t).read 0 o.desc 32)).ok l) = true := by
  simp [hi, hok]

theorem Dev.runSetOp_streams (h5 : (parseSet ((d.tile t).read 0 o.desc 32)).op ≠ 5) :
    d.runSetOp t l o = d.modTile t fun _ =>
      { ((d.tile t).setStreams (parseSet ((d.tile t).read 0 o.desc 32))).1 with
        setRun := some ((d.tile t).setStreams (parseSet ((d.tile t).read 0 o.desc 32))).2 } := by
  refine (if_neg (setChecks hi hok)).trans ((if_neg ?_).trans (if_neg h5))
  simp [SetDesc.inMem, h5]

theorem Dev.runSetOp_tileTable (h5 : (parseSet ((d.tile t).read 0 o.desc 32)).op = 5)
    (hm : (parseSet ((d.tile t).read 0 o.desc 32)).tableMem = false) :
    d.runSetOp t l o =
      let y := parseSet ((d.tile t).read 0 o.desc 32)
      let r := (d.tile t).setProbe y fun b => (d.tile t).read 0 (y.bOff + 64 * b) 64
      d.modTile t fun _ => { r.1 with setRun := some r.2 } := by
  refine (if_neg (setChecks hi hok)).trans ((if_neg ?_).trans (if_pos h5))
  simp [SetDesc.inMem, hm]

end

/-- A read that its key allows and that meets no error. -/
theorem Dev.tryRead_of_ok {n : Nat} {who : Option (Nat × Word)} {h : Word} {o : Obj} {rs : List (Nat × Nat)}
    (hk : d.keyAllows o.clearing.toNat n false = true) (hs : (d.checkRanges o rs).2.status = .ok) :
    d.tryRead n who h o rs = ((d.checkRanges o rs).1.tick, some (d.checkRanges o rs).2) := by
  unfold Dev.tryRead
  rw [if_neg (by simp [hk])]
  dsimp only
  split
  · rw [if_neg (by simp [hs])]
  · rfl

theorem Dev.keyAllows_countSectors (o : Obj) (offs : List Nat) (f n : Nat) (w : Bool) :
    (d.countSectors o offs).keyAllows f n w = d.keyAllows f n w := by
  unfold Dev.countSectors
  dsimp only
  split <;> rfl

/-- The buckets in memory that a PROBE examines, as offsets in its object. -/
def Dev.probeOffs (d : Dev) (t : Nat) (l : LaunchSt) (y : SetDesc) : List Nat :=
  let c := d.threadCheck l y.slot y.bOff (64 * y.bCount) 64 false
  ((d.tile t).probes y fun b => d.readObj c.2.1 (y.bOff + 64 * b) 64).map fun b => y.bOff + 64 * b

theorem Dev.runSetOp_memTable {y : SetDesc} (hy : parseSet ((d.tile t).read 0 o.desc 32) = y)
    (hi : l.inPages o.desc 32 = true) (hok : y.ok l = true) (h5 : y.op = 5) (hm : y.tableMem = true)
    {c : Word × Obj × Status} (hc : d.threadCheck l y.slot y.bOff (64 * y.bCount) 64 false = c) (hs : c.2.2 = .ok)
    (hk : d.keyAllows c.2.1.clearing.toNat l.clearing false = true) {e : Dev × Hit}
    (he : (d.countSectors c.2.1 (d.probeOffs t l y)).checkRanges c.2.1 ((d.probeOffs t l y).map fun o => (o, 64)) = e)
    (hes : e.2.status = .ok) :
    d.runSetOp t l o =
      let r := (e.1.tick.tile t).setProbe y fun b => e.1.tick.readObj c.2.1 (y.bOff + 64 * b) 64
      e.1.tick.modTile t fun _ => { r.1 with setRun := some r.2 } := by
  subst hy hc he
  have hin : (parseSet ((d.tile t).read 0 o.desc 32)).inMem = true := by simp [SetDesc.inMem, h5, hm]
  have hread := Dev.tryRead_of_ok (who := d.launchHolder l)
    (h := (d.threadCheck l (parseSet ((d.tile t).read 0 o.desc 32)).slot
      (parseSet ((d.tile t).read 0 o.desc 32)).bOff (64 * (parseSet ((d.tile t).read 0 o.desc 32)).bCount) 64 false).1)
    ((Dev.keyAllows_countSectors _ _ _ _ _).trans hk) hes
  refine (if_neg (setChecks hi hok)).trans ((if_pos hin).trans ((if_neg (not_not.2 hs)).trans ?_))
  dsimp only [Dev.probeOffs] at hread hes ⊢
  rw [hread]
  exact if_neg (not_not.2 hes)

theorem doSetEngineOpDone_eq {r : DWord} (hq : (d.tile t).setq = o :: os) (hn : (d.tile t).setRun = some r) :
    doSetEngineOpDone t d =
      let d₁ := d.modTile t fun z => { z with setq := os, setRun := none }
      if o.gen = d₁.tileGen t then d₁.modCtx o.ctx fun c => c.arrive (.x o.rd) r 0 else d₁.staleReply := by
  rw [doSetEngineOpDone, hq, hn]

end

/-! ## What it writes (R156) -/

/-- No more values than there is room for. -/
theorem setMerge_length_le (op fuel : Nat) (as bs : List Nat) (pa pb : Option Nat) (ia ib left : Nat) :
    (setMerge op fuel as bs pa pb ia ib left).vals.length ≤ left := by
  induction fuel generalizing as bs pa pb ia ib left with
  | zero => simp [setMerge]
  | succ fuel ih =>
    unfold setMerge
    cases left <;> dsimp only <;> repeat' split
    all_goals simp [ih]

section
variable {x : TileSt}

theorem TileSt.get_write_outside (hw : Tab.wf 0 x.op = true) {off p : Nat} {bs : List Byte}
    (h : p < off ∨ off + bs.length ≤ p) : Tab.get 0 (x.write off bs).op p = Tab.get 0 x.op p := by
  refine (Tab.get_setRun hw _ off p).trans (if_neg ?_)
  have : (bs.take (opBytes - off)).length ≤ bs.length := by simp
  omega

theorem TileSt.write_wf (hw : Tab.wf 0 x.op = true) (off : Nat) (bs : List Byte) : Tab.wf 0 (x.write off bs).op = true :=
  Tab.setRun_wf 0 _ _ hw _

theorem words32_length (ws : List Nat) : (ws.flatMap (leBytes 4)).length = 4 * ws.length := by
  induction ws with
  | nil => rfl
  | cons w ws ih => rw [List.flatMap_cons, List.length_append, ih, leBytes_length, List.length_cons]; omega

/-- The last value of `setStreams`: its merge. -/
def TileSt.merged (x : TileSt) (y : SetDesc) : SetOut :=
  setMerge y.op (y.aCount + y.bCount + 1) (x.words y.aOff y.aCount) (x.words y.bOff y.bCount) none none 0 0 y.limit

theorem TileSt.merged_length (x : TileSt) (y : SetDesc) : (x.merged y).vals.length ≤ y.limit :=
  setMerge_length_le _ _ _ _ _ _ _ _ _

theorem TileSt.setStreams_eq (x : TileSt) (y : SetDesc) : x.setStreams y =
    (let z := x.putWords32 y.outOff ((x.merged y).vals.map (·.1))
      if y.op = 1 && y.emitPos then z.putWords32 y.posOff ((x.merged y).vals.flatMap fun v => [v.2.1, v.2.2]) else z,
    setResult (x.merged y).vals.length (x.merged y).status (x.merged y).pos) := rfl

theorem positions_length (vs : List (Nat × Nat × Nat)) : (vs.flatMap fun v => [v.2.1, v.2.2]).length = 2 * vs.length := by
  induction vs with
  | nil => rfl
  | cons v vs ih => rw [List.flatMap_cons, List.length_append, ih]; simp; omega

theorem setResult_count (count status pos : Nat) (h : count < 2 ^ 32) :
    (setResult count status pos).toNat % 2 ^ 32 = count := by
  rw [setResult, BitVec.toNat_ofNat]
  omega

/-- Only the output's range, and the positions' where INTERSECT emits them, change. -/
theorem TileSt.setStreams_outside {y : SetDesc} {p : Nat} (hw : Tab.wf 0 x.op = true)
    (ho : p < y.outOff ∨ y.outOff + 4 * y.limit ≤ p)
    (hp : y.op = 1 → y.emitPos = true → p < y.posOff ∨ y.posOff + 8 * y.limit ≤ p) :
    Tab.get 0 (x.setStreams y).1.op p = Tab.get 0 x.op p := by
  have hl := x.merged_length y
  have hout : Tab.get 0 (x.putWords32 y.outOff ((x.merged y).vals.map (·.1))).op p = Tab.get 0 x.op p := by
    refine TileSt.get_write_outside hw ?_
    rw [words32_length, List.length_map]
    omega
  rw [TileSt.setStreams_eq]
  dsimp only
  split
  · next h =>
    simp only [Bool.and_eq_true, decide_eq_true_eq] at h
    have hp := hp h.1 h.2
    refine (TileSt.get_write_outside (TileSt.write_wf hw _ _) ?_).trans hout
    rw [words32_length, positions_length]
    omega
  · exact hout

theorem TileSt.setStreams_frame (y : SetDesc) :
    (x.setStreams y).1.acc = x.acc ∧ (x.setStreams y).1.setq = x.setq := by
  rw [TileSt.setStreams_eq]
  dsimp only
  split <;> exact ⟨rfl, rfl⟩

theorem TileSt.setStreams_count (y : SetDesc) (h : y.limit < 2 ^ 32) : (x.setStreams y).2.toNat % 2 ^ 32 ≤ y.limit := by
  have hl := x.merged_length y
  rw [TileSt.setStreams_eq]
  dsimp only
  rw [setResult_count _ _ _ (by omega)]
  exact hl

end

/-! ## The vector unit (R159–R161) -/

section
variable {d : Dev} {t : Nat} {l : LaunchSt} {b : VuBlock} {bs : List VuBlock} {code : List VuInstr}

/-- A block's state when its code has run. -/
def Dev.blockRun (d : Dev) (t : Nat) (l : LaunchSt) (b : VuBlock) (code : List VuInstr) : VuSt :=
  code.foldl (d.vuStep t l b.stream) { regs := [], stores := [], flags := 0, ok := true, clear := false }

theorem doVectorBlockStart_eq (hq : (d.tile t).vecq = b :: bs) (hn : (d.tile t).vecRun = none)
    (hl : d.ctxLaunch b.ctx = some l) : doVectorBlockStart t code d =
      let v := d.blockRun t l b code
      if !v.ok || !l.inPages b.block (8 * code.length) then
        (d.faultLaunch b.ctx .aborted .none 0).modTile t fun z => { z with vecq := z.vecq.tail }
      else
        (d.modTile t fun z => { z with
          vecRun := some (v.stores.reverse, (if v.clear then 0 else (d.ctx b.ctx).vflags) ||| v.flags) }).drew
          (code.any VuInstr.draws) b.stream := by
  rw [doVectorBlockStart, hq, hn]
  dsimp only
  rw [hl]
  rfl

theorem doVectorBlockDone_eq {r : List (Nat × Byte) × BitVec 5} (hq : (d.tile t).vecq = b :: bs)
    (hn : (d.tile t).vecRun = some r) : doVectorBlockDone t d =
      let d₁ := d.modTile t fun z => { r.1.foldl (fun z w => z.write w.1 [w.2]) z with vecq := bs, vecRun := none }
      if b.gen = d₁.tileGen t then d₁.modCtx b.ctx fun c => ({ c with vflags := r.2 } : Ctx).arrive (.x b.rd) b.token 0
      else d₁.staleReply := by
  rw [doVectorBlockDone, hq, hn]

end

/-- Settles O26: each engine's start and end. -/
theorem enginesRun : Obligations.EnginesRun := by
  intro s t hr d₀ x
  refine ⟨?_, ?_, ?_, ?_, ?_⟩
  · intro o os l hq hn hl y ends c bucket offs e
    have hstart := doSetEngineOpStart_eq hq hn hl
    refine ⟨fun hi hok => ⟨fun h5 => ?_, fun h5 hm => ?_, fun h5 hm hs hk hes => ?_⟩, ?_⟩
    · exact act_eq_next hr (hstart.trans (Dev.runSetOp_streams hi hok h5))
    · exact act_eq_next hr (hstart.trans (Dev.runSetOp_tileTable hi hok h5 hm))
    · exact act_eq_next hr (hstart.trans (Dev.runSetOp_memTable rfl hi hok h5 hm rfl hs hk rfl hes))
    · intro bad hp h
      exact act_eq_next hr (hstart.trans (Dev.runSetOp_faults hl hp h))
  · intro y hy r
    exact ⟨fun p ho hp hw => TileSt.setStreams_outside hw ho hp, (TileSt.setStreams_frame y).1, (TileSt.setStreams_frame y).2,
      TileSt.setStreams_count y⟩
  · intro o os r hq hn d₁
    have hdone := doSetEngineOpDone_eq hq hn
    exact ⟨fun hg => act_eq_next hr (hdone.trans (if_pos hg)), fun hg => act_eq_next hr (hdone.trans (if_neg hg))⟩
  · intro b bs l code hq hn hl v bad
    have hstart := doVectorBlockStart_eq (code := code) hq hn hl
    refine ⟨fun hok hi => ?_, fun hp h => ?_⟩
    · exact act_eq_next hr (hstart.trans (if_neg (by simp [hi, show (d₀.blockRun t.val l b code).ok = true from hok])))
    · refine act_eq_next hr (hstart.trans ((if_pos ?_).trans ?_))
      · rcases h with h | h
        · simp [show (d₀.blockRun t.val l b code).ok = false from h]
        · simp [h]
      · rw [Dev.faultLaunch_eq_faults hl hp]
  · intro b bs r hq hn d₁
    have hdone := doVectorBlockDone_eq hq hn
    exact ⟨fun hg => act_eq_next hr (hdone.trans (if_pos hg)), fun hg => act_eq_next hr (hdone.trans (if_neg hg))⟩

end Sys2Proof.Machine

/-! PROOFS. RW registers (R5, R8, R69, R281). -/

namespace Sys2Proof.Machine
open Sys2Proof

section
variable {s : State} (hr : s.dev.running = true)
include hr

/-- A write to a register that is no event register. -/
theorem exec_write_reg {off : BitVec 26} {v hw : Word} {d : Dev} (ha : off.toNat % 4 = 0)
    (he : eventReg off.toNat = none) (h : s.dev.writeReg off.toNat v hw 0 = d) :
    exec (.registerWrite off v hw) s = .next { s with dev := d } := by
  rw [exec_registerWrite_running hr, doRegisterWrite, if_neg (not_not.2 ha), he]
  exact congrArg (fun d => Host.Outcome.next { s with dev := d }) h

end

/-! ## The blocks of the register window (R277) -/

section
variable (d : Dev) (o : Nat) {off : Nat} {v hw : Word} {line : BitVec 35}

theorem Dev.writeReg_plan (ho : off = 0x0200000 + o) (h : o < 0x100000) : d.writeReg off v hw line = d.writePlan o v := by
  subst ho
  simp (disch := omega) only [Dev.writeReg, Bool.and_eq_true, decide_eq_true_eq, if_neg, if_pos, Nat.add_sub_cancel_left]

theorem Dev.writeReg_dbl (ho : off = 0x0400000 + o) (h : o < 0x400000) : d.writeReg off v hw line = d.writeDbl o v := by
  subst ho
  simp (disch := omega) only [Dev.writeReg, Bool.and_eq_true, decide_eq_true_eq, if_neg, if_pos, Nat.add_sub_cancel_left]

theorem Dev.writeReg_obj (ho : off = 0x0C00000 + o) (h : o < 0x400000) : d.writeReg off v hw line = d.writeObjReg o v := by
  subst ho
  simp (disch := omega) only [Dev.writeReg, Bool.and_eq_true, decide_eq_true_eq, if_neg, if_pos, Nat.add_sub_cancel_left]

theorem Dev.writeReg_mem (ho : off = 0x1000000 + o) (h : o < 0x200000) : d.writeReg off v hw line = d.writeMem o v hw := by
  subst ho
  simp (disch := omega) only [Dev.writeReg, Bool.and_eq_true, decide_eq_true_eq, if_neg, if_pos, Nat.add_sub_cancel_left]

theorem Dev.writeReg_sec (ho : off = 0x1400000 + o) (h : o < 0x400000) : d.writeReg off v hw line = d.writeSec o v := by
  subst ho
  simp (disch := omega) only [Dev.writeReg, Bool.and_eq_true, decide_eq_true_eq, if_neg, if_pos, Nat.add_sub_cancel_left]

theorem Dev.writeReg_lnk (ho : off = 0x1800000 + o) (h : o < 0x400000) : d.writeReg off v hw line = d.writeLnk o v := by
  subst ho
  simp (disch := omega) only [Dev.writeReg, Bool.and_eq_true, decide_eq_true_eq, if_neg, if_pos, Nat.add_sub_cancel_left]

theorem Dev.writeReg_stl (ho : off = 0x1C00000 + o) (h : o < 0x400000) : d.writeReg off v hw line = d.writeStl o v := by
  subst ho
  simp (disch := omega) only [Dev.writeReg, Bool.and_eq_true, decide_eq_true_eq, if_neg, if_pos, Nat.add_sub_cancel_left]

theorem Dev.writeReg_flt (ho : off = 0x2000000 + o) (h : o < 0x200000) : d.writeReg off v hw line = d.writeFlt o v hw := by
  subst ho
  simp (disch := omega) only [Dev.writeReg, Bool.and_eq_true, decide_eq_true_eq, if_neg, if_pos, Nat.add_sub_cancel_left]

theorem Dev.writeReg_pwr (ho : off = 0x2800000 + o) (h : o < 0x200000) : d.writeReg off v hw line = d.writePwr o v := by
  subst ho
  simp (disch := omega) only [Dev.writeReg, Bool.and_eq_true, decide_eq_true_eq, if_neg, if_pos, Nat.add_sub_cancel_left]

theorem Dev.writeReg_thm (ho : off = 0x2A00000 + o) (h : o < 0x200000) : d.writeReg off v hw line = d.writeThm o v := by
  subst ho
  simp (disch := omega) only [Dev.writeReg, Bool.and_eq_true, decide_eq_true_eq, if_neg, if_pos, Nat.add_sub_cancel_left]

/-- The configuration registers of a queue. -/
theorem Dev.writeReg_queue {q : Nat} (hq : q < 4096) (ho : off = 0x500000 + 64 * q + o) (h : o < 64) :
    d.writeReg off v hw line = d.writeQueue q o v := by
  have hn : (0x100000 + 64 * q + o - 0x100000) / 64 = q := by omega
  have hm : (0x100000 + 64 * q + o) % 64 = o := by omega
  rw [Dev.writeReg_dbl d (0x100000 + 64 * q + o) (by omega) (by omega), Dev.writeDbl, if_neg (by omega),
    if_pos (by simp; omega), hn, hm]

theorem eventReg_queue (h : 0x500000 ≤ off) (h' : off < 0x540000) : eventReg off = none := by
  simp (disch := omega) only [eventReg, if_neg, List.findSome?, id]

end

theorem Dev.writePlan_busy {d : Dev} {o : Nat} {v : Word}
    (h : d.plan.st = .fetching ∨ d.plan.st = .checking ∨ d.plan.st = .armed) (ho : o ≠ 0x00C) : d.writePlan o v = d := by
  unfold Dev.writePlan
  rcases h with h | h | h <;> simp only [h] <;> split <;> simp_all

/-- The states in which the plan's registers are written (R69). -/
theorem PlanSt.free_of {p : PlanSt} (h : p = .empty ∨ p = .active ∨ p = .failed) :
    (p == .empty || p == .active || p == .failed) = true := by
  rcases h with rfl | rfl | rfl <;> rfl

/-- Settles O4: each write reaches its register. -/
theorem registerWrites : Obligations.RegisterWrites := by
  constructor
  · intro s v hw hr d w out
    have sets {off : BitVec 26} {x : Dev} (ha : off.toNat % 4 = 0) (he : eventReg off.toNat = none)
        (h : d.writeReg off.toNat v hw 0 = x) : w off = out x := exec_write_reg hr ha he h
    refine ⟨sets (by decide) (by decide) ((Dev.writeReg_mem d 0x010 (by decide) (by decide)).trans rfl),
      sets (by decide) (by decide) ((Dev.writeReg_sec d 0x020 (by decide) (by decide)).trans rfl),
      sets (by decide) (by decide) ((Dev.writeReg_lnk d 0x060 (by decide) (by decide)).trans rfl),
      sets (by decide) (by decide) ((Dev.writeReg_flt d 0x018 (by decide) (by decide)).trans rfl),
      sets (by decide) (by decide) ((Dev.writeReg_pwr d 0x008 (by decide) (by decide)).trans rfl),
      sets (by decide) (by decide) ((Dev.writeReg_pwr d 0x00C (by decide) (by decide)).trans rfl),
      sets (by decide) (by decide) ((Dev.writeReg_pwr d 0x024 (by decide) (by decide)).trans rfl),
      sets (by decide) (by decide) ((Dev.writeReg_obj d 0x008 (by decide) (by decide)).trans rfl),
      sets (by decide) (by decide) ((Dev.writeReg_obj d 0x00C (by decide) (by decide)).trans rfl),
      sets (by decide) (by decide) ((Dev.writeReg_obj d 0x020 (by decide) (by decide)).trans rfl),
      sets (by decide) (by decide) ((Dev.writeReg_stl d 0x028 (by decide) (by decide)).trans rfl),
      sets (by decide) (by decide) ((Dev.writeReg_stl d 0x02C (by decide) (by decide)).trans rfl),
      sets (by decide) (by decide) ((Dev.writeReg_stl d 0x034 (by decide) (by decide)).trans rfl),
      sets (by decide) (by decide) ((Dev.writeReg_stl d 0x038 (by decide) (by decide)).trans rfl),
      sets (by decide) (by decide) ((Dev.writeReg_stl d 0x03C (by decide) (by decide)).trans rfl),
      sets (by decide) (by decide) ((Dev.writeReg_stl d 0x040 (by decide) (by decide)).trans rfl),
      sets (by decide) (by decide) ((Dev.writeReg_stl d 0x054 (by decide) (by decide)).trans rfl),
      sets (by decide) (by decide) ((Dev.writeReg_stl d 0x058 (by decide) (by decide)).trans rfl),
      sets (by decide) (by decide) ((Dev.writeReg_stl d 0x05C (by decide) (by decide)).trans rfl),
      sets (by decide) (by decide) ((Dev.writeReg_stl d 0x060 (by decide) (by decide)).trans rfl),
      fun h70 h100 h60 h70' h95 => ?_⟩
    refine sets (by decide) (by decide) ((Dev.writeReg_thm d 0x034 (by decide) (by decide)).trans ?_)
    have hct : ¬ (60 ≤ (v.extractLsb' 8 8).toNat) := by omega
    simp only [Dev.writeThm, h70, h100, hct, h70', h95, if_true, decide_true, decide_false, Bool.and_self,
      Bool.false_and, Bool.false_eq_true, if_false]
  · intro s v hw q off hr d w
    have sets {off : BitVec 26} {x : Dev} (ha : off.toNat % 4 = 0) (he : eventReg off.toNat = none)
        (h : d.writeReg off.toNat v hw 0 = x) : w off = .next { s with dev := x } := exec_write_reg hr ha he h
    refine ⟨fun hb => ?_, fun hf => ?_, fun ho => ⟨fun hs => ?_, fun hs => ?_⟩⟩
    · have keeps {off : BitVec 26} (o : Nat) (ha : off.toNat % 4 = 0) (he : eventReg off.toNat = none)
          (ho : off.toNat = 0x0200000 + o) (hl : o < 0x100000) (hc : o ≠ 0x00C) : w off = .next s :=
        sets ha he ((Dev.writeReg_plan d o ho hl).trans (Dev.writePlan_busy hb hc))
      exact ⟨keeps 0x000 (by decide) (by decide) (by decide) (by decide) (by decide),
        keeps 0x004 (by decide) (by decide) (by decide) (by decide) (by decide),
        keeps 0x008 (by decide) (by decide) (by decide) (by decide) (by decide),
        keeps 0x038 (by decide) (by decide) (by decide) (by decide) (by decide),
        keeps 0x03C (by decide) (by decide) (by decide) (by decide) (by decide)⟩
    · have hfree := PlanSt.free_of hf
      refine ⟨sets (by decide) (by decide) ((Dev.writeReg_plan d 0x000 (by decide) (by decide)).trans (if_pos hfree)),
        sets (by decide) (by decide) ((Dev.writeReg_plan d 0x004 (by decide) (by decide)).trans (if_pos hfree)),
        fun hv => sets (by decide) (by decide) ((Dev.writeReg_plan d 0x008 (by decide) (by decide)).trans (if_pos ?_)),
        sets (by decide) (by decide) ((Dev.writeReg_plan d 0x038 (by decide) (by decide)).trans (if_pos hfree)),
        sets (by decide) (by decide) ((Dev.writeReg_plan d 0x03C (by decide) (by decide)).trans (if_pos hfree))⟩
      simp [hfree, hv]
    all_goals
      have hq := q.isLt
      have queue {off : BitVec 26} (o : Nat) (ho : off.toNat = 0x500000 + 64 * q.val + o) (h4 : o % 4 = 0) (hl : o < 64)
          {x : Dev} (hx : d.writeQueue q.val o v = x) : w off = .next { s with dev := x } :=
        sets (by omega) (eventReg_queue (by omega) (by omega)) ((Dev.writeReg_queue d o hq ho hl).trans hx)
      have hadd {k : Nat} (hk : k < 64) : (off + BitVec.ofNat 26 k).toNat = 0x500000 + 64 * q.val + k := by
        rw [BitVec.toNat_add, BitVec.toNat_ofNat, ho]
        omega
    · have hoff : ¬ ((d.queue q.val).st == QSt.disabled) = true := by simpa using hs
      exact ⟨queue 0 ho (by decide) (by decide) (if_neg hoff), queue 4 (hadd (by decide)) (by decide) (by decide) (if_neg hoff),
        queue 8 (hadd (by decide)) (by decide) (by decide) (if_neg hoff),
        queue 12 (hadd (by decide)) (by decide) (by decide) (if_neg hoff)⟩
    · have hoff : ((d.queue q.val).st == QSt.disabled) = true := by simpa using hs
      exact ⟨queue 0 ho (by decide) (by decide) (if_pos hoff), queue 4 (hadd (by decide)) (by decide) (by decide) (if_pos hoff),
        queue 8 (hadd (by decide)) (by decide) (by decide) (if_pos hoff),
        queue 12 (hadd (by decide)) (by decide) (by decide) (if_pos hoff)⟩

end Sys2Proof.Machine

/-! PROOFS. Registers that a read latches or clears (R5, R6, R42), and the I3C target (R400). -/

namespace Sys2Proof.Machine
open Sys2Proof

/-! ## Reads of the blocks (R277) -/

section
variable (d : Dev) (n o : Nat) {off : Nat}

theorem Dev.readReg_tide (ho : off = 0x0100000 + o) (h : o < 0x100000) : d.readReg off = d.readTide o := by
  subst ho
  simp (disch := omega) only [Dev.readReg, Bool.and_eq_true, decide_eq_true_eq, if_neg, if_pos, Nat.add_sub_cancel_left]

theorem Dev.readReg_mem (ho : off = 0x1000000 + o) (h : o < 0x200000) : d.readReg off = d.readMem o := by
  subst ho
  simp (disch := omega) only [Dev.readReg, Bool.and_eq_true, decide_eq_true_eq, if_neg, if_pos, Nat.add_sub_cancel_left]

theorem Dev.readReg_mcx (ho : off = 0x1200000 + o) (h : o < 0x200000) : d.readReg off = d.readMcx o := by
  subst ho
  simp (disch := omega) only [Dev.readReg, Bool.and_eq_true, decide_eq_true_eq, if_neg, if_pos, Nat.add_sub_cancel_left]

theorem Dev.readReg_lnk (ho : off = 0x1800000 + o) (h : o < 0x400000) : d.readReg off = d.readLnk o := by
  subst ho
  simp (disch := omega) only [Dev.readReg, Bool.and_eq_true, decide_eq_true_eq, if_neg, if_pos, Nat.add_sub_cancel_left]

theorem Dev.readReg_flt (ho : off = 0x2000000 + o) (h : o < 0x200000) : d.readReg off = d.readFlt o := by
  subst ho
  simp (disch := omega) only [Dev.readReg, Bool.and_eq_true, decide_eq_true_eq, if_neg, if_pos, Nat.add_sub_cancel_left]

theorem Dev.readReg_num (ho : off = 0x2C00000 + o) (h : o < 0x400000) : d.readReg off = d.readNum o := by
  subst ho
  simp (disch := omega) only [Dev.readReg, Bool.and_eq_true, decide_eq_true_eq, if_neg, if_pos, Nat.add_sub_cancel_left]

theorem Dev.readReg_stack (ho : off = 0x1001000 + 64 * n + o) (hn : n < 16) (h : o < 64) :
    d.readReg off = d.readStack n o := by
  have h1 : (0x1000 + 64 * n + o - 0x1000) / 64 = n := by omega
  have h2 : (0x1000 + 64 * n + o) % 64 = o := by omega
  rw [Dev.readReg_mem d (0x1000 + 64 * n + o) (by omega) (by omega)]
  simp (disch := omega) only [Dev.readMem, Bool.and_eq_true, decide_eq_true_eq, if_neg, if_pos, h1, h2]

theorem Dev.readReg_memClr (ho : off = 0x1002000 + 64 * n + o) (hn : n < 16) (h : o < 64) :
    d.readReg off = d.readMemClr n o := by
  have h1 : (0x2000 + 64 * n + o - 0x2000) / 64 = n := by omega
  have h2 : (0x2000 + 64 * n + o) % 64 = o := by omega
  rw [Dev.readReg_mem d (0x2000 + 64 * n + o) (by omega) (by omega)]
  simp (disch := omega) only [Dev.readMem, Bool.and_eq_true, decide_eq_true_eq, if_neg, if_pos, h1, h2]

theorem Dev.readReg_frame (ho : off = 0x1201000 + 64 * n + o) (hn : n < 17) (h : o < 64) :
    d.readReg off = d.readFrame n o := by
  have h1 : (0x1000 + 64 * n + o - 0x1000) / 64 = n := by omega
  have h2 : (0x1000 + 64 * n + o) % 64 = o := by omega
  rw [Dev.readReg_mcx d (0x1000 + 64 * n + o) (by omega) (by omega)]
  simp (disch := omega) only [Dev.readMcx, Bool.and_eq_true, decide_eq_true_eq, if_pos, h1, h2]

theorem Dev.readReg_link (ho : off = 0x1801000 + 64 * n + o) (hn : n < 64) (h : o < 64) :
    d.readReg off = d.readLink n o := by
  have h1 : (0x1000 + 64 * n + o - 0x1000) / 64 = n := by omega
  have h2 : (0x1000 + 64 * n + o) % 64 = o := by omega
  rw [Dev.readReg_lnk d (0x1000 + 64 * n + o) (by omega) (by omega)]
  simp (disch := omega) only [Dev.readLnk, Bool.and_eq_true, decide_eq_true_eq, if_neg, if_pos, h1, h2]

theorem Dev.readReg_numClr (ho : off = 0x2C00000 + 256 * n + o) (hn : n < 16) (h : o < 256) :
    d.readReg off = d.readNumClr n o := by
  have h1 : (256 * n + o) / 256 = n := by omega
  have h2 : (256 * n + o) % 256 = o := by omega
  rw [Dev.readReg_num d (256 * n + o) (by omega) (by omega), Dev.readNum, if_pos (by omega), h1, h2]

end

/-! ## Counters that clear on read (R5, R6) -/

section
variable (d : Dev) (n o : Nat) {off : Nat} (hw : Word)

theorem Dev.clearRc_tide (ho : off = 0x0100000 + o) (h : o < 0x100000) : d.clearRc off hw = d.rcTide o hw := by
  subst ho
  simp (disch := omega) only [Dev.clearRc, Bool.and_eq_true, decide_eq_true_eq, if_pos, Nat.add_sub_cancel_left]

theorem Dev.clearRc_stack (ho : off = 0x1001000 + 64 * n + o) (hn : n < 16) (h : o < 64) :
    d.clearRc off hw = d.rcStack n o hw := by
  have h1 : (0x1001000 + 64 * n + o - 0x1001000) / 64 = n := by omega
  have h2 : (0x1001000 + 64 * n + o) % 64 = o := by omega
  subst ho
  simp (disch := omega) only [Dev.clearRc, Bool.and_eq_true, decide_eq_true_eq, if_neg, if_pos, h1, h2]

theorem Dev.clearRc_memClr (ho : off = 0x1002000 + 64 * n + o) (hn : n < 16) (h : o < 64) :
    d.clearRc off hw = d.rcMemClr n o hw := by
  have h1 : (0x1002000 + 64 * n + o - 0x1002000) / 64 = n := by omega
  have h2 : (0x1002000 + 64 * n + o) % 64 = o := by omega
  subst ho
  simp (disch := omega) only [Dev.clearRc, Bool.and_eq_true, decide_eq_true_eq, if_neg, if_pos, h1, h2]

theorem Dev.clearRc_frame (ho : off = 0x1201000 + 64 * n + o) (hn : n < 17) (h : o < 64) :
    d.clearRc off hw = d.rcFrame n o hw := by
  have h1 : (0x1201000 + 64 * n + o - 0x1201000) / 64 = n := by omega
  have h2 : (0x1201000 + 64 * n + o) % 64 = o := by omega
  subst ho
  simp (disch := omega) only [Dev.clearRc, Bool.and_eq_true, decide_eq_true_eq, if_neg, if_pos, h1, h2]

theorem Dev.clearRc_link (ho : off = 0x1801000 + 64 * n + o) (hn : n < 64) (h : o < 64) :
    d.clearRc off hw = d.rcLink n o hw := by
  have h1 : (0x1801000 + 64 * n + o - 0x1801000) / 64 = n := by omega
  have h2 : (0x1801000 + 64 * n + o) % 64 = o := by omega
  subst ho
  simp (disch := omega) only [Dev.clearRc, Bool.and_eq_true, decide_eq_true_eq, if_neg, if_pos, h1, h2]

theorem Dev.clearRc_numClr (ho : off = 0x2C00000 + 256 * n + o) (hn : n < 16) (h : o < 256) :
    d.clearRc off hw = d.rcNum n o hw := by
  have h1 : (0x2C00000 + 256 * n + o - 0x2C00000) / 256 = n := by omega
  have h2 : (0x2C00000 + 256 * n + o) % 256 = o := by omega
  subst ho
  simp (disch := omega) only [Dev.clearRc, Bool.and_eq_true, decide_eq_true_eq, if_neg, if_pos, h1, h2]

end

/-- A read of the counter at `off` leaves there what hardware added in the same cycle, and touches nothing else. -/
structure Dev.ClearsAt (d : Dev) (off : Nat) (hw : Word) : Prop where
  aligned : off % 4 = 0
  latch : d.latchHi off = d
  reads : ∀ v, ((d.clearRc off hw).answer v).readReg off = hw
  frame : d.clearRc off hw = { d with
    tide := (d.clearRc off hw).tide, clrs := (d.clearRc off hw).clrs, mem := (d.clearRc off hw).mem,
    lnk := (d.clearRc off hw).lnk, flt := { d.flt with staleReply := (d.clearRc off hw).flt.staleReply } }

theorem Dev.latchHi_of_ne {d : Dev} {off : Nat} (h : off ≠ 0x0100010) (h' : off ≠ 0x0100018) (h'' : off ≠ 0x0100020)
    (h₃ : off ≠ 0x2800050) : d.latchHi off = d := by
  rw [Dev.latchHi, if_neg h, if_neg h', if_neg h'', if_neg h₃]

section
variable {d : Dev} {hw : Word} {n o : Nat}

theorem Dev.clearsAt_tide (h : o ∈ [0x040, 0x044, 0x048, 0x04C]) : d.ClearsAt (0x0100000 + o) hw := by
  have hlt : o < 0x060 := by fin_cases h <;> decide
  have hge : 0x040 ≤ o := by fin_cases h <;> decide
  have ha : o % 4 = 0 := by fin_cases h <;> decide
  have hc := Dev.clearRc_tide d o hw rfl (by omega : o < 0x100000)
  refine ⟨by omega, Dev.latchHi_of_ne (by omega) (by omega) (by omega) (by omega), fun v => ?_, ?_⟩
  · rw [hc, Dev.readReg_tide _ o rfl (by omega)]
    fin_cases h <;> rfl
  · rw [hc]
    fin_cases h <;> rfl

theorem Dev.clearsAt_stack (hwf : Tab.wf StackSt.reset d.mem.stk = true) (hn : n < 16) (h : o ∈ [0x08, 0x0C, 0x18]) :
    d.ClearsAt (0x1001000 + 64 * n + o) hw := by
  have hlt : o < 0x40 := by fin_cases h <;> decide
  have ha : o % 4 = 0 := by fin_cases h <;> decide
  have hc := Dev.clearRc_stack d n o hw rfl hn hlt
  have hs (f : StackSt → StackSt) := Dev.modStack_stack_self d n f hwf
  refine ⟨by omega, Dev.latchHi_of_ne (by omega) (by omega) (by omega) (by omega), fun v => ?_, ?_⟩
  · rw [hc, Dev.readReg_stack _ n o rfl hn hlt]
    fin_cases h
    · exact congrArg StackSt.ce (hs _)
    · exact congrArg StackSt.ue (hs _)
    · exact congrArg StackSt.derate (hs _)
  · rw [hc]
    fin_cases h <;> rfl

theorem Dev.clearsAt_memClr (hwf : Tab.wf Clearing.reset d.clrs = true) (hn : n < 16) (h : o ∈ [0x04, 0x08, 0x0C, 0x10]) :
    d.ClearsAt (0x1002000 + 64 * n + o) hw := by
  have hlt : o < 0x40 := by fin_cases h <;> decide
  have ha : o % 4 = 0 := by fin_cases h <;> decide
  have hc := Dev.clearRc_memClr d n o hw rfl hn hlt
  have hs (f : Clearing → Clearing) := Dev.modClr_clr_self d n f hwf
  refine ⟨by omega, Dev.latchHi_of_ne (by omega) (by omega) (by omega) (by omega), fun v => ?_, ?_⟩
  · rw [hc, Dev.readReg_memClr _ n o rfl hn hlt]
    fin_cases h
    · exact congrArg Clearing.memHit (hs fun x => { x with memHit := hw })
    · exact congrArg Clearing.memMiss (hs fun x => { x with memMiss := hw })
    · exact congrArg Clearing.memFar (hs fun x => { x with memFar := hw })
    · exact congrArg Clearing.memNarrow (hs fun x => { x with memNarrow := hw })
  · rw [hc]
    fin_cases h <;> rfl

theorem Dev.clearsAt_frame (hwf : Tab.wf McxFrame.reset d.mem.frames = true) (hn : n < 17) (h : o ∈ [0x04, 0x08, 0x0C, 0x14, 0x18]) :
    d.ClearsAt (0x1201000 + 64 * n + o) hw := by
  have hlt : o < 0x40 := by fin_cases h <;> decide
  have ha : o % 4 = 0 := by fin_cases h <;> decide
  have hc := Dev.clearRc_frame d n o hw rfl hn hlt
  have hs (f : McxFrame → McxFrame) := Dev.modFrame_frame_self d n f hwf
  refine ⟨by omega, Dev.latchHi_of_ne (by omega) (by omega) (by omega) (by omega), fun v => ?_, ?_⟩
  · rw [hc, Dev.readReg_frame _ n o rfl hn hlt]
    fin_cases h
    · exact congrArg McxFrame.tamper (hs _)
    · exact congrArg McxFrame.ue (hs _)
    · exact congrArg McxFrame.ilost (hs _)
    · exact congrArg McxFrame.overrun (hs _)
    · exact congrArg McxFrame.nodeMiss (hs _)
  · rw [hc]
    fin_cases h <;> rfl

theorem Dev.clearsAt_link (hwf : Tab.wf Link.reset d.lnk.links = true) (hn : n < 64) (h : o ∈ [0x18, 0x1C, 0x20, 0x24, 0x28]) :
    d.ClearsAt (0x1801000 + 64 * n + o) hw := by
  have hlt : o < 0x40 := by fin_cases h <;> decide
  have ha : o % 4 = 0 := by fin_cases h <;> decide
  have hc := Dev.clearRc_link d n o hw rfl hn hlt
  have hs (f : Link → Link) := Dev.modLink_link_self d n f hwf
  refine ⟨by omega, Dev.latchHi_of_ne (by omega) (by omega) (by omega) (by omega), fun v => ?_, ?_⟩
  · rw [hc, Dev.readReg_link _ n o rfl hn hlt]
    fin_cases h
    · exact congrArg Link.retx (hs _)
    · exact congrArg Link.tagFail (hs _)
    · exact congrArg Link.downs (hs _)
    · exact congrArg Link.fec (hs _)
    · exact congrArg Link.rekeys (hs _)
  · rw [hc]
    fin_cases h <;> rfl

theorem Dev.readNumClr_replay (d : Dev) (n : Nat) : d.readNumClr n 0x04 = (d.clr n).num.replay := by
  rw [Dev.readNumClr]

theorem Dev.readNumClr_loss (d : Dev) (n : Nat) : d.readNumClr n 0x08 = (d.clr n).num.loss := by
  rw [Dev.readNumClr]

theorem Dev.readNumClr_convNan (d : Dev) (n : Nat) : d.readNumClr n 0x0C = (d.clr n).num.convNan := by
  rw [Dev.readNumClr]

theorem Dev.readNumClr_nan (d : Dev) (n : Nat) : d.readNumClr n 0x10 = (d.clr n).num.nan := by
  rw [Dev.readNumClr]

theorem Dev.readNumClr_sat (d : Dev) (n : Nat) : d.readNumClr n 0x14 = (d.clr n).num.sat := by
  rw [Dev.readNumClr]

theorem Dev.clearsAt_numClr (hwf : Tab.wf Clearing.reset d.clrs = true) (hn : n < 16) (h : o ∈ [0x04, 0x08, 0x0C, 0x10, 0x14]) :
    d.ClearsAt (0x2C00000 + 256 * n + o) hw := by
  have hlt : o < 0x100 := by fin_cases h <;> decide
  have ha : o % 4 = 0 := by fin_cases h <;> decide
  have hc := Dev.clearRc_numClr d n o hw rfl hn hlt
  have hs (f : Num → Num) : (d.modNum n f).clr n = _ := Dev.modClr_clr_self d n _ hwf
  refine ⟨by omega, Dev.latchHi_of_ne (by omega) (by omega) (by omega) (by omega), fun v => ?_, ?_⟩
  · rw [hc, Dev.readReg_numClr _ n o rfl hn hlt]
    fin_cases h
    · exact (Dev.readNumClr_replay _ n).trans (congrArg (fun c : Clearing => c.num.replay) (hs fun x => { x with replay := hw }))
    · exact (Dev.readNumClr_loss _ n).trans (congrArg (fun c : Clearing => c.num.loss) (hs fun x => { x with loss := hw }))
    · exact (Dev.readNumClr_convNan _ n).trans (congrArg (fun c : Clearing => c.num.convNan) (hs fun x => { x with convNan := hw }))
    · exact (Dev.readNumClr_nan _ n).trans (congrArg (fun c : Clearing => c.num.nan) (hs fun x => { x with nan := hw }))
    · exact (Dev.readNumClr_sat _ n).trans (congrArg (fun c : Clearing => c.num.sat) (hs fun x => { x with sat := hw }))
  · rw [hc]
    fin_cases h <;> rfl

theorem Dev.clearsAt_lnk (h : o ∈ [0x020, 0x024]) : d.ClearsAt (0x1800000 + o) hw := by
  fin_cases h
  · exact ⟨rfl, rfl, fun v => Dev.readReg_lnk _ 0x020 rfl (by decide), rfl⟩
  · exact ⟨rfl, rfl, fun v => Dev.readReg_lnk _ 0x024 rfl (by decide), rfl⟩

theorem Dev.clearsAt_stale : d.ClearsAt 0x2000010 hw :=
  ⟨rfl, rfl, fun v => Dev.readReg_flt _ 0x010 rfl (by decide), rfl⟩

/-- Every counter that clears on read does so. -/
theorem Dev.clearsAt_of_mem {off : Nat} (h : off ∈ rcWords) (hc : Tab.wf Clearing.reset d.clrs = true)
    (hs : Tab.wf StackSt.reset d.mem.stk = true) (hf : Tab.wf McxFrame.reset d.mem.frames = true)
    (hl : Tab.wf Link.reset d.lnk.links = true) : d.ClearsAt off hw := by
  rw [rcWords] at h
  simp only [List.mem_append, List.mem_flatMap, List.mem_map, List.mem_range] at h
  rcases h with ((h | ⟨n, hn, h⟩) | ⟨n, hn, h⟩) | ⟨n, hn, h⟩
  · fin_cases h
    · exact Dev.clearsAt_tide (o := 0x040) (by decide)
    · exact Dev.clearsAt_tide (o := 0x044) (by decide)
    · exact Dev.clearsAt_tide (o := 0x048) (by decide)
    · exact Dev.clearsAt_tide (o := 0x04C) (by decide)
    · exact Dev.clearsAt_lnk (o := 0x020) (by decide)
    · exact Dev.clearsAt_lnk (o := 0x024) (by decide)
    · exact Dev.clearsAt_stale
  · rcases h with ⟨o, ho, rfl⟩ | ⟨o, ho, rfl⟩
    · have offset (o : Nat) (h : o ∈ [0x04, 0x08, 0x0C, 0x10, 0x14]) : d.ClearsAt (0x2C00000 + o + 256 * n) hw := by
        rw [Nat.add_right_comm]
        exact Dev.clearsAt_numClr hc hn h
      fin_cases ho
      · exact offset 0x04 (by decide)
      · exact offset 0x08 (by decide)
      · exact offset 0x0C (by decide)
      · exact offset 0x10 (by decide)
      · exact offset 0x14 (by decide)
    · have stack (o : Nat) (h : o ∈ [0x08, 0x0C, 0x18]) : d.ClearsAt (0x1001000 + o + 64 * n) hw := by
        rw [Nat.add_right_comm]
        exact Dev.clearsAt_stack hs hn h
      have memClr (o : Nat) (h : o ∈ [0x04, 0x08, 0x0C, 0x10]) : d.ClearsAt (0x1002000 + o + 64 * n) hw := by
        rw [Nat.add_right_comm]
        exact Dev.clearsAt_memClr hc hn h
      fin_cases ho
      · exact stack 0x08 (by decide)
      · exact stack 0x0C (by decide)
      · exact stack 0x18 (by decide)
      · exact memClr 0x04 (by decide)
      · exact memClr 0x08 (by decide)
      · exact memClr 0x0C (by decide)
      · exact memClr 0x10 (by decide)
  · obtain ⟨o, ho, rfl⟩ := h
    have frame (o : Nat) (h : o ∈ [0x04, 0x08, 0x0C, 0x14, 0x18]) : d.ClearsAt (0x1201000 + o + 64 * n) hw := by
      rw [Nat.add_right_comm]
      exact Dev.clearsAt_frame hf hn h
    fin_cases ho
    · exact frame 0x04 (by decide)
    · exact frame 0x08 (by decide)
    · exact frame 0x0C (by decide)
    · exact frame 0x14 (by decide)
    · exact frame 0x18 (by decide)
  · obtain ⟨o, ho, rfl⟩ := h
    have link (o : Nat) (h : o ∈ [0x18, 0x1C, 0x20, 0x24, 0x28]) : d.ClearsAt (0x1801000 + o + 64 * n) hw := by
      rw [Nat.add_right_comm]
      exact Dev.clearsAt_link hl hn h
    fin_cases ho
    · exact link 0x18 (by decide)
    · exact link 0x1C (by decide)
    · exact link 0x20 (by decide)
    · exact link 0x24 (by decide)
    · exact link 0x28 (by decide)

end

/-! ## The two words of a 64-bit register (R42) -/

section
variable {w : Nat} (v : BitVec w)

theorem loHalf_toNat : loHalf v.toNat = v.extractLsb' 0 32 := by
  apply BitVec.eq_of_toNat_eq
  simp [loHalf]

theorem hiHalf_toNat : hiHalf v.toNat = v.extractLsb' 32 32 := by
  apply BitVec.eq_of_toNat_eq
  simp [hiHalf, Nat.shiftRight_eq_div_pow]

end

theorem hiHalf_toNat48 (v : BitVec 48) : hiHalf v.toNat = (v.extractLsb' 32 16).setWidth 32 := by
  apply BitVec.eq_of_toNat_eq
  simp [hiHalf, Nat.shiftRight_eq_div_pow]
  omega

/-! ## The I3C target (R400) -/

/-- What a read of the power and thermal registers may change. -/
def Dev.ReadFrame (d d' : Dev) : Prop :=
  d' = { d with bus := d'.bus, pwr := { d.pwr with inMax := d'.pwr.inMax }, thm := d'.thm }

section
variable {d : Dev} {off : Nat}

theorem Dev.ReadFrame.trans {d₁ d₂ d₃ : Dev} (h : d₁.ReadFrame d₂) (h' : d₂.ReadFrame d₃) : d₁.ReadFrame d₃ := by
  unfold Dev.ReadFrame at *
  rw [h', h]

theorem Dev.latchHi_readFrame (d : Dev) (off : Nat) : d.ReadFrame (d.latchHi off) := by
  unfold Dev.latchHi
  split_ifs <;> rfl

theorem Dev.rcThm_readFrame (d : Dev) (o : Nat) (hw : Word) : d.ReadFrame (d.rcThm o hw) := by
  unfold Dev.rcThm
  dsimp only
  split_ifs <;> rfl

theorem Dev.clearRc_readFrame (h : 0x2800000 ≤ off) (h' : off < 0x2C00000) (hw : Word) : d.ReadFrame (d.clearRc off hw) := by
  simp (disch := omega) only [Dev.clearRc, Bool.and_eq_true, decide_eq_true_eq, if_neg]
  split_ifs
  · rfl
  · exact Dev.rcThm_readFrame _ _ _
  · rfl

theorem Dev.hostRead_readFrame (h : 0x2800000 ≤ off) (h' : off < 0x2C00000) (hw : Word) :
    d.ReadFrame (d.hostRead off hw).2 := by
  unfold Dev.hostRead
  split
  · exact (Dev.latchHi_readFrame d off).trans (Dev.clearRc_readFrame h h' hw)
  · rfl

theorem Dev.ReadFrame.emit {d d' : Dev} (h : d.ReadFrame d') (o : Output) :
    (d'.emit o).outbox = d.outbox ++ [o] ∧ (d'.emit o).pins = d.pins ∧ d'.emit o = { d with
      bus := (d'.emit o).bus, pwr := { d.pwr with inMax := (d'.emit o).pwr.inMax }, thm := (d'.emit o).thm,
      outbox := (d'.emit o).outbox } := by
  unfold Dev.ReadFrame at h
  rw [h]
  exact ⟨rfl, rfl, rfl⟩

/-- The words of a read of the target. -/
theorem Dev.i3cWords_spec (n : Nat) (d : Dev) (off : Nat) :
    (Dev.i3cWords off n d).1.length = n ∧ d.ReadFrame (Dev.i3cWords off n d).2 := by
  induction n generalizing d off with
  | zero => exact ⟨rfl, rfl⟩
  | succ n ih =>
    rw [Dev.i3cWords]
    dsimp only
    split
    · next h =>
      simp only [Bool.and_eq_true, decide_eq_true_eq] at h
      obtain ⟨hl, hf⟩ := ih (d.hostRead off 0).2 (off + 4)
      exact ⟨congrArg (· + 1) hl, (Dev.hostRead_readFrame h.1 h.2 0).trans hf⟩
    · obtain ⟨hl, hf⟩ := ih d (off + 4)
      exact ⟨congrArg (· + 1) hl, hf⟩

theorem Dev.i3cWords_head {n : Nat} (hn : 0 < n) (d : Dev) (o : Nat) : (Dev.i3cWords (0x2800000 + o) n d).1.head? =
    some (if o < 0x400000 ∧ o % 4 = 0 then d.readReg (0x2800000 + o) else 0) := by
  obtain ⟨n, rfl⟩ : ∃ k, n = k + 1 := ⟨n - 1, by omega⟩
  rw [Dev.i3cWords]
  simp only [List.head?_cons, Bool.and_eq_true, decide_eq_true_eq, Option.some.injEq]
  by_cases h : o < 0x400000
  · rw [if_pos (by omega), Dev.hostRead]
    by_cases ha : o % 4 = 0
    · rw [if_pos (by omega), if_pos ⟨h, ha⟩]
    · rw [if_neg (by omega), if_neg fun h => ha h.2]
  · rw [if_neg (by omega), if_neg fun h' => h h'.1]

theorem toNat_append_byte {n : Nat} (x : BitVec n) (y : Byte) : (x ++ y).toNat = x.toNat * 256 + y.toNat := by
  rw [BitVec.toNat_append, ← Nat.shiftLeft_add_eq_or_of_lt y.isLt, Nat.shiftLeft_eq]

theorem i3cOffset (b0 b1 b2 : Byte) (bs : List Byte) :
    BitVec.ofNat 24 (leVal ((b0 :: b1 :: b2 :: bs).take 3)) = b2 ++ b1 ++ b0 := by
  apply BitVec.eq_of_toNat_eq
  have h0 := b0.isLt
  have h1 := b1.isLt
  have h2 := b2.isLt
  simp only [List.take_succ_cons, List.take_zero, leVal, BitVec.toNat_ofNat, toNat_append_byte]
  omega

end

/-- A read of a register that neither latches nor clears. -/
theorem exec_read_plain {s : State} (hr : s.dev.running = true) {off : BitVec 26} {hw v : Word} (n : Nat)
    (hn : off.toNat = n) (ha : n % 4 = 0) (hl : s.dev.latchHi n = s.dev) (hc : s.dev.clearRc n hw = s.dev)
    (hv : s.dev.readReg n = v) :
    exec (.rcRegisterRead off hw) s = .next { s with dev := { s.dev with bus := { s.dev.bus with readData := v } } } := by
  subst hn hv
  rw [exec_rcRegisterRead_running hr, doRegisterRead, Dev.hostRead, if_pos ha]
  dsimp only
  rw [hl, hc]
  rfl

/-- Settles O3: a read's latch, its clearing, and the I3C target's offset. -/
theorem readsLatchAndClear : Obligations.ReadsLatchAndClear := by
  refine ⟨?_, ?_, ?_⟩
  · intro s hw hr b t out
    refine ⟨?_, ?_, ?_, ?_, ?_, ?_, ?_, ?_, rfl, rfl, rfl⟩
    · refine act_eq_next hr ?_
      rw [doLoRegisterReadLatch, ← hiHalf_toNat, ← loHalf_toNat]
      rfl
    · refine act_eq_next hr ?_
      rw [doLoRegisterReadLatch, ← hiHalf_toNat, ← loHalf_toNat]
      rfl
    · refine act_eq_next hr ?_
      rw [doLoRegisterReadLatch, ← hiHalf_toNat48, ← loHalf_toNat]
      rfl
    · refine act_eq_next hr ?_
      rw [doLoRegisterReadLatch, ← hiHalf_toNat, ← loHalf_toNat]
      rfl
    · exact exec_read_plain hr 0x0100014 rfl rfl rfl rfl rfl
    · exact exec_read_plain hr 0x010001C rfl rfl rfl rfl rfl
    · exact exec_read_plain hr 0x0100024 rfl rfl rfl rfl rfl
    · exact exec_read_plain hr 0x2800054 rfl rfl rfl rfl rfl
  · intro s off hw hr hm hc hs hf hl
    obtain ⟨ha, hlatch, hreads, hframe⟩ := Dev.clearsAt_of_mem (hw := hw) hm hc hs hf hl
    have hd : doRegisterRead off.toNat hw s.dev = (s.dev.clearRc off.toNat hw).answer (s.dev.readReg off.toNat) := by
      rw [doRegisterRead, Dev.hostRead, if_pos ha]
      dsimp only
      rw [hlatch]
    refine ⟨_, (exec_rcRegisterRead_running hr off hw).trans (congrArg (fun d => Host.Outcome.next { s with dev := d }) hd), rfl, hreads _, ?_⟩
    rw [hframe]
    rfl
  · intro s bs b0 b1 b2 n a hr d
    refine ⟨?_, ?_, fun hn => ⟨?_, ?_⟩, fun hn => ⟨?_, ?_⟩⟩
    · refine act_eq_next hr ?_
      rw [doI3cPrivateWrite, if_pos (by simp), i3cOffset]
    · obtain ⟨hlen, hframe⟩ := Dev.i3cWords_spec n d (0x2800000 + d.pins.i3cOff.toNat)
      obtain ⟨hout, hpins, hd⟩ := hframe.emit (.i3cData (Dev.i3cWords (0x2800000 + d.pins.i3cOff.toNat) n d).1)
      exact ⟨_, _, act_eq_next hr rfl, hlen, hout, hpins, fun h0 => Dev.i3cWords_head h0 d _, hd⟩
    · exact act_eq_next hr (if_pos (by simp [show s.dev.pins.i3cAddr = none from hn]))
    · exact act_eq_next hr (if_pos (by simp [show s.dev.pins.i3cAddr = none from hn]))
    · exact act_eq_next hr (if_neg (by simpa using hn))
    · exact act_eq_next hr (if_neg (by simpa using hn))

end Sys2Proof.Machine

/-! PROOFS. Marks at a follower: the record from its parent or its alternate, and those it does not take (R30, R33, R40,
R41). -/

namespace Sys2Proof.Machine
open Sys2Proof

/-! ## What the receipt of a record and the choice of a parent leave -/

section
variable {d : Dev} {l : Nat} {more : Bool}

/-- The receipt of a flit leaves every link as usable as it was. -/
theorem Dev.rxTide_linkUsable_any (k : Nat) : (d.rxTide l more).linkUsable k = d.linkUsable k := by
  by_cases hk : k = l
  · rw [hk]; exact d.rxTide_linkUsable l more
  · unfold Dev.rxTide Dev.rxFlit
    split
    · rfl
    · split
      · rfl
      · rw [Dev.linkUsable, Dev.modLink_link_ne d _ hk]
        rfl

theorem Dev.rxTide_linkEnabled (k : Nat) : (d.rxTide l more).linkEnabled k = d.linkEnabled k := by
  obtain ⟨x, h⟩ := d.rxTide_frame (l := l) (more := more)
  rw [h]
  rfl

end

/-- What a mark's effect depends on. -/
theorem TookMark.congr {d₀ d₁ d : Dev} {r : MarkRec} {hop : BitVec 8} (h : TookMark d₁ r hop d)
    (hf : d₁.tide.firstSeen = d₀.tide.firstSeen) (hp : d₁.tide.pos = d₀.tide.pos) (hs : d₁.tide.split = d₀.tide.split)
    (hc : d₁.clrs = d₀.clrs) (hpl : d₁.plan = d₀.plan) (hl : d₁.lcs = d₀.lcs) (hdbg : d₁.dbg = d₀.dbg)
    (hsp : d₁.spdm = d₀.spdm) (ht : d₁.thm = d₀.thm) (hb : d₁.bus = d₀.bus) : TookMark d₀ r hop d := by
  unfold TookMark Splits Dev.clr at *
  rwa [hf, hp, hs, hc, hpl, hl, hdbg, hsp, ht, hb] at h

/-- The links on which a follower with the parent `p` forwards. -/
def Dev.others (d : Dev) (p : Nat) : List Nat :=
  (List.range 64).filter fun k => d.linkUsable k && d.linkEnabled k && k != p

section
variable {d : Dev} {l : Nat}

theorem Dev.takeParent_frame (d : Dev) (l : Nat) : d.takeParent l = { d with tide := (d.takeParent l).tide } := by
  unfold Dev.takeParent
  split_ifs <;> rfl

theorem Dev.takeParent_tide (d : Dev) (l : Nat) :
    (d.takeParent l).tide.firstSeen = d.tide.firstSeen ∧ (d.takeParent l).tide.pos = d.tide.pos ∧
      (d.takeParent l).tide.split = d.tide.split ∧ (d.takeParent l).tide.following = d.tide.following := by
  unfold Dev.takeParent
  split_ifs <;> exact ⟨rfl, rfl, rfl, rfl⟩

theorem Dev.takeParent_of_parent (h : l = d.tide.parent.toNat) : d.takeParent l = d := if_pos h

theorem Dev.takeParent_of_alt (hp : l ≠ d.tide.parent.toNat) (hv : d.tide.altValid = true) (ha : l = d.tide.alt.toNat) :
    d.takeParent l = { d with tide := { d.tide with parent := d.tide.alt, alt := d.tide.parent } } := by
  rw [Dev.takeParent, if_neg hp, if_pos (by simp [hv, ← ha])]

/-- The mark that a follower takes from its parent of then. -/
theorem Dev.acceptMark_spec (hf : d.tide.following = true) (hl : (d.takeParent l).tide.parent.toNat = l) (r : MarkRec)
    (needs : List Need) :
    TookMark d r (r.hop + 1) (d.acceptMark l r needs) ∧
    (d.acceptMark l r needs).tide.parent = (d.takeParent l).tide.parent ∧
    (d.acceptMark l r needs).tide.alt = (d.takeParent l).tide.alt ∧
    (d.acceptMark l r needs).tide.following = true ∧
    Forwarded (d.others l) { r with hop := r.hop + 1 } (d.acceptMark l r needs) := by
  have htp := d.takeParent_frame l
  obtain ⟨hfirst, hpos, hsplit, hfol⟩ := d.takeParent_tide l
  rw [Dev.acceptMark]
  generalize hhi : (d.tide.firstSeen && decide (d.tide.epoch.toNat < r.epoch.toNat)) = hi
  generalize d.takeParent l = p at *
  set e := p.raiseIf hi .tide 3 with he
  have htide : e.tide = p.tide := Dev.raiseIf_tide _ _ _ _
  have hfwd : e.forwardLinks = d.others l := by
    have hplan : e.plan = d.plan := by rw [he, Dev.raiseIf_plan, htp]
    have hlnk : e.lnk = d.lnk := by rw [he, Dev.raiseIf_lnk, htp]
    refine List.filter_congr fun k _ => ?_
    rw [show e.linkUsable k = d.linkUsable k by unfold Dev.linkUsable Dev.link; rw [hlnk],
      show e.linkEnabled k = d.linkEnabled k by unfold Dev.linkEnabled; rw [hplan], htide, hfol, hf, hl]
    rfl
  obtain ⟨x, hx⟩ := e.sendMarks_frame e.forwardLinks { r with hop := r.hop + 1 }
  have hk := Dev.takeMark_keeps (e.sendMarks e.forwardLinks { r with hop := r.hop + 1 }) r (r.hop + 1) needs
  have htook := Dev.takeMark_tookMark (e.sendMarks e.forwardLinks { r with hop := r.hop + 1 }) r (r.hop + 1) needs
  have hsend := e.sendMarks_forwarded e.forwardLinks { r with hop := r.hop + 1 }
  rw [hfwd] at hx hk htook hsend
  have hm : (e.forwardMark { r with hop := r.hop + 1 }) = e.sendMarks (d.others l) { r with hop := r.hop + 1 } := by
    rw [← hfwd]; rfl
  rw [hm]
  refine ⟨htook.congr ?_ ?_ ?_ ?_ ?_ ?_ ?_ ?_ ?_ ?_, (hk.reg Tide.parent fun _ => rfl).trans ?_,
    (hk.reg Tide.alt fun _ => rfl).trans ?_, (hk.reg Tide.following fun _ => rfl).trans ?_,
    fun n hn => hk.tideQ n _ (hsend n hn)⟩
  all_goals rw [hx]
  · exact (congrArg Tide.firstSeen htide).trans hfirst
  · exact (congrArg Tide.pos htide).trans hpos
  · exact (congrArg Tide.split htide).trans hsplit
  · exact (Dev.raiseIf_clrs _ _ _ _).trans (congrArg Dev.clrs htp :)
  · exact (Dev.raiseIf_plan _ _ _ _).trans (congrArg Dev.plan htp :)
  · exact (Dev.raiseIf_lcs _ _ _ _).trans (congrArg Dev.lcs htp :)
  · exact (Dev.raiseIf_dbg _ _ _ _).trans (congrArg Dev.dbg htp :)
  · exact (Dev.raiseIf_spdm _ _ _ _).trans (congrArg Dev.spdm htp :)
  · exact (Dev.raiseIf_thm _ _ _ _).trans (congrArg Dev.thm htp :)
  · exact (Dev.raiseIf_bus _ _ _ _).trans (congrArg Dev.bus htp :)
  · exact (congrArg Tide.parent htide :)
  · exact (congrArg Tide.alt htide :)
  · exact (congrArg Tide.following htide).trans (hfol.trans hf)

theorem Dev.acceptsMark_parent {r : MarkRec} (hp : l = d.tide.parent.toNat) (he : d.tide.epoch.toNat ≤ r.epoch.toNat) :
    d.acceptsMark l r = true := by
  simp only [Dev.acceptsMark, ← hp, BEq.rfl, decide_eq_true he, Bool.and_self, Bool.true_or]

theorem Dev.acceptsMark_alt {r : MarkRec} (hv : d.tide.altValid = true) (ha : l = d.tide.alt.toNat)
    (he : d.tide.epoch.toNat < r.epoch.toNat ∨ (d.tide.epoch.toNat = r.epoch.toNat ∧ 2 ≤ d.tide.missing)) :
    d.acceptsMark l r = true := by
  simp only [Dev.acceptsMark, hv, ← ha, BEq.rfl, Bool.and_self, Bool.true_and, Bool.or_eq_true, Bool.and_eq_true,
    decide_eq_true_eq, beq_iff_eq]
  exact .inr he

/-- A follower takes the record of its parent, or of its alternate once that has the better claim (R30, R41). -/
theorem doMarkRecord_accepted {k : Lnk} {r : MarkRec} {needs : List Need} {more : Bool} (hs : d.tide.split = false)
    (hu : d.linkUsable k.val = true) (he : d.linkEnabled k.val = true) (hsrc : d.tide.isSource = false)
    (hf : d.tide.following = true)
    (hp : k.val = d.tide.parent.toNat ∨ (d.tide.altValid = true ∧ k.val = d.tide.alt.toNat))
    (ha : (d.rxTide k.val more).acceptsMark k.val r = true) :
    doMarkRecord k r true needs more d = (d.rxTide k.val more).acceptMark k.val r needs := by
  have htide : (d.rxTide k.val more).tide = d.tide := by
    obtain ⟨x, h⟩ := d.rxTide_frame k.val more
    rw [h]
  rw [doMarkRecord]
  simp only [htide, Dev.rxTide_linkUsable_any, Dev.rxTide_linkEnabled, hs, hu, he, hsrc, hf, ha]
  rcases hp with hp | ⟨hv, hp⟩
  · simp [hp]
  · simp [hp, hv]

end

/-- Settles O6: the follower's parent of then is the link of the record. -/
theorem followerMarks : Obligations.FollowerMarks := by
  intro s l r tag needs more hr d₀ t hopen hsrc hfol hsplit hu hen others
  obtain ⟨x, hx⟩ := d₀.rxTide_frame l.val more
  have htide : (d₀.rxTide l.val more).tide = t := by rw [hx]
  have hothers : (d₀.rxTide l.val more).others l.val = others l.val :=
    List.filter_congr fun k _ => by rw [Dev.rxTide_linkUsable_any, Dev.rxTide_linkEnabled]
  have takes (hp : l.val = t.parent.toNat ∨ (t.altValid = true ∧ l.val = t.alt.toNat))
      (ha : (d₀.rxTide l.val more).acceptsMark l.val r = true)
      (hl : ((d₀.rxTide l.val more).takeParent l.val).tide.parent.toNat = l.val) :
      ∃ d, exec (.markRecord l r tag needs more) s = .next { s with dev := d } ∧ TookMark d₀ r (r.hop + 1) d ∧
        d.tide.parent = ((d₀.rxTide l.val more).takeParent l.val).tide.parent ∧
        d.tide.alt = ((d₀.rxTide l.val more).takeParent l.val).tide.alt ∧ d.tide.following = true ∧
        Forwarded (others l.val) { r with hop := r.hop + 1 } d := by
    obtain ⟨htook, hpar, halt, hfol', hfwd⟩ :=
      Dev.acceptMark_spec (d := d₀.rxTide l.val more) (l := l.val) (by rw [htide]; exact hfol) hl r needs
    rw [hothers] at hfwd
    refine ⟨_, ?_, htook.congr ?_ ?_ ?_ ?_ ?_ ?_ ?_ ?_ ?_ ?_, hpar, halt, hfol', hfwd⟩
    · dsimp only [exec, execMarkRecord]
      refine act_eq_next hr ?_
      rw [show s.dev.recordOpens l.val (MarkRec.bytes r) tag = true from hopen]
      exact doMarkRecord_accepted hsplit hu hen hsrc hfol hp ha
    all_goals rw [hx]
  constructor
  · intro hp he
    have htp : (d₀.rxTide l.val more).takeParent l.val = d₀.rxTide l.val more :=
      Dev.takeParent_of_parent (by rw [htide]; exact hp)
    have h := takes (.inl hp) (Dev.acceptsMark_parent (by rw [htide]; exact hp) (by rw [htide]; exact he)) (by rw [htp, htide, hp])
    rw [htp, htide] at h
    exact h
  · intro hp hv ha he
    have htp := Dev.takeParent_of_alt (d := d₀.rxTide l.val more) (l := l.val) (by rw [htide]; exact hp)
      (by rw [htide]; exact hv) (by rw [htide]; exact ha)
    have h := takes (.inr ⟨hv, ha⟩) (Dev.acceptsMark_alt (by rw [htide]; exact hv) (by rw [htide]; exact ha)
      (by rw [htide]; exact he)) (by rw [htp, htide, ha])
    rw [htp, htide] at h
    exact h

end Sys2Proof.Machine

/-! PROOFS. What the end of a command's work, and the halting of clearings, may change. -/

namespace Sys2Proof.Machine
open Sys2Proof

/-- What the end of commands may change: the tiles, the contexts, the launches, the threads' requests, the links and the
host's queues. -/
def Dev.AbortFrame (d d' : Dev) : Prop :=
  d' = { d with tiles := d'.tiles, ctxs := d'.ctxs, launches := d'.launches, mem := { d.mem with reqs := d'.mem.reqs },
                lnk := d'.lnk,
                host := { d.host with
                  queues := d'.host.queues, objs := d'.host.objs, fifos := d'.host.fifos, nextOrd := d'.host.nextOrd } }

/-- What the halting of clearings may change: the clearings too. -/
def Dev.HaltFrame (d d' : Dev) : Prop :=
  d' = { d with clrs := d'.clrs, tiles := d'.tiles, ctxs := d'.ctxs, launches := d'.launches,
                mem := { d.mem with reqs := d'.mem.reqs }, lnk := d'.lnk,
                host := { d.host with
                  queues := d'.host.queues, objs := d'.host.objs, fifos := d'.host.fifos, nextOrd := d'.host.nextOrd } }

section
variable {a b c : Dev}

theorem Dev.AbortFrame.trans (h : a.AbortFrame b) (h' : b.AbortFrame c) : a.AbortFrame c := by
  unfold Dev.AbortFrame at *
  rw [h', h]

theorem Dev.AbortFrame.foldl {α : Type} {f : Dev → α → Dev} (h : ∀ (d : Dev) (x : α), d.AbortFrame (f d x)) (l : List α) (d : Dev) :
    d.AbortFrame (l.foldl f d) := by
  induction l generalizing d with
  | nil => rfl
  | cons x l ih => exact (h d x).trans (ih _)

theorem Dev.HaltFrame.trans (h : a.HaltFrame b) (h' : b.HaltFrame c) : a.HaltFrame c := by
  unfold Dev.HaltFrame at *
  rw [h', h]

theorem Dev.HaltFrame.foldl {α : Type} {f : Dev → α → Dev} (h : ∀ (d : Dev) (x : α), d.HaltFrame (f d x)) (l : List α) (d : Dev) :
    d.HaltFrame (l.foldl f d) := by
  induction l generalizing d with
  | nil => rfl
  | cons x l ih => exact (h d x).trans (ih _)

theorem Dev.AbortFrame.halts (h : a.AbortFrame b) : a.HaltFrame b := by
  unfold Dev.AbortFrame Dev.HaltFrame at *
  rw [h]

end

/-! ## Commands that end -/

section
variable (d : Dev)

theorem Dev.modTile_aborts (t : Nat) (f : TileSt → TileSt) : d.AbortFrame (d.modTile t f) := rfl

theorem Dev.modObj_aborts (i : Nat) (f : Obj → Obj) : d.AbortFrame (d.modObj i f) := rfl

theorem Dev.dropRefs_aborts (hs : List Word) : d.AbortFrame (d.dropRefs hs) :=
  .foldl (fun d _ => d.modObj_aborts _ _) hs d

theorem Dev.completeCmd_aborts (q : Nat) (c : Cmd) (st : Status) (det : Detail) (info : BitVec 64) (rank : BitVec 21) :
    d.AbortFrame (d.completeCmd q c st det info rank) := by
  unfold Dev.completeCmd
  split
  · rfl
  · have h := Dev.dropRefs_aborts (d.modQueue q fun u =>
      { u with cmds := u.cmds.filter (fun x => x.seq != c.seq), spanBad := u.spanBad || st != .ok }) c.refs
    dsimp only
    unfold Dev.AbortFrame at h ⊢
    rw [h]
    rfl

theorem Dev.discardFlights_aborts (fs : List Flight) : d.AbortFrame (d.discardFlights fs) := by
  refine .foldl (fun d f => ?_) fs d
  exact .foldl (fun d x => d.modTile_aborts x.1 _) f.start d

theorem Dev.dropProg_aborts (t : Nat) : d.AbortFrame (d.dropProg t) :=
  (d.discardFlights_aborts _).trans (Dev.modTile_aborts _ t _)

theorem Dev.releaseSlot_aborts (i : StageIn) : d.AbortFrame (d.releaseSlot i) := by
  unfold Dev.releaseSlot
  dsimp only
  split <;> rfl

theorem Dev.closeXfer_aborts (q : Nat) (seq : Word) : d.AbortFrame (d.closeXfer q seq) := by
  have hslots := Dev.AbortFrame.foldl Dev.releaseSlot_aborts (d.loneSlots q seq) d
  refine hslots.trans ?_
  rfl

theorem Dev.dropXfer_aborts (q : Nat) (seq : Word) : d.AbortFrame (d.dropXfer q seq) := by
  refine .trans ?_ (Dev.closeXfer_aborts _ q seq)
  split
  · rfl
  · exact .foldl Dev.releaseSlot_aborts _ d

theorem Dev.freeLaunch_aborts (id : Nat) : d.AbortFrame (d.freeLaunch id) := rfl

theorem Dev.kill_aborts (q : Nat) (c : Cmd) (st : Status) (det : Detail) : d.AbortFrame (d.kill q c st det) := by
  have hprog : d.AbortFrame (match d.progTile q c.seq with | some t => d.dropProg t | none => d) := by
    split
    · exact d.dropProg_aborts _
    · rfl
  have hlaunch (e : Dev) : e.AbortFrame (match e.launchOf q c.seq with | some l => e.freeLaunch l.id | none => e) := by
    split
    · exact e.freeLaunch_aborts _
    · rfl
  exact hprog.trans ((hlaunch _).trans ((Dev.dropXfer_aborts _ q c.seq).trans (Dev.completeCmd_aborts _ q c _ _ _ _)))

theorem Dev.abort_aborts (q : Nat) (c : Cmd) (st : Status) (det : Detail) : d.AbortFrame (d.abort q c st det) := by
  unfold Dev.abort
  split
  · split
    · split
      · exact d.kill_aborts q c st det
      · rfl
    · exact d.kill_aborts q c st det
  · exact d.kill_aborts q c st det

theorem Dev.abortWhere_aborts (p : Nat → Cmd → Bool) (st : Status) (det : Detail) :
    d.AbortFrame (d.abortWhere p st det) := by
  refine .foldl (fun d x => ?_) _ d
  exact d.abort_aborts x.1 x.2 st det

/-! ## Clearings that halt -/

theorem Dev.haltClr_haltFrame (n : Nat) (shown : ClrSt) (st : Status) (det : Detail) :
    d.HaltFrame (d.haltClr n shown st det) := by
  have h : d.HaltFrame (d.modClr n fun c =>
      if c.st = .active || (c.st = .halted && shown = .contained) then { c with st := shown } else c) := rfl
  exact h.trans (Dev.abortWhere_aborts _ _ st det).halts

theorem Dev.haltAll_haltFrame (st : Status) (det : Detail) : d.HaltFrame (d.haltAll st det) :=
  .foldl (fun d n => d.haltClr_haltFrame n .halted st det) _ d

/-- The halting of one clearing is its own: the commands that end touch no clearing. -/
theorem Dev.haltClr_clrs (n : Nat) (shown : ClrSt) (st : Status) (det : Detail) :
    (d.haltClr n shown st det).clrs = Tab.mod Clearing.reset d.clrs n fun c =>
      if c.st = .active || (c.st = .halted && shown = .contained) then { c with st := shown } else c :=
  (congrArg Dev.clrs (Dev.abortWhere_aborts (d.modClr n fun c =>
      if c.st = .active || (c.st = .halted && shown = .contained) then { c with st := shown } else c) _ st det) :)

end

end Sys2Proof.Machine

/-! PROOFS. Records that a device does not take, and missing marks (R30, R33, R40). -/

namespace Sys2Proof.Machine
open Sys2Proof

section
variable {d : Dev} {k : Lnk} {r : MarkRec} {needs : List Need} {more tagOk : Bool}

theorem doMarkRecord_split (h : d.tide.split = true) : doMarkRecord k r tagOk needs more d = d.rxTide k.val more := by
  obtain ⟨x, hx⟩ := d.rxTide_frame k.val more
  rw [doMarkRecord]
  dsimp only
  rw [if_pos]
  rw [hx]
  simp [h]

section
variable (hs : d.tide.split = false) (hu : d.linkUsable k.val = true) (he : d.linkEnabled k.val = true)
  (hsrc : d.tide.isSource = false) (hf : d.tide.following = true)
include hs hu he hsrc hf

/-- What a follower makes of a record that reaches it on a link of its plan. -/
theorem doMarkRecord_follower : doMarkRecord k r tagOk needs more d =
    if ¬ (k.val = d.tide.parent.toNat ∨ (d.tide.altValid = true ∧ k.val = d.tide.alt.toNat)) then d.rxTide k.val more
    else if tagOk = false then
      ({ d.rxTide k.val more with tide := { d.tide with authCount := satInc d.tide.authCount } } : Dev).raise .tide 2
    else if d.acceptsMark k.val r then (d.rxTide k.val more).acceptMark k.val r needs
    else d.rxTide k.val more := by
  have htide : (d.rxTide k.val more).tide = d.tide := by
    obtain ⟨x, h⟩ := d.rxTide_frame k.val more
    rw [h]
  have hacc : (d.rxTide k.val more).acceptsMark k.val r = d.acceptsMark k.val r := by
    unfold Dev.acceptsMark
    rw [htide]
  rw [doMarkRecord]
  simp only [htide, hacc, Dev.rxTide_linkUsable_any, Dev.rxTide_linkEnabled, hs, hu, he, hsrc, hf, Bool.not_true,
    Bool.or_self, Bool.false_eq_true, if_false, Bool.not_eq_true', Bool.or_eq_false_iff, beq_eq_false_iff_ne,
    Bool.and_eq_false_imp, not_or, not_and, ne_eq]

end

/-- A record of a lower epoch has no claim. -/
theorem Dev.acceptsMark_lower {l : Nat} (h : r.epoch.toNat < d.tide.epoch.toNat) : d.acceptsMark l r = false := by
  simp only [Dev.acceptsMark, Bool.or_eq_false_iff, Bool.and_eq_false_imp, decide_eq_false_iff_not,
    Bool.and_eq_true, beq_iff_eq]
  refine ⟨fun _ => by omega, fun _ => ⟨by omega, fun h' => by omega⟩⟩

end

/-! ## Missing marks -/

section
variable {d : Dev}

theorem doMarkMissing_idle (h : d.tide.firstSeen = false ∨ (d.tide.isSource = true ∧ (d.tideRole ≠ 3 ∨ d.tide.missing < 2)))
    (four : Bool) : doMarkMissing four d = d := by
  refine if_pos ?_
  rcases h with h | ⟨h, hr | hr⟩
  · simp [h]
  · simp only [h, beq_false_of_ne hr, Bool.false_and, Bool.not_false, Bool.and_self, Bool.or_true]
  · have : ¬ 2 ≤ d.tide.missing := by omega
    simp [h, this]

theorem doMarkMissing_counts (hf : d.tide.firstSeen = true) (hl : d.tide.lost = false) (hs : d.tide.split = false)
    (hp : d.planActive = true) (h : d.tide.isSource = false ∨ (d.tideRole = 3 ∧ 2 ≤ d.tide.missing)) (four : Bool) :
    doMarkMissing four d =
      if four then (if 3 ≤ d.tide.missing then d.loseTide else d)
      else
        let takes := d.tideRole == 3 && d.tide.missing == 1
        ({ d with tide := { d.tide with
          missing := d.tide.missing + 1, locked := false, missCount := satInc d.tide.missCount,
          isSource := d.tide.isSource || takes, following := d.tide.following && !takes } } : Dev).raise .tide 1 := by
  have hn : (d.tide.missing + 1 == 2) = (d.tide.missing == 1) := by
    rw [Bool.eq_iff_iff, beq_iff_eq, beq_iff_eq]
    omega
  refine (if_neg ?_).trans ?_
  · rcases h with h | ⟨h, hm⟩
    · simp [hf, hl, hs, hp, h]
    · simp [hf, hl, hs, hp, h, hm]
  · dsimp only
    rw [hn]

/-- The loss of the tide halts every clearing that runs, and touches no register of the plan, the keys or the supply. -/
theorem Dev.loseTide_spec : d.loseTide.tide.lost = true ∧ d.loseTide.tide.missing = d.tide.missing ∧
    d.loseTide.tide.missCount = d.tide.missCount ∧ d.loseTide.tide.count = d.tide.count ∧
    d.loseTide.tide.pos = d.tide.pos ∧ (d.loseTide.ev.get .tide).ev.getLsbD 7 = true ∧
    (∀ n, n < 16 → (d.clr n).st = .active → (d.loseTide.clr n).st = .halted) ∧
    d.loseTide.plan = d.plan ∧ d.loseTide.lcs = d.lcs ∧ d.loseTide.sec = d.sec ∧ d.loseTide.stl = d.stl ∧
    d.loseTide.pwr = d.pwr := by
  have hraise := Dev.raise_frame { d with tide := { d.tide with lost := true } } .tide 7
  have hev : (((({ d with tide := { d.tide with lost := true } } : Dev).raise .tide 7).ev.get .tide).ev.getLsbD 7) = true := by
    rw [Dev.raise_ev]
    simp [setBit]
  have hclr (n : Nat) : (({ d with tide := { d.tide with lost := true } } : Dev).raise .tide 7).clr n = d.clr n := by
    rw [Dev.clr, Dev.raise_clrs]; rfl
  rw [Dev.loseTide]
  generalize ({ d with tide := { d.tide with lost := true } } : Dev).raise .tide 7 = e at *
  have hkeeps := e.haltAll_keeps .aborted .clearingHalted
  have hhalts := fun n (hn : n < 16) h => e.haltAll_halts hn .aborted .clearingHalted (n := n) h
  have hframe := e.haltAll_haltFrame .aborted .clearingHalted
  refine ⟨?_, ?_, ?_, ?_, ?_, hkeeps.ev _ _ hev, fun n hn ha => hhalts n hn (.inl ((hclr n).symm ▸ ha)), ?_, ?_, ?_, ?_, ?_⟩
  all_goals rw [hframe, hraise]

end

/-- Settles O7: a record without a claim is received and no more; a missing mark counts. -/
theorem marksNotTaken : Obligations.MarksNotTaken := by
  constructor
  · intro s l r tag needs more hr d₀ t valid hsrc hf
    have runs {d : Dev} (h : doMarkRecord l r valid needs more s.dev = d) :
        exec (.markRecord l r tag needs more) s = .next { s with dev := d } := by
      dsimp only [exec, execMarkRecord]
      exact act_eq_next hr h
    refine ⟨fun hs => runs (doMarkRecord_split hs), fun hs hu he => ?_⟩
    have hd := fun tagOk => doMarkRecord_follower (r := r) (needs := needs) (more := more) (tagOk := tagOk) hs hu he hsrc hf
    refine ⟨fun hp hv => ?_, fun hp ha => ?_, fun hep hv => ?_⟩
    · exact runs ((hd valid).trans ((if_neg (not_not.2 hp)).trans (if_pos hv)))
    · refine runs ((hd valid).trans (if_pos ?_))
      rintro (h | ⟨h, h'⟩)
      · exact hp h
      · rcases ha with ha | ha
        · rw [show s.dev.tide.altValid = false from ha] at h; cases h
        · exact ha h'
    · refine runs ((hd valid).trans ?_)
      rw [hv, Dev.acceptsMark_lower hep]
      split <;> rfl
  · intro s four hr d₀ t
    refine ⟨fun hf => ?_, fun hsrc h => ?_, fun hf hl hs hp h => ⟨?_, fun hm => ?_, fun hm => ?_⟩⟩
    · exact act_eq_next hr (doMarkMissing_idle (.inl hf) four)
    · exact act_eq_next hr (doMarkMissing_idle (.inr ⟨hsrc, h⟩) four)
    · exact act_eq_next hr (doMarkMissing_counts hf hl hs hp h false)
    · exact act_eq_next hr ((doMarkMissing_counts hf hl hs hp h true).trans (if_neg (Nat.not_le.2 hm)))
    · exact ⟨_, act_eq_next hr ((doMarkMissing_counts hf hl hs hp h true).trans (if_pos hm)), Dev.loseTide_spec⟩

end Sys2Proof.Machine

/-! PROOFS. The cliff, and the temperatures and supplies that lead to it (R183–R186, R382–R389). -/

namespace Sys2Proof.Machine
open Sys2Proof

/-! ## An event raised -/

section
variable (d : Dev) (b : Blk) {k : Nat}

theorem Dev.raise_shows (hk : k < 32) : ((d.raise b k).ev.get b).ev.getLsbD k = true := by
  rw [Dev.raise_ev, Events.get_set_self, getLsbD_setBit _ _ hk]
  simp

theorem Dev.raise_pins (k : Nat) : (d.raise b k).pins = { d.pins with alertN := (d.raise b k).pins.alertN } := by
  obtain ⟨e, a, o, h⟩ := d.raise_alertN b k
  rw [h]

theorem Dev.raise_thermTrip (k : Nat) : (d.raise b k).pins.thermTrip = d.pins.thermTrip := by
  rw [Dev.raise_pins]

theorem Dev.raise_clr (k n : Nat) : (d.raise b k).clr n = d.clr n := by
  rw [Dev.clr, Dev.raise_clrs, Dev.clr]

@[simp] theorem Dev.raise_running (k : Nat) : (d.raise b k).running = d.running := by
  unfold Dev.running
  rw [Dev.raise_pins]

theorem Dev.raiseIf_frame (c : Bool) (k : Nat) :
    d.raiseIf c b k =
      { d with ev := (d.raiseIf c b k).ev, pins := { d.pins with alertN := (d.raiseIf c b k).pins.alertN },
               outbox := (d.raiseIf c b k).outbox } := by
  unfold Dev.raiseIf
  split
  · obtain ⟨e, a, o, h⟩ := d.raise_alertN b k
    rw [h]
  · rfl

end

/-! ## The cliff -/

section
variable (d : Dev)

theorem Dev.loseCopies_frame :
    d.loseCopies =
      { d with stl := { d.stl with peers := [] }, ev := d.loseCopies.ev,
               pins := { d.pins with alertN := d.loseCopies.pins.alertN }, outbox := d.loseCopies.outbox } :=
  Dev.raiseIf_frame { d with stl := { d.stl with peers := [] } } .stl _ 8

/-- The clearings, the work that ends and the peers' copies; the device counts as failed. -/
theorem Dev.cliff_frame :
    d.cliff =
      { d with flt := { d.flt with cliff := true }, clrs := d.cliff.clrs, tiles := d.cliff.tiles, ctxs := d.cliff.ctxs,
               launches := d.cliff.launches, mem := { d.mem with reqs := d.cliff.mem.reqs }, lnk := d.cliff.lnk,
               host := d.cliff.host, stl := { d.stl with peers := [] }, ev := d.cliff.ev,
               pins := { d.pins with alertN := d.cliff.pins.alertN }, outbox := d.cliff.outbox } := by
  have h := Dev.haltAll_haltFrame { d with flt := { d.flt with cliff := true } } .outOfService .none
  unfold Dev.HaltFrame at h
  unfold Dev.cliff
  rw [Dev.loseCopies_frame, h]

theorem Dev.loseCopies_clrs : d.loseCopies.clrs = d.clrs := (congrArg Dev.clrs d.loseCopies_frame :)

theorem Dev.cliff_clrs_eq :
    d.cliff.clrs = (({ d with flt := { d.flt with cliff := true } } : Dev).haltAll .outOfService .none).clrs :=
  Dev.loseCopies_clrs _

theorem Dev.cliff_halts {n : Nat} (hn : n < 16) (h : (d.clr n).st = .active) : (d.cliff.clr n).st = .halted := by
  rw [Dev.clr, Dev.cliff_clrs_eq]
  exact Dev.haltAll_halts (d := { d with flt := { d.flt with cliff := true } }) hn .outOfService .none (.inl h)

theorem Dev.cliff_stack (k : Nat) : d.cliff.stack k = d.stack k := by
  rw [Dev.stack, Dev.cliff_frame]
  rfl

theorem Dev.cliff_flt : d.cliff.flt = { d.flt with cliff := true } := by rw [Dev.cliff_frame]
theorem Dev.cliff_pwr : d.cliff.pwr = d.pwr := (congrArg Dev.pwr d.cliff_frame :)
theorem Dev.cliff_thermTrip : d.cliff.pins.thermTrip = d.pins.thermTrip :=
  (congrArg (fun x : Dev => x.pins.thermTrip) d.cliff_frame :)

variable (b : Blk) (i : Nat)

theorem Dev.cliff_raise_flt : (d.cliff.raise b i).flt = { d.flt with cliff := true } :=
  (d.cliff.raise_flt b i).trans d.cliff_flt

theorem Dev.cliff_raise_pwr : (d.cliff.raise b i).pwr = d.pwr := (d.cliff.raise_pwr b i).trans d.cliff_pwr

theorem Dev.cliff_raise_thermTrip : (d.cliff.raise b i).pins.thermTrip = d.pins.thermTrip := by
  rw [Dev.raise_thermTrip, Dev.cliff_thermTrip]

theorem Dev.failed_of_cliff {d : Dev} (h : d.flt.cliff = true) : d.failed = true := by
  rw [Dev.failed, h, Bool.or_true]

theorem Dev.not_running_of_trip {d : Dev} (h : d.pins.thermTrip = true) : d.running = false := by
  rw [Dev.running, h, Bool.not_true, Bool.and_false]

theorem Dev.cliff_raise_halts {n : Nat} (hn : n < 16) (h : (d.clr n).st = .active) :
    ((d.cliff.raise b i).clr n).st = .halted := by
  rw [Dev.raise_clr, Dev.cliff_halts d hn h]

end

/-! ## Stack temperatures -/

/-- What every sample leaves in its stack's record. -/
def StackSt.sampled (t : Byte) (x : StackSt) : StackSt :=
  { x with tempNow := t, tempMax := if x.tempMax.toNat < t.toNat then t else x.tempMax,
           below := if x.therm = 1 then (if t.toNat < 82 then x.below + 1 else 0) else 0 }

/-- The device after a sample's record, tripped at 105 °C (R186). -/
def Dev.sampled (d : Dev) (k : Nat) (t : Byte) : Dev :=
  if 105 ≤ t.toNat then (d.modStack k (StackSt.sampled t)).trip else d.modStack k (StackSt.sampled t)

section
variable (d : Dev) (k : Nat)

theorem Dev.modStack_stack (h : Tab.wf StackSt.reset d.mem.stk = true) (f : StackSt → StackSt) :
    (d.modStack k f).stack k = f (d.stack k) := Tab.get_set _ _ h _ _

theorem Dev.modStack_modStack_stack (h : Tab.wf StackSt.reset d.mem.stk = true) (f g : StackSt → StackSt) :
    ((d.modStack k f).modStack k g).stack k = g (f (d.stack k)) := by
  rw [Dev.modStack_stack _ k (Tab.mod_wf _ _ h _ _), Dev.modStack_stack d k h]

theorem Dev.modStack_congr {f g : StackSt → StackSt} (h : f (d.stack k) = g (d.stack k)) :
    d.modStack k f = d.modStack k g := by
  unfold Dev.modStack Tab.mod
  rw [show f (Tab.get StackSt.reset d.mem.stk k) = _ from h]
  rfl

variable (t : Byte)

theorem Dev.sampled_cool (ht : t.toNat < 105) : d.sampled k t = d.modStack k (StackSt.sampled t) := if_neg (by omega)

theorem Dev.sampled_modStack_stack (h : Tab.wf StackSt.reset d.mem.stk = true) (g : StackSt → StackSt) :
    ((d.sampled k t).modStack k g).stack k = g (StackSt.sampled t (d.stack k)) := by
  unfold Dev.sampled
  split <;> exact d.modStack_modStack_stack k h _ g

theorem Dev.sampled_clr (n : Nat) : (d.sampled k t).clr n = d.clr n := by
  unfold Dev.sampled
  split <;> rfl

theorem Dev.sampled_hot (ht : 105 ≤ t.toNat) : d.sampled k t = (d.modStack k (StackSt.sampled t)).trip := if_pos ht

theorem Dev.sampled_hbm : (d.sampled k t).mem.hbm = d.mem.hbm := by
  unfold Dev.sampled
  split <;> rfl

theorem doStackTempSample_eq :
    doStackTempSample k t d =
      if (d.stack k).therm = 2 then d.sampled k t
      else if 95 ≤ t.toNat then
        (((d.sampled k t).modStack k fun x => { x with therm := 2, below := 0 }).cliff).raise .mem 4
      else if (d.stack k).therm = 0 && 85 < t.toNat then
        ((d.sampled k t).modStack k fun x => { x with therm := 1, below := 0 }).raise .mem 2
      else if (d.stack k).therm = 1 && 100 ≤ (if t.toNat < 82 then (d.stack k).below + 1 else 0) then
        ((d.sampled k t).modStack k fun x => { x with therm := 0, below := 0 }).raise .mem 3
      else d.sampled k t := rfl

theorem Dev.raise_stack (b : Blk) (i : Nat) : (d.raise b i).stack k = d.stack k := by
  rw [Dev.stack, Dev.raise_mem, Dev.stack]

/-- At the cliff (R185). -/
theorem doStackTempSample_cliff (h2 : (d.stack k).therm ≠ 2) (ht : 95 ≤ t.toNat) :
    doStackTempSample k t d =
      (((d.sampled k t).modStack k fun x => { x with therm := 2, below := 0 }).cliff).raise .mem 4 := by
  rw [doStackTempSample_eq, if_neg h2, if_pos ht]

end

/-- Settles O29: a sample's outcome is read off by the stack's state and the temperature's range. -/
theorem stackTemperatures : Obligations.StackTemperatures := by
  intro s k t hr hw d₀ x peak
  have hx := doStackTempSample_eq d₀ k t
  refine ⟨fun h0 ht => ?_, fun h0 ht ht' => ?_, fun h1 ht hb => ?_, fun h2 ht => ?_⟩
  · refine act_eq_next hr (hx.trans ?_)
    rw [show (d₀.stack k).therm = 0 from h0, if_neg (by decide), if_neg (by omega), if_neg (by simp; omega),
      if_neg (by simp), Dev.sampled_cool _ _ _ (by omega)]
    refine Dev.modStack_congr _ _ ?_
    unfold StackSt.sampled
    rw [if_neg (c := (d₀.stack k).therm = 1) (by rw [show (d₀.stack k).therm = 0 from h0]; decide)]
  · refine ⟨_, act_eq_next hr rfl, ?_⟩
    have hd : doStackTempSample k t d₀ =
        ((d₀.sampled k t).modStack k fun x => { x with therm := 1, below := 0 }).raise .mem 2 := by
      rw [hx, show (d₀.stack k).therm = 0 from h0, if_neg (by decide), if_neg (by omega), if_pos (by simp; omega)]
    rw [show s.dev = d₀ from rfl, hd, Dev.raise_stack, Dev.sampled_modStack_stack _ _ _ hw]
    refine ⟨rfl, Dev.raise_shows _ _ (by decide), ?_⟩
    rw [Dev.raise_frame, Dev.sampled_cool _ _ _ (by omega)]
    rfl
  · refine ⟨_, act_eq_next hr rfl, ?_⟩
    have hd : doStackTempSample k t d₀ =
        ((d₀.sampled k t).modStack k fun x => { x with therm := 0, below := 0 }).raise .mem 3 := by
      rw [hx, show (d₀.stack k).therm = 1 from h1, if_neg (by decide), if_neg (by omega), if_neg (by simp),
        if_pos ht, if_pos (by simpa using hb)]
    rw [show s.dev = d₀ from rfl, hd, Dev.raise_stack, Dev.sampled_modStack_stack _ _ _ hw]
    exact ⟨rfl, Dev.raise_shows _ _ (by decide), by rw [Dev.raise_hbm]; exact d₀.sampled_hbm k t⟩
  · refine ⟨_, act_eq_next hr rfl, ?_⟩
    rw [show s.dev = d₀ from rfl, doStackTempSample_cliff d₀ k t h2 ht, Dev.raise_stack, Dev.cliff_stack,
      Dev.sampled_modStack_stack _ _ _ hw]
    have hflt := Dev.cliff_raise_flt ((d₀.sampled k t).modStack k fun x => { x with therm := 2, below := 0 }) .mem 4
    have hcl := congrArg Flt.cliff hflt
    refine ⟨rfl, hcl, Dev.failed_of_cliff hcl, Dev.raise_shows _ _ (by decide), fun n hn ha => ?_, ?_, fun hhot => ?_,
      fun hcool => ?_⟩
    · exact Dev.cliff_raise_halts _ _ _ hn ((congrArg Clearing.st (d₀.sampled_clr k t n)).trans ha)
    · rw [Dev.raise_hbm, Dev.cliff_hbm]
      exact d₀.sampled_hbm k t
    · have htrip : ((doStackTempSample k t d₀).pins.thermTrip) = true := by
        rw [doStackTempSample_cliff d₀ k t h2 ht, Dev.cliff_raise_thermTrip, Dev.sampled_hot _ _ _ hhot]
        rfl
      rw [doStackTempSample_cliff d₀ k t h2 ht] at htrip
      refine ⟨htrip, ?_, Dev.not_running_of_trip htrip⟩
      rw [Dev.cliff_raise_pwr, Dev.sampled_hot _ _ _ hhot]
      rfl
    · rw [Dev.cliff_raise_pwr, Dev.cliff_raise_thermTrip, Dev.sampled_cool _ _ _ hcool]
      exact ⟨rfl, rfl⟩

/-! ## The supplies (R382) -/

/-- What the halting of a clearing makes of its record. -/
theorem Dev.haltAll_clrs (d : Dev) (st : Status) (det : Detail) :
    (d.haltAll st det).clrs = (List.range 16).foldl (fun t n => Tab.mod Clearing.reset t n fun c =>
      if c.st = .active || (c.st = .halted && ClrSt.halted = .contained) then { c with st := .halted } else c) d.clrs := by
  unfold Dev.haltAll
  generalize List.range 16 = l
  induction l generalizing d with
  | nil => rfl
  | cons n l ih => rw [List.foldl_cons, List.foldl_cons, ih, Dev.haltClr_clrs]

/-- A device whose table lists clearing 0 twice: as it is after reset, and then as ACTIVE. The obligation asks for no
canonical form, and the halting of clearing 0 writes its reset value, which uncovers the second entry. -/
def twiceListed : State :=
  { State.reset with dev := { Dev.reset with clrs := [(0, Clearing.reset), (0, { Clearing.reset with st := .active })] } }

theorem twiceListed_overcurrent : ((doOvercurrent twiceListed.dev).clr 0).st = .active := by
  have h : (doOvercurrent twiceListed.dev).clr 0 =
      Tab.get Clearing.reset ((List.range 16).foldl (fun t n => Tab.mod Clearing.reset t n fun c =>
        if c.st = .active || (c.st = .halted && ClrSt.halted = .contained) then { c with st := .halted } else c)
          [(0, Clearing.reset), (0, { Clearing.reset with st := .active })]) 0 := by
    unfold doOvercurrent
    rw [Dev.raise_clr, Dev.clr, Dev.cliff_clrs_eq, Dev.haltAll_clrs]
    rfl
  rw [h]
  decide

/-- Refutes O51: the statement asks for no canonical table of clearings, and on `twiceListed` an overcurrent leaves
clearing 0 ACTIVE. -/
theorem not_powerAndTemperature : ¬ Obligations.PowerAndTemperature := by
  intro h
  obtain ⟨-, -, -, -, -, -, -, ⟨d, hout, ⟨-, hhalted, -⟩, -⟩, -⟩ :=
    h twiceListed 0 0 0 0 [] 0 0 .ctrl 0 (by decide)
  have hd : doOvercurrent twiceListed.dev = d := dev_of_act_eq (s := twiceListed) (by decide) hout
  exact hhalted 0 (by decide) (hd ▸ twiceListed_overcurrent)

end Sys2Proof.Machine

/-! PROOFS. Power removed and applied, and the end of the boot (R182, R210, R353, R384–R389). -/

namespace Sys2Proof.Machine
open Sys2Proof

theorem ofNat_trainCode (lane : Nat) :
    BitVec.ofNat 2 (trainCode lane) =
      if lane = 0 then 0 else if lane ≤ 2 then 1 else if lane = 3 then 2 else 3 := by
  unfold trainCode
  split_ifs <;> rfl

theorem StackSt.trained_train {x : StackSt} (h : x.train = 0) (pc lanes lane : Nat) :
    (x.trained pc lanes lane).train = BitVec.ofNat 2 (trainCode lanes) := by
  show (if x.train.toNat < trainCode lanes then BitVec.ofNat 2 (trainCode lanes) else x.train) = _
  rw [h]
  split
  · rfl
  · next hc => rw [show trainCode lanes = 0 by simpa using hc]; rfl

section
variable (d : Dev)

/-- The channels' states a boot reports leave events alone beside them. -/
def Dev.trainsChannel (st pc lane at_ : Nat) : Dev :=
  ((d.modStack st fun k => k.trained pc lane at_).raiseIf (trainCode lane == 2) .mem 5).raiseIf (trainCode lane == 3) .mem 6

theorem Dev.trainsChannel_frame (st pc lane at_ : Nat) :
    d.trainsChannel st pc lane at_ =
      { d.modStack st fun k => k.trained pc lane at_ with
        ev := (d.trainsChannel st pc lane at_).ev, pins := (d.trainsChannel st pc lane at_).pins,
        outbox := (d.trainsChannel st pc lane at_).outbox } := by
  unfold Dev.trainsChannel
  rw [Dev.raiseIf_frame (Dev.raiseIf _ _ _ _), Dev.raiseIf_frame (Dev.modStack _ _ _)]

theorem Dev.makeRoot_frame : d.makeRoot = { d with lcs := d.makeRoot.lcs, free := d.makeRoot.free } := by
  unfold Dev.makeRoot
  split <;> rfl

theorem Dev.makeRoot_draws {x : Lcs} {n : Nat} {b : Bool} (hx : d.lcs = x) (hn : d.free = n)
    (hb : d.sec.trngFail = b) :
    if x.st = .maker ∧ x.root = [] ∧ b = false then
      d.makeRoot.lcs = x.putSecret (Config.trng n) ∧ d.makeRoot.free = n + 1
    else d.makeRoot.lcs = x ∧ d.makeRoot.free = n := by
  subst hx hn hb
  unfold Dev.makeRoot
  by_cases h : d.lcs.st = .maker ∧ d.lcs.root = [] ∧ d.sec.trngFail = false
  · rw [if_pos h, if_pos (by simpa [and_assoc] using h)]
    exact ⟨rfl, rfl⟩
  · rw [if_neg h, if_neg (by simpa [and_assoc] using h)]
    exact ⟨rfl, rfl⟩

theorem Dev.makeRoot_st : d.makeRoot.lcs.st = d.lcs.st := by
  unfold Dev.makeRoot
  split <;> rfl

/-- The lane that the report names for a channel. -/
def reportedLane (laneAt : List (Nat × Fin 36)) (n : Nat) : Nat :=
  match laneAt.find? fun y => y.1 == n with
  | some y => y.2.val
  | none => 0

/-- The device that ends its boot with one channel reported, before READY. -/
def Dev.booted (st pc lane at_ : Nat) (trngFail : Bool) : Dev :=
  ({ d.trainsChannel st pc lane at_ with
    sec := { (d.trainsChannel st pc lane at_).sec with trngFail := trngFail } } : Dev).makeRoot

theorem doBootReady_one {st pc : Nat} (hr : d.flt.ready = false) (hpc : pc < 64) (hst : st < 16) (lane : Nat)
    (laneAt : List (Nat × Fin 36)) (trngFail : Bool) :
    let e := d.booted st pc lane (reportedLane laneAt (64 * st + pc)) trngFail
    doBootReady [(64 * st + pc, lane)] laneAt trngFail d =
      { e with flt := { e.flt with ready := e.lcs.st != .scrapped }, pwr := { e.pwr with stage1 := !e.pwr.ocp } } := by
  intro e
  have hn : 64 * st + pc < 1024 := by omega
  have hq : (64 * st + pc) / 64 = st := by omega
  have hm : (64 * st + pc) % 64 = pc := by omega
  unfold doBootReady
  rw [if_neg (by simp [hr])]
  simp only [List.foldl_cons, List.foldl_nil, List.any_cons, List.any_nil, hn, decide_true, Bool.true_and,
    Bool.or_false, if_true, hq, hm]
  rfl

theorem Dev.booted_frame (st pc lane at_ : Nat) (trngFail : Bool) :
    d.booted st pc lane at_ trngFail =
      { d.modStack st fun k => k.trained pc lane at_ with
        ev := (d.trainsChannel st pc lane at_).ev, pins := (d.trainsChannel st pc lane at_).pins,
        outbox := (d.trainsChannel st pc lane at_).outbox, sec := { d.sec with trngFail := trngFail },
        lcs := (d.booted st pc lane at_ trngFail).lcs, free := (d.booted st pc lane at_ trngFail).free } := by
  have h := d.trainsChannel_frame st pc lane at_
  have hroot := Dev.makeRoot_frame { d.trainsChannel st pc lane at_ with
    sec := { (d.trainsChannel st pc lane at_).sec with trngFail := trngFail } }
  change d.booted st pc lane at_ trngFail = _ at hroot
  refine hroot.trans ?_
  change { d.trainsChannel st pc lane at_ with
    sec := { (d.trainsChannel st pc lane at_).sec with trngFail := trngFail },
    lcs := (d.booted st pc lane at_ trngFail).lcs, free := (d.booted st pc lane at_ trngFail).free } = _
  have hsec : (d.trainsChannel st pc lane at_).sec = d.sec := (congrArg Dev.sec h :)
  generalize d.booted st pc lane at_ trngFail = e
  rw [hsec]
  generalize d.trainsChannel st pc lane at_ = x at h ⊢
  rw [h]

theorem Dev.booted_ev (st pc lane at_ : Nat) (trngFail : Bool) :
    (d.booted st pc lane at_ trngFail).ev = (d.trainsChannel st pc lane at_).ev :=
  (congrArg Dev.ev (Dev.makeRoot_frame _) :)

theorem Dev.booted_draws (st pc lane at_ : Nat) (trngFail : Bool) :
    if d.lcs.st = .maker ∧ d.lcs.root = [] ∧ trngFail = false then
      (d.booted st pc lane at_ trngFail).lcs = d.lcs.putSecret (Config.trng d.free) ∧
        (d.booted st pc lane at_ trngFail).free = d.free + 1
    else (d.booted st pc lane at_ trngFail).lcs = d.lcs ∧ (d.booted st pc lane at_ trngFail).free = d.free := by
  have h := d.trainsChannel_frame st pc lane at_
  exact Dev.makeRoot_draws _ (congrArg Dev.lcs h :) (congrArg Dev.free h :) rfl

theorem Dev.booted_st (st pc lane at_ : Nat) (trngFail : Bool) :
    (d.booted st pc lane at_ trngFail).lcs.st = d.lcs.st :=
  (Dev.makeRoot_st _).trans (congrArg (fun x : Dev => x.lcs.st) (d.trainsChannel_frame st pc lane at_) :)

theorem Dev.trainsChannel_degraded (st pc at_ : Nat) :
    ((d.trainsChannel st pc 3 at_).ev.get .mem).ev.getLsbD 5 = true :=
  Dev.raise_shows _ .mem (by decide)

theorem Dev.trainsChannel_failed {lane : Nat} (h : 4 ≤ lane) (st pc at_ : Nat) :
    ((d.trainsChannel st pc lane at_).ev.get .mem).ev.getLsbD 6 = true := by
  unfold Dev.trainsChannel trainCode
  rw [if_neg (by omega), if_neg (by omega), if_neg (by omega)]
  exact Dev.raise_shows _ .mem (by decide)

end

/-- Settles O50: the removal and the application of power by the state they write; a boot's end by the channel it
reports, the root secret it may draw, and READY. -/
theorem powerComesAndGoes : Obligations.PowerComesAndGoes := by
  intro s aux trngFail lane pc st laneAt d out
  refine ⟨⟨_, rfl, rfl, rfl, rfl, rfl, rfl, rfl, rfl, rfl, rfl, rfl, rfl, rfl, rfl, rfl, rfl, rfl⟩, fun hp => ?_,
    fun hp => ?_, fun hr hready => ?_, fun hr hready hpc hst hw => ?_⟩
  · exact congrArg out (if_neg (by rw [show s.dev.pins.powered = false from hp]; decide))
  · exact congrArg out (if_pos hp)
  · exact act_eq_next hr (if_pos hready)
  · refine ⟨_, act_eq_next hr (doBootReady_one d hready hpc hst lane laneAt trngFail), ?_⟩
    have hf := d.booted_frame st pc lane (reportedLane laneAt (64 * st + pc)) trngFail
    have hdraw := d.booted_draws st pc lane (reportedLane laneAt (64 * st + pc)) trngFail
    have hev := d.booted_ev st pc lane (reportedLane laneAt (64 * st + pc)) trngFail
    have hlc := d.booted_st st pc lane (reportedLane laneAt (64 * st + pc)) trngFail
    have hstack (k : Nat) := (congrArg (fun x : Dev => x.stack k) hf :)
    have htrained (f : StackSt → StackSt) := d.modStack_stack st hw f
    have hone := (hstack st).trans (htrained _)
    refine ⟨?_, ?_, fun k hk => ?_, fun h0 => ?_, fun hpcs => ?_, ?_, hdraw, fun h3 => ?_, fun h4 => ?_, ?_, ?_⟩
    · exact congrArg (· != Lc.scrapped) hlc
    · exact (congrArg (fun x : Dev => !x.pwr.ocp) hf :)
    · exact (hstack k).trans (Tab.get_set_ne _ _ _ hk)
    · refine (congrArg StackSt.train hone).trans ((StackSt.trained_train h0 pc lane _).trans ?_)
      exact ofNat_trainCode lane
    · refine (congrArg (fun x : StackSt => Tab.get 0 x.pcs pc) hone).trans ((Tab.get_set 0 _ hpcs pc _).trans ?_)
      exact ofNat_trainCode lane
    · exact (congrArg Dev.sec hf :)
    · subst h3
      exact (congrArg (fun e : Events => (e.get .mem).ev.getLsbD 5) hev).trans (d.trainsChannel_degraded st pc _)
    · exact (congrArg (fun e : Events => (e.get .mem).ev.getLsbD 6) hev).trans (d.trainsChannel_failed h4 st pc _)
    · exact (congrArg Dev.host hf :)
    · exact (congrArg Dev.plan hf :)

end Sys2Proof.Machine

/-! PROOFS. Key slots: what their loading, swapping and destruction change (R213, R218, R219). -/

namespace Sys2Proof.Machine
open Sys2Proof

/-- A relation that is a preorder holds across a fold whose steps keep it. -/
theorem foldl_frame {α : Type} {R : Dev → Dev → Prop} (hr : ∀ d, R d d)
    (ht : ∀ {a b c : Dev}, R a b → R b c → R a c) {f : Dev → α → Dev} (h : ∀ d x, R d (f d x)) (l : List α) (d : Dev) :
    R d (l.foldl f d) := by
  induction l generalizing d with
  | nil => exact hr d
  | cons x l ih => exact ht (h d x) (ih _)

/-- What a change of key slots may change: the slots, the clearings' measurements and the events. -/
def Dev.SlotFrame (d d' : Dev) : Prop :=
  d' = { d with sec := { d.sec with slots := d'.sec.slots }, clrs := d'.clrs, ev := d'.ev,
                pins := { d.pins with alertN := d'.pins.alertN }, outbox := d'.outbox }

section
variable {a b c : Dev}

theorem Dev.SlotFrame.trans (h : a.SlotFrame b) (h' : b.SlotFrame c) : a.SlotFrame c := by
  unfold Dev.SlotFrame at *
  rw [h', h]

theorem Dev.SlotFrame.foldl {α : Type} {f : Dev → α → Dev} (h : ∀ (d : Dev) (x : α), d.SlotFrame (f d x)) (l : List α)
    (d : Dev) : d.SlotFrame (l.foldl f d) := foldl_frame (R := Dev.SlotFrame) (fun _ => rfl) .trans h l d

end

section
variable (d : Dev)

theorem Dev.modSlot_slotFrame (i : Nat) (f : Slot → Slot) : d.SlotFrame (d.modSlot i f) := rfl

theorem Dev.raise_slotFrame (b : Blk) (k : Nat) : d.SlotFrame (d.raise b k) := by
  obtain ⟨e, a, o, h⟩ := d.raise_alertN b k
  rw [h]
  rfl

theorem Dev.raiseIf_slotFrame (c : Bool) (b : Blk) (k : Nat) : d.SlotFrame (d.raiseIf c b k) := by
  unfold Dev.raiseIf
  split
  · exact d.raise_slotFrame b k
  · rfl

/-- A measurement touches the measurements alone. -/
def Dev.ClrsOnly (d d' : Dev) : Prop := d' = { d with clrs := d'.clrs }

theorem Dev.ClrsOnly.trans {a b c : Dev} (h : a.ClrsOnly b) (h' : b.ClrsOnly c) : a.ClrsOnly c := by
  unfold Dev.ClrsOnly at *
  rw [h', h]

theorem Dev.remeasure_clrsOnly (n : Nat) : d.ClrsOnly (d.remeasure n) := by
  unfold Dev.remeasure
  split <;> rfl

theorem Dev.remeasureSlot_clrsOnly (s : Nat) : d.ClrsOnly (d.remeasureSlot s) := by
  unfold Dev.remeasureSlot
  split
  · refine foldl_frame (R := Dev.ClrsOnly) (fun _ => rfl) .trans (fun d n => ?_) _ d
    split
    · exact d.remeasure_clrsOnly n
    · rfl
  · rfl

theorem Dev.ClrsOnly.slotFrame {d d' : Dev} (h : d.ClrsOnly d') : d.SlotFrame d' := by
  unfold Dev.ClrsOnly Dev.SlotFrame at *
  rw [h]

theorem Dev.remeasureSlot_slots (s : Nat) : (d.remeasureSlot s).sec.slots = d.sec.slots :=
  (congrArg (fun x : Dev => x.sec.slots) (d.remeasureSlot_clrsOnly s) :)

theorem Dev.raise_slots (b : Blk) (k : Nat) : (d.raise b k).sec.slots = d.sec.slots :=
  congrArg Sec.slots (d.raise_sec b k)

theorem Dev.raise_slot (b : Blk) (k n : Nat) : (d.raise b k).slot n = d.slot n :=
  congrArg (fun t => Tab.get Slot.reset t n) (d.raise_slots b k)

theorem Dev.raiseIf_slots (c : Bool) (b : Blk) (k : Nat) : (d.raiseIf c b k).sec.slots = d.sec.slots := by
  unfold Dev.raiseIf
  split
  · exact d.raise_slots b k
  · rfl

theorem Dev.wipeSlot_slots (s : Nat) :
    (d.wipeSlot s).sec.slots = Tab.mod Slot.reset d.sec.slots s fun x => { Slot.reset with gen := x.gen } := by
  unfold Dev.wipeSlot
  dsimp only
  rw [Dev.remeasureSlot_slots, Dev.raiseIf_slots]
  rfl

theorem Dev.wipeSlot_slotFrame (s : Nat) : d.SlotFrame (d.wipeSlot s) :=
  ((d.modSlot_slotFrame s _).trans (Dev.raiseIf_slotFrame _ _ .sec 3)).trans (Dev.remeasureSlot_clrsOnly _ s).slotFrame

theorem Dev.destroySlot_slotFrame (s : Nat) : d.SlotFrame (d.destroySlot s) := by
  unfold Dev.destroySlot
  split
  · exact (d.wipeSlot_slotFrame s).trans (Dev.raise_slotFrame _ _ _)
  · rfl

theorem Dev.destroySlots_slotFrame (p : Nat → Slot → Bool) : d.SlotFrame (d.destroySlots p) :=
  Dev.SlotFrame.foldl (fun d (x : Nat × Slot) => d.destroySlot_slotFrame x.1) _ d

/-- Whether a slot holds a key, its own or a shadow. -/
def Slot.holds (x : Slot) : Bool := x.loaded || x.shadow.isSome

/-- What a destruction leaves of a slot: its GEN alone, where it held a key. -/
def Slot.destroyed (x : Slot) : Slot := if x.holds then { Slot.reset with gen := x.gen } else x

theorem Slot.destroyed_destroyed (x : Slot) : x.destroyed.destroyed = x.destroyed := by
  by_cases h : x.holds = true
  · rw [show x.destroyed = { Slot.reset with gen := x.gen } from if_pos h]
    rfl
  · rw [show x.destroyed = x from if_neg h]
    exact if_neg h

theorem Dev.destroySlot_eq (s : Nat) :
    d.destroySlot s = if (d.slot s).holds then (d.wipeSlot s).raise .sec 4 else d := rfl

section
variable {d} (hw : Tab.wf Slot.reset d.sec.slots = true)
include hw

theorem Dev.modSlot_slot (i k : Nat) (f : Slot → Slot) :
    (d.modSlot i f).slot k = if k = i then f (d.slot i) else d.slot k := Tab.get_mod hw i k f

theorem Dev.destroySlot_wf (s : Nat) : Tab.wf Slot.reset (d.destroySlot s).sec.slots = true := by
  unfold Dev.destroySlot
  split
  · rw [Dev.raise_slots, Dev.wipeSlot_slots]
    exact Tab.mod_wf _ _ hw _ _
  · exact hw

theorem Dev.destroySlot_slot (s k : Nat) :
    (d.destroySlot s).slot k = if k = s then (d.slot k).destroyed else d.slot k := by
  have hmod := Tab.get_mod hw s k fun x => { Slot.reset with gen := x.gen }
  rw [Dev.destroySlot_eq]
  by_cases hk : k = s
  · subst hk
    rw [if_pos rfl]
    rw [if_pos rfl] at hmod
    by_cases h : (d.slot k).holds
    · rw [if_pos h, Slot.destroyed, if_pos h, Dev.slot, Dev.raise_slots, Dev.wipeSlot_slots, hmod]
      rfl
    · rw [if_neg h, Slot.destroyed, if_neg h]
  · rw [if_neg hk]
    rw [if_neg hk] at hmod
    split
    · rw [Dev.slot, Dev.raise_slots, Dev.wipeSlot_slots, hmod]
      rfl
    · rfl

theorem Dev.foldl_destroySlot_slot (ks : List Nat) (k : Nat) :
    (ks.foldl Dev.destroySlot d).slot k = if k ∈ ks then (d.slot k).destroyed else d.slot k := by
  induction ks generalizing d with
  | nil => simp
  | cons s ks ih =>
    rw [List.foldl_cons, ih (Dev.destroySlot_wf hw s), Dev.destroySlot_slot hw]
    by_cases hk : k = s
    · subst hk; simp [Slot.destroyed_destroyed]
    · simp [hk]

/-- A destruction by a condition reaches every slot that meets it. -/
theorem Dev.destroySlots_slot (p : Nat → Slot → Bool) (k : Nat) :
    (d.destroySlots p).slot k = if p k (d.slot k) then (d.slot k).destroyed else d.slot k := by
  have hfold : d.destroySlots p = ((d.sec.slots.filter fun x => p x.1 x.2).map (·.1)).foldl Dev.destroySlot d := by
    rw [List.foldl_map]
    rfl
  rw [hfold, Dev.foldl_destroySlot_slot hw]
  by_cases hne : d.slot k = Slot.reset
  · rw [hne]
    simp [Slot.destroyed, Slot.holds, Slot.reset]
  · have hmem : (k ∈ (d.sec.slots.filter fun x => p x.1 x.2).map (·.1)) ↔ p k (d.slot k) = true := by
      simp only [List.mem_map, List.mem_filter]
      constructor
      · rintro ⟨x, ⟨hx, hp⟩, rfl⟩
        rwa [Dev.slot, Tab.get_of_mem hw (v := x.2) hx]
      · exact fun hp => ⟨(k, d.slot k), ⟨Tab.mem_of_get hne, hp⟩, rfl⟩
    by_cases hp : p k (d.slot k) = true
    · rw [if_pos (hmem.2 hp), if_pos hp]
    · rw [if_neg (mt hmem.1 hp), if_neg hp]

end

/-! ## The loading of plans (R65, R69) -/

theorem Dev.dropHeld_slotFrame : d.SlotFrame d.dropHeld := d.destroySlots_slotFrame _

theorem Dev.remeasure_keeps (n : Nat) : MarkKeeps d (d.remeasure n) := by
  unfold Dev.remeasure
  split
  · exact d.modClr_keeps n (fun _ h => h) fun _ h => h
  · exact .refl d

theorem Dev.remeasureSlot_keeps (s : Nat) : MarkKeeps d (d.remeasureSlot s) := by
  unfold Dev.remeasureSlot
  split
  · exact .foldl (fun d n => .ite (d.remeasure_keeps n) (.refl d)) _ d
  · exact .refl d

theorem Dev.destroySlot_keeps (s : Nat) : MarkKeeps d (d.destroySlot s) :=
  have hwipe : MarkKeeps d (d.wipeSlot s) :=
    (d.modSlot_keeps s _).trans ((Dev.raiseIf_keeps _ _ _ _).trans (Dev.remeasureSlot_keeps _ s))
  .ite (hwipe.trans (Dev.raise_keeps _ _ _)) (.refl d)

theorem Dev.destroySlots_keeps (p : Nat → Slot → Bool) : MarkKeeps d (d.destroySlots p) :=
  .foldl (fun d (x : Nat × Slot) => d.destroySlot_keeps x.1) _ d

theorem Dev.loadFails_frame (reason : Byte) (at_ : Place) :
    d.loadFails reason at_ =
      { d with
        plan := { d.plan with
          st := .failed, armed := none, changed := 0, due := false, reason := reason,
          section_ := BitVec.ofNat 8 at_.1, entry := BitVec.ofNat 16 at_.2, confA := 0, confB := 0, confRes := 0 },
        ev := (d.loadFails reason at_).ev, pins := (d.loadFails reason at_).pins,
        outbox := (d.loadFails reason at_).outbox } :=
  Dev.raise_frame _ .plan 0

end

/-- Settles O9: PLAN_LOAD and ABORT by the loader's state; an ABORT's destruction reaches the held slots. -/
theorem planLoads : Obligations.PlanLoads := by
  refine ⟨?_, ?_⟩
  · intro s hr d p done
    refine ⟨?_, ?_, ?_⟩
    · intro h
      refine act_eq_next hr (if_pos ?_)
      simpa [Dev.loading, or_assoc] using h
    · intro h
      have hload : ¬ d.loading = true := by
        rcases h with h | h | h <;> simp [Dev.loading, show d.plan.st = _ from h]
      refine ⟨?_, fun hl hready hret htrain => ?_, ?_⟩
      · intro hbad r q
        refine act_eq_next hr ?_
        unfold doPlanLoad
        rw [show s.dev = d from rfl, if_neg hload]
        by_cases hs : d.lcs.st = .scrapped
        · rw [if_pos hs, show q = { p with st := .failed, armed := none, changed := 0, reason := 0x06, due := false } by
            simp only [q, r, if_pos hs]]
          rfl
        · obtain ⟨hready, hrefuse⟩ := hbad.resolve_left hs
          rw [if_neg hs, if_neg (by simp [hready]), if_pos (by simpa [Dev.refusesPlans] using hrefuse),
            show q = { p with st := .failed, armed := none, changed := 0, reason := 0x13, due := false } by
              simp only [q, r, if_neg hs]]
          rfl
      · refine act_eq_next hr ?_
        unfold doPlanLoad
        rw [show s.dev = d from rfl, if_neg hload, if_neg hl, if_neg (by simp [hready]),
          if_neg (by simp [Dev.refusesPlans, hret, htrain])]
        rfl
      · exact act_eq_next hr (if_neg (by simp [show s.dev.loading = false by simpa using hload]))
    · intro h
      exact act_eq_next hr (if_neg (by simp [show s.dev.applyCommits = true from h]))
  · intro s hr hno hst
    have hload : s.dev.loading = true := by simpa [Dev.loading, or_assoc] using hst
    refine ⟨_, act_eq_next hr (if_pos (by simp [hload, hno])), ?_⟩
    have hfails := s.dev.loadFails_frame 0x12 (0, 0)
    have hf := Dev.destroySlots_slotFrame (s.dev.loadFails 0x12 (0, 0)) fun _ x => x.held
    have hk := Dev.destroySlots_keeps (s.dev.loadFails 0x12 (0, 0)) fun _ x => x.held
    have hslots (k : Nat) : (s.dev.loadFails 0x12 (0, 0)).slot k = s.dev.slot k :=
      (congrArg (fun x : Dev => x.slot k) hfails :)
    unfold Dev.dropHeld
    refine ⟨?_, hk.ev .plan 0 (Dev.raise_shows _ _ (by decide)), fun hw k => ?_, ?_⟩
    · exact (congrArg Dev.plan hf :).trans (congrArg Dev.plan hfails :)
    · have hw' : Tab.wf Slot.reset (s.dev.loadFails 0x12 (0, 0)).sec.slots = true := by rw [hfails]; exact hw
      rw [Dev.destroySlots_slot hw', hslots]
      refine ⟨fun ⟨hheld, hkey⟩ => ?_, fun hheld => ?_⟩
      · rw [if_pos hheld]
        exact if_pos (by simpa [Slot.holds] using hkey)
      · rw [if_neg (by simp [hheld])]
    · generalize Dev.destroySlots _ _ = e at hf ⊢
      unfold Dev.SlotFrame at hf
      rw [hf, hfails]

end Sys2Proof.Machine

/-! PROOFS. The SEC mailbox: how a request is served (R242), and the requests that name keys (R213, R218, R230–R233). -/

namespace Sys2Proof.Machine
open Sys2Proof

/-- A served request's answer stands in the mailbox. -/
def secAnswer (code : BitVec 16) (r : Served) : Dev :=
  { r.1 with sec :=
    { r.1.sec with
      rspValid := false, tag := Tab.get 0 r.1.sec.req 1, job := some { code := code, res := r.2.1, body := r.2.2 } } }

section
variable {d : Dev}

theorem Dev.serve_idle (hj : d.sec.job = none) (hl : d.lcs.st ≠ .scrapped) (code : BitVec 16) (f : Dev → Served) :
    d.serve code f = secAnswer code (f d) := by
  unfold Dev.serve
  rw [hj, if_neg (by decide), if_neg hl]
  rfl

theorem Dev.serve_scrapped (hj : d.sec.job = none) (hl : d.lcs.st = .scrapped) (code : BitVec 16) (f : Dev → Served) :
    d.serve code f = secAnswer code (d.refuse .lifecycle) := by
  unfold Dev.serve
  rw [hj, if_neg (by decide), if_pos hl]
  rfl

theorem Dev.serve_busy (hj : d.sec.job.isSome = true) (code : BitVec 16) (f : Dev → Served) :
    d.serve code f = d.raise .sec 1 := if_pos hj

end

/-! ## The checks of a request, in their order (log entry 62) -/

section
variable (d : Dev) (f : Dev → Served)

@[simp] theorem Dev.checked_nil : d.checked [] f = f d := rfl

@[simp] theorem Dev.checked_cons (b : Bool) (r : SecRes) (cs : List (Bool × SecRes)) :
    d.checked ((b, r) :: cs) f = if b then d.refuse r else d.checked cs f := by
  cases b <;> rfl

end

/-! ## Frames -/

/-- What a request that names keys may change, its answer aside. -/
def Dev.KeyFrame (d d' : Dev) : Prop :=
  d' = { d with sec := { d.sec with slots := d'.sec.slots }, clrs := d'.clrs,
                mem := { d.mem with frames := d'.mem.frames }, ev := d'.ev, pins := d'.pins, outbox := d'.outbox }

section
variable {d x : Dev}

theorem Dev.SlotFrame.key (h : d.SlotFrame x) : d.KeyFrame x := by
  unfold Dev.SlotFrame Dev.KeyFrame at *
  rw [h]

/-- The answer of a request that changed keys. -/
theorem Dev.KeyFrame.done (h : d.KeyFrame x) (code : BitVec 16) (res : SecRes) (body : SecBody) :
    let e := secAnswer code (x, res, body)
    e.sec.job = some { code := code, res := res, body := body } ∧ e.sec.rspValid = false ∧
      e.sec.tag = Tab.get 0 d.sec.req 1 ∧
      e = { d with
        sec := { d.sec with slots := e.sec.slots, tag := e.sec.tag, job := e.sec.job, rspValid := false }, clrs := e.clrs,
        mem := { d.mem with frames := e.mem.frames }, ev := e.ev, pins := e.pins, outbox := e.outbox } := by
  unfold Dev.KeyFrame at h
  refine ⟨rfl, rfl, ?_, ?_⟩
  · exact (congrArg (fun y : Dev => Tab.get 0 y.sec.req 1) h :)
  · dsimp only [secAnswer]
    rw [h]

theorem secAnswer_slot (code : BitVec 16) (res : SecRes) (body : SecBody) (n : Nat) :
    (secAnswer code (x, res, body)).slot n = x.slot n := rfl

end

/-! ## A key is loaded (R213, R231) -/

section
variable (d : Dev) (source : BitVec 2) (held : Bool) (e : KeyEntry)

/-- What a load makes of its slot. -/
def Slot.loadedWith (x : Slot) : Slot :=
  if x.loaded then
    { x with shadow := some { key := e.key, kcv := e.kcv, attr := e.attr, owner := e.owner, mask := e.mask,
                              source := source, bundleOk := e.bundleOk } }
  else
    { Slot.reset with
      loaded := true, key := e.key, attr := e.attr, owner := e.owner, mask := e.mask, gen := x.gen + 1,
      source := source, kcv := e.kcv, bundleOk := e.bundleOk, held := held }

theorem Slot.ne_reset_of_loaded {x : Slot} (h : x.loaded = true) : x ≠ Slot.reset := by
  rintro rfl
  exact absurd h (by decide)

theorem Slot.loadedWith_loaded (x : Slot) : (x.loadedWith source held e).loaded = true := by
  unfold Slot.loadedWith
  split
  · next h => exact h
  · rfl

theorem Dev.loadEntry_slots :
    (d.loadEntry source held e).sec.slots =
      Tab.set Slot.reset d.sec.slots e.slot.val ((d.slot e.slot.val).loadedWith source held e) := by
  unfold Dev.loadEntry Slot.loadedWith
  dsimp only
  split
  · rfl
  · rw [Dev.remeasureSlot_slots]
    rfl

theorem Dev.loadEntry_slot (n : Nat) :
    (d.loadEntry source held e).slot n =
      if n = e.slot.val then (d.slot n).loadedWith source held e else d.slot n := by
  rw [Dev.slot, Dev.loadEntry_slots]
  split
  · next h =>
    subst h
    exact Tab.get_set_self _ _ _ (Slot.ne_reset_of_loaded (Slot.loadedWith_loaded _ _ _ _))
  · next h => exact Tab.get_set_ne _ _ _ h

theorem Dev.loadEntry_slotFrame : d.SlotFrame (d.loadEntry source held e) := by
  unfold Dev.loadEntry
  dsimp only
  split
  · rfl
  · exact (d.modSlot_slotFrame _ _).trans (Dev.remeasureSlot_clrsOnly _ _).slotFrame

variable (at_ : KeyEntry → Bool)

/-- A list of entries that names no slot twice. -/
theorem Dev.foldl_loadEntry_slot {es : List KeyEntry} (hd : (es.map (·.slot.val)).Nodup) :
    (∀ e ∈ es, (es.foldl (fun x e => x.loadEntry source (at_ e) e) d).slot e.slot.val =
      (d.slot e.slot.val).loadedWith source (at_ e) e) ∧
    ∀ n, (∀ e ∈ es, e.slot.val ≠ n) → (es.foldl (fun x e => x.loadEntry source (at_ e) e) d).slot n = d.slot n := by
  induction es generalizing d with
  | nil => exact ⟨fun _ h => absurd h List.not_mem_nil, fun _ _ => rfl⟩
  | cons e es ih =>
    rw [List.map_cons, List.nodup_cons] at hd
    obtain ⟨hnew, hd⟩ := hd
    obtain ⟨hin, hout⟩ := ih (d.loadEntry source (at_ e) e) hd
    have hnot (a : KeyEntry) (ha : a ∈ es) : a.slot.val ≠ e.slot.val := fun h =>
      hnew (h ▸ List.mem_map_of_mem (f := fun e : KeyEntry => e.slot.val) ha)
    refine ⟨fun a ha => ?_, fun n hn => ?_⟩
    · rcases List.mem_cons.1 ha with rfl | ha
      · rw [List.foldl_cons, hout _ hnot, Dev.loadEntry_slot, if_pos rfl]
      · rw [List.foldl_cons, hin a ha, Dev.loadEntry_slot, if_neg (hnot a ha)]
    · rw [List.foldl_cons, hout n fun a ha => hn a (List.mem_cons_of_mem _ ha), Dev.loadEntry_slot,
        if_neg (hn e List.mem_cons_self).symm]

end

/-- Only the metadata frames' records change. -/
def Dev.FramesOnly (d d' : Dev) : Prop := d' = { d with mem := { d.mem with frames := d'.mem.frames } }

section
variable {a b c : Dev}

theorem Dev.FramesOnly.trans (h : a.FramesOnly b) (h' : b.FramesOnly c) : a.FramesOnly c := by
  unfold Dev.FramesOnly at *
  rw [h', h]

theorem Dev.FramesOnly.slot (h : a.FramesOnly b) (n : Nat) : b.slot n = a.slot n := by
  unfold Dev.FramesOnly at h
  rw [h]
  rfl

theorem Dev.FramesOnly.key (h : a.FramesOnly b) : a.KeyFrame b := by
  unfold Dev.FramesOnly Dev.KeyFrame at *
  rw [h]

theorem Dev.KeyFrame.trans (h : a.KeyFrame b) (h' : b.KeyFrame c) : a.KeyFrame c := by
  unfold Dev.KeyFrame at *
  rw [h', h]

theorem Dev.keysCame_framesOnly (d : Dev) : d.FramesOnly d.keysCame := by
  refine foldl_frame (R := Dev.FramesOnly) (fun _ => rfl) .trans (fun d n => ?_) _ d
  split <;> rfl

end

/-! ## The requests -/

/-- The device once a list of entries has loaded. -/
def Dev.loaded (d : Dev) (source : BitVec 2) (policy : Byte) (bundle : BitVec 16) (es : List KeyEntry) : Dev :=
  (es.foldl (fun x e => x.loadEntry source ((d.placeFor policy bundle e).getD false) e) d).keysCame

/-- A load whose entries all fit. -/
theorem Dev.loadEntries_fits {d : Dev} (source : BitVec 2) (policy : Byte) (bundle : BitVec 16) {es : List KeyEntry}
    (h : ∀ e ∈ es, (d.placeFor policy bundle e).isSome = true ∧ kcvOf e.key e.keyLen = e.kcv ∧
      (d.slot e.slot.val).shadow = none) :
    d.loadEntries source policy bundle es = (d.loaded source policy bundle es, .ok, .empty) := by
  have hplace : (es.any fun e => (d.placeFor policy bundle e).isNone) = false := by
    rw [List.any_eq_false]
    intro e he
    simp [Option.isNone_eq_false_iff.2 (h e he).1]
  have hkcv : (es.any fun e => kcvOf e.key e.keyLen != e.kcv) = false := by
    rw [List.any_eq_false]
    intro e he
    simp [(h e he).2.1]
  have hfree : (es.any fun e => (d.slot e.slot.val).shadow.isSome) = false := by
    rw [List.any_eq_false]
    intro e he
    simp [(h e he).2.2]
  unfold Dev.loadEntries Dev.loaded
  simp [hplace, hkcv, hfree]

theorem Dev.loadEntries_kcvMismatch {d : Dev} (source : BitVec 2) (policy : Byte) (bundle : BitVec 16)
    {es : List KeyEntry} (h : ∀ e ∈ es, (d.placeFor policy bundle e).isSome = true)
    (hbad : ∃ e ∈ es, kcvOf e.key e.keyLen ≠ e.kcv) :
    d.loadEntries source policy bundle es = d.refuse .kcvMismatch := by
  have hplace : (es.any fun e => (d.placeFor policy bundle e).isNone) = false := by
    rw [List.any_eq_false]
    intro e he
    simp [Option.isNone_eq_false_iff.2 (h e he)]
  have hkcv : (es.any fun e => kcvOf e.key e.keyLen != e.kcv) = true := by simpa using hbad
  unfold Dev.loadEntries
  simp [hplace, hkcv]

/-- What a list of entries leaves in the slots (R213, R231). -/
theorem Dev.loads_slots (d : Dev) (source : BitVec 2) (policy : Byte) (bundle : BitVec 16) {es : List KeyEntry}
    (hd : (es.map (·.slot.val)).Nodup) :
    d.KeyFrame (d.loaded source policy bundle es) ∧
    (∀ e ∈ es, (d.loaded source policy bundle es).slot e.slot.val =
      (d.slot e.slot.val).loadedWith source ((d.placeFor policy bundle e).getD false) e) ∧
    ∀ n, (∀ e ∈ es, e.slot.val ≠ n) → (d.loaded source policy bundle es).slot n = d.slot n := by
  obtain ⟨hin, hout⟩ := d.foldl_loadEntry_slot source (fun e => (d.placeFor policy bundle e).getD false) hd
  have hframe := Dev.SlotFrame.foldl (fun x e => Dev.loadEntry_slotFrame x source ((d.placeFor policy bundle e).getD false) e) es d
  have hcame := Dev.keysCame_framesOnly (es.foldl (fun x e => x.loadEntry source ((d.placeFor policy bundle e).getD false) e) d)
  refine ⟨hframe.key.trans hcame.key, fun e he => ?_, fun n hn => ?_⟩
  · rw [← hin e he]
    exact hcame.slot _
  · rw [← hout n hn]
    exact hcame.slot n

theorem entriesLaid_nodup {es : List KeyEntry} (h : entriesLaid es = true) : (es.map (·.slot.val)).Nodup := by
  simp only [entriesLaid, Bool.and_eq_true, decide_eq_true_eq] at h
  obtain ⟨⟨_, hd⟩, _⟩ := h
  exact hd

section
variable {d : Dev} (hw : Tab.wf Slot.reset d.sec.slots = true)
include hw

/-- One change of every named slot, which changes nothing the second time. -/
theorem Dev.foldl_modSlot_slot {f : Slot → Slot} (hf : ∀ x, f (f x) = f x) (ks : List Nat) (n : Nat) :
    (ks.foldl (fun d k => d.modSlot k f) d).slot n = if n ∈ ks then f (d.slot n) else d.slot n := by
  have hfold : ∀ (ks : List Nat) (d : Dev), (ks.foldl (fun d k => d.modSlot k f) d).sec.slots =
      ks.foldl (fun t k => Tab.mod Slot.reset t k f) d.sec.slots := by
    intro ks
    induction ks with
    | nil => intro d; rfl
    | cons k ks ih => intro d; rw [List.foldl_cons, ih]; rfl
  rw [Dev.slot, hfold]
  exact Tab.get_foldl_mod hf ks hw n

theorem Dev.wipeSlot_slot (s n : Nat) :
    (d.wipeSlot s).slot n = if n = s then { Slot.reset with gen := (d.slot n).gen } else d.slot n := by
  rw [Dev.slot, Dev.wipeSlot_slots, Tab.get_mod hw]
  split
  · next h => subst h; rfl
  · rfl

theorem Dev.foldl_wipeSlot_slot (ks : List Nat) (n : Nat) :
    (ks.foldl Dev.wipeSlot d).slot n = if n ∈ ks then { Slot.reset with gen := (d.slot n).gen } else d.slot n := by
  induction ks generalizing d with
  | nil => simp
  | cons s ks ih =>
    have hw' : Tab.wf Slot.reset (d.wipeSlot s).sec.slots = true := by
      rw [Dev.wipeSlot_slots]
      exact Tab.mod_wf _ _ hw _ _
    rw [List.foldl_cons, ih hw', Dev.wipeSlot_slot hw]
    by_cases hn : n = s
    · subst hn; simp
    · simp [hn]

end


/-! ## Requests that name slots (R218, R219, R233) -/

section
variable {d : Dev} {rs : List SlotRef}

theorem namesSystem_iff : namesSystem rs = true ↔ ∃ x ∈ rs, x.slot.val < 16 := by
  simp [namesSystem]

theorem Dev.genStale_iff : d.genStale rs = true ↔ ∃ x ∈ rs, (d.slot x.slot.val).gen ≠ x.gen := by
  simp [Dev.genStale]

theorem namesSystem_false (h : ∀ x ∈ rs, 16 ≤ x.slot.val) : namesSystem rs = false :=
  Bool.eq_false_iff.2 fun hs => by
    obtain ⟨x, hx, hlt⟩ := namesSystem_iff.1 hs
    exact absurd (h x hx) (by omega)

theorem Dev.genStale_false (h : ∀ x ∈ rs, (d.slot x.slot.val).gen = x.gen) : d.genStale rs = false :=
  Bool.eq_false_iff.2 fun hs => by
    obtain ⟨x, hx, hne⟩ := Dev.genStale_iff.1 hs
    exact hne (h x hx)

theorem mem_slots_iff {n : Nat} : n ∈ rs.map (·.slot.val) ↔ ∃ x ∈ rs, x.slot.val = n := by
  simp

end

/-! ## The requests' equations -/

section
variable {d : Dev} {m : SetMember} (hj : d.sec.job = none) (hl : d.lcs.st ≠ .scrapped)
include hj hl

theorem doLoadBundle_notMember (hm : d.sec.member = none) (bytes : List Byte) :
    doLoadBundle bytes d = secAnswer 0x0020 (d.refuse .notMember) := by
  unfold doLoadBundle
  rw [Dev.serve_idle hj hl]
  dsimp only
  split
  · rfl
  · next h => exact absurd (h.symm.trans hm) (by simp)

theorem doLoadBundle_member (hm : d.sec.member = some m) (bytes : List Byte) :
    doLoadBundle bytes d = secAnswer 0x0020
      (d.checked
        [(!(d.openBundle bytes).wellLaid, .malformed), ((d.openBundle bytes).setId != m.setId, .denied),
          (!((d.openBundle bytes).setEpoch == m.epoch || ((d.slot 1).loaded &&
            decide ((d.openBundle bytes).setEpoch.toNat < m.epoch.toNat) &&
            decide (m.epoch.toNat ≤ (d.openBundle bytes).setEpoch.toNat + 1))), .stale),
          (!(d.openBundle bytes).tagOk, .badSignature),
          (!entriesLaid ((d.openBundle bytes).entries.getD []), .malformed)]
        fun d' => d'.loadEntries 1 0 (d.openBundle bytes).bundleId ((d.openBundle bytes).entries.getD [])) := by
  unfold doLoadBundle
  rw [Dev.serve_idle hj hl]
  dsimp only
  split
  · next h => exact absurd (h.symm.trans hm) (by simp)
  · next x h =>
    obtain rfl : x = m := Option.some.inj (h.symm.trans hm)
    rfl

theorem doMakeBundle_member (hm : d.sec.member = some m) (id : BitVec 16) (rs : List SlotRef) :
    doMakeBundle id rs d = secAnswer 0x0022
      (d.checked
        [((rs.map (·.slot.val)).isEmpty || decide (32 < (rs.map (·.slot.val)).length) ||
            !decide (rs.map (·.slot.val)).Nodup, .malformed),
          (namesSystem rs, .denied), (d.genStale rs, .stale),
          (!(rs.map (·.slot.val)).all fun s => (d.slot s).sealable, .denied)]
        fun d => (d.tick, .ok, .bundle id m.epoch (rs.map (·.slot)) (sealBundle (d.slot 0).key
          (bundleHeader (rs.map (·.slot.val)).length m.setId m.epoch id (strBytes d.random 12))
          ((rs.map (·.slot.val)).flatMap fun s => entryBytes s (d.slot s))))) := by
  unfold doMakeBundle
  rw [Dev.serve_idle hj hl]
  dsimp only
  split
  · next h => exact absurd (h.symm.trans hm) (by simp)
  · next x h =>
    obtain rfl : x = m := Option.some.inj (h.symm.trans hm)
    rfl

section
variable (hm : d.sec.member = some m) {bytes : List Byte}
include hm

theorem doLoadBundle_malformed (hlaid : (d.openBundle bytes).wellLaid = false) :
    doLoadBundle bytes d = secAnswer 0x0020 (d.refuse .malformed) := by
  simp [doLoadBundle_member hj hl hm, hlaid]

variable (hlaid : (d.openBundle bytes).wellLaid = true)
include hlaid

theorem doLoadBundle_denied (hset : (d.openBundle bytes).setId ≠ m.setId) :
    doLoadBundle bytes d = secAnswer 0x0020 (d.refuse .denied) := by
  simp [doLoadBundle_member hj hl hm, hlaid, hset]

variable (hset : (d.openBundle bytes).setId = m.setId)
include hset

theorem doLoadBundle_stale (hep : (d.openBundle bytes).setEpoch.toNat + 1 < m.epoch.toNat) :
    doLoadBundle bytes d = secAnswer 0x0020 (d.refuse .stale) := by
  have hne : (d.openBundle bytes).setEpoch ≠ m.epoch := by
    rintro h
    rw [h] at hep
    omega
  simp [doLoadBundle_member hj hl hm, hlaid, hset, hne, Nat.not_le.2 hep]

variable (hep : (d.openBundle bytes).setEpoch = m.epoch)
include hep

theorem doLoadBundle_badSignature (htag : (d.openBundle bytes).tagOk = false) :
    doLoadBundle bytes d = secAnswer 0x0020 (d.refuse .badSignature) := by
  simp [doLoadBundle_member hj hl hm, hlaid, hset, hep, htag]

theorem doLoadBundle_entries {es : List KeyEntry} (htag : (d.openBundle bytes).tagOk = true)
    (hes : (d.openBundle bytes).entries = some es) (hel : entriesLaid es = true) :
    doLoadBundle bytes d = secAnswer 0x0020 (d.loadEntries 1 0 (d.openBundle bytes).bundleId es) := by
  simp [doLoadBundle_member hj hl hm, hlaid, hset, hep, htag, hes, hel]

end

theorem doLoadReleased_entries {r : Release} (hlaid : r.wellLaid = true) (hel : entriesLaid r.entries = true)
    (hsig : r.sigOk = true) (hkey : d.releaseKeyOk r.owner r.sigKey = true) (hfresh : d.nonceFresh r.nonce = true)
    (haddr : r.addr = d.addr) (hid : r.identity = d.identity) (ho : ∀ e ∈ r.entries, e.owner = r.owner) :
    doLoadReleased r d = secAnswer 0x0021 (d.loadEntries 2 1 0 r.entries) := by
  have howner : (r.entries.any (·.owner != r.owner)) = false := by
    rw [List.any_eq_false]
    intro e he
    simp [ho e he]
  unfold doLoadReleased
  rw [Dev.serve_idle hj hl]
  simp [hlaid, hel, hsig, hkey, hfresh, haddr, hid, howner]

variable {rs : List SlotRef} (hne : rs ≠ [])
include hne

/-- A request that names slots answers the first check that fails: a system slot, then a stale GEN. -/
theorem named_denied (hsys : ∃ x ∈ rs, x.slot.val < 16) (pos : BitVec 64) :
    doSwap rs pos d = secAnswer 0x0023 (d.refuse .denied) ∧
    doCancelSwap rs d = secAnswer 0x0024 (d.refuse .denied) ∧
    doDestroy rs d = secAnswer 0x0025 (d.refuse .denied) := by
  have hn := namesSystem_iff.2 hsys
  unfold doSwap doCancelSwap doDestroy
  simp [Dev.serve_idle hj hl, hne, hn]

theorem named_stale (hsys : ∀ x ∈ rs, 16 ≤ x.slot.val) (hst : ∃ x ∈ rs, (d.slot x.slot.val).gen ≠ x.gen)
    (pos : BitVec 64) :
    doSwap rs pos d = secAnswer 0x0023 (d.refuse .stale) ∧
    doCancelSwap rs d = secAnswer 0x0024 (d.refuse .stale) ∧
    doDestroy rs d = secAnswer 0x0025 (d.refuse .stale) := by
  have hn := namesSystem_false hsys
  have hs := Dev.genStale_iff.2 hst
  unfold doSwap doCancelSwap doDestroy
  simp [Dev.serve_idle hj hl, hne, hn, hs]

variable (hok : ∀ x ∈ rs, 16 ≤ x.slot.val ∧ (d.slot x.slot.val).gen = x.gen)
include hok

theorem doDestroy_named :
    doDestroy rs d = secAnswer 0x0025 ((rs.map (·.slot.val)).foldl Dev.wipeSlot d, .ok, .empty) := by
  have hn := namesSystem_false fun x hx => (hok x hx).1
  have hs := Dev.genStale_false fun x hx => (hok x hx).2
  unfold doDestroy
  simp [Dev.serve_idle hj hl, hne, hn, hs, List.foldl_map]

variable (hhalf : d.halfPair (rs.map (·.slot.val)) = false)
include hhalf

theorem doSwap_named {pos : BitVec 64}
    (h : ∀ x ∈ rs, (d.slot x.slot.val).swapPos = none ∧ (d.slot x.slot.val).outgoing = false ∧
      (d.slot x.slot.val).shadow.isSome = true) :
    doSwap rs pos d = secAnswer 0x0023
      (if pos.toNat ≤ d.tide.pos.toNat then d.refuse .tooLate
       else ((rs.map (·.slot.val)).foldl (fun d s => d.modSlot s fun x => { x with swapPos := some pos }) d, .ok, .empty)) := by
  have hn := namesSystem_false fun x hx => (hok x hx).1
  have hs := Dev.genStale_false fun x hx => (hok x hx).2
  have hbusy : ((rs.map (·.slot.val)).any fun s => (d.slot s).swapPos.isSome || (d.slot s).outgoing) = false := by
    rw [List.any_eq_false]
    intro s hs
    obtain ⟨x, hx, rfl⟩ := mem_slots_iff.1 hs
    simp [(h x hx).1, (h x hx).2.1]
  have hshadow : ((rs.map (·.slot.val)).any fun s => (d.slot s).shadow.isNone) = false := by
    rw [List.any_eq_false]
    intro s hs
    obtain ⟨x, hx, rfl⟩ := mem_slots_iff.1 hs
    simp [Option.isNone_eq_false_iff.2 (h x hx).2.2]
  unfold doSwap
  rw [Dev.serve_idle hj hl]
  simp only [Dev.checked_cons, Dev.checked_nil, hn, hs, hbusy, hshadow, hhalf, List.isEmpty_map,
    List.isEmpty_eq_false_iff.2 hne, decide_eq_true_eq, Bool.or_false, if_false, Bool.false_eq_true]

theorem doCancelSwap_named (h : ∀ x ∈ rs, (d.slot x.slot.val).swapPos.isSome = true) :
    doCancelSwap rs d = secAnswer 0x0024
      (((rs.map (·.slot.val)).foldl (fun d s => d.modSlot s fun x => { x with swapPos := none }) d).raise .sec 3,
        .ok, .empty) := by
  have hn := namesSystem_false fun x hx => (hok x hx).1
  have hs := Dev.genStale_false fun x hx => (hok x hx).2
  have hswap : ((rs.map (·.slot.val)).any fun s => (d.slot s).swapPos.isNone) = false := by
    rw [List.any_eq_false]
    intro s hs
    obtain ⟨x, hx, rfl⟩ := mem_slots_iff.1 hs
    simp [Option.isNone_eq_false_iff.2 (h x hx)]
  unfold doCancelSwap
  rw [Dev.serve_idle hj hl]
  simp only [Dev.checked_cons, Dev.checked_nil, hn, hs, hswap, hhalf, List.isEmpty_map,
    List.isEmpty_eq_false_iff.2 hne, Bool.or_false, if_false, Bool.false_eq_true]

omit hhalf in
theorem doMakeBundle_named (hm : d.sec.member = some m) (id : BitVec 16) (hlen : rs.length ≤ 32)
    (hnd : (rs.map (·.slot.val)).Nodup)
    (h : ∀ x ∈ rs, (d.slot x.slot.val).loaded = true ∧
      ((d.slot x.slot.val).source = 1 ∨ ((d.slot x.slot.val).source = 2 ∧ (d.slot x.slot.val).bundleOk = true))) :
    doMakeBundle id rs d = secAnswer 0x0022 (d.tick, .ok, .bundle id m.epoch (rs.map (·.slot)) (sealBundle (d.slot 0).key
      (bundleHeader rs.length m.setId m.epoch id (strBytes d.random 12))
      (rs.flatMap fun x => entryBytes x.slot.val (d.slot x.slot.val)))) := by
  have hn := namesSystem_false fun x hx => (hok x hx).1
  have hs := Dev.genStale_false fun x hx => (hok x hx).2
  have hseal : ((rs.map (·.slot.val)).all fun s => (d.slot s).sealable) = true := by
    rw [List.all_eq_true]
    intro s hs
    obtain ⟨x, hx, rfl⟩ := mem_slots_iff.1 hs
    simpa [Slot.sealable] using h x hx
  rw [doMakeBundle_member hj hl hm]
  simp only [Dev.checked_cons, Dev.checked_nil, hn, hs, hseal, List.isEmpty_map, List.isEmpty_eq_false_iff.2 hne,
    List.length_map, Nat.not_lt.2 hlen, hnd, decide_true, decide_false, Bool.not_true, Bool.or_false, if_false,
    Bool.false_eq_true, List.flatMap_map]

end

/-- Settles O33: each request by its checks in their order, and by what its slots read afterwards. -/
theorem keyRequests : Obligations.KeyRequests := by
  intro s rs pos id bytes r m hr hj hl d₀ named done behind answers loads fits b refused
  have hmap (n : Nat) : n ∈ rs.map (·.slot.val) ↔ named n := mem_slots_iff
  refine ⟨fun hm => act_eq_next hr (doLoadBundle_notMember hj hl hm bytes),
    fun hm => ⟨fun hlaid => act_eq_next hr (doLoadBundle_malformed hj hl hm hlaid),
      fun hlaid hset => act_eq_next hr (doLoadBundle_denied hj hl hm hlaid hset),
      fun hlaid hset hep => act_eq_next hr (doLoadBundle_stale hj hl hm hlaid hset hep),
      fun hlaid hset hep htag => act_eq_next hr (doLoadBundle_badSignature hj hl hm hlaid hset hep htag),
      fun es hlaid hset hep htag hes hel => ⟨fun hfits => ?_, fun hplace hkcv => ?_⟩⟩,
    fun hlaid hel hsig hkey hfresh haddr hid hfits => ?_, fun hne hsys p hp => ?_, fun hne hsys hstale p hp => ?_,
    fun hne hok hw => ⟨?_, fun hhalf => ⟨fun hn => ⟨fun hpos => ?_, fun hpos => ?_⟩, fun hn => ?_⟩,
      fun hm hlen hnd hseal => ?_⟩⟩
  · obtain ⟨hframe, hin, hout⟩ := d₀.loads_slots 1 0 b.bundleId (entriesLaid_nodup hel)
    refine ⟨secAnswer 0x0020 (d₀.loaded 1 0 b.bundleId es, .ok, .empty),
      act_eq_next hr ((doLoadBundle_entries hj hl hm hlaid hset hep htag hes hel).trans
        (congrArg (secAnswer 0x0020) (Dev.loadEntries_fits 1 0 _ hfits))),
      hframe.done _ .ok .empty, fun e he => ?_, fun n hn => ?_⟩
    · exact ((secAnswer_slot _ _ _ _).trans (hin e he)).trans rfl
    · exact (secAnswer_slot _ _ _ n).trans (hout n hn)
  · exact act_eq_next hr ((doLoadBundle_entries hj hl hm hlaid hset hep htag hes hel).trans
      (congrArg (secAnswer 0x0020) (Dev.loadEntries_kcvMismatch 1 0 _ hplace hkcv)))
  · obtain ⟨hframe, hin, hout⟩ := d₀.loads_slots 2 1 0 (entriesLaid_nodup hel)
    refine ⟨secAnswer 0x0021 (d₀.loaded 2 1 0 r.entries, .ok, .empty),
      act_eq_next hr ((doLoadReleased_entries hj hl hlaid hel hsig hkey hfresh haddr hid fun e he =>
        (hfits e he).1).trans (congrArg (secAnswer 0x0021) (Dev.loadEntries_fits 2 1 0 fun e he => (hfits e he).2))),
      hframe.done _ .ok .empty, fun e he => ?_, fun n hn => ?_⟩
    · exact ((secAnswer_slot _ _ _ _).trans (hin e he)).trans rfl
    · exact (secAnswer_slot _ _ _ n).trans (hout n hn)
  · obtain ⟨hswap, hcancel, hdestroy⟩ := named_denied hj hl hne hsys pos
    simp only [List.mem_cons, List.not_mem_nil, or_false] at hp
    rcases hp with rfl | rfl | rfl
    · exact act_eq_next hr hswap
    · exact act_eq_next hr hcancel
    · exact act_eq_next hr hdestroy
  · obtain ⟨hswap, hcancel, hdestroy⟩ := named_stale hj hl hne hsys hstale pos
    simp only [List.mem_cons, List.not_mem_nil, or_false] at hp
    rcases hp with rfl | rfl | rfl
    · exact act_eq_next hr hswap
    · exact act_eq_next hr hcancel
    · exact act_eq_next hr hdestroy
  · have hslot (n : Nat) := Dev.foldl_wipeSlot_slot hw (rs.map (·.slot.val)) n
    have hframe := Dev.SlotFrame.foldl Dev.wipeSlot_slotFrame (rs.map (·.slot.val)) d₀
    exact ⟨_, act_eq_next hr (doDestroy_named hj hl hne hok), hframe.key.done _ _ _,
      fun n hn => (secAnswer_slot _ _ _ n).trans <| (hslot n).trans (if_pos ((hmap n).2 hn)),
      fun n hn => (secAnswer_slot _ _ _ n).trans <| (hslot n).trans (if_neg (mt (hmap n).1 hn))⟩
  · have hslot (n : Nat) := Dev.foldl_modSlot_slot hw (f := fun x => { x with swapPos := some pos }) (fun _ => rfl)
      (rs.map (·.slot.val)) n
    have hframe := Dev.SlotFrame.foldl (fun d k => d.modSlot_slotFrame k fun x => { x with swapPos := some pos })
      (rs.map (·.slot.val)) d₀
    exact ⟨_, act_eq_next hr ((doSwap_named hj hl hne hok hhalf fun x hx => hn _ ⟨x, hx, rfl⟩).trans
      (congrArg (secAnswer 0x0023) (if_neg (Nat.not_le.2 hpos)))), hframe.key.done _ _ _,
      fun n hn => (secAnswer_slot _ _ _ n).trans <| (hslot n).trans (if_pos ((hmap n).2 hn)),
      fun n hn => (secAnswer_slot _ _ _ n).trans <| (hslot n).trans (if_neg (mt (hmap n).1 hn))⟩
  · have hframe : d₀.KeyFrame d₀ := rfl
    exact ⟨_, act_eq_next hr ((doSwap_named hj hl hne hok hhalf fun x hx => hn _ ⟨x, hx, rfl⟩).trans
      (congrArg (secAnswer 0x0023) (if_pos hpos))), hframe.done _ _ _, rfl⟩
  · have hslot (n : Nat) := Dev.foldl_modSlot_slot hw (f := fun x => { x with swapPos := none }) (fun _ => rfl)
      (rs.map (·.slot.val)) n
    have hframe := (Dev.SlotFrame.foldl (fun d k => d.modSlot_slotFrame k fun x => { x with swapPos := none })
      (rs.map (·.slot.val)) d₀).trans (Dev.raise_slotFrame _ .sec 3)
    exact ⟨_, act_eq_next hr (doCancelSwap_named hj hl hne hok hhalf fun x hx => hn _ ⟨x, hx, rfl⟩),
      hframe.key.done _ _ _,
      fun n hn => (secAnswer_slot _ _ _ n).trans <| (Dev.raise_slot _ _ _ n).trans ((hslot n).trans (if_pos ((hmap n).2 hn))),
      fun n hn => (secAnswer_slot _ _ _ n).trans <| (Dev.raise_slot _ _ _ n).trans ((hslot n).trans (if_neg (mt (hmap n).1 hn))),
      Dev.raise_shows _ .sec (by decide)⟩
  · exact act_eq_next hr (doMakeBundle_named hj hl hne hok hm id hlen hnd fun x hx => hseal _ ⟨x, hx, rfl⟩)
end Sys2Proof.Machine

/-! PROOFS. The Device Set's requests (R224–R227). -/

namespace Sys2Proof.Machine
open Sys2Proof

/-- A request of a Device Set on a Fielded device. -/
theorem Dev.serveSet_fielded {d : Dev} (hj : d.sec.job = none) (hl : d.lcs.st = .fielded) (code : BitVec 16)
    (f : Dev → Served) : d.serveSet code f = secAnswer code (f d) := by
  unfold Dev.serveSet
  rw [Dev.serve_idle hj (by rw [hl]; decide), if_pos hl]

/-- A request of a Device Set elsewhere (R362). -/
theorem Dev.serveSet_elsewhere {d : Dev} (hj : d.sec.job = none) (hl : d.lcs.st ≠ .fielded) (code : BitVec 16)
    (f : Dev → Served) : d.serveSet code f = secAnswer code (d.refuse .lifecycle) := by
  unfold Dev.serveSet
  by_cases hs : d.lcs.st = .scrapped
  · exact Dev.serve_scrapped hj hs _ _
  · rw [Dev.serve_idle hj hs, if_neg hl]

theorem Dev.serveSet_busy {d : Dev} (hj : d.sec.job.isSome = true) (code : BitVec 16) (f : Dev → Served) :
    d.serveSet code f = d.raise .sec 1 := Dev.serve_busy hj code _

/-! ## System slots -/

/-- A system slot that holds a key of the core's making. -/
def Slot.system (attr : BitVec 2) (key : B256) (gen : BitVec 12) : Slot :=
  { Slot.reset with
    loaded := true, key := key, attr := attr, gen := gen, source := 3, kcv := kcvOf key (keyLenOf attr) }

/-- Only the key slots change. -/
def Dev.SlotsOnly (d d' : Dev) : Prop := d' = { d with sec := { d.sec with slots := d'.sec.slots } }

theorem Dev.SlotsOnly.trans {a b c : Dev} (h : a.SlotsOnly b) (h' : b.SlotsOnly c) : a.SlotsOnly c := by
  unfold Dev.SlotsOnly at *
  rw [h', h]

section
variable (d : Dev) (i : Nat) (attr : BitVec 2) (key : B256)

theorem Dev.putSystem_slotsOnly : d.SlotsOnly (d.putSystem i attr key) := rfl

theorem Dev.putSystem_slot : (d.putSystem i attr key).slot i = Slot.system attr key ((d.slot i).gen + 1) :=
  Tab.get_set_self _ _ _ (Slot.ne_reset_of_loaded rfl)

theorem Dev.putSystem_slot_ne {n : Nat} (h : n ≠ i) : (d.putSystem i attr key).slot n = d.slot n :=
  Tab.get_set_ne _ _ _ h

/-- A slot holds the key that the set key derives for it. -/
def Dev.Derives (d : Dev) (set : B256) (n : Nat) : Prop := (d.slot n).loaded = true ∧ (d.slot n).key = derived set n

theorem Dev.foldl_putSystem_derives (set : B256) {l : List Nat} {n : Nat} (h : n ∈ l ∨ d.Derives set n) :
    (l.foldl (fun d i => d.putSystem i 3 (derived set i)) d).Derives set n := by
  induction l generalizing d with
  | nil => exact h.resolve_left List.not_mem_nil
  | cons j l ih =>
    rw [List.foldl_cons]
    apply ih
    by_cases hn : n = j
    · subst hn
      refine .inr ?_
      rw [Dev.Derives, Dev.putSystem_slot]
      exact ⟨rfl, rfl⟩
    · rw [Dev.Derives, Dev.putSystem_slot_ne _ _ _ _ hn]
      exact h.imp_left fun h => (List.mem_cons.1 h).resolve_left hn

theorem Dev.foldl_putSystem_slot (set : B256) {l : List Nat} {n : Nat} (h : n ∉ l) :
    (l.foldl (fun d i => d.putSystem i 3 (derived set i)) d).slot n = d.slot n := by
  induction l generalizing d with
  | nil => rfl
  | cons j l ih =>
    rw [List.mem_cons, not_or] at h
    rw [List.foldl_cons, ih _ h.2, Dev.putSystem_slot_ne _ _ _ _ h.1]

/-- A slot of the reserve's pair takes a derived key where it holds none (R325). -/
def Dev.fillReserve (d : Dev) (i : Nat) (attr : BitVec 2) (key : B256) : Dev :=
  if (d.slot i).loaded then d else d.putSystem i attr key

theorem Dev.fillReserve_slotsOnly : d.SlotsOnly (d.fillReserve i attr key) := by
  unfold Dev.fillReserve
  split <;> rfl

theorem Dev.fillReserve_slot_ne {n : Nat} (h : n ≠ i) : (d.fillReserve i attr key).slot n = d.slot n := by
  unfold Dev.fillReserve
  split
  · rfl
  · exact d.putSystem_slot_ne i attr key h

theorem Dev.fillReserve_slot :
    ((d.fillReserve i attr key).slot i).loaded = true ∧
      ((d.slot i).loaded = true → (d.fillReserve i attr key).slot i = d.slot i) := by
  unfold Dev.fillReserve
  split
  · next h => exact ⟨h, fun _ => rfl⟩
  · next h =>
    rw [Dev.putSystem_slot]
    exact ⟨rfl, fun h' => absurd h' h⟩

end

/-- The slots that the core always derives. -/
def derivedSlots : List Nat := 2 :: (List.range 11).map (· + 5)

theorem mem_derivedSlots {n : Nat} : n ∈ derivedSlots ↔ n = 2 ∨ (5 ≤ n ∧ n < 16) := by
  simp only [derivedSlots, List.mem_cons, List.mem_map, List.mem_range]
  constructor
  · rintro (h | ⟨i, hi, rfl⟩)
    · exact .inl h
    · exact .inr ⟨by omega, by omega⟩
  · rintro (h | ⟨h, h'⟩)
    · exact .inl h
    · exact .inr ⟨n - 5, by omega, by omega⟩

section
variable (d : Dev) (key : B256)

theorem Dev.deriveSlots_eq :
    d.deriveSlots key = (((derivedSlots.foldl (fun d i => d.putSystem i 3 (derived key i)) d).fillReserve 3 0
      (derived key 3)).fillReserve 4 1 (derived key 4)) := rfl

theorem Dev.deriveSlots_slotsOnly : d.SlotsOnly (d.deriveSlots key) := by
  rw [Dev.deriveSlots_eq]
  have h := foldl_frame (R := Dev.SlotsOnly) (fun _ => rfl) .trans (fun d i => d.putSystem_slotsOnly i 3 (derived key i))
    derivedSlots d
  exact (h.trans (Dev.fillReserve_slotsOnly _ _ _ _)).trans (Dev.fillReserve_slotsOnly _ _ _ _)

theorem Dev.deriveSlots_derives {n : Nat} (h : n ∈ derivedSlots) : (d.deriveSlots key).Derives key n := by
  have hn : n ≠ 3 ∧ n ≠ 4 := by
    rw [mem_derivedSlots] at h
    omega
  rw [Dev.deriveSlots_eq, Dev.Derives, Dev.fillReserve_slot_ne _ _ _ _ hn.2, Dev.fillReserve_slot_ne _ _ _ _ hn.1]
  exact d.foldl_putSystem_derives key (.inl h)

theorem Dev.deriveSlots_slot {n : Nat} (h : n ∉ derivedSlots) (h3 : n ≠ 3) (h4 : n ≠ 4) :
    (d.deriveSlots key).slot n = d.slot n := by
  rw [Dev.deriveSlots_eq, Dev.fillReserve_slot_ne _ _ _ _ h4, Dev.fillReserve_slot_ne _ _ _ _ h3,
    Dev.foldl_putSystem_slot _ _ h]

theorem Dev.deriveSlots_reserve {n : Nat} (h : n = 3 ∨ n = 4) :
    ((d.deriveSlots key).slot n).loaded = true ∧
      ((d.slot n).loaded = true → (d.deriveSlots key).slot n = d.slot n) := by
  have hfold (n : Nat) (h : n = 3 ∨ n = 4) := d.foldl_putSystem_slot key (l := derivedSlots) (n := n) (by
    rw [mem_derivedSlots]; omega)
  rw [Dev.deriveSlots_eq]
  generalize derivedSlots.foldl _ d = x at hfold ⊢
  rcases h with rfl | rfl
  · rw [Dev.fillReserve_slot_ne _ _ _ _ (by decide), ← hfold 3 (.inl rfl)]
    exact x.fillReserve_slot 3 0 (derived key 3)
  · have h4 := (x.fillReserve 3 0 (derived key 3)).fillReserve_slot 4 1 (derived key 4)
    rwa [x.fillReserve_slot_ne 3 0 (derived key 3) (n := 4) (by decide), hfold 4 (.inr rfl)] at h4

/-! ## A new set key (R226) -/

/-- The previous epoch's key moves to slot 0x01 and the new one comes to slot 0x00. -/
def Dev.setBase (d : Dev) : Dev :=
  (if (d.slot 0).loaded then d.putSystem 1 3 (d.slot 0).key else d).putSystem 0 3 key

/-- The set's slots after a new key, and what derives from it. -/
def Dev.setSlots (d : Dev) : Dev := (d.setBase key).deriveSlots key

theorem Dev.setBase_slotsOnly : d.SlotsOnly (d.setBase key) := by
  unfold Dev.setBase
  split <;> rfl

theorem Dev.setSlots_slotsOnly : d.SlotsOnly (d.setSlots key) :=
  (d.setBase_slotsOnly key).trans (Dev.deriveSlots_slotsOnly _ key)

theorem Dev.setSlots_set : ((d.setSlots key).slot 0) = Slot.system 3 key ((d.slot 0).gen + 1) := by
  unfold Dev.setSlots
  rw [Dev.deriveSlots_slot _ _ (by rw [mem_derivedSlots]; omega) (by decide) (by decide), Dev.setBase,
    Dev.putSystem_slot]
  split
  · rw [Dev.putSystem_slot_ne _ _ _ _ (by decide)]
  · rfl

theorem Dev.setSlots_previous (h : (d.slot 0).loaded = true) :
    ((d.setSlots key).slot 1) = Slot.system 3 (d.slot 0).key ((d.slot 1).gen + 1) := by
  unfold Dev.setSlots
  rw [Dev.deriveSlots_slot _ _ (by rw [mem_derivedSlots]; omega) (by decide) (by decide),
    Dev.setBase, Dev.putSystem_slot_ne _ _ _ _ (by decide), if_pos h, Dev.putSystem_slot]

theorem Dev.setBase_slot {n : Nat} (h0 : n ≠ 0) (h1 : n ≠ 1) : (d.setBase key).slot n = d.slot n := by
  rw [Dev.setBase, Dev.putSystem_slot_ne _ _ _ _ h0]
  split
  · exact Dev.putSystem_slot_ne _ _ _ _ h1
  · rfl

theorem Dev.setSlots_reserve {n : Nat} (h : n = 3 ∨ n = 4) :
    ((d.setSlots key).slot n).loaded = true ∧ ((d.slot n).loaded = true → (d.setSlots key).slot n = d.slot n) := by
  have hr := (d.setBase key).deriveSlots_reserve key h
  rwa [Dev.setBase_slot _ _ (by omega) (by omega)] at hr

theorem Dev.setSlots_content {n : Nat} (h : 16 ≤ n) : (d.setSlots key).slot n = d.slot n := by
  unfold Dev.setSlots
  rw [Dev.deriveSlots_slot _ _ (by rw [mem_derivedSlots]; omega) (by omega) (by omega),
    Dev.setBase_slot _ _ (by omega) (by omega)]

variable (m : SetMember)

theorem Dev.installSetKey_eq :
    d.installSetKey key m = ({ d.setSlots key with sec := { (d.setSlots key).sec with member := some m } } : Dev).raise .sec 5 := by
  have h : Dev.deriveSlots ((if (d.slot 0).loaded then d.putSystem 1 3 (d.slot 0).key else d).putSystem 0 3 key) key =
      d.setSlots key := by unfold Dev.setSlots Dev.setBase; rfl
  unfold Dev.installSetKey
  dsimp only
  rw [h]

/-- What founding, joining and rotating a set key leave. -/
structure Dev.Joined (d d' : Dev) (key : B256) (m : SetMember) : Prop where
  member : d'.sec.member = some m
  set : (d'.slot 0).loaded = true ∧ (d'.slot 0).key = key ∧ (d'.slot 0).source = 3
  previous : (d.slot 0).loaded = true → (d'.slot 1).loaded = true ∧ (d'.slot 1).key = (d.slot 0).key
  derives : ∀ n, n = 2 ∨ (5 ≤ n ∧ n < 16) → (d'.slot n).loaded = true ∧ (d'.slot n).key = derived key n
  reserve : ∀ n, n = 3 ∨ n = 4 → (d'.slot n).loaded = true ∧ ((d.slot n).loaded = true → d'.slot n = d.slot n)
  content : ∀ n, 16 ≤ n → d'.slot n = d.slot n
  shows : (d'.ev.get .sec).ev.getLsbD 5 = true
  frame : d' = { d with sec := d'.sec, free := d'.free, ev := d'.ev, pins := d'.pins, outbox := d'.outbox }

theorem Dev.withMember_slot (n : Nat) : ({ d with sec := { d.sec with member := some m } } : Dev).slot n = d.slot n := rfl

theorem Dev.installSetKey_slot (n : Nat) : (d.installSetKey key m).slot n = (d.setSlots key).slot n := by
  rw [Dev.installSetKey_eq, Dev.raise_slot, Dev.withMember_slot]

theorem Dev.installSetKey_frame :
    d.installSetKey key m = { d with
      sec := (d.installSetKey key m).sec, free := (d.installSetKey key m).free, ev := (d.installSetKey key m).ev,
      pins := (d.installSetKey key m).pins, outbox := (d.installSetKey key m).outbox } := by
  have h := d.setSlots_slotsOnly key
  have hr := Dev.raise_frame { d.setSlots key with sec := { (d.setSlots key).sec with member := some m } } .sec 5
  rw [← Dev.installSetKey_eq] at hr
  generalize d.installSetKey key m = e at hr ⊢
  unfold Dev.SlotsOnly at h
  generalize d.setSlots key = x at h hr
  rw [hr, h]

theorem Dev.installSetKey_joined : d.Joined (d.installSetKey key m) key m where
  member := by rw [Dev.installSetKey_eq, Dev.raise_sec]
  set := by rw [Dev.installSetKey_slot, Dev.setSlots_set]; exact ⟨rfl, rfl, rfl⟩
  previous h := by rw [Dev.installSetKey_slot, Dev.setSlots_previous d key h]; exact ⟨rfl, rfl⟩
  derives n h := by
    rw [Dev.installSetKey_slot]
    exact Dev.deriveSlots_derives _ key (mem_derivedSlots.2 h)
  reserve n h := by rw [Dev.installSetKey_slot]; exact d.setSlots_reserve key h
  content n h := by rw [Dev.installSetKey_slot]; exact d.setSlots_content key h
  shows := Dev.raise_shows _ _ (by decide)
  frame := d.installSetKey_frame key m

end

section
variable {d x : Dev} {key : B256} {m : SetMember}

theorem Dev.Joined.tick (h : d.Joined x key m) : d.Joined x.tick key m :=
  { h with
    frame := by
      show { x with free := x.free + 1 } =
        { d with sec := x.sec, free := x.free + 1, ev := x.ev, pins := x.pins, outbox := x.outbox }
      rw [h.frame] }

theorem Dev.Joined.answered (h : d.Joined x key m) (code : BitVec 16) :
    d.Joined (secAnswer code (x, .ok, .empty)) key m :=
  { h with
    frame := by
      dsimp only [secAnswer]
      rw [h.frame] }

end

/-! ## The requests -/

section
variable {d : Dev} {m : SetMember} (hj : d.sec.job = none) (hl : d.lcs.st = .fielded)
include hj hl

theorem doSetFound_founds {p : SetPolicy} (hv : p.verifies = true) (hm : d.sec.member = none)
    (hp : d.plan.active = none) (hid : p.setId ≠ 0) (ht : d.sec.trngFail = false) (root : B256) (addr : BitVec 20) :
    doSetFound root p addr d = secAnswer 0x0010 ((d.installSetKey d.random
      { setId := p.setId, epoch := 1, addr := addr, root := root, policy := p, origin := none }).tick, .ok, .empty) := by
  unfold doSetFound
  rw [Dev.serveSet_fielded hj hl]
  simp [Dev.planActive, hv, hm, hp, show ¬ p.setId = 0#32 from hid, ht]

theorem doSetJoin_joins {b : AdmissionBlob} (hm : d.sec.member = none) (ho : b.opens = true) (hs : b.sigOk = true)
    (hv : b.policy.verifies = true) (hord : AdmissionBlob.orderOk b = true) :
    doSetJoin b d = secAnswer 0x0012 (d.installSetKey b.setKey
      { setId := b.policy.setId, epoch := b.epoch, addr := b.addr, root := b.root, policy := b.policy,
        origin := b.order.map (·.origin) }, .ok, .empty) := by
  unfold doSetJoin
  rw [Dev.serveSet_fielded hj hl]
  simp [hm, ho, hs, hv, hord]

omit hj hl in
theorem AdmissionBlob.orderOk_of {b : AdmissionBlob} (hnone : b.order = none → b.epoch = 1)
    (hsome : ∀ r, b.order = some r → r.sigOk = true ∧ r.setId = b.policy.setId ∧ r.epoch = b.epoch) :
    AdmissionBlob.orderOk b = true := by
  unfold AdmissionBlob.orderOk
  split
  · next r h =>
    obtain ⟨hs, hid, hep⟩ := hsome r h
    simp [hs, hid, hep]
  · next h => simp [hnone h]

theorem doSetAdmit_notMember (hm : d.sec.member = none) (c : Candidate) (addr : BitVec 20) :
    doSetAdmit c addr d = secAnswer 0x0011 (d.refuse .notMember) := by
  unfold doSetAdmit
  rw [Dev.serveSet_fielded hj hl, hm]

variable (hm : d.sec.member = some m)
include hm

theorem doSetAdmit_admits {c : Candidate} (hf : d.admissionFails m c = []) (addr : BitVec 20) :
    doSetAdmit c addr d = secAnswer 0x0011 (d.tick, .ok, .admission addr m.epoch (d.admissionBlob m c.ide addr)
      (m.origin.map fun o => { setId := m.setId, epoch := m.epoch, origin := o, sigOk := true })) := by
  unfold doSetAdmit
  rw [Dev.serveSet_fielded hj hl]
  simp only [hm, hf]

theorem doSetAdmit_denies {c : Candidate} {row : Nat} {rows : List Nat} (hf : d.admissionFails m c = row :: rows)
    (addr : BitVec 20) : doSetAdmit c addr d = secAnswer 0x0011 (d, .denied, .deniedRow row) := by
  unfold doSetAdmit
  rw [Dev.serveSet_fielded hj hl]
  simp only [hm, hf]

theorem doSetRotate_rotates {o : RotationOrder} (hs : o.sigOk = true) (hid : o.setId = m.setId)
    (ho : o.origin = m.addr) (hep : o.epoch = m.epoch + 1) (ht : d.sec.trngFail = false) :
    doSetRotate o d = secAnswer 0x0013
      ((d.installSetKey d.random { m with epoch := o.epoch, origin := some o.origin }).tick, .ok, .empty) := by
  unfold doSetRotate
  rw [Dev.serveSet_fielded hj hl]
  simp [hm, hs, hid, ho, hep, ht]

theorem doSetRetire_retires : doSetRetire d = secAnswer 0x0014 (d.destroySlot 1, .ok, .empty) := by
  unfold doSetRetire
  rw [Dev.serveSet_fielded hj hl]
  simp [hm]

end

/-- Settles O34: founding, joining and rotating install a set key; the others answer by their checks. -/
theorem setRequests : Obligations.SetRequests := by
  intro s root p addr c b o m hr hj hl d₀ joined fails answers
  have hjoined {x : Dev} {key : B256} {y : SetMember} (h : d₀.Joined x key y) (code : BitVec 16) :
      joined (secAnswer code (x, .ok, .empty)) code key y :=
    have h := h.answered code
    ⟨rfl, h.member, h.set.1, h.set.2.1, h.set.2.2, h.previous, h.derives, h.reserve, h.content, h.shows, h.frame⟩
  refine ⟨fun hv hm hp hid ht => ?_, fun hm ho hs hv hnone hsome => ?_, fun hm => ⟨fun hf => ?_, fun row rows hf => ?_,
    fun hs hid ho hep ht => ?_, fun hw => ?_⟩, fun hm => ?_⟩
  · exact ⟨_, act_eq_next hr (doSetFound_founds hj hl hv hm hp hid ht root addr),
      hjoined (d₀.installSetKey_joined d₀.random _).tick 0x0010⟩
  · exact ⟨_, act_eq_next hr (doSetJoin_joins hj hl hm ho hs hv (AdmissionBlob.orderOk_of hnone hsome)),
      hjoined (d₀.installSetKey_joined b.setKey _) 0x0012⟩
  · exact act_eq_next hr (doSetAdmit_admits hj hl hm hf addr)
  · exact act_eq_next hr (doSetAdmit_denies hj hl hm hf addr)
  · exact ⟨_, act_eq_next hr (doSetRotate_rotates hj hl hm hs hid ho hep ht),
      hjoined (d₀.installSetKey_joined d₀.random _).tick 0x0013⟩
  · have hframe := d₀.destroySlot_slotFrame 1
    have hslot (n : Nat) := Dev.destroySlot_slot hw 1 n
    refine ⟨_, act_eq_next hr (doSetRetire_retires hj hl hm), rfl, fun h1 => ?_, fun n hn => ?_, ?_, ?_, ?_⟩
    · exact (hslot 1).trans ((if_pos rfl).trans (if_pos (by simp [Slot.holds, h1])))
    · exact (hslot n).trans (if_neg hn)
    · exact (congrArg (fun x : Dev => x.sec.member) hframe :)
    · exact (congrArg Dev.host hframe :)
    · exact (congrArg Dev.mem hframe :)
  · exact act_eq_next hr (doSetAdmit_notMember hj hl hm c addr)

end Sys2Proof.Machine

/-! PROOFS. The SEC mailbox's quotes and firmware requests, and their completion (R234, R240–R242). -/

namespace Sys2Proof.Machine
open Sys2Proof

section
variable {d : Dev} (hj : d.sec.job = none) (hl : d.lcs.st ≠ .scrapped)
include hj hl

theorem doGetQuote_eq (nonce : B256) :
    doGetQuote nonce d = secAnswer 0x0001
      ((({ d with sec := { d.sec with nonces := ((nonce, d.timeUs) :: d.sec.nonces).take 8 } } : Dev).tick), .ok,
        .quote (d.quote nonce) (d.sign (d.quote nonce).bytes)) := by
  unfold doGetQuote
  rw [Dev.serve_idle hj hl]
  rfl

theorem doGetCerts_eq : doGetCerts d = secAnswer 0x0002 (d, .ok, .certs d.orderingCode) := by
  unfold doGetCerts
  rw [Dev.serve_idle hj hl]

variable {img : FwImage}

theorem doFwStage_malformed (hw : FwImage.wellLaid img = false) :
    doFwStage img d = secAnswer 0x0030 (d.refuse .malformed) := by
  unfold doFwStage
  rw [Dev.serve_idle hj hl]
  simp [hw]

theorem doFwStage_laid (hw : FwImage.wellLaid img = true) :
    doFwStage img d = secAnswer 0x0030
      (if FwImage.verifies img = false then d.refuse .badSignature
       else if img.svn.toNat < d.fuseSvn.toNat then d.refuse .rollback
       else ({ d with sec := { d.sec with fw := { d.sec.fw with
         staged := some { target := img.target, svn := img.svn, hash := img.hash }, activated := false } } },
         .ok, .empty)) := by
  unfold doFwStage
  rw [Dev.serve_idle hj hl]
  simp [hw]

theorem doFwActivate_staged (hs : d.sec.fw.staged.isSome = true) :
    doFwActivate d = secAnswer 0x0031
      ({ d with sec := { d.sec with fw := { d.sec.fw with activated := true } } }, .ok, .empty) := by
  unfold doFwActivate
  rw [Dev.serve_idle hj hl, if_neg (by simp [Option.isNone_eq_false_iff.2 hs])]

theorem doFwActivate_empty (hs : d.sec.fw.staged = none) : doFwActivate d = secAnswer 0x0031 (d.refuse .denied) := by
  unfold doFwActivate
  rw [Dev.serve_idle hj hl, if_pos (by simp [hs])]

theorem doFwCommit_done (h : d.fwSvn.toNat ≤ d.fuseSvn.toNat) : doFwCommit d = secAnswer 0x0032 (d, .ok, .empty) := by
  unfold doFwCommit
  rw [Dev.serve_idle hj hl, if_pos (by simpa [Dev.commitNeeded] using h)]

theorem doFwCommit_begins (h : d.fuseSvn.toNat < d.fwSvn.toNat) (hroom : d.sec.fw.commits.length < 16)
    (hb : d.lcs.burning = false) : doFwCommit d = secAnswer 0x0032 (d.commitBegin, .ok, .empty) := by
  unfold doFwCommit
  rw [Dev.serve_idle hj hl, if_neg (by simpa [Dev.commitNeeded] using h), if_neg (by simpa [Dev.commitRoom] using hroom),
    if_neg (by simp [hb])]

end

/-- A request other than FW_COMMIT completes: its response stands in the window. -/
theorem doMailboxRequestDone_other {d : Dev} {j : SecJob} (hj : d.sec.job = some j) (hc : j.code ≠ 0x0032) :
    doMailboxRequestDone d = (({ d with sec :=
      { d.sec with
        job := none, rsp := some j, rspValid := true, result := BitVec.ofNat 8 (SecRes.code j.res),
        code := j.code } } : Dev).raise .sec 0).spdmWaiting := by
  have hcode : (j.code == 0x0032) = false := by simpa using hc
  have hw : d.commitWaits = false := by
    simp only [Dev.commitWaits, hj, hcode, Bool.false_and]
  unfold doMailboxRequestDone
  split
  · next h => exact absurd (h.symm.trans hj) (by simp)
  · next x h =>
    obtain rfl : x = j := Option.some.inj (h.symm.trans hj)
    rw [if_neg (by simp [hw])]
    simp only [hcode, Bool.false_and, Bool.false_eq_true, if_false]

/-- Settles O32: each request by its own checks; a busy core raises OVERRUN, and a completion posts the response. -/
theorem mailboxServes : Obligations.MailboxServes := by
  intro s nonce img o hr d out answers fw putFw
  refine ⟨fun hbusy => ⟨fun c hc => ?_, fun j hj hcode => act_eq_next hr (doMailboxRequestDone_other hj hcode)⟩,
    fun hj => ⟨fun hl => ⟨act_eq_next hr (Dev.serve_scrapped hj hl _ _), act_eq_next hr (Dev.serve_scrapped hj hl _ _)⟩,
      fun hl => ⟨act_eq_next hr (Dev.serveSet_elsewhere hj hl _ _), act_eq_next hr (Dev.serveSet_elsewhere hj hl _ _)⟩,
      fun hl => ⟨?_, act_eq_next hr (doGetCerts_eq hj hl), fun hw => act_eq_next hr (doFwStage_malformed hj hl hw),
        fun hw => ?_, fun hs => act_eq_next hr (doFwActivate_staged hj hl hs),
        fun hs => act_eq_next hr (doFwActivate_empty hj hl hs), fun h => act_eq_next hr (doFwCommit_done hj hl h),
        fun h hroom hb => act_eq_next hr (doFwCommit_begins hj hl h hroom hb)⟩⟩⟩
  · simp only [List.mem_cons, List.not_mem_nil, or_false] at hc
    rcases hc with rfl | rfl | rfl | rfl | rfl | rfl | rfl
    · exact act_eq_next hr (Dev.serve_busy hbusy _ _)
    · exact act_eq_next hr (Dev.serve_busy hbusy _ _)
    · exact act_eq_next hr (Dev.serveSet_busy hbusy _ _)
    · exact act_eq_next hr (Dev.serveSet_busy hbusy _ _)
    · exact act_eq_next hr (Dev.serve_busy hbusy _ _)
    · exact act_eq_next hr (Dev.serve_busy hbusy _ _)
    · exact act_eq_next hr (Dev.serve_busy hbusy _ _)
  · exact ⟨d.quote nonce, d.sign (d.quote nonce).bytes, act_eq_next hr (doGetQuote_eq hj hl nonce), rfl, rfl, rfl, rfl,
      (List.length_map _).trans List.length_range, rfl⟩
  · refine (act_eq_next hr (doFwStage_laid hj hl hw)).trans (congrArg out ?_)
    split
    · rfl
    · split <;> rfl

end Sys2Proof.Machine

/-! PROOFS. What counting the accesses to sealed units may change (R195–R197). -/

namespace Sys2Proof.Machine
open Sys2Proof

/-- What the counting of an access may change, its frame's own counters aside: the counters, the metadata caches and the
free choices taken. -/
def Dev.MetaFrame (d d' : Dev) : Prop :=
  d' = { d with free := d'.free, mem := { d.mem with
    meta_ := d'.mem.meta_, regions := d'.mem.regions, mcache := d'.mem.mcache } }

theorem Dev.MetaFrame.trans {a b c : Dev} (h : a.MetaFrame b) (h' : b.MetaFrame c) : a.MetaFrame c := by
  unfold Dev.MetaFrame at *
  rw [h', h]

theorem Dev.MetaFrame.foldl {α : Type} {f : Dev → α → Dev} (h : ∀ (d : Dev) (x : α), d.MetaFrame (f d x)) (l : List α)
    (d : Dev) : d.MetaFrame (l.foldl f d) := foldl_frame (R := Dev.MetaFrame) (fun _ => rfl) .trans h l d

theorem Dev.MetaFrame.append {a b : Dev} {m : MetaLine} (h : a.MetaFrame b) :
    a.MetaFrame { b with mem := { b.mem with mcache := b.mem.mcache ++ [m] } } := by
  unfold Dev.MetaFrame at *
  rw [h]

section
variable (d : Dev) (f r : Nat) (rg : PlanRegion)

theorem Dev.modUnit_metaFrame (k : Nat) (g : UnitMeta → UnitMeta) : d.MetaFrame (d.modUnit k g) := rfl

theorem Dev.setMeta_metaFrame (k : Nat) (g : UnitMeta → UnitMeta) : d.MetaFrame (d.setMeta f r k g) := rfl

theorem Dev.modRegion_metaFrame (k : Nat) (g : RegionSt → RegionSt) : d.MetaFrame (d.modRegion k g) := rfl

theorem Dev.modNode_metaFrame (level i : Nat) (g : NodeSt → NodeSt) : d.MetaFrame (d.modNode f r rg level i g) := rfl

theorem Dev.dirtyMeta_metaFrame (level i : Nat) : d.MetaFrame (d.dirtyMeta f r level i) := rfl

theorem Dev.zeroLocals_metaFrame (leaf : Nat) : d.MetaFrame (d.zeroLocals f r rg leaf) := by
  refine .foldl (fun d i => ?_) _ d
  split
  · exact d.setMeta_metaFrame f r _ _
  · rfl

theorem Dev.bumpMajor_metaFrame (level i : Nat) : d.MetaFrame (d.bumpMajor f r rg level i) := by
  unfold Dev.bumpMajor
  dsimp only
  split
  · exact (d.modNode_metaFrame f r rg level i _).trans (Dev.zeroLocals_metaFrame _ f r rg i)
  · exact d.modNode_metaFrame f r rg level i _

/-- A parent that its cache holds is dirty now; another is written back in its turn. -/
theorem Dev.MetaFrame.written {d x : Dev} (h : d.MetaFrame x) (f r : Nat) (rg : PlanRegion) (fuel level i : Nat)
    (hw : ∀ x : Dev, x.MetaFrame (Dev.writeBackMeta f r rg fuel level i x)) :
    d.MetaFrame (if x.metaHit f r level i then x.dirtyMeta f r level i
      else Dev.writeBackMeta f r rg fuel level i x) := by
  split
  · exact h.trans (x.dirtyMeta_metaFrame f r level i)
  · exact h.trans (hw x)

theorem Dev.writeBackMeta_metaFrame (fuel level i : Nat) : d.MetaFrame (Dev.writeBackMeta f r rg fuel level i d) := by
  induction fuel generalizing d level i with
  | zero => rfl
  | succ fuel ih =>
    unfold Dev.writeBackMeta
    dsimp only
    split
    · rfl
    · have hup : d.MetaFrame
          (if Tab.get 0 (d.node f r rg (level + 1) (i / 64)).minors (i % 64) = 63 then d.bumpMajor f r rg (level + 1) (i / 64)
            else d.modNode f r rg (level + 1) (i / 64) fun x =>
              { x with minors := Tab.mod 0 x.minors (i % 64) (· + 1), kg := (d.frame f).kg }) := by
        split
        · exact d.bumpMajor_metaFrame f r rg _ _
        · exact d.modNode_metaFrame f r rg _ _ _
      exact hup.written f r rg fuel _ _ (ih · _ _)

theorem Dev.fillMeta_metaFrame (level i : Nat) : d.MetaFrame (d.fillMeta f r rg level i) := by
  unfold Dev.fillMeta
  dsimp only
  split
  · rfl
  · refine Dev.MetaFrame.append ?_
    split
    · rfl
    · split
      · rfl
      · split
        · exact .trans (b := Dev.tick _) rfl (Dev.writeBackMeta_metaFrame _ _ _ _ _ _ _)
        · rfl

end
end Sys2Proof.Machine

/-! PROOFS. Epoch renewals, key swaps and rekey sweeps (R198, R200, R218–R220). -/

namespace Sys2Proof.Machine
open Sys2Proof

/-! ## What a rekey sweep keeps -/

/-- What a sweep's units leave: the plan, the keys, HBM's contents, and of each frame its KG and its wait. -/
structure Dev.SweepKept (d d' : Dev) : Prop where
  plan : d'.plan = d.plan
  sec : d'.sec = d.sec
  tide : d'.tide = d.tide
  hbm : d'.mem.hbm = d.mem.hbm
  wf : Tab.wf McxFrame.reset d'.mem.frames = true
  frame : ∀ j, (d'.frame j).kg = (d.frame j).kg ∧ (d'.frame j).rekeyWaits = (d.frame j).rekeyWaits

/-- The same where no plan asks for lockdown, in canonical form. -/
def Dev.SweepKeeps (d d' : Dev) : Prop :=
  d.lockdownPolicy = false → Tab.wf McxFrame.reset d.mem.frames = true → d.SweepKept d'

theorem Dev.SweepKeeps.refl (d : Dev) : d.SweepKeeps d := fun _ hw => ⟨rfl, rfl, rfl, rfl, hw, fun _ => ⟨rfl, rfl⟩⟩

theorem Dev.lockdownPolicy_congr {a b : Dev} (h : b.plan = a.plan) : b.lockdownPolicy = a.lockdownPolicy := by
  unfold Dev.lockdownPolicy
  rw [h]

theorem Dev.SweepKeeps.trans {a b c : Dev} (h : a.SweepKeeps b) (h' : b.SweepKeeps c) : a.SweepKeeps c := by
  intro hl hw
  have hab := h hl hw
  have hbc := h' ((Dev.lockdownPolicy_congr hab.plan).trans hl) hab.wf
  exact ⟨hbc.plan.trans hab.plan, hbc.sec.trans hab.sec, hbc.tide.trans hab.tide, hbc.hbm.trans hab.hbm, hbc.wf,
    fun j => ⟨(hbc.frame j).1.trans (hab.frame j).1, (hbc.frame j).2.trans (hab.frame j).2⟩⟩

theorem Dev.SweepKeeps.foldl {α : Type} {f : Dev → α → Dev} (h : ∀ (d : Dev) (x : α), d.SweepKeeps (f d x)) (l : List α)
    (d : Dev) : d.SweepKeeps (l.foldl f d) := foldl_frame (R := Dev.SweepKeeps) .refl .trans h l d

section
variable {d d' : Dev}

/-- A change of other parts of the device. -/
theorem Dev.SweepKeeps.of_eq (hp : d'.plan = d.plan) (hs : d'.sec = d.sec) (ht : d'.tide = d.tide)
    (hh : d'.mem.hbm = d.mem.hbm) (hf : d'.mem.frames = d.mem.frames) : d.SweepKeeps d' := fun _ hw =>
  ⟨hp, hs, ht, hh, hf ▸ hw, fun j => by unfold Dev.frame; rw [hf]; exact ⟨rfl, rfl⟩⟩

theorem Dev.MetaFrame.sweepKeeps (h : d.MetaFrame d') : d.SweepKeeps d' := by
  unfold Dev.MetaFrame at h
  rw [h]
  exact .of_eq rfl rfl rfl rfl rfl

theorem Dev.HaltFrame.sweepKeeps (h : d.HaltFrame d') : d.SweepKeeps d' := by
  unfold Dev.HaltFrame at h
  rw [h]
  exact .of_eq rfl rfl rfl rfl rfl

end

section
variable (d : Dev) (f r : Nat) (rg : PlanRegion)

theorem Dev.modFrame_frame (hw : Tab.wf McxFrame.reset d.mem.frames = true) (n j : Nat) (g : McxFrame → McxFrame) :
    (d.modFrame n g).frame j = if j = n then g (d.frame n) else d.frame j := Tab.get_mod hw n j g

theorem Dev.modFrame_sweepKeeps (n : Nat) {g : McxFrame → McxFrame}
    (hg : ∀ x, (g x).kg = x.kg ∧ (g x).rekeyWaits = x.rekeyWaits) : d.SweepKeeps (d.modFrame n g) := by
  intro _ hw
  refine ⟨rfl, rfl, rfl, rfl, Tab.mod_wf _ _ hw _ _, fun j => ?_⟩
  rw [Dev.modFrame_frame d hw]
  split
  · next h => rw [h]; exact hg _
  · exact ⟨rfl, rfl⟩

theorem Dev.raise_sweepKeeps (b : Blk) (k : Nat) : d.SweepKeeps (d.raise b k) :=
  .of_eq (d.raise_plan b k) (d.raise_sec b k) (d.raise_tide b k) (congrArg Mem.hbm (d.raise_mem b k))
    (congrArg Mem.frames (d.raise_mem b k))

theorem Dev.touchMeta_sweepKeeps (ra : Nat) (write : Bool) : d.SweepKeeps (d.touchMeta f r rg ra write) := by
  have hfill (x : Dev) : x.SweepKeeps (rg.metaLevels.reverse.foldl (fun d k => d.fillMeta f r rg k (rg.metaIdx k ra)) x) :=
    (Dev.MetaFrame.foldl (fun d k => d.fillMeta_metaFrame f r rg k _) _ x).sweepKeeps
  have hmiss : d.SweepKeeps (if rg.metaLevels.any fun k => !d.metaHit f r k (rg.metaIdx k ra) then
      d.modFrame f fun x => { x with nodeMiss := satInc x.nodeMiss } else d) := by
    split
    · exact d.modFrame_sweepKeeps f fun _ => ⟨rfl, rfl⟩
    · exact .refl d
  have hwrite (x : Dev) : x.SweepKeeps (if !write || rg.metaLevels.isEmpty then x
      else if x.metaHit f r 0 (rg.metaIdx 0 ra) then x.dirtyMeta f r 0 (rg.metaIdx 0 ra)
      else Dev.writeBackMeta f r rg 7 0 (rg.metaIdx 0 ra) x) := by
    split
    · exact .refl x
    · split
      · exact (x.dirtyMeta_metaFrame _ _ _ _).sweepKeeps
      · exact (x.writeBackMeta_metaFrame _ _ _ _ _ _).sweepKeeps
  exact (hmiss.trans (hfill _)).trans (hwrite _)

theorem Dev.countWrite_sweepKeeps (ra k : Nat) : d.SweepKeeps (d.countWrite f r rg ra k).1 := by
  have hrefused : d.SweepKeeps ((d.modFrame f fun x => { x with overrun := satInc x.overrun }).raise .mcx 3) :=
    .trans (b := d.modFrame f fun x => { x with overrun := satInc x.overrun })
      (d.modFrame_sweepKeeps f fun _ => ⟨rfl, rfl⟩) (Dev.raise_sweepKeeps _ .mcx 3)
  have hset (x : Dev) (g : UnitMeta → UnitMeta) : x.SweepKeeps (x.setMeta f r k g) := (x.setMeta_metaFrame f r k g).sweepKeeps
  have hmajor (x : Dev) (c : Prop) [Decidable c] :
      x.SweepKeeps (if c then x.bumpMajor f r rg 1 (rg.metaIdx 1 ra) else x) := by
    split
    · exact (x.bumpMajor_metaFrame f r rg _ _).sweepKeeps
    · exact .refl x
  have htouch := d.touchMeta_sweepKeeps f r rg ra true
  unfold Dev.countWrite
  dsimp only
  split
  · split
    · exact hrefused
    · dsimp only
      exact htouch.trans (hset _ _)
  · split
    · dsimp only
      exact (htouch.trans (hmajor _ _)).trans (hset _ _)
    · exact .refl d

theorem Dev.tamper_sweepKeeps : d.SweepKeeps (d.tamper f) := by
  have hcount : d.SweepKeeps ((d.raise .mcx 0).modFrame f fun x => { x with tamper := satInc x.tamper }) :=
    (d.raise_sweepKeeps .mcx 0).trans (Dev.modFrame_sweepKeeps _ f fun _ => ⟨rfl, rfl⟩)
  intro hl hw
  have hpol : ((d.raise .mcx 0).modFrame f fun x => { x with tamper := satInc x.tamper }).lockdownPolicy = false :=
    (Dev.lockdownPolicy_congr (d.raise_plan .mcx 0)).trans hl
  have hrest (x : Dev) : x.SweepKeeps (if f < 16 then (x.modFrame f fun y => { y with contained := true }).haltClr f .contained .tamper .none
      else x.modFrame f fun y => { y with contained := true }) := by
    have hc : x.SweepKeeps (x.modFrame f fun y => { y with contained := true }) := x.modFrame_sweepKeeps f fun _ => ⟨rfl, rfl⟩
    split
    · exact hc.trans (Dev.haltClr_haltFrame _ _ _ _ _).sweepKeeps
    · exact hc
  unfold Dev.tamper
  dsimp only
  rw [if_neg (by rw [hpol]; decide)]
  exact (hcount.trans (hrest _)) hl hw

theorem Dev.unitTamper_sweepKeeps (ra k : Nat) (partialW write : Bool) :
    d.SweepKeeps (d.unitTamper f r ra k partialW write) := by
  have hlatch (x : Dev) : x.SweepKeeps (x.latchErr f .tamper r 0 partialW write (ra / 64)) :=
    x.modFrame_sweepKeeps f fun y => by split <;> exact ⟨rfl, rfl⟩
  exact ((d.modUnit_metaFrame k _).sweepKeeps.trans (hlatch _)).trans (Dev.tamper_sweepKeeps _ f)

theorem Dev.sweepUnit_sweepKeeps (ra pa : Nat) : d.SweepKeeps (d.sweepUnit f r rg ra pa) := by
  unfold Dev.sweepUnit
  dsimp only
  split
  · exact .refl d
  · split
    · exact d.unitTamper_sweepKeeps f r ra _ false false
    · exact d.countWrite_sweepKeeps f r rg ra _

theorem Dev.sweepTo_sweepKeeps (upTo : Nat) : d.SweepKeeps (d.sweepTo f r upTo) := by
  unfold Dev.sweepTo
  split
  · exact .refl d
  · next rg _ =>
    split
    · exact .refl d
    · exact .foldl (fun d (x : Nat × Nat) => d.sweepUnit_sweepKeeps f r rg x.1 x.2) _ d

theorem Dev.sweepRegion_sweepKeeps : d.SweepKeeps (d.sweepRegion f r) := by
  unfold Dev.sweepRegion
  split
  · exact .refl d
  · split
    · exact .refl d
    · exact (d.sweepTo_sweepKeeps f r _).trans (Dev.modRegion_metaFrame _ _ _).sweepKeeps

theorem Dev.sweepRegions_sweepKeeps (n a b : Nat) : d.SweepKeeps (d.sweepRegions n a b) :=
  .foldl (fun d i => d.sweepRegion_sweepKeeps n (a + i)) _ d

theorem Dev.leaveBehind_sweepKeeps (n : Nat) : d.SweepKeeps (d.leaveBehind n) := .of_eq rfl rfl rfl rfl rfl

end

/-! ## Renewals (R198) -/

section
variable (d : Dev)

theorem Dev.modRegion_congr (k : Nat) {f g : RegionSt → RegionSt} (h : f (d.region k) = g (d.region k)) :
    d.modRegion k f = d.modRegion k g := by
  unfold Dev.modRegion Tab.mod
  rw [show f (Tab.get RegionSt.reset d.mem.regions k) = _ from h]
  rfl

variable {f r : Nat}

theorem doEpochRenewal_waits (h : (d.region (regKey f r)).renew = false ∨ (d.region (regKey f r)).renewAt = d.tide.count) :
    doEpochRenewal f r d = d := by
  have hdue : ¬ d.renewDue f r = true := by
    unfold Dev.renewDue
    rcases h with h | h <;> simp [h]
  exact if_neg hdue

theorem doEpochRenewal_due {rg : PlanRegion} (hp : d.planRegion f r = some rg) (hm : rg.mode ≠ 2)
    (h : (d.region (regKey f r)).renew = true) (ha : (d.region (regKey f r)).renewAt ≠ d.tide.count) :
    doEpochRenewal f r d =
      d.modRegion (regKey f r) fun x => { x with renew := false, epoch := x.epoch + 1 } := by
  have hdue : d.renewDue f r = true := by
    unfold Dev.renewDue
    simp [h, Ne.symm ha]
  have hplan : (d.modRegion (regKey f r) fun x => { x with renew := false, epoch := x.epoch + 1 }).planRegion f r = some rg := hp
  unfold doEpochRenewal
  rw [if_pos hdue]
  dsimp only
  rw [hplan]
  exact if_neg hm

theorem doMcxEpochRenew_requests {rg : PlanRegion} (hp : d.planRegion f r = some rg) (hf : f < 16) (hm : rg.mode ≠ 0)
    (h : (d.region (regKey f r)).renew = false) :
    doMcxEpochRenew f r d =
      d.modRegion (regKey f r) fun x => { x with renew := true, renewAt := d.tide.count } := by
  unfold doMcxEpochRenew
  rw [hp]
  dsimp only
  rw [if_pos (by simpa using ⟨hf, hm⟩), doEpochRenewal_waits d (.inl h)]
  exact d.modRegion_congr _ (if_neg (by simp [h]))

theorem doMcxEpochRenew_full {rg : PlanRegion} (hp : d.planRegion f r = some rg) (hm : rg.mode = 0) :
    doMcxEpochRenew f r d = d := by
  unfold doMcxEpochRenew
  rw [hp]
  exact if_neg (by simp [hm])

end

/-! ## Swaps (R218) -/

section
variable (d : Dev)

theorem Slot.swapIn_loaded (x : Slot) (keep : Bool) : (x.swapIn keep).loaded = x.loaded := by
  unfold Slot.swapIn
  split <;> rfl

theorem Slot.swapIn_shadow {x : Slot} {sh : Shadow} (h : x.shadow = some sh) (keep : Bool) :
    x.swapIn keep = { x with
      key := sh.key, kcv := sh.kcv, attr := sh.attr, owner := sh.owner, mask := sh.mask, source := sh.source,
      bundleOk := sh.bundleOk, gen := x.gen + 1,
      shadow := if keep then some { key := x.key, kcv := x.kcv, attr := x.attr, owner := x.owner, mask := x.mask,
                                    source := x.source, bundleOk := x.bundleOk } else none,
      swapPos := none, outgoing := keep } := by
  unfold Slot.swapIn
  rw [h]

theorem Dev.swapDue_loaded {s : Nat} (h : d.swapDue s = true) : (d.slot s).loaded = true := by
  unfold Dev.swapDue at h
  split at h
  · simp only [Bool.and_eq_true] at h
    exact h.2
  · cases h

theorem Dev.modSlot_slot_loaded {s : Nat} {g : Slot → Slot} (h : (g (d.slot s)).loaded = true) :
    (d.modSlot s g).slot s = g (d.slot s) := Tab.get_set_self _ _ _ (Slot.ne_reset_of_loaded h)

/-- A change of loaded slots, each named once. -/
theorem Dev.foldl_modSlot_nodup {g : Slot → Slot} (hg : ∀ x, (g x).loaded = x.loaded) {l : List Nat} (hd : l.Nodup) :
    (∀ j ∈ l, (d.slot j).loaded = true → (l.foldl (fun d s => d.modSlot s g) d).slot j = g (d.slot j)) ∧
    ∀ j, j ∉ l → (l.foldl (fun d s => d.modSlot s g) d).slot j = d.slot j := by
  induction l generalizing d with
  | nil => exact ⟨fun _ h => absurd h List.not_mem_nil, fun _ _ => rfl⟩
  | cons s l ih =>
    obtain ⟨hs, hd⟩ := List.nodup_cons.1 hd
    obtain ⟨hin, hout⟩ := ih (d.modSlot s g) hd
    refine ⟨fun j hj hl => ?_, fun j hj => ?_⟩
    · rw [List.foldl_cons]
      rcases List.mem_cons.1 hj with rfl | hj
      · rw [hout _ hs, Dev.modSlot_slot_loaded d ((hg _).trans hl)]
      · have hne : j ≠ s := fun h => hs (h ▸ hj)
        have hsame := d.modSlot_slot_ne g hne
        rw [hin j hj (by rw [hsame]; exact hl), hsame]
    · rw [List.mem_cons, not_or] at hj
      rw [List.foldl_cons, hout j hj.2, Dev.modSlot_slot_ne d g hj.1]

/-- HBM's contents and the measurements alone. -/
def Dev.ForgetFrame (d d' : Dev) : Prop :=
  d' = { d with clrs := d'.clrs, mem := { d.mem with hbm := d'.mem.hbm } }

theorem Dev.ForgetFrame.trans {a b c : Dev} (h : a.ForgetFrame b) (h' : b.ForgetFrame c) : a.ForgetFrame c := by
  unfold Dev.ForgetFrame at *
  rw [h', h]

theorem Dev.ForgetFrame.slot {a b : Dev} (h : a.ForgetFrame b) (n : Nat) : b.slot n = a.slot n := by
  unfold Dev.ForgetFrame at h
  rw [h]
  rfl

theorem Dev.ForgetFrame.frame {a b : Dev} (h : a.ForgetFrame b) (n : Nat) : b.frame n = a.frame n := by
  unfold Dev.ForgetFrame at h
  rw [h]
  rfl

theorem Dev.ClrsOnly.forgetFrame {a b : Dev} (h : a.ClrsOnly b) : a.ForgetFrame b := by
  unfold Dev.ClrsOnly Dev.ForgetFrame at *
  rw [h]

theorem Dev.forgetRegion_forgetFrame (f r : Nat) : d.ForgetFrame (d.forgetRegion f r) := rfl

/-- The pair's slots after their swap. -/
def Dev.swapSlots (slots : List Nat) : Dev := slots.foldl (fun d s => d.modSlot s (Slot.swapIn · true)) d

/-- The frame's record after its pair's swap. -/
def McxFrame.flipped (x : McxFrame) : McxFrame := { x with kg := !x.kg, rekey := true, sweepPos := 0, sweepRegion := 0 }

/-- After the slots and the frame, a swap forgets CIPHER_ONLY regions' contents, measures anew and raises KEY_SWAPPED. -/
theorem Dev.swapPair_eq (n : Nat) (slots : List Nat) :
    ∃ x, ((d.swapSlots slots).modFrame n McxFrame.flipped).ForgetFrame x ∧ d.swapPair n slots = x.raise .sec 2 := by
  refine ⟨_, ?_, rfl⟩
  have hmeasure (x : Dev) : x.ForgetFrame (slots.foldl Dev.remeasureSlot x) :=
    (foldl_frame (R := Dev.ClrsOnly) (fun _ => rfl) .trans Dev.remeasureSlot_clrsOnly slots x).forgetFrame
  refine .trans ?_ (hmeasure _)
  split
  · exact foldl_frame (R := Dev.ForgetFrame) (fun _ => rfl) .trans (fun d (r : PlanRegion × Nat) => d.forgetRegion_forgetFrame n r.2) _ _
  · rfl

theorem Dev.swapPair_frame (n : Nat) (slots : List Nat) : (d.swapPair n slots).frame n = (d.frame n).flipped := by
  obtain ⟨x, hx, h⟩ := d.swapPair_eq n slots
  have hframes : ∀ (l : List Nat) (e : Dev), (e.swapSlots l).frame n = e.frame n := by
    intro l
    induction l with
    | nil => intro e; rfl
    | cons s l ih => intro e; exact (ih (e.modSlot s (Slot.swapIn · true)))
  have hne : (d.frame n).flipped ≠ McxFrame.reset := fun h =>
    Bool.noConfusion (congrArg McxFrame.rekey h : true = false)
  have hset : ((d.swapSlots slots).modFrame n McxFrame.flipped).frame n = ((d.swapSlots slots).frame n).flipped := by
    refine Tab.get_set_self _ _ _ ?_
    rw [show Tab.get McxFrame.reset (d.swapSlots slots).mem.frames n = d.frame n from hframes slots d]
    exact hne
  rw [h, Dev.frame, Dev.raise_mem]
  rw [show Tab.get McxFrame.reset x.mem.frames n = x.frame n from rfl, hx.frame, hset, hframes slots d]

theorem Dev.swapPair_slot {slots : List Nat} (hd : slots.Nodup) (n : Nat) :
    (∀ j ∈ slots, (d.slot j).loaded = true → (d.swapPair n slots).slot j = (d.slot j).swapIn true) ∧
    ∀ j, j ∉ slots → (d.swapPair n slots).slot j = d.slot j := by
  obtain ⟨x, hx, h⟩ := d.swapPair_eq n slots
  obtain ⟨hin, hout⟩ := d.foldl_modSlot_nodup (g := (Slot.swapIn · true)) (Slot.swapIn_loaded · true) hd
  have hslot (j : Nat) : (d.swapPair n slots).slot j = (d.swapSlots slots).slot j := by
    rw [h, Dev.raise_slot, hx.slot]
    rfl
  exact ⟨fun j hj hl => (hslot j).trans (hin j hj hl), fun j hj => (hslot j).trans (hout j hj)⟩

theorem Dev.swapPair_shows (n : Nat) (slots : List Nat) : ((d.swapPair n slots).ev.get .sec).ev.getLsbD 2 = true :=
  Dev.raise_shows _ .sec (by decide)

end

/-! ## The pair of a frame -/

section
variable {a b : Dev}

/-- The pair depends on the plan and on what the slots hold. -/
theorem Dev.keySlot_congr (hp : b.plan = a.plan)
    (hs : ∀ s, (b.slot s).loaded = (a.slot s).loaded ∧ (b.slot s).held = (a.slot s).held ∧
      (b.slot s).attr = (a.slot s).attr ∧ (b.slot s).owner = (a.slot s).owner) (f : Nat) (attr : BitVec 2) :
    b.keySlot f attr = a.keySlot f attr := by
  have howner : b.ownerOf f = a.ownerOf f := by
    unfold Dev.ownerOf Dev.planClr
    rw [hp]
  have hload (s : Nat) : (b.slot s).loaded = (a.slot s).loaded := (hs s).1
  have hheld (s : Nat) : (b.slot s).held = (a.slot s).held := (hs s).2.1
  have hattr (s : Nat) : (b.slot s).attr = (a.slot s).attr := (hs s).2.2.1
  have hown (s : Nat) : (b.slot s).owner = (a.slot s).owner := (hs s).2.2.2
  unfold Dev.keySlot
  simp only [hp, howner, hload, hheld, hattr, hown]

theorem Dev.pairSlots_congr (h : ∀ attr, b.keySlot f attr = a.keySlot f attr) : b.pairSlots f = a.pairSlots f := by
  unfold Dev.pairSlots
  rw [h, h]

theorem Dev.keySlot_of_slots (hp : b.plan = a.plan) (hs : b.sec.slots = a.sec.slots) (f : Nat) (attr : BitVec 2) :
    b.keySlot f attr = a.keySlot f attr :=
  Dev.keySlot_congr hp (fun s => by unfold Dev.slot; rw [hs]; exact ⟨rfl, rfl, rfl, rfl⟩) f attr

end

/-! ## A generated replacement (R220) -/

theorem Dev.modSlot_wf {d : Dev} (hw : Tab.wf Slot.reset d.sec.slots = true) (i : Nat) (f : Slot → Slot) :
    Tab.wf Slot.reset (d.modSlot i f).sec.slots = true := Tab.mod_wf _ _ hw _ _

section
variable (d : Dev) (n : Nat)

theorem Dev.rekeyPair_slot_other {j : Nat} (h : j ∉ d.pairSlots n) : (d.rekeyPair n).slot j = d.slot j := by
  unfold Dev.rekeyPair
  split
  · next e o he ho =>
    simp only [Dev.pairSlots, he, ho, Option.toList_some, List.mem_append, List.mem_singleton, not_or] at h
    obtain ⟨hje, hjo⟩ := h
    split
    · rfl
    · split
      · rfl
      · exact (Dev.modSlot_slot_ne _ _ hjo).trans (Dev.modSlot_slot_ne _ _ hje)
  · rfl

/-- The replacement stands in both shadows, due at once. -/
theorem Dev.rekeyPair_slot {j : Nat} (hw : Tab.wf Slot.reset d.sec.slots = true) (hlen : (d.pairSlots n).length = 2)
    (ht : d.sec.trngFail = false) (hs : ∀ i ∈ d.pairSlots n, (d.slot i).shadow = none) (hj : j ∈ d.pairSlots n) :
    ((d.rekeyPair n).slot j).shadow.isSome = true ∧ ((d.rekeyPair n).slot j).swapPos = some d.tide.pos := by
  unfold Dev.pairSlots at hlen hs hj
  unfold Dev.rekeyPair
  split
  · next e o he ho =>
    simp only [he, ho, Option.toList_some, List.mem_append, List.mem_singleton] at hs hj
    rw [if_neg (by simp [hs e (.inl rfl), hs o (.inr rfl)]), if_neg (by simp [ht])]
    dsimp only
    rw [show ∀ (x : Dev), x.tick.slot j = x.slot j from fun _ => rfl, Dev.modSlot_slot (Dev.modSlot_wf hw _ _)]
    by_cases hjo : j = o
    · rw [if_pos hjo]
      exact ⟨rfl, rfl⟩
    · rw [if_neg hjo, hj.resolve_right hjo, Dev.modSlot_slot hw, if_pos rfl]
      exact ⟨rfl, rfl⟩
  · next hno =>
    exfalso
    rcases he : d.keySlot n 0 with - | e <;> rcases ho : d.keySlot n 1 with - | o
    · rw [he, ho] at hlen
      simp at hlen
    · rw [he, ho] at hlen
      simp at hlen
    · rw [he, ho] at hlen
      simp at hlen
    · exact hno e o he ho

/-- Of the frames, a replacement marks its own as waiting, at most. -/
theorem Dev.rekeyPair_frame (hw : Tab.wf McxFrame.reset d.mem.frames = true) :
    ((d.rekeyPair n).frame n).rekey = (d.frame n).rekey ∧ ((d.rekeyPair n).frame n).sweepPos = (d.frame n).sweepPos ∧
      ((d.rekeyPair n).frame n).kg = (d.frame n).kg := by
  unfold Dev.rekeyPair
  split
  · split
    · rw [Dev.modFrame_frame d hw, if_pos rfl]
      exact ⟨rfl, rfl, rfl⟩
    · split
      · exact ⟨rfl, rfl, rfl⟩
      · exact ⟨rfl, rfl, rfl⟩
  · exact ⟨rfl, rfl, rfl⟩

end

/-! ## The end of a rekey sweep (R200) -/

/-- The old key of a slot goes. -/
def Slot.oldGone (x : Slot) : Slot := if x.outgoing then { x with shadow := none, outgoing := false } else x

theorem Slot.oldGone_oldGone (x : Slot) : x.oldGone.oldGone = x.oldGone := by
  by_cases h : x.outgoing = true
  · rw [show x.oldGone = { x with shadow := none, outgoing := false } from if_pos h]
    rfl
  · rw [show x.oldGone = x from if_neg h]
    exact if_neg h

theorem Slot.oldGone_kept (x : Slot) :
    x.oldGone.loaded = x.loaded ∧ x.oldGone.held = x.held ∧ x.oldGone.attr = x.attr ∧ x.oldGone.owner = x.owner := by
  unfold Slot.oldGone
  split <;> exact ⟨rfl, rfl, rfl, rfl⟩

section
variable (d : Dev) (n : Nat)

/-- The last region has been swept. -/
def Dev.sweptWhole : Dev :=
  (d.sweepRegions n (d.frame n).sweepRegion (match d.plan.active with | some p => (p.regionsOf n).length | none => 0)).leaveBehind n

/-- The sweep's record, and the old keys, are gone. -/
def Dev.sweepClosed : Dev :=
  let e := d.modFrame n fun x => { x with rekey := false, sweepPos := 0, sweepRegion := 0, rekeyWaits := false }
  ((e.pairSlots n).foldl (fun d s => d.modSlot s Slot.oldGone) e).raise .mcx 4

theorem doRekeySweepDone_eq (h : (d.frame n).rekey = true) :
    doRekeySweepDone n none d =
      if ((d.sweptWhole n).frame n).rekeyWaits then ((d.sweptWhole n).sweepClosed n).rekeyPair n
      else (d.sweptWhole n).sweepClosed n := by
  unfold doRekeySweepDone
  rw [if_pos h]
  rfl

theorem Dev.sweptWhole_keeps : d.SweepKeeps (d.sweptWhole n) :=
  (d.sweepRegions_sweepKeeps n _ _).trans (Dev.leaveBehind_sweepKeeps _ n)

/-- The sweep's record ends. -/
def McxFrame.closed (x : McxFrame) : McxFrame :=
  { x with rekey := false, sweepPos := 0, sweepRegion := 0, rekeyWaits := false }

theorem Dev.sweepClosed_eq :
    d.sweepClosed n = ((d.pairSlots n).foldl (fun d s => d.modSlot s Slot.oldGone) (d.modFrame n McxFrame.closed)).raise .mcx 4 := by
  have h : (d.modFrame n McxFrame.closed).pairSlots n = d.pairSlots n :=
    Dev.pairSlots_congr fun attr => Dev.keySlot_of_slots rfl rfl n attr
  rw [← h]
  rfl

theorem Dev.foldl_oldGone_slotFrame (l : List Nat) :
    d.SlotFrame (l.foldl (fun d s => d.modSlot s Slot.oldGone) d) :=
  .foldl (fun d s => d.modSlot_slotFrame s Slot.oldGone) l d

theorem Dev.SlotFrame.closes {a b : Dev} (h : a.SlotFrame b) :
    b.plan = a.plan ∧ b.mem = a.mem ∧ b.tide = a.tide ∧ b.sec.trngFail = a.sec.trngFail := by
  unfold Dev.SlotFrame at h
  rw [h]
  exact ⟨rfl, rfl, rfl, rfl⟩

/-- What the end of the sweep keeps and what it closes. -/
theorem Dev.sweepClosed_frame :
    (d.sweepClosed n).plan = d.plan ∧ (d.sweepClosed n).mem = (d.modFrame n McxFrame.closed).mem ∧
      (d.sweepClosed n).tide = d.tide ∧ (d.sweepClosed n).sec.trngFail = d.sec.trngFail := by
  obtain ⟨hp, hm, ht, hr⟩ := (Dev.foldl_oldGone_slotFrame (d.modFrame n McxFrame.closed) (d.pairSlots n)).closes
  rw [Dev.sweepClosed_eq, Dev.raise_plan, Dev.raise_mem, Dev.raise_tide, Dev.raise_sec]
  exact ⟨hp, hm, ht, hr⟩

theorem Dev.sweepClosed_slot (hw : Tab.wf Slot.reset d.sec.slots = true) (j : Nat) :
    (d.sweepClosed n).slot j = if j ∈ d.pairSlots n then (d.slot j).oldGone else d.slot j := by
  rw [Dev.sweepClosed_eq, Dev.raise_slot]
  exact Dev.foldl_modSlot_slot (d := d.modFrame n McxFrame.closed) hw Slot.oldGone_oldGone _ j

theorem Dev.sweepClosed_wf (hw : Tab.wf Slot.reset d.sec.slots = true) :
    Tab.wf Slot.reset (d.sweepClosed n).sec.slots = true := by
  have h : ∀ (l : List Nat) (e : Dev), Tab.wf Slot.reset e.sec.slots = true →
      Tab.wf Slot.reset (l.foldl (fun d s => d.modSlot s Slot.oldGone) e).sec.slots = true := by
    intro l
    induction l with
    | nil => exact fun _ h => h
    | cons s l ih => exact fun e h => ih _ (Dev.modSlot_wf h s _)
  rw [Dev.sweepClosed_eq, Dev.raise_slots]
  exact h _ _ hw

theorem Dev.sweepClosed_pairSlots (hw : Tab.wf Slot.reset d.sec.slots = true) :
    (d.sweepClosed n).pairSlots n = d.pairSlots n := by
  refine Dev.pairSlots_congr fun attr => Dev.keySlot_congr (d.sweepClosed_frame n).1 (fun s => ?_) n attr
  rw [Dev.sweepClosed_slot d n hw]
  split
  · exact (d.slot s).oldGone_kept
  · exact ⟨rfl, rfl, rfl, rfl⟩

theorem Dev.sweepClosed_shows : ((d.sweepClosed n).ev.get .mcx).ev.getLsbD 4 = true := Dev.raise_shows _ .mcx (by decide)

end

/-! ## KEY_SWAP's cases -/

section
variable (d : Dev) {slot : Nat}

/-- A frame or its clearing is contained or fenced. -/
def Dev.gone (n : Nat) : Bool := (d.frame n).contained || (d.clr n).st == .fenced || (d.clr n).fencing

theorem Dev.gone_iff (n : Nat) :
    d.gone n = true ↔ ((d.frame n).contained = true ∨ (d.clr n).st = .fenced ∨ (d.clr n).fencing = true) := by
  simp [Dev.gone, or_assoc]

theorem doKeySwap_planDue (h : d.plan.due = true) : doKeySwap slot d = d := if_pos (by simp [h])

variable {d} (hdue : d.swapDue slot = true) (hplan : d.plan.due = false)
include hdue hplan

theorem doKeySwap_lone (hp : d.pairOf slot = none) :
    doKeySwap slot d =
      if (d.slotClearings slot).any d.gone then d.cancelSwapOf [slot]
      else if (d.slotClearings slot).any fun n => (d.clr n).st == .resetting then d
      else ((d.modSlot slot (Slot.swapIn · false)).remeasureSlot slot).raise .sec 2 := by
  unfold doKeySwap
  rw [if_neg (by simp [hdue, hplan]), hp]
  rfl

theorem doKeySwap_pair {n : Nat} (hp : d.pairOf slot = some n) :
    doKeySwap slot d =
      if d.gone n then d.cancelSwapOf (d.pairSlots n)
      else if (d.frame n).rekey || (d.clr n).st == .resetting || !(d.pairSlots n).all d.swapDue then d
      else d.swapPair n (d.pairSlots n) := by
  unfold doKeySwap
  rw [if_neg (by simp [hdue, hplan]), hp]
  rfl

end

/-- A cancelled swap of one slot. -/
theorem Dev.cancelSwapOf_slot {d : Dev} (hw : Tab.wf Slot.reset d.sec.slots = true) (s j : Nat) :
    (d.cancelSwapOf [s]).slot j = if j = s then { d.slot s with shadow := none, swapPos := none } else d.slot j := by
  unfold Dev.cancelSwapOf
  rw [Dev.raise_slot]
  exact Dev.modSlot_slot hw s j _

/-- A swap without a pair: its slot, the measurements and the event. -/
theorem Dev.swapLone_slot {d : Dev} {s : Nat} {sh : Shadow} (hl : (d.slot s).loaded = true)
    (hsh : (d.slot s).shadow = some sh) :
    let e := ((d.modSlot s (Slot.swapIn · false)).remeasureSlot s).raise .sec 2
    e.slot s = { d.slot s with
      key := sh.key, kcv := sh.kcv, attr := sh.attr, owner := sh.owner, mask := sh.mask, source := sh.source,
      bundleOk := sh.bundleOk, gen := (d.slot s).gen + 1, shadow := none, swapPos := none, outgoing := false } ∧
    ∀ j, j ≠ s → e.slot j = d.slot j := by
  intro e
  have hslot (j : Nat) : e.slot j = (d.modSlot s (Slot.swapIn · false)).slot j := by
    rw [Dev.raise_slot, Dev.slot, Dev.remeasureSlot_slots]
    rfl
  refine ⟨?_, fun j hj => (hslot j).trans (Dev.modSlot_slot_ne _ _ hj)⟩
  rw [hslot, Dev.modSlot_slot_loaded d (g := (Slot.swapIn · false)) ((Slot.swapIn_loaded _ _).trans hl)]
  exact Slot.swapIn_shadow hsh false

theorem Dev.swapLone_slotFrame (d : Dev) (s : Nat) :
    d.SlotFrame (((d.modSlot s (Slot.swapIn · false)).remeasureSlot s).raise .sec 2) :=
  ((d.modSlot_slotFrame s _).trans (Dev.remeasureSlot_clrsOnly _ s).slotFrame).trans (Dev.raise_slotFrame _ _ _)

/-- The end of a sweep: what its frame, its pair and the other slots then read. -/
theorem doRekeySweepDone_ends {d : Dev} {n : Nat} (hr : (d.frame n).rekey = true)
    (hf : Tab.wf McxFrame.reset d.mem.frames = true) (hw : Tab.wf Slot.reset d.sec.slots = true)
    (hl : d.lockdownPolicy = false) :
    let e := doRekeySweepDone n none d
    ((e.frame n).rekey = false ∧ (e.frame n).sweepPos = 0 ∧ (e.frame n).kg = (d.frame n).kg) ∧
    (∀ j ∈ d.pairSlots n, (d.frame n).rekeyWaits = false → (d.slot j).outgoing = true →
      e.slot j = { d.slot j with shadow := none, outgoing := false }) ∧
    (∀ j ∈ d.pairSlots n, (d.frame n).rekeyWaits = true → d.sec.trngFail = false →
      (∀ i ∈ d.pairSlots n, (d.slot i).outgoing = true) → (d.pairSlots n).length = 2 →
      (e.slot j).shadow.isSome = true ∧ (e.slot j).swapPos = some d.tide.pos) ∧
    (∀ j, j ∉ d.pairSlots n → e.slot j = d.slot j) ∧ (e.ev.get .mcx).ev.getLsbD 4 = true ∧ e.mem.hbm = d.mem.hbm := by
  intro e
  have hk := d.sweptWhole_keeps n hl hf
  have hslots : (d.sweptWhole n).sec.slots = d.sec.slots := congrArg Sec.slots hk.sec
  have hw' : Tab.wf Slot.reset (d.sweptWhole n).sec.slots = true := by rw [hslots]; exact hw
  have hpair : (d.sweptWhole n).pairSlots n = d.pairSlots n :=
    Dev.pairSlots_congr fun attr => Dev.keySlot_of_slots hk.plan hslots n attr
  obtain ⟨-, hmem, htide, htrng⟩ := (d.sweptWhole n).sweepClosed_frame n
  have hclosed (j : Nat) : ((d.sweptWhole n).sweepClosed n).slot j =
      if j ∈ d.pairSlots n then (d.slot j).oldGone else d.slot j := by
    rw [Dev.sweepClosed_slot _ n hw', hpair]
    unfold Dev.slot
    rw [hslots]
  have hcpair : ((d.sweptWhole n).sweepClosed n).pairSlots n = d.pairSlots n :=
    ((d.sweptWhole n).sweepClosed_pairSlots n hw').trans hpair
  have hcframe : ((d.sweptWhole n).sweepClosed n).frame n = ((d.sweptWhole n).frame n).closed := by
    rw [Dev.frame, hmem]
    exact ((d.sweptWhole n).modFrame_frame hk.wf n n _).trans (if_pos rfl)
  have hcwf : Tab.wf McxFrame.reset ((d.sweptWhole n).sweepClosed n).mem.frames = true := by
    rw [hmem]
    exact Tab.mod_wf _ _ hk.wf _ _
  have hhbm : ((d.sweptWhole n).sweepClosed n).mem.hbm = d.mem.hbm := by
    rw [hmem]
    exact hk.hbm
  have hshows := (d.sweptWhole n).sweepClosed_shows n
  have hout {j : Nat} (hj : (d.slot j).outgoing = true) : (d.slot j).oldGone = { d.slot j with shadow := none, outgoing := false } :=
    if_pos hj
  have he : e = _ := doRekeySweepDone_eq d n hr
  rw [(hk.frame n).2] at he
  rw [he]
  clear_value e
  by_cases hwait : (d.frame n).rekeyWaits = true
  · rw [if_pos hwait]
    have hframe := Dev.rekeyPair_frame ((d.sweptWhole n).sweepClosed n) n hcwf
    rw [hcframe] at hframe
    obtain ⟨hrk, hpos, hkg⟩ := hframe
    refine ⟨⟨hrk, hpos, hkg.trans (hk.frame n).1⟩, fun j _ h => absurd (h.symm.trans hwait) (by decide),
      fun j hj _ ht ho hlen => ?_, fun j hj => ?_, (Dev.rekeyPair_keeps _ n).ev .mcx 4 hshows, ?_⟩
    · rw [← hk.tide, ← htide]
      refine Dev.rekeyPair_slot _ n (Dev.sweepClosed_wf _ n hw') (by rw [hcpair]; exact hlen) ?_ (fun i hi => ?_)
        (by rw [hcpair]; exact hj)
      · rw [htrng, hk.sec]
        exact ht
      · rw [hcpair] at hi
        rw [hclosed, if_pos hi, hout (ho i hi)]
    · rw [Dev.rekeyPair_slot_other _ n (by rw [hcpair]; exact hj), hclosed, if_neg hj]
    · rw [Dev.rekeyPair_hbm]
      exact hhbm
  · rw [if_neg hwait, hcframe]
    refine ⟨⟨rfl, rfl, (hk.frame n).1⟩, fun j hj _ ho => ?_, fun j _ h => absurd h hwait, fun j hj => ?_, hshows, hhbm⟩
    · rw [hclosed, if_pos hj, hout ho]
    · rw [hclosed, if_neg hj]

/-- Settles O30: a renewal by its region's record, a swap by its slot's pair, and a sweep's end by what the sweep keeps. -/
theorem keysRenew : Obligations.KeysRenew := by
  intro s slot n reg hr d₀ key x y
  have hn5 : (BitVec.ofNat 5 n.val).toNat = n.val := by
    rw [BitVec.toNat_ofNat]
    exact Nat.mod_eq_of_lt (by omega)
  have hn17 : (Fin.ofNat 17 n.val).val = n.val := Nat.mod_eq_of_lt (by omega)
  refine ⟨fun rg hp => ⟨fun hm hy => ?_, fun hm => ?_, fun hy ha hm => ?_⟩, fun hy => ?_,
    fun h => act_eq_next hr (doKeySwap_planDue d₀ h), ?_, fun hk hf hw hl => ?_⟩
  · refine act_eq_next hr ?_
    rw [hn5]
    exact doMcxEpochRenew_requests d₀ hp n.isLt hm hy
  · refine act_eq_next hr ?_
    rw [hn5]
    exact doMcxEpochRenew_full d₀ hp hm
  · refine act_eq_next hr ?_
    rw [hn17]
    exact doEpochRenewal_due d₀ hp hm hy ha
  · refine act_eq_next hr ?_
    rw [hn17]
    exact doEpochRenewal_waits d₀ hy
  · intro hdue hplan gone
    have hgone (m : Nat) : d₀.gone m = true ↔ gone m := d₀.gone_iff m
    refine ⟨fun sh hpair hsh => ⟨fun hg hw => ?_, fun hg => ⟨fun hres => ?_, fun hres => ?_⟩⟩, fun hpair hg => ⟨fun h => ?_,
      fun hst hall hnd hrk => ?_⟩⟩
    · have hany : (d₀.slotClearings slot.toNat).any d₀.gone = true := by
        obtain ⟨m, hm, hg⟩ := hg
        exact List.any_eq_true.2 ⟨m, hm, (hgone m).2 hg⟩
      have hslot := Dev.cancelSwapOf_slot hw slot.toNat
      exact ⟨_, act_eq_next hr ((doKeySwap_lone hdue hplan hpair).trans (if_pos hany)),
        (hslot _).trans (if_pos rfl), fun j hj => (hslot j).trans (if_neg hj), Dev.raise_shows _ .sec (by decide)⟩
    · have hany : ¬ (d₀.slotClearings slot.toNat).any d₀.gone = true := by
        simpa using fun m hm => mt (hgone m).1 (hg m hm)
      have hstay : ((d₀.slotClearings slot.toNat).any fun n => (d₀.clr n).st == .resetting) = true := by simpa using hres
      exact act_eq_next hr ((doKeySwap_lone hdue hplan hpair).trans ((if_neg hany).trans (if_pos hstay)))
    · have hany : ¬ (d₀.slotClearings slot.toNat).any d₀.gone = true := by
        simpa using fun m hm => mt (hgone m).1 (hg m hm)
      have hstay : ¬ ((d₀.slotClearings slot.toNat).any fun n => (d₀.clr n).st == .resetting) = true := by simpa using hres
      obtain ⟨hslot, hother⟩ := Dev.swapLone_slot (Dev.swapDue_loaded d₀ hdue) hsh
      have hframe := d₀.swapLone_slotFrame slot.toNat
      refine ⟨_, act_eq_next hr ((doKeySwap_lone hdue hplan hpair).trans ((if_neg hany).trans (if_neg hstay))), hslot, hother,
        Dev.raise_shows _ .sec (by decide), ?_⟩
      generalize ((d₀.modSlot slot.toNat _).remeasureSlot _).raise _ _ = e at hframe ⊢
      unfold Dev.SlotFrame at hframe
      rw [hframe]
    · refine act_eq_next hr ((doKeySwap_pair hdue hplan hpair).trans ((if_neg (mt (hgone _).1 hg)).trans (if_pos ?_)))
      rcases h with h | h <;> simp [h]
    · obtain ⟨hin, hout⟩ := d₀.swapPair_slot hnd n.val
      refine ⟨_, act_eq_next hr ((doKeySwap_pair hdue hplan hpair).trans ((if_neg (mt (hgone _).1 hg)).trans (if_neg ?_))),
        d₀.swapPair_frame n.val _, fun j hj sh hsh => ?_, hout, d₀.swapPair_shows n.val _⟩
      · simp [hrk, hst, show (d₀.pairSlots n.val).all d₀.swapDue = true from hall]
      · have hl := Dev.swapDue_loaded d₀ (List.all_eq_true.1 hall j hj)
        rw [hin j hj hl, Slot.swapIn_shadow hsh]
        exact ⟨rfl, rfl, rfl, rfl, rfl⟩
  · obtain ⟨⟨hrk, hpos, hkg⟩, hold, hagain, hother, hshows, hhbm⟩ := doRekeySweepDone_ends hk hf hw hl
    exact ⟨_, act_eq_next hr rfl, hrk, hpos, hkg, hold, hagain, hother, hshows, hhbm⟩

end Sys2Proof.Machine

/-! PROOFS. What keeps the plan, the tide, the clearings, the fences, the life cycle and the supplies as they are. -/

namespace Sys2Proof.Machine
open Sys2Proof

/-- The plan, the tide, the clearings, the fences, the life cycle, the supplies, the temperatures and the boot's identity
stay. -/
structure Dev.Calm (d d' : Dev) : Prop where
  plan : d'.plan = d.plan
  tide : d'.tide = d.tide
  clrs : d'.clrs = d.clrs
  fences : d'.host.fences = d.host.fences
  lcs : d'.lcs = d.lcs
  pwr : d'.pwr = d.pwr
  thm : d'.thm = d.thm
  bootId : d'.dbg.bootId = d.dbg.bootId

theorem Dev.Calm.refl (d : Dev) : d.Calm d := ⟨rfl, rfl, rfl, rfl, rfl, rfl, rfl, rfl⟩

theorem Dev.Calm.trans {a b c : Dev} (h : a.Calm b) (h' : b.Calm c) : a.Calm c :=
  ⟨h'.plan.trans h.plan, h'.tide.trans h.tide, h'.clrs.trans h.clrs, h'.fences.trans h.fences, h'.lcs.trans h.lcs,
    h'.pwr.trans h.pwr, h'.thm.trans h.thm, h'.bootId.trans h.bootId⟩

theorem Dev.Calm.foldl {α : Type} {f : Dev → α → Dev} (h : ∀ (d : Dev) (x : α), d.Calm (f d x)) (l : List α) (d : Dev) :
    d.Calm (l.foldl f d) := foldl_frame (R := Dev.Calm) .refl .trans h l d

theorem Dev.Calm.ite {a b c : Dev} {p : Prop} [Decidable p] (h : a.Calm b) (g : a.Calm c) : a.Calm (if p then b else c) := by
  split
  · exact h
  · exact g

section
variable {d d' : Dev}

theorem Dev.AbortFrame.calm (h : d.AbortFrame d') : d.Calm d' := by
  unfold Dev.AbortFrame at h
  rw [h]
  exact ⟨rfl, rfl, rfl, rfl, rfl, rfl, rfl, rfl⟩

theorem Dev.MetaFrame.calm (h : d.MetaFrame d') : d.Calm d' := by
  unfold Dev.MetaFrame at h
  rw [h]
  exact ⟨rfl, rfl, rfl, rfl, rfl, rfl, rfl, rfl⟩

end

section
variable (d : Dev)

theorem Dev.raise_calm (b : Blk) (k : Nat) : d.Calm (d.raise b k) := by
  obtain ⟨e, a, o, h⟩ := d.raise_alertN b k
  rw [h]
  exact ⟨rfl, rfl, rfl, rfl, rfl, rfl, rfl, rfl⟩

theorem Dev.raiseIf_calm (c : Bool) (b : Blk) (k : Nat) : d.Calm (d.raiseIf c b k) := .ite (d.raise_calm b k) (.refl d)

theorem Dev.tick_calm : d.Calm d.tick := ⟨rfl, rfl, rfl, rfl, rfl, rfl, rfl, rfl⟩

theorem Dev.modQueue_calm (q : Nat) (f : Queue → Queue) : d.Calm (d.modQueue q f) :=
  ⟨rfl, rfl, rfl, rfl, rfl, rfl, rfl, rfl⟩

theorem Dev.modTile_calm (t : Nat) (f : TileSt → TileSt) : d.Calm (d.modTile t f) :=
  ⟨rfl, rfl, rfl, rfl, rfl, rfl, rfl, rfl⟩

theorem Dev.modObj_calm (i : Nat) (f : Obj → Obj) : d.Calm (d.modObj i f) := ⟨rfl, rfl, rfl, rfl, rfl, rfl, rfl, rfl⟩

theorem Dev.modFrame_calm (i : Nat) (f : McxFrame → McxFrame) : d.Calm (d.modFrame i f) :=
  ⟨rfl, rfl, rfl, rfl, rfl, rfl, rfl, rfl⟩

theorem Dev.modSlot_calm (i : Nat) (f : Slot → Slot) : d.Calm (d.modSlot i f) := ⟨rfl, rfl, rfl, rfl, rfl, rfl, rfl, rfl⟩

theorem Dev.modLink_calm (i : Nat) (f : Link → Link) : d.Calm (d.modLink i f) := ⟨rfl, rfl, rfl, rfl, rfl, rfl, rfl, rfl⟩

theorem Dev.modRegion_calm (i : Nat) (f : RegionSt → RegionSt) : d.Calm (d.modRegion i f) :=
  ⟨rfl, rfl, rfl, rfl, rfl, rfl, rfl, rfl⟩

/-! ## Commands and queues -/

theorem Dev.killWhere_calm (p : Nat → Cmd → Bool) (st : Status) (det : Detail) : d.Calm (d.killWhere p st det) :=
  .foldl (fun d (x : Nat × Cmd) => (d.kill_aborts x.1 x.2 st det).calm) _ d

theorem Dev.settle_calm (q : Nat) : d.Calm (d.settle q) :=
  .ite ((d.modQueue_calm q _).trans (Dev.raise_calm _ _ _)) (.refl d)

theorem Dev.disableQueue_calm (q : Nat) (det : Detail) : d.Calm (d.disableQueue q det) :=
  .ite (.refl d) (((d.modQueue_calm q _).trans (Dev.abortWhere_aborts _ _ _ _).calm).trans (Dev.settle_calm _ q))

theorem Dev.freeObjs_calm (p : Obj → Bool) : d.Calm (d.freeObjs p) :=
  .foldl (fun d (x : Nat × Obj) => d.modObj_calm x.1 _) _ d

/-! ## Memory -/

theorem Dev.touchMeta_calm (f r : Nat) (rg : PlanRegion) (ra : Nat) (write : Bool) : d.Calm (d.touchMeta f r rg ra write) := by
  have hmiss : d.Calm (if rg.metaLevels.any fun k => !d.metaHit f r k (rg.metaIdx k ra) then
      d.modFrame f fun x => { x with nodeMiss := satInc x.nodeMiss } else d) := .ite (d.modFrame_calm f _) (.refl d)
  have hfill (x : Dev) : x.Calm (rg.metaLevels.reverse.foldl (fun d k => d.fillMeta f r rg k (rg.metaIdx k ra)) x) :=
    .foldl (fun d k => (d.fillMeta_metaFrame f r rg k _).calm) _ x
  have hwrite (x : Dev) : x.Calm (if !write || rg.metaLevels.isEmpty then x
      else if x.metaHit f r 0 (rg.metaIdx 0 ra) then x.dirtyMeta f r 0 (rg.metaIdx 0 ra)
      else Dev.writeBackMeta f r rg 7 0 (rg.metaIdx 0 ra) x) :=
    .ite (.refl x) (.ite (x.dirtyMeta_metaFrame _ _ _ _).calm (x.writeBackMeta_metaFrame _ _ _ _ _ _).calm)
  exact (hmiss.trans (hfill _)).trans (hwrite _)

theorem Dev.countWrite_calm (f r : Nat) (rg : PlanRegion) (ra k : Nat) : d.Calm (d.countWrite f r rg ra k).1 := by
  have hrefused : d.Calm ((d.modFrame f fun x => { x with overrun := satInc x.overrun }).raise .mcx 3) :=
    (d.modFrame_calm f _).trans (Dev.raise_calm _ .mcx 3)
  have hset (x : Dev) (g : UnitMeta → UnitMeta) : x.Calm (x.setMeta f r k g) := (x.setMeta_metaFrame f r k g).calm
  have hmajor (x : Dev) (c : Prop) [Decidable c] : x.Calm (if c then x.bumpMajor f r rg 1 (rg.metaIdx 1 ra) else x) :=
    .ite (x.bumpMajor_metaFrame f r rg _ _).calm (.refl x)
  have htouch := d.touchMeta_calm f r rg ra true
  unfold Dev.countWrite
  dsimp only
  split
  · split
    · exact hrefused
    · dsimp only
      exact htouch.trans (hset _ _)
  · split
    · dsimp only
      exact (htouch.trans (hmajor _ _)).trans (hset _ _)
    · exact .refl d

theorem Dev.withMem_calm (m : Mem) : d.Calm { d with mem := m } := ⟨rfl, rfl, rfl, rfl, rfl, rfl, rfl, rfl⟩

theorem Dev.clearFlaw_calm (unit pa : Nat) : d.Calm (d.clearFlaw unit pa) := d.withMem_calm _

theorem Dev.writeBack_calm (key : Nat) : d.Calm (d.writeBack key) := by
  unfold Dev.writeBack
  dsimp only
  split
  · exact d.withMem_calm _
  · refine (d.withMem_calm _).trans (.foldl (fun d k => .ite (.refl d) (.ite ?_ (d.countWrite_calm _ _ _ _ _))) _ _)
    have hput : ∀ (l : List (Nat × Option Byte)) (e : Dev), e.Calm (l.foldl (fun d b => d.putHbm (key * 128 + b.1) b.2) e) :=
      fun l e => .foldl (fun d b => d.withMem_calm _) l e
    exact (d.countWrite_calm _ _ _ _ _).trans ((Dev.clearFlaw_calm _ _ _).trans (hput _ _))

theorem Dev.dropLines_calm (f : Nat) : d.Calm (d.dropLines f) := d.withMem_calm _

theorem Dev.eraseGranules_calm (gs : List Nat) : d.Calm (d.eraseGranules gs) := d.withMem_calm _

theorem Dev.formRegion_calm (f r : Nat) : d.Calm (d.formRegion f r) :=
  ((((d.eraseGranules_calm _).trans (Dev.withMem_calm _ _)).trans (Dev.modRegion_calm _ _ _)).trans (Dev.tick_calm _))

theorem Dev.formAll_calm (f : Nat) : d.Calm (d.formAll f) := by
  unfold Dev.formAll
  split
  · exact .foldl (fun d r => d.formRegion_calm f r) _ d
  · exact .refl d

theorem Dev.partition_calm (p : StandPlan) : d.Calm (d.partition p) := by
  refine .foldl (fun d i => ?_) _ d
  refine .trans ?_ (Dev.withMem_calm _ _)
  exact .ite ((Dev.Calm.foldl Dev.writeBack_calm _ d).trans (Dev.withMem_calm _ _)) (.refl d)

/-! ## Links and generations -/

theorem Dev.sendCtrl_calm (l : Nat) (m : CtrlMsg) : d.Calm (d.sendCtrl l m) := d.modLink_calm l _

theorem Dev.announce_calm (es : List RoleEntry) : d.Calm (d.announce es) :=
  .foldl (fun d l => d.sendCtrl_calm l _) _ d

theorem Dev.bumpChan_calm (e : Nat) : d.Calm (d.bumpChan e) := ⟨rfl, rfl, rfl, rfl, rfl, rfl, rfl, rfl⟩

theorem Dev.bumpGroup_calm (t : Nat) : d.Calm (d.bumpGroup t) := (d.modTile_calm _ _).trans (Dev.announce_calm _ _)

theorem Dev.topoUpdate_calm : d.Calm d.topoUpdate := by
  have hlast (h : B256) : d.Calm { d with lnk := { d.lnk with lastTopo := h } } := ⟨rfl, rfl, rfl, rfl, rfl, rfl, rfl, rfl⟩
  unfold Dev.topoUpdate
  dsimp only
  split
  · exact (hlast _).trans (Dev.raiseIf_calm _ _ _ _)
  · exact hlast _

theorem Dev.recable_calm (a p : StandPlan) : d.Calm (d.recable a p) :=
  .foldl (fun d l => (d.modLink_calm l _).trans (Dev.announce_calm _ _)) _ d

/-! ## The schedule -/

theorem Dev.withStl_calm (x : Stl) : d.Calm { d with stl := x } := ⟨rfl, rfl, rfl, rfl, rfl, rfl, rfl, rfl⟩

theorem Dev.withSched_calm (x : Sched) : d.Calm { d with sched := x } := ⟨rfl, rfl, rfl, rfl, rfl, rfl, rfl, rfl⟩

theorem Dev.reschedule_calm (p : StandPlan) (changed : BitVec 16) (pos : Nat) : d.Calm (d.reschedule p changed pos) :=
  d.withSched_calm _

theorem Dev.newSalt_calm : d.Calm d.newSalt := (d.withStl_calm _).trans (Dev.tick_calm _)

theorem Dev.carryPass_calm (shadow : Bool) : d.Calm (d.carryPass shadow) := by
  unfold Dev.carryPass
  split
  · exact .refl d
  · exact .foldl (fun d r => (d.modRegion_calm _ _).trans (Dev.withMem_calm _ _)) _ d

theorem Dev.newInterval_calm (i base : Nat) : d.Calm (d.newInterval i base) := by
  unfold Dev.newInterval
  split
  · exact .ite (d.withStl_calm _) (.refl d)
  · exact .refl d

theorem Dev.startStrand_calm (p : StandPlan) (t : PlanTemplate) (a : PlanAct) (i deadline : Nat) :
    d.Calm (d.startStrand p t a i deadline).1 := by
  have hite {b c : Dev × Bool} {q : Prop} [Decidable q] (h : d.Calm b.1) (g : d.Calm c.1) : d.Calm (if q then b else c).1 := by
    split
    · exact h
    · exact g
  have hshadow : d.Calm ((d.carryPass true).beginShadow p deadline) := (d.carryPass_calm true).trans (Dev.withStl_calm _ _)
  have hnew := d.newInterval_calm i (d.instBase t i)
  have hsave (e : Dev) : e.Calm ((e.beginSave p deadline).carryPass false) :=
    (e.withStl_calm _).trans (Dev.carryPass_calm _ false)
  unfold Dev.startStrand
  split
  · split
    · exact .trans hnew (by dsimp only; split; exacts [hsave _, .refl _])
    · refine hite (hite ((d.withStl_calm _).trans (Dev.carryPass_calm _ false)) (.refl d)) (hite hshadow (.refl d))
    · exact hite hshadow (.refl d)
  · exact hite (hite (d.withStl_calm _) (.refl d)) (.refl d)

theorem Dev.startRun_calm (p : StandPlan) (t : PlanTemplate) (a : PlanAct) (i : Nat) (late : Bool) :
    d.Calm (d.startRun p t a i late) := (d.startStrand_calm p t a i _).trans (Dev.withSched_calm _ _)

theorem Dev.startWaits_calm (p : StandPlan) (t : PlanTemplate) (a : PlanAct) : d.Calm (d.startWaits p t a) := by
  have hrun (d : Dev) (x : Sched) (w : ActWait) : d.Calm (({ d with sched := x } : Dev).startRun p t a w.inst w.late) :=
    (d.withSched_calm x).trans (Dev.startRun_calm _ p t a w.inst w.late)
  exact .foldl (fun d w => .ite (hrun d _ w) (.refl d)) _ d

theorem Dev.startDue_calm (p : StandPlan) (t : PlanTemplate) (a : PlanAct) (fuel : Nat) :
    d.Calm (Dev.startDue p t a fuel d) := by
  induction fuel generalizing d with
  | zero => exact .refl d
  | succ fuel ih =>
    have hrun (e : Dev) (c : Prop) [Decidable c] (i : Nat) (x : Sched) :
        e.Calm (if c then e.startRun p t a i false else { e with sched := x }) :=
      .ite (e.startRun_calm p t a i false) (e.withSched_calm x)
    unfold Dev.startDue
    exact .ite (((d.withSched_calm _).trans (hrun _ _ _ _)).trans (ih _)) (.refl d)

theorem Dev.startActs_calm : d.Calm d.startActs := by
  unfold Dev.startActs
  split
  · refine .ite (.foldl (fun d t => .foldl (fun d a => ?_) _ d) _ d) (.refl d)
    exact (d.startWaits_calm _ t a).trans (Dev.startDue_calm _ _ t a _)
  · exact .refl d

end

end Sys2Proof.Machine

/-! PROOFS. Plans that pass their checks, take effect, or fail at their apply mark (R62, R65–R68). -/

namespace Sys2Proof.Machine
open Sys2Proof

/-! ## What taking effect keeps -/

/-- A plan's taking effect: the fences, the life cycle and the supplies stay, the plan registers but for the granules to
overwrite, every role generation, and the state and the numerics of a clearing outside `k`; where `t` says so, the tide. -/
structure Dev.Applies (t : Prop) (k : Nat → Prop) (d d' : Dev) : Prop where
  plan : { d'.plan with overwrites := [] } = { d.plan with overwrites := [] }
  tide : t → d'.tide = d.tide
  fences : d'.host.fences = d.host.fences
  lcs : d'.lcs = d.lcs
  pwr : d'.pwr = d.pwr
  thm : d'.thm = d.thm
  bootId : d'.dbg.bootId = d.dbg.bootId
  clrs : Tab.wf Clearing.reset d.clrs = true → Tab.wf Clearing.reset d'.clrs = true ∧
    (∀ n, (d'.clr n).roleGen = (d.clr n).roleGen) ∧
    ∀ n, ¬ k n → (d'.clr n).st = (d.clr n).st ∧ (d'.clr n).num = (d.clr n).num

section
variable {t : Prop} {k : Nat → Prop} {a b c : Dev}

theorem Dev.Calm.applies (h : a.Calm b) : a.Applies t k b where
  plan := by rw [h.plan]
  tide _ := h.tide
  fences := h.fences
  lcs := h.lcs
  pwr := h.pwr
  thm := h.thm
  bootId := h.bootId
  clrs hw := by
    unfold Dev.clr
    rw [h.clrs]
    exact ⟨hw, fun _ => rfl, fun _ _ => ⟨rfl, rfl⟩⟩

theorem Dev.Applies.refl (d : Dev) : d.Applies t k d := (Dev.Calm.refl d).applies

theorem Dev.Applies.trans (h : a.Applies t k b) (h' : b.Applies t k c) : a.Applies t k c where
  plan := h'.plan.trans h.plan
  tide ht := (h'.tide ht).trans (h.tide ht)
  fences := h'.fences.trans h.fences
  lcs := h'.lcs.trans h.lcs
  pwr := h'.pwr.trans h.pwr
  thm := h'.thm.trans h.thm
  bootId := h'.bootId.trans h.bootId
  clrs hw := by
    obtain ⟨hb, hrole, hkept⟩ := h.clrs hw
    obtain ⟨hc, hrole', hkept'⟩ := h'.clrs hb
    exact ⟨hc, fun n => (hrole' n).trans (hrole n),
      fun n hn => ⟨(hkept' n hn).1.trans (hkept n hn).1, (hkept' n hn).2.trans (hkept n hn).2⟩⟩

theorem Dev.Applies.foldl {α : Type} {f : Dev → α → Dev} {l : List α} (h : ∀ (d : Dev), ∀ x ∈ l, d.Applies t k (f d x))
    (d : Dev) : d.Applies t k (l.foldl f d) := by
  induction l generalizing d with
  | nil => exact .refl d
  | cons x l ih =>
    exact (h d x List.mem_cons_self).trans (ih (fun d y hy => h d y (List.mem_cons_of_mem _ hy)) _)

theorem Dev.Applies.ite {p : Prop} [Decidable p] (h : a.Applies t k b) (g : a.Applies t k c) :
    a.Applies t k (if p then b else c) := by
  split
  · exact h
  · exact g

variable (d : Dev)

/-- A change of one clearing's record: of any of its fields where the clearing is one that changes. -/
theorem Dev.modClr_applies (n : Nat) {f : Clearing → Clearing} (hrole : ∀ x, (f x).roleGen = x.roleGen)
    (hkept : k n ∨ ∀ x, (f x).st = x.st ∧ (f x).num = x.num) : d.Applies t k (d.modClr n f) where
  plan := rfl
  tide _ := rfl
  fences := rfl
  lcs := rfl
  pwr := rfl
  thm := rfl
  bootId := rfl
  clrs hw := by
    have hclr (j : Nat) : (d.modClr n f).clr j = if j = n then f (d.clr n) else d.clr j := Tab.get_mod hw n j f
    refine ⟨Tab.mod_wf _ _ hw _ _, fun j => ?_, fun j hj => ?_⟩
    · rw [hclr]
      split
      · next h => rw [h]; exact hrole _
      · rfl
    · rw [hclr]
      split
      · next h => rw [h]; exact (hkept.resolve_left (h ▸ hj)) _
      · exact ⟨rfl, rfl⟩

theorem Dev.remeasure_applies (n : Nat) : d.Applies t k (d.remeasure n) := by
  unfold Dev.remeasure
  split
  · exact d.modClr_applies n (fun _ => rfl) (.inr fun _ => ⟨rfl, rfl⟩)
  · exact .refl d

theorem Dev.remeasureSlot_applies (s : Nat) : d.Applies t k (d.remeasureSlot s) := by
  unfold Dev.remeasureSlot
  split
  · exact .foldl (fun d n _ => .ite (d.remeasure_applies n) (.refl d)) d
  · exact .refl d

theorem Dev.remeasureAll_applies : d.Applies t k d.remeasureAll := .foldl (fun d n _ => d.remeasure_applies n) d

theorem Dev.destroySlot_applies (s : Nat) : d.Applies t k (d.destroySlot s) := by
  have hwipe : d.Applies t k (d.wipeSlot s) :=
    ((d.modSlot_calm s _).trans (Dev.raiseIf_calm _ _ _ _)).applies.trans (Dev.remeasureSlot_applies _ s)
  exact .ite (hwipe.trans (Dev.raise_calm _ _ _).applies) (.refl d)

theorem Dev.destroySlots_applies (p : Nat → Slot → Bool) : d.Applies t k (d.destroySlots p) :=
  .foldl (fun d x _ => d.destroySlot_applies x.1) d

theorem Dev.withSec_calm (x : Sec) : d.Calm { d with sec := x } := ⟨rfl, rfl, rfl, rfl, rfl, rfl, rfl, rfl⟩

theorem Dev.rebind_applies (p : StandPlan) : d.Applies t k (d.rebind p) :=
  ((d.withSec_calm _).applies.trans (Dev.destroySlots_applies _ _)).trans (Dev.withSec_calm _ _).applies

theorem Dev.openClearing_applies (n : Nat) (hn : k n) : d.Applies t k (d.openClearing n) := by
  have hopen (e : Dev) (st : ClrSt) : e.Applies t k (e.modClr n fun c => { c with st := st, oos := false }) :=
    e.modClr_applies n (fun _ => rfl) (.inl hn)
  exact ((d.formAll_calm n).applies.trans (hopen _ _)).trans (Dev.remeasure_applies _ n)

/-! ## A changed clearing (R68) -/

theorem Dev.withOverwrites_applies (x : List (Nat × Nat)) :
    d.Applies t k { d with plan := { d.plan with overwrites := x } } :=
  ⟨rfl, fun _ => rfl, rfl, rfl, rfl, rfl, rfl, fun hw => ⟨hw, fun _ => rfl, fun _ _ => ⟨rfl, rfl⟩⟩⟩

theorem Dev.withFlt_calm (x : Flt) : d.Calm { d with flt := x } := ⟨rfl, rfl, rfl, rfl, rfl, rfl, rfl, rfl⟩

theorem Dev.logEvent_calm (type : Byte) (n : Nat) (engine : BitVec 16) (status : Byte) (info : BitVec 64) :
    d.Calm (d.logEvent type n engine status info) := d.withFlt_calm _

theorem Dev.renewRegions_calm (a p : StandPlan) (n : Nat) : d.Calm (d.renewRegions a p n) := by
  refine .foldl (fun d r => ?_) _ d
  exact .ite (.refl d) ((d.freeObjs_calm _).trans (.ite (Dev.formRegion_calm _ n r) (Dev.modRegion_calm _ _ _)))

theorem Dev.startScrub_applies (n : Nat) (hn : k n) (owner : BitVec 6) (gs tiles : List Nat) :
    d.Applies t k (d.startScrub n owner gs tiles) := by
  have hscrub : d.Applies t k (d.modClr n fun c =>
      { c with st := .scrubbing, measure := 0, scrubOwner := owner, scrubGs := gs, scrubTiles := tiles, oos := false,
               engResets := [], clrResets := [] }) :=
    d.modClr_applies n (fun _ => rfl) (.inl hn)
  exact hscrub.trans ((Dev.dropLines_calm _ n).trans (Dev.modFrame_calm _ n _)).applies

theorem Dev.changeClr_applies (a p : StandPlan) (n : Nat) (hn : k n) : d.Applies t k (d.changeClr a p n) := by
  have hreset (e : Dev) : e.Applies t k (e.modClr n fun x =>
      { x with st := .resetting, measure := 0, oos := false, engResets := [], clrResets := [] }) :=
    e.modClr_applies n (fun _ => rfl) (.inl hn)
  have hnum (e : Dev) : e.Applies t k (e.modClr n fun x =>
      { x with num := Num.reset, memHit := 0, memMiss := 0, memFar := 0, memNarrow := 0 }) :=
    e.modClr_applies n (fun _ => rfl) (.inl hn)
  have hwipe (e : Dev) (l : List Nat) : e.Calm (l.foldl Dev.wipeTile e) :=
    .foldl (fun d t => d.modTile_calm t _) l e
  have hkeeps (e : Dev) (l : List Nat) : e.Calm
      (((l.foldl Dev.wipeTile (e.dropLines n)).renewRegions a p n).logEvent 0x04 n 0xFFFF 1 0 |>.raise .flt 1) :=
    ((((e.dropLines_calm n).trans (hwipe _ l)).trans (Dev.renewRegions_calm _ a p n)).trans
      (Dev.logEvent_calm _ _ _ _ _ _)).trans (Dev.raise_calm _ _ _)
  have hends (e : Dev) (l : List Nat) : e.Applies t k (e.endEngineResets n l) := (e.withFlt_calm _).applies
  unfold Dev.changeClr
  dsimp only
  split
  · exact d.withOverwrites_applies _
  · exact (d.withOverwrites_applies _).trans (Dev.openClearing_applies _ n hn)
  · refine .ite ?_ ?_
    · exact (((d.withOverwrites_applies _).trans (hends _ _)).trans (hreset _)).trans (hkeeps _ _).applies
    · exact ((((d.withOverwrites_applies _).trans (hends _ _)).trans (Dev.freeObjs_calm _ _).applies).trans (hnum _)).trans
        (Dev.startScrub_applies _ n hn _ _ _)

/-! ## The active plan -/

/-- The plan registers once a plan is active. -/
def PlanRegs.activated (x : PlanRegs) (p : StandPlan) : PlanRegs :=
  { x with active := some p, armed := none, st := .active, changed := 0, due := false, held := p.report.getLsbD 3 }

theorem Dev.tapLeaves_calm : d.Calm d.tapLeaves := .ite ⟨rfl, rfl, rfl, rfl, rfl, rfl, rfl, rfl⟩ (.refl d)

theorem Dev.activate_calm (p : StandPlan) : ({ d with plan := d.plan.activated p } : Dev).Calm (d.activate p) := by
  have hqueues (e : Dev) (l : Tab Queue) : e.Calm (l.foldl (fun d q => d.disableQueue q.1 .queueDisabled) e) :=
    .foldl (fun d (q : Nat × Queue) => d.disableQueue_calm q.1 _) l e
  have hbench (e : Dev) (c : Prop) [Decidable c] (x : Sec) : e.Calm (if c then { e with sec := x } else e) :=
    .ite (e.withSec_calm x) (.refl e)
  exact ((((Dev.partition_calm _ p).trans (Dev.tapLeaves_calm _)).trans (hqueues _ _)).trans (hbench _ _ _)).trans
    (Dev.raise_calm _ _ _)

/-! ## A replacement at its mark (R68) -/

/-- A change of the tide's registers. -/
theorem Dev.withTide_applies (x : Tide) : d.Applies False k { d with tide := x } :=
  ⟨rfl, False.elim, rfl, rfl, rfl, rfl, rfl, fun hw => ⟨hw, fun _ => rfl, fun _ _ => ⟨rfl, rfl⟩⟩⟩

/-- A clearing under its next role generation. -/
def Clearing.bumped (c : Clearing) : Clearing := { c with roleGen := c.roleGen + 1 }

theorem Dev.bumpClr_calm (n : Nat) : (d.modClr n Clearing.bumped).Calm (d.bumpClr n) :=
  ((Dev.Calm.foldl Dev.bumpChan_calm (channels n) _).trans (Dev.announce_calm _ _)).trans
    (.foldl Dev.bumpGroup_calm _ _)

/-- The role generations of the changed clearings move on; nothing else of a plan's taking effect does. -/
structure Dev.Bumps (ns : List Nat) (d d' : Dev) : Prop where
  plan : d'.plan = d.plan
  fences : d'.host.fences = d.host.fences
  lcs : d'.lcs = d.lcs
  pwr : d'.pwr = d.pwr
  thm : d'.thm = d.thm
  bootId : d'.dbg.bootId = d.dbg.bootId
  wf : Tab.wf Clearing.reset d'.clrs = true
  clr : ∀ n, d'.clr n = if n ∈ ns then (d.clr n).bumped else d.clr n

theorem Dev.foldl_bumpClr {ns : List Nat} (hd : ns.Nodup) (hw : Tab.wf Clearing.reset d.clrs = true) :
    d.Bumps ns (ns.foldl Dev.bumpClr d) := by
  induction ns generalizing d with
  | nil => exact ⟨rfl, rfl, rfl, rfl, rfl, rfl, hw, fun n => by rw [if_neg List.not_mem_nil]; rfl⟩
  | cons m ns ih =>
    obtain ⟨hm, hd⟩ := List.nodup_cons.1 hd
    have hb := d.bumpClr_calm m
    have hclr (n : Nat) : (d.bumpClr m).clr n = if n = m then (d.clr m).bumped else d.clr n := by
      rw [Dev.clr, hb.clrs]
      exact Tab.get_mod hw m n Clearing.bumped
    have hi := ih (d.bumpClr m) hd (by rw [hb.clrs]; exact Tab.mod_wf _ _ hw m Clearing.bumped)
    rw [List.foldl_cons]
    refine ⟨hi.plan.trans hb.plan, hi.fences.trans hb.fences, hi.lcs.trans hb.lcs, hi.pwr.trans hb.pwr,
      hi.thm.trans hb.thm, hi.bootId.trans hb.bootId, hi.wf, fun n => ?_⟩
    rw [hi.clr, hclr]
    by_cases hn : n = m
    · subst hn
      rw [if_neg hm, if_pos rfl, if_pos List.mem_cons_self]
    · rw [if_neg hn]
      simp only [List.mem_cons, hn, false_or]

theorem Dev.takeRole_applies (p : StandPlan) : d.Applies False k (d.takeRole p) := d.withTide_applies _

theorem Dev.Calm.bumps {ns : List Nat} (h : a.Calm b) (h' : b.Bumps ns c) : a.Bumps ns c :=
  ⟨h'.plan.trans h.plan, h'.fences.trans h.fences, h'.lcs.trans h.lcs, h'.pwr.trans h.pwr, h'.thm.trans h.thm,
    h'.bootId.trans h.bootId, h'.wf, fun n => by rw [h'.clr]; unfold Dev.clr; rw [h.clrs]⟩

theorem Dev.Bumps.calm {ns : List Nat} (h : a.Bumps ns b) (h' : b.Calm c) : a.Bumps ns c :=
  ⟨h'.plan.trans h.plan, h'.fences.trans h.fences, h'.lcs.trans h.lcs, h'.pwr.trans h.pwr, h'.thm.trans h.thm,
    h'.bootId.trans h.bootId, h'.clrs ▸ h.wf, fun n => by rw [← h.clr]; unfold Dev.clr; rw [h'.clrs]⟩

/-- The clearings that a replacement changes. -/
def Dev.changes (d : Dev) : List Nat := (List.range 16).filter d.plan.changed.getLsbD

/-- The commands of the changed clearings have ended, their generations have moved on and their lines are gone. -/
def Dev.cleared (d : Dev) (a : StandPlan) : Dev :=
  d.changes.foldl Dev.dropLines (d.changes.foldl Dev.bumpClr (d.killWhere (fun q _ => match a.queueClr q with
    | some n => d.plan.changed.getLsbD n
    | none => false) .aborted .clearingHalted))

theorem Dev.cleared_bumps (a : StandPlan) (hw : Tab.wf Clearing.reset d.clrs = true) : d.Bumps d.changes (d.cleared a) := by
  have hkill := d.killWhere_calm (fun q _ => match a.queueClr q with
    | some n => d.plan.changed.getLsbD n
    | none => false) .aborted .clearingHalted
  have hbump := Dev.foldl_bumpClr (ns := d.changes) _ (List.nodup_range.filter _) (hkill.clrs ▸ hw)
  exact (hkill.bumps hbump).calm (.foldl Dev.dropLines_calm _ _)

/-- After the commands, generations and lines of the changed clearings, and the plan's activation, a replacement touches
the changed clearings alone. -/
theorem Dev.applyReplacement_applies (a p : StandPlan) :
    ({ d.cleared a with plan := (d.cleared a).plan.activated p } : Dev).Applies False (· ∈ d.changes)
      (d.applyReplacement a p) := by
  have hrole (e : Dev) (c : Prop) [Decidable c] : e.Applies False (· ∈ d.changes) (if c then e.takeRole p else e) :=
    .ite (e.takeRole_applies p) (.refl e)
  have hstl (e : Dev) (c : Prop) [Decidable c] (x : Stl) :
      e.Applies False (· ∈ d.changes) (if c then { e with stl := x } else e) := .ite (e.withStl_calm x).applies (.refl e)
  have hchange (e : Dev) : e.Applies False (· ∈ d.changes) (d.changes.foldl (fun d n => d.changeClr a p n) e) :=
    .foldl (fun d n hn => d.changeClr_applies a p n hn) e
  have hend (e : Dev) : e.Applies False (· ∈ d.changes) (e.newSalt.rebind p).remeasureAll.topoUpdate :=
    ((e.newSalt_calm.applies.trans (Dev.rebind_applies _ p)).trans (Dev.remeasureAll_applies _)).trans
      (Dev.topoUpdate_calm _).applies
  have hlinks (e : Dev) (x : BitVec 16) (n : Nat) : e.Applies False (· ∈ d.changes) ((e.reschedule p x n).recable a p) :=
    ((e.reschedule_calm p x n).trans (Dev.recable_calm _ a p)).applies
  exact (((((((Dev.cleared d a).activate_calm p).applies.trans (hrole _ _)).trans (hstl _ _ _)).trans (hchange _)).trans
    (hlinks _ _ _)).trans (Dev.withTide_applies _ _)).trans (hend _)

end

/-! ## The first plan (R66) -/

section
variable (d : Dev)

/-- What every plan that takes effect first leaves after its role is taken. -/
def Dev.opened (d : Dev) (p : StandPlan) : Dev :=
  let d := (d.activate p).takeRole p
  { d with sched := Sched.reset, tide := { d.tide with firstSeen := false, split := false, lost := false } }

/-- The device of a first plan once its reserve's regions are formed and its salt is drawn. -/
def Dev.salted (d : Dev) (p : StandPlan) : Dev :=
  let d := (List.range 16).foldl (fun d n => if (p.clr n).isSome then d.openClearing n else d) (d.opened p)
  let d : Dev := { d with stl := { d.stl with
    interval := match p.strandline with | some s => s.tauMinSteps.setWidth 32 | none => 0, i0 := 0 } }
  (d.formAll 16).newSalt

theorem Dev.salted_applies (p : StandPlan) : (d.opened p).Applies True (fun _ => True) (d.salted p) := by
  have hopen (e : Dev) (l : List Nat) :
      e.Applies True (fun _ => True) (l.foldl (fun d n => if (p.clr n).isSome then d.openClearing n else d) e) :=
    .foldl (fun d n _ => .ite (d.openClearing_applies n trivial) (.refl d)) e
  exact (hopen _ _).trans (((Dev.withStl_calm _ _).trans (Dev.formAll_calm _ 16)).trans (Dev.newSalt_calm _)).applies

theorem Dev.salted_fullNext (p : StandPlan) : (d.salted p).stl.fullNext = true := rfl

theorem Dev.applyFirst_applies (p : StandPlan) : (d.opened p).Applies True (fun _ => True) (d.applyFirst p) :=
  (d.salted_applies p).trans ((Dev.rebind_applies _ p).trans (Dev.topoUpdate_calm _).applies)

theorem Dev.rebind_stl (p : StandPlan) : (d.rebind p).stl = d.stl := by
  have h := Dev.destroySlots_slotFrame { d with sec := { d.sec with
    slots := Tab.each Slot.reset d.sec.slots fun _ x => { x with held := false } } }
    fun s x => 16 ≤ s && !x.held && !Dev.leaving { d with sec := { d.sec with
      slots := Tab.each Slot.reset d.sec.slots fun _ x => { x with held := false } } } x &&
        (!slotNamed p s || !bindingFits p x.attr x.owner x.mask)
  exact (congrArg Dev.stl h :)

theorem Dev.topoUpdate_stl : d.topoUpdate.stl = d.stl := by
  unfold Dev.topoUpdate
  dsimp only
  split
  · rw [Dev.raiseIf_frame]
  · rfl

theorem Dev.applyFirst_fullNext (p : StandPlan) : (d.applyFirst p).stl.fullNext = true := by
  have h : (d.applyFirst p).stl = (d.salted p).stl := (Dev.topoUpdate_stl _).trans (Dev.rebind_stl _ p)
  rw [h, Dev.salted_fullNext]

/-- What the first plan's taking effect leaves. -/
theorem Dev.applyFirst_takes (p : StandPlan) :
    { (d.applyFirst p).plan with overwrites := [] } = { d.plan.activated p with overwrites := [] } ∧
      (d.applyFirst p).tide.parent = p.tide.parent ∧
      (d.applyFirst p).tide.isSource = (p.tide.role == 1 || p.tide.role == 2) ∧
      (d.applyFirst p).tide.firstSeen = false ∧ (d.applyFirst p).lcs = d.lcs ∧ (d.applyFirst p).pwr = d.pwr ∧
      (d.applyFirst p).thm = d.thm := by
  have h := d.applyFirst_applies p
  have ha := d.activate_calm p
  have hplan : (d.opened p).plan = d.plan.activated p := ha.plan
  have htide := h.tide trivial
  refine ⟨by rw [h.plan, hplan], ?_, ?_, ?_, h.lcs.trans ha.lcs, h.pwr.trans ha.pwr, h.thm.trans ha.thm⟩
  · rw [htide]; rfl
  · rw [htide]; rfl
  · rw [htide]; rfl

end

/-! ## PLAN_CHECK (R62, R65) -/

section
variable {d : Dev} {p : StandPlan} {v : PlanVerdict}

theorem doPlanCheck_idle (h : d.plan.st ≠ .fetching) : doPlanCheck p v d = d := if_pos h

variable (hf : d.plan.st = .fetching)
include hf

theorem doPlanCheck_early {r : Byte × Place} (h : firstReject (d.checkEarly p v) = some r) :
    doPlanCheck p v d = d.loadFails r.1 r.2 := by
  unfold doPlanCheck
  rw [if_neg (by simp [hf]), h]

variable (he : firstReject (d.checkEarly p v) = none)
include he

theorem doPlanCheck_conflict {a b : Claim} {cls idx : Nat} (h : p.conflict = some (a, b, cls, idx)) :
    doPlanCheck p v d =
      { d.loadFails 0x0C b.place with plan := { (d.loadFails 0x0C b.place).plan with
          confA := BitVec.ofNat 32 (a.section_ + 65536 * a.entry),
          confB := BitVec.ofNat 32 (b.section_ + 65536 * b.entry), confRes := BitVec.ofNat 32 (cls + 256 * idx) } } := by
  unfold doPlanCheck
  rw [if_neg (by simp [hf]), he, h]

variable (hc : p.conflict = none)
include hc

theorem doPlanCheck_late {r : Byte × Place} (h : firstReject (d.checkLate p) = some r) :
    doPlanCheck p v d = d.loadFails r.1 r.2 := by
  unfold doPlanCheck
  rw [if_neg (by simp [hf]), he, hc]
  dsimp only
  rw [h]

theorem doPlanCheck_arms (h : firstReject (d.checkLate p) = none) : doPlanCheck p v d = d.armPlan p := by
  unfold doPlanCheck
  rw [if_neg (by simp [hf]), he, hc]
  dsimp only
  rw [h]

end

/-- The device of an armed plan. -/
def Dev.armed (d : Dev) (p : StandPlan) (changed : BitVec 16) : Dev :=
  Dev.loadDone { d with
    plan := { d.plan with st := .armed, armed := some p, changed := changed, takeoverLoad := d.takeoverLoading, due := false },
    tide := { d.tide with split := false, firstSeen := d.tide.firstSeen && !d.tide.split } } 0 (0, 0)

theorem Dev.armed_frame (d : Dev) (p : StandPlan) (changed : BitVec 16) :
    d.armed p changed = { d with
      plan := { d.plan with
        st := .armed, armed := some p, changed := changed, takeoverLoad := d.takeoverLoading, due := false, reason := 0,
        section_ := 0, entry := 0, confA := 0, confB := 0, confRes := 0 },
      tide := { d.tide with split := false, firstSeen := d.tide.firstSeen && !d.tide.split },
      ev := (d.armed p changed).ev, pins := (d.armed p changed).pins, outbox := (d.armed p changed).outbox } :=
  Dev.raise_frame _ .plan 0

theorem Dev.armPlan_beside {d : Dev} {a : StandPlan} (h : d.plan.active = some a) (p : StandPlan) :
    d.armPlan p = d.armed p (changedMask a p d.takeoverLoading) := by
  have hactive : (d.armed p (changedMask a p d.takeoverLoading)).plan.active = some a :=
    (congrArg (fun x : Dev => x.plan.active) (d.armed_frame p _) :).trans h
  unfold Dev.armPlan
  rw [h]
  change (match (d.armed p (changedMask a p d.takeoverLoading)).plan.active with
    | some _ => d.armed p (changedMask a p d.takeoverLoading)
    | none => (d.armed p (changedMask a p d.takeoverLoading)).applyFirst p) = _
  rw [hactive]

theorem Dev.armPlan_first {d : Dev} (h : d.plan.active = none) (p : StandPlan) :
    d.armPlan p = (d.armed p 0).applyFirst p := by
  have hactive : (d.armed p 0).plan.active = none := (congrArg (fun x : Dev => x.plan.active) (d.armed_frame p _) :).trans h
  unfold Dev.armPlan
  rw [h]
  change (match (d.armed p 0).plan.active with
    | some _ => d.armed p 0
    | none => (d.armed p 0).applyFirst p) = _
  rw [hactive]

/-- A frame read off a change of the plan registers and the events. -/
theorem Dev.plan_frame {d d' : Dev} {x : PlanRegs} {e : Events} {pins : Pins} {o : List Output}
    (h : d' = { d with plan := x, ev := e, pins := pins, outbox := o }) :
    d'.plan = x ∧ d' = { d with plan := d'.plan, ev := d'.ev, pins := d'.pins, outbox := d'.outbox } := by
  subst h
  exact ⟨rfl, rfl⟩

theorem Dev.plan_tide_frame {d d' : Dev} {x : PlanRegs} {y : Tide} {e : Events} {pins : Pins} {o : List Output}
    (h : d' = { d with plan := x, tide := y, ev := e, pins := pins, outbox := o }) :
    d'.plan = x ∧ d' = { d with plan := d'.plan, tide := d'.tide, ev := d'.ev, pins := d'.pins, outbox := d'.outbox } := by
  subst h
  exact ⟨rfl, rfl⟩

/-- A conflict's refusal records both claimants and the resource (R62). -/
theorem Dev.conflict_frame (d : Dev) (at_ : Place) (a b res : Word) :
    ({ d.loadFails 0x0C at_ with plan := { (d.loadFails 0x0C at_).plan with confA := a, confB := b, confRes := res } } : Dev) =
      { d with
        plan := { d.plan with
          st := .failed, armed := none, changed := 0, due := false, reason := 0x0C,
          section_ := BitVec.ofNat 8 at_.1, entry := BitVec.ofNat 16 at_.2, confA := a, confB := b, confRes := res },
        ev := (d.loadFails 0x0C at_).ev, pins := (d.loadFails 0x0C at_).pins, outbox := (d.loadFails 0x0C at_).outbox } := by
  have h := d.loadFails_frame 0x0C at_
  generalize d.loadFails 0x0C at_ = e at h ⊢
  rw [h]

/-- Settles O10: the first failing check by the checks' order; a plan that passes is armed, or takes effect at once. -/
theorem planCheckOutcome : Obligations.PlanCheckOutcome := by
  have hexec (s : State) (raw : List Byte) (x : PlanFields) (hr : s.dev.running = true) :
      exec (.planCheck raw x) s = .next { s with
        dev := doPlanCheck (readPlan raw x) (planVerdict (readPlan raw x) (s.dev.sec.member.map (·.root))) s.dev } := by
    dsimp only [exec, execPlanCheck]
    exact act_eq_next hr rfl
  refine ⟨fun s raw x hr => ⟨hexec s raw x hr, fun h => (hexec s raw x hr).trans ?_⟩, ?_⟩
  · rw [doPlanCheck_idle h]
  intro d₀ p v hf d refused clear early late
  refine ⟨fun r h => ?_, fun a b cls idx he hc => ?_, fun r he hc hl => ?_, fun he hc hl => ⟨fun a ha => ?_, fun ha => ?_⟩⟩
  · have hd : d = _ := (doPlanCheck_early hf h).trans (d₀.loadFails_frame r.1 r.2)
    exact Dev.plan_frame hd
  · have hd : d = _ := (doPlanCheck_conflict hf he hc).trans (d₀.conflict_frame b.place _ _ _)
    exact Dev.plan_frame hd
  · have hd : d = _ := (doPlanCheck_late hf he hc hl).trans (d₀.loadFails_frame r.1 r.2)
    exact Dev.plan_frame hd
  · have hd : d = _ := ((doPlanCheck_arms hf he hc hl).trans (Dev.armPlan_beside ha p)).trans (d₀.armed_frame p _)
    exact Dev.plan_tide_frame hd
  · have hd : d = _ := (doPlanCheck_arms hf he hc hl).trans (Dev.armPlan_first ha p)
    have hframe := d₀.armed_frame p 0
    obtain ⟨hplan, hparent, hsource, hseen, hlcs, hpwr, hthm⟩ := (d₀.armed p 0).applyFirst_takes p
    have hfull := (d₀.armed p 0).applyFirst_fullNext p
    rw [hd]
    refine ⟨?_, ?_, ?_, ?_, ?_, ?_, hparent, hsource, hseen, hfull, ?_, ?_, ?_⟩
    · exact (congrArg PlanRegs.active hplan :)
    · exact (congrArg PlanRegs.armed hplan :)
    · exact (congrArg PlanRegs.st hplan :)
    · exact (congrArg PlanRegs.changed hplan :)
    · exact ((congrArg PlanRegs.reason hplan :) : _).trans (congrArg (fun x : Dev => x.plan.reason) hframe :)
    · exact (congrArg PlanRegs.held hplan :)
    · exact hlcs.trans (congrArg Dev.lcs hframe :)
    · exact hpwr.trans (congrArg Dev.pwr hframe :)
    · exact hthm.trans (congrArg Dev.thm hframe :)

/-! ## PLAN_APPLY (R68) -/

section
variable {d : Dev} {a p : StandPlan}

theorem mem_changes {n : Nat} : n ∈ d.changes ↔ n < 16 ∧ d.plan.changed.getLsbD n = true := by
  simp [Dev.changes]

variable (ha : d.plan.active = some a) (hp : d.plan.armed = some p)
include ha hp

theorem doPlanApply_postponed (h : d.applyCommits = false) :
    doPlanApply d = { d with plan := { d.plan with due := false } } := by
  unfold doPlanApply
  rw [ha, hp]
  exact if_pos (by simp [h])

theorem doPlanApply_fenced (h : d.applyCommits = true) {n : Nat} (hn : d.fencedChange = some n) :
    doPlanApply d = (d.loadFails 0x11 (3, n)).dropHeld.startActs := by
  unfold doPlanApply
  rw [ha, hp]
  dsimp only
  rw [if_neg (by simp [h]), hn]

theorem doPlanApply_takes (h : d.applyCommits = true) (hn : d.fencedChange = none) :
    doPlanApply d = (d.applyReplacement a p).startActs := by
  unfold doPlanApply
  rw [ha, hp]
  dsimp only
  rw [if_neg (by simp [h]), hn]

omit hp in
theorem Dev.applyCommits_eq (hst : d.plan.st = .armed) :
    d.applyCommits = (d.plan.due && !d.stageRuns a && !d.changedClrs.any fun n => (d.clr n).st == .resetting) := by
  unfold Dev.applyCommits
  rw [ha]
  simp [hst]

end

/-- A clearing that a plan changes and that is fenced, or about to be, fails the apply. -/
theorem Dev.fencedChange_none {d : Dev} (h : ∀ n ∈ d.changes, (d.clr n).st ≠ .fenced ∧ (d.clr n).fencing = false) :
    d.fencedChange = none := by
  refine List.find?_eq_none.2 fun n hn => ?_
  obtain ⟨hst, hf⟩ := h n hn
  simp [hst, hf]

theorem Dev.fencedChange_some {d : Dev} {n : Nat} (hn : n ∈ d.changes) (h : (d.clr n).st = .fenced) :
    ∃ m, d.fencedChange = some m := by
  refine Option.isSome_iff_exists.1 (List.find?_isSome.2 ⟨n, hn, ?_⟩)
  simp [h]

/-- What a failed apply keeps (R68). -/
theorem Dev.applyFails_kept {d : Dev} (hw : Tab.wf Clearing.reset d.clrs = true) (at_ : Place) :
    let e := (d.loadFails 0x11 at_).dropHeld
    e.plan.st = .failed ∧ e.plan.reason = 0x11 ∧ e.plan.active = d.plan.active ∧ e.plan.armed = none ∧
      (∀ k, (e.clr k).st = (d.clr k).st) ∧ e.host = d.host ∧ e.mem = d.mem ∧ e.tiles = d.tiles := by
  intro e
  have hf := d.loadFails_frame 0x11 at_
  have hs : (d.loadFails 0x11 at_).SlotFrame e := Dev.dropHeld_slotFrame _
  have hclr : (d.loadFails 0x11 at_).Applies True (fun _ => False) e := Dev.destroySlots_applies _ _
  have hclrs : (d.loadFails 0x11 at_).clrs = d.clrs := (congrArg Dev.clrs hf :)
  have hplan : e.plan = (d.loadFails 0x11 at_).plan := (congrArg Dev.plan hs :)
  refine ⟨?_, ?_, ?_, ?_, fun k => ?_, ?_, ?_, ?_⟩
  · rw [hplan]; exact (congrArg (fun x : Dev => x.plan.st) hf :)
  · rw [hplan]; exact (congrArg (fun x : Dev => x.plan.reason) hf :)
  · rw [hplan]; exact (congrArg (fun x : Dev => x.plan.active) hf :)
  · rw [hplan]; exact (congrArg (fun x : Dev => x.plan.armed) hf :)
  · obtain ⟨-, -, hkept⟩ := hclr.clrs (hclrs ▸ hw)
    refine (hkept k not_false).1.trans ?_
    unfold Dev.clr
    rw [hclrs]
  · exact (congrArg Dev.host hs :).trans (congrArg Dev.host hf :)
  · exact (congrArg Dev.mem hs :).trans (congrArg Dev.mem hf :)
  · exact (congrArg Dev.tiles hs :).trans (congrArg Dev.tiles hf :)

/-- What a replacement that takes effect leaves (R68). -/
theorem Dev.applyReplacement_takes {d : Dev} (a p : StandPlan) (hw : Tab.wf Clearing.reset d.clrs = true) :
    let e := (d.applyReplacement a p).startActs
    e.plan.active = some p ∧ e.plan.armed = none ∧ e.plan.st = .active ∧ e.plan.changed = 0 ∧
      e.plan.held = p.report.getLsbD 3 ∧
      (∀ n, n ∉ d.changes → (e.clr n).roleGen = (d.clr n).roleGen ∧ (e.clr n).st = (d.clr n).st ∧
        (e.clr n).num = (d.clr n).num) ∧
      (∀ n ∈ d.changes, (e.clr n).roleGen = (d.clr n).roleGen + 1) ∧
      e.host.fences = d.host.fences ∧ e.lcs = d.lcs ∧ e.dbg.bootId = d.dbg.bootId ∧ e.thm = d.thm ∧ e.pwr = d.pwr := by
  intro e
  have hb := d.cleared_bumps a hw
  have h : ({ d.cleared a with plan := (d.cleared a).plan.activated p } : Dev).Applies False (· ∈ d.changes) e :=
    (d.applyReplacement_applies a p).trans (Dev.startActs_calm _).applies
  have hplan := h.plan
  obtain ⟨-, hrole, hkept⟩ := h.clrs hb.wf
  have hclr (n : Nat) : (d.cleared a).clr n = if n ∈ d.changes then (d.clr n).bumped else d.clr n := hb.clr n
  have hsame (n : Nat) : Dev.clr { d.cleared a with plan := (d.cleared a).plan.activated p } n = (d.cleared a).clr n := rfl
  refine ⟨(congrArg PlanRegs.active hplan :), (congrArg PlanRegs.armed hplan :), (congrArg PlanRegs.st hplan :),
    (congrArg PlanRegs.changed hplan :), (congrArg PlanRegs.held hplan :), fun n hn => ?_, fun n hn => ?_,
    h.fences.trans hb.fences, h.lcs.trans hb.lcs, h.bootId.trans hb.bootId, h.thm.trans hb.thm, h.pwr.trans hb.pwr⟩
  · rw [hrole, (hkept n hn).1, (hkept n hn).2, hsame, hclr, if_neg hn]
    exact ⟨rfl, rfl, rfl⟩
  · rw [hrole, hsame, hclr, if_pos hn]
    rfl

/-- Settles O11: at the apply mark the plan is refused, postponed or taken, by its changed clearings. -/
theorem planApplies : Obligations.PlanApplies := by
  refine ⟨?_, ?_⟩
  · intro s a p hr hst ha hp hdue hrun d₀ hok hw
    have hcommit : d₀.applyCommits = true := by
      have hres : (d₀.changedClrs.any fun n => (d₀.clr n).st == .resetting) = false := by
        rw [List.any_eq_false]
        intro n hn
        obtain ⟨hlt, hc⟩ := mem_changes.1 hn
        simp [(hok n hlt hc).2.2]
      rw [Dev.applyCommits_eq ha hst, hdue, hrun, hres]
      rfl
    have hfence : d₀.fencedChange = none := Dev.fencedChange_none fun n hn => by
      obtain ⟨hlt, hc⟩ := mem_changes.1 hn
      exact ⟨(hok n hlt hc).1, (hok n hlt hc).2.1⟩
    obtain ⟨h1, h2, h3, h4, h5, hkept, hbump, hrest⟩ := Dev.applyReplacement_takes a p hw
    exact ⟨_, act_eq_next hr (doPlanApply_takes ha hp hcommit hfence), h1, h2, h3, h4, h5,
      fun n hn hc => hkept n fun h => absurd (hc.symm.trans (mem_changes.1 h).2) (by decide),
      fun n hn hc => hbump n (mem_changes.2 ⟨hn, hc⟩), hrest⟩
  · intro s a p g n hr d₀ notYet
    refine ⟨fun hw hst ha hp => ⟨fun h => ?_, fun hdue hrun hc => ⟨fun hres hfen => ?_, fun hres => ?_⟩⟩, fun hg => ?_, ?_⟩
    · refine act_eq_next hr (doPlanApply_postponed ha hp ?_)
      rw [Dev.applyCommits_eq ha hst]
      rcases h with h | h
      · rw [show s.dev.plan.due = false from h]
        rfl
      · rw [show s.dev.stageRuns a = true from h]
        simp
    · have hn : n.val ∈ d₀.changes := mem_changes.2 ⟨n.isLt, hc⟩
      have hcommit : d₀.applyCommits = true := by
        have hno : (d₀.changedClrs.any fun n => (d₀.clr n).st == .resetting) = false := by
          rw [List.any_eq_false]
          intro m hm
          simp [hres m (mem_changes.1 hm).1]
        rw [Dev.applyCommits_eq ha hst, hdue, hrun, hno]
        rfl
      obtain ⟨m, hm⟩ := Dev.fencedChange_some hn hfen
      obtain ⟨h1, h2, h3, h4, hkept, hhost, hmem, htiles⟩ := Dev.applyFails_kept hw (3, m)
      exact ⟨_, act_eq_next hr (doPlanApply_fenced ha hp hcommit hm), h1, h2, h3.trans ha, h4, hkept, hhost, hmem, htiles⟩
    · refine act_eq_next hr (doPlanApply_postponed ha hp ?_)
      have hany : (d₀.changedClrs.any fun n => (d₀.clr n).st == .resetting) = true :=
        List.any_eq_true.2 ⟨n.val, mem_changes.2 ⟨n.isLt, hc⟩, by simp [hres]⟩
      rw [Dev.applyCommits_eq ha hst, hany]
      simp
    · refine ⟨_, act_eq_next hr (if_pos hg), rfl, fun k => ?_, rfl⟩
      refine (Tab.get_drop none d₀.mem.hbm (fun pa => [g.val].contains (pa / 2 ^ 30)) k).trans ?_
      by_cases hk : k / 2 ^ 30 = g.val
      · rw [if_pos hk, if_pos (List.contains_iff_mem.2 (List.mem_singleton.2 hk))]
      · rw [if_neg hk, if_neg fun h => hk (List.mem_singleton.1 (List.contains_iff_mem.1 h))]
    · dsimp only [exec, execNumTrapRelease]
      exact act_eq_next hr rfl

end Sys2Proof.Machine

/-! PROOFS. Objects are created, retired and freed (R287–R289). -/

namespace Sys2Proof.Machine
open Sys2Proof

/-! ## The lowest free index, the lowest free base -/

/-- The index that a create takes is FREE, and every lower one, from where the search began, is not. -/
theorem lowestFree_spec {t : Tab Obj} {lo : Nat} (hw : Tab.wfFrom Obj.reset lo t = true) (i : Nat) :
    i ≤ lowestFree t i ∧ (Tab.get Obj.reset t (lowestFree t i)).st = .free ∧
      ∀ j, i ≤ j → j < lowestFree t i → (Tab.get Obj.reset t j).st ≠ .free := by
  induction t generalizing i lo with
  | nil => exact ⟨Nat.le_refl i, rfl, fun j hj hlt => absurd hlt (Nat.not_lt.2 hj)⟩
  | cons o t ih =>
    simp only [Tab.wfFrom, Bool.and_eq_true, decide_eq_true_eq] at hw
    obtain ⟨_, ht⟩ := hw
    have hskip {j : Nat} (h : j ≠ o.1) : Tab.get Obj.reset (o :: t) j = Tab.get Obj.reset t j := if_neg (Ne.symm h)
    rw [lowestFree]
    split
    · next h =>
      simp only [Bool.and_eq_true, decide_eq_true_eq] at h
      obtain ⟨rfl, hst⟩ := h
      obtain ⟨hle, hfree, hlow⟩ := ih ht (o.1 + 1)
      refine ⟨by omega, by rwa [hskip (by omega)], fun j hj hlt => ?_⟩
      by_cases hjo : j = o.1
      · rw [hjo, Tab.get, if_pos rfl]
        exact hst
      · rw [hskip hjo]
        exact hlow j (by omega) hlt
    · next hno =>
      split
      · next hlt =>
        obtain ⟨hle, hfree, hlow⟩ := ih ht i
        refine ⟨hle, by rwa [hskip (by omega)], fun j hj hlt' => ?_⟩
        rw [hskip (by omega)]
        exact hlow j hj hlt'
      · next hge =>
        refine ⟨Nat.le_refl i, ?_, fun j hj hlt => absurd hlt (Nat.not_lt.2 hj)⟩
        by_cases hi : o.1 = i
        · rw [Tab.get, if_pos hi]
          simpa [hi] using hno
        · rw [Tab.get, if_neg hi, Tab.get_below Obj.reset t ht (by omega)]
          rfl

theorem lowestFree_eq {t : Tab Obj} (hw : Tab.wf Obj.reset t = true) {k : Nat} (hk : (Tab.get Obj.reset t k).st = .free)
    (hlow : ∀ j, j < k → (Tab.get Obj.reset t j).st ≠ .free) : lowestFree t 0 = k := by
  obtain ⟨_, hfree, hbelow⟩ := lowestFree_spec hw 0
  rcases Nat.lt_trichotomy (lowestFree t 0) k with h | h | h
  · exact absurd hfree (hlow _ h)
  · exact h
  · exact absurd hk (hbelow k (Nat.zero_le k) h)

theorem lowestFree_full {t : Tab Obj} (hw : Tab.wf Obj.reset t = true) {n : Nat}
    (h : ∀ k, k < n → (Tab.get Obj.reset t k).st ≠ .free) : n ≤ lowestFree t 0 :=
  Nat.not_lt.1 fun hlt => h _ hlt (lowestFree_spec hw 0).2.1

/-- A base at which an object of `len` bytes fits among the spans. -/
def Fits (spans : List (Nat × Nat)) (total len b : Nat) : Prop :=
  b + len ≤ total ∧ ∀ s ∈ spans, b + len ≤ s.1 ∨ s.1 + s.2 ≤ b

section
variable {spans : List (Nat × Nat)} {total len : Nat}

/-- Spans on whole granules. -/
def Whole4K (spans : List (Nat × Nat)) : Prop := ∀ s ∈ spans, s.1 % 4096 = 0 ∧ s.2 % 4096 = 0

theorem mem_candidates {b : Nat} :
    b ∈ (0 :: spans.map fun s => s.1 + s.2).filter (fun b =>
      decide (b + len ≤ total) && spans.all fun s => decide (b + len ≤ s.1) || decide (s.1 + s.2 ≤ b)) ↔
      (b = 0 ∨ ∃ s ∈ spans, s.1 + s.2 = b) ∧ Fits spans total len b := by
  simp [Fits]

theorem candidate_whole (hw : Whole4K spans) {b : Nat} (h : b = 0 ∨ ∃ s ∈ spans, s.1 + s.2 = b) : b % 4096 = 0 := by
  rcases h with rfl | ⟨s, hs, rfl⟩
  · rfl
  · have := hw s hs
    omega

/-- The lowest base that fits is 0 or the end of a span. -/
theorem candidate_of_least (hw : Whole4K spans) {b : Nat} (hb : b % 4096 = 0) (hf : Fits spans total len b)
    (hleast : ∀ a, a < b → a % 4096 = 0 → ¬ Fits spans total len a) : b = 0 ∨ ∃ s ∈ spans, s.1 + s.2 = b := by
  by_contra hno
  obtain ⟨h0, hend⟩ := not_or.1 hno
  refine hleast (b - 4096) (by omega) (by omega) ⟨by have := hf.1; omega, fun s hs => ?_⟩
  have hs4 := hw s hs
  have hne : s.1 + s.2 ≠ b := fun h => hend ⟨s, hs, h⟩
  rcases hf.2 s hs with h | h
  · exact .inl (by omega)
  · exact .inr (by omega)

theorem firstFit_none (hw : Whole4K spans) (h : ∀ b, b % 4096 = 0 → ¬ Fits spans total len b) :
    firstFit spans total len = none := by
  unfold firstFit
  rw [List.min?_eq_none_iff, List.eq_nil_iff_forall_not_mem]
  intro b hb
  obtain ⟨hc, hf⟩ := mem_candidates.1 hb
  exact h b (candidate_whole hw hc) hf

theorem firstFit_some (hw : Whole4K spans) {b : Nat} (hb : b % 4096 = 0) (hf : Fits spans total len b)
    (hleast : ∀ a, a < b → a % 4096 = 0 → ¬ Fits spans total len a) : firstFit spans total len = some b := by
  unfold firstFit
  rw [List.min?_eq_some_iff]
  refine ⟨mem_candidates.2 ⟨candidate_of_least hw hb hf hleast, hf⟩, fun a ha => ?_⟩
  obtain ⟨hc, hfa⟩ := mem_candidates.1 ha
  exact Nat.not_lt.1 fun hlt => hleast a hlt (candidate_whole hw hc) hfa

end

/-! ## Creating an object -/

section
variable {d : Dev}

theorem spans_whole {n r : Nat} (h : ∀ o ∈ d.host.objs, o.2.base % 4096 = 0) : Whole4K (d.spans n r) := by
  intro s hs
  obtain ⟨o, ho, rfl⟩ := List.mem_map.1 hs
  exact ⟨h o (List.mem_filter.1 ho).1, Nat.mul_mod_right _ _⟩

theorem fits_spans_iff {n r total len b : Nat} : Fits (d.spans n r) total len b ↔
    b + len ≤ total ∧ ∀ o ∈ d.host.objs, o.2.st ≠ .free → o.2.clearing.toNat = n → o.2.region.toNat = r →
      b + len ≤ o.2.base ∨ o.2.base + (o.2.size + 4095) / 4096 * 4096 ≤ b := by
  simp only [Fits, Dev.spans, alignUp, List.forall_mem_map, List.mem_filter, Bool.and_eq_true, bne_iff_ne,
    beq_iff_eq, Nat.mul_comm 4096]
  exact and_congr_right fun _ => forall_congr' fun o =>
    ⟨fun h ho hst hn hr => h ⟨ho, ⟨hst, hn⟩, hr⟩, fun h ho => h ho.1 ho.2.1.1 ho.2.1.2 ho.2.2⟩

/-- The answer to a create, as it waits for the request's end. -/
def Dev.objAnswer (d : Dev) (x : BitVec 3 × Word × BitVec 64) : Dev :=
  { d with host := { d.host with objBusy := true, objNext := x } }

theorem doObjCreate_busy (h : d.host.objBusy = true) : doObjCreate d = d.raise .dbl 5 := if_pos h

theorem doObjCreate_none (h : d.host.objBusy = false) {res : BitVec 3} (hc : d.createOutcome = (res, none)) :
    doObjCreate d = d.objAnswer (res, 0xFFFFFFFF, 0) := by
  rw [doObjCreate, if_neg (by simp [h]), hc]
  rfl

theorem doObjCreate_some (h : d.host.objBusy = false) {res : BitVec 3} {x : Nat × Obj}
    (hc : d.createOutcome = (res, some x)) :
    doObjCreate d = (d.modObj x.1 fun _ => x.2).objAnswer (res, objHandle x.1 x.2.gen, BitVec.ofNat 64 x.2.base) := by
  rw [doObjCreate, if_neg (by simp [h]), hc]
  rfl

theorem doObjRequestDone_busy (h : d.host.objBusy = true) : doObjRequestDone d =
    ({ d with host := { d.host with
        objBusy := false, objRes := d.host.objNext.1, objHandle := d.host.objNext.2.1,
        objBase := d.host.objNext.2.2 } } : Dev).raise .dbl 7 := if_pos h

/-- The clearing, the region and the size that a create asks for. -/
def Dev.reqN (d : Dev) : Nat := d.host.reqWhere.toNat % 16
def Dev.reqR (d : Dev) : Nat := d.host.reqWhere.toNat / 16 % 2048
def Dev.reqSize (d : Dev) : Nat := (d.host.reqSizeHi ++ d.host.reqSizeLo).toNat

theorem createOutcome_notActive (h : (d.clr d.reqN).st ≠ .active) : d.createOutcome = (4, none) := if_pos h

section
variable (h : (d.clr d.reqN).st = .active)
include h

theorem createOutcome_noRegion (hr : d.planRegion d.reqN d.reqR = none) : d.createOutcome = (3, none) := by
  rw [Dev.createOutcome]
  exact (if_neg (not_not.2 h)).trans (by rw [← Dev.reqN, ← Dev.reqR, hr])

variable {rg : PlanRegion} (hr : d.planRegion d.reqN d.reqR = some rg)
include hr

theorem createOutcome_empty (hs : d.reqSize = 0) : d.createOutcome = (5, none) := by
  rw [Dev.createOutcome]
  refine (if_neg (not_not.2 h)).trans ?_
  rw [← Dev.reqN, ← Dev.reqR, hr]
  exact if_pos hs

variable (hs : 0 < d.reqSize)
include hs

theorem createOutcome_full (hf : 2 ^ 20 ≤ lowestFree d.host.objs 0) : d.createOutcome = (2, none) := by
  rw [Dev.createOutcome]
  refine (if_neg (not_not.2 h)).trans ?_
  rw [← Dev.reqN, ← Dev.reqR, hr]
  exact (if_neg (Nat.pos_iff_ne_zero.1 hs)).trans (if_pos hf)

variable (hf : lowestFree d.host.objs 0 < 2 ^ 20)
include hf

theorem createOutcome_noRoom (hn : firstFit (d.spans d.reqN d.reqR) rg.dataBytes (alignUp d.reqSize) = none) :
    d.createOutcome = (1, none) := by
  rw [Dev.createOutcome]
  refine (if_neg (not_not.2 h)).trans ?_
  rw [← Dev.reqN, ← Dev.reqR, hr]
  refine (if_neg (Nat.pos_iff_ne_zero.1 hs)).trans ((if_neg (Nat.not_le.2 hf)).trans ?_)
  rw [← Dev.reqSize, hn]

theorem createOutcome_room {b : Nat}
    (hb : firstFit (d.spans d.reqN d.reqR) rg.dataBytes (alignUp d.reqSize) = some b) :
    d.createOutcome = (0, some (lowestFree d.host.objs 0,
      { st := .live, gen := (d.obj (lowestFree d.host.objs 0)).gen, clearing := BitVec.ofNat 4 d.reqN,
        region := BitVec.ofNat 11 d.reqR, owner := d.ownerOf d.reqN, mode := rg.mode.setWidth 2,
        sector := rg.sector != 0, base := b, size := d.reqSize,
        ctx := d.host.reqWhere.extractLsb' 16 16, refs := 0, retire := [] })) := by
  rw [Dev.createOutcome]
  refine (if_neg (not_not.2 h)).trans ?_
  rw [← Dev.reqN, ← Dev.reqR, hr]
  refine (if_neg (Nat.pos_iff_ne_zero.1 hs)).trans ((if_neg (Nat.not_le.2 hf)).trans ?_)
  rw [← Dev.reqSize, hb]

end

end

/-! ## Retiring an object -/

section
variable {d : Dev} {q : Que} {seq : Word} {c : Cmd} (hc : d.cmd q.val seq = some c) (ho : c.opcode = 9)
include hc ho

theorem doObjRetire_live (hp : c.ph = .decoding) (hl : d.liveHandle (c.word 16) = true) :
    doObjRetire q.val seq d = (d.modObj (objIndex (c.word 16)) fun o =>
      { o with st := .retiring, retire := o.retire ++ [(q, seq)] }).modCmd q.val seq
        fun x => { x with ph := .decoded } := by
  rw [doObjRetire, hc]
  refine (if_neg (not_not.2 ho)).trans ((if_pos hp).trans ((if_pos hl).trans ?_))
  rw [show Fin.ofNat 4096 q.val = q from Fin.ext (Nat.mod_eq_of_lt q.isLt)]

theorem doObjRetire_stale (hp : c.ph = .decoding) (hl : d.liveHandle (c.word 16) = false) :
    doObjRetire q.val seq d = d.completeCmd q.val c .staleObject .none ((c.word 16).setWidth 64) 0 := by
  rw [doObjRetire, hc]
  exact (if_neg (not_not.2 ho)).trans ((if_pos hp).trans (if_neg (by simp [hl])))

theorem doObjRetire_started (hp : c.ph = .started) :
    doObjRetire q.val seq d = d.modCmd q.val seq fun x => { x with ph := .running } := by
  rw [doObjRetire, hc]
  exact (if_neg (not_not.2 ho)).trans ((if_neg (by simp [hp])).trans (if_pos hp))

end

/-! ## Freeing an object: its retires complete -/

theorem Dev.completeCmd_cmd_ne {d : Dev} {q : Nat} {c : Cmd} (h : (d.cmd q c.seq).isSome = true)
    (hw : Tab.wf Queue.reset d.host.queues = true) (st : Status) (det : Detail) (info : BitVec 64) (rank : BitVec 21)
    {q' : Nat} {seq : Word} (hne : ¬ (q' = q ∧ seq = c.seq)) :
    (d.completeCmd q c st det info rank).cmd q' seq = d.cmd q' seq := by
  rw [Dev.completeCmd_eq h]
  simp only [Dev.cmd, Dev.queue]
  rw [Tab.get_mod hw]
  split
  · next hq =>
    subst hq
    rw [Queue.without, List.find?_filter]
    congr 1
    funext x
    by_cases hx : x.seq = seq
    · have : x.seq ≠ c.seq := fun h => hne ⟨rfl, hx.symm.trans h⟩
      simp [hx, hx ▸ this]
    · simp [hx]
  · rfl

theorem Dev.completeCmd_fifos_mem {d : Dev} {q : Nat} {c : Cmd} (h : (d.cmd q c.seq).isSome = true)
    (st : Status) (det : Detail) (info : BitVec 64) (rank : BitVec 21) {src : Nat} {r : Completion}
    (hr : r ∈ Tab.get [] d.host.fifos src) :
    r ∈ Tab.get [] (d.completeCmd q c st det info rank).host.fifos src := by
  by_cases hs : src = c.src
  · subst hs
    rw [Dev.completeCmd_fifos h]
    exact List.mem_append_left _ hr
  · rw [Dev.completeCmd_eq h]
    exact (Tab.get_set_ne [] d.host.fifos _ hs).symm ▸ hr

/-- What the ends of commands that reference no object leave: the objects stay, and no record leaves its FIFO. -/
structure Dev.Ended (d d' : Dev) : Prop where
  frame : d' = { d with host := d'.host }
  objs : d'.host.objs = d.host.objs
  wf : Tab.wf Queue.reset d.host.queues = true → Tab.wf Queue.reset d'.host.queues = true
  fifos : ∀ {src r}, r ∈ Tab.get [] d.host.fifos src → r ∈ Tab.get [] d'.host.fifos src

theorem Dev.Ended.rfl {d : Dev} : d.Ended d := ⟨by rfl, by rfl, id, id⟩

theorem Dev.Ended.trans {d e f : Dev} (h : d.Ended e) (h' : e.Ended f) : d.Ended f :=
  ⟨by rw [h'.frame, h.frame], h'.objs.trans h.objs, h'.wf ∘ h.wf, fun hr => h'.fifos (h.fifos hr)⟩

theorem Dev.finishOk_ended {d : Dev} {q : Nat} {seq : Word}
    (hrefs : ∀ c, d.cmd q seq = some c → c.refs = []) :
    d.Ended (d.finishOk q seq) := by
  rw [Dev.finishOk, Dev.finish]
  cases hc : d.cmd q seq with
  | none => exact .rfl
  | some c =>
    have h := Dev.cmd_isSome hc
    dsimp only
    refine ⟨Dev.completeCmd_frame h _ _ _ _, ?_, fun hw => ?_, Dev.completeCmd_fifos_mem h _ _ _ _⟩
    · rw [Dev.completeCmd_eq h, hrefs c hc]
      rfl
    · rw [Dev.completeCmd_eq h]
      exact Tab.mod_wf _ _ hw q (·.without c.seq .ok)

theorem Dev.finishOk_cmd_ne {d : Dev} (hw : Tab.wf Queue.reset d.host.queues = true) {q q' : Nat}
    {seq seq' : Word} (hne : ¬ (q' = q ∧ seq' = seq)) :
    (d.finishOk q seq).cmd q' seq' = d.cmd q' seq' := by
  rw [Dev.finishOk, Dev.finish]
  cases hc : d.cmd q seq with
  | none => rfl
  | some c =>
    exact Dev.completeCmd_cmd_ne (Dev.cmd_isSome hc) hw _ _ _ _ (by rwa [Dev.cmd_seq hc])


theorem Dev.finishOk_posts {d : Dev} {q : Nat} {seq : Word} {c : Cmd} (hc : d.cmd q seq = some c) :
    Dev.completion q c .ok .none 0 0 d.host.nextOrd ∈ Tab.get [] (d.finishOk q seq).host.fifos c.src := by
  rw [Dev.finishOk, Dev.finish, hc]
  dsimp only
  rw [Dev.completeCmd_fifos (Dev.cmd_isSome hc)]
  exact List.mem_append_right _ List.mem_cons_self

/-- Every retire in a list completes OK. -/
theorem Dev.foldl_finishOk (l : List (Que × Word)) {d : Dev} (hw : Tab.wf Queue.reset d.host.queues = true)
    (hrefs : ∀ x ∈ l, ∀ c, d.cmd x.1.val x.2 = some c → c.refs = []) :
    d.Ended (l.foldl (fun d x => d.finishOk x.1.val x.2) d) ∧
      ∀ x ∈ l, ∀ c, d.cmd x.1.val x.2 = some c → ∃ ord, Dev.completion x.1.val c .ok .none 0 0 ord ∈
        Tab.get [] (l.foldl (fun d x => d.finishOk x.1.val x.2) d).host.fifos c.src := by
  induction l generalizing d with
  | nil => exact ⟨.rfl, fun x hx => absurd hx List.not_mem_nil⟩
  | cons y l ih =>
    have hy := Dev.finishOk_ended (hrefs y List.mem_cons_self)
    have hkeep {x : Que × Word} (h : x ≠ y) : (d.finishOk y.1.val y.2).cmd x.1.val x.2 = d.cmd x.1.val x.2 :=
      Dev.finishOk_cmd_ne hw fun e => h (Prod.ext (Fin.ext e.1) e.2)
    obtain ⟨hended, hposts⟩ := ih (hy.wf hw) fun x hx c hc => by
      by_cases hxy : x = y
      · subst hxy
        cases hd : d.cmd x.1.val x.2 with
        | none => rw [Dev.finishOk, Dev.finish, hd] at hc; exact absurd (hd.symm.trans hc) (by simp)
        | some c' =>
          have := Dev.completeCmd_cmd (Dev.cmd_isSome hd) .ok .none 0 0 hw
          rw [Dev.cmd_seq hd] at this
          rw [Dev.finishOk, Dev.finish, hd] at hc
          exact absurd (this.symm.trans hc) (by simp)
      · exact hrefs x (List.mem_cons_of_mem _ hx) c (hkeep hxy ▸ hc)
    refine ⟨hy.trans hended, fun x hx c hc => ?_⟩
    by_cases hxy : x = y
    · subst hxy
      exact ⟨_, hended.fifos (Dev.finishOk_posts hc)⟩
    · exact hposts x ((List.mem_cons.1 hx).resolve_left hxy) c ((hkeep hxy).trans hc)

theorem doObjRetireDone_free {d : Dev} {i : Nat} (hst : (d.obj i).st = .retiring) (hr : (d.obj i).refs = 0)
    (hp : ∀ x ∈ (d.obj i).retire, d.retirePending x = false) :
    doObjRetireDone i d = (d.obj i).retire.foldl (fun d x => d.finishOk x.1.val x.2) (d.freeObj i) := by
  rw [doObjRetireDone]
  refine if_pos ?_
  rw [hst, hr, List.any_eq_false.2 fun x hx => by simp [hp x hx]]
  rfl

theorem doObjRetireDone_referenced {d : Dev} {i : Nat} (hr : 0 < (d.obj i).refs) : doObjRetireDone i d = d :=
  if_neg (by simp [Nat.pos_iff_ne_zero.1 hr])

theorem retirePending_running {d : Dev} {x : Que × Word} {c : Cmd} (hc : d.cmd x.1.val x.2 = some c)
    (hp : c.ph = .running) : d.retirePending x = false := by
  rw [Dev.retirePending, hc]
  simp [hp]

/-- Settles O44: a create takes the lowest free index and base, and the retires of an object complete when it is freed. -/
theorem objectLife : Obligations.ObjectLife := by
  unfold Obligations.ObjectLife
  intro s q seq c i hr d out n r size len answers refused room
  have hfits (b total : Nat) : (b % 4096 = 0 ∧ Fits (d.spans d.reqN d.reqR) total (alignUp d.reqSize) b) ↔
      room b total := by
    rw [fits_spans_iff, alignUp, Nat.mul_comm 4096]
    rfl
  refine ⟨fun hb => ⟨act_eq_next hr (doObjCreate_busy hb), act_eq_next hr (doObjRequestDone_busy hb)⟩,
    fun hb => ⟨fun hst => ?_, fun hst => ⟨fun hrg => ?_, fun rg hrg => ⟨fun hz => ?_, fun hz hw =>
      ⟨fun hfull => ?_, fun k hk hfree hlow hbase => ?_⟩⟩⟩⟩, fun hc ho => ⟨fun hp hl => ?_, fun hp hl => ?_, fun hp => ?_⟩,
    fun hwo hwq hst hr0 hcmds => ?_, fun _ hr0 => ?_⟩
  · exact act_eq_next hr (doObjCreate_none hb (createOutcome_notActive hst))
  · exact act_eq_next hr (doObjCreate_none hb (createOutcome_noRegion hst hrg))
  · exact act_eq_next hr (doObjCreate_none hb (createOutcome_empty hst hrg hz))
  · exact act_eq_next hr (doObjCreate_none hb (createOutcome_full hst hrg hz (lowestFree_full hw hfull)))
  · have hlf : lowestFree d.host.objs 0 = k := lowestFree_eq hw hfree hlow
    have hwhole := spans_whole (n := d.reqN) (r := d.reqR) hbase
    refine ⟨fun hno => ?_, fun b hroom hleast => ?_⟩
    · exact act_eq_next hr (doObjCreate_none hb (createOutcome_noRoom hst hrg hz (hlf ▸ hk)
        (firstFit_none hwhole fun b hb4 hf => hno b ((hfits b _).1 ⟨hb4, hf⟩))))
    · have hfit := (hfits b _).2 hroom
      have := createOutcome_room hst hrg hz (hlf ▸ hk) (firstFit_some hwhole hfit.1 hfit.2
        fun a hab ha4 hf => hleast a hab ((hfits a _).1 ⟨ha4, hf⟩))
      rw [hlf] at this
      exact act_eq_next hr (doObjCreate_some hb this)
  · exact act_eq_next hr (doObjRetire_live hc ho hp hl)
  · have h := Dev.cmd_isSome hc
    exact ⟨_, act_eq_next hr (doObjRetire_stale hc ho hp hl), Dev.completeCmd_completes h _ _ _,
      Dev.completeCmd_frame h _ _ _ _⟩
  · exact act_eq_next hr (doObjRetire_started hc ho hp)
  · have hrun : ∀ x ∈ (d.obj i.toNat).retire, d.retirePending x = false := fun x hx =>
      have ⟨_, hc, hp, _⟩ := hcmds x hx
      retirePending_running hc hp
    obtain ⟨hended, hposts⟩ := Dev.foldl_finishOk (d.obj i.toNat).retire (d := d.freeObj i.toNat) hwq
      fun x hx c hc => by
        obtain ⟨c', hc', _, hrefs⟩ := hcmds x hx
        rw [Option.some.inj (hc.symm.trans hc')]
        exact hrefs
    refine ⟨_, act_eq_next hr (doObjRetireDone_free hst hr0 hrun), ?_, fun k hk => ?_, hposts, ?_⟩
    · exact (congrArg (Tab.get Obj.reset · i.toNat) hended.objs).trans (Tab.get_set _ _ hwo _ _)
    · exact (congrArg (Tab.get Obj.reset · k) hended.objs).trans (Tab.get_set_ne _ _ _ hk)
    · exact hended.frame
  · exact act_eq_next hr (doObjRetireDone_referenced hr0)

end Sys2Proof.Machine

/-! PROOFS. The FNC block and a context's destruction (R299, R301): a counterexample. -/

namespace Sys2Proof.Machine
open Sys2Proof

/-- A command of context 1: the context stands in its bytes 2 and 3. -/
def ownedCmd : Cmd :=
  { seq := 0, raw := 0x10000, ph := .running, refs := [], src := 0, decodedAt := 0, stepKey := 0, prog := [],
    params := none }

/-- A launch of the command of number 0 in queue 1. -/
def launchNumbered (id : Nat) (ph : LaunchPh) (status : Status) : LaunchSt :=
  { id, queue := 1, seq := 0, clearing := 0, tiles := 0, perCore := 0, handles := [], arg := [], tsFirst := 0,
    tsCount := 0, srStream := 0, stepKey := 0, entry := 0, ph, status, detail := .none, info := 0, rank := 0 }

/-- A device whose queue 1 lists one command twice, and whose launches name that command twice: one that runs, and
one that stops with TAMPER. The obligation asks for no distinct numbers. The first abort posts ABORTED and frees the
launch that runs; the second finds the other launch and amends the record. -/
def listedTwice : State :=
  { State.reset with dev := { Dev.reset with
      host := { HostBlk.reset with queues := [(1, { Queue.reset with cmds := [ownedCmd, ownedCmd] })] }
      launches := [launchNumbered 0 .running .ok, launchNumbered 1 .stopping .tamper] } }

theorem listedTwice_ctxDestroy :
    ((Tab.get [] (doCtxDestroy 1 listedTwice.dev).host.fifos 0).map (·.status)) = [.tamper] := by
  decide +kernel

/-- Refutes O45: on `listedTwice` the destruction of context 1 completes its command with TAMPER. -/
theorem not_fencesAndContexts : ¬ Obligations.FencesAndContexts := by
  intro h
  obtain ⟨-, -, -, -, -, -, -, hdestroy, -⟩ := h listedTwice 0 1 0 (by decide +kernel) (by decide +kernel) (by decide +kernel) (by decide +kernel)
  obtain ⟨d, hout, -, -, -, -, -, -, haborted, -⟩ := hdestroy (by decide +kernel) (by decide +kernel) (by decide +kernel)
  have hd : doCtxDestroy 1 listedTwice.dev = d := dev_of_act_eq (s := listedTwice) (by decide +kernel) hout
  obtain ⟨ord, hmem⟩ := haborted (1, ownedCmd) (by decide +kernel) (by decide +kernel) (by decide +kernel) (by decide +kernel) (by decide +kernel)
  have := List.mem_map_of_mem (f := Completion.status) (hd ▸ hmem)
  rw [show ownedCmd.src = 0 from rfl, listedTwice_ctxDestroy] at this
  exact absurd (List.mem_singleton.1 this) Status.noConfusion

end Sys2Proof.Machine

/-! PROOFS. Function level resets (R272, R274–R276): every host command ends, its record is posted, and the host's
blocks are cleared. -/

namespace Sys2Proof.Machine
open Sys2Proof

/-! ## A command that is killed -/

section
variable (d : Dev)

/-- A change that leaves the host interface alone. -/
def Dev.HostKept (d d' : Dev) : Prop := d'.host = d.host

theorem Dev.HostKept.refl : d.HostKept d := Eq.refl d.host

theorem Dev.HostKept.trans {a b c : Dev} (h : a.HostKept b) (h' : b.HostKept c) : a.HostKept c := Eq.trans h' h

theorem Dev.HostKept.foldl {α : Type} {f : Dev → α → Dev} (h : ∀ d x, Dev.HostKept d (f d x)) (l : List α) :
    d.HostKept (l.foldl f d) :=
  foldl_frame (R := Dev.HostKept) .refl .trans h l d

theorem Dev.modTile_hostKept (t : Nat) (f : TileSt → TileSt) : d.HostKept (d.modTile t f) := Eq.refl d.host

theorem Dev.discardFlights_hostKept (fs : List Flight) : d.HostKept (d.discardFlights fs) := by
  refine .foldl d (fun d f => ?_) fs
  exact .foldl d (fun d x => d.modTile_hostKept x.1 _) f.start

theorem Dev.dropProg_hostKept (t : Nat) : d.HostKept (d.dropProg t) :=
  (d.discardFlights_hostKept _).trans (Dev.modTile_hostKept _ t _)

theorem Dev.releaseSlot_hostKept (i : StageIn) : d.HostKept (d.releaseSlot i) := by
  unfold Dev.releaseSlot
  dsimp only
  split <;> exact Eq.refl _

theorem Dev.closeXfer_hostKept (q : Nat) (seq : Word) : d.HostKept (d.closeXfer q seq) :=
  .trans (.foldl d Dev.releaseSlot_hostKept (d.loneSlots q seq)) (Eq.refl _)

theorem Dev.dropXfer_hostKept (q : Nat) (seq : Word) : d.HostKept (d.dropXfer q seq) := by
  refine .trans ?_ (Dev.closeXfer_hostKept _ q seq)
  split
  · exact .refl d
  · exact .foldl d Dev.releaseSlot_hostKept _

/-- A command that is killed completes, on a device whose host interface is as it was. -/
theorem Dev.kill_completes (q : Nat) (c : Cmd) (st : Status) (det : Detail) :
    ∃ e, d.AbortFrame e ∧ d.HostKept e ∧ d.kill q c st det =
      e.completeCmd q c ((d.firstFailure q c).getD (st, det, 0, 0)).1 ((d.firstFailure q c).getD (st, det, 0, 0)).2.1
        ((d.firstFailure q c).getD (st, det, 0, 0)).2.2.1 ((d.firstFailure q c).getD (st, det, 0, 0)).2.2.2 := by
  have hprog : d.AbortFrame (match d.progTile q c.seq with | some t => d.dropProg t | none => d) ∧
      d.HostKept (match d.progTile q c.seq with | some t => d.dropProg t | none => d) := by
    split
    · exact ⟨d.dropProg_aborts _, d.dropProg_hostKept _⟩
    · exact ⟨rfl, .refl d⟩
  have hlaunch (e : Dev) : e.AbortFrame (match e.launchOf q c.seq with | some l => e.freeLaunch l.id | none => e) ∧
      e.HostKept (match e.launchOf q c.seq with | some l => e.freeLaunch l.id | none => e) := by
    split
    · exact ⟨e.freeLaunch_aborts _, Eq.refl _⟩
    · exact ⟨rfl, .refl e⟩
  exact ⟨_, hprog.1.trans ((hlaunch _).1.trans (Dev.dropXfer_aborts _ q c.seq)),
    hprog.2.trans ((hlaunch _).2.trans (Dev.dropXfer_hostKept _ q c.seq)), rfl⟩

end

/-! ## Objects whose references are dropped -/

/-- A change of objects' references alone. -/
structure Dev.RefsOnly (d d' : Dev) : Prop where
  wf : Tab.wf Obj.reset d.host.objs = true → Tab.wf Obj.reset d'.host.objs = true
  obj : Tab.wf Obj.reset d.host.objs = true → ∀ k, d'.obj k = { d.obj k with refs := (d'.obj k).refs }

theorem Dev.RefsOnly.of_objs {d d' : Dev} (h : d'.host.objs = d.host.objs) : d.RefsOnly d' :=
  ⟨fun hw => by rwa [h], fun _ k => by rw [Dev.obj, Dev.obj, h]⟩

theorem Dev.RefsOnly.congr {d e d' : Dev} (h : d.RefsOnly e) (he : d'.host.objs = e.host.objs) : d.RefsOnly d' :=
  ⟨fun hw => he ▸ h.wf hw, fun hw k => by rw [Dev.obj, he]; exact h.obj hw k⟩

theorem Dev.RefsOnly.refl (d : Dev) : d.RefsOnly d := .of_objs rfl

theorem Dev.RefsOnly.trans {a b c : Dev} (h : a.RefsOnly b) (h' : b.RefsOnly c) : a.RefsOnly c :=
  ⟨h'.wf ∘ h.wf, fun hw k => by rw [h'.obj (h.wf hw) k, h.obj hw k]⟩

theorem Dev.dropRefs_refsOnly (d : Dev) (hs : List Word) : d.RefsOnly (d.dropRefs hs) :=
  foldl_frame .refl .trans (fun d h => ⟨fun hw => Tab.mod_wf _ _ hw _ _, fun hw k => by
    rw [Dev.obj, Dev.modObj, Tab.get_mod hw]
    split
    · next hk =>
      subst hk
      split <;> rfl
    · rfl⟩) hs d

theorem Dev.completeCmd_refsOnly (d : Dev) (q : Nat) (c : Cmd) (st : Status) (det : Detail) (info : BitVec 64)
    (rank : BitVec 21) : d.RefsOnly (d.completeCmd q c st det info rank) := by
  by_cases h : (d.cmd q c.seq).isSome = true
  · exact (d.dropRefs_refsOnly c.refs).congr (by rw [Dev.completeCmd_eq h, Dev.dropRefs_eq])
  · exact .of_objs (by rw [Dev.completeCmd, if_pos (by simpa using h)]; rfl)

theorem Dev.kill_refsOnly (d : Dev) (q : Nat) (c : Cmd) (st : Status) (det : Detail) : d.RefsOnly (d.kill q c st det) := by
  obtain ⟨e, -, hhost, hkill⟩ := d.kill_completes q c st det
  rw [hkill]
  exact .trans (.of_objs (congrArg HostBlk.objs hhost)) (e.completeCmd_refsOnly q c _ _ _ _)

theorem Dev.killWhere_refsOnly (d : Dev) (p : Nat → Cmd → Bool) (st : Status) (det : Detail) :
    d.RefsOnly (d.killWhere p st det) :=
  foldl_frame .refl .trans (fun d (x : Nat × Cmd) => d.kill_refsOnly x.1 x.2 st det) _ d

theorem Dev.killWhere_aborts (d : Dev) (p : Nat → Cmd → Bool) (st : Status) (det : Detail) :
    d.AbortFrame (d.killWhere p st det) :=
  .foldl (fun d (x : Nat × Cmd) => d.kill_aborts x.1 x.2 st det) _ d

/-! ## Records that are posted -/

/-- What the posting of records may change: the rings, the FIFOs and the events. Nothing leaves the outbox. -/
structure Dev.Posted (d d' : Dev) : Prop where
  frame : d' = { d with
    host := { d.host with queues := d'.host.queues, fifos := d'.host.fifos, lastSrc := d'.host.lastSrc }
    ev := d'.ev, pins := d'.pins, outbox := d'.outbox }
  outbox : ∃ es, d'.outbox = d.outbox ++ es

theorem Dev.Posted.refl (d : Dev) : d.Posted d := ⟨rfl, [], (List.append_nil _).symm⟩

theorem Dev.Posted.trans {a b c : Dev} (h : a.Posted b) (h' : b.Posted c) : a.Posted c := by
  obtain ⟨es, hes⟩ := h.outbox
  obtain ⟨fs, hfs⟩ := h'.outbox
  exact ⟨by rw [h'.frame, h.frame], es ++ fs, by rw [hfs, hes, List.append_assoc]⟩

theorem Dev.Posted.mem {d d' : Dev} (h : d.Posted d') {o : Output} (ho : o ∈ d.outbox) : o ∈ d'.outbox := by
  obtain ⟨es, hes⟩ := h.outbox
  rw [hes]
  exact List.mem_append_left _ ho

theorem Dev.emit_posted (d : Dev) (o : Output) : d.Posted (d.emit o) := ⟨rfl, [o], rfl⟩

theorem Dev.raise_outbox_append (d : Dev) (b : Blk) (k : Nat) : ∃ es, (d.raise b k).outbox = d.outbox ++ es := by
  have halert (e : Dev) : ∃ es, e.updateAlert.outbox = e.outbox ++ es := by
    unfold Dev.updateAlert
    dsimp only
    split
    · exact ⟨_, rfl⟩
    · exact ⟨[], (List.append_nil _).symm⟩
  unfold Dev.raise
  dsimp only
  split
  · obtain ⟨es, hes⟩ := halert (({ d with ev := d.ev.set b { d.ev.get b with ev := setBit (d.ev.get b).ev k } } : Dev).emit
      (.msix b.vector))
    exact ⟨.msix b.vector :: es, hes.trans (List.append_assoc _ [_] es)⟩
  · exact halert _

theorem Dev.raise_posted (d : Dev) (b : Blk) (k : Nat) : d.Posted (d.raise b k) :=
  ⟨by rw [Dev.raise_frame], d.raise_outbox_append b k⟩

theorem Dev.settle_posted (d : Dev) (q : Nat) : d.Posted (d.settle q) := by
  unfold Dev.settle
  split
  · exact .trans (b := d.modQueue q fun u => { u with st := .disabled }) ⟨rfl, [], (List.append_nil _).symm⟩
      (Dev.raise_posted _ _ _)
  · exact .refl d

/-- The ring takes the record. -/
def Dev.ringed (d : Dev) (src : Nat) (c : Completion) : Dev :=
  ({ d with host := { d.host with fifos := Tab.mod [] d.host.fifos src (·.drop 1), lastSrc := src } } : Dev).emit
    (.ringRecord ((d.queue c.queue.val).cqHi ++ (d.queue c.queue.val).cqLo +
      32 * (d.queue c.queue.val).cqTail.setWidth 64) (c.record (d.queue c.queue.val).phase))

theorem Dev.ringed_posted (d : Dev) (src : Nat) (c : Completion) : d.Posted (d.ringed src c) := ⟨rfl, _, rfl⟩

theorem Dev.vector_posted (d : Dev) (b : Bool) (o : Output) : d.Posted (if b then d.emit o else d) := by
  split
  · exact d.emit_posted o
  · exact .refl d

theorem Dev.modQueue_settle_posted (d : Dev) (q : Nat) (f : Queue → Queue) : d.Posted ((d.modQueue q f).settle q) :=
  .trans (b := d.modQueue q f) ⟨rfl, [], (List.append_nil _).symm⟩ (Dev.settle_posted _ q)

theorem Dev.postRecord_after_ringed (d : Dev) (src : Nat) (c : Completion) :
    (d.ringed src c).Posted (d.postRecord src c) :=
  ((d.ringed src c).vector_posted (c.irq || (d.queue c.queue.val).irqAll)
    (.msix (d.queue c.queue.val).vector.toNat)).trans (Dev.modQueue_settle_posted _ _ _)

theorem Dev.postRecord_posted (d : Dev) (src : Nat) (c : Completion) : d.Posted (d.postRecord src c) :=
  (d.ringed_posted src c).trans (d.postRecord_after_ringed src c)

theorem Dev.postRecord_rings (d : Dev) (src : Nat) (c : Completion) :
    ∃ addr phase, .ringRecord addr (c.record phase) ∈ (d.postRecord src c).outbox :=
  ⟨_, _, (d.postRecord_after_ringed src c).mem (List.mem_append_right _ List.mem_cons_self)⟩

theorem Dev.postAll_posted (n : Nat) (d : Dev) : d.Posted (Dev.postAll n d) := by
  induction n generalizing d with
  | zero => exact .refl d
  | succ n ih =>
    rw [Dev.postAll]
    split
    · exact (d.postRecord_posted _ _).trans (ih _)
    · exact .refl d

/-- Where one record waits, it is posted. -/
theorem Dev.postAll_single {d : Dev} {src : Nat} {r : Completion} (h : d.host.fifos = [(src, [r])]) :
    ∃ addr phase, .ringRecord addr (r.record phase) ∈ (Dev.postAll d.waitingRecords d).outbox := by
  have hn : d.waitingRecords = 1 := by rw [Dev.waitingRecords, h]; rfl
  have hready : d.readySources = [(src, r)] := by
    rw [Dev.readySources, h]
    simp [Dev.postable, h]
  have hnext : d.nextPost = some (src, r) := by
    rw [Dev.nextPost, hready]
    by_cases hlast : d.host.lastSrc < src <;> simp [hlast]
  rw [hn, Dev.postAll, hnext]
  exact d.postRecord_rings src r

/-! ## Objects that are freed -/

section
variable {α : Type} [DecidableEq α] {z : α}

theorem Tab.keys_pairwise {t : Tab α} {lo : Nat} (h : Tab.wfFrom z lo t = true) : t.Pairwise fun a b => a.1 < b.1 := by
  induction t generalizing lo with
  | nil => exact .nil
  | cons p t ih =>
    simp only [Tab.wfFrom, Bool.and_eq_true, decide_eq_true_eq] at h
    obtain ⟨_, ht⟩ := h
    exact .cons (fun b hb => (Tab.le_of_mem ht (v := b.2) hb).1) (ih ht)

/-- A run of changes of distinct entries. -/
theorem Tab.get_foldl_mod_nodup (f : α → α) {ks : List Nat} (hd : ks.Nodup) {t : Tab α} (h : Tab.wf z t = true) (j : Nat) :
    Tab.get z (ks.foldl (fun t k => Tab.mod z t k f) t) j = if j ∈ ks then f (Tab.get z t j) else Tab.get z t j := by
  induction ks generalizing t with
  | nil => simp
  | cons k ks ih =>
    obtain ⟨hk, hd⟩ := List.nodup_cons.1 hd
    rw [List.foldl_cons, ih hd (Tab.mod_wf z t h k f), Tab.get_mod h]
    by_cases hj : j = k
    · subst hj; simp [hk]
    · simp [hj]

/-- The entries of a canonical table that meet a condition which its default does not. -/
theorem Tab.mem_keys_filter {t : Tab α} (h : Tab.wf z t = true) {p : α → Bool} (hz : p z = false) (k : Nat) :
    k ∈ (t.filter fun x => p x.2).map (·.1) ↔ p (Tab.get z t k) = true := by
  constructor
  · intro hk
    obtain ⟨x, hx, rfl⟩ := List.mem_map.1 hk
    obtain ⟨hm, hp⟩ := List.mem_filter.1 hx
    rwa [Tab.get_of_mem h (v := x.2) hm]
  · intro hp
    refine List.mem_map.2 ⟨_, List.mem_filter.2 ⟨Tab.mem_of_get fun he => ?_, hp⟩, rfl⟩
    rw [he, hz] at hp
    exact Bool.noConfusion hp

end

theorem Dev.freeObjs_eq (d : Dev) (p : Obj → Bool) : d.freeObjs p = { d with host := { d.host with
    objs := ((d.host.objs.filter fun x => x.2.st != .free && p x.2).map (·.1)).foldl
      (fun t k => Tab.mod Obj.reset t k fun o => { Obj.reset with gen := nextGen o.gen }) d.host.objs } } := by
  rw [List.foldl_map]
  exact Dev.foldl_modObj _ _ _ _

theorem Dev.freeObjs_obj {d : Dev} (hw : Tab.wf Obj.reset d.host.objs = true) (p : Obj → Bool) (k : Nat) :
    (d.freeObjs p).obj k = if (d.obj k).st ≠ .free ∧ p (d.obj k) = true then
      { Obj.reset with gen := nextGen (d.obj k).gen } else d.obj k := by
  rw [Dev.freeObjs_eq]
  have hnd : ((d.host.objs.filter fun x => x.2.st != .free && p x.2).map (·.1)).Nodup :=
    List.pairwise_map.2 (((Tab.keys_pairwise hw).filter _).imp Nat.ne_of_lt)
  refine (Tab.get_foldl_mod_nodup _ hnd hw k).trans (if_congr ?_ rfl rfl)
  rw [Tab.mem_keys_filter hw (p := fun o => o.st != .free && p o) rfl, Bool.and_eq_true, bne_iff_ne]
  rfl

/-! ## A function level reset -/

/-- What a function level reset of the host's contexts leaves. -/
structure HostCleared (d d' : Dev) : Prop where
  queues : d'.host.queues = []
  fences : d'.host.fences = []
  ctxBusy : d'.host.ctxBusy = false
  deadCtx : d'.host.deadCtx = []
  dbl : d'.ev.get .dbl = { Ev.reset with ev := 2 }
  obj : Tab.wf Obj.reset d.host.objs = true → ∀ k, d'.obj k =
    if (d.obj k).st ≠ .free ∧ (d.obj k).ctx ≠ 0 then { Obj.reset with gen := nextGen (d.obj k).gen }
    else { d.obj k with refs := (d'.obj k).refs }
  plan : d'.plan = d.plan
  clrs : d'.clrs = d.clrs
  hbm : d'.mem.hbm = d.mem.hbm
  sec : d'.sec = d.sec
  tide : d'.tide = d.tide
  bus : d'.bus = d.bus
  posted : ∀ q c, d.cmds = [(q, c)] → d.host.fifos = [] → d.progTile q c.seq = none → d.launchOf q c.seq = none →
    (d.queue q).cmds = [c] → ∃ addr phase,
      .ringRecord addr ((Dev.completion q c .aborted .flr 0 0 d.host.nextOrd).record phase) ∈ d'.outbox

/-- The host's blocks as an FLR leaves them. -/
def Dev.hostOff (d : Dev) : Dev :=
  ({ d with
    host := { d.host with queues := [], fences := [], rr := [], ctxBusy := false, ctxNum := 0, deadCtx := [] },
    ev := { d.ev with dbl := Ev.reset } } : Dev).raise .dbl 1

theorem Dev.hostOff_frame (d : Dev) : d.hostOff = { d with
    host := { d.host with queues := [], fences := [], rr := [], ctxBusy := false, ctxNum := 0, deadCtx := [] }
    ev := d.hostOff.ev, pins := d.hostOff.pins, outbox := d.hostOff.outbox } :=
  Dev.raise_frame _ _ _

theorem Dev.hostOff_dbl (d : Dev) : d.hostOff.ev.get .dbl = { Ev.reset with ev := 2 } := by
  rw [Dev.hostOff, Dev.raise_ev, Events.get_set_self]
  exact congrArg (Ev.mk · 0) (by decide : setBit 0 1 = 2)

/-- The one command of a device leaves one record. -/
theorem Dev.killWhere_single {d : Dev} {q : Nat} {c : Cmd} (hcmds : d.cmds = [(q, c)]) (hfifos : d.host.fifos = [])
    (hprog : d.progTile q c.seq = none) (hlaunch : d.launchOf q c.seq = none) (hq : (d.queue q).cmds = [c])
    (st : Status) (det : Detail) : (d.killWhere (fun _ _ => true) st det).host.fifos =
      [(c.src, [Dev.completion q c st det 0 0 d.host.nextOrd])] := by
  have hfail : d.firstFailure q c = none := by
    rw [Dev.firstFailure, hprog, hlaunch]
    rfl
  obtain ⟨e, -, hhost, hkill⟩ := d.kill_completes q c st det
  rw [hfail] at hkill
  have hcmd : (e.cmd q c.seq).isSome = true := by
    rw [Dev.cmd, Dev.queue, hhost, ← Dev.queue, hq]
    simp
  rw [Dev.killWhere, hcmds]
  change (d.kill q c st det).host.fifos = _
  rw [hkill, Dev.completeCmd_eq hcmd]
  dsimp only [Option.getD]
  rw [hhost, hfifos]
  rfl

/-- The stages of a function level reset, each by what it may change. -/
theorem funcReset_stages (d : Dev) : ∃ e₁ e₂ e₃ : Dev, d.AbortFrame e₁ ∧ d.RefsOnly e₁ ∧
    (∀ q c, d.cmds = [(q, c)] → d.host.fifos = [] → d.progTile q c.seq = none → d.launchOf q c.seq = none →
      (d.queue q).cmds = [c] → e₁.host.fifos = [(c.src, [Dev.completion q c .aborted .flr 0 0 d.host.nextOrd])]) ∧
    e₁.Posted e₂ ∧ (∀ src r, e₁.host.fifos = [(src, [r])] → ∃ addr phase,
      .ringRecord addr (r.record phase) ∈ e₂.outbox) ∧
    e₃ = { e₂ with host := { e₂.host with objs := e₃.host.objs } } ∧
    (Tab.wf Obj.reset e₂.host.objs = true → ∀ k, e₃.obj k =
      if (e₂.obj k).st ≠ .free ∧ ((e₂.obj k).ctx != 0) = true then
        { Obj.reset with gen := nextGen (e₂.obj k).gen } else e₂.obj k) ∧
    d.funcReset = e₃.hostOff :=
  ⟨_, _, _, d.killWhere_aborts _ _ _, d.killWhere_refsOnly _ _ _,
    fun _ _ h1 h2 h3 h4 h5 => Dev.killWhere_single h1 h2 h3 h4 h5 _ _,
    Dev.postAll_posted _ _, fun _ _ h => Dev.postAll_single h,
    by rw [Dev.freeObjs_eq], fun h => Dev.freeObjs_obj h fun o => o.ctx != 0, rfl⟩

theorem Dev.hostOff_outbox {d : Dev} {o : Output} (h : o ∈ d.outbox) : o ∈ d.hostOff.outbox :=
  (Dev.raise_posted _ _ _).mem h

theorem funcReset_cleared (d : Dev) : HostCleared d d.funcReset := by
  obtain ⟨e₁, e₂, e₃, habort, hrefs, hsingle, hpost, hone, hfree, hobj, hreset⟩ := funcReset_stages d
  have hframe : d.funcReset = { e₃ with
      host := { e₃.host with queues := [], fences := [], rr := [], ctxBusy := false, ctxNum := 0, deadCtx := [] }
      ev := d.funcReset.ev, pins := d.funcReset.pins, outbox := d.funcReset.outbox } := by
    rw [hreset]
    exact e₃.hostOff_frame
  have hkept : d.funcReset.plan = d.plan ∧ d.funcReset.clrs = d.clrs ∧ d.funcReset.mem.hbm = d.mem.hbm ∧
      d.funcReset.sec = d.sec ∧ d.funcReset.tide = d.tide ∧ d.funcReset.bus = d.bus := by
    rw [hframe, hfree, hpost.frame, habort]
    exact ⟨rfl, rfl, rfl, rfl, rfl, rfl⟩
  obtain ⟨hplan, hclrs, hhbm, hsec, htide, hbus⟩ := hkept
  exact {
    queues := by rw [hframe]
    fences := by rw [hframe]
    ctxBusy := by rw [hframe]
    deadCtx := by rw [hframe]
    dbl := by rw [hreset]; exact e₃.hostOff_dbl
    obj := fun hw k => by
      have hobjs : e₂.host.objs = e₁.host.objs := by rw [hpost.frame]
      have hk : e₂.obj k = e₁.obj k := by rw [Dev.obj, hobjs, Dev.obj]
      have h : d.funcReset.obj k = e₃.obj k := by rw [hframe]; rfl
      rw [h, hobj (hobjs ▸ hrefs.wf hw) k, hk, hrefs.obj hw k]
      dsimp only
      split
      · next hc => exact (if_pos ⟨hc.1, by simpa using hc.2⟩).symm
      · next hc => exact (if_neg fun h => hc ⟨h.1, by simpa using h.2⟩).symm
    plan := hplan
    clrs := hclrs
    hbm := hhbm
    sec := hsec
    tide := htide
    bus := hbus
    posted := fun q c h1 h2 h3 h4 h5 => by
      obtain ⟨addr, phase, hring⟩ := hone _ _ (hsingle q c h1 h2 h3 h4 h5)
      refine ⟨addr, phase, hreset ▸ Dev.hostOff_outbox ?_⟩
      rwa [hfree] }

/-! ## PERST_N, TDISP messages and the function resets -/

section
variable {d : Dev}

theorem doPerstNAssert_running (hr : d.running = true) (hp : d.bus.perst = false) : doPerstNAssert d =
    { d.funcReset.emit .pcieLinkReset with bus := { d.funcReset.bus with perst := true, cfgReady := false } } := by
  rw [doPerstNAssert, if_neg (by simp [hp]), if_pos hr]
  rfl

theorem doTdispMessage_moves {fn : Nat} {a : Tdi} (h : tdiMoves (d.tdi fn) a = true) (ha : a ≠ .error) :
    doTdispMessage fn a d = { d with bus := { d.bus with tdi := Tab.set .configUnlocked d.bus.tdi fn a } } :=
  (if_pos h).trans (if_neg ha)

theorem doTdispMessage_error {fn : Nat} {a : Tdi} (h : tdiMoves (d.tdi fn) a = true) (ha : a = .error) :
    doTdispMessage fn a d =
      ({ d with bus := { d.bus with tdi := Tab.set .configUnlocked d.bus.tdi fn a } } : Dev).funcReset :=
  (if_pos h).trans (if_pos ha)

theorem doTdispMessage_refused {fn : Nat} {a : Tdi} (h : tdiMoves (d.tdi fn) a = false) : doTdispMessage fn a d = d :=
  if_neg (by simp [h])

end

/-- Settles O46: every one of the four resets runs the function level reset, which clears the host's blocks. -/
theorem functionResets : Obligations.FunctionResets := by
  unfold Obligations.FunctionResets
  intro s fn a hr hw d out cleared
  have hcleared {d₀ d' : Dev} (h : HostCleared d₀ d') (h0 : d₀ = { d with bus := d₀.bus }) : cleared d' := by
    rw [h0] at h
    exact ⟨h.queues, h.fences, h.ctxBusy, h.deadCtx, h.dbl, h.obj hw, h.plan, h.clrs, h.hbm, h.sec, h.tide, h.posted⟩
  have hemit {e : Dev} (h : cleared e) (b : Bus) : cleared { e.emit .pcieLinkReset with bus := b } := by
    obtain ⟨hq, hf, hc, hdead, hdbl, hobj, hplan, hclrs, hhbm, hsec, htide, hposted⟩ := h
    exact ⟨hq, hf, hc, hdead, hdbl, hobj, hplan, hclrs, hhbm, hsec, htide, fun q c h1 h2 h3 h4 h5 =>
      have ⟨addr, phase, h⟩ := hposted q c h1 h2 h3 h4 h5
      ⟨addr, phase, List.mem_append_left _ h⟩⟩
  have hreset := funcReset_cleared d
  refine ⟨⟨_, act_eq_next hr rfl, act_eq_next hr rfl, hcleared hreset rfl, hreset.bus⟩, fun hp => ?_,
    fun hp => ⟨congrArg out (if_pos hp), congrArg out (if_pos hp)⟩,
    ⟨fun hm ha => act_eq_next hr (doTdispMessage_moves hm ha), fun hm ha => ?_,
      fun hm => act_eq_next hr (doTdispMessage_refused hm)⟩,
    fun h => act_eq_next hr (if_pos h), fun h => act_eq_next hr (if_neg h)⟩
  · exact ⟨_, congrArg out (doPerstNAssert_running hr hp), hemit (hcleared hreset rfl) _,
      List.mem_append_right _ List.mem_cons_self,
      congrArg (fun b : Bus => { b with perst := true, cfgReady := false }) hreset.bus⟩
  · have herr := funcReset_cleared { d with bus := { d.bus with tdi := Tab.set .configUnlocked d.bus.tdi fn.val a } }
    exact ⟨_, act_eq_next hr (doTdispMessage_error hm ha), hcleared herr rfl, herr.bus⟩

end Sys2Proof.Machine

/-! PROOFS. What the resets of engines and clearings share: commands that end, generations that are taken. -/

namespace Sys2Proof.Machine
open Sys2Proof

/-! ## Tile generations -/

/-- The tiles' generations stay, and their table stays canonical. -/
structure Dev.GensKept (d d' : Dev) : Prop where
  wf : Tab.wf TileSt.reset d.tiles = true → Tab.wf TileSt.reset d'.tiles = true
  gen : Tab.wf TileSt.reset d.tiles = true → ∀ t, (d'.tile t).gen = (d.tile t).gen

theorem Dev.GensKept.of_tiles {d d' : Dev} (h : d'.tiles = d.tiles) : d.GensKept d' :=
  ⟨fun hw => by rwa [h], fun _ t => by rw [Dev.tile, Dev.tile, h]⟩

theorem Dev.GensKept.refl (d : Dev) : d.GensKept d := .of_tiles rfl

theorem Dev.GensKept.trans {a b c : Dev} (h : a.GensKept b) (h' : b.GensKept c) : a.GensKept c :=
  ⟨h'.wf ∘ h.wf, fun hw t => (h'.gen (h.wf hw) t).trans (h.gen hw t)⟩

theorem Dev.GensKept.foldl {α : Type} {f : Dev → α → Dev} (h : ∀ d x, Dev.GensKept d (f d x)) (l : List α) (d : Dev) :
    d.GensKept (l.foldl f d) :=
  foldl_frame (R := Dev.GensKept) .refl .trans h l d

theorem Tab.get_each {α : Type} [DecidableEq α] {z : α} {t : Tab α} {lo : Nat} (h : Tab.wfFrom z lo t = true)
    (f : Nat → α → α) (k : Nat) :
    Tab.get z (Tab.each z t f) k = if Tab.get z t k = z then z else f k (Tab.get z t k) := by
  induction t generalizing lo k with
  | nil => simp [Tab.each, Tab.get]
  | cons p t ih =>
    simp only [Tab.wfFrom, Bool.and_eq_true, decide_eq_true_eq] at h
    obtain ⟨⟨_, hp⟩, ht⟩ := h
    have hbelow : Tab.get z (Tab.each z t f) p.1 = z := by
      rw [ih ht, Tab.get_below z t ht (Nat.lt_succ_self _), if_pos rfl]
    have hcons : Tab.each z (p :: t) f =
        if f p.1 p.2 ≠ z then (p.1, f p.1 p.2) :: Tab.each z t f else Tab.each z t f := by
      simp only [Tab.each, List.map_cons, List.filter_cons, decide_eq_true_eq]
    rw [hcons, Tab.get]
    by_cases hk : p.1 = k
    · subst hk
      rw [if_pos rfl, if_neg hp]
      split
      · rw [Tab.get, if_pos rfl]
      · next hz => rw [hbelow, not_not.1 hz]
    · rw [if_neg hk]
      split
      · rw [Tab.get, if_neg hk, ih ht]
      · exact ih ht k

section
variable (d : Dev)

theorem Dev.modTile_gensKept (t : Nat) {f : TileSt → TileSt} (hf : ∀ x, (f x).gen = x.gen) : d.GensKept (d.modTile t f) :=
  ⟨fun hw => Tab.mod_wf _ _ hw _ _, fun hw k => by
    rw [Dev.tile, Dev.modTile, Tab.get_mod hw]
    split
    · next hk => rw [hf, hk]; rfl
    · rfl⟩

theorem Dev.discardFlights_gensKept (fs : List Flight) : d.GensKept (d.discardFlights fs) := by
  refine .foldl (fun d f => ?_) fs d
  exact .foldl (fun d x => d.modTile_gensKept x.1 (f := fun s => s.setSlot f.slot x.2) fun _ => rfl) f.start d

theorem Dev.dropProg_gensKept (t : Nat) : d.GensKept (d.dropProg t) :=
  (d.discardFlights_gensKept _).trans (Dev.modTile_gensKept _ t fun _ => rfl)

theorem Dev.freeLaunch_tiles (id : Nat) : ∃ f : Nat → TileSt → TileSt, (∀ n x, (f n x).gen = x.gen) ∧
    (d.freeLaunch id).tiles = Tab.each TileSt.reset d.tiles f := by
  unfold Dev.freeLaunch
  dsimp only
  refine ⟨_, ?_, rfl⟩
  exact fun _ _ => rfl

theorem Dev.freeLaunch_gensKept (id : Nat) : d.GensKept (d.freeLaunch id) := by
  obtain ⟨f, hf, htiles⟩ := d.freeLaunch_tiles id
  refine ⟨fun hw => by rw [htiles]; exact Tab.each_wf _ _ hw f, fun hw t => ?_⟩
  rw [Dev.tile, htiles, Tab.get_each hw]
  split
  · next h => rw [Dev.tile, h]
  · exact hf _ _

theorem Dev.dropXfer_tiles (q : Nat) (seq : Word) : (d.dropXfer q seq).tiles = d.tiles := by
  have hslot (d : Dev) (i : StageIn) : (d.releaseSlot i).tiles = d.tiles := by
    unfold Dev.releaseSlot
    dsimp only
    split <;> rfl
  have hslots (l : List StageIn) (d : Dev) : (l.foldl Dev.releaseSlot d).tiles = d.tiles :=
    foldl_frame (R := fun a b => b.tiles = a.tiles) (fun _ => rfl) (fun h h' => h'.trans h) hslot l d
  have hclose (d : Dev) : (d.closeXfer q seq).tiles = d.tiles := hslots (d.loneSlots q seq) d
  refine (hclose _).trans ?_
  split
  · rfl
  · exact hslots _ d

theorem Dev.completeCmd_tiles (q : Nat) (c : Cmd) (st : Status) (det : Detail) (info : BitVec 64) (rank : BitVec 21) :
    (d.completeCmd q c st det info rank).tiles = d.tiles := by
  by_cases h : (d.cmd q c.seq).isSome = true
  · rw [Dev.completeCmd_eq h]
  · rw [Dev.completeCmd, if_pos (by simpa using h)]
    rfl

theorem Dev.kill_gensKept (q : Nat) (c : Cmd) (st : Status) (det : Detail) : d.GensKept (d.kill q c st det) := by
  have hprog : d.GensKept (match d.progTile q c.seq with | some t => d.dropProg t | none => d) := by
    split
    · exact d.dropProg_gensKept _
    · exact .refl d
  have hlaunch (e : Dev) : e.GensKept (match e.launchOf q c.seq with | some l => e.freeLaunch l.id | none => e) := by
    split
    · exact e.freeLaunch_gensKept _
    · exact .refl e
  exact hprog.trans ((hlaunch _).trans ((Dev.GensKept.of_tiles (Dev.dropXfer_tiles _ q c.seq)).trans
    (.of_tiles (Dev.completeCmd_tiles _ q c _ _ _ _))))

theorem Dev.scramble_gensKept (t off n : Nat) : d.GensKept (d.scramble t off n) :=
  (d.modTile_gensKept t (f := fun s => 
    { s with op := Tab.setRun 0 s.op off ((List.range n).map fun i => Config.freeByte d.free (off + i)) }) fun _ => rfl).trans (.of_tiles rfl)

/-! ## Commands that a reset ends -/

/-- What the commands that a reset ends may change. -/
def Dev.BreakFrame (d d' : Dev) : Prop :=
  d' = { d with
    sched := { d.sched with dead := d'.sched.dead }
    tiles := d'.tiles, ctxs := d'.ctxs, launches := d'.launches, mem := { d.mem with reqs := d'.mem.reqs }
    lnk := d'.lnk
    host := { d.host with
      queues := d'.host.queues, objs := d'.host.objs, fifos := d'.host.fifos, nextOrd := d'.host.nextOrd } }

/-- The same, with the events that the reset raises; the requests in flight stay. -/
def Dev.CmdsReset (d d' : Dev) : Prop :=
  d' = { d with
    sched := { d.sched with dead := d'.sched.dead }
    tiles := d'.tiles, ctxs := d'.ctxs, launches := d'.launches, lnk := d'.lnk
    host := { d.host with
      queues := d'.host.queues, objs := d'.host.objs, fifos := d'.host.fifos, nextOrd := d'.host.nextOrd }
    ev := d'.ev, pins := d'.pins, outbox := d'.outbox }

theorem Dev.BreakFrame.refl : d.BreakFrame d := rfl

theorem Dev.BreakFrame.trans {a b c : Dev} (h : a.BreakFrame b) (h' : b.BreakFrame c) : a.BreakFrame c := by
  unfold Dev.BreakFrame at *
  rw [h', h]

theorem Dev.breakAct_frame (c : Cmd) : d.BreakFrame (d.breakAct c) := by
  unfold Dev.breakAct
  split <;> rfl

theorem Dev.breakAct_host (c : Cmd) : (d.breakAct c).host = d.host := by
  unfold Dev.breakAct
  split <;> rfl

theorem Dev.breakAct_tiles (c : Cmd) : (d.breakAct c).tiles = d.tiles := by
  unfold Dev.breakAct
  split <;> rfl

theorem Dev.breakAct_firstFailure (c : Cmd) (q : Nat) : (d.breakAct c).firstFailure q c = d.firstFailure q c := by
  unfold Dev.breakAct
  split <;> rfl

theorem Dev.AbortFrame.breaks {a b : Dev} (h : a.AbortFrame b) : a.BreakFrame b := by
  unfold Dev.AbortFrame Dev.BreakFrame at *
  rw [h]

/-- The commands of a list end. -/
def Dev.endCmds (d : Dev) (cs : List (Nat × Cmd)) (st : Status) (det : Detail) : Dev :=
  cs.foldl (fun d x => (d.breakAct x.2).kill x.1 x.2 st det) d

variable (cs : List (Nat × Cmd)) (st : Status) (det : Detail)

theorem Dev.endCmds_frame : d.BreakFrame (d.endCmds cs st det) :=
  foldl_frame (R := Dev.BreakFrame) .refl .trans
    (fun d (x : Nat × Cmd) => (d.breakAct_frame x.2).trans (Dev.kill_aborts _ x.1 x.2 st det).breaks) cs d

theorem Dev.endCmds_gensKept : d.GensKept (d.endCmds cs st det) :=
  .foldl (fun d (x : Nat × Cmd) => .trans (.of_tiles (d.breakAct_tiles x.2))
    (Dev.kill_gensKept _ x.1 x.2 st det)) cs d

theorem Dev.endCmds_refsOnly : d.RefsOnly (d.endCmds cs st det) :=
  foldl_frame (R := Dev.RefsOnly) .refl .trans
    (fun d (x : Nat × Cmd) => .trans (.of_objs (congrArg HostBlk.objs (d.breakAct_host x.2)))
      (Dev.kill_refsOnly _ x.1 x.2 st det)) cs d

theorem Dev.resetCmds_eq : d.resetCmds cs st det =
    ({ d.endCmds cs st det with mem := { (d.endCmds cs st det).mem with reqs := d.mem.reqs } } : Dev).raiseIf
      (cs.any fun x => !x.2.unscheduled) .flt 5 := rfl

theorem Dev.resetCmds_frame : d.CmdsReset (d.resetCmds cs st det) := by
  have h := d.endCmds_frame cs st det
  rw [Dev.resetCmds_eq]
  unfold Dev.BreakFrame at h
  generalize d.endCmds cs st det = e at *
  unfold Dev.CmdsReset
  rw [Dev.raiseIf_frame, h]

theorem Dev.resetCmds_host : (d.resetCmds cs st det).host = (d.endCmds cs st det).host := by
  rw [Dev.resetCmds_eq, Dev.raiseIf_frame]

theorem Dev.resetCmds_tiles : (d.resetCmds cs st det).tiles = (d.endCmds cs st det).tiles := by
  rw [Dev.resetCmds_eq, Dev.raiseIf_frame]

theorem Dev.resetCmds_gensKept : d.GensKept (d.resetCmds cs st det) :=
  (d.endCmds_gensKept cs st det).trans (.of_tiles (by rw [Dev.resetCmds_tiles]))

theorem Dev.endCmds_single (q : Nat) (c : Cmd) : d.endCmds [(q, c)] st det = (d.breakAct c).kill q c st det := by
  rw [Dev.endCmds, List.foldl_cons, List.foldl_nil]

theorem Dev.resetCmds_nil_host : (d.resetCmds [] st det).host = d.host := d.resetCmds_host [] st det

end

section
variable {d : Dev} {q : Nat} {c : Cmd} (hc : d.cmd q c.seq = some c) (hf : d.firstFailure q c = none)
include hc hf

/-- The one command that a reset ends completes with the reset's status. -/
theorem Dev.resetCmds_single (st : Status) (det : Detail) :
    (Tab.wf Queue.reset d.host.queues = true → (d.resetCmds [(q, c)] st det).cmd q c.seq = none) ∧
      Dev.completion q c st det 0 0 d.host.nextOrd ∈ Tab.get [] (d.resetCmds [(q, c)] st det).host.fifos c.src := by
  obtain ⟨e, -, hhost, hkill⟩ := (d.breakAct c).kill_completes q c st det
  rw [Dev.breakAct_firstFailure, hf] at hkill
  dsimp only [Option.getD] at hkill
  have hhost : e.host = d.host := Eq.trans hhost (d.breakAct_host c)
  have hcmd : (e.cmd q c.seq).isSome = true := by
    rw [Dev.cmd, Dev.queue, hhost]
    exact Dev.cmd_isSome hc
  have hend : (d.resetCmds [(q, c)] st det).host = (e.completeCmd q c st det 0 0).host := by
    rw [Dev.resetCmds_host, Dev.endCmds_single, hkill]
  obtain ⟨hnone, hfifo⟩ := Dev.completeCmd_completes hcmd st det 0
  rw [hend, hfifo, hhost]
  refine ⟨fun hw => ?_, List.mem_append_right _ List.mem_cons_self⟩
  rw [Dev.cmd, Dev.queue, hend]
  exact hnone (hhost ▸ hw)

end

/-- A reset that ends a scheduled command raises the broken activity. -/
theorem Dev.resetCmds_breaks (d : Dev) (q : Nat) {c : Cmd} (st : Status) (det : Detail) (ha : c.actId ≠ 0xFFFF) :
    ((d.resetCmds [(q, c)] st det).ev.get .flt).ev.getLsbD 5 = true := by
  have hs : c.unscheduled = false := by simpa [Cmd.unscheduled] using ha
  rw [Dev.resetCmds_eq, Dev.raiseIf, List.any_cons, List.any_nil, hs]
  exact Dev.raise_shows _ _ (by decide)

/-! ## Generations that are taken -/

theorem Dev.raise_keeps_bit (d : Dev) (b : Blk) {j k : Nat} (hk : k < 32)
    (h : (d.ev.get b).ev.getLsbD k = true) : ((d.raise b j).ev.get b).ev.getLsbD k = true := by
  rw [Dev.raise_ev, Events.get_set_self, getLsbD_setBit _ _ hk, h]
  rfl

section
variable (d : Dev)

/-- A change of the links alone. -/
def Dev.LinksOnly (d d' : Dev) : Prop := d' = { d with lnk := d'.lnk }

theorem Dev.LinksOnly.trans {a b c : Dev} (h : a.LinksOnly b) (h' : b.LinksOnly c) : a.LinksOnly c := by
  unfold Dev.LinksOnly at *
  rw [h', h]

theorem Dev.sendCtrl_linksOnly (l : Nat) (m : CtrlMsg) : d.LinksOnly (d.sendCtrl l m) := rfl

theorem Dev.announce_linksOnly (es : List RoleEntry) : d.LinksOnly (d.announce es) :=
  foldl_frame (R := Dev.LinksOnly) (fun _ => rfl) .trans (fun d l => d.sendCtrl_linksOnly l _) _ d

theorem Dev.announce_tiles (es : List RoleEntry) : (d.announce es).tiles = d.tiles := by rw [d.announce_linksOnly es]

/-- What the taking of generations may change, the clearing's own apart. -/
def Dev.GroupsBumped (d d' : Dev) : Prop :=
  d' = { d with tiles := d'.tiles, lnk := d'.lnk, flt := { d.flt with chanGen := d'.flt.chanGen } }

theorem Dev.GroupsBumped.trans {a b c : Dev} (h : a.GroupsBumped b) (h' : b.GroupsBumped c) : a.GroupsBumped c := by
  unfold Dev.GroupsBumped at *
  rw [h', h]

theorem Dev.LinksOnly.groups {a b : Dev} (h : a.LinksOnly b) : a.GroupsBumped b := by
  unfold Dev.LinksOnly Dev.GroupsBumped at *
  rw [h]

theorem Dev.modTile_groups (t : Nat) (f : TileSt → TileSt) : d.GroupsBumped (d.modTile t f) := rfl

theorem Dev.bumpGroup_groups (t : Nat) : d.GroupsBumped (d.bumpGroup t) :=
  (d.modTile_groups (d.leader t) fun s => { s with gen := s.gen + 1 }).trans (Dev.announce_linksOnly _ _).groups

theorem Dev.bumpChan_groups (e : Nat) : d.GroupsBumped (d.bumpChan e) := rfl

theorem Dev.bumpClr_groups (n : Nat) : (d.modClr n Clearing.bumped).GroupsBumped (d.bumpClr n) :=
  ((foldl_frame (R := Dev.GroupsBumped) (fun _ => rfl) .trans Dev.bumpChan_groups (channels n) _).trans
    (Dev.announce_linksOnly _ _).groups).trans
    (foldl_frame (R := Dev.GroupsBumped) (fun _ => rfl) .trans Dev.bumpGroup_groups _ _)

variable {d}

theorem Dev.bumpGroup_tileGen (hw : Tab.wf TileSt.reset d.tiles = true) (t : Nat) :
    (d.bumpGroup t).tileGen t = d.tileGen t + 1 := by
  have hlinks := (d.modTile (d.leader t) fun s => { s with gen := s.gen + 1 }).announce_linksOnly
    [{ kind := 1, unit := BitVec.ofNat 8 (d.leader t),
       gen := (d.modTile (d.leader t) fun s => { s with gen := s.gen + 1 }).tileGen t }]
  change ((d.modTile (d.leader t) fun s => { s with gen := s.gen + 1 }).announce
    [{ kind := 1, unit := BitVec.ofNat 8 (d.leader t),
       gen := (d.modTile (d.leader t) fun s => { s with gen := s.gen + 1 }).tileGen t }]).tileGen t = _
  rw [hlinks]
  exact congrArg TileSt.gen (Tab.get_set TileSt.reset d.tiles hw (d.leader t) _)

end

/-! ## A clearing recovery reset -/

section
variable (d : Dev) (n : Nat)

/-- The commands of the clearing's queues. -/
def Dev.cmdsOf : List (Nat × Cmd) := d.cmds.filter fun x => d.queueClr x.1 == some n

/-- The commands of a clearing have ended. -/
def Dev.emptied : Dev := d.resetCmds (d.cmdsOf n) .aborted .clearingHalted

/-- The resets of a clearing within its window, with this one. -/
def Dev.clrTimes : List Nat := d.timeUs :: recent d.timeUs d.esc.clrWindowS (d.clr n).clrResets

/-- A clearing as its recovery reset begins. -/
def Clearing.resetting (c : Clearing) (times : List Nat) (out : Bool) : Clearing :=
  { c with st := .resetting, measure := 0, clrResets := times, oos := c.oos || out }

/-- The clearing under its next role generation, its lines gone. -/
def Dev.renewed (times : List Nat) (out : Bool) : Dev :=
  ((d.modClr n fun c => c.resetting times out).dropLines n).bumpClr n

/-- The clearing's tiles are wiped and its engines are busy no more. -/
def Dev.quieted : Dev :=
  let e := (d.tilesOf n).foldl Dev.wipeTile d
  { e with flt := { e.flt with engBusy := e.flt.engBusy.filter fun x => !Dev.recoveryReset.belongs e n x.toNat } }

/-- The reset is logged and raised, and the clearing's leaving of service where it leaves it. -/
def Dev.recoveryTold (out : Prop) [Decidable out] : Dev :=
  let e := (d.logEvent 0x04 n 0xFFFF 1 0).raise .flt 1
  if out then (e.logEvent 0x07 n 0xFFFF 0 0).raise .flt 3 else e

/-- What follows the end of the clearing's commands. -/
def Dev.recovered : Dev :=
  ((d.renewed n (d.clrTimes n) (decide (d.esc.clrCount ≤ (d.clrTimes n).length))).quieted n).recoveryTold n
    (d.esc.clrCount ≤ (d.clrTimes n).length)

theorem Dev.recoveryReset_eq : d.recoveryReset n = (d.emptied n).recovered n := by
  unfold Dev.recoveryReset Dev.emptied Dev.cmdsOf
  generalize d.resetCmds (d.cmds.filter fun x => d.queueClr x.1 == some n) .aborted .clearingHalted = e
  unfold Dev.recovered Dev.renewed Dev.quieted Dev.recoveryTold Dev.clrTimes Clearing.resetting
  rfl

end

section
variable (d : Dev) (n : Nat)

theorem Dev.renewed_groups (times : List Nat) (out : Bool) :
    ((((d.modClr n fun c => c.resetting times out).dropLines n)).modClr n Clearing.bumped).GroupsBumped
      (d.renewed n times out) := Dev.bumpClr_groups _ n

theorem Dev.foldl_wipeTile_frame (l : List Nat) :
    l.foldl Dev.wipeTile d = { d with tiles := (l.foldl Dev.wipeTile d).tiles } := by
  refine foldl_frame (R := fun a b => b = { a with tiles := b.tiles }) (fun _ => rfl) (fun h h' => by rw [h', h])
    (fun d t => ?_) l d
  rfl

/-- A tile as a reset leaves it. -/
def TileSt.wiped (x : TileSt) : TileSt := { TileSt.reset with gen := x.gen }

theorem Dev.foldl_wipeTile_tiles (l : List Nat) : (l.foldl Dev.wipeTile d).tiles =
    l.foldl (fun ts t => Tab.mod TileSt.reset ts t TileSt.wiped) d.tiles := by
  induction l generalizing d with
  | nil => rfl
  | cons t l ih => exact ih (d.wipeTile t)

theorem Dev.foldl_wipeTile_tile {d : Dev} (hw : Tab.wf TileSt.reset d.tiles = true) {l : List Nat} {t : Nat} (h : t ∈ l) :
    (l.foldl Dev.wipeTile d).tile t = (d.tile t).wiped := by
  rw [Dev.tile, Dev.foldl_wipeTile_tiles, Tab.get_foldl_mod (f := TileSt.wiped) (fun _ => rfl) l hw, if_pos h]
  rfl

theorem Dev.recoveryTold_frame (out : Prop) [Decidable out] : d.recoveryTold n out = { d with
    flt := { d.flt with
      log := (d.recoveryTold n out).flt.log, logHead := (d.recoveryTold n out).flt.logHead
      wrapped := (d.recoveryTold n out).flt.wrapped }
    ev := (d.recoveryTold n out).ev, pins := (d.recoveryTold n out).pins, outbox := (d.recoveryTold n out).outbox } := by
  unfold Dev.recoveryTold
  dsimp only
  split
  · rw [Dev.raise_frame, Dev.logEvent, Dev.raise_frame]
    rfl
  · rw [Dev.raise_frame]
    rfl

theorem Dev.recoveryTold_shows (out : Prop) [Decidable out] :
    ((d.recoveryTold n out).ev.get .flt).ev.getLsbD 1 = true := by
  unfold Dev.recoveryTold
  dsimp only
  have h : (((d.logEvent 0x04 n 0xFFFF 1 0).raise .flt 1).ev.get .flt).ev.getLsbD 1 = true :=
    Dev.raise_shows _ _ (by decide)
  split
  · exact Dev.raise_keeps_bit _ _ (by decide) h
  · exact h

/-- What a clearing's recovery reset leaves, once its commands have ended. -/
structure Dev.Recovered (d : Dev) (n : Nat) (d' : Dev) : Prop where
  frame : d' = { d with
    clrs := d'.clrs, tiles := d'.tiles, lnk := d'.lnk
    mem := { d.mem with cache := d.mem.cache.filter fun p => p.2.frame != n }
    flt := { d.flt with
      log := d'.flt.log, logHead := d'.flt.logHead, wrapped := d'.flt.wrapped, chanGen := d'.flt.chanGen
      engBusy := d.flt.engBusy.filter fun x => !Dev.recoveryReset.belongs d n x.toNat }
    ev := d'.ev, pins := d'.pins, outbox := d'.outbox }
  clrs : d'.clrs = Tab.mod Clearing.reset (Tab.mod Clearing.reset d.clrs n fun c =>
    c.resetting (d.clrTimes n) (decide (d.esc.clrCount ≤ (d.clrTimes n).length))) n Clearing.bumped
  shows : (d'.ev.get .flt).ev.getLsbD 1 = true
  tile : Tab.wf TileSt.reset d.tiles = true → ∀ t ∈ d.tilesOf n, d'.tile t = (d'.tile t).wiped

end

section
variable (d : Dev)

theorem Dev.modTile_tiles_wf (hw : Tab.wf TileSt.reset d.tiles = true) (t : Nat) (f : TileSt → TileSt) :
    Tab.wf TileSt.reset (d.modTile t f).tiles = true := Tab.mod_wf _ _ hw t f

theorem Dev.bumpChan_tiles (e : Nat) : (d.bumpChan e).tiles = d.tiles := rfl

theorem Dev.bumpGroup_tiles_wf (hw : Tab.wf TileSt.reset d.tiles = true) (t : Nat) :
    Tab.wf TileSt.reset (d.bumpGroup t).tiles = true := by
  unfold Dev.bumpGroup
  dsimp only
  rw [Dev.announce_tiles]
  exact d.modTile_tiles_wf hw _ _

theorem Dev.bumpClr_tiles_wf (hw : Tab.wf TileSt.reset d.tiles = true) (n : Nat) :
    Tab.wf TileSt.reset (d.bumpClr n).tiles = true := by
  have hchan (l : List Nat) (e : Dev) : (l.foldl Dev.bumpChan e).tiles = e.tiles :=
    foldl_frame (R := fun a b => b.tiles = a.tiles) (fun _ => rfl) (fun h h' => h'.trans h) Dev.bumpChan_tiles l e
  have hgroups (l : List Nat) (e : Dev) (he : Tab.wf TileSt.reset e.tiles = true) :
      Tab.wf TileSt.reset (l.foldl Dev.bumpGroup e).tiles = true :=
    foldl_frame (R := fun a b => Tab.wf TileSt.reset a.tiles = true → Tab.wf TileSt.reset b.tiles = true)
      (fun _ => id) (fun h h' => h' ∘ h) (fun d t h => d.bumpGroup_tiles_wf h t) l e he
  refine hgroups _ _ ?_
  rw [Dev.announce_tiles]
  exact (hchan (channels n) (d.modClr n Clearing.bumped)).symm ▸ hw

theorem Dev.tilesOf_congr {d e : Dev} (h : e.plan = d.plan) (n : Nat) : e.tilesOf n = d.tilesOf n := by
  rw [Dev.tilesOf, Dev.tilesOf, Dev.planClr, Dev.planClr, h]

theorem Dev.recovered_recovers (n : Nat) : d.Recovered n (d.recovered n) := by
  have hgroups := d.renewed_groups n (d.clrTimes n) (decide (d.esc.clrCount ≤ (d.clrTimes n).length))
  have hwf (hw : Tab.wf TileSt.reset d.tiles = true) : Tab.wf TileSt.reset
      (d.renewed n (d.clrTimes n) (decide (d.esc.clrCount ≤ (d.clrTimes n).length))).tiles = true :=
    Dev.bumpClr_tiles_wf ((d.modClr n fun c => c.resetting (d.clrTimes n) (decide (d.esc.clrCount ≤ (d.clrTimes n).length))).dropLines n) hw n
  unfold Dev.recovered
  generalize d.renewed n (d.clrTimes n) (decide (d.esc.clrCount ≤ (d.clrTimes n).length)) = e at *
  unfold Dev.GroupsBumped at hgroups
  have hwipe := e.foldl_wipeTile_frame (e.tilesOf n)
  have htold := (e.quieted n).recoveryTold_frame n (d.esc.clrCount ≤ (d.clrTimes n).length)
  have hplan : e.plan = d.plan := by rw [hgroups]; rfl
  constructor
  case frame =>
    rw [htold, Dev.quieted, hwipe, hgroups]
    rfl
  case clrs =>
    rw [htold, Dev.quieted, hwipe, hgroups]
    rfl
  case shows => exact (e.quieted n).recoveryTold_shows n _
  case tile =>
    intro hw t ht
    have : ((e.quieted n).recoveryTold n (d.esc.clrCount ≤ (d.clrTimes n).length)).tile t =
        ((e.tilesOf n).foldl Dev.wipeTile e).tile t := by
      rw [htold]
      rfl
    rw [this, Dev.foldl_wipeTile_tile (hwf hw) (Dev.tilesOf_congr hplan n ▸ ht)]
    rfl

end

end Sys2Proof.Machine

/-! PROOFS. Engine resets: watchdogs, RST_CMD, overrun activities, and what becomes a clearing's reset (R348–R358). -/

namespace Sys2Proof.Machine
open Sys2Proof

section
variable (d : Dev) (n e : Nat)

/-- The resets of a clearing's engines within their window. -/
def Dev.engTimes : List Nat := recent d.timeUs d.esc.engWindowS (d.clr n).engResets

/-- The reset is counted in its clearing. -/
def Dev.engCounted : Dev :=
  d.modClr n fun c => { c with engResets := d.timeUs :: d.engTimes n, lastEngine := BitVec.ofNat 16 e }

/-- The commands at work on an engine. -/
def Dev.cmdsOn : List (Nat × Cmd) := d.cmds.filter fun x => d.onEngine e x.1 x.2

/-- The operand-store ranges that the engine's running LOADs write. -/
def Dev.loadRanges : List (Nat × Nat) :=
  match (d.tile (d.leader (e / 16 % 256))).prog with
  | some g => if e / 4096 < 2 then moverRanges g else []
  | none => []

/-- The ranges are undefined. -/
def Dev.scrambled (rs : List (Nat × Nat)) : Dev := rs.foldl (fun d r => d.scramble (e / 16 % 256) r.1 r.2) d

/-- The engine's tile group or channel takes its next generation. -/
def Dev.engBumped : Dev := if e / 4096 < 5 then d.bumpGroup (e / 16 % 256) else d.bumpChan e

/-- The engine is busy with its reset, which is logged. -/
def Dev.engHeld : Dev :=
  ({ d with flt := { d.flt with engBusy := d.flt.engBusy ++ [BitVec.ofNat 16 e] } } : Dev).logEvent 0x02 n
    (BitVec.ofNat 16 e) 1 0

/-- The engine's own reset, once it is counted. -/
def Dev.engNarrow : Dev :=
  ((((d.resetCmds (d.cmdsOn e) .aborted .none).scrambled e (d.loadRanges e)).engBumped e).engHeld n e).raise .flt 0

variable {d n e}

theorem Dev.engineReset_narrow (he : d.engineClr e = some n) (h : (d.engTimes n).length + 1 < d.esc.engCount) :
    d.engineReset e = (d.engCounted n e).engNarrow n e := by
  unfold Dev.engineReset
  rw [he]
  unfold Dev.engNarrow Dev.engHeld Dev.engBumped Dev.scrambled Dev.loadRanges Dev.cmdsOn Dev.engCounted
  exact if_neg (Nat.not_le.2 h)

theorem Dev.engineReset_wide (he : d.engineClr e = some n) (h : d.esc.engCount ≤ (d.engTimes n).length + 1) :
    d.engineReset e = (d.engCounted n e).recoveryReset n := by
  unfold Dev.engineReset
  rw [he]
  exact if_pos h

end

/-! ## An engine's own reset -/

/-- What an engine's own reset leaves (R348, R353). -/
structure EngineKept (e : BitVec 16) (d d' : Dev) : Prop where
  busy : e ∈ d'.flt.engBusy
  clr : ∀ k, (d'.clr k).st = (d.clr k).st ∧ (d'.clr k).roleGen = (d.clr k).roleGen
  gen : if e.toNat / 4096 < 5 then d'.tileGen (e.toNat / 16 % 256) = d.tileGen (e.toNat / 16 % 256) + 1
    else Tab.get 0 d'.flt.chanGen e.toNat = (Tab.get 0 d.flt.chanGen e.toNat + 1) % 4096
  event : (d'.ev.get .flt).ev.getLsbD 0 = true
  hbm : d'.mem.hbm = d.mem.hbm
  cache : d'.mem.cache = d.mem.cache
  sec : d'.sec = d.sec
  plan : d'.plan = d.plan
  single : ∀ q c, (d.cmds.filter fun x => d.onEngine e.toNat x.1 x.2) = [(q, c)] → d.cmd q c.seq = some c →
    d.firstFailure q c = none → d'.cmd q c.seq = none ∧ Dev.completion q c .aborted .none 0 0 d.host.nextOrd ∈
      Tab.get [] d'.host.fifos c.src ∧ (c.actId ≠ 0xFFFF → (d'.ev.get .flt).ev.getLsbD 5 = true)
  idle : (∀ x ∈ d.cmds, d.onEngine e.toNat x.1 x.2 = false) → d'.host = d.host

section
variable (d : Dev)

/-- What an engine's reset changes after its commands have ended. -/
def Dev.EngFrame (d d' : Dev) : Prop :=
  d' = { d with free := d'.free, tiles := d'.tiles, lnk := d'.lnk, flt := { d.flt with chanGen := d'.flt.chanGen } }

theorem Dev.EngFrame.trans {a b c : Dev} (h : a.EngFrame b) (h' : b.EngFrame c) : a.EngFrame c := by
  unfold Dev.EngFrame at *
  rw [h', h]

theorem Dev.GroupsBumped.eng {a b : Dev} (h : a.GroupsBumped b) : a.EngFrame b := by
  unfold Dev.GroupsBumped Dev.EngFrame at *
  rw [h]

/-- What the scrambling of operand stores changes. -/
def Dev.StoresOnly (d d' : Dev) : Prop := d' = { d with free := d'.free, tiles := d'.tiles }

theorem Dev.StoresOnly.trans {a b c : Dev} (h : a.StoresOnly b) (h' : b.StoresOnly c) : a.StoresOnly c := by
  unfold Dev.StoresOnly at *
  rw [h', h]

theorem Dev.StoresOnly.eng {a b : Dev} (h : a.StoresOnly b) : a.EngFrame b := by
  unfold Dev.StoresOnly Dev.EngFrame at *
  rw [h]

theorem Dev.scramble_storesOnly (t off n : Nat) : d.StoresOnly (d.scramble t off n) := rfl

theorem Dev.scrambled_storesOnly (e : Nat) (rs : List (Nat × Nat)) : d.StoresOnly (d.scrambled e rs) :=
  foldl_frame (R := Dev.StoresOnly) (fun _ => rfl) .trans
    (fun d (r : Nat × Nat) => d.scramble_storesOnly (e / 16 % 256) r.1 r.2) rs d

theorem Dev.scrambled_gensKept (e : Nat) (rs : List (Nat × Nat)) : d.GensKept (d.scrambled e rs) :=
  .foldl (fun d (r : Nat × Nat) => d.scramble_gensKept (e / 16 % 256) r.1 r.2) rs d

theorem Dev.engBumped_eng (e : Nat) : d.EngFrame (d.engBumped e) := by
  unfold Dev.engBumped
  split
  · exact (d.bumpGroup_groups _).eng
  · exact (d.bumpChan_groups _).eng

theorem Dev.tileGen_congr {d d' : Dev} (hp : d'.plan = d.plan) (h : ∀ t, (d'.tile t).gen = (d.tile t).gen) (t : Nat) :
    d'.tileGen t = d.tileGen t := by
  rw [Dev.tileGen, Dev.tileGen, h, Dev.leader, Dev.leader, Dev.gangOf, Dev.gangOf, hp]

variable {d : Dev} {n : Nat} {e : BitVec 16}

/-- The generation that the reset takes is the engine's alone. -/
theorem Dev.engBumped_gen (hw : Tab.wf TileSt.reset d.tiles = true) (hg : Tab.wf 0 d.flt.chanGen = true) (e : Nat) :
    if e / 4096 < 5 then (d.engBumped e).tileGen (e / 16 % 256) = d.tileGen (e / 16 % 256) + 1
    else Tab.get 0 (d.engBumped e).flt.chanGen e = (Tab.get 0 d.flt.chanGen e + 1) % 4096 := by
  unfold Dev.engBumped
  split
  · exact Dev.bumpGroup_tileGen hw _
  · exact Tab.get_set 0 d.flt.chanGen hg e _

/-- The stages of an engine's own reset, each by what it may change. -/
theorem Dev.engNarrow_stages (d : Dev) (n : Nat) (e : BitVec 16) : ∃ d₁ d₂ : Dev,
    d₁ = d.resetCmds (d.cmdsOn e.toNat) .aborted .none ∧ d₁.StoresOnly d₂ ∧ d₁.GensKept d₂ ∧
      d.engNarrow n e.toNat = ((d₂.engBumped e.toNat).engHeld n e.toNat).raise .flt 0 :=
  ⟨_, _, rfl, Dev.scrambled_storesOnly _ _ _, Dev.scrambled_gensKept _ _ _, rfl⟩

theorem Dev.engNarrow_kept (hq : Tab.wf Queue.reset d.host.queues = true) (ht : Tab.wf TileSt.reset d.tiles = true)
    (hg : Tab.wf 0 d.flt.chanGen = true) : EngineKept e d (d.engNarrow n e.toNat) := by
  obtain ⟨d₁, d₂, h₁, hstores, hgens, heq⟩ := d.engNarrow_stages n e
  have hcmds : d.CmdsReset d₁ := h₁ ▸ d.resetCmds_frame (d.cmdsOn e.toNat) .aborted .none
  have hgens : d.GensKept d₂ := .trans (h₁ ▸ d.resetCmds_gensKept (d.cmdsOn e.toNat) .aborted .none) hgens
  unfold Dev.CmdsReset at hcmds
  have hplan : d₂.plan = d.plan := by rw [hstores, hcmds]
  have hflt : d₂.flt = d.flt := by rw [hstores, hcmds]
  have hgen := Dev.engBumped_gen (d := d₂) (hgens.wf ht) (hflt ▸ hg) e.toNat
  rw [Dev.tileGen_congr hplan (hgens.gen ht), hflt] at hgen
  have hframe : d₁.EngFrame (d₂.engBumped e.toNat) := hstores.eng.trans (d₂.engBumped_eng e.toNat)
  rw [heq]
  generalize d₂.engBumped e.toNat = d₃ at *
  unfold Dev.EngFrame at hframe
  have hraise := (d₃.engHeld n e.toNat).raise_frame .flt 0
  have hhost : ((d₃.engHeld n e.toNat).raise .flt 0).host = d₁.host := by
    rw [hraise, Dev.engHeld, Dev.logEvent, hframe]
  have hclrs : ((d₃.engHeld n e.toNat).raise .flt 0).clrs = d.clrs := by
    rw [hraise, Dev.engHeld, Dev.logEvent, hframe, hcmds]
  have hmem : ((d₃.engHeld n e.toNat).raise .flt 0).mem = d.mem := by
    rw [hraise, Dev.engHeld, Dev.logEvent, hframe, hcmds]
  constructor
  case busy =>
    rw [hraise]
    exact List.mem_append_right _ (List.mem_singleton.2 (by simp))
  case clr => exact fun k => by rw [Dev.clr, hclrs]; exact ⟨rfl, rfl⟩
  case gen =>
    have htile : ((d₃.engHeld n e.toNat).raise .flt 0).tileGen (e.toNat / 16 % 256) = d₃.tileGen (e.toNat / 16 % 256) := by
      rw [hraise]
      rfl
    rw [htile, Dev.raise_flt]
    exact hgen
  case event => exact Dev.raise_shows _ _ (by decide)
  case hbm => rw [hmem]
  case cache => rw [hmem]
  case sec => rw [hraise, Dev.engHeld, Dev.logEvent, hframe, hcmds]
  case plan => rw [hraise, Dev.engHeld, Dev.logEvent, hframe, hcmds]
  case single =>
    intro q c hone hc hf
    have hone : d₁ = d.resetCmds [(q, c)] .aborted .none := hone ▸ h₁
    obtain ⟨hnone, hposted⟩ := Dev.resetCmds_single hc hf .aborted .none
    rw [← hone] at hnone hposted
    rw [Dev.cmd, Dev.queue, hhost]
    refine ⟨hnone hq, hposted, fun ha => Dev.raise_keeps_bit _ _ (by decide) ?_⟩
    have hev : (d₃.engHeld n e.toNat).ev = d₁.ev := by rw [Dev.engHeld, Dev.logEvent, hframe]
    rw [hev, hone]
    exact d.resetCmds_breaks q .aborted .none ha
  case idle =>
    intro hnone
    have hempty : d.cmdsOn e.toNat = [] := List.filter_eq_nil_iff.2 fun x hx => by simp [hnone x hx]
    rw [hhost, h₁, hempty, Dev.resetCmds_nil_host]

end

/-! ## What becomes a clearing's reset -/

/-- What a reset that takes its whole clearing leaves. -/
structure ClearingTaken (n : Nat) (d d' : Dev) : Prop where
  st : (d'.clr n).st = .resetting
  event : (d'.ev.get .flt).ev.getLsbD 1 = true
  roleGen : (d'.clr n).roleGen = (d.clr n).roleGen + 1
  others : ∀ k, k ≠ n → d'.clr k = d.clr k

section
variable (d : Dev) (n : Nat)

theorem Dev.emptied_clrs : (d.emptied n).clrs = d.clrs := by
  have h := d.resetCmds_frame (d.cmdsOf n) .aborted .clearingHalted
  rw [Dev.emptied]
  unfold Dev.CmdsReset at h
  rw [h]

theorem Dev.Recovered.clr_self {d d' : Dev} {n : Nat} (h : d.Recovered n d') : d'.clr n = Clearing.bumped
    ((d.clr n).resetting (d.clrTimes n) (decide (d.esc.clrCount ≤ (d.clrTimes n).length))) := by
  have hne (c : Clearing) (ts : List Nat) (out : Bool) : c.resetting ts out ≠ Clearing.reset :=
    fun he => ClrSt.noConfusion (congrArg Clearing.st he)
  have hne' (c : Clearing) (ts : List Nat) (out : Bool) : (c.resetting ts out).bumped ≠ Clearing.reset :=
    fun he => ClrSt.noConfusion (congrArg Clearing.st he)
  have hin : Tab.get Clearing.reset (Tab.mod Clearing.reset d.clrs n fun c => c.resetting (d.clrTimes n)
      (decide (d.esc.clrCount ≤ (d.clrTimes n).length))) n = _ := Tab.get_set_self Clearing.reset d.clrs n (hne (d.clr n) _ _)
  rw [Dev.clr, h.clrs]
  exact (congrArg (fun v => Tab.get Clearing.reset (Tab.set Clearing.reset _ n (Clearing.bumped v)) n) hin).trans
    (Tab.get_set_self _ _ n (hne' _ _ _))

theorem Dev.Recovered.clr_other {d d' : Dev} {n k : Nat} (h : d.Recovered n d') (hk : k ≠ n) : d'.clr k = d.clr k := by
  rw [Dev.clr, h.clrs]
  exact (Tab.get_set_ne _ _ _ hk).trans (Tab.get_set_ne _ _ _ hk)

theorem Dev.recoveryReset_takes : ClearingTaken n d (d.recoveryReset n) := by
  have h := (d.emptied n).recovered_recovers n
  have hclr (k : Nat) : (d.emptied n).clr k = d.clr k := by rw [Dev.clr, d.emptied_clrs n, Dev.clr]
  rw [Dev.recoveryReset_eq]
  refine ⟨?_, h.shows, ?_, fun k hk => (h.clr_other hk).trans (hclr k)⟩
  · rw [h.clr_self]
    rfl
  · rw [h.clr_self, hclr]
    rfl

end

/-! ## The reset of an engine -/

section
variable {d : Dev} {n : Nat} {e : BitVec 16}

theorem Dev.engCounted_clr_self (d : Dev) (n e : Nat) : (d.engCounted n e).clr n =
    { d.clr n with engResets := d.timeUs :: d.engTimes n, lastEngine := BitVec.ofNat 16 e } :=
  Tab.get_set_self Clearing.reset d.clrs n fun h => List.cons_ne_nil _ _ (congrArg Clearing.engResets h)

theorem Dev.engCounted_clr_other (d : Dev) {n k : Nat} (e : Nat) (hk : k ≠ n) : (d.engCounted n e).clr k = d.clr k :=
  Tab.get_set_ne _ _ _ hk

theorem Dev.engCounted_clr (d : Dev) (n e k : Nat) : ((d.engCounted n e).clr k).st = (d.clr k).st ∧
    ((d.engCounted n e).clr k).roleGen = (d.clr k).roleGen := by
  by_cases hk : k = n
  · rw [hk, Dev.engCounted_clr_self]
    exact ⟨rfl, rfl⟩
  · rw [Dev.engCounted_clr_other d e hk]
    exact ⟨rfl, rfl⟩

/-- An entry of the log and the count of a reset are no part of what the reset keeps. -/
theorem EngineKept.of_counted {d' : Dev} {t : Tab Clearing} {l : Tab LogEntry} {i : BitVec 10} {w : Bool}
    (h : EngineKept e { d with clrs := t, flt := { d.flt with log := l, logHead := i, wrapped := w } } d')
    (ht : ∀ k, (Tab.get Clearing.reset t k).st = (d.clr k).st ∧
      (Tab.get Clearing.reset t k).roleGen = (d.clr k).roleGen) : EngineKept e d d' :=
  ⟨h.busy, fun k => ⟨(h.clr k).1.trans (ht k).1, (h.clr k).2.trans (ht k).2⟩, h.gen, h.event, h.hbm, h.cache, h.sec,
    h.plan, h.single, h.idle⟩

theorem Dev.engineReset_kept (hq : Tab.wf Queue.reset d.host.queues = true)
    (ht : Tab.wf TileSt.reset d.tiles = true) (hg : Tab.wf 0 d.flt.chanGen = true) (he : d.engineClr e.toNat = some n)
    (hn : (d.engTimes n).length + 1 < d.esc.engCount) : EngineKept e d (d.engineReset e.toNat) := by
  rw [Dev.engineReset_narrow he hn]
  exact .of_counted (Dev.engNarrow_kept (d := d.engCounted n e.toNat) hq ht hg) (d.engCounted_clr n e.toNat)

theorem Dev.engineReset_logged_kept (hq : Tab.wf Queue.reset d.host.queues = true)
    (ht : Tab.wf TileSt.reset d.tiles = true) (hg : Tab.wf 0 d.flt.chanGen = true) (he : d.engineClr e.toNat = some n)
    (hn : (d.engTimes n).length + 1 < d.esc.engCount) (type : Byte) (m : Nat) (x : BitVec 16) :
    EngineKept e d ((d.logEvent type m x 0 0).engineReset e.toNat) :=
  .of_counted (Dev.engineReset_kept (d := d.logEvent type m x 0 0) hq ht hg he hn) fun _ => ⟨rfl, rfl⟩

theorem Dev.engineReset_takes (he : d.engineClr e.toNat = some n) (hn : d.esc.engCount ≤ (d.engTimes n).length + 1) :
    ClearingTaken n d (d.engineReset e.toNat) := by
  have h := (d.engCounted n e.toNat).recoveryReset_takes n
  rw [Dev.engineReset_wide he hn]
  exact ⟨h.st, h.event, h.roleGen.trans (by rw [(d.engCounted_clr n e.toNat n).2]),
    fun k hk => (h.others k hk).trans (d.engCounted_clr_other e.toNat hk)⟩

/-! ## The instructions -/

theorem doRstEngine_unknown (h : d.engineClr e.toNat = none) : doRstEngine e.toNat d = d.rstAnswer 2 := by
  rw [doRstEngine, h]

theorem doRstEngine_busy (h : d.engineClr e.toNat = some n) (hr : d.underReset n = true) :
    doRstEngine e.toNat d = d.rstAnswer 1 := by
  rw [doRstEngine, h]
  exact if_pos hr

theorem doRstEngine_runs (h : d.engineClr e.toNat = some n) (hr : d.underReset n = false) :
    doRstEngine e.toNat d = (d.engineReset e.toNat).rstRuns e.toNat := by
  rw [doRstEngine, h]
  exact if_neg (by simp [hr])

theorem doEngineWatchdog_unknown (h : d.engineClr e.toNat = none) : doEngineWatchdog e.toNat d = d := by
  rw [doEngineWatchdog, h]

theorem worksFor_eq_true {e : Nat} (h : ∃ x ∈ d.cmds, d.onEngine e x.1 x.2 = true) : (d.worksFor e fun _ => true) = true :=
  List.any_eq_true.2 (by simpa using h)

theorem worksFor_eq_false {e : Nat} {p : Cmd → Bool} (h : ∀ x ∈ d.cmds, d.onEngine e x.1 x.2 = false) :
    d.worksFor e p = false :=
  List.any_eq_false.2 fun x hx => by simp [h x hx]

theorem doEngineWatchdog_stays (h : d.engineClr e.toNat = some n)
    (hs : d.underReset n = true ∨ (d.worksFor e.toNat fun _ => true) = false) : doEngineWatchdog e.toNat d = d := by
  rw [doEngineWatchdog, h]
  refine if_pos ?_
  rcases hs with hs | hs <;> simp [hs]

theorem doEngineWatchdog_resets (h : d.engineClr e.toNat = some n) (hr : d.underReset n = false)
    (hw : (d.worksFor e.toNat fun _ => true) = true) : doEngineWatchdog e.toNat d =
      (d.logEvent 0x01 n (BitVec.ofNat 16 e.toNat) 0 0).engineReset e.toNat := by
  rw [doEngineWatchdog, h]
  exact if_neg (by simp [hr, hw])

theorem engineBusy_of_mem (h : e ∈ d.flt.engBusy) : d.engineBusy e.toNat = true :=
  List.any_eq_true.2 ⟨e, h, beq_self_eq_true _⟩

theorem engineIdle_eq (d : Dev) (e : BitVec 16) :
    d.engineIdle e.toNat = { d with flt := { d.flt with engBusy := d.flt.engBusy.filter (· != e) } } := by
  have : (fun x : BitVec 16 => x.toNat != e.toNat) = (· != e) := by
    funext x
    rw [Bool.eq_iff_iff, bne_iff_ne, bne_iff_ne, ne_eq, ne_eq, BitVec.toNat_inj]
  rw [Dev.engineIdle, this]

theorem doEngineResetDone_busy (h : e ∈ d.flt.engBusy) : doEngineResetDone e.toNat d = { d with flt := { d.flt with
    engBusy := d.flt.engBusy.filter (· != e), rstFor := d.flt.rstFor.filter (· != e.toNat) } } := by
  rw [doEngineResetDone, if_pos (engineBusy_of_mem h), engineIdle_eq]

theorem doEngineResetTimeout_busy (h : e ∈ d.flt.engBusy) (hn : d.engineClr e.toNat = some n) :
    doEngineResetTimeout e.toNat d =
      ((d.engineIdle e.toNat).logEvent 0x03 n (BitVec.ofNat 16 e.toNat) 0 0).recoveryReset n := by
  rw [doEngineResetTimeout, engineBusy_of_mem h, hn]

theorem Dev.recoveryReset_engBusy (d : Dev) (n : Nat) {x : BitVec 16} (h : x ∈ (d.recoveryReset n).flt.engBusy) :
    x ∈ d.flt.engBusy := by
  rw [Dev.recoveryReset_eq, ((d.emptied n).recovered_recovers n).frame] at h
  have hflt : (d.emptied n).flt = d.flt := by
    have hf := d.resetCmds_frame (d.cmdsOf n) .aborted .clearingHalted
    rw [Dev.emptied]
    unfold Dev.CmdsReset at hf
    rw [hf]
  exact hflt ▸ List.mem_of_mem_filter h

end

section
variable {d : Dev} {a : BitVec 16} {inst : Word} {r : ActRun} {x : PlanTemplate × PlanAct}
  (hr : d.run a inst = some r) (hx : d.activity a = some x)
include hr hx

theorem doActivityOverrun_inTime (h : d.overdue r x.2 = false) : doActivityOverrun a inst d = d := by
  rw [doActivityOverrun, hr, hx]
  exact if_pos (by simp [h])

theorem doActivityOverrun_noEngine (h : d.overdue r x.2 = true) (hc : d.cmds = []) :
    doActivityOverrun a inst d = (d.logEvent 0x0A r.clearing 0xFFFF 0 0).raise .flt 4 := by
  have hnone : (allEngines.filter fun e => (d.logEvent 0x0A r.clearing 0xFFFF 0 0).worksFor e fun c =>
      c.actId == a && c.inst == inst) = [] :=
    List.filter_eq_nil_iff.2 fun e _ => by
      rw [worksFor_eq_false (d := d.logEvent 0x0A r.clearing 0xFFFF 0 0) fun x hx => absurd (hc ▸ hx) List.not_mem_nil]
      exact Bool.false_ne_true
  rw [doActivityOverrun, hr, hx]
  refine (if_neg (by simp [h])).trans ?_
  dsimp only
  rw [hnone]
  rfl

theorem doActivityOverrun_engine {e : BitVec 16} {n : Nat} (h : d.overdue r x.2 = true)
    (he : (allEngines.filter fun e => d.worksFor e fun c => c.actId == a && c.inst == inst) = [e.toNat])
    (hn : d.engineClr e.toNat = some n) (hu : d.underReset n = false) :
    doActivityOverrun a inst d = (d.logEvent 0x0A r.clearing 0xFFFF 0 0).engineReset e.toNat := by
  rw [doActivityOverrun, hr, hx]
  refine (if_neg (by simp [h])).trans ?_
  dsimp only
  rw [show (allEngines.filter fun e => (d.logEvent 0x0A r.clearing 0xFFFF 0 0).worksFor e fun c =>
    c.actId == a && c.inst == inst) = [e.toNat] from he]
  rw [if_neg (by simp), List.foldl_cons, List.foldl_nil,
    show (d.logEvent 0x0A r.clearing 0xFFFF 0 0).engineClr e.toNat = some n from hn]
  exact if_neg (by rw [show (d.logEvent 0x0A r.clearing 0xFFFF 0 0).underReset n = false from hu]; simp)

end

/-- Settles O47: an engine's reset keeps the clearings, until the count or its time-out makes it the clearing's. -/
theorem engineResets : Obligations.EngineResets := by
  unfold Obligations.EngineResets
  intro s e n a inst hr hq ht hg d t out tell times kept wider
  have hkept {d' : Dev} (h : EngineKept e d d') : kept d' :=
    ⟨h.busy, h.clr, h.gen, h.event, h.hbm, h.cache, h.sec, h.plan, h.single, h.idle⟩
  have hwider {d' : Dev} (h : ClearingTaken n d d') : wider d' := ⟨h.st, h.event, h.roleGen, h.others⟩
  refine ⟨fun hn => ⟨act_eq_next hr (doRstEngine_unknown hn), act_eq_next hr (doEngineWatchdog_unknown hn)⟩,
    fun hn => ⟨fun hu => ⟨act_eq_next hr (doRstEngine_busy hn hu), act_eq_next hr (doEngineWatchdog_stays hn (.inl hu))⟩,
      fun hu => ⟨fun hc => ?_, fun hc => ?_⟩, fun hb => ?_⟩, fun r x hrun hact => ?_⟩
  · have h := Dev.engineReset_kept hq ht hg hn hc
    refine ⟨⟨_, act_eq_next hr (doRstEngine_runs hn hu),
      hkept ⟨h.busy, h.clr, h.gen, h.event, h.hbm, h.cache, h.sec, h.plan, h.single, h.idle⟩,
      List.mem_append_right _ (List.mem_singleton.2 rfl), rfl⟩, fun hw => ?_, fun hw => ?_⟩
    · exact ⟨_, act_eq_next hr (doEngineWatchdog_resets hn hu (worksFor_eq_true hw)),
        hkept (Dev.engineReset_logged_kept hq ht hg hn hc _ _ _)⟩
    · exact act_eq_next hr (doEngineWatchdog_stays hn (.inr (worksFor_eq_false hw)))
  · have h := Dev.engineReset_takes hn hc
    exact ⟨_, act_eq_next hr (doRstEngine_runs hn hu), hwider ⟨h.st, h.event, h.roleGen, h.others⟩,
      List.mem_append_right _ (List.mem_singleton.2 rfl)⟩
  · have h := ((d.engineIdle e.toNat).logEvent 0x03 n (BitVec.ofNat 16 e.toNat) 0 0).recoveryReset_takes n
    refine ⟨act_eq_next hr (doEngineResetDone_busy hb), _, act_eq_next hr (doEngineResetTimeout_busy hb hn),
      hwider ⟨h.st, h.event, h.roleGen, h.others⟩, fun hmem => ?_⟩
    have := Dev.recoveryReset_engBusy _ _ hmem
    rw [engineIdle_eq] at this
    simpa using List.of_mem_filter this
  · intro bound
    refine ⟨fun hlt => ?_, fun hdone hle => ⟨fun hc => ?_, fun he hn hu hc => ?_⟩⟩
    · exact act_eq_next hr (doActivityOverrun_inTime hrun hact (by
        rw [Dev.overdue, decide_eq_false (Nat.not_le.2 hlt), Bool.and_false]))
    · refine ⟨_, act_eq_next hr (doActivityOverrun_noEngine hrun hact ?_ hc), Dev.raise_shows _ _ (by decide), ?_, ?_⟩
      · rw [Dev.overdue, hdone, decide_eq_true hle]
        rfl
      · rw [Dev.raise_host]
        rfl
      · rw [Dev.raise_clrs]
        rfl
    · refine ⟨_, act_eq_next hr (doActivityOverrun_engine hrun hact ?_ he hn hu),
        hkept (Dev.engineReset_logged_kept hq ht hg hn hc _ _ _)⟩
      rw [Dev.overdue, hdone, decide_eq_true hle]
      rfl

end Sys2Proof.Machine

/-! PROOFS. A stand of one clearing, and the Commons repair that fails on it (R359): a counterexample. -/

namespace Sys2Proof.Machine
open Sys2Proof

/-- The one region of the stand: granule 0, SEALED_FULL. -/
def oneRegion : PlanRegion := { clearing := 0, mode := 0, sector := 0, first := 0, count := 1, reservedZero := true }

/-- A plan of clearing 0 alone, with queues 0 to 7 and granule 0, of which the strandline saves the first chunk. -/
def onePlan : StandPlan :=
  { raw := [], dir := [], paddingZero := true, layoutLens := [], gangs := [], linkMode := 0, links := [], fractions := []
    ownerMask := 0, quorum := 0, flows := [], keyPolicy := [], templates := [], escalation := none, claims := []
    trace := none, report := 0, signerKey := 0, chainCerts := 0
    header := { magic := 0, version := 1, sectionCount := 0, totalLength := 0, flags := 0, planId := 0, serial := 0,
                setId := 0, addr := 0, reservedZero := true }
    device := { topoHash := 0, shaded := 0, tamperPolicy := 0, reservedZero := true }
    tide := { role := 0, periodNs := 0, outEn := false, parent := 0, altParent := 0, altValid := false, depth := 0,
              div := 0, delaysNs := [] }
    clearings := [{ index := 0, owner := 0, valid := true, arith := 0, tiles := 0, queueBase := 0, queueCount := 8,
                    flags := 0, reservedZero := true }]
    carveouts := [1]
    regions := [oneRegion]
    strandline := some
      { k := 1, role := 0, d := 0, tauMinSteps := 0, tauMaxS := 0, buddy0 := 0, buddy1 := 0, shadowAddr := 0,
        shadowValid := false, lossClearing := 0, lossAct := 0, lossRa := 0, lossRegion := 0, template := 0, peers := []
        saves := [{ clearing := 0, shadow := false, region := 0, first := 0, chunks := 1 }] } }

/-- A command that waits for the repair of a line. -/
def heldCmd : Cmd :=
  { seq := 0, raw := 0, ph := .running, refs := [], src := 0, decodedAt := 0, stepKey := 0, prog := [], params := none }

/-- The stand with line 0 under repair, on a device whose table of queues lists queue 0 twice, each time with the
command that waits. The obligation asks for no canonical table: the repair's failure completes the command of the first
entry, and the halting of the clearing finds it again in the second and amends its record. -/
def queuedTwice : State :=
  { State.reset with dev := { Dev.reset with
      plan := { PlanRegs.reset with active := some onePlan }
      clrs := [(0, { Clearing.reset with st := .active })]
      mem := { Mem.reset with repairs := [⟨0, [(0, 0, 0)]⟩] }
      host := { HostBlk.reset with
        queues := [(0, { Queue.reset with cmds := [heldCmd] }), (0, { Queue.reset with cmds := [heldCmd] })] } } }

theorem queuedTwice_repairFails :
    ((Tab.get [] (doCommonsRepairDone 0 0 false ⟨0, 0, [], []⟩ queuedTwice.dev).host.fifos 0).map (·.status)) =
      [.aborted] := by
  decide +kernel

/-- Refutes O48: on `queuedTwice` the repair that fails completes the access it held with ABORTED. -/
theorem not_clearingResets : ¬ Obligations.ClearingResets := by
  intro h
  obtain ⟨-, -, hrepair, -⟩ := h.2 queuedTwice 0 0 0 ⟨0, 0, [], []⟩ false ⟨0, [(0, 0, 0)]⟩ onePlan 0 0 0 0 oneRegion
    (by decide +kernel)
  obtain ⟨d, hout, -, -, -, -, hheld⟩ := (hrepair (by decide +kernel) (by decide +kernel) (by decide +kernel) rfl
    (by decide +kernel)).2 (.inl rfl) (by decide) (by decide +kernel)
  have hd : doCommonsRepairDone 0 0 false ⟨0, 0, [], []⟩ queuedTwice.dev = d :=
    dev_of_act_eq (s := queuedTwice) (by decide +kernel) ((actMem_there _ _).symm.trans hout)
  have := List.mem_map_of_mem (f := Completion.status) (hd ▸ (hheld _ rfl heldCmd (by decide +kernel)).1 (by decide +kernel))
  rw [show heldCmd.src = 0 from rfl, queuedTwice_repairFails] at this
  exact absurd (List.mem_singleton.1 this) Status.noConfusion

end Sys2Proof.Machine

/-! PROOFS. The causes of a cold reset and what it leaves (R353, R355, R356, R384–R386). -/

namespace Sys2Proof.Machine
open Sys2Proof

/-! ## The log -/

/-- The entry that an event makes. -/
def Dev.logged (d : Dev) (type : Byte) (clearing : Nat) (engine : BitVec 16) (status : Byte) (info : BitVec 64) : LogEntry :=
  { time := d.timeUs, type := type, clearing := BitVec.ofNat 8 clearing, engine := engine,
    status := status, roleGen := if clearing < 16 then (d.clr clearing).roleGen else 0,
    tide := d.tide.count, info := info }

/-- Entries of the log are those of before, or of this instant and of a type of a list. -/
def LogAdds (types : List Nat) (d d' : Dev) : Prop :=
  ∀ k, Tab.get LogEntry.reset d'.flt.log k = Tab.get LogEntry.reset d.flt.log k ∨
    ((Tab.get LogEntry.reset d'.flt.log k).time = d.timeUs ∧
      (Tab.get LogEntry.reset d'.flt.log k).type.toNat ∈ types)

theorem LogAdds.refl {types : List Nat} (d : Dev) : LogAdds types d d := fun _ => .inl rfl

theorem LogAdds.trans {types : List Nat} {a b c : Dev} (h : LogAdds types a b) (h' : LogAdds types b c)
    (ht : b.timeUs = a.timeUs) : LogAdds types a c := fun k => by
  rcases h' k with h' | h'
  · rw [h']
    exact h k
  · exact .inr ⟨h'.1.trans ht, h'.2⟩

section
variable (d : Dev) {type : Byte} (ht : type ≠ 0) (clearing : Nat) (engine : BitVec 16) (status : Byte) (info : BitVec 64)

include ht in
theorem Dev.logEvent_head :
    Tab.get LogEntry.reset (d.logEvent type clearing engine status info).flt.log d.flt.logHead.toNat =
      d.logged type clearing engine status info :=
  Tab.get_set_self _ _ _ fun h => ht (congrArg LogEntry.type h)

theorem Dev.logEvent_other (type : Byte) {k : Nat} (hk : k ≠ d.flt.logHead.toNat) :
    Tab.get LogEntry.reset (d.logEvent type clearing engine status info).flt.log k =
      Tab.get LogEntry.reset d.flt.log k := Tab.get_set_ne _ _ _ hk

include ht in
theorem Dev.logEvent_adds {types : List Nat} (hmem : type.toNat ∈ types) :
    LogAdds types d (d.logEvent type clearing engine status info) := fun k => by
  by_cases hk : k = d.flt.logHead.toNat
  · subst hk
    rw [d.logEvent_head ht]
    exact .inr ⟨rfl, hmem⟩
  · exact .inl (d.logEvent_other clearing engine status info type hk)

end

/-! ## What a cold reset leaves -/

/-- The times of the cold resets of the last day, with one at this instant. -/
def Dev.coldTimes (d : Dev) : List Nat := d.timeUs :: recent d.timeUs daySec d.flt.colds

/-- A device that keeps of `d` what a cold reset keeps, with the fields of `e` that a cold reset and its boot set anew. -/
def Dev.coldState (d e : Dev) (cause : Nat) : Dev :=
  { Dev.reset with
    free := e.free, timeUs := d.timeUs, bus := e.bus, ev := e.ev, lcs := e.lcs, pins := e.pins, outbox := e.outbox
    sec := { Sec.reset with fw := e.sec.fw, dieKeys := e.sec.dieKeys }
    pwr := d.pwr.kept, dbg := { Dbg.reset with bootId := e.dbg.bootId }
    flt := { Flt.reset with
      oos := e.flt.oos, cliff := e.flt.cliff, log := e.flt.log, logHead := e.flt.logHead
      wrapped := e.flt.wrapped, logSel := e.flt.logSel, dump := d.flt.dump, dumpCause := d.flt.dumpCause
      dumpValid := d.flt.dumpValid, cause := BitVec.ofNat 7 cause, colds := d.coldTimes
      fencings := e.flt.fencings } }

/-- What a cold reset leaves, before its boot and after it. -/
structure ColdWiped (d d' : Dev) (cause : Nat) : Prop where
  frame : d' = d.coldState d' cause
  pins : d'.pins = { d.pins with alertN := d'.pins.alertN, i3cOff := 0, i3cAddr := none }
  adds : LogAdds [0x08, 0x09, 0x0F] d d'
  logs : ∃ k, (Tab.get LogEntry.reset d'.flt.log k).type = 0x09 ∧
    (Tab.get LogEntry.reset d'.flt.log k).info = BitVec.ofNat 64 cause
  stays : d.coldTimes.length < d.esc.cold24h → d.flt.oos = false → d'.flt.oos = false ∧ d'.outbox = d.outbox
  out : d.esc.cold24h ≤ d.coldTimes.length → d'.flt.oos = true

section
variable (d : Dev) (cause : Nat)

/-- The cold reset is logged, and the device's leaving of service where it leaves it. -/
def Dev.coldLogged (out : Bool) : Dev :=
  let e := d.logEvent 0x09 0xFF 0xFFFF 0 (BitVec.ofNat 64 cause)
  if out then e.logEvent 0x08 0xFF 0xFFFF 0 0 else e

theorem Dev.coldWipe_eq : d.coldWipe cause =
    ((d.coldLogged cause (decide (d.esc.cold24h ≤ d.coldTimes.length) && !d.flt.oos)).wiped cause
      (d.flt.oos || decide (d.esc.cold24h ≤ d.coldTimes.length)) d.coldTimes).raiseIf
        (decide (d.esc.cold24h ≤ d.coldTimes.length) && !d.flt.oos) .flt 3 := by
  unfold Dev.coldWipe Dev.coldLogged Dev.coldTimes
  dsimp only
  have hoos : (d.logEvent 0x09 0xFF 0xFFFF 0 (BitVec.ofNat 64 cause)).flt.oos = d.flt.oos := rfl
  rw [hoos]
  have hif (b : Bool) (e : Dev) : (if b then e.logEvent 0x08 0xFF 0xFFFF 0 0 else e).flt.oos = e.flt.oos := by
    split <;> rfl
  rw [hif, hoos]

theorem Dev.coldLogged_frame (out : Bool) : d.coldLogged cause out = { d with flt := { d.flt with
    log := (d.coldLogged cause out).flt.log, logHead := (d.coldLogged cause out).flt.logHead
    wrapped := (d.coldLogged cause out).flt.wrapped } } := by
  unfold Dev.coldLogged
  dsimp only
  split <;> rfl

theorem Dev.coldLogged_adds (out : Bool) : LogAdds [0x08, 0x09, 0x0F] d (d.coldLogged cause out) := by
  have h := d.logEvent_adds (type := 0x09) (types := [0x08, 0x09, 0x0F]) (by decide) 0xFF 0xFFFF 0 (BitVec.ofNat 64 cause)
    (by decide)
  unfold Dev.coldLogged
  dsimp only
  split
  · exact h.trans (Dev.logEvent_adds _ (type := 0x08) (by decide) 0xFF 0xFFFF 0 0 (by decide)) rfl
  · exact h

theorem Dev.coldLogged_logs (out : Bool) :
    Tab.get LogEntry.reset (d.coldLogged cause out).flt.log d.flt.logHead.toNat =
      d.logged 0x09 0xFF 0xFFFF 0 (BitVec.ofNat 64 cause) := by
  have h := d.logEvent_head (type := 0x09) (by decide) 0xFF 0xFFFF 0 (BitVec.ofNat 64 cause)
  unfold Dev.coldLogged
  dsimp only
  split
  · rw [Dev.logEvent_other, h]
    have hhead : (d.logEvent 0x09 0xFF 0xFFFF 0 (BitVec.ofNat 64 cause)).flt.logHead = d.flt.logHead + 1 := rfl
    rw [hhead]
    bv_omega
  · exact h

theorem Dev.coldWipe_wiped : ColdWiped d (d.coldWipe cause) cause := by
  rw [Dev.coldWipe_eq]
  have hframe := d.coldLogged_frame cause (decide (d.esc.cold24h ≤ d.coldTimes.length) && !d.flt.oos)
  have hadds := d.coldLogged_adds cause (decide (d.esc.cold24h ≤ d.coldTimes.length) && !d.flt.oos)
  have hlogs := d.coldLogged_logs cause (decide (d.esc.cold24h ≤ d.coldTimes.length) && !d.flt.oos)
  generalize d.coldLogged cause (decide (d.esc.cold24h ≤ d.coldTimes.length) && !d.flt.oos) = e at *
  have hraise := (e.wiped cause (d.flt.oos || decide (d.esc.cold24h ≤ d.coldTimes.length)) d.coldTimes).raiseIf_frame .flt
    (decide (d.esc.cold24h ≤ d.coldTimes.length) && !d.flt.oos) 3
  have hlog : ((e.wiped cause (d.flt.oos || decide (d.esc.cold24h ≤ d.coldTimes.length)) d.coldTimes).raiseIf
      (decide (d.esc.cold24h ≤ d.coldTimes.length) && !d.flt.oos) .flt 3).flt.log = e.flt.log := by
    rw [hraise]
    rfl
  have hoos : ((e.wiped cause (d.flt.oos || decide (d.esc.cold24h ≤ d.coldTimes.length)) d.coldTimes).raiseIf
      (decide (d.esc.cold24h ≤ d.coldTimes.length) && !d.flt.oos) .flt 3).flt.oos =
        (d.flt.oos || decide (d.esc.cold24h ≤ d.coldTimes.length)) := by
    rw [hraise]
    rfl
  constructor
  case frame =>
    rw [hraise, hframe]
    rfl
  case pins =>
    rw [hraise, hframe]
    rfl
  case adds =>
    intro k
    rw [hlog]
    exact hadds k
  case logs =>
    refine ⟨d.flt.logHead.toNat, ?_⟩
    rw [hlog, hlogs]
    exact ⟨rfl, rfl⟩
  case stays =>
    intro hlt hf
    rw [hoos, hf, decide_eq_false (Nat.not_le.2 hlt)]
    refine ⟨rfl, ?_⟩
    rw [hframe]
    rfl
  case out =>
    intro hle
    rw [hoos, decide_eq_true hle, Bool.or_true]

end

/-! ## The boot -/

section
variable (x : Lcs)

theorem Lcs.resume_burning : x.resume.burning = x.burning := by
  unfold Lcs.resume
  split
  · rfl
  · dsimp only
    split
    · rfl
    · split <;> rfl

theorem Lcs.vote_burning : x.vote.burning = x.burning := by
  unfold Lcs.vote
  split <;> rfl

theorem Lcs.giveBack_burning : x.giveBack.burning = x.burning := by
  unfold Lcs.giveBack
  split <;> rfl

theorem Lcs.start_burning : x.start.burning = false := by
  rw [Lcs.start, Lcs.giveBack_burning, Lcs.vote_burning, Lcs.resume_burning]

end

/-- A device whose fuses, firmware, keys of the die boundaries and BOOT_ID are those of `e`. -/
def Dev.rebooted (d e : Dev) : Dev :=
  { d with
    lcs := e.lcs, free := e.free, dbg := { d.dbg with bootId := e.dbg.bootId }
    sec := { d.sec with fw := e.sec.fw, dieKeys := e.sec.dieKeys } }

/-- What a boot leaves of the state it finds. -/
structure Booted (d d' : Dev) : Prop where
  frame : d' = d.rebooted d'
  staged : d'.sec.fw.staged = none
  burning : d'.lcs.burning = false
  dieKeys : d'.sec.dieKeys.length = 14

theorem Dev.boot_booted (d : Dev) : Booted d d.boot := by
  have hlcs : d.boot.lcs = d.lcs.start := rfl
  exact ⟨rfl, rfl, by rw [hlcs, Lcs.start_burning], by simp [Dev.boot, Dev.drawDieKeys]⟩

theorem ColdWiped.boot {d d' d'' : Dev} {cause : Nat} (h : ColdWiped d d' cause) (hb : Booted d' d'') :
    ColdWiped d d'' cause := by
  have hflt : d''.flt = d'.flt := by rw [hb.frame]; rfl
  have hpins : d''.pins = d'.pins := by rw [hb.frame]; rfl
  have hout : d''.outbox = d'.outbox := by rw [hb.frame]; rfl
  refine ⟨?_, hpins ▸ h.pins, fun k => hflt ▸ h.adds k, hflt ▸ h.logs, fun h1 h2 => ?_, fun h1 => hflt ▸ h.out h1⟩
  · calc d'' = d'.rebooted d'' := hb.frame
      _ = (d.coldState d' cause).rebooted d'' := congrArg (·.rebooted d'') h.frame
      _ = d.coldState (d'.rebooted d'') cause := rfl
      _ = d.coldState d'' cause := by rw [← hb.frame]
  · rw [hflt, hout]
    exact h.stays h1 h2

/-! ## The causes -/

theorem Dev.powered_of_running {d : Dev} (h : d.running = true) : d.pins.powered = true ∧ d.pins.inReset = false := by
  simp only [Dev.running, Bool.and_eq_true, Bool.not_eq_true'] at h
  exact h.1

section
variable {d : Dev}

theorem doSysRstNAssert_running (h : d.running = true) : doSysRstNAssert d =
    { d.coldWipe 0x02 with pins := { (d.coldWipe 0x02).pins with inReset := true } } := by
  obtain ⟨hp, hi⟩ := Dev.powered_of_running h
  rw [doSysRstNAssert, if_neg (by simp [hp, hi])]

theorem doSysRstNAssert_inReset (h : d.pins.inReset = true) : doSysRstNAssert d = d :=
  if_pos (by simp [h])

/-- The device that boots with the images it was given. -/
def Dev.bootsWith (d : Dev) (images : List FwImage) : Dev :=
  (if d.commitsEnded.imagesBoot images then d.takeImages images else d).boot

theorem doSysRstNRelease_inReset (images : List FwImage) (hp : d.pins.powered = true) (hi : d.pins.inReset = true) :
    doSysRstNRelease images d = { d.bootsWith images with
      pins := { (d.bootsWith images).pins with inReset := !d.commitsEnded.imagesBoot images } } :=
  if_pos (by simp [hp, hi])

theorem doSysRstNRelease_running (images : List FwImage) (hi : d.pins.inReset = false) : doSysRstNRelease images d = d :=
  if_neg (by simp [hi])

theorem Dev.takeImages_frame (d : Dev) (images : List FwImage) :
    d.takeImages images = { d with sec := { d.sec with fw := (d.takeImages images).sec.fw } } := by
  unfold Dev.takeImages
  split <;> rfl

theorem Dev.bootsWith_booted (d : Dev) (images : List FwImage) : Booted d (d.bootsWith images) := by
  have hboot (e : Dev) (he : e = { d with sec := { d.sec with fw := e.sec.fw } }) : Booted d e.boot := by
    have h := e.boot_booted
    refine ⟨h.frame.trans ?_, h.staged, h.burning, h.dieKeys⟩
    generalize e.boot = f
    rw [he]
    rfl
  unfold Dev.bootsWith
  split
  · exact hboot _ (d.takeImages_frame images)
  · exact hboot d rfl

theorem imagesBoot_iff (images : List FwImage) : d.imagesBoot images = true ↔
    ∃ c n, imageFor images false = some c ∧ imageFor images true = some n ∧
      ∀ i ∈ [c, n], FwImage.wellLaid i = true ∧ FwImage.verifies i = true ∧ d.fuseSvn.toNat ≤ i.svn.toNat := by
  unfold Dev.imagesBoot
  cases hc : imageFor images false <;> cases hn : imageFor images true <;> simp [hc, hn, and_assoc]

theorem doPwrOkDeassert_running (h : d.running = true) (hp : d.pins.pwrOk = true) : doPwrOkDeassert d =
    { d.coldReset 0x03 with pins := { (d.coldReset 0x03).pins with pwrOk := false } } := by
  rw [doPwrOkDeassert, if_pos (by simp [hp, (Dev.powered_of_running h).1]), if_pos h]

theorem doPwrOkDeassert_low (hp : d.pins.pwrOk = false) : doPwrOkDeassert d = d := if_neg (by simp [hp])

theorem doVinMainUndervolt_low (hp : d.pins.pwrOk = false) : doVinMainUndervolt d = d := if_neg (by simp [hp])

theorem doPwrOkRise_low (boot tide : Bool) (h : d.pins.powered = true) (hp : d.pins.pwrOk = false) :
    doPwrOkRise boot tide d =
      { d with pins := { d.pins with pwrOk := true, strapBoot := boot, strapTide := tide } } :=
  if_pos (by simp [h, hp])

theorem doPwrOkRise_high (boot tide : Bool) (hp : d.pins.pwrOk = true) : doPwrOkRise boot tide d = d :=
  if_neg (by simp [hp])

theorem Dev.coldReset_wiped (d : Dev) (cause : Nat) :
    ColdWiped d (d.coldReset cause) cause ∧ Booted (d.coldWipe cause) (d.coldReset cause) :=
  have hb := (d.coldWipe cause).boot_booted
  ⟨(d.coldWipe_wiped cause).boot hb, hb⟩

end

/-- The blocks as a cold reset leaves them. -/
theorem ColdWiped.state {d d' : Dev} {c : Nat} (h : ColdWiped d d' c) :
    d'.plan = PlanRegs.reset ∧ d'.sched = Sched.reset ∧ d'.tide = Tide.reset ∧ d'.clrs = [] ∧
      d'.tiles = [] ∧ d'.ctxs = [] ∧ d'.launches = [] ∧ d'.mem = Mem.reset ∧ d'.lnk = LnkBlk.reset ∧
      d'.host = HostBlk.reset ∧ d'.stl = Stl.reset ∧ d'.spdm = Spdm.reset ∧ d'.sec.slots = [] ∧
      d'.sec.member = none ∧ d'.thm = Thm.reset ∧ d'.flt.cause = BitVec.ofNat 7 c ∧ d'.timeUs = d.timeUs ∧
      d'.flt.ready = false ∧ d'.flt.colds = d.coldTimes ∧ d'.pwr.energy = d.pwr.energy ∧
      d'.pwr.cur = d.pwr.bootMode.getD 2 := by
  rw [h.frame]
  exact ⟨rfl, rfl, rfl, rfl, rfl, rfl, rfl, rfl, rfl, rfl, rfl, rfl, rfl, rfl, rfl, rfl, rfl, rfl, rfl, rfl, rfl⟩

theorem ColdWiped.dbg {d d' : Dev} {c : Nat} (h : ColdWiped d d' c) :
    d'.dbg = { Dbg.reset with bootId := d'.dbg.bootId } := by
  rw [h.frame]
  rfl

theorem ColdWiped.dump {d d' : Dev} {c : Nat} (h : ColdWiped d d' c) :
    d'.flt.dump = d.flt.dump ∧ d'.flt.dumpCause = d.flt.dumpCause ∧ d'.flt.dumpValid = d.flt.dumpValid := by
  rw [h.frame]
  exact ⟨rfl, rfl, rfl⟩

theorem ColdWiped.powered {d d' : Dev} {c : Nat} (h : ColdWiped d d' c) :
    d'.pins.powered = d.pins.powered ∧ d'.pins.inReset = d.pins.inReset := by
  rw [h.pins]
  exact ⟨rfl, rfl⟩

/-- Settles O49: every cause runs the same wipe, and those that boot the same boot. -/
theorem coldResets : Obligations.ColdResets := by
  unfold Obligations.ColdResets
  intro s dump images boot tide hr d out colds wiped booted
  obtain ⟨hpow, hres⟩ := Dev.powered_of_running (d := d) hr
  have hwiped {d₀ d' : Dev} {c : Nat} {cause : BitVec 7} (h : ColdWiped d₀ d' c)
      (h0 : d₀ = { d with flt := { d.flt with
        log := d₀.flt.log, logHead := d₀.flt.logHead, wrapped := d₀.flt.wrapped
        dump := d₀.flt.dump, dumpCause := d₀.flt.dumpCause, dumpValid := d₀.flt.dumpValid } })
      (hadds : LogAdds [0x08, 0x09, 0x0F] d d₀) (h7 : BitVec.ofNat 7 c = cause)
      (h64 : BitVec.ofNat 64 c = cause.setWidth 64) : wiped d' cause := by
    have hcolds : d₀.coldTimes = colds := by rw [h0]; rfl
    have hesc : d₀.esc = d.esc := by rw [h0]; rfl
    have htime : d₀.timeUs = d.timeUs := by rw [h0]
    have hpwr : d₀.pwr = d.pwr := by rw [h0]
    have hstays := h.stays
    have hout := h.out
    rw [hcolds, hesc] at hstays hout
    have hlog := hadds.trans h.adds htime
    obtain ⟨k, htype, hinfo⟩ := h.logs
    have hfields := h.state
    rw [h7, htime, hcolds, hpwr] at hfields
    obtain ⟨h1, h2, h3, h4, h5, h6, h8, h9, h10, h11, h12, h13, h14, h15, h16, h17, h18, h19, h20, h21, h22⟩ := hfields
    have hoos0 : d₀.flt.oos = d.flt.oos := by rw [h0]
    have hout0 : d₀.outbox = d.outbox := by rw [h0]
    exact ⟨h1, h2, h3, h4, h5, h6, h8, h9, h10, h11, h12, h13, h14, h15, h16, h17, h18, h19, h20, h21, h22,
      fun k => (hlog k).imp_right fun h => ⟨_, rfl, h.1, h.2⟩, ⟨k, _, rfl, htype, hinfo.trans h64⟩,
      fun hlt hoos => hout0 ▸ hstays hlt (hoos0.trans hoos), hout⟩
  have hbooted {d₁ d' : Dev} (h : d₁.dbg = { Dbg.reset with bootId := d₁.dbg.bootId }) (hb : Booted d₁ d') :
      booted d' := by
    refine ⟨?_, hb.staged, hb.burning, hb.dieKeys⟩
    have hdbg : d'.dbg = { d₁.dbg with bootId := d'.dbg.bootId } := by
      rw [hb.frame]
      rfl
    rw [hdbg, h]
  have hpin {e : Dev} {c : BitVec 7} (p : Pins) (h : wiped e c) : wiped { e with pins := p } c := h
  have hbpin {e : Dev} (p : Pins) (h : booted e) : booted { e with pins := p } := h
  refine ⟨?_, ?_, ?_, ?_, congrArg out (doSysRstNRelease_running images hres), fun hok => ⟨?_, ?_,
    congrArg out (doPwrOkRise_high boot tide hok)⟩, fun hok => ⟨congrArg out (doPwrOkDeassert_low hok),
      act_eq_next (f := doVinMainUndervolt) hr (doVinMainUndervolt_low hok)⟩⟩
  · obtain ⟨hw, hb⟩ := d.coldReset_wiped 4
    exact ⟨d.coldReset 4, act_eq_next (f := fun d => d.coldReset 4) hr rfl, hwiped hw rfl (.refl d) rfl rfl,
      hbooted (d.coldWipe_wiped 4).dbg hb, hw.powered.2.trans hres, hw.dump.1⟩
  · obtain ⟨hw, hb⟩ := (d.captureDump dump 5).coldReset_wiped 5
    exact ⟨(d.captureDump dump 5).coldReset 5, act_eq_next (f := fun d => (d.captureDump dump 5).coldReset 5) hr rfl,
      hwiped hw rfl (.refl d) rfl rfl, hbooted (Dev.coldWipe_wiped _ 5).dbg hb, hw.dump⟩
  · obtain ⟨hw, hb⟩ := ((d.logEvent 0x0F 0xFF 0xFFFF 0 0).captureDump dump 6).coldReset_wiped 6
    exact ⟨((d.logEvent 0x0F 0xFF 0xFFFF 0 0).captureDump dump 6).coldReset 6,
      act_eq_next (f := fun d => ((d.logEvent 0x0F 0xFF 0xFFFF 0 0).captureDump dump 6).coldReset 6) hr rfl,
      hwiped hw rfl (d.logEvent_adds (type := 0x0F) (by decide) 0xFF 0xFFFF 0 0 (by decide)) rfl rfl,
      hbooted (Dev.coldWipe_wiped _ 6).dbg hb, hw.dump⟩
  · have hw := d.coldWipe_wiped 2
    have hrelease {e : Dev} (hp : e.pins.powered = true) (hi : e.pins.inReset = true)
        (hdbg : e.dbg = { Dbg.reset with bootId := e.dbg.bootId }) :
        ∃ d'', exec (.sysRstNRelease images) { s with dev := e } = out d'' ∧ booted d'' ∧ d''.flt = e.flt ∧
          (d''.pins.inReset = false ↔ ∃ c n, imageFor images false = some c ∧ imageFor images true = some n ∧
            ∀ i ∈ [c, n], Machine.FwImage.wellLaid i = true ∧ Machine.FwImage.verifies i = true ∧
              e.commitsEnded.fuseSvn.toNat ≤ i.svn.toNat) := by
      have hb := e.bootsWith_booted images
      have hflt : (e.bootsWith images).flt = e.flt := by
        rw [hb.frame]
        rfl
      refine ⟨_, congrArg out (doSysRstNRelease_inReset images hp hi), hbpin _ (hbooted hdbg hb), hflt, ?_⟩
      rw [← imagesBoot_iff]
      exact iff_of_eq (Bool.not_eq_false' _)
    refine ⟨_, congrArg out (doSysRstNAssert_running hr), hpin _ (hwiped hw rfl (.refl d) rfl rfl), rfl,
      hrelease (hw.powered.1.trans hpow) rfl hw.dbg, congrArg out (doSysRstNAssert_inReset rfl)⟩
  · obtain ⟨hw, hb⟩ := d.coldReset_wiped 3
    exact ⟨_, congrArg out (doPwrOkDeassert_running hr hok), hpin _ (hwiped hw rfl (.refl d) rfl rfl),
      hbpin _ (hbooted (d.coldWipe_wiped 3).dbg hb), rfl,
      congrArg out (doPwrOkRise_low boot tide (hw.powered.1.trans hpow) rfl)⟩
  · obtain ⟨hw, -⟩ := d.coldReset_wiped 3
    obtain ⟨hplan, -, -, -, -, -, -, hmem, -, hhost, -, -, -, -, -, hcause, -⟩ := hw.state
    refine ⟨(d.coldReset 3).raise .pwr 3, act_eq_next (f := doVinMainUndervolt) hr (if_pos hok), ?_, ?_, ?_, ?_,
      Dev.raise_shows _ _ (by decide)⟩
    · exact (congrArg Flt.cause (Dev.raise_flt _ _ _)).trans hcause
    · exact (Dev.raise_host _ _ _).trans hhost
    · exact (Dev.raise_mem _ _ _).trans hmem
    · exact (Dev.raise_plan _ _ _).trans hplan

end Sys2Proof.Machine

/-! PROOFS. The life-cycle advance (R368): a counterexample. -/

namespace Sys2Proof.Machine
open Sys2Proof

theorem twiceListed_lcsAdvance : ((doLcsAdvance 0x80000021 twiceListed.dev).clr 0).st = .active := by
  decide +kernel

/-- Refutes O54: the statement asks for no canonical table of clearings, and on `twiceListed` the advance from Integrator
to Fielded leaves clearing 0 ACTIVE. -/
theorem not_lifeCycleAndDebug : ¬ Obligations.LifeCycleAndDebug := by
  intro h
  obtain ⟨-, hset, -⟩ := h twiceListed 0x80000021 0 ⟨false, 0, 0, 0, 0, false, false⟩ .fielded (by decide +kernel)
  obtain ⟨-, hfrom⟩ := (hset (by decide)).2 (by decide +kernel) (by decide +kernel)
  obtain ⟨-, hallowed⟩ := hfrom (by decide +kernel)
  obtain ⟨-, -, hburn⟩ := hallowed (by decide)
  obtain ⟨-, hadvance⟩ := hburn (.inr (.inl ⟨by decide +kernel, rfl⟩)) (.inr ⟨1, by decide, by decide +kernel⟩)
  obtain ⟨d, hout, -, -, -, -, ⟨-, -, hhalted, -⟩, -⟩ := hadvance (by decide +kernel) (by decide +kernel)
  have hd : doLcsAdvance 0x80000021 twiceListed.dev = d := dev_of_act_eq (s := twiceListed) (by decide +kernel) hout
  exact hhalted 0 (by decide) (hd ▸ twiceListed_lcsAdvance)

end Sys2Proof.Machine

/-! PROOFS. The TAP's instructions and the trace trigger (R362, R363, R372, R402). -/

namespace Sys2Proof.Machine
open Sys2Proof

section
variable (d : Dev)

/-- The instruction register and the report of an instruction that the TAP selects. -/
def Dev.tapTakes (c : Byte) : Dev :=
  { d with dbg := { d.dbg with tapIr := c }, outbox := d.outbox ++ [.tap c] }

theorem Dev.tapSelect_refused {c : Byte} (h : (d.tapAllowed c && !([0x03, 0x04, 0x05].contains c.toNat && d.planActive)) = false)
    (f : Dev → Dev) : d.tapSelect c f = d.tapTakes 0xFF := by
  rw [Dev.tapSelect, h]
  rfl

theorem Dev.tapSelect_taken {c : Byte} (h : (d.tapAllowed c && !([0x03, 0x04, 0x05].contains c.toNat && d.planActive)) = true)
    (f : Dev → Dev) : d.tapSelect c f = f (d.tapTakes c) := by
  rw [Dev.tapSelect, h]
  rfl

/-- The grant of the debug scope that an instruction needs on a Fielded device. -/
def Dev.tapGranted (c : Byte) : Prop := d.dbg.opened = true ∧ d.dbg.scope.getLsbD
  (if c = 0x10 then 1 else if c = 0x11 then 2 else if c = 0x12 then 3 else if c = 0x13 then 4 else 0) = true

/-- The states in which an instruction may run. -/
def Dev.tapMay (c : Byte) : Prop := d.lcs.st = .maker ∨ d.lcs.st = .integrator ∨ d.lcs.st = .returned ∨
  (d.lcs.st = .fielded ∧ d.tapGranted c ∧ c ≠ 0x20)

/-- The instructions of the TAP that a state may refuse, NGS_SCAN apart. -/
def tapCodes : List Byte := [0x02, 0x03, 0x04, 0x05, 0x10, 0x11, 0x12, 0x13, 0x20]

theorem Dev.tapAllowed_fielded (h : d.lcs.st = .fielded) {c : Byte} (hc : c ∈ tapCodes) :
    d.tapAllowed c = true ↔ d.tapGranted c ∧ c ≠ 0x20 := by
  unfold Dev.tapAllowed Dev.tapGranted
  rw [h]
  simp only [tapCodes, List.mem_cons, List.not_mem_nil, or_false] at hc
  rcases hc with rfl | rfl | rfl | rfl | rfl | rfl | rfl | rfl | rfl <;> simp

theorem Dev.tapAllowed_iff {c : Byte} (hc : c ∈ tapCodes) : d.tapAllowed c = true ↔ d.tapMay c := by
  have hne : ¬ (c = 0x01 ∨ c = 0xFF) ∧ c ≠ 0x30 := by
    revert c
    decide
  cases hst : d.lcs.st with
  | fielded =>
    rw [d.tapAllowed_fielded hst hc, Dev.tapMay, hst]
    simp
  | maker => simp [Dev.tapAllowed, Dev.tapMay, hst]
  | integrator => simpa [Dev.tapAllowed, Dev.tapMay, hst] using Or.inr hne.2
  | returned => simpa [Dev.tapAllowed, Dev.tapMay, hst] using Or.inr hne.2
  | scrapped => simpa [Dev.tapAllowed, Dev.tapMay, hst] using hne.1

end

section
variable {d : Dev} {c : Byte} (f : Dev → Dev)

theorem Dev.tapSelect_of_not_may (hc : c ∈ tapCodes) (h : ¬ d.tapMay c) : d.tapSelect c f = d.tapTakes 0xFF :=
  d.tapSelect_refused (by rw [Bool.eq_false_iff.2 (mt (d.tapAllowed_iff hc).1 h), Bool.false_and]) f

theorem Dev.tapSelect_of_may (hc : c ∈ tapCodes) (h : d.tapMay c)
    (hb : [0x03, 0x04, 0x05].contains c.toNat = false ∨ d.plan.active = none) : d.tapSelect c f = f (d.tapTakes c) := by
  refine d.tapSelect_taken ?_ f
  rw [(d.tapAllowed_iff hc).2 h]
  rcases hb with hb | hb
  · rw [hb]
    rfl
  · rw [Dev.planActive, hb]
    simp

/-- The boundary-scan instructions give way to an active plan. -/
theorem Dev.tapSelect_of_plan (hb : [0x03, 0x04, 0x05].contains c.toNat = true) (h : d.plan.active.isSome = true) :
    d.tapSelect c f = d.tapTakes 0xFF :=
  d.tapSelect_refused (by rw [hb, Dev.planActive, h]; simp) f

theorem Dev.tapSelect_ngs_maker (h : d.lcs.st = .maker) : d.tapSelect 0x30 id = d.tapTakes 0x30 :=
  d.tapSelect_taken (by simp [Dev.tapAllowed, h]) id

theorem Dev.tapSelect_ngs_other (h : d.lcs.st ≠ .maker) : d.tapSelect 0x30 id = d.tapTakes 0xFF := by
  refine d.tapSelect_refused ?_ id
  cases hst : d.lcs.st with
  | maker => exact absurd hst h
  | integrator | fielded | returned | scrapped => simp [Dev.tapAllowed, hst]

theorem Dev.tapSelect_idcode : d.tapSelect 0x01 f = f (d.tapTakes 0x01) :=
  d.tapSelect_taken (by simp [Dev.tapAllowed]) f

theorem Dev.tapSelect_bypass : d.tapSelect 0xFF id = d.tapTakes 0xFF :=
  d.tapSelect_taken (by simp [Dev.tapAllowed]) id

theorem idCode_fields : idCode.extractLsb' 28 4 = 0 ∧ idCode.extractLsb' 12 16 = 0x2516 ∧ idCode.getLsbD 0 = true := by
  have hj := Config.jep106.isLt
  have hid : idCode.toNat = 0x2516 * 2 ^ 12 + Config.jep106.toNat * 2 + 1 := by
    rw [idCode, BitVec.toNat_ofNat]
    omega
  refine ⟨?_, ?_, ?_⟩
  · apply BitVec.eq_of_toNat_eq
    rw [BitVec.extractLsb'_toNat, hid, Nat.shiftRight_eq_div_pow]
    change _ = 0
    omega
  · apply BitVec.eq_of_toNat_eq
    rw [BitVec.extractLsb'_toNat, hid, Nat.shiftRight_eq_div_pow]
    change _ = 0x2516
    omega
  · rw [BitVec.getLsbD, hid, Nat.testBit_zero]
    simp only [decide_eq_true_eq]
    omega

end

/-! ## BIST and MEMREAD -/

section
variable {d : Dev}

/-- The boundary-scan register after SAMPLE/PRELOAD: what is shifted in, or what the cells sample. -/
def Dev.scanned (d : Dev) (preload : Option (List Bool)) : List Bool :=
  match preload with
  | some bs => (bs ++ List.replicate 36 false).take 36
  | none => (List.range 36).map fun i => (Config.free64 d.free i).getLsbD 0

theorem doSamplePreload_taken (h : d.tapMay 0x02) (preload : Option (List Bool)) : doSamplePreload preload d =
    { d.tapTakes 0x02 with free := d.free + 1, dbg := { d.dbg with tapIr := 0x02, bsr := d.scanned preload } } :=
  Dev.tapSelect_of_may _ (by decide) h (.inl rfl)

theorem doBist_taken (h : d.tapMay 0x12) : doBist d = if (d.tapTakes 0x12).allHalted then
    ({ d.tapTakes 0x12 with mem := { d.mem with hbm := [], meta_ := [], cache := [], flaws := [] } } : Dev).tick
    else d.tapTakes 0x12 :=
  Dev.tapSelect_of_may _ (by decide) h (.inl rfl)

theorem allHalted_of_all (h : ∀ n ∈ d.clearings, (d.clr n).st = .halted ∨ (d.clr n).st = .fenced ∨ (d.clr n).st = .contained) :
    d.allHalted = true :=
  List.all_eq_true.2 fun n hn => by
    rcases h n hn with h | h | h <;> rw [h] <;> rfl

theorem not_allHalted_of_active (h : ∃ n ∈ d.clearings, (d.clr n).st = .active) : ¬ d.allHalted = true := by
  obtain ⟨n, hn, h⟩ := h
  exact Bool.eq_false_iff.1 (List.all_eq_false.2 ⟨n, hn, by rw [h]; decide⟩)

variable {h : Word} {off : BitVec 48} {st : Status}

theorem doMemread_absent (hm : d.tapMay 0x20) (hn : d.benchActive = false ∨ (d.obj (objIndex h)).st = .free ∨
    (d.obj (objIndex h)).gen ≠ objGen h ∨ (d.obj (objIndex h)).holds (off.toNat / 64 * 64) 64 = false) :
    doMemread h off.toNat st d = d.tapTakes 0x20 := by
  refine (Dev.tapSelect_of_may _ (by decide) hm (.inl rfl)).trans (if_pos ?_)
  rw [show (d.tapTakes 0x20).benchActive = d.benchActive from rfl,
    show (d.tapTakes 0x20).obj (objIndex h) = d.obj (objIndex h) from rfl]
  rcases hn with hn | hn | hn | hn <;> simp [hn]

theorem doMemread_present (hm : d.tapMay 0x20) (hb : d.benchActive = true) (hst : (d.obj (objIndex h)).st ≠ .free)
    (hg : (d.obj (objIndex h)).gen = objGen h) (hh : (d.obj (objIndex h)).holds (off.toNat / 64 * 64) 64 = true)
    (hk : (d.keySlot (d.obj (objIndex h)).clearing.toNat 1).isSome = true) :
    doMemread h off.toNat st d =
      if worse st ((d.tapTakes 0x20).checkObj (d.obj (objIndex h)) (off.toNat / 64 * 64) 64).2.status = .ok then
        ((d.tapTakes 0x20).emit (.tapLine .ok
          ((d.tapTakes 0x20).readObj (d.obj (objIndex h)) (off.toNat / 64 * 64) 64))).tick
      else (d.tapTakes 0x20).emit
        (.tapLine (worse st ((d.tapTakes 0x20).checkObj (d.obj (objIndex h)) (off.toNat / 64 * 64) 64).2.status) []) := by
  refine (Dev.tapSelect_of_may _ (by decide) hm (.inl rfl)).trans ((if_neg ?_).trans (if_neg ?_))
  · rw [show (d.tapTakes 0x20).benchActive = d.benchActive from rfl,
      show (d.tapTakes 0x20).obj (objIndex h) = d.obj (objIndex h) from rfl]
    simp [hb, hst, hg, hh]
  · rw [show (d.tapTakes 0x20).keySlot = d.keySlot from rfl,
      show (d.tapTakes 0x20).obj (objIndex h) = d.obj (objIndex h) from rfl]
    simpa [Option.isSome_iff_ne_none] using hk

theorem Dev.readObj_length (d : Dev) (o : Obj) (off n : Nat) : (d.readObj o off n).length = n := by
  simp [Dev.readObj, Dev.readRange]

theorem doTraceTriggerEdge_fires {ns : Nat} (ht : d.traceIn = true) (hz : d.tide.auxHiZ = false) (hn : 20 ≤ ns) :
    doTraceTriggerEdge ns d = { d with dbg := { d.dbg with traceFired := d.dbg.traceFired + 1 } } :=
  if_pos (by simp [ht, hz, hn])

theorem doTraceTriggerEdge_rests {ns : Nat} (h : d.traceIn = false ∨ d.tide.auxHiZ = true ∨ ns < 20) :
    doTraceTriggerEdge ns d = d := by
  refine if_neg ?_
  rcases h with h | h | h <;> simp [h]

end

/-- Settles O55: the TAP takes an instruction that the state permits, and the bypass register otherwise. -/
theorem testAccess : Obligations.TestAccess := by
  unfold Obligations.TestAccess
  intro s halt bs h off st ns hr d out takes scan plain rest granted may
  have hrefused {c : Byte} {i : Instr} {f : Dev → Dev} (hi : exec i s = act s fun d => d.tapSelect c f)
      (hc : c ∈ tapCodes) (hm : ¬ may c) : exec i s = out (takes 0xFF) :=
    hi.trans (act_eq_next (f := fun d => d.tapSelect c f) hr (Dev.tapSelect_of_not_may f hc hm))
  have htaken {c : Byte} {i : Instr} {f : Dev → Dev} (hi : exec i s = act s fun d => d.tapSelect c f)
      (hc : c ∈ tapCodes) (hm : may c) (hb : [0x03, 0x04, 0x05].contains c.toNat = false ∨ d.plan.active = none) :
      exec i s = out (f (takes c)) :=
    hi.trans (act_eq_next (f := fun d => d.tapSelect c f) hr (Dev.tapSelect_of_may f hc hm hb))
  have hplan {c : Byte} {i : Instr} {f : Dev → Dev} (hi : exec i s = act s fun d => d.tapSelect c f)
      (hb : [0x03, 0x04, 0x05].contains c.toNat = true) (hp : d.plan.active.isSome = true) :
      exec i s = out (takes 0xFF) :=
    hi.trans (act_eq_next (f := fun d => d.tapSelect c f) hr (Dev.tapSelect_of_plan f hb hp))
  refine ⟨act_eq_next (f := fun d => d.tapSelect 0xFF id) hr Dev.tapSelect_bypass,
    ⟨idCode, act_eq_next (f := fun d => d.tapSelect 0x01 fun d => d.emit (.tapData idCode)) hr (Dev.tapSelect_idcode _),
      idCode_fields⟩, fun x hx hm => ?_, fun x hx hp => ?_, fun x hx hp hm => ?_, fun x hx hm => ?_,
    fun hst => act_eq_next (f := fun d => d.tapSelect 0x30 id) hr (Dev.tapSelect_ngs_maker hst),
    fun hst => act_eq_next (f := fun d => d.tapSelect 0x30 id) hr (Dev.tapSelect_ngs_other hst),
    fun hm => ⟨act_eq_next hr (doSamplePreload_taken hm (some bs)), d.scanned none, by simp [Dev.scanned],
      act_eq_next hr (doSamplePreload_taken hm none)⟩,
    fun hm => htaken (c := 0x11) (f := fun d => { d with dbg := { d.dbg with cpHalted := halt } }) rfl (by decide) hm (.inl rfl),
    fun hm => ⟨fun ha => ?_, fun ha => ?_⟩,
    fun hm => ⟨fun hn => act_eq_next hr (doMemread_absent hm hn), fun hb hst hg hh hk => ⟨fun hf => ?_, fun hf => ?_⟩⟩,
    fun ht hz hn => act_eq_next hr (doTraceTriggerEdge_fires ht hz hn),
    fun hn => act_eq_next hr (doTraceTriggerEdge_rests hn)⟩
  · simp only [scan, plain, rest, List.cons_append, List.nil_append, List.mem_cons, List.not_mem_nil, or_false] at hx
    rcases hx with rfl | rfl | rfl | rfl | rfl | rfl | rfl | rfl | rfl <;>
      exact hrefused rfl (by decide) hm
  · simp only [scan, List.mem_cons, List.not_mem_nil, or_false] at hx
    rcases hx with rfl | rfl | rfl <;> exact hplan (f := id) rfl rfl hp
  · simp only [scan, List.mem_cons, List.not_mem_nil, or_false] at hx
    rcases hx with rfl | rfl | rfl <;> exact htaken (f := id) rfl (by decide) hm (.inr hp)
  · simp only [plain, List.mem_cons, List.not_mem_nil, or_false] at hx
    rcases hx with rfl | rfl <;> exact htaken (f := id) rfl (by decide) hm (.inl rfl)
  · exact act_eq_next hr ((doBist_taken hm).trans (if_pos (allHalted_of_all ha)))
  · exact act_eq_next hr ((doBist_taken hm).trans (if_neg (not_allHalted_of_active (d := d.tapTakes 0x12) ha)))
  · exact ⟨_, Dev.readObj_length _ _ _ _,
      act_eq_next hr ((doMemread_present hm hb hst hg hh hk).trans (if_pos hf))⟩
  · exact act_eq_next hr ((doMemread_present hm hb hst hg hh hk).trans (if_neg hf))

end Sys2Proof.Machine

/-! PROOFS. A restore of a clearing (R339): a counterexample. -/

namespace Sys2Proof.Machine
open Sys2Proof

/-- The stand of one clearing, with the content pair of slots 0x10 and 0x11. -/
def pairPlan : StandPlan :=
  { onePlan with
    keyPolicy := [{ clearing := 0, slotFirst := 0x10, slotCount := 2, source := 0, bundleId := 0, rekeySteps := 0 }] }

/-- A key of a pair. -/
def pairKey (attr : BitVec 2) : Slot := { Slot.reset with loaded := true, attr := attr }

/-- That stand in a rollback, on a device whose table lists clearing 0 twice: as it is after reset, and then with a NaN
counted. The obligation asks for no canonical table: the restore of a clearing whose counters are 0 writes the
reset value, which uncovers the second entry. -/
def restoringTwice : State :=
  { State.reset with dev := { Dev.reset with
      plan := { PlanRegs.reset with active := some pairPlan }
      stl := { Stl.reset with st := .rollback }
      sec := { Sec.reset with slots := [(0x10, pairKey 0), (0x11, pairKey 1)] }
      clrs := [(0, Clearing.reset), (0, { Clearing.reset with num := { Num.reset with nan := 1 } })] } }

/-- A sealed manifest of a clearing's save with an empty body, under the set key of epoch 0. -/
def emptyManifest (clearing : Nat) : SealedManifest :=
  let m : SealedManifest :=
    { header := ascii "VXSL" ++ leBytes 2 1 ++ leBytes 1 clearing ++ List.replicate 41 0 ++ strBytes (planHash pairPlan) 32
      body := [], tag := [] }
  { m with tag := m.tagFor (m.key 0) }

/-- The image of clearing 0 with nothing in it. -/
def emptyImage : RestoreImage :=
  { clearing := 0, manifest := emptyManifest 0, roleGen := 0, genKcv := 0, copies := [], objects := [], counters := [],
    trap := none, queues := [] }

def emptyRecord : RestoreRecord := { manifest := emptyManifest 0xFF, lastInst := 0, fences := [], lossLog := [] }

theorem emptyManifest_opens (clearing : Nat) :
    (emptyManifest clearing).opens ((emptyManifest clearing).key 0) = true := SealedManifest.opens_tagFor _ _

theorem emptyManifest_fails {clearing : Nat}
    (hnames : (emptyManifest clearing).names restoringTwice.dev.addr.toNat clearing 0 = true)
    (hkey : restoringTwice.dev.epochKey ((emptyManifest clearing).field 16 2) = some 0)
    (hhash : (emptyManifest clearing).header.drop 48 = strBytes (planHash pairPlan) 32) :
    restoringTwice.dev.manifestFail pairPlan (emptyManifest clearing) clearing 0 = none := by
  rw [Dev.manifestFail, hkey]
  dsimp only
  rw [hnames, emptyManifest_opens, hhash]
  simp

theorem restoringTwice_manifest :
    restoringTwice.dev.manifestFail pairPlan (emptyManifest 0) 0 0 = none ∧
      restoringTwice.dev.manifestFail pairPlan (emptyManifest 0xFF) 0xFF 0 = none :=
  ⟨emptyManifest_fails (by decide +kernel) (by decide +kernel) (List.drop_left' (by decide +kernel)),
    emptyManifest_fails (by decide +kernel) (by decide +kernel) (List.drop_left' (by decide +kernel))⟩

theorem restoringTwice_opens : restoringTwice.dev.restoreFail pairPlan emptyImage = none := by
  have hpair : restoringTwice.dev.keySlot 0 3 = none ∧ restoringTwice.dev.pairLoaded 0 = true ∧
      (restoringTwice.dev.ownerOf 0).toNat = 0 := by decide +kernel
  obtain ⟨hkcv, hpair, howner⟩ := hpair
  unfold Dev.restoreFail
  dsimp only
  rw [show emptyImage.clearing.val = 0 from rfl, howner, show emptyImage.manifest = emptyManifest 0 from rfl,
    restoringTwice_manifest.1, hkcv, hpair]
  rfl

theorem restoringTwice_restoreAll : restoringTwice.dev.restoreAll pairPlan [emptyImage] false =
    (restoringTwice.dev.restoreClr pairPlan emptyImage, none) := by
  have himages : restoringTwice.dev.imagesFor [emptyImage] = [(0, some emptyImage)] := by
    rw [Dev.imagesFor, show restoringTwice.dev.clearings = [0] by decide +kernel]
    rfl
  rw [Dev.restoreAll, himages, List.foldl_cons, List.foldl_nil]
  dsimp only
  rw [restoringTwice_opens]
  rfl

theorem restoringTwice_restoreClr :
    ((restoringTwice.dev.restoreClr pairPlan emptyImage).clr 0).num.nan = 1 := by
  decide +kernel

/-- What a restore does after its clearings leaves their records alone. -/
theorem doRestoreDone_clrs {d x : Dev} {p : StandPlan} {is : List RestoreImage} {r : RestoreRecord} {gap : Nat}
    (hp : d.plan.active = some p) (hst : d.stl.st = .rollback) (hall : d.restoreAll p is false = (x, none))
    (hm : d.manifestFail p r.manifest 0xFF 0 = none) : (doRestoreDone is r true gap d).clrs = x.clrs := by
  have htau (e : Dev) : e.updateTau.clrs = e.clrs := by
    unfold Dev.updateTau
    split
    · rfl
    · split
      · rfl
      · split <;> rfl
  unfold doRestoreDone
  rw [hp]
  dsimp only
  rw [hst]
  have hrole : ((StlSt.rollback == StlSt.fill) && d.stl.op == 2) = false := rfl
  rw [hrole, hall, if_neg (by decide), if_neg (by decide)]
  dsimp only
  rw [hm]
  dsimp only
  rw [Dev.raise_clrs]
  exact htau _

/-- Refutes O53: on `restoringTwice` the clearing's counters after its restore are not those of its image. -/
theorem not_recoveryRuns : ¬ Obligations.RecoveryRuns := by
  intro h
  obtain ⟨-, -, hdone, -⟩ := h restoringTwice [emptyImage] emptyRecord 0 (by decide +kernel)
  obtain ⟨-, -, -, -, hrestored⟩ := hdone pairPlan rfl (.inl rfl)
  obtain ⟨d, hout, -, -, -, -, -, hnum, -⟩ := hrestored 0 emptyImage (by decide +kernel) rfl rfl restoringTwice_opens
    restoringTwice_manifest.2 (by decide)
  have hd : doRestoreDone [emptyImage] emptyRecord true 0 restoringTwice.dev = d :=
    dev_of_act_eq (s := restoringTwice) (by decide +kernel) hout
  have hclrs : d.clrs = (restoringTwice.dev.restoreClr pairPlan emptyImage).clrs :=
    hd ▸ doRestoreDone_clrs rfl rfl restoringTwice_restoreAll restoringTwice_manifest.2
  rw [Dev.clr, hclrs] at hnum
  exact absurd ((congrArg Num.nan hnum).symm.trans restoringTwice_restoreClr) (by decide +kernel)

end Sys2Proof.Machine

/-! PROOFS. Saves, the loss log and deep strandlines (R329–R334, R342, R343). -/

namespace Sys2Proof.Machine
open Sys2Proof

/-! ## Flits striped over links -/

/-- A change of the links' records alone. -/
def Dev.LinkTabOnly (d d' : Dev) : Prop := d' = { d with lnk := { d.lnk with links := d'.lnk.links } }

theorem Dev.LinkTabOnly.refl (d : Dev) : d.LinkTabOnly d := Eq.refl d

theorem Dev.LinkTabOnly.trans {a b c : Dev} (h : a.LinkTabOnly b) (h' : b.LinkTabOnly c) : a.LinkTabOnly c := by
  unfold Dev.LinkTabOnly at *
  rw [h', h]

/-- A flit waits on a link. -/
def Dev.queueFlit (d : Dev) (l : Nat) (f : TxFlit) : Dev := d.modLink l fun k => { k with txq := k.txq ++ [f] }

theorem Dev.queueFlit_txq (d : Dev) (l : Nat) (f : TxFlit) :
    ((d.queueFlit l f).link l).txq = (d.link l).txq ++ [f] :=
  congrArg Link.txq (Tab.get_set_self Link.reset d.lnk.links l fun h =>
    List.append_ne_nil_of_right_ne_nil _ (List.cons_ne_nil f []) (congrArg Link.txq h))

theorem Dev.queueFlit_keeps (d : Dev) (l : Nat) (f : TxFlit) {m : Nat} {x : TxFlit} (h : x ∈ (d.link m).txq) :
    x ∈ ((d.queueFlit l f).link m).txq := by
  by_cases hm : m = l
  · subst hm
    rw [Dev.queueFlit_txq]
    exact List.mem_append_left _ h
  · rw [Dev.link, Dev.queueFlit, Dev.modLink, Tab.mod, Tab.get_set_ne _ _ _ hm]
    exact h

/-- One flit of a list, on the link of its turn. -/
def Dev.stripeOne (ls : List Nat) (d : Dev) (f : TxFlit × Nat) : Dev :=
  match ls[f.2 % ls.length]? with
  | some l => d.queueFlit l f.1
  | none => d

theorem Dev.stripe_eq (d : Dev) (ls : List Nat) (fs : List TxFlit) :
    d.stripe ls fs = fs.zipIdx.foldl (Dev.stripeOne ls) d := rfl

theorem Dev.stripeOne_linkTabOnly (ls : List Nat) (d : Dev) (f : TxFlit × Nat) : d.LinkTabOnly (d.stripeOne ls f) := by
  unfold Dev.stripeOne
  split <;> rfl

theorem Dev.stripe_linkTabOnly (d : Dev) (ls : List Nat) (fs : List TxFlit) : d.LinkTabOnly (d.stripe ls fs) := by
  rw [Dev.stripe_eq]
  exact foldl_frame (R := Dev.LinkTabOnly) .refl .trans (Dev.stripeOne_linkTabOnly ls) _ d

theorem Dev.stripeOne_keeps (ls : List Nat) (d : Dev) (f : TxFlit × Nat) {m : Nat} {x : TxFlit} (h : x ∈ (d.link m).txq) :
    x ∈ ((d.stripeOne ls f).link m).txq := by
  unfold Dev.stripeOne
  split
  · exact d.queueFlit_keeps _ _ h
  · exact h

theorem Dev.foldl_stripeOne_keeps (ls : List Nat) (fs : List (TxFlit × Nat)) (d : Dev) {m : Nat} {x : TxFlit}
    (h : x ∈ (d.link m).txq) : x ∈ ((fs.foldl (Dev.stripeOne ls) d).link m).txq :=
  foldl_frame (R := fun a b => x ∈ (a.link m).txq → x ∈ (b.link m).txq) (fun _ => id) (fun h h' => h' ∘ h)
    (fun d f => d.stripeOne_keeps ls f) fs d h

/-- Every flit of a list waits on a link of the group, where there is one. -/
theorem Dev.foldl_stripeOne_mem {ls : List Nat} (hls : ls ≠ []) (fs : List (TxFlit × Nat)) (d : Dev) {f : TxFlit × Nat}
    (h : f ∈ fs) : ∃ l ∈ ls, f.1 ∈ ((fs.foldl (Dev.stripeOne ls) d).link l).txq := by
  induction fs generalizing d with
  | nil => exact absurd h List.not_mem_nil
  | cons g fs ih =>
    rcases List.mem_cons.1 h with rfl | h
    · have hlt : f.2 % ls.length < ls.length := Nat.mod_lt _ (List.length_pos_iff.2 hls)
      refine ⟨ls[f.2 % ls.length], List.getElem_mem hlt, Dev.foldl_stripeOne_keeps ls fs _ ?_⟩
      rw [Dev.stripeOne, List.getElem?_eq_getElem hlt]
      dsimp only
      rw [Dev.queueFlit_txq]
      exact List.mem_append_right _ List.mem_cons_self
    · exact ih (d.stripeOne ls g) h

theorem Dev.stripe_mem {ls : List Nat} (hls : ls ≠ []) (fs : List TxFlit) (d : Dev) {f : TxFlit} (h : f ∈ fs) :
    ∃ l ∈ ls, f ∈ ((d.stripe ls fs).link l).txq := by
  obtain ⟨i, hi, rfl⟩ := List.getElem_of_mem h
  rw [Dev.stripe_eq]
  exact Dev.foldl_stripeOne_mem hls fs.zipIdx d (f := (fs[i], i)) (List.mk_mem_zipIdx_iff_getElem?.2
    (List.getElem?_eq_getElem hi))

/-! ## The runs of an activity end -/

theorem Dev.completeCmd_hostOnly (d : Dev) (q : Nat) (c : Cmd) (st : Status) (det : Detail) (info : BitVec 64)
    (rank : BitVec 21) : d.completeCmd q c st det info rank = { d with host := (d.completeCmd q c st det info rank).host } := by
  by_cases h : (d.cmd q c.seq).isSome = true
  · exact Dev.completeCmd_frame h st det info rank
  · rw [Dev.completeCmd, if_pos (by simpa using h)]
    rfl

/-- What the end of an activity's runs may change. -/
def Dev.RunsEnded (d d' : Dev) : Prop := d' = { d with sched := d'.sched, host := d'.host }

theorem Dev.RunsEnded.refl (d : Dev) : d.RunsEnded d := Eq.refl d

theorem Dev.RunsEnded.trans {a b c : Dev} (h : a.RunsEnded b) (h' : b.RunsEnded c) : a.RunsEnded c := by
  unfold Dev.RunsEnded at *
  rw [h', h]

theorem Dev.completeCmd_runsEnded (d : Dev) (q : Nat) (c : Cmd) (st : Status) (det : Detail) (info : BitVec 64)
    (rank : BitVec 21) : d.RunsEnded (d.completeCmd q c st det info rank) := by
  unfold Dev.RunsEnded
  rw [Dev.completeCmd_hostOnly]

theorem Dev.endMarks_runsEnded (d : Dev) (a : BitVec 16) (inst : Word) : d.RunsEnded (d.endMarks a inst) :=
  foldl_frame (R := Dev.RunsEnded) .refl .trans (fun d (x : Nat × Cmd) => d.completeCmd_runsEnded x.1 x.2 .ok .none 0 0) _ d

theorem Dev.modRun_runsEnded (d : Dev) (a : BitVec 16) (i : Word) (f : ActRun → ActRun) : d.RunsEnded (d.modRun a i f) := rfl

theorem Dev.endRuns_runsEnded (d : Dev) (a : BitVec 16) : d.RunsEnded (d.endRuns a) :=
  foldl_frame (R := Dev.RunsEnded) .refl .trans (fun d (r : ActRun) =>
    (d.modRun_runsEnded a r.inst fun r => { r with done := true }).trans (Dev.endMarks_runsEnded _ a r.inst)) _ d

theorem Dev.endStage_runsEnded (d : Dev) (k : Nat) : d.RunsEnded (d.endStage k) := by
  unfold Dev.endStage
  split
  · exact d.endRuns_runsEnded _
  · exact .refl d

/-! ## The instructions of a save -/

/-- The manifests go out, once. -/
def Dev.manifestsOut (d : Dev) (addr : BitVec 20) : Dev :=
  ({ d with stl := { d.stl with manifestsSent := true } } : Dev).sendManifests addr

/-- The log takes a loss word. -/
def Dev.lossLogged (d : Dev) (r : ActRun) (g : PlanStrand) : Dev :=
  { d with stl := { d.stl with lossLog := ((r.inst, d.lossWord g) :: d.stl.lossLog).take 16 } }

/-- The log and the flits of a loss word. -/
def Dev.lossSent (d : Dev) (r : ActRun) (g : PlanStrand) : Dev :=
  if g.k = 1 then (d.lossLogged r g).tick.sendLoss r.inst (d.lossWord g) g.buddy0
  else ((d.lossLogged r g).tick.sendLoss r.inst (d.lossWord g) g.buddy0).sendLoss r.inst (d.lossWord g) g.buddy1

/-- What LOSS_VERIFY says. -/
def Dev.verified (d : Dev) (v : BitVec 2) (stop : Bool) (k : Nat) : Dev :=
  ({ d.tick with stl := { d.stl with st := .idle, verify := v, stopAt := stop } } : Dev).raise .stl k

section
variable {d : Dev} {g : PlanStrand} (hs : d.strand = some g)
include hs

theorem doManifestSend_sends {w : SendSet} (hw : d.stageSet = some w) (hm : d.stl.manifestsSent = false)
    (hset : d.setSent w g = true) (hl : d.linksTo (w.addr g) ≠ []) :
    doManifestSend d = d.manifestsOut (w.addr g) := by
  rw [doManifestSend, hs]
  dsimp only
  rw [hw]
  dsimp only
  rw [if_pos (by simp [hm, hset, hl])]
  rfl

theorem doManifestSend_waits {w : SendSet} (hw : d.stageSet = some w) (he : d.stl.shadowEnd = none)
    (hset : d.setSent w g = false) : doManifestSend d = d := by
  rw [doManifestSend, hs]
  dsimp only
  rw [hw]
  dsimp only
  rw [if_neg (by simp [hset]), he]
  rfl

theorem settleStage_only (hst : d.stageSet = some .stageA) (hk : g.k = 1)
    (hsent : d.sendsDone .stageA g = true) :
    d.settleStage = { d with stl := { d.stl with buddyIdx0 := d.stl.index } } := by
  rw [Dev.settleStage, hs, hst]
  dsimp only
  rw [if_pos hsent, if_pos rfl, hk]
  rfl

/-- The device as the end of a save leaves it, before STL_TAU_REC follows. -/
def Dev.saveEnded (d : Dev) (ms : Nat) : Dev :=
  let e := ({ d with stl := { d.stl with buddyIdx0 := d.stl.index } } : Dev).endStage 0
  { e with stl := { e.stl with st := .idle, costMs := e.stl.costMs + e.eighth (ms - e.stl.costMs) } }

theorem doSaveDone_ends {ms : Nat} (hst : d.stl.st = .stageA) (hk : g.k = 1) (hm : d.stl.manifestsSent = true)
    (hset : d.setSent .stageA g = true) (hr : d.receiptsDone g = true) :
    doSaveDone ms d = ((d.saveEnded ms).tick.updateTau).raise .stl 0 := by
  have hw : d.stageSet = some .stageA := by rw [Dev.stageSet, if_pos hst]
  have hsent : d.sendsDone .stageA g = true := by rw [Dev.sendsDone, hm, hset]; rfl
  rw [doSaveDone, hs, hw]
  dsimp only
  rw [if_pos (by simp [hk, hsent, hr]), settleStage_only hs hw hk hsent, if_pos hk]
  rfl

theorem doSaveDone_first {ms : Nat} (hst : d.stl.st = .stageA) (hk : g.k ≠ 1) : doSaveDone ms d = d := by
  rw [doSaveDone, hs, Dev.stageSet, if_pos hst]
  dsimp only
  rw [if_neg hk]
  rfl

theorem doLossWordRecord_none (h : d.newLoss g = none) : doLossWordRecord d = d := by
  rw [doLossWordRecord, hs]
  dsimp only
  rw [h]

theorem doLossWordRecord_some {r : ActRun} (h : d.newLoss g = some r) : doLossWordRecord d = d.lossSent r g := by
  rw [doLossWordRecord, hs]
  dsimp only
  rw [h]
  rfl

theorem doLossVerify_ends {r : ActRun} {inst : Word} (hst : d.stl.st = .replay) (hi : inst = d.stl.lastInst + 1)
    (hr : d.run g.lossAct inst = some r) (hc : d.runComplete r = true) : doLossVerify inst d =
    match d.stl.lossLog.find? (·.1 == inst) with
    | none => d.verified 3 d.stl.stopAt 7
    | some e => if e.2 = d.lossWord g then d.verified 1 d.stl.stopAt 5 else d.verified 2 true 6 := by
  rw [doLossVerify, hs]
  dsimp only
  rw [hr]
  dsimp only
  rw [if_neg (by simp [hst, hi, hc])]
  rfl

end

theorem doDeepStrandlineDone_posts {d d₁ : Dev} {q : Nat} {seq : Word} {c : Cmd} {p : StandPlan} {rs : List Byte}
    (hp : d.plan.active = some p) (hc : d.cmd q seq = some c) (ho : c.opcode = 10) (hph : c.ph = .running)
    (hdeep : fld c.raw 16 1 % 2 = 1) (hd : d.stl.deep = true)
    (hrs : Dev.deepRecords d.stl.index (allChunks p) d = (d₁, some rs)) : doDeepStrandlineDone q seq d =
      ((d₁.emit (.deepWrite (BitVec.ofNat 64 (fld c.raw 24 8))
        ((d.stl.deepMan.flatMap fun m => d.manifestBytes d.stl.index m) ++ rs))).dropDeep c.actId).raise .stl 2 := by
  rw [doDeepStrandlineDone, hc, hp]
  dsimp only
  rw [if_pos (by simp [ho, hph, hd, Nat.testBit_zero, hdeep]), hrs]

theorem Dev.updateTau_frame (d : Dev) : d.updateTau = { d with stl := { d.stl with tauRec := d.updateTau.stl.tauRec } } := by
  unfold Dev.updateTau
  split
  · rfl
  · split
    · rfl
    · split <;> rfl

theorem Dev.eighth_exact (d : Dev) {x j : Int} (h : x = 8 * j) : d.eighth x = j := by
  rw [Dev.eighth, if_pos (by omega)]
  omega

theorem Dev.sendLoss_linkTabOnly (d : Dev) (inst : Word) (w : AW) (addr : BitVec 20) :
    d.LinkTabOnly (d.sendLoss inst w addr) := d.stripe_linkTabOnly _ _

theorem Dev.saveEnded_state (d : Dev) (ms : Nat) :
    (d.saveEnded ms).stl.st = .idle ∧ (d.saveEnded ms).stl.buddyIdx0 = d.stl.index ∧ (d.saveEnded ms).mem = d.mem ∧
      (d.saveEnded ms).plan = d.plan ∧ ∃ e : Dev,
        (d.saveEnded ms).stl.costMs = d.stl.costMs + e.eighth (ms - d.stl.costMs) := by
  have h := ({ d with stl := { d.stl with buddyIdx0 := d.stl.index } } : Dev).endStage_runsEnded 0
  unfold Dev.saveEnded
  dsimp only
  generalize ({ d with stl := { d.stl with buddyIdx0 := d.stl.index } } : Dev).endStage 0 = e at *
  have hstl : e.stl = { d.stl with buddyIdx0 := d.stl.index } := by rw [h]
  have hmem : e.mem = d.mem := by rw [h]
  have hplan : e.plan = d.plan := by rw [h]
  rw [hstl]
  exact ⟨rfl, rfl, hmem, hplan, e, rfl⟩

/-- The end of a save: its stage, its index, its cost, and the event. -/
theorem Dev.saveDone_state (d : Dev) (ms : Nat) (d' : Dev) (h : d' = ((d.saveEnded ms).tick.updateTau).raise .stl 0) :
    d'.stl.st = .idle ∧ d'.stl.buddyIdx0 = d.stl.index ∧ (d'.ev.get .stl).ev.getLsbD 0 = true ∧ d'.mem = d.mem ∧
      d'.plan = d.plan ∧ ∃ e : Dev, d'.stl.costMs = d.stl.costMs + e.eighth (ms - d.stl.costMs) := by
  obtain ⟨hst, hidx, hmem, hplan, e, hcost⟩ := d.saveEnded_state ms
  have htau := (d.saveEnded ms).tick.updateTau_frame
  have hstl : d'.stl = { (d.saveEnded ms).stl with tauRec := (d.saveEnded ms).tick.updateTau.stl.tauRec } := by
    rw [h, Dev.raise_stl, htau]
    rfl
  refine ⟨by rw [hstl, ← hst], by rw [hstl, ← hidx], h ▸ Dev.raise_shows _ _ (by decide), ?_, ?_, e, by rw [hstl, ← hcost]⟩
  · rw [h, Dev.raise_mem, htau, ← hmem]
    rfl
  · rw [h, Dev.raise_plan, htau, ← hplan]
    rfl

theorem Dev.sendManifests_linkTabOnly (d : Dev) (addr : BitVec 20) : d.LinkTabOnly (d.sendManifests addr) :=
  d.stripe_linkTabOnly _ _

theorem Dev.sendManifests_mem {d : Dev} {addr : BitVec 20} (hl : d.linksTo addr ≠ []) {m : Manifest}
    (hm : m ∈ d.stl.manifests) {f : TxFlit}
    (hf : f ∈ d.strandFlits m.clearing.toNat 2 0 (d.manifestBytes d.stl.index m)) :
    ∃ l ∈ d.linksTo addr, f.body ∈ ((d.sendManifests addr).link l).txq.map (·.body) := by
  obtain ⟨l, hl, hin⟩ := Dev.stripe_mem hl _ d (List.mem_flatMap
    (f := fun m : Manifest => d.strandFlits m.clearing.toNat 2 0 (d.manifestBytes d.stl.index m)).2 ⟨m, hm, hf⟩)
  exact ⟨l, hl, List.mem_map_of_mem hin⟩

theorem Dev.manifestsOut_frame (d : Dev) (addr : BitVec 20) :
    (d.manifestsOut addr).stl = { d.stl with manifestsSent := true } ∧
      d.manifestsOut addr = { d with
        stl := (d.manifestsOut addr).stl, lnk := { d.lnk with links := (d.manifestsOut addr).lnk.links } } := by
  have h := ({ d with stl := { d.stl with manifestsSent := true } } : Dev).sendManifests_linkTabOnly addr
  unfold Dev.manifestsOut
  generalize ({ d with stl := { d.stl with manifestsSent := true } } : Dev).sendManifests addr = e at *
  unfold Dev.LinkTabOnly at h
  rw [h]
  exact ⟨rfl, rfl⟩

theorem Dev.lossSent_linkTabOnly (d : Dev) (r : ActRun) (g : PlanStrand) :
    (d.lossLogged r g).tick.LinkTabOnly (d.lossSent r g) := by
  unfold Dev.lossSent
  have h := (d.lossLogged r g).tick.sendLoss_linkTabOnly r.inst (d.lossWord g) g.buddy0
  split
  · exact h
  · exact h.trans (Dev.sendLoss_linkTabOnly _ _ _ _)

theorem Dev.lossSent_frame (d : Dev) (r : ActRun) (g : PlanStrand) :
    (d.lossSent r g).stl.lossLog = ((r.inst, d.lossWord g) :: d.stl.lossLog).take 16 ∧
      d.lossSent r g = { d with
        free := (d.lossSent r g).free, stl := { d.stl with lossLog := (d.lossSent r g).stl.lossLog }
        lnk := { d.lnk with links := (d.lossSent r g).lnk.links } } := by
  have h := d.lossSent_linkTabOnly r g
  generalize d.lossSent r g = e at *
  unfold Dev.LinkTabOnly at h
  rw [h]
  exact ⟨rfl, rfl⟩

theorem Dev.verified_state (d : Dev) (v : BitVec 2) (stop : Bool) {k : Nat} (hk : k < 32) :
    (d.verified v stop k).stl = { d.stl with st := .idle, verify := v, stopAt := stop } ∧
      (d.verified v stop k).mem = d.mem ∧ (d.verified v stop k).host = d.host ∧
      ((d.verified v stop k).ev.get .stl).ev.getLsbD k = true :=
  ⟨Dev.raise_stl _ _ _, Dev.raise_mem _ _ _, Dev.raise_host _ _ _, Dev.raise_shows _ _ hk⟩

/-- A deep strandline is posted and its activity ends. -/
theorem Dev.deepPosted_state (d : Dev) (o : Output) (a : BitVec 16) {d' : Dev}
    (h : d' = ((d.emit o).dropDeep a).raise .stl 2) :
    (∃ es, d'.outbox = d.outbox ++ [o] ++ es) ∧ d'.stl.deep = false ∧ d'.stl.deepMan = [] ∧
      (d'.ev.get .stl).ev.getLsbD 2 = true ∧ d'.mem = d.mem := by
  have hruns := ({ d.emit o with stl := { d.stl with deep := false, deepMan := [] } } : Dev).endRuns_runsEnded a
  have hdrop : (d.emit o).dropDeep a =
      ({ d.emit o with stl := { d.stl with deep := false, deepMan := [] } } : Dev).endRuns a := rfl
  rw [hdrop] at h
  generalize ({ d.emit o with stl := { d.stl with deep := false, deepMan := [] } } : Dev).endRuns a = e at *
  unfold Dev.RunsEnded at hruns
  have hstl : d'.stl = { d.stl with deep := false, deepMan := [] } := by rw [h, Dev.raise_stl, hruns]
  obtain ⟨es, hes⟩ := e.raise_outbox_append .stl 2
  refine ⟨⟨es, ?_⟩, by rw [hstl], by rw [hstl], h ▸ Dev.raise_shows _ _ (by decide), ?_⟩
  · rw [h, hes, hruns]
    rfl
  · rw [h, Dev.raise_mem, hruns]
    rfl

/-- The stages whose set a device sends. -/
theorem stageSet_of {d : Dev} {w : SendSet}
    (h : (w = .stageA ∧ d.stl.st = .stageA) ∨ (w = .stageB ∧ d.stl.st = .stageB)) : d.stageSet = some w := by
  rcases h with ⟨rfl, h⟩ | ⟨rfl, h⟩
  · rw [Dev.stageSet, if_pos h]
  · rw [Dev.stageSet, if_neg (by rw [h]; exact StlSt.noConfusion), if_pos h]

/-- Settles O52: the sends, the end and the log of a save, and the one piece of a deep strandline. -/
theorem savesRun : Obligations.SavesRun := by
  unfold Obligations.SavesRun
  intro s p g ms q seq c hr hp hg d out
  have hs : d.strand = some g := by
    rw [Dev.strand, hp]
    exact hg
  refine ⟨fun w hw => ⟨fun hm hset hl => ?_, fun he hset => act_eq_next hr (doManifestSend_waits hs (stageSet_of hw) he hset)⟩,
    fun hst hk hm hset hrec => ?_, fun hst hk => act_eq_next hr (doSaveDone_first hs hst hk), fun r hnew => ?_,
    fun hnew => act_eq_next hr (doLossWordRecord_none hs hnew), ?_, fun hc ho hph hdeep hd d₁ rs hrs => ?_⟩
  · obtain ⟨hstl, hframe⟩ := d.manifestsOut_frame (w.addr g)
    exact ⟨_, act_eq_next hr (doManifestSend_sends hs (stageSet_of hw) hm hset hl), hstl, hframe,
      fun m hmem f hf => Dev.sendManifests_mem (d := { d with stl := { d.stl with manifestsSent := true } }) hl hmem hf⟩
  · obtain ⟨h1, h2, h3, h4, h5, e, h6⟩ := d.saveDone_state ms _ rfl
    refine ⟨_, act_eq_next hr (doSaveDone_ends hs hst hk hm hset hrec), h1, h2, h3, h4, h5, fun heq => ?_, fun j hj => ?_⟩
    · rw [h6, Dev.eighth_exact e (j := 0) (by omega)]
      omega
    · rw [h6, Dev.eighth_exact e hj]
  · obtain ⟨hlog, hframe⟩ := d.lossSent_frame r g
    exact ⟨_, act_eq_next hr (doLossWordRecord_some hs hnew), hlog, hframe⟩
  · rintro hst ⟨r, hrun, hcomplete⟩ inst found
    have hverify := doLossVerify_ends hs hst rfl hrun hcomplete
    have hout := act_eq_next hr hverify
    cases hfound : found with
    | none =>
      rw [show d.stl.lossLog.find? (·.1 == inst) = none from hfound] at hout
      obtain ⟨hstl, hmem, hhost, hev⟩ := d.verified_state 3 d.stl.stopAt (k := 7) (by decide)
      exact ⟨_, hout, by rw [hstl], hmem, hhost, fun _ => ⟨by rw [hstl], hev⟩, fun e he => (by cases he), fun e he => (by cases he)⟩
    | some e =>
      rw [show d.stl.lossLog.find? (·.1 == inst) = some e from hfound] at hout
      by_cases he : e.2 = d.lossWord g
      · obtain ⟨hstl, hmem, hhost, hev⟩ := d.verified_state 1 d.stl.stopAt (k := 5) (by decide)
        exact ⟨_, hout.trans (congrArg out (if_pos he)), by rw [hstl], hmem, hhost, fun h => (by cases h),
          fun e' _ _ => ⟨by rw [hstl], hev, by rw [hstl]⟩, fun e' he' hne => absurd (Option.some.inj he' ▸ he) hne⟩
      · obtain ⟨hstl, hmem, hhost, hev⟩ := d.verified_state 2 true (k := 6) (by decide)
        exact ⟨_, hout.trans (congrArg out (if_neg he)), by rw [hstl], hmem, hhost, fun h => (by cases h),
          fun e' he' heq => absurd (Option.some.inj he' ▸ heq) he, fun e' _ _ => ⟨by rw [hstl], hev, by rw [hstl]⟩⟩
  · obtain ⟨⟨es, hes⟩, h1, h2, h3, h4⟩ := d₁.deepPosted_state (.deepWrite (BitVec.ofNat 64 (fld c.raw 24 8))
      ((d.stl.deepMan.flatMap fun m => d.manifestBytes d.stl.index m) ++ rs)) c.actId rfl
    exact ⟨_, es, act_eq_next hr (doDeepStrandlineDone_posts hp hc ho hph hdeep hd hrs), hes, h1, h2, h3, h4⟩

end Sys2Proof.Machine

/-! PROOFS. COMMAND_DECODE (R286) of a command without an activity, in a plan that lists an activity of that number:
a counterexample. -/

namespace Sys2Proof.Machine
open Sys2Proof

/-- A STRANDLINE_MARK of context 1 whose ACT_ID is 0xFFFF: it names no activity (R283). -/
def unscheduledMark : Cmd := newCmd 0 (0xFFFF0001000A#512)

/-- An activity of clearing 0 and queue 0 under the number 0xFFFF. -/
def unnumberedAct : PlanAct :=
  { actId := 0xFFFF, kind := 3, clearing := 0, startOff := 0, deadlineOff := 0, preds := [], queue := 0, rflags := 0
    stage := noStage }

def unnumberedTemplate : PlanTemplate := { templateId := 0, base := 0, length := 0, acts := [unnumberedAct] }

/-- The stand whose active plan lists that activity, with the command waiting to be decoded. The obligation does not ask
that a plan's activities have numbers of their own: the command ends NOT_SCHEDULED, and the obligation's clause of a
command that names an activity of its queue says that it is decoded. -/
def unscheduledNamed : State :=
  { State.reset with dev := { Dev.reset with
      plan := { PlanRegs.reset with active := some { onePlan with
        templates := [unnumberedTemplate] } }
      clrs := [(0, { Clearing.reset with st := .active })]
      host := { HostBlk.reset with queues := [(0, { Queue.reset with cmds := [unscheduledMark] })] } } }

/-- Refutes O42: the command of `unscheduledNamed` would leave its queue and stand decoded in it. -/
theorem not_commandsBegin : ¬ Obligations.CommandsBegin := by
  intro h
  obtain ⟨-, hchecks⟩ := h.1 unscheduledNamed 0 0 unscheduledMark (by decide +kernel) (by decide +kernel)
    (by decide +kernel) (by decide +kernel) (by decide +kernel) (by decide +kernel)
  obtain ⟨-, hknown⟩ := hchecks (by decide +kernel) (by decide +kernel)
  obtain ⟨-, hlive⟩ := hknown (by decide +kernel) (by decide +kernel) (by decide +kernel)
  obtain ⟨-, hreserved⟩ := hlive (by decide +kernel)
  obtain ⟨-, hformed⟩ := hreserved (by decide +kernel)
  obtain ⟨-, -, -, hactive⟩ := hformed (by decide +kernel)
  obtain ⟨hunscheduled, -, hnamed⟩ := hactive (by decide +kernel) (by decide +kernel)
  obtain ⟨d, hd, ⟨hgone, -⟩, -⟩ := hunscheduled (by decide +kernel) (by decide +kernel)
  obtain ⟨-, hhandles⟩ := hnamed (.inr ⟨unnumberedTemplate, unnumberedAct, by decide +kernel, by decide +kernel, by decide +kernel⟩)
  have hnone : unscheduledNamed.dev.handlesOf unscheduledMark = [] := by decide +kernel
  obtain ⟨-, howned⟩ := hhandles fun x hx => absurd (hnone ▸ hx) List.not_mem_nil
  obtain ⟨-, hpasses⟩ := howned fun x hx => absurd (hnone ▸ hx) List.not_mem_nil
  obtain ⟨d', hd', -, hstays, -⟩ := hpasses (by decide +kernel) (by decide +kernel)
  have hsame : d = d' := congrArg State.dev (Host.Outcome.next.inj (hd.symm.trans hd'))
  have hleft : d'.cmd 0 0 = none := hsame ▸ hgone (by decide +kernel)
  exact Option.some_ne_none _ (hstays.symm.trans hleft)

end Sys2Proof.Machine

/-! PROOFS. A deep STRANDLINE_MARK without room (R335) in a queue that is listed twice: a counterexample. -/

namespace Sys2Proof.Machine
open Sys2Proof

/-- A deep STRANDLINE_MARK of activity 1, whose DEEP_LEN is 0. -/
def deepMark : Cmd := { newCmd 0 (0x10000000000000000000000010000000A#512) with ph := .started, src := 0 }

/-- The deep activity that it names, in queue 0 of clearing 0. -/
def deepAct : PlanAct :=
  { actId := 1, kind := 6, clearing := 0, startOff := 0, deadlineOff := 0, preds := [], queue := 0, rflags := 0
    stage := noStage }

def deepTemplate : PlanTemplate := { templateId := 0, base := 0, length := 0, acts := [deepAct] }

def deepPlan : StandPlan := { onePlan with templates := [deepTemplate] }

/-- The activity's first run goes on. -/
def deepRun : ActRun :=
  { act := 1, inst := 0, clearing := 0, startPos := 0, deadline := 0, startMark := 0, late := false, counted := false
    done := false }

/-- The stand on a device whose table of queues lists queue 0 twice: with the command at its start, and with the same
command running. The obligation asks for no canonical table here: the command ends ABORTED in the first entry, and its
activity, when it ends, finds it running in the second and amends its record to OK. -/
def markedTwice : State :=
  { State.reset with dev := { Dev.reset with
      plan := { PlanRegs.reset with active := some deepPlan }
      sched := { Sched.reset with runs := [deepRun] }
      clrs := [(0, { Clearing.reset with st := .active })]
      host := { HostBlk.reset with
        queues := [(0, { Queue.reset with cmds := [deepMark] }),
          (0, { Queue.reset with cmds := [{ deepMark with ph := .running }] })] } } }

theorem markedTwice_endsOk :
    (Tab.get [] (doStrandlineMark 0 0 markedTwice.dev).host.fifos 0).map (·.status) = [.ok] := by
  decide +kernel

/-- Refutes O43: on `markedTwice` the deep mark without room completes ABORTED. -/
theorem not_fencesAndWaits : ¬ Obligations.FencesAndWaits := by
  intro h
  obtain ⟨hmark, -⟩ := h.2 markedTwice 0 0 deepMark deepPlan deepTemplate deepAct 0 (by decide +kernel)
    (by decide +kernel) rfl rfl
  obtain ⟨-, hfits⟩ := hmark (by decide +kernel) (by decide +kernel)
  obtain ⟨-, hruns⟩ := hfits (.inl ⟨by decide +kernel, rfl⟩)
  obtain ⟨-, -, hsmall⟩ := hruns deepRun (by decide +kernel) rfl
  obtain ⟨d, hout, ⟨ord, hrec⟩, -⟩ := hsmall (by decide +kernel) (by decide +kernel)
  have hd : doStrandlineMark 0 0 markedTwice.dev = d := dev_of_act_eq (s := markedTwice) (by decide +kernel) hout
  have := List.mem_map_of_mem (f := Completion.status) (hd ▸ hrec)
  rw [show deepMark.src = 0 from rfl, markedTwice_endsOk] at this
  exact absurd (List.mem_singleton.1 this) Status.noConfusion

end Sys2Proof.Machine

/-! PROOFS. A queue disabled (R300) while two launches have one number: a counterexample. -/

namespace Sys2Proof.Machine
open Sys2Proof

/-- Queue 0 runs with the commands 0 and 1. A launch of each runs under the number 0, and another of command 1 stops with
TAMPER under the number 1. The obligation asks for no distinct numbers: the abort of command 0 frees both launches of the
number 0, and the abort of command 1 then finds the one that stops. -/
def sharedNumber : State :=
  { State.reset with dev := { Dev.reset with
      launches := [{ launchNumbered 0 .running .ok with queue := 0 },
        { launchNumbered 0 .running .ok with queue := 0, seq := 1 },
        { launchNumbered 1 .stopping .tamper with queue := 0, seq := 1 }]
      host := { HostBlk.reset with
        queues := [(0, { Queue.reset with st := .running, cmds := [heldCmd, { heldCmd with seq := 1 }] })] } } }

theorem sharedNumber_statuses :
    (Tab.get [] (doQueueDisable 0 0 sharedNumber.dev).host.fifos 0).map (fun r => (r.seq, r.status)) =
      [(0, .aborted), (1, .tamper)] := by
  decide +kernel

/-- Refutes O41: on `sharedNumber` the disabled queue's command 1 completes ABORTED. -/
theorem not_queueLife : ¬ Obligations.QueueLife := by
  intro h
  obtain ⟨-, -, -, -, -, hdisable, -⟩ := h.1 sharedNumber 0 0 0 (by decide +kernel) (by decide +kernel)
    (by decide +kernel)
  obtain ⟨d, hout, -, -, -, hcmds, -⟩ := hdisable (by decide +kernel)
  obtain ⟨-, r, hr, -, hseq, hst, -⟩ := hcmds { heldCmd with seq := 1 } (by decide +kernel) (by decide +kernel)
    (by decide +kernel) fun l hl => by
      cases (show sharedNumber.dev.launchOf 0 1 = some { launchNumbered 0 .running .ok with queue := 0, seq := 1 } by
        decide +kernel).symm.trans hl
      rfl
  have hd : doQueueDisable 0 0 sharedNumber.dev = d := dev_of_act_eq (s := sharedNumber) (by decide +kernel) hout
  have := List.mem_map_of_mem (f := fun r : Completion => (r.seq, r.status)) (hd ▸ hr)
  rw [show ({ heldCmd with seq := 1 } : Cmd).src = 0 from rfl, sharedNumber_statuses, hseq, hst] at this
  exact absurd this (by decide)

end Sys2Proof.Machine

/-! PROOFS. What the SPDM responder answers (R238, R239). -/

namespace Sys2Proof.Machine
open Sys2Proof

/-- The instruction that brings an SPDM request. -/
def SpdmReq.instr : SpdmReq → Instr
  | .getVersion => .getVersion
  | .getCapabilities => .getCapabilities
  | .negotiateAlgorithms sm2 sm3 sm4 => .negotiateAlgorithms sm2 sm3 sm4
  | .getDigests => .getDigests
  | .getCertificate slot => .getCertificate slot
  | .challenge nonce => .spdmChallenge nonce
  | .getMeasurements index nonce signed => .getMeasurements index nonce signed
  | .keyExchange ok data => .keyExchange ok data
  | .finish mac => .finish mac
  | .heartbeat => .heartbeat
  | .keyUpdate => .keyUpdate
  | .endSession => .endSession

theorem exec_spdm {s : State} (hr : s.dev.running = true) (r : SpdmReq) :
    exec r.instr s = .next { s with dev := s.dev.spdmCome r } := by
  cases r <;> exact act_running (f := fun d => d.spdmCome _) hr

section
variable {d : Dev} {r : SpdmReq}

theorem Dev.spdmCome_busy (h : d.sec.job.isSome = true) :
    d.spdmCome r = { d with spdm := { d.spdm with waiting := d.spdm.waiting ++ [r] } } := if_pos h

theorem Dev.spdmCome_idle (h : d.sec.job = none) : d.spdmCome r = d.spdmServe r :=
  if_neg (by rw [h]; exact Bool.false_ne_true)

theorem Dev.spdmServe_scrapped (h : d.lcs.st = .scrapped) : d.spdmServe r = d.emit (.spdm .lifecycle) := if_pos h

theorem Dev.spdmServe_answers (h : d.lcs.st ≠ .scrapped) {x : Dev × SpdmResp} (hx : d.spdmDo r = some x) :
    d.spdmServe r = x.1.emit (.spdm x.2) := by
  rw [Dev.spdmServe, if_neg h, hx]

theorem Dev.spdmServe_fails (h : d.lcs.st ≠ .scrapped) (hx : d.spdmDo r = none) :
    d.spdmServe r = d.emit (.spdm .error) := by
  rw [Dev.spdmServe, if_neg h, hx]

end

/-! ## What each request does -/

section
variable {d : Dev}

theorem Dev.spdmDo_without_algs (h : d.spdm.algs = false) {nonce : B256} {index : Byte} {signed : Bool} {data : List Byte}
    {r : SpdmReq} (hr : r = .getDigests ∨ r = .getCertificate 0 ∨ r = .challenge nonce ∨
      r = .getMeasurements index nonce signed ∨ r = .keyExchange true data) : d.spdmDo r = none := by
  rcases hr with rfl | rfl | rfl | rfl | rfl
  all_goals simp [Dev.spdmDo, Dev.spdmDigests, Dev.spdmCertificate, Dev.spdmChallenge, Dev.spdmMeasurements,
    Dev.spdmKeyExchange, h]

theorem Dev.spdmMeasurements_unknown {index : Byte} {nonce : B256} {signed : Bool} {m : List Byte}
    (h : d.spdmMeasure index.toNat nonce = none) : d.spdmMeasurements index nonce signed m = none := by
  rw [Dev.spdmMeasurements, h]
  cases d.spdm.algs <;> rfl

/-- The measurement's transcript with the request and the response (R239). -/
def Dev.measured (d : Dev) (index : Byte) (m value : List Byte) : List Byte :=
  d.spdm.logL ++ m ++ spdmRsp 0x60 [[index], value]

theorem Dev.spdmMeasurements_known {index : Byte} {nonce : B256} {signed : Bool} {m value : List Byte} {kind : MeasKind}
    (ha : d.spdm.algs = true) (h : d.spdmMeasure index.toNat nonce = some (kind, value)) :
    d.spdmMeasurements index nonce signed m =
      if signed then
        some ((d.modSpdm fun s => { s with logL := [] }).tick, .measurement index kind value
          (some (d.spdmSign "responder-measurements signing" (d.spdm.logA ++ d.measured index m value))))
      else some (d.modSpdm fun s => { s with logL := d.measured index m value }, .measurement index kind value none) := by
  rw [Dev.spdmMeasurements, ha, h]
  rfl

theorem Dev.spdmFinish_refused {mac m : List Byte}
    (h : d.spdm.session ≠ some false ∨ mac ≠ spdmVerify d.spdm.secret "requester" (d.spdm.logK ++ m)) :
    d.spdmFinish mac m = none :=
  if_neg fun hc => by
    obtain ⟨hs, hm⟩ := Bool.and_eq_true_iff.1 hc
    exact h.elim (· (by simpa using hs)) (· (by simpa using hm))

theorem Dev.spdmFinish_accepted {mac m : List Byte} (hs : d.spdm.session = some false)
    (hm : mac = spdmVerify d.spdm.secret "requester" (d.spdm.logK ++ m)) :
    d.spdmFinish mac m = some (d.modSpdm fun s => { s with
      session := some true, secret := spdmKey s.secret "application" (s.logK ++ m ++ mac), logK := [] }, .finishRsp) :=
  if_pos (by simp [hs, ← hm])

theorem Dev.spdmMeasure_entry (nonce : B256) {i : Nat} (h : i < 16) :
    d.spdmMeasure (0x10 + i) nonce = some (.hardwareConfig, (d.quoteEntry i).bytes) := by
  have hentry : (d.quote nonce).entries[i]? = some (d.quoteEntry i) := by
    rw [Dev.quote, List.getElem?_map, List.getElem?_range h]
    rfl
  interval_cases i <;> simp [Dev.spdmMeasure, hentry]

end

/-- Settles O35: request by request, a busy core lets it wait, a Scrapped device answers LIFECYCLE, and otherwise the
responder's answer is what the request does. -/
theorem spdmAnswers : Obligations.SpdmAnswers := by
  unfold Obligations.SpdmAnswers
  intro s nonce index signed data mac hr d x tells h all
  have hall : ∀ c ∈ all, c.1 = c.2.instr := by
    simp only [all, List.forall_mem_cons]
    exact ⟨rfl, rfl, rfl, rfl, rfl, rfl, rfl, rfl, rfl, rfl, rfl, rfl, fun _ h => nomatch h⟩
  have runs {r : SpdmReq} {e : Dev} (he : d.spdmCome r = e) : exec r.instr s = .next { s with dev := e } :=
    (exec_spdm hr r).trans (by rw [he])
  refine ⟨fun hjob c hc => ?_, fun hjob hlcs c hc => ?_, fun hjob hlcs => ?_, ?_⟩
  · rw [hall c hc]
    exact runs (Dev.spdmCome_busy hjob)
  · rw [hall c hc]
    exact runs ((Dev.spdmCome_idle hjob).trans (Dev.spdmServe_scrapped hlcs))
  · have answers {r : SpdmReq} {a : SpdmResp} {e : Dev} (he : d.spdmDo r = some (e, a)) :
        exec r.instr s = .next { s with dev := e.emit (.spdm a) } :=
      runs ((Dev.spdmCome_idle hjob).trans (Dev.spdmServe_answers hlcs he))
    have fails {r : SpdmReq} (he : d.spdmDo r = none) : exec r.instr s = tells .error x 0 :=
      runs ((Dev.spdmCome_idle hjob).trans (Dev.spdmServe_fails hlcs he))
    refine ⟨answers (r := .getVersion) rfl, fun hv => answers (r := .getCapabilities) (if_pos hv), fun hv =>
      fails (r := .getCapabilities) (if_neg (Bool.eq_false_iff.1 hv)), fun hc =>
      answers (r := .negotiateAlgorithms true true true) (if_pos (Bool.and_eq_true_iff.2 ⟨hc, rfl⟩)),
      fails (r := .negotiateAlgorithms false false false) (if_neg (by simp)), fun ha c hc hreq => ?_, fun ha => ?_, ?_,
      fun hs => ?_, fun hs => ?_⟩
    · rw [hall c hc]
      exact fails (Dev.spdmDo_without_algs ha hreq)
    · refine ⟨answers (r := .getDigests) (if_pos ha), answers (r := .getCertificate 0) (if_pos (Bool.and_eq_true_iff.2 ⟨ha, rfl⟩)),
        fails (r := .getCertificate 1) (if_neg (by simp)), answers (r := .challenge nonce) (if_pos ha),
        ?_,
        fun hm => fails (r := .getMeasurements index nonce signed) (Dev.spdmMeasurements_unknown hm),
        answers (r := .keyExchange true data) (if_pos (Bool.and_eq_true_iff.2 ⟨ha, rfl⟩)),
        fails (r := .keyExchange false data) (if_neg (by simp))⟩
      intro m kind value hm
      have hdo : d.spdmDo (.getMeasurements index nonce signed) = _ := Dev.spdmMeasurements_known ha hm
      exact ⟨fun hs => answers (hdo.trans (if_neg (Bool.eq_false_iff.1 hs))), fun hs => answers (hdo.trans (if_pos hs))⟩
    · exact ⟨fun hs hm => answers (r := .finish mac) (Dev.spdmFinish_accepted hs hm), fun h =>
        fails (r := .finish mac) (Dev.spdmFinish_refused h)⟩
    · exact ⟨answers (r := .heartbeat) (if_pos hs), answers (r := .keyUpdate) (if_pos hs), answers (r := .endSession) (if_pos hs)⟩
    · exact ⟨fails (r := .heartbeat) (if_neg hs), fails (r := .keyUpdate) (if_neg hs),
        fails (r := .endSession) (if_neg hs)⟩
  · exact ⟨rfl, rfl, rfl, rfl, fun i hi => Dev.spdmMeasure_entry nonce hi⟩

end Sys2Proof.Machine

/-! PROOFS. Integrity repairs (R205) and the stages of a scrub (R207). -/

namespace Sys2Proof.Machine
open Sys2Proof

/-! ## The end of an integrity repair (R205) -/

section
variable (d : Dev) (n : Nat)

/-- The rebuilding touches counters, nodes and salts, and then lifts the quarantine. -/
theorem Dev.rebuild_eq : ∃ (e : Dev) (t : McxFrame → List (Nat × Nat × Nat)), d.MetaFrame e ∧ d.rebuild n =
    e.modFrame n fun x => { x with repair := false, quarantine := [], tampered := t x } := by
  refine ⟨_, _, ?_, rfl⟩
  have hunits (e : Dev) (f : Nat → UnitMeta → UnitMeta) :
      e.MetaFrame { e with mem := { e.mem with meta_ := Tab.each UnitMeta.reset e.mem.meta_ f } } := rfl
  refine ((hunits d _).trans (Dev.MetaFrame.foldl (fun e q => ?_) _ _)).trans (Dev.MetaFrame.foldl (fun e r => ?_) _ _)
  · split
    · rfl
    · exact e.modRegion_metaFrame _ _
  · rfl

end

/-- What an integrity repair leaves when its copies are current (R205). -/
theorem Dev.rebuild_raise {d : Dev} {n : Nat} (hw : Tab.wf McxFrame.reset d.mem.frames = true) :
    let e := (d.rebuild n).raise .mcx 6
    (e.frame n).repair = false ∧ (e.frame n).quarantine = [] ∧ (e.ev.get .mcx).ev.getLsbD 6 = true ∧
      e.mem.hbm = d.mem.hbm ∧ e.clrs = d.clrs ∧ e.host = d.host := by
  obtain ⟨e, t, he, hb⟩ := d.rebuild_eq n
  have hw' : Tab.wf McxFrame.reset e.mem.frames = true := by rw [he]; exact hw
  have hframe : ((d.rebuild n).raise .mcx 6).frame n =
      { e.frame n with repair := false, quarantine := [], tampered := t (e.frame n) } := by
    rw [Dev.frame, Dev.raise_mem, hb]
    exact Dev.modFrame_frame_self e n _ hw'
  refine ⟨?_, ?_, Dev.raise_shows _ _ (by decide), ?_, ?_, ?_⟩
  · rw [hframe]
  · rw [hframe]
  · rw [Dev.raise_mem, hb, he]; rfl
  · rw [Dev.raise_clrs, hb, he]; rfl
  · rw [Dev.raise_host, hb, he]; rfl

section
variable {d : Dev} {n : Nat} (hrep : (d.frame n).repair = true)
include hrep

theorem doIntegrityRepairDone_waits (hc : d.copiesCurrent n = true) (hk : (d.frame n).rekey = true) :
    doIntegrityRepairDone n true d = d := by
  rw [doIntegrityRepairDone, hrep, hc, hk]
  rfl

theorem doIntegrityRepairDone_rebuilds (hc : d.copiesCurrent n = true) (hk : (d.frame n).rekey = false)
    (hw : (d.frame n).rekeyWaits = false) (hs : ∀ j ∈ d.pairSlots n, (d.slot j).swapPos = none) :
    doIntegrityRepairDone n true d = (d.rebuild n).raise .mcx 6 := by
  have hno : ((d.pairSlots n).any fun s => (d.slot s).swapPos.isSome) = false :=
    List.any_eq_false.2 fun j hj => by simp [hs j hj]
  rw [doIntegrityRepairDone, hrep, hc, hk, hw, hno]
  rfl

theorem doIntegrityRepairDone_faults {ok : Bool} (h : ok = false ∨ d.copiesCurrent n = false) :
    doIntegrityRepairDone n ok d = (d.haltClr n .halted .aborted .clearingHalted).raise .flt 5 := by
  have hno : (ok && d.copiesCurrent n) = false := by
    rcases h with h | h <;> simp [h]
  rw [doIntegrityRepairDone, hrep, hno]
  rfl

end

/-- What it leaves when they are not: the clearing halts, and its faults show. -/
theorem Dev.haltClr_raise {d : Dev} {n : Nat} (hw : Tab.wf Clearing.reset d.clrs = true) :
    let e := (d.haltClr n .halted .aborted .clearingHalted).raise .flt 5
    ((d.clr n).st = .active → (e.clr n).st = .halted) ∧ (e.ev.get .flt).ev.getLsbD 5 = true ∧
      e.mem.frames = d.mem.frames ∧ e.mem.hbm = d.mem.hbm ∧ e.sec = d.sec := by
  have hframe := d.haltClr_haltFrame n .halted .aborted .clearingHalted
  refine ⟨fun hst => ?_, Dev.raise_shows _ _ (by decide), ?_, ?_, ?_⟩
  · rw [Dev.clr, Dev.raise_clrs, Dev.haltClr_clrs, Tab.get_mod hw, if_pos rfl, ← Dev.clr, hst]
    rfl
  · rw [Dev.raise_mem, hframe]
  · rw [Dev.raise_mem, hframe]
  · rw [Dev.raise_sec, hframe]

/-! ## Slots that a clearing leaves -/

section
variable (d : Dev)

/-- The slots below 16, which the system holds, stay. -/
def Dev.SystemSlotsKept (d d' : Dev) : Prop := ∀ j, j < 16 → d'.slot j = d.slot j

theorem Dev.destroySlot_slot_ne {s k : Nat} (h : k ≠ s) : (d.destroySlot s).slot k = d.slot k := by
  unfold Dev.destroySlot
  split
  · rw [Dev.raise_slot, Dev.slot, Dev.wipeSlot_slots]
    exact Tab.get_set_ne _ _ _ h
  · rfl

theorem Dev.remeasureSlot_slot (s k : Nat) : (d.remeasureSlot s).slot k = d.slot k :=
  congrArg (Tab.get Slot.reset · k) (d.remeasureSlot_slots s)

/-- Between two states every clearing is the same, its measurement aside. -/
def Dev.ClrsMeasured (d d' : Dev) : Prop := Tab.wf Clearing.reset d.clrs = true →
  Tab.wf Clearing.reset d'.clrs = true ∧ ∀ k, { d'.clr k with measure := 0 } = { d.clr k with measure := 0 }

theorem Dev.ClrsMeasured.refl : d.ClrsMeasured d := fun h => ⟨h, fun _ => rfl⟩

theorem Dev.ClrsMeasured.trans {a b c : Dev} (h : a.ClrsMeasured b) (h' : b.ClrsMeasured c) : a.ClrsMeasured c :=
  fun hw => have ⟨hb, hk⟩ := h hw; have ⟨hc, hk'⟩ := h' hb; ⟨hc, fun k => (hk' k).trans (hk k)⟩

theorem Dev.ClrsMeasured.of_clrs {d' : Dev} (h : d'.clrs = d.clrs) : d.ClrsMeasured d' := fun hw =>
  ⟨h ▸ hw, fun k => by rw [Dev.clr, h]; rfl⟩

theorem Dev.modClr_wf (hw : Tab.wf Clearing.reset d.clrs = true) (n : Nat) (f : Clearing → Clearing) :
    Tab.wf Clearing.reset (d.modClr n f).clrs = true := Tab.mod_wf _ _ hw n f

theorem Dev.remeasure_clrsMeasured (n : Nat) : d.ClrsMeasured (d.remeasure n) := by
  unfold Dev.remeasure
  split
  · refine fun hw => ⟨d.modClr_wf hw n _, fun k => ?_⟩
    rw [Dev.clr, Dev.modClr, Tab.get_mod hw]
    split
    · rename_i hk
      rw [hk]
      rfl
    · rfl
  · exact .refl d

theorem Dev.remeasureSlot_clrsMeasured (s : Nat) : d.ClrsMeasured (d.remeasureSlot s) := by
  unfold Dev.remeasureSlot
  split
  · refine foldl_frame (R := Dev.ClrsMeasured) .refl .trans (fun d n => ?_) _ d
    split
    · exact d.remeasure_clrsMeasured n
    · exact .refl d
  · exact .refl d

theorem Dev.destroySlot_clrsMeasured (s : Nat) : d.ClrsMeasured (d.destroySlot s) := by
  unfold Dev.destroySlot Dev.wipeSlot
  split
  · exact ((Dev.ClrsMeasured.of_clrs _ (by rw [Dev.raiseIf]; split <;> simp [Dev.modSlot])).trans
      (Dev.remeasureSlot_clrsMeasured _ s)).trans (.of_clrs _ (Dev.raise_clrs _ _ _))
  · exact .refl d

/-- A change of the content slots alone. -/
structure Dev.ContentLeft (d d' : Dev) : Prop where
  frame : d.SlotFrame d'
  system : d.SystemSlotsKept d'
  clrs : d.ClrsMeasured d'

theorem Dev.ContentLeft.refl : d.ContentLeft d := ⟨rfl, fun _ _ => rfl, .refl d⟩

theorem Dev.ContentLeft.trans {a b c : Dev} (h : a.ContentLeft b) (h' : b.ContentLeft c) : a.ContentLeft c :=
  ⟨h.frame.trans h'.frame, fun j hj => (h'.system j hj).trans (h.system j hj), h.clrs.trans h'.clrs⟩

theorem Dev.destroySlot_contentLeft {s : Nat} (hs : 16 ≤ s) : d.ContentLeft (d.destroySlot s) :=
  ⟨d.destroySlot_slotFrame s, fun _ hj => d.destroySlot_slot_ne (by omega), d.destroySlot_clrsMeasured s⟩

theorem Dev.modSlot_contentLeft {s : Nat} (hs : 16 ≤ s) (f : Slot → Slot) : d.ContentLeft (d.modSlot s f) :=
  ⟨d.modSlot_slotFrame s f, fun _ hj => Tab.get_set_ne _ _ _ (by omega), .of_clrs _ rfl⟩

theorem Dev.remeasureSlot_contentLeft (s : Nat) : d.ContentLeft (d.remeasureSlot s) :=
  ⟨(d.remeasureSlot_clrsOnly s).slotFrame, fun j _ => d.remeasureSlot_slot s j, d.remeasureSlot_clrsMeasured s⟩

theorem Dev.leaveSlots_contentLeft (n : Nat) (owner : BitVec 6) : d.ContentLeft (d.leaveSlots n owner) := by
  refine List.foldlRecOn (motive := fun e => d.ContentLeft e) _ _ (.refl d) fun e he x hx => he.trans ?_
  have h16 : 16 ≤ x.1 := by
    have := (List.mem_filter.1 hx).2
    simp only [Bool.and_eq_true, decide_eq_true_eq] at this
    exact this.1.1.1
  have hmask := e.modSlot_contentLeft h16 fun y => { y with mask := clrBit y.mask n }
  dsimp only
  split
  · exact hmask.trans (Dev.destroySlot_contentLeft _ h16)
  · exact hmask.trans (Dev.remeasureSlot_contentLeft _ x.1)

theorem Dev.dropUnfit_contentLeft (p : StandPlan) : d.ContentLeft (d.dropUnfit p) := by
  refine List.foldlRecOn (motive := fun e => d.ContentLeft e) _ _ (.refl d) fun e he x hx =>
    he.trans (e.destroySlot_contentLeft ?_)
  have := (List.mem_filter.1 hx).2
  simp only [Bool.and_eq_true, decide_eq_true_eq] at this
  exact this.1.1.1

end

/-! ## The key erasure (R207) -/

/-- The device once the clearing has left its old owner's slots. -/
def Dev.slotsLeft (d : Dev) (n : Nat) : Dev :=
  let e := d.leaveSlots n (d.clr n).scrubOwner
  match e.plan.active with
  | some p => e.dropUnfit p
  | none => e

theorem Dev.slotsLeft_contentLeft (d : Dev) (n : Nat) : d.ContentLeft (d.slotsLeft n) := by
  have h := d.leaveSlots_contentLeft n (d.clr n).scrubOwner
  unfold Dev.slotsLeft
  dsimp only
  split
  · exact h.trans (Dev.dropUnfit_contentLeft _ _)
  · exact h

theorem Dev.eraseGranules_get (d : Dev) (gs : List Nat) (a : Nat) : Tab.get none (d.eraseGranules gs).mem.hbm a =
    if a / 2 ^ 30 ∈ gs then none else Tab.get none d.mem.hbm a := by
  rw [Dev.eraseGranules, Tab.get_drop]
  simp

/-- What the key erasure leaves (R207). -/
theorem Dev.ContentLeft.erased {d x : Dev} {n : Nat} (h : d.ContentLeft x)
    (hf : Tab.wf McxFrame.reset d.mem.frames = true)
    (hc : Tab.wf Clearing.reset d.clrs = true) :
    let e := ((x.eraseGranules (x.clr n).scrubGs).dropRegions n).modFrame n
      fun x => { x with erased := true }
    e.frame n = { d.frame n with erased := true } ∧
      (∀ a, Tab.get none e.mem.hbm a = if a / 2 ^ 30 ∈ (d.clr n).scrubGs then none else Tab.get none d.mem.hbm a) ∧
      (∀ j, j < 16 → e.slot j = d.slot j) ∧ e.tiles = d.tiles ∧ e.host = d.host ∧ e.plan = d.plan := by
  obtain ⟨hframe, hsys, hclrs⟩ := h
  have hgs : (x.clr n).scrubGs = (d.clr n).scrubGs := (congrArg Clearing.scrubGs ((hclrs hc).2 n) :)
  have hmem : x.mem = d.mem := (congrArg Dev.mem hframe :)
  refine ⟨?_, fun a => ?_, hsys, (congrArg Dev.tiles hframe :), (congrArg Dev.host hframe :),
    (congrArg Dev.plan hframe :)⟩
  · have hpre : x.frame n = d.frame n := congrArg (fun m : Mem => Tab.get McxFrame.reset m.frames n) hmem
    refine (Dev.modFrame_frame_self _ n _ ?_).trans (congrArg (fun x : McxFrame => { x with erased := true }) hpre)
    exact (congrArg (fun m : Mem => Tab.wf McxFrame.reset m.frames) hmem).trans hf
  · rw [← hgs, ← hmem]
    exact x.eraseGranules_get _ a

section
variable {d : Dev} {n : Nat}

theorem doScrubKeyErase_waits (h : ∃ r ∈ d.mem.reqs, r.served = false ∧ r.clearing = n) : doScrubKeyErase n d = d := by
  obtain ⟨r, hr, hserved, hclr⟩ := h
  refine if_neg fun hc => ?_
  have := List.all_eq_true.1 (Bool.and_eq_true_iff.1 hc).2 r hr
  simp [hserved, hclr] at this

variable (hs : (d.frame n).scrub = true)
include hs

theorem doScrubKeyErase_erases (he : (d.frame n).erased = false)
    (h : ∀ r ∈ d.mem.reqs, r.served = true ∨ r.clearing ≠ n) : doScrubKeyErase n d =
      (((d.slotsLeft n).eraseGranules ((d.slotsLeft n).clr n).scrubGs).dropRegions n).modFrame n
        fun x => { x with erased := true } := by
  have hall : (d.mem.reqs.all fun r => r.served || r.clearing != n) = true :=
    List.all_eq_true.2 fun r hr => by simpa using h r hr
  rw [doScrubKeyErase, hs, he, hall]
  rfl

theorem doScrubOverwriteStart_held (he : (d.frame n).erased = true) (ho : (d.frame n).overwriting = false)
    (hp : (d.planClr n).isSome = true) (hk : d.pairLoaded n = false) :
    doScrubOverwriteStart n d = d.modFrame n fun y => { y with waitKeys := true } := by
  rw [doScrubOverwriteStart, hs, he, ho, hp, hk]
  rfl

theorem doScrubOverwriteStart_runs (he : (d.frame n).erased = true) (ho : (d.frame n).overwriting = false)
    (h : (d.planClr n).isSome = false ∨ d.pairLoaded n = true) : doScrubOverwriteStart n d =
      d.modFrame n fun y => { y with waitKeys := false, overwriting := true } := by
  have hno : ((d.planClr n).isSome && !d.pairLoaded n) = false := by
    rcases h with h | h <;> simp [h]
  rw [doScrubOverwriteStart, hs, he, ho, hno]
  rfl

end

/-! ## The end of the scrub (R207) -/

/-- An overwrite: contents go and none come. -/
structure Dev.Overwritten (d d' : Dev) : Prop where
  frame : d' = { d with free := d'.free, mem := { d.mem with
    hbm := d'.mem.hbm, meta_ := d'.mem.meta_, flaws := d'.mem.flaws, cache := d'.mem.cache, ueList := d'.mem.ueList
    mcache := d'.mem.mcache, regions := d'.mem.regions } }
  gone : ∀ a, Tab.get none d.mem.hbm a = none → Tab.get none d'.mem.hbm a = none

theorem Dev.Overwritten.refl (d : Dev) : d.Overwritten d := ⟨rfl, fun _ h => h⟩

theorem Dev.Overwritten.trans {a b c : Dev} (h : a.Overwritten b) (h' : b.Overwritten c) : a.Overwritten c :=
  ⟨by rw [h'.frame, h.frame], fun x hx => h'.gone x (h.gone x hx)⟩

section
variable (d : Dev)

theorem Dev.eraseGranules_overwritten (gs : List Nat) : d.Overwritten (d.eraseGranules gs) :=
  ⟨rfl, fun a h => by rw [Dev.eraseGranules_get, h, ite_self]⟩

theorem Dev.formRegion_overwritten (f r : Nat) : d.Overwritten (d.formRegion f r) :=
  (d.eraseGranules_overwritten (d.granulesOf f r)).trans ⟨rfl, fun _ h => h⟩

/-- The granules whose overwrite ends: those that have entered no other clearing. -/
def Dev.scrubbedGs (d : Dev) (n : Nat) : List Nat := (d.clr n).scrubGs.filter fun g => !d.enteredOther n g

/-- The device once those granules are overwritten, and once the clearing's own regions are formed. -/
def Dev.scrubErased (d : Dev) (n : Nat) : Dev :=
  let e := d.eraseGranules (d.scrubbedGs n)
  { e with plan := { e.plan with overwrites := e.plan.overwrites.filter fun o => !(d.scrubbedGs n).contains o.1 } }

def Dev.scrubFormed (d : Dev) (n : Nat) : Dev :=
  match (d.scrubErased n).plan.active with
  | some p => (List.range (p.regionsOf n).length).foldl (fun e r => e.formRegion n r) (d.scrubErased n)
  | none => d.scrubErased n

theorem Dev.scrubFormed_overwritten (n : Nat) : (d.scrubErased n).Overwritten (d.scrubFormed n) := by
  unfold Dev.scrubFormed
  split
  · exact foldl_frame (R := Dev.Overwritten) .refl .trans (fun e r => e.formRegion_overwritten n r) _ _
  · exact .refl _

theorem Dev.scrubFormed_frame (n : Nat) : d.scrubFormed n = { d with
    free := (d.scrubFormed n).free
    plan := { d.plan with overwrites := (d.scrubErased n).plan.overwrites }
    mem := { d.mem with
      hbm := (d.scrubFormed n).mem.hbm, meta_ := (d.scrubFormed n).mem.meta_, flaws := (d.scrubFormed n).mem.flaws
      cache := (d.scrubFormed n).mem.cache, ueList := (d.scrubFormed n).mem.ueList
      mcache := (d.scrubFormed n).mem.mcache, regions := (d.scrubFormed n).mem.regions } } :=
  (d.scrubFormed_overwritten n).frame

theorem Dev.scrubFormed_gone {n a : Nat} (h : a / 2 ^ 30 ∈ d.scrubbedGs n) :
    Tab.get none (d.scrubFormed n).mem.hbm a = none :=
  (d.scrubFormed_overwritten n).gone a ((d.eraseGranules_get _ a).trans (if_pos h))

/-- The clearing once its scrub has ended. -/
def Clearing.scrubbed (c : Clearing) (st : ClrSt) : Clearing :=
  { c with st := st, scrubOwner := 0, scrubGs := [], scrubTiles := [] }

/-- The device once the clearing's tiles are wiped, and its frame is as new. -/
def Dev.scrubWiped (d : Dev) (n : Nat) : Dev :=
  (((d.clr n).scrubTiles ++ d.tilesOf n).foldl Dev.wipeTile (d.scrubFormed n)).modFrame n fun _ => McxFrame.reset

end

section
variable {d : Dev} {n : Nat}

theorem Dev.scrubWiped_frame (d : Dev) (n : Nat) : d.scrubWiped n = { d with
    free := (d.scrubFormed n).free
    tiles := (d.scrubWiped n).tiles
    plan := { d.plan with overwrites := (d.scrubErased n).plan.overwrites }
    mem := { d.mem with
      frames := Tab.mod McxFrame.reset d.mem.frames n fun _ => McxFrame.reset
      hbm := (d.scrubFormed n).mem.hbm, meta_ := (d.scrubFormed n).mem.meta_, flaws := (d.scrubFormed n).mem.flaws
      cache := (d.scrubFormed n).mem.cache, ueList := (d.scrubFormed n).mem.ueList
      mcache := (d.scrubFormed n).mem.mcache, regions := (d.scrubFormed n).mem.regions } } := by
  have hwipe := (d.scrubFormed n).foldl_wipeTile_frame ((d.clr n).scrubTiles ++ d.tilesOf n)
  unfold Dev.scrubWiped
  rw [hwipe]
  generalize List.foldl Dev.wipeTile (d.scrubFormed n) ((d.clr n).scrubTiles ++ d.tilesOf n) = w at *
  have hform := d.scrubFormed_frame n
  generalize d.scrubFormed n = e at *
  rw [hform]
  rfl

theorem Dev.scrubWiped_tile (hw : Tab.wf TileSt.reset d.tiles = true) {t : Nat}
    (ht : t ∈ (d.clr n).scrubTiles ++ d.tilesOf n) : (d.scrubWiped n).tile t = (d.tile t).wiped := by
  have hform : (d.scrubFormed n).tiles = d.tiles := (congrArg Dev.tiles (d.scrubFormed_frame n) :)
  have := Dev.foldl_wipeTile_tile (d := d.scrubFormed n) (hform ▸ hw) ht
  rwa [Dev.tile, Dev.tile, hform] at this

theorem doScrubDone_ends (hs : (d.frame n).scrub = true) (ho : (d.frame n).overwriting = true) : doScrubDone n d =
    (((d.scrubWiped n).modClr n (·.scrubbed (if (d.planClr n).isSome then d.openState else .absent))).remeasure n).raise
      .mcx 5 := by
  have hclr : (d.scrubFormed n).clr n = d.clr n := by rw [d.scrubFormed_frame n]; rfl
  have htiles : (d.scrubFormed n).tilesOf n = d.tilesOf n := by rw [d.scrubFormed_frame n]; rfl
  have hst : (if ((d.scrubWiped n).planClr n).isSome then (d.scrubWiped n).openState else ClrSt.absent) =
      if (d.planClr n).isSome then d.openState else .absent := by rw [d.scrubWiped_frame n]; rfl
  have hwiped : d.scrubWiped n = ((((d.scrubFormed n).clr n).scrubTiles ++ (d.scrubFormed n).tilesOf n).foldl
      Dev.wipeTile (d.scrubFormed n)).modFrame n fun _ => McxFrame.reset := by rw [hclr, htiles]; rfl
  rw [doScrubDone, if_pos (by rw [hs, ho]; rfl), ← hst, hwiped]
  rfl

end

/-- What the end of a scrub leaves (R207). -/
theorem Dev.scrubWiped_ends {d : Dev} {n : Nat} (hf : Tab.wf McxFrame.reset d.mem.frames = true)
    (hc : Tab.wf Clearing.reset d.clrs = true) :
    let st : ClrSt := if (d.planClr n).isSome then d.openState else .absent
    let e := (((d.scrubWiped n).modClr n (·.scrubbed st)).remeasure n).raise .mcx 5
    e.frame n = McxFrame.reset ∧ (e.clr n).st = st ∧
      (∀ a, a / 2 ^ 30 ∈ (d.clr n).scrubGs → d.enteredOther n (a / 2 ^ 30) = false → Tab.get none e.mem.hbm a = none) ∧
      (∀ t ∈ (d.clr n).scrubTiles ++ d.tilesOf n, Tab.wf TileSt.reset d.tiles = true →
        e.tile t = { TileSt.reset with gen := (d.tile t).gen }) ∧
      (e.ev.get .mcx).ev.getLsbD 5 = true ∧ e.sec = d.sec ∧ e.host = d.host ∧ e.lcs = d.lcs := by
  intro st e
  have hwiped := d.scrubWiped_frame n
  have hends := ((d.scrubWiped n).modClr n (·.scrubbed st)).remeasure_clrsOnly n
  have hmem : e.mem = (d.scrubWiped n).mem := by rw [Dev.raise_mem, hends]; rfl
  refine ⟨?_, ?_, fun a ha hno => ?_, fun t ht hw => ?_, Dev.raise_shows _ _ (by decide), ?_, ?_, ?_⟩
  · rw [Dev.frame, hmem, hwiped, Tab.get_mod hf, if_pos rfl]
  · have hclrs : (d.scrubWiped n).clrs = d.clrs := (congrArg Dev.clrs hwiped :)
    have hmeasured := (Dev.remeasure_clrsMeasured ((d.scrubWiped n).modClr n (·.scrubbed st)) n
      (Dev.modClr_wf _ (hclrs ▸ hc) n _)).2 n
    rw [Dev.modClr_clr_self _ _ _ (hclrs ▸ hc)] at hmeasured
    rw [Dev.clr, Dev.raise_clrs]
    exact (congrArg Clearing.st hmeasured :)
  · have hin : a / 2 ^ 30 ∈ d.scrubbedGs n := List.mem_filter.2 ⟨ha, by rw [hno]; rfl⟩
    rw [hmem, hwiped]
    exact d.scrubFormed_gone hin
  · rw [Dev.tile, Dev.raise_tiles, hends]
    exact Dev.scrubWiped_tile hw ht
  · rw [Dev.raise_sec, hends, Dev.modClr, hwiped]
  · rw [Dev.raise_host, hends, Dev.modClr, hwiped]
  · rw [Dev.raise_lcs, hends, Dev.modClr, hwiped]

/-- Settles O31: a repair rebuilds or faults; a scrub's stages erase, overwrite and end. -/
theorem scrubAndRepair : Obligations.ScrubAndRepair := by
  unfold Obligations.ScrubAndRepair
  intro s n hr d₀ x here hframes hclrs
  refine ⟨fun hrep => ⟨fun hc hk => ?_, fun hc hk hw hs => ?_, fun ok hno => ?_⟩,
    fun hscrub => ⟨fun he => ⟨fun h => ?_, fun h => ?_⟩, fun he ho => ⟨fun hp hk => ?_, fun h => ?_⟩, fun ho => ?_⟩⟩
  · exact (act_running hr _).trans (by rw [doIntegrityRepairDone_waits hrep hc hk])
  · exact ⟨_, act_eq_next hr (doIntegrityRepairDone_rebuilds hrep hc hk hw hs), Dev.rebuild_raise hframes⟩
  · exact ⟨_, act_eq_next hr (doIntegrityRepairDone_faults hrep hno), Dev.haltClr_raise hclrs⟩
  · exact (act_running hr _).trans (by rw [doScrubKeyErase_waits h])
  · exact ⟨_, act_eq_next hr (doScrubKeyErase_erases hscrub he h), (s.dev.slotsLeft_contentLeft n.val).erased hframes hclrs⟩
  · exact act_eq_next hr (doScrubOverwriteStart_held hscrub he ho hp hk)
  · exact act_eq_next hr (doScrubOverwriteStart_runs hscrub he ho h)
  · exact ⟨_, act_eq_next hr (doScrubDone_ends hscrub ho), Dev.scrubWiped_ends hframes hclrs⟩

end Sys2Proof.Machine

/-! PROOFS. HBM lines that return from a stack (R180, R181, R199, R202). -/

namespace Sys2Proof.Machine
open Sys2Proof

/-! ## The stack of a physical byte -/

theorem stackOf_physOf {s sa : Nat} (h : sa < stackSize) : stackOf (physOf s sa) = s := by
  unfold stackSize at h
  unfold stackOf physOf
  omega

section
variable (d : Dev)

/-- A corrected line changes its stack's counters and the events. -/
theorem Dev.corrected_frame (s sa n : Nat) : d.corrected s sa n = { d with
    mem := { d.mem with stk := (d.corrected s sa n).mem.stk }, ev := (d.corrected s sa n).ev
    pins := (d.corrected s sa n).pins, outbox := (d.corrected s sa n).outbox } := by
  unfold Dev.corrected
  dsimp only
  rw [Dev.raiseIf_frame]
  rfl

theorem Dev.corrected_stack_ne (s sa n : Nat) {k : Nat} (h : k ≠ s) : (d.corrected s sa n).stack k = d.stack k := by
  unfold Dev.corrected
  dsimp only
  rw [Dev.stack, Dev.raiseIf_mem, ← Dev.stack, Dev.modStack_stack_ne _ _ h, Dev.modStack_stack_ne _ _ h]

theorem Dev.corrected_ce (s sa n : Nat) (hw : Tab.wf StackSt.reset d.mem.stk = true) :
    ((d.corrected s sa n).stack s).ce = satInc (d.stack s).ce := by
  unfold Dev.corrected
  dsimp only
  rw [Dev.stack, Dev.raiseIf_mem, ← Dev.stack, Dev.modStack_modStack_stack _ _ hw]

/-! ## What the decoder passes on -/

/-- One byte of a CIPHER_ONLY line takes its part of the alteration. -/
def Dev.alterByte (d : Dev) (a : Nat) (x : Byte) : Dev :=
  match Tab.get none d.mem.hbm a with
  | some b => d.putHbm a (some (b ^^^ x))
  | none => d

theorem Dev.alterByte_frame (a : Nat) (x : Byte) :
    d.alterByte a x = { d with mem := { d.mem with hbm := (d.alterByte a x).mem.hbm } } := by
  unfold Dev.alterByte
  split <;> rfl

theorem Dev.alterByte_get (a k : Nat) (x : Byte) : Tab.get none (d.alterByte a x).mem.hbm k =
    if k = a then (Tab.get none d.mem.hbm k).map (· ^^^ x) else Tab.get none d.mem.hbm k := by
  unfold Dev.alterByte
  by_cases hk : k = a
  · subst hk
    rw [if_pos rfl]
    split
    · rename_i b hb
      rw [hb]
      exact Tab.get_set_self _ _ _ (Option.some_ne_none _)
    · rename_i hb
      rw [hb]
      rfl
  · rw [if_neg hk]
    split
    · exact Tab.get_set_ne _ _ _ hk
    · rfl

/-- The first `n` bytes from `base` take their parts. -/
def Dev.alterBytes (d : Dev) (base : Nat) (x : Nat → Byte) (n : Nat) : Dev :=
  (List.range n).foldl (fun e i => e.alterByte (base + i) (x i)) d

theorem Dev.alterBytes_frame (base : Nat) (x : Nat → Byte) (n : Nat) : d.alterBytes base x n =
    { d with mem := { d.mem with hbm := (d.alterBytes base x n).mem.hbm } } := by
  refine List.foldlRecOn (motive := fun e : Dev => e = { d with mem := { d.mem with hbm := e.mem.hbm } }) _ _ rfl
    fun e he i _ => ?_
  rw [Dev.alterByte_frame, he]

theorem Dev.alterBytes_get (base : Nat) (x : Nat → Byte) (n k : Nat) :
    Tab.get none (d.alterBytes base x n).mem.hbm k =
      if base ≤ k ∧ k < base + n then (Tab.get none d.mem.hbm k).map (· ^^^ x (k - base))
      else Tab.get none d.mem.hbm k := by
  induction n with
  | zero => rw [if_neg (by omega)]; rfl
  | succ n ih =>
    rw [Dev.alterBytes, List.range_succ, List.foldl_append, List.foldl_cons, List.foldl_nil, Dev.alterByte_get,
      ← Dev.alterBytes, ih]
    by_cases hk : k = base + n
    · subst hk
      rw [if_pos rfl, if_neg (by omega), if_pos (by omega), Nat.add_sub_cancel_left]
    · rw [if_neg hk]
      exact if_congr (by omega) rfl rfl

theorem Dev.takeFlaw_cipherOnly (pa : Nat) (flaw : BitVec 512) :
    d.takeFlaw pa true flaw = { d with mem := { d.mem with hbm := (d.takeFlaw pa true flaw).mem.hbm } } ∧
      ∀ a, Tab.get none (d.takeFlaw pa true flaw).mem.hbm a =
        if a / 64 = pa / 64 then (Tab.get none d.mem.hbm a).map (· ^^^ flaw.extractLsb' (8 * (a % 64)) 8)
        else Tab.get none d.mem.hbm a := by
  by_cases h : flaw = 0
  · have hnone : d.takeFlaw pa true flaw = d := if_pos h
    have hpart (a : Nat) : flaw.extractLsb' (8 * (a % 64)) 8 = 0 := by rw [h]; exact BitVec.extractLsb'_zero
    rw [hnone]
    refine ⟨rfl, fun a => ?_⟩
    rw [hpart]
    cases Tab.get none d.mem.hbm a <;> simp
  · have hbytes : d.takeFlaw pa true flaw = d.alterBytes (pa / 64 * 64) (fun i => flaw.extractLsb' (8 * i) 8) 64 := by
      rw [Dev.takeFlaw, if_neg h]
      rfl
    rw [hbytes]
    refine ⟨d.alterBytes_frame _ _ _, fun a => ?_⟩
    rw [Dev.alterBytes_get]
    by_cases ha : a / 64 = pa / 64
    · rw [if_pos (by omega), if_pos ha, show a - pa / 64 * 64 = a % 64 by omega]
    · rw [if_neg (by omega), if_neg ha]

/-! ## A line that came -/

theorem Dev.lineCame_clean (pa : Nat) (co : Bool) {x : RsOut} (h : x.ecc = .clean) :
    d.lineCame pa co x = d.takeFlaw pa co x.flaw := by
  rw [Dev.lineCame, h]
  rfl

theorem Dev.takeFlaw_zero (pa : Nat) (co : Bool) : d.takeFlaw pa co 0 = d := if_pos (Eq.refl (0 : BitVec 512))

theorem Dev.lineCame_corrected (pa : Nat) (co : Bool) {x : RsOut} (h : x.ecc = .corrected) (hz : x.flaw = 0) :
    d.lineCame pa co x = d.corrected (stackOf pa) (stackAddr pa) x.syms := by
  rw [Dev.lineCame, h, hz]
  exact Dev.takeFlaw_zero _ _ _

theorem Dev.lineCame_uncorrectable (pa : Nat) (co : Bool) {x : RsOut} (h : x.ecc = .uncorrectable) (hz : x.flaw = 0) :
    d.lineCame pa co x = d := by
  rw [Dev.lineCame, h, hz]
  exact Dev.takeFlaw_zero _ _ _

theorem rsDecode_uncorrectable {es : List SymErr} (h : (rsDecode es).ecc = .uncorrectable) : (rsDecode es).flaw = 0 := by
  unfold rsDecode at h ⊢
  dsimp only at h ⊢
  split at h
  · exact nomatch h
  next hany =>
    rw [if_neg hany]
    split at h
    · exact nomatch h
    next hsyn =>
      rw [if_neg hsyn]
      split at h
      · rfl
      · exact nomatch h

/-! ## The unit of a data line -/

section
variable {d} {f r ra pu : Nat} {rg : PlanRegion}

theorem Dev.lineRead_unit (hm : rg.metaLineAt ra = none) (hra : ra < rg.dataBytes)
    (hp : d.phys f r (ra / rg.unit * rg.unit) = some pu) :
    d.lineRead f r ra rg .unit = some (.unit, ra / rg.unit * rg.unit, some pu) := by
  rw [Dev.lineRead, hm]
  dsimp only
  rw [if_neg (by omega), hp]

/-- What the return of a unit's line resolves to (R202). -/
def Dev.resolveUnit (d : Dev) (f r ra pa : Nat) (rg : PlanRegion) (pw wr : Bool) (ecc : Ecc) : Dev × Status :=
  d.resolveLine f r ra pa rg pw wr ecc true .unit

/-- A unit is verified here: the outcome of a tag line's or node's MAC plays no part. -/
theorem Dev.resolveLine_unit (f r ra pa : Nat) (rg : PlanRegion) (pw wr : Bool) (ecc : Ecc) (macOk : Bool) :
    d.resolveLine f r ra pa rg pw wr ecc macOk .unit = d.resolveUnit f r ra pa rg pw wr ecc := by
  rw [Dev.resolveUnit, Dev.resolveLine, Dev.resolveLine, if_pos rfl, if_pos rfl]

theorem Dev.lineReturns_unit (hm : rg.metaLineAt ra = none) (hra : ra < rg.dataBytes)
    (hp : d.phys f r (ra / rg.unit * rg.unit) = some pu) (wr pw : Bool) (es : List SymErr) :
    d.lineReturns f r ra rg wr pw es .unit =
      (d.lineCame pu (rg.mode == 2) (rsDecode (d.laneErrors pu es))).resolveUnit f r (ra / rg.unit * rg.unit) pu rg pw wr
        (rsDecode (d.laneErrors pu es)).ecc := by
  rw [Dev.lineReturns, Dev.lineRead_unit hm hra hp]
  exact Dev.resolveLine_unit _ _ _ _ _ _ _ _ _

theorem Dev.answerLine_ok (e : Dev) (fr : Option Nat) : d.answerLine e .ok fr = e := by
  unfold Dev.answerLine
  split <;> rfl

variable (hq : d.quarantined f r ra = false)
include hq

theorem Dev.resolveUnit_cipherOnly (hm : rg.mode = 2) (pw wr : Bool) :
    d.resolveUnit f r ra pu rg pw wr .clean = (d, .ok) := by
  rw [Dev.resolveUnit, Dev.resolveLine]
  rw [if_pos rfl, hq, if_neg (by decide), if_neg (by decide), if_pos hm]

theorem Dev.resolveUnit_verified (hcause : d.causeAt f r ra (unitKey rg.unit pu) = 0 ∨ rg.mode = 2)
    (hv : d.unitFails f r rg ra pu = false) (pw wr : Bool) : d.resolveUnit f r ra pu rg pw wr .clean = (d, .ok) := by
  by_cases hm : rg.mode = 2
  · exact Dev.resolveUnit_cipherOnly hq hm pw wr
  · have hc := hcause.resolve_right hm
    rw [Dev.resolveUnit, Dev.resolveLine]
    rw [if_pos rfl, hq, if_neg (by decide), if_neg (by decide), if_neg hm, if_neg (by rw [hc]; decide), hv]
    rfl

theorem Dev.resolveUnit_uncorrectable (hcause : d.causeAt f r ra (unitKey rg.unit pu) = 0) (pw wr : Bool) :
    d.resolveUnit f r ra pu rg pw wr .uncorrectable =
      (d.unitUncorrectable f r ra pu (unitKey rg.unit pu) rg.mode pw wr, .uncorrectable) := by
  rw [Dev.resolveUnit, Dev.resolveLine]
  rw [if_pos rfl, hq, if_neg (by decide), if_pos rfl, if_pos (by rw [hcause]; rfl)]

end

/-! ## A unit that the decoder gives up (R202) -/

/-- The poisoned unit, the counts of its clearing and its stack, and the events. -/
structure Dev.UnitLost (d d' : Dev) (f r pu k : Nat) : Prop where
  cause : (d.unitMeta k).cause = 0 → (d'.unitMeta k).cause = 2
  others : ∀ j, j ≠ k → d'.unitMeta j = d.unitMeta j
  ue : Tab.wf McxFrame.reset d.mem.frames = true → (d'.frame f).ue = satInc (d.frame f).ue
  latched : Tab.wf McxFrame.reset d.mem.frames = true → r < 2048 → (d'.frame f).errInfo.getLsbD 31 = true
  stackUe : Tab.wf StackSt.reset d.mem.stk = true → (d'.stack (stackOf pu)).ue = satInc (d.stack (stackOf pu)).ue
  frame : d' = { d with
    mem := { d.mem with frames := d'.mem.frames, stk := d'.mem.stk, meta_ := d'.mem.meta_ }
    ev := d'.ev, pins := d'.pins, outbox := d'.outbox }

/-- The frame's first error (R203). -/
def McxFrame.latched (x : McxFrame) (st : Status) (r level : Nat) (pw wr : Bool) (line : Nat) : McxFrame :=
  if x.errInfo.getLsbD 31 then x
  else { x with
    errInfo := BitVec.ofNat 32 (st.code + 2 ^ 8 * r + 2 ^ 19 * level + 2 ^ 22 * b2n pw + 2 ^ 23 * b2n wr + 2 ^ 31)
    errLine := BitVec.ofNat 35 line }

theorem McxFrame.latched_ue (x : McxFrame) (st : Status) (r level : Nat) (pw wr : Bool) (line : Nat) :
    (x.latched st r level pw wr line).ue = x.ue := by
  unfold McxFrame.latched
  split <;> rfl

theorem McxFrame.latched_valid (x : McxFrame) {r : Nat} (h : r < 2048) (pw wr : Bool) (line : Nat) :
    (x.latched .uncorrectable r 0 pw wr line).errInfo.getLsbD 31 = true := by
  unfold McxFrame.latched
  split
  · assumption
  · have hlow (x y : Bool) : Status.code .uncorrectable + 2 ^ 8 * r + 2 ^ 19 * 0 + 2 ^ 22 * b2n x + 2 ^ 23 * b2n y < 2 ^ 31 := by
      cases x <;> cases y <;> simp [Status.code, b2n] <;> omega
    have := hlow pw wr
    rw [BitVec.getLsbD_ofNat, Nat.testBit_eq_decide_div_mod_eq]
    simp
    omega

/-- The stack's count of uncorrectable lines, with the address of the first (R181). -/
def StackSt.reported (x : StackSt) (pa : Nat) : StackSt :=
  { x with ue := satInc x.ue,
           ueAddr := if x.ueAddr.getLsbD 31 then x.ueAddr
             else BitVec.ofNat 32 (2 ^ 31 + pa % 2 ^ 30 / 64 * 2 ^ 7 + pa / 2 ^ 30 % 96) }

/-- One more uncorrectable unit of the clearing. -/
def McxFrame.ueCounted (x : McxFrame) : McxFrame := { x with ue := satInc x.ue }

theorem Dev.raise_shown (b : Blk) (k : Nat) :
    ∃ ev p o, d.raise b k = { d with ev := ev, pins := p, outbox := o } := ⟨_, _, _, d.raise_frame b k⟩

/-- The device with the error latched and the stack's count. -/
def Dev.lineLost (d : Dev) (f r ra pu : Nat) (pw wr : Bool) : Dev :=
  (d.modFrame f (·.latched .uncorrectable r 0 pw wr (ra / 64))).modStack (stackOf pu) (·.reported pu)

theorem Dev.latchErr_eq (f : Nat) (st : Status) (r level : Nat) (pw wr : Bool) (line : Nat) :
    d.latchErr f st r level pw wr line = d.modFrame f (·.latched st r level pw wr line) := rfl

theorem Dev.reportUe_eq (pa : Nat) : d.reportUe pa = (d.modStack (stackOf pa) (·.reported pa)).raise .mem 1 := rfl

theorem Dev.unitUncorrectable_sealed {f r ra pu k : Nat} {mode : Byte} (hm : mode ≠ 2) (pw wr : Bool) :
    d.unitUncorrectable f r ra pu k mode pw wr =
      ((((d.lineLost f r ra pu pw wr).raise .mem 1).poison k 2).modFrame f McxFrame.ueCounted).raise .mcx 1 := by
  rw [Dev.unitUncorrectable, if_neg hm, Dev.latchErr_eq, Dev.reportUe_eq]
  unfold Dev.lineLost McxFrame.ueCounted
  rfl

/-- A unit's poison with its cause (R202). -/
def UnitMeta.poisoned (u : UnitMeta) (cause : Byte) : UnitMeta := if u.cause = 0 then { u with cause := cause } else u

theorem UnitMeta.poisoned_cause {u : UnitMeta} (h : u.cause = 0) : (u.poisoned 2).cause = 2 := by
  rw [UnitMeta.poisoned, if_pos h]

/-- The memory after an uncorrectable unit of a sealed region. -/
def Mem.unitLost (m : Mem) (f r ra pu k : Nat) (pw wr : Bool) : Mem :=
  { m with
    frames := Tab.mod McxFrame.reset (Tab.mod McxFrame.reset m.frames f (·.latched .uncorrectable r 0 pw wr (ra / 64)))
      f McxFrame.ueCounted
    stk := Tab.mod StackSt.reset m.stk (stackOf pu) (·.reported pu)
    meta_ := Tab.mod UnitMeta.reset m.meta_ k (·.poisoned 2) }

theorem Dev.unitUncorrectable_frame {f r ra pu k : Nat} {mode : Byte} (hm : mode ≠ 2) (pw wr : Bool) :
    ∃ ev p o, d.unitUncorrectable f r ra pu k mode pw wr =
      { d with mem := d.mem.unitLost f r ra pu k pw wr, ev := ev, pins := p, outbox := o } := by
  obtain ⟨e, p, o, h⟩ := (d.lineLost f r ra pu pw wr).raise_shown .mem 1
  obtain ⟨e', p', o', h'⟩ := ((({ d.lineLost f r ra pu pw wr with ev := e, pins := p, outbox := o } : Dev).poison k
    2).modFrame f McxFrame.ueCounted).raise_shown .mcx 1
  exact ⟨e', p', o', by rw [Dev.unitUncorrectable_sealed d hm, h, h']; unfold Dev.lineLost; rfl⟩

theorem Dev.unitUncorrectable_lost {f r ra pu k : Nat} {mode : Byte} (hm : mode ≠ 2) (pw wr : Bool) :
    d.UnitLost (d.unitUncorrectable f r ra pu k mode pw wr) f r pu k := by
  obtain ⟨ev, p, o, h⟩ := d.unitUncorrectable_frame hm pw wr
  rw [h]
  have hframe (hw : Tab.wf McxFrame.reset d.mem.frames = true) :
      Tab.get McxFrame.reset (d.mem.unitLost f r ra pu k pw wr).frames f =
        ((d.frame f).latched .uncorrectable r 0 pw wr (ra / 64)).ueCounted := by
    refine (Tab.get_mod (Tab.mod_wf _ _ hw f _) f f McxFrame.ueCounted).trans ((if_pos rfl).trans ?_)
    exact congrArg McxFrame.ueCounted ((Tab.get_mod hw f f _).trans (if_pos rfl))
  constructor
  case cause =>
    intro hc
    have hp := UnitMeta.poisoned_cause hc
    rw [← hp]
    refine congrArg UnitMeta.cause (Tab.get_set_self _ _ _ fun e => ?_)
    exact absurd (hp.symm.trans (congrArg UnitMeta.cause e)) (by decide)
  case others => exact fun j hj => Tab.get_set_ne _ _ _ hj
  case ue =>
    intro hw
    exact (congrArg McxFrame.ue (hframe hw)).trans (congrArg satInc (McxFrame.latched_ue _ _ _ _ _ _ _))
  case latched =>
    intro hw hr
    exact (congrArg (fun x : McxFrame => x.errInfo.getLsbD 31) (hframe hw)).trans (McxFrame.latched_valid _ hr pw wr _)
  case stackUe =>
    intro hw
    exact congrArg StackSt.ue (Tab.get_set _ _ hw (stackOf pu) _)
  case frame => rfl

/-- While the host's block stands, no launch has ended, and none is blamed (R302). -/
theorem Dev.blameLaunch_idle (e : Dev) (hh : e.host = d.host) (k : Nat) (st : Status) (det : Detail) (info : BitVec 64) :
    d.blameLaunch e k st det info = e := by
  unfold Dev.blameLaunch
  split
  · split
    · unfold Dev.blame
      split
      next c hc => exact if_neg (by rw [Dev.cmd, Dev.queue, hh, ← Dev.queue, ← Dev.cmd, hc]; exact Bool.false_ne_true)
      · rfl
    · rfl
  · rfl

/-- A request that waited for a line that failed is served with the failure; nothing else changes. -/
theorem Dev.answerLine_failed (e : Dev) (hh : e.host = d.host) (fr : Option Nat) :
    d.answerLine e .uncorrectable fr = { e with mem := { e.mem with reqs := (d.answerLine e .uncorrectable fr).mem.reqs } } ∧
      ∀ id, fr = some id → (∃ x ∈ d.mem.reqs, x.id = id ∧ x.served = false) →
        ∀ x ∈ (d.answerLine e .uncorrectable fr).mem.reqs, x.id = id → x.served = true ∧ x.status = .uncorrectable := by
  unfold Dev.answerLine
  split
  next x hx =>
    obtain ⟨id, hid, hfind⟩ := Option.bind_eq_some_iff.1 hx
    have hxid : x.id = id := by
      have := List.find?_some hfind
      simp only [Bool.and_eq_true, beq_iff_eq] at this
      exact this.1
    have hblame := d.blameLaunch_idle e hh x.ctx .uncorrectable .none (hitInfo x.handle (d.obj (objIndex x.handle))
      { status := .uncorrectable, detail := .none, addr := x.ra })
    have hfail : (if Status.uncorrectable ≠ .ok then e.failReq d x .uncorrectable .none else e) =
        e.respond x.id .uncorrectable .none [] := by
      rw [if_pos (by decide), Dev.failReq, if_neg (by decide)]
      dsimp only
      rw [hblame]
    rw [hfail]
    refine ⟨rfl, fun id' hid' _ y hy hyid => ?_⟩
    obtain ⟨z, -, rfl⟩ := List.mem_map.1 hy
    cases hid.symm.trans hid'
    by_cases hz : z.id = x.id
    · rw [if_pos hz]
      exact ⟨rfl, rfl⟩
    · rw [if_neg hz] at hyid
      exact absurd (hyid.trans hxid.symm) hz
  next hx =>
    refine ⟨rfl, fun id hid ⟨y, hy, hyid, hserved⟩ => ?_⟩
    rw [hid, Option.bind_some, List.find?_eq_none] at hx
    exact absurd (hx y hy) (by simp [hyid, hserved])

end

/-! ## The reads -/

theorem actMem_next {s : State} {b : Bool} (hr : s.dev.running = true) (hb : b = true) (f : Dev → Dev) :
    actMem s b f = .next { s with dev := f s.dev } := by
  rw [hb, actMem_there]
  exact act_running hr f

section
variable {d : Dev} {s sa : Nat}

theorem doHbmLineRead_emergency (h : (d.stack s).therm = 2) (wr pw : Bool) (es : List SymErr) (lv : Level)
    (fr : Option Nat) : doHbmLineRead s sa wr pw es lv fr d = d := by
  rw [doHbmLineRead, if_pos h]

theorem doPatrolRead_emergency (h : (d.stack s).therm = 2) (es : List SymErr) : doPatrolRead s sa es d = d := by
  rw [doPatrolRead, if_pos h]

variable (h : (d.stack s).therm ≠ 2)
include h

theorem doPatrolRead_decoded {es : List SymErr} (hx : (rsDecode (d.laneErrors (physOf s sa) es)).ecc ≠ .uncorrectable) :
    doPatrolRead s sa es d = d.lineCame (physOf s sa) (d.cipherOnlyAt (physOf s sa))
      (rsDecode (d.laneErrors (physOf s sa) es)) := by
  rw [doPatrolRead, if_neg h, if_pos hx]

theorem doPatrolRead_listed {es : List SymErr} (hx : (rsDecode (d.laneErrors (physOf s sa) es)).ecc = .uncorrectable)
    (hl : physOf s sa / 64 ∉ d.mem.ueList) : doPatrolRead s sa es d =
      ({ d with mem := { d.mem with ueList := physOf s sa / 64 :: d.mem.ueList } } : Dev).logEvent 0x0E 0xFF 0xFFFF 0
        (BitVec.ofNat 64 (physOf s sa / 64)) := by
  rw [doPatrolRead, if_neg h, if_neg (by simp [hx]), if_neg (by simpa using hl)]

theorem doHbmLineRead_found {f r ra : Nat} {rg : PlanRegion} (hf : d.findPa (physOf s sa) = some (f, r, ra, rg))
    (wr pw : Bool) (es : List SymErr) (lv : Level) (fr : Option Nat) : doHbmLineRead s sa wr pw es lv fr d =
      d.answerLine (d.lineReturns f r ra rg wr pw es lv).1 (d.lineReturns f r ra rg wr pw es lv).2 fr := by
  rw [doHbmLineRead, if_neg h, hf]

end

/-- The data line's own reads (R199, R202). -/
theorem doHbmLineRead_unit {d : Dev} {s sa f r ra pu : Nat} {rg : PlanRegion} (h : (d.stack s).therm ≠ 2)
    (hf : d.findPa (physOf s sa) = some (f, r, ra, rg)) (hm : rg.metaLineAt ra = none) (hra : ra < rg.dataBytes)
    (hp : d.phys f r (ra / rg.unit * rg.unit) = some pu) (wr pw : Bool) (es : List SymErr) (fr : Option Nat)
    {e : Dev} {st : Status}
    (he : (d.lineCame pu (rg.mode == 2) (rsDecode (d.laneErrors pu es))).resolveUnit f r (ra / rg.unit * rg.unit) pu rg pw
      wr (rsDecode (d.laneErrors pu es)).ecc = (e, st)) :
    doHbmLineRead s sa wr pw es .unit fr d = d.answerLine e st fr := by
  rw [doHbmLineRead_found h hf, Dev.lineReturns_unit hm hra hp, he]

theorem Dev.cause_of_causeAt {d : Dev} {f r ra k : Nat} (h : d.causeAt f r ra k = 0) : (d.unitMeta k).cause = 0 := by
  unfold Dev.causeAt at h
  split at h
  · exact absurd h (by decide)
  · exact h

/-- Settles O27: a read beyond the stack faults, a stack in EMERGENCY returns nothing, and another line is decoded and
resolved. -/
theorem linesReturn : Obligations.LinesReturn := by
  unfold Obligations.LinesReturn
  intro s hs sa cs ts wr pw lv fr hr d₀ es pa canon
  have reads (h : sa.toNat < stackSize) (lv : Level) : exec (.hbmLineRead hs sa wr pw cs ts lv fr) s =
      .next { s with dev := doHbmLineRead hs.val sa.toNat wr pw es lv fr d₀ } :=
    actMem_next hr (decide_eq_true h) _
  have patrols (h : sa.toNat < stackSize) : exec (.patrolRead hs sa es) s =
      .next { s with dev := doPatrolRead hs.val sa.toNat es d₀ } :=
    actMem_next hr (decide_eq_true h) _
  refine ⟨fun h => ?_, fun h hth => ⟨?_, ?_⟩, fun h hth => ⟨fun hc hz => ?_, fun hw hc hz => ?_, fun hu hl => ?_,
    fun f r ra rg pu hf hm hra => ?_⟩⟩
  · have hno : decide (sa.toNat < stackSize) = false := decide_eq_false (by omega)
    exact ⟨(congrArg (actMem s · _) hno).trans (actMem_absent hr _),
      (congrArg (actMem s · _) hno).trans (actMem_absent hr _)⟩
  · rw [reads h, doHbmLineRead_emergency hth]
  · rw [patrols h, doPatrolRead_emergency hth]
  · rw [patrols h, doPatrolRead_decoded hth (by rw [show (rsDecode (d₀.laneErrors pa es)).ecc = .clean from hc]; decide),
      Dev.lineCame_clean _ _ _ hc, show (rsDecode (d₀.laneErrors pa es)).flaw = 0 from hz, Dev.takeFlaw_zero]
  · have hcame := d₀.lineCame_corrected pa (d₀.cipherOnlyAt pa) hc hz
    rw [show stackOf pa = hs.val from stackOf_physOf h] at hcame
    have hread := (doPatrolRead_decoded (es := es) hth (by rw [hc]; decide)).trans hcame
    exact ⟨_, (patrols h).trans (by rw [hread]), d₀.corrected_ce _ _ _ hw,
      fun k hk => d₀.corrected_stack_ne _ _ _ hk, d₀.corrected_frame _ _ _⟩
  · refine ⟨_, (patrols h).trans (by rw [doPatrolRead_listed hth hu hl]), ?_, rfl, rfl⟩
    exact congrArg LogEntry.type (Tab.get_set_self _ _ _ fun e =>
      absurd (congrArg LogEntry.type e) (show ¬ (0x0E : Byte) = 0 by decide))
  · intro u k y read hp hq hcause
    have unit {e : Dev} {st : Status} (he : (d₀.lineCame pu (rg.mode == 2) y).resolveUnit f r u pu rg pw wr y.ecc = (e, st)) :
        read = .next { s with dev := d₀.answerLine e st fr } :=
      (reads h .unit).trans (by rw [doHbmLineRead_unit hth hf hm hra hp wr pw es fr he])
    refine ⟨fun hc hz hv => ?_, fun hc hmode hw => ?_, fun hw hframes hu hmode => ?_⟩
    · have hcame : d₀.lineCame pu (rg.mode == 2) y = d₀ := by
        rw [Dev.lineCame_clean _ _ _ hc, hz, Dev.takeFlaw_zero]
      refine (unit (e := d₀) (st := .ok) ?_).trans (by rw [Dev.answerLine_ok])
      rw [hcame, hc]
      exact Dev.resolveUnit_verified hq hcause hv pw wr
    · obtain ⟨hframe, hget⟩ := d₀.takeFlaw_cipherOnly pu y.flaw
      have hcame : d₀.lineCame pu (rg.mode == 2) y = d₀.takeFlaw pu true y.flaw := by
        rw [Dev.lineCame_clean _ _ _ hc, hmode]
        rfl
      refine ⟨_, (unit (e := d₀.takeFlaw pu true y.flaw) (st := .ok) ?_).trans (by rw [Dev.answerLine_ok]), hframe, hget⟩
      rw [hcame, hc]
      refine Dev.resolveUnit_cipherOnly ?_ hmode pw wr
      rw [hframe]
      exact hq
    · have hlost := d₀.unitUncorrectable_lost (f := f) (r := r) (ra := u) (pu := pu) (k := k) hmode pw wr
      obtain ⟨hans, hserved⟩ := d₀.answerLine_failed (d₀.unitUncorrectable f r u pu k rg.mode pw wr)
        (by rw [hlost.frame]) fr
      have hcause0 := hcause.resolve_right hmode
      refine ⟨_, unit (e := d₀.unitUncorrectable f r u pu k rg.mode pw wr) (st := .uncorrectable) ?_, ?_⟩
      · rw [Dev.lineCame_uncorrectable _ _ _ hu (rsDecode_uncorrectable hu), hu]
        exact Dev.resolveUnit_uncorrectable hq hcause0 pw wr
      · generalize d₀.answerLine _ _ fr = x at *
        generalize d₀.unitUncorrectable f r u pu k rg.mode pw wr = e at *
        obtain ⟨hpoison, hothers, hue, hlatched, hstack, hframe⟩ := hlost
        refine ⟨?_, fun j hj => ?_, ?_, fun h2048 => ?_, ?_, hserved, ?_, ?_, ?_⟩
        · rw [hans]; exact hpoison (Dev.cause_of_causeAt hcause0)
        · rw [hans]; exact hothers j hj
        · rw [hans]; exact hue hframes
        · rw [hans]; exact hlatched hframes h2048
        · rw [hans]; exact hstack hw
        all_goals rw [hans, hframe]

end Sys2Proof.Machine

/-! PROOFS. The record of one link: changes in a row, arriving control messages (R249, R255), and transfers that fail. -/

namespace Sys2Proof

section
variable {α : Type} [DecidableEq α] (z : α)

/-- A second write of an entry that the first leaves listed replaces the first. -/
theorem Tab.set_set (t : Tab α) (k : Nat) {v : α} (hv : v ≠ z) (w : α) :
    Tab.set z (Tab.set z t k v) k w = Tab.set z t k w := by
  induction t with
  | nil => simp [Tab.set, hv]
  | cons p t ih =>
    by_cases hlt : k < p.1
    · simp [Tab.set, hlt, hv]
    · by_cases heq : k = p.1
      · simp [Tab.set, heq, hv]
      · simp [Tab.set, hlt, heq, ih]

theorem Tab.mod_mod (t : Tab α) (k : Nat) {f : α → α} (g : α → α) (h : f (Tab.get z t k) ≠ z) :
    Tab.mod z (Tab.mod z t k f) k g = Tab.mod z t k fun v => g (f v) := by
  unfold Tab.mod
  rw [Tab.get_set_self z t k h, Tab.set_set z t k h]

end

end Sys2Proof

namespace Sys2Proof.Machine
open Sys2Proof

section
variable {d : Dev} {l : Nat} {f g : Link → Link}

theorem Dev.onLink_onLink (h : f (d.link l) ≠ Link.reset) : (d.onLink l f).onLink l g = d.onLink l fun k => g (f k) :=
  congrArg (fun t => { d with lnk := { d.lnk with links := t } }) (Tab.mod_mod Link.reset d.lnk.links l g h)

theorem Dev.onLink_congr (h : f (d.link l) = g (d.link l)) : d.onLink l f = d.onLink l g :=
  congrArg (fun v => { d with lnk := { d.lnk with links := Tab.set Link.reset d.lnk.links l v } }) h

theorem Dev.onLink_link (h : f (d.link l) ≠ Link.reset) : (d.onLink l f).link l = f (d.link l) :=
  Tab.get_set_self _ _ _ h

theorem Dev.onLink_link_ne {j : Nat} (h : j ≠ l) : (d.onLink l f).link j = d.link j := Tab.get_set_ne _ _ _ h

theorem Dev.modLink_eq_onLink : d.modLink l f = d.onLink l f := rfl

end

theorem Link.ne_reset_of_st {k : Link} (h : k.st ≠ .down) : k ≠ Link.reset := fun e => h (e ▸ rfl)

/-! ## A control message arrives -/

/-- The link's record once a control message has been taken (R249, R255). -/
def Link.taken (k : Link) : Link :=
  { k with rxSeq := k.rxSeq + 1, awaiting := false, tagRun := 0, ackDue := true, owed := Tab.mod 0 k.owed 5 (· + 1) }

section
variable {d : Dev} {l : Nat} {f : Dev → Dev}

theorem Dev.control_down (h : (d.link l).st ≠ .up) : d.control l f = d := if_neg h

theorem Dev.control_up (h : (d.link l).st = .up) : d.control l f = f (d.onLink l Link.taken) := by
  rw [Dev.control, if_pos h, Dev.rxFlit, if_neg (by rw [h]; decide)]
  rfl

theorem Link.taken_ne_reset (k : Link) : k.taken ≠ Link.reset :=
  fun e => nomatch (congrArg Link.ackDue e : true = false)

end

/-! ## Without a transfer or a save nothing else moves on -/

theorem Dev.settleLinks_calm {d : Dev} (hx : d.lnk.xfers = []) (hs : d.stl.st = .idle) : d.settleLinks = d := by
  have hpump : d.pump = d := by rw [Dev.pump, hx]; rfl
  have hend : d.endXfers = d := by rw [Dev.endXfers, hx]; rfl
  have hset : d.stageSet = none := by rw [Dev.stageSet, hs]; rfl
  rw [Dev.settleLinks, hpump, hend, Dev.settleStage, hset]
  split
  next h => exact nomatch h
  · rfl

/-! ## A transfer that fails -/

section
variable (d : Dev)

theorem Dev.LinksOnly.refl : d.LinksOnly d := Eq.refl d

theorem Dev.releaseSlot_linksOnly (i : StageIn) : d.LinksOnly (d.releaseSlot i) := by
  unfold Dev.releaseSlot
  dsimp only
  split <;> rfl

theorem Dev.closeXfer_linksOnly (q : Nat) (seq : Word) : d.LinksOnly (d.closeXfer q seq) := by
  have h := foldl_frame (R := Dev.LinksOnly) .refl .trans (fun e i => e.releaseSlot_linksOnly i) (d.loneSlots q seq) d
  unfold Dev.closeXfer Dev.dropFlits
  unfold Dev.LinksOnly at h ⊢
  dsimp only
  rw [h]

theorem Dev.dropXfer_linksOnly (q : Nat) (seq : Word) : d.LinksOnly (d.dropXfer q seq) := by
  unfold Dev.dropXfer
  refine .trans ?_ (Dev.closeXfer_linksOnly _ q seq)
  split
  · exact .refl d
  next x _ => exact foldl_frame (R := Dev.LinksOnly) .refl .trans (fun e i => e.releaseSlot_linksOnly i) x.ins d

end

/-- The command of a transfer that fails completes with the failure; memory and tiles stay (R302). -/
theorem Dev.failXfer_completes {d : Dev} {q : Nat} {seq : Word} {c : Cmd} (hc : d.cmd q seq = some c) (st : Status)
    (info : BitVec 64) : Completes d q c st .none info (d.failXfer q seq st info) ∧
      (d.failXfer q seq st info).mem = d.mem ∧ (d.failXfer q seq st info).tiles = d.tiles := by
  have hframe := d.dropXfer_linksOnly q seq
  unfold Dev.failXfer
  generalize d.dropXfer q seq = e at hframe
  have hhost : e.host = d.host := (congrArg Dev.host hframe :)
  have he : e.cmd q seq = some c := by rw [Dev.cmd, Dev.queue, hhost]; exact hc
  have hfin : e.finish q seq st .none info = e.completeCmd q c st .none info 0 := by rw [Dev.finish, he]
  have hends := Dev.completeCmd_completes (Dev.cmd_isSome he) st .none info
  have hkeep := Dev.completeCmd_frame (Dev.cmd_isSome he) st .none info 0
  rw [hfin]
  refine ⟨?_, ?_, ?_⟩
  · unfold Completes at hends ⊢
    rwa [hhost] at hends
  · rw [hkeep, hframe]
  · rw [hkeep, hframe]

end Sys2Proof.Machine

/-! PROOFS. The control messages of a link, and transfers without one (R249, R255, R260–R263, R302). -/

namespace Sys2Proof.Machine
open Sys2Proof

section
variable {d : Dev} {l : Nat} (hup : (d.link l).st = .up)
include hup

theorem doNak_up (seq : BitVec 48) : doNak l seq d = d.onLink l fun k =>
    { k.taken with resend := k.replay.filter fun f => seq.toNat ≤ f.seq.toNat } :=
  (Dev.control_up hup).trans (Dev.onLink_onLink (Link.taken_ne_reset _))

theorem doAck_up (hx : d.lnk.xfers = []) (hs : d.stl.st = .idle) (seq : BitVec 48) : doAck l seq d =
    d.onLink l fun k => { k.taken with
      replay := freeReplay (seq.setWidth 32) k.replay
      resend := k.resend.filter fun f => (freeReplay (seq.setWidth 32) k.replay).any (·.seq == f.seq) } := by
  refine (Dev.control_up hup).trans ?_
  rw [Dev.settleLinks_calm (d := (d.onLink l Link.taken).acked l (seq.setWidth 32)) hx hs]
  exact Dev.onLink_onLink (Link.taken_ne_reset _)

theorem doAckIdleTimeout_due (h : (d.link l).ackDue = true) : doAckIdleTimeout l d = d.onLink l fun k =>
    { k with ackDue := false, txq := k.txq ++ [ctrlTx (.ack (k.rxSeq - 1))] } := by
  rw [doAckIdleTimeout, if_pos (by simp [hup, h])]
  exact (Dev.onLink_onLink (Link.ne_reset_of_st (by rw [hup]; decide))).trans (Dev.onLink_congr rfl)

end

theorem doAckIdleTimeout_idle {d : Dev} {l : Nat} (h : (d.link l).st ≠ .up ∨ (d.link l).ackDue = false) :
    doAckIdleTimeout l d = d := by
  rw [doAckIdleTimeout, if_neg]
  rcases h with h | h <;> simp [h]

section
variable {d : Dev} {l : Nat} (hup : (d.link l).st = .up)
include hup

/-- The link group of a plan's link (R251). -/
def Dev.groupOf (d : Dev) (l : Nat) : Byte := match d.linkEntry l with | some e => e.group | none => 0xFF

/-- The credits that come back (R255). -/
def Link.credited (perVc : List Nat) (k : Link) : Link :=
  { k.taken with spent := perVc.zipIdx.foldl (fun t c => Tab.mod 0 t c.2 (· - c.1)) k.spent }

omit hup in
theorem Link.credited_ne_reset (perVc : List Nat) (k : Link) : k.credited perVc ≠ Link.reset :=
  fun e => nomatch (congrArg Link.ackDue e : true = false)

/-- The device once collector slots of the link's group are free again (R266). -/
def Dev.freesFar (d : Dev) (l : Nat) (slots : List (BitVec 12)) : Dev :=
  { d with lnk := { d.lnk with farBusy := d.lnk.farBusy.filter fun b => !(b.1 == d.groupOf l && slots.contains b.2) } }

theorem doCredit_up (hx : d.lnk.xfers = []) (hs : d.stl.st = .idle) (perVc : List Nat) (slots : List (BitVec 12)) :
    doCredit l perVc slots d = (d.onLink l (Link.credited perVc)).freesFar l slots := by
  have hcredits := Dev.onLink_onLink (d := d) (l := l) (f := Link.taken) (g := fun k => { k with
    spent := perVc.zipIdx.foldl (fun t c => Tab.mod 0 t c.2 (· - c.1)) k.spent }) (Link.taken_ne_reset _)
  refine (Dev.control_up hup).trans (Eq.trans (Dev.settleLinks_calm (d := Dev.freesFar _ l slots) hx hs) ?_)
  exact congrArg (Dev.freesFar · l slots) hcredits

end

/-- STALE_ROLE and FLOW_DENIED end the transfer of their STREAM (R263). -/
theorem Dev.control_failXfer {d : Dev} {l : Nat} (hup : (d.link l).st = .up) {stream : BitVec 16} {x : Xfer} {c : Cmd}
    (hx : d.streamXfer stream = some x) (hc : d.cmd x.queue.val x.seq = some c) (st : Status) (info : BitVec 64) :
    let e := d.control l fun d => match d.streamXfer stream with
      | some x => d.failXfer x.queue.val x.seq st info
      | none => d
    Completes d x.queue.val c st .none info e ∧ e.mem = d.mem ∧ e.tiles = d.tiles := by
  intro e
  have he : e = (d.onLink l Link.taken).failXfer x.queue.val x.seq st info := by
    refine (Dev.control_up hup).trans ?_
    rw [show (d.onLink l Link.taken).streamXfer stream = some x from hx]
  rw [he]
  exact Dev.failXfer_completes (d := d.onLink l Link.taken) hc st info

/-- Settles O39: each control message by what it does to the link's record, the failing transfers by their commands. -/
theorem linkControl : Obligations.LinkControl := by
  unfold Obligations.LinkControl
  intro s l seq perVc slots es stream kind unit old cur hr d₀ out taken g
  have runs {f : Dev → Dev} {e : Dev} (h : f d₀ = e) : act s f = out e := act_eq_next hr h
  refine ⟨fun hdown => ?_, fun hup => ⟨?_, fun ⟨hx, hs⟩ => ?_, fun h => ?_, fun h => ?_, fun ⟨hx, hs⟩ => ?_, ?_,
    fun x c hx hc => ?_⟩, fun q n c hc => ⟨fun h => ?_, fun h => ?_⟩⟩
  · simp only [List.forall_mem_cons]
    exact ⟨runs (Dev.control_down hdown), runs (Dev.control_down hdown), runs (doAckIdleTimeout_idle (.inl hdown)),
      runs (Dev.control_down hdown), runs (Dev.control_down hdown), runs (Dev.control_down hdown),
      runs (Dev.control_down hdown), fun _ h => nomatch h⟩
  · exact runs (doNak_up hup seq)
  · exact runs (doAck_up hup hx hs seq)
  · exact runs (doAckIdleTimeout_due hup h)
  · exact runs (doAckIdleTimeout_idle (.inr h))
  · refine ⟨_, runs (doCredit_up hup hx hs perVc slots), ?_, rfl, rfl⟩
    exact Dev.onLink_link (Link.credited_ne_reset perVc _)
  · refine ⟨_, runs (Dev.control_up hup), rfl, rfl, fun e he hw j => ?_⟩
    rw [he]
    exact Tab.get_mod (t := d₀.lnk.nbrGens) hw (nbrKey l.val e) j fun _ => e.gen
  · obtain ⟨hends, hmem, htiles⟩ := Dev.control_failXfer hup hx hc .staleRole (staleInfo kind unit old cur)
    obtain ⟨hends', hmem', htiles'⟩ := Dev.control_failXfer hup hx hc .ownerDenied 0
    exact ⟨⟨_, runs rfl, hends, hmem, htiles⟩, _, runs rfl, hends', hmem', htiles'⟩
  · obtain ⟨hends, hmem, htiles⟩ := Dev.failXfer_completes hc .timeout (BitVec.ofNat 64 l.val)
    refine ⟨_, runs (if_pos h), hends, hmem, htiles⟩
  · exact runs (if_neg (by rw [h]; exact Bool.false_ne_true))

end Sys2Proof.Machine

/-! PROOFS. A link's life (R246, R250, R256–R258, R260): training, the key exchange, admission, failure and rekey. -/

namespace Sys2Proof.Machine
open Sys2Proof

/-! ## What work beside a link may change of it -/

/-- The link's record, the flits that wait on it aside. -/
def Link.core (k : Link) : Link := { k with txq := [] }

/-- Work on the links and the collectives beside link `l`: its record stays, the flits that wait on it aside, and no event
bit clears. -/
structure Dev.Beside (l : Nat) (d d' : Dev) : Prop where
  frame : d' = { d with lnk := d'.lnk, ev := d'.ev, pins := d'.pins, outbox := d'.outbox }
  link : (d'.link l).core = (d.link l).core
  ev : ∀ b i, (d.ev.get b).ev.getLsbD i = true → (d'.ev.get b).ev.getLsbD i = true

namespace Dev.Beside
variable {l : Nat} {a b c : Dev}

theorem refl (d : Dev) : Beside l d d := ⟨rfl, rfl, fun _ _ h => h⟩

theorem trans (h : Beside l a b) (h' : Beside l b c) : Beside l a c :=
  ⟨by rw [h'.frame, h.frame], h'.link.trans h.link, fun x i hi => h'.ev x i (h.ev x i hi)⟩

theorem foldl {α : Type} {f : Dev → α → Dev} (h : ∀ d x, Beside l d (f d x)) (xs : List α) (d : Dev) :
    Beside l d (xs.foldl f d) := foldl_frame (R := Beside l) refl trans h xs d

end Dev.Beside

section
variable (d : Dev) {l : Nat}

theorem Dev.queueFlit_beside (m : Nat) (f : TxFlit) : Dev.Beside l d (d.queueFlit m f) := by
  refine ⟨rfl, ?_, fun _ _ h => h⟩
  by_cases hm : l = m
  · subst hm
    have hne : ({ d.link l with txq := (d.link l).txq ++ [f] } : Link) ≠ Link.reset := fun e =>
      List.append_ne_nil_of_right_ne_nil _ (List.cons_ne_nil f []) (congrArg Link.txq e)
    exact (congrArg Link.core (Tab.get_set_self Link.reset d.lnk.links l hne)).trans rfl
  · exact congrArg Link.core (Tab.get_set_ne _ _ _ hm)

theorem Dev.modLink_beside {m : Nat} (h : l ≠ m) (f : Link → Link) : Dev.Beside l d (d.modLink m f) :=
  ⟨rfl, congrArg Link.core (Tab.get_set_ne _ _ _ h), fun _ _ h => h⟩

theorem Dev.raise_beside (b : Blk) (i : Nat) : Dev.Beside l d (d.raise b i) :=
  ⟨(d.raise_frame b i).trans (by rw [Dev.raise_lnk]), by rw [Dev.link, Dev.raise_lnk]; rfl, (d.raise_keeps b i).ev⟩

theorem Dev.raiseIf_beside (c : Bool) (b : Blk) (i : Nat) : Dev.Beside l d (d.raiseIf c b i) := by
  unfold Dev.raiseIf
  split
  · exact d.raise_beside b i
  · exact .refl d

theorem Dev.moveFlit_beside (m : Nat) (g : Byte) (f : TxFlit) : Dev.Beside l d (d.moveFlit m g f) :=
  d.queueFlit_beside _ f

theorem Dev.announce_beside (es : List RoleEntry) : Dev.Beside l d (d.announce es) :=
  .foldl (fun e _ => e.queueFlit_beside _ _) _ d

theorem Dev.topoUpdate_beside : Dev.Beside l d d.topoUpdate := by
  have h : Dev.Beside l d { d with lnk := { d.lnk with lastTopo := d.discovered } } := ⟨rfl, rfl, fun _ _ h => h⟩
  unfold Dev.topoUpdate
  dsimp only
  split
  · exact h.trans (Dev.raiseIf_beside _ _ _ _)
  · exact h

theorem Dev.stripe_beside (ls : List Nat) (fs : List TxFlit) : Dev.Beside l d (d.stripe ls fs) := by
  rw [Dev.stripe_eq]
  refine .foldl (fun e f => ?_) _ d
  unfold Dev.stripeOne
  split
  · exact e.queueFlit_beside _ _
  · exact .refl e

theorem Dev.sendChunk_beside (x : Xfer) (c : TxChunk) : Dev.Beside l d (d.sendChunk x c).1 := by
  have hcoll (f : CollSlot → CollSlot) : Dev.Beside l d (d.modColl c.out.slot.toNat f) := ⟨rfl, rfl, fun _ _ h => h⟩
  unfold Dev.sendChunk
  dsimp only
  split
  · split
    · exact hcoll _
    · exact .refl d
  · split
    · exact .refl d
    · have h : Dev.Beside l d { d with lnk := { d.lnk with farBusy := d.lnk.farBusy ++ [(c.out.group, c.out.slot)] } } :=
        ⟨rfl, rfl, fun _ _ h => h⟩
      exact h.trans (Dev.stripe_beside _ _ _)

theorem Dev.pumpOne_beside (x : Xfer) : Dev.Beside l d (d.pumpOne x) := by
  have hsent : ∀ (cs : List TxChunk) (a : Dev × List TxChunk), Dev.Beside l a.1 (cs.foldl (fun a c =>
      ((a.1.sendChunk x c).1, if (a.1.sendChunk x c).2 then a.2 else a.2 ++ [c])) a).1 := by
    intro cs
    induction cs with
    | nil => exact fun a => .refl a.1
    | cons c cs ih =>
      intro a
      rw [List.foldl_cons]
      exact (a.1.sendChunk_beside x c).trans (ih ((a.1.sendChunk x c).1, _))
  exact (hsent x.waiting (d, [])).trans ⟨rfl, rfl, fun _ _ h => h⟩

theorem Dev.pump_beside : Dev.Beside l d d.pump := .foldl (fun e x => e.pumpOne_beside x) _ d

theorem Dev.rescue_beside : Dev.Beside l d (d.rescue l) := by
  unfold Dev.rescue
  split
  · exact .refl d
  next e _ =>
    refine List.foldlRecOn (motive := fun x => Dev.Beside l d x) _ _ (.refl d) fun x hx m hm => hx.trans ?_
    have hne : l ≠ m := by
      have := (List.mem_filter.1 hm).2
      simp only [Bool.and_eq_true, bne_iff_ne] at this
      exact this.1.1.symm
    exact (x.modLink_beside hne _).trans (.foldl (fun y f => y.moveFlit_beside m e.group f) _ _)

end

/-! ## DOWN (R260) -/

/-- The record of a link that goes DOWN. -/
def Link.downed (k : Link) : Link :=
  { k with st := .down, adm := .none, replay := [], resend := [], txq := [], tideQ := [], spent := [],
           owed := [], awaiting := false, tagRun := 0, rekeying := false, ackDue := false,
           retrainDue := true, displaced := [], frame := none, keys := [], transcript := 0 }

theorem Link.ne_reset_of_retrainDue {k : Link} (h : k.retrainDue = true) : k ≠ Link.reset :=
  fun e => nomatch (h.symm.trans (congrArg Link.retrainDue e) : true = false)

section
variable (d : Dev) (l : Nat)

/-- What a failed link leaves, beside the count of its failures. -/
theorem Dev.takeDown_beside : Dev.Beside l (d.onLink l Link.downed) (d.takeDown l) := by
  unfold Dev.takeDown
  exact .foldl (fun e f => e.moveFlit_beside l _ f) _ _

theorem Dev.takeDown_core : ((d.takeDown l).link l).core = (d.link l).downed := by
  rw [(d.takeDown_beside l).link, Dev.onLink_link (Link.ne_reset_of_retrainDue rfl)]
  rfl

theorem Dev.takeDown_frame : d.takeDown l = { d with
    lnk := (d.takeDown l).lnk, ev := (d.takeDown l).ev, pins := (d.takeDown l).pins, outbox := (d.takeDown l).outbox } :=
  (d.takeDown_beside l).frame

/-- A link is down, for the first time since `k`. -/
structure Dev.LinkDowned (k : Link) (d d' : Dev) : Prop where
  core : (d'.link l).core = { k.downed with downs := satInc k.downs }
  ev : (d'.ev.get .lnk).ev.getLsbD 1 = true
  frame : d' = { d with
    lnk := d'.lnk, ev := d'.ev, pins := d'.pins, outbox := d'.outbox }

theorem Dev.LinkDowned.beside {d l} {k : Link} {a b : Dev} (h : Dev.LinkDowned l k d a) (h' : Dev.Beside l a b) :
    Dev.LinkDowned l k d b :=
  ⟨h'.link.trans h.core, h'.ev _ _ h.ev, by rw [h'.frame, h.frame]⟩

theorem Dev.linkFails_downed (hup : (d.link l).st = .up) : Dev.LinkDowned l (d.link l) d (d.linkFails l) := by
  have hcore := d.takeDown_core l
  have hframe := d.takeDown_frame l
  unfold Dev.linkFails
  dsimp only
  rw [if_pos hup]
  generalize d.takeDown l = e at *
  have hdue : (e.link l).retrainDue = true := (congrArg Link.retrainDue hcore :)
  have hdowns : (e.link l).downs = (d.link l).downs := (congrArg Link.downs hcore :)
  have hcounted : Dev.LinkDowned l (d.link l) d ((e.modLink l fun k => { k with downs := satInc k.downs }).raise .lnk 1) := by
    refine ⟨?_, Dev.raise_shows _ _ (by decide), ?_⟩
    · rw [Dev.link, Dev.raise_lnk, ← Dev.link, Dev.modLink_eq_onLink,
        Dev.onLink_link (Link.ne_reset_of_retrainDue hdue)]
      exact (congrArg (fun k : Link => { k with downs := satInc k.downs }) hcore :)
    · rw [(Dev.raise_beside (l := l) _ _ _).frame, hframe]
      rfl
  exact (hcounted.beside (Dev.raiseIf_beside _ _ _ _)).beside (Dev.topoUpdate_beside _)

end

/-! ## Training (R246) -/

section
variable {d : Dev} {l : Nat}

theorem doLinkTrainingStart_down (h : (d.link l).st = .down) (hr : (d.link l).retrainDue = false) :
    doLinkTrainingStart l d = d.onLink l fun k => { k with light := true, laserOk := true, st := .optical } :=
  Dev.onLink_congr (by rw [h, hr]; rfl)

theorem doLinkRetrainTimer_due (h : (d.link l).st = .down) (hr : (d.link l).retrainDue = true) :
    doLinkRetrainTimer l d = d.onLink l fun k =>
      { k with retrainDue := false, st := if k.light && k.laserOk then .optical else .down } :=
  Dev.onLink_congr (by rw [h, hr]; rfl)

theorem doOpticalTrainingDone_spares (h : (d.link l).st = .optical) {failed : BitVec 9}
    (hf : (bitsOf failed.toNat 9).length < 2) : doOpticalTrainingDone l failed d =
      d.onLink l fun k => { k with failed := failed, spare := spareWave failed, st := .keyx } := by
  rw [doOpticalTrainingDone, if_neg (by rw [h]; decide), if_neg (by omega)]
  rfl

theorem doOpticalTrainingDone_fails (h : (d.link l).st = .optical) {failed : BitVec 9}
    (hf : 2 ≤ (bitsOf failed.toNat 9).length) :
    let e := doOpticalTrainingDone l failed d
    (e.link l).st = .down ∧ (e.link l).failed = failed ∧ (e.ev.get .lnk).ev.getLsbD 3 = true := by
  have hcore := d.takeDown_core l
  rw [doOpticalTrainingDone, if_neg (by rw [h]; decide), if_pos hf]
  generalize d.takeDown l = e at *
  have hlink : (((e.modLink l fun k => { k with failed := failed }).raise .lnk 3).link l) =
      { e.link l with failed := failed } := by
    rw [Dev.link, Dev.raise_lnk]
    exact Dev.onLink_link (Link.ne_reset_of_retrainDue (congrArg Link.retrainDue hcore :))
  refine ⟨?_, ?_, Dev.raise_shows _ _ (by decide)⟩
  · rw [hlink]
    exact (congrArg Link.st hcore :)
  · rw [hlink]

/-! ## The key exchange (R250, R256, R257) -/

/-- The record of a link whose session begins. -/
def Link.agreed (k : Link) (pair : BitVec 128 × BitVec 128) (transcript : B256) : Link :=
  { k with st := .hello, txSeq := 0, rxSeq := 0, keyEpoch := 0, slot := 0, keys := [pair], transcript := transcript }

/-- The device's HELLO under a transcript. -/
def Dev.helloPayload (d : Dev) (l : Nat) (transcript : B256) : List Byte :=
  let shaded := match d.plan.active with | some p => p.device.shaded == 1 | none => false
  let topo := match d.plan.active with | some p => p.device.topoHash | none => 0
  let fields (setId : Word) (epoch : BitVec 16) : List Byte :=
    helloFields d.addr l d.identity setId epoch d.benchActive d.planActive shaded topo
  match d.sec.member with
  | some m => fields m.setId m.epoch ++ setProof (d.slot 2).key (fields m.setId m.epoch) transcript
  | none => fields 0 0 ++ zeros 16

theorem Dev.helloMsg_eq (d : Dev) (l : Nat) : d.helloMsg l = .hello (d.helloPayload l (d.link l).transcript) := by
  unfold Dev.helloMsg Dev.helloPayload
  cases d.sec.member <;> rfl

/-- The first flit of a session. -/
def Dev.firstFlit (d : Dev) (l : Nat) (pair : BitVec 128 × BitVec 128) (transcript : B256) : SentFlit :=
  { seq := 0, ack := (0 - 1 : BitVec 48).setWidth 32, gen := 0, keyEpoch := 0
    flit := plainFlit 5 (.ctrl (.hello (d.helloPayload l transcript)))
    wire := flitWire pair.1 (flitIv 0 l) (flitPlain (5, 1 :: zeros 11, d.helloPayload l transcript) 5 0 3 0
      ((0 - 1 : BitVec 48).setWidth 32).toNat 0 0 0) }

/-- The record once HELLO has gone out. -/
def Link.greeted (k : Link) (pair : BitVec 128 × BitVec 128) (transcript : B256) (sf : SentFlit) : Link :=
  { k.agreed pair transcript with
    txSeq := 1, replay := k.replay ++ [sf], ackDue := false
    resend := if k.resend.isEmpty then [] else k.resend ++ [sf]
    spent := Tab.mod 0 k.spent 5 (· + 1) }

theorem Link.agreed_txKey (k : Link) (pair : BitVec 128 × BitVec 128) (transcript : B256) :
    (k.agreed pair transcript).txKey (k.agreed pair transcript).txSeq = pair.1 := by
  simp [Link.txKey, Link.agreed]

theorem Link.plainOf_hello (k : Link) (p : List Byte) (ack : Word) (gen : BitVec 12) :
    k.plainOf (plainFlit 5 (.ctrl (.hello p))) ack gen = flitPlain (5, 1 :: zeros 11, p) 5 0 3 gen.toNat ack.toNat 0 0 0 := by
  simp [Link.plainOf, plainFlit, TxBody.wire, CtrlMsg.wire]

theorem doKeyx_agrees (h : (d.link l).st = .keyx) (keys transcript : B256) :
    let pair := (firstHalf keys, keys.setWidth 128)
    doKeyx l true keys transcript d =
      (d.onLink l fun k => k.greeted pair transcript (d.firstFlit l pair transcript)).emit
        (.flit (Fin.ofNat 64 l) (d.firstFlit l pair transcript).wire) := by
  intro pair
  have hlink : (d.onLink l fun k => k.agreed pair transcript).link l = (d.link l).agreed pair transcript :=
    Dev.onLink_link (Link.ne_reset_of_st (show LnkSt.hello ≠ .down by decide))
  rw [doKeyx, if_pos h, if_pos rfl]
  have hseal : (d.onLink l fun k => k.agreed pair transcript).seal l
      (plainFlit 5 (.ctrl ((d.onLink l fun k => k.agreed pair transcript).helloMsg l))) =
        d.firstFlit l pair transcript := by
    rw [Dev.helloMsg_eq, Dev.seal, hlink, Link.agreed_txKey, Link.plainOf_hello]
    simp only [Link.agreed, Dev.firstFlit]
    congr 1
  have hsent := Dev.onLink_onLink (d := d) (l := l) (f := fun k => k.agreed pair transcript) (g := fun k => { k with
    txSeq := k.txSeq + 1, replay := k.replay ++ [d.firstFlit l pair transcript], ackDue := false
    resend := if k.resend.isEmpty then [] else k.resend ++ [d.firstFlit l pair transcript]
    spent := Tab.mod 0 k.spent 5 (· + 1) }) (Link.ne_reset_of_st (show LnkSt.hello ≠ .down by decide))
  change (d.onLink l fun k => k.agreed pair transcript).transmit l
    (plainFlit 5 (.ctrl ((d.onLink l fun k => k.agreed pair transcript).helloMsg l))) = _
  rw [Dev.transmit, hseal]
  exact congrArg (Dev.emit · _) hsent

theorem Link.greeted_fields {k k' : Link} {pair : BitVec 128 × BitVec 128} {transcript : B256} {sf : SentFlit}
    (h : k' = k.greeted pair transcript sf) : k'.st = .hello ∧ k'.txSeq = 1 ∧ k'.rxSeq = 0 ∧ k'.keyEpoch = 0 ∧
      k'.keys = [pair] ∧ k'.transcript = transcript ∧ k'.replay = k.replay ++ [sf] := by
  subst h
  exact ⟨rfl, rfl, rfl, rfl, rfl, rfl, rfl⟩

theorem doKeyx_rejects (h : (d.link l).st = .keyx) (keys transcript : B256) :
    doKeyx l false keys transcript d = d.takeDown l := by
  rw [doKeyx, if_pos h]
  rfl

/-- The record of a link that takes a rekey's exchange. -/
def Link.rekeyed (k : Link) (pair : BitVec 128 × BitVec 128) (ok : Bool) : Link :=
  if ok then { k.taken with
    rekeying := false, keyEpoch := k.keyEpoch + 1, keys := k.keys ++ [pair], rekeys := satInc k.rekeys }
  else k.taken

theorem doKeyx_rekeys (h : (d.link l).st = .up) (hr : (d.link l).rekeying = true) (ok : Bool) (keys transcript : B256) :
    doKeyx l ok keys transcript d = d.onLink l fun k => k.rekeyed (firstHalf keys, keys.setWidth 128) ok := by
  have htaken : d.rxFlit l 5 true = d.onLink l Link.taken := by
    rw [Dev.rxFlit, if_neg (by rw [h]; decide)]
    rfl
  rw [doKeyx, if_neg (by rw [h]; decide), if_pos h, htaken, hr]
  cases ok with
  | false => rfl
  | true => exact Dev.onLink_onLink (Link.taken_ne_reset _)

/-! ## Admission (R257, R258) -/

/-- The record of a link that has come UP. -/
def Link.admitted (k : Link) (a : Admit) (h : Hello) : Link :=
  { k with st := .up, adm := a, roleGen := k.roleGen + 1, farAddr := h.addr, farLink := h.link,
           farIdent := h.identity, rxSeq := k.rxSeq + 1, ackDue := true }

theorem doHello_admits (hst : (d.link l).st = .hello) {h : Hello} {p : Bool} {e : Dev} (he : doHello l h p d = e) :
    (e.link l).core = ((d.link l).admitted (d.admission h p) h).core ∧ (e.ev.get .lnk).ev.getLsbD 0 = true ∧
      (d.admission h p = .foreign → (e.ev.get .lnk).ev.getLsbD 2 = true) ∧
      e = { d with lnk := e.lnk, ev := e.ev, pins := e.pins, outbox := e.outbox } := by
  have hadm : (d.onLink l fun k => k.admitted (d.admission h p) h).link l = (d.link l).admitted (d.admission h p) h :=
    Dev.onLink_link (Link.ne_reset_of_st (show LnkSt.up ≠ .down by decide))
  subst he
  let e₁ := (d.onLink l fun k => k.admitted (d.admission h p) h).raise .lnk 0
  let e₂ := e₁.raiseIf (d.admission h p == .foreign) .lnk 2
  have hrest : Dev.Beside l e₂ (doHello l h p d) := by
    rw [doHello, if_neg (by rw [hst]; decide)]
    exact (((Dev.topoUpdate_beside e₂).trans (Dev.announce_beside _ _)).trans (Dev.rescue_beside _)).trans
      (Dev.pump_beside _)
  have h₂ : Dev.Beside l e₁ e₂ := e₁.raiseIf_beside _ _ _
  have h₁ : Dev.Beside l (d.onLink l fun k => k.admitted (d.admission h p) h) e₁ := Dev.raise_beside _ _ _
  have hall := (h₁.trans h₂).trans hrest
  refine ⟨hall.link.trans (by rw [hadm]), ?_, fun ha => hrest.ev _ _ ?_, hall.frame⟩
  · exact (h₂.trans hrest).ev _ _ (Dev.raise_shows _ _ (by decide))
  · have : e₂ = e₁.raise .lnk 2 := if_pos (beq_iff_eq.2 ha)
    rw [this]
    exact Dev.raise_shows _ _ (by decide)

theorem Link.admitted_of_core {k k' : Link} {a : Admit} {h : Hello} (hc : k'.core = (k.admitted a h).core) :
    k'.st = .up ∧ k'.adm = a ∧ k'.roleGen = k.roleGen + 1 ∧ k'.farAddr = h.addr ∧ k'.farIdent = h.identity ∧
      k'.rxSeq = k.rxSeq + 1 :=
  ⟨(congrArg Link.st hc :), (congrArg Link.adm hc :), (congrArg Link.roleGen hc :), (congrArg Link.farAddr hc :),
    (congrArg Link.farIdent hc :), (congrArg Link.rxSeq hc :)⟩

theorem Dev.admission_member {m : SetMember} (hm : d.sec.member = some m) (h : Hello) (p : Bool) :
    (m.setId = h.setId → h.setId ≠ 0 → p = true → d.admission h p = .member) ∧
      (m.setId ≠ h.setId ∨ h.setId = 0 ∨ p = false → d.admission h p = .foreign) := by
  unfold Dev.admission
  rw [hm]
  refine ⟨fun hs h0 hp => if_pos (by rw [hs, hp, beq_self_eq_true, bne_iff_ne.2 h0]; rfl), fun hno => if_neg fun hall => ?_⟩
  simp only [Bool.and_eq_true, beq_iff_eq, bne_iff_ne] at hall
  obtain ⟨⟨hs, h0⟩, hp⟩ := hall
  rcases hno with hno | hno | hno
  · exact hno hs
  · exact h0 hno
  · exact absurd (hp.symm.trans hno) (by decide)

theorem Dev.admission_outsider (hm : d.sec.member = none) (h : Hello) (p : Bool) :
    (h.setId = 0 → h.bench = true → d.benchActive = true → d.admission h p = .bench) ∧
      (h.setId ≠ 0 ∨ h.bench = false ∨ d.benchActive = false → d.admission h p = .foreign) := by
  unfold Dev.admission
  rw [hm]
  refine ⟨fun h0 hb hd => if_pos (by simp [h0, hb, hd]), fun hno => if_neg fun hall => ?_⟩
  simp only [Bool.and_eq_true, decide_eq_true_eq] at hall
  obtain ⟨⟨h0, hb⟩, hd⟩ := hall
  rcases hno with hno | hno | hno
  · exact hno h0
  · exact absurd (hb.symm.trans hno) (by decide)
  · exact absurd (hd.symm.trans hno) (by decide)

/-! ## Rekeying of a link that is UP (R250, R260) -/

theorem doLinkRekey_late (hup : (d.link l).st = .up) (hk : (d.link l).keyLate = true) :
    doLinkRekey l d = (d.linkFails l).raise .lnk 5 := by
  rw [doLinkRekey, if_neg (not_not_intro hup), if_pos hk]

theorem doFlitSlotSend_late (hup : (d.link l).st = .up) (hk : (d.link l).keyLate = true) :
    doFlitSlotSend l d = (d.linkFails l).raise .lnk 5 := by
  rw [doFlitSlotSend, if_neg (not_not_intro hup), if_pos hk]

theorem Dev.linkFails_late (hup : (d.link l).st = .up) :
    Dev.LinkDowned l (d.link l) d ((d.linkFails l).raise .lnk 5) ∧
      (((d.linkFails l).raise .lnk 5).ev.get .lnk).ev.getLsbD 5 = true :=
  ⟨(d.linkFails_downed l hup).beside (Dev.raise_beside _ _ _), Dev.raise_shows _ _ (by decide)⟩

theorem doLinkRekey_intime (hup : (d.link l).st = .up) (hk : (d.link l).keyEpoch = (d.link l).txSeq.toNat / 2 ^ 32)
    (hs : (d.link l).txSeq ≠ BitVec.allOnes 48) : doLinkRekey l d =
      if !(d.link l).rekeying && (d.link l).txSeq.getLsbD 31 then
        d.onLink l fun k => { k with
          rekeying := true, txq := k.txq ++ [ctrlTx (.keyx (Config.ephemeral d.free ++ Config.linkChain))] }
      else d := by
  have hlate : (d.link l).keyLate = false := decide_eq_false (by omega)
  rw [doLinkRekey, if_neg (not_not_intro hup), hlate, if_neg (by decide), if_neg hs, hk, beq_self_eq_true, Bool.and_true]
  refine if_congr Iff.rfl (Dev.onLink_onLink (d := d) (l := l) (f := fun k => { k with rekeying := true }) ?_) rfl
  exact fun e => nomatch (congrArg Link.rekeying e : true = false)

end

/-! ## The obligation -/

/-- The conditions of a link that has gone DOWN, read from its record. -/
theorem Dev.LinkDowned.lower {l : Nat} {k : Link} {d d' : Dev} (h : Dev.LinkDowned l k d d') :
    (d'.link l).st = .down ∧ (d'.link l).adm = .none ∧ (d'.link l).replay = [] ∧ (d'.link l).retrainDue = true ∧
      (d'.link l).downs = satInc k.downs ∧ (d'.link l).keys = [] ∧ (d'.ev.get .lnk).ev.getLsbD 1 = true ∧
      d'.mem = d.mem ∧ d'.host = d.host ∧ d'.tiles = d.tiles ∧ d'.sec = d.sec :=
  ⟨(congrArg Link.st h.core :), (congrArg Link.adm h.core :), (congrArg Link.replay h.core :),
    (congrArg Link.retrainDue h.core :), (congrArg Link.downs h.core :), (congrArg Link.keys h.core :), h.ev,
    (congrArg Dev.mem h.frame :), (congrArg Dev.host h.frame :), (congrArg Dev.tiles h.frame :),
    (congrArg Dev.sec h.frame :)⟩

section
variable {s : State} {l : Lnk}

/-- A chain that verifies brings the session's first flit. -/
theorem exec_keyx_agrees (hr : s.dev.running = true) (hst : (s.dev.link l.val).st = .keyx) {chain eph : List Byte}
    (hok : Config.linkChainOk s.dev.pins.orderingSe chain = true) :
    let d := s.dev
    let keys := Config.linkKeys d.free eph chain
    let pair : BitVec 128 × BitVec 128 := (firstHalf keys, keys.setWidth 128)
    let transcript := Config.sm3 (Config.ephemeral d.free ++ Config.linkChain ++ eph ++ chain)
    let sf := d.firstFlit l.val pair transcript
    ∃ e, exec (.keyx l chain eph) s = .next { s with dev := e } ∧ e.free = d.free + 1 ∧
      e.outbox = d.outbox ++ [.flit l sf.wire] ∧ e.link l.val = (d.link l.val).greeted pair transcript sf ∧
      (∀ j, j ≠ l.val → e.link j = d.link j) ∧
      e = { d with lnk := { d.lnk with links := e.lnk.links }, outbox := e.outbox, free := d.free + 1 } := by
  intro d keys pair transcript sf
  refine ⟨((d.onLink l.val fun k => k.greeted pair transcript sf).emit (.flit l sf.wire)).tick, ?_, rfl, rfl,
    Dev.onLink_link (Link.ne_reset_of_st (show LnkSt.hello ≠ .down by decide)), fun j hj => Dev.onLink_link_ne hj, rfl⟩
  change execKeyx l chain s eph = _
  refine act_eq_next hr ?_
  rw [hok, doKeyx_agrees hst, show Fin.ofNat 64 l.val = l from Fin.ext (Nat.mod_eq_of_lt l.isLt)]

theorem exec_keyx_rejects (hr : s.dev.running = true) (hst : (s.dev.link l.val).st = .keyx) {chain eph : List Byte}
    (hok : Config.linkChainOk s.dev.pins.orderingSe chain = false) :
    exec (.keyx l chain eph) s = .next { s with dev := (s.dev.takeDown l.val).tick } := by
  change execKeyx l chain s eph = _
  refine act_eq_next hr ?_
  rw [hok, doKeyx_rejects hst]

theorem exec_keyx_rekeys (hr : s.dev.running = true) (hst : (s.dev.link l.val).st = .up)
    (hrk : (s.dev.link l.val).rekeying = true) (chain eph : List Byte) :
    let keys := Config.linkKeys s.dev.free eph chain
    exec (.keyx l chain eph) s = .next { s with
      dev := (s.dev.onLink l.val fun k => k.rekeyed (firstHalf keys, keys.setWidth 128)
        (Config.linkChainOk s.dev.pins.orderingSe chain)).tick } := by
  intro keys
  change execKeyx l chain s eph = _
  refine act_eq_next hr ?_
  rw [doKeyx_rekeys hst hrk]

theorem exec_hello (hr : s.dev.running = true) (h : Hello) : exec (.hello l h) s =
    .next { s with dev := doHello l.val h (s.dev.proofOk l.val h) s.dev } :=
  act_running hr fun d => doHello l.val h (d.proofOk l.val h) d

/-- A HELLO brings its link UP. -/
theorem exec_hello_admits (hr : s.dev.running = true) (hst : (s.dev.link l.val).st = .hello) (h : Hello) :
    ∃ e, exec (.hello l h) s = .next { s with dev := e } ∧
      (e.link l.val).core = ((s.dev.link l.val).admitted (s.dev.admission h (s.dev.proofOk l.val h)) h).core ∧
      (e.ev.get .lnk).ev.getLsbD 0 = true ∧
      (s.dev.admission h (s.dev.proofOk l.val h) = .foreign → (e.ev.get .lnk).ev.getLsbD 2 = true) ∧
      e = { s.dev with lnk := e.lnk, ev := e.ev, pins := e.pins, outbox := e.outbox } := by
  have hx := exec_hello hr h (l := l)
  generalize he : doHello l.val h (s.dev.proofOk l.val h) s.dev = e at hx
  exact ⟨e, hx, doHello_admits hst he⟩

/-- Each failure of a link that is UP, and RETRAIN, takes it DOWN. -/
theorem exec_linkFails (hr : s.dev.running = true) (hst : (s.dev.link l.val).st = .up) {c : Instr}
    (hc : c ∈ [Instr.linkDown l .fecErrors, .linkDown l .tagFailures, .linkDown l .replayHold, .lnkRetrain l]) :
    ∃ e, exec c s = .next { s with dev := e } ∧ Dev.LinkDowned l.val (s.dev.link l.val) s.dev e := by
  have hfails (why : DownCause) : (if (s.dev.link l.val).st = .down then s.dev else s.dev.linkFails l.val) =
      s.dev.linkFails l.val := if_neg (by rw [hst]; decide)
  refine ⟨s.dev.linkFails l.val, ?_, s.dev.linkFails_downed l.val hst⟩
  simp only [List.mem_cons, List.not_mem_nil, or_false] at hc
  rcases hc with rfl | rfl | rfl | rfl
  · exact act_eq_next hr (hfails .fecErrors)
  · exact act_eq_next hr (hfails .tagFailures)
  · exact act_eq_next hr (hfails .replayHold)
  · exact act_running hr _

end

/-- Settles O36: each step of a link's life is an equation of its record; work on the other links, the collectives and
the announcements beside it touches only the flits that wait on it. -/
theorem linkLife : Obligations.LinkLife := by
  unfold Obligations.LinkLife
  intro s l failed h chain ephemeral hr d₀ k keys pair transcript chainOk shaded topo fields payload out lower
  refine ⟨fun hst hd => act_eq_next hr (doLinkTrainingStart_down hst hd),
    fun hst hd => act_eq_next hr (doLinkRetrainTimer_due hst hd), fun hst => ⟨fun hf => ?_, fun hf => ?_⟩, fun hst => ?_,
    fun hst => ?_, fun hst => ⟨fun c hc => ?_, fun hk c hc => ?_, fun hk hs => ⟨fun hno hb => ?_, fun hno => ?_⟩, fun hrk => ?_⟩⟩
  · exact act_eq_next hr (doOpticalTrainingDone_spares hst hf)
  · exact ⟨_, act_running hr _, doOpticalTrainingDone_fails hst hf⟩
  · cases hok : Config.linkChainOk s.dev.pins.orderingSe chain with
    | false =>
      refine ⟨_, exec_keyx_rejects hr hst hok, ?_, ?_⟩
      · exact (congrArg (fun d : Dev => d.free + 1) (s.dev.takeDown_frame l.val) :)
      · rw [if_neg (show ¬ chainOk = true from fun h => Bool.false_ne_true (hok.symm.trans h))]
        exact (congrArg Link.st (s.dev.takeDown_core l.val) :)
    | true =>
      obtain ⟨e, he, hfree, hout, hlink, hne, hframe⟩ := exec_keyx_agrees hr hst hok (eph := ephemeral)
      refine ⟨e, he, hfree, ?_⟩
      rw [if_pos (show chainOk = true from hok)]
      obtain ⟨hst', htx, hrx, hke, hkeys, htr, hrep⟩ := Link.greeted_fields hlink
      exact ⟨⟨_, hout, rfl, rfl, rfl, rfl, rfl, hrep⟩, hst', htx, hrx, hke, hkeys, htr, hne, hframe⟩
  · obtain ⟨e, he, hcore, hup, hfor, hframe⟩ := exec_hello_admits hr hst h
    obtain ⟨hst', hadm, hgen, haddr, hident, hrx⟩ := Link.admitted_of_core hcore
    refine ⟨e, he, hst', hgen, haddr, hident, hrx, hup,
      fun m hm => ⟨fun hs h0 hp => ?_, fun hno => ?_⟩, fun hm => ⟨fun h0 hb ha => ?_, fun hno => ?_⟩,
      (congrArg Dev.mem hframe :), (congrArg Dev.host hframe :), (congrArg Dev.sec hframe :), (congrArg Dev.tide hframe :)⟩
    · exact hadm.trans ((Dev.admission_member hm h _).1 hs h0 hp)
    · have ha := (Dev.admission_member hm h _).2 hno
      exact ⟨hadm.trans ha, hfor ha⟩
    · exact hadm.trans ((Dev.admission_outsider hm h _).1 h0 hb ha)
    · exact hadm.trans ((Dev.admission_outsider hm h _).2 hno)
  · obtain ⟨e, he, hdown⟩ := exec_linkFails hr hst hc
    exact ⟨e, he, hdown.lower⟩
  · simp only [List.mem_cons, List.not_mem_nil, or_false] at hc
    obtain ⟨hdown, hev⟩ := Dev.linkFails_late hst
    rcases hc with rfl | rfl
    · exact ⟨_, act_eq_next hr (doLinkRekey_late hst (decide_eq_true hk)), hdown.lower, hev⟩
    · exact ⟨_, act_eq_next hr (doFlitSlotSend_late hst (decide_eq_true hk)), hdown.lower, hev⟩
  · exact act_eq_next hr ((doLinkRekey_intime hst hk hs).trans (if_pos (by rw [hno, hb]; rfl)))
  · refine act_eq_next hr ((doLinkRekey_intime hst hk hs).trans (if_neg ?_))
    rcases hno with hno | hno
    · rw [hno, Bool.not_true, Bool.false_and]
      exact Bool.false_ne_true
    · rw [hno, Bool.and_false]
      exact Bool.false_ne_true
  · exact exec_keyx_rekeys hr hst hrk chain ephemeral

end Sys2Proof.Machine

/-! PROOFS. What a slot of an UP link sends (R247–R249, R251–R254, R258). -/

namespace Sys2Proof.Machine
open Sys2Proof

/-! ## One flit out -/

/-- The flit that a link's record seals next. -/
def Link.sealed (k : Link) (l : Nat) (gen : BitVec 12) (f : TxFlit) : SentFlit :=
  let ack : Word := (k.rxSeq - 1).setWidth 32
  { seq := k.txSeq, ack := ack, gen := gen, keyEpoch := k.txSeq.toNat / 2 ^ 32, flit := f,
    wire := flitWire (k.txKey k.txSeq) (flitIv k.txSeq l) (k.plainOf f ack gen) }

/-- The record once a flit is out. -/
def Link.sends (k : Link) (sf : SentFlit) : Link :=
  { k with txSeq := k.txSeq + 1, replay := k.replay ++ [sf], ackDue := false,
           resend := if k.resend.isEmpty then [] else k.resend ++ [sf],
           spent := if sf.flit.body.isCover then k.spent else Tab.mod 0 k.spent sf.flit.vc (· + 1) }

theorem Link.sends_fresh {k : Link} (h : k.resend = []) (sf : SentFlit) : k.sends sf =
    { k with txSeq := k.txSeq + 1, replay := k.replay ++ [sf], ackDue := false,
             spent := if sf.flit.body.isCover then k.spent else Tab.mod 0 k.spent sf.flit.vc (· + 1) } := by
  simp [Link.sends, h]

/-- The record of a link in the next slot. -/
def Link.nextSlot (fr : Option (PlanLink × List Byte)) (k : Link) : Link := { k with slot := k.slot + 1, frame := fr }

/-- The link's record is `k`, its flit is on the wire, and nothing else changed. -/
structure Dev.Drove (l : Lnk) (k : Link) (o : Output) (d d' : Dev) : Prop where
  link : d'.link l.val = k
  outbox : d'.outbox = d.outbox ++ [o]
  other : ∀ j, j ≠ l.val → d'.link j = d.link j
  frame : d' = { d with lnk := { d.lnk with links := d'.lnk.links }, outbox := d'.outbox }

section
variable {d : Dev} {l : Lnk} {f : Link → Link}

theorem Link.ne_reset_of_up {k : Link} (h : k.st = .up) : k ≠ Link.reset :=
  Link.ne_reset_of_st (h ▸ by decide)

theorem Dev.onLink_emit_drove (o : Output) (h : (f (d.link l.val)).st = .up) :
    Dev.Drove l (f (d.link l.val)) o d ((d.onLink l.val f).emit o) :=
  ⟨Dev.onLink_link (Link.ne_reset_of_up h), rfl, fun _ hj => Dev.onLink_link_ne hj, rfl⟩

theorem Output.flit_ofNat (l : Lnk) : Output.flit (Fin.ofNat 64 l.val) = Output.flit l :=
  congrArg Output.flit (Fin.ext (Nat.mod_eq_of_lt l.isLt))

/-- A flit that goes out of a record `f` has changed. -/
theorem Dev.transmit_onLink (h : (f (d.link l.val)).st = .up) (x : TxFlit) :
    let sf := (f (d.link l.val)).sealed l.val (d.dstGen l.val x) x
    (d.onLink l.val f).transmit l.val x = (d.onLink l.val fun k => (f k).sends sf).emit (.flit l sf.wire) := by
  intro sf
  have hlink : (d.onLink l.val f).link l.val = f (d.link l.val) := Dev.onLink_link (Link.ne_reset_of_up h)
  have hseal : (d.onLink l.val f).seal l.val x = sf := by
    rw [Dev.seal, hlink]
    rfl
  rw [Dev.transmit, hseal, Output.flit_ofNat]
  exact congrArg (Dev.emit · _) (Dev.onLink_onLink (d := d) (g := fun k => k.sends sf) (Link.ne_reset_of_up h))

theorem Dev.transmit_drove (h : (f (d.link l.val)).st = .up) (x : TxFlit) :
    let sf := (f (d.link l.val)).sealed l.val (d.dstGen l.val x) x
    Dev.Drove l ((f (d.link l.val)).sends sf) (.flit l sf.wire) d ((d.onLink l.val f).transmit l.val x) := by
  intro sf
  rw [Dev.transmit_onLink h]
  exact Dev.onLink_emit_drove (f := fun k => (f k).sends sf) _ h

theorem Dev.Drove.onLink {k : Link} {o : Output} {e : Dev} (h : Dev.Drove l k o d e) (hg : (f k).st = .up) :
    Dev.Drove l (f k) o d (e.onLink l.val f) := by
  refine ⟨?_, h.outbox, fun j hj => (Dev.onLink_link_ne hj).trans (h.other j hj), ?_⟩
  · rw [Dev.onLink_link (Link.ne_reset_of_up (h.link ▸ hg)), h.link]
  · rw [Dev.onLink, h.frame]

end

/-! ## The slot begins -/

section
variable {d : Dev} {l : Lnk} {f : Link → Link}

/-- The frame that a link's slot belongs to. -/
def Dev.slotFrame (d : Dev) (l : Nat) : Option (PlanLink × List Byte) :=
  if (d.link l).slot = 0 then d.frameOf l else (d.link l).frame

/-- The device once the slot has begun. -/
def Dev.inSlot (d : Dev) (l : Nat) : Dev := d.onLink l (Link.nextSlot (d.slotFrame l))

theorem Dev.inSlot_link (h : (d.link l.val).st = .up) :
    (d.inSlot l.val).link l.val = (d.link l.val).nextSlot (d.slotFrame l.val) :=
  Dev.onLink_link (f := Link.nextSlot (d.slotFrame l.val)) (Link.ne_reset_of_up h)

theorem Dev.inSlot_linkCarries (h : (d.link l.val).st = .up) : (d.inSlot l.val).linkCarries l.val = d.linkCarries l.val := by
  have hlink := Dev.inSlot_link h
  rw [Dev.linkCarries, Dev.linkUsable, hlink]
  rfl

/-- Beginning the slot takes the frame in slot 0 and counts on. -/
theorem Dev.inSlot_eq (h : (d.link l.val).st = .up) :
    ((if (d.link l.val).slot.toNat = 0 then d.modLink l.val fun k => { k with frame := d.frameOf l.val } else d).modLink l.val
      fun k => { k with slot := k.slot + 1 }) = d.inSlot l.val := by
  unfold Dev.inSlot Dev.slotFrame
  by_cases h0 : (d.link l.val).slot = 0
  · rw [if_pos (by rw [h0]; rfl), if_pos h0]
    exact Dev.onLink_onLink (f := fun k => { k with frame := d.frameOf l.val }) (Link.ne_reset_of_up h)
  · have h0' : ¬ (d.link l.val).slot.toNat = 0 := fun e => h0 (BitVec.eq_of_toNat_eq e)
    rw [if_neg h0', if_neg h0]
    exact Dev.onLink_congr (f := fun k => { k with slot := k.slot + 1 }) rfl

/-- The conditions under which a link sends in its slot. -/
structure Dev.Sends (d : Dev) (l : Lnk) : Prop where
  up : (d.link l.val).st = .up
  keyed : (d.link l.val).txSeq.toNat / 2 ^ 32 ≤ (d.link l.val).keyEpoch
  seq : (d.link l.val).txSeq ≠ BitVec.allOnes 48
  cool : d.ioCritical l.val = false
  room : (d.link l.val).replay.length < 1024

theorem doFlitSlotSend_inSlot (h : d.Sends l) : doFlitSlotSend l.val d =
    match d.linkCarries l.val, d.slotFrame l.val with
    | true, some x => (d.inSlot l.val).carrySlot l.val x.1 x.2 (d.link l.val).slot.toNat
    | _, _ => (d.inSlot l.val).ctrlSlot l.val := by
  have hlate : (d.link l.val).keyLate = false := decide_eq_false (Nat.not_lt.2 h.keyed)
  have hlink := Dev.inSlot_link h.up
  have hcool : (d.inSlot l.val).ioCritical l.val = false := h.cool
  rw [doFlitSlotSend, if_neg (not_not_intro h.up), hlate, if_neg Bool.false_ne_true, if_neg h.seq]
  dsimp only
  rw [Dev.inSlot_eq h.up, hcool, if_neg Bool.false_ne_true, Dev.inSlot_linkCarries h.up, hlink]
  rfl

theorem doFlitSlotSend_carries (h : d.Sends l) (hc : d.linkCarries l.val = true) {x : PlanLink × List Byte}
    (hx : d.slotFrame l.val = some x) :
    doFlitSlotSend l.val d = (d.inSlot l.val).carrySlot l.val x.1 x.2 (d.link l.val).slot.toNat := by
  rw [doFlitSlotSend_inSlot h, hc, hx]

theorem doFlitSlotSend_controls (h : d.Sends l) (hc : d.linkCarries l.val = false) :
    doFlitSlotSend l.val d = (d.inSlot l.val).ctrlSlot l.val := by
  rw [doFlitSlotSend_inSlot h, hc]

/-! ## Tide records -/

/-- The record once up to seven tide records have left their queue. -/
def Link.tided (k : Link) : Link := { k with tideQ := k.tideQ.drop 7 }

/-- The TIDE flit of a link's waiting records. -/
def Dev.tideFlit (d : Dev) (l : Lnk) : SentFlit :=
  (d.link l.val).sealed l.val 0 (plainFlit 4 (.tide ((d.link l.val).tideQ.take 7)))

theorem Dev.sendTideFlit_inSlot (h : (d.link l.val).st = .up) :
    Dev.Drove l ((((d.link l.val).nextSlot (d.slotFrame l.val)).tided).sends (d.tideFlit l)) (.flit l (d.tideFlit l).wire) d
      ((d.inSlot l.val).sendTideFlit l.val) := by
  have hsend : (d.inSlot l.val).sendTideFlit l.val =
      (d.onLink l.val fun k => (k.nextSlot (d.slotFrame l.val)).tided).transmit l.val
        (plainFlit 4 (.tide ((d.link l.val).tideQ.take 7))) := by
    rw [Dev.sendTideFlit, Dev.inSlot_link h]
    exact congrArg (Dev.transmit · l.val _) ((Dev.onLink_onLink (d := d) (Link.ne_reset_of_up h)).trans (Dev.onLink_congr rfl))
  rw [hsend]
  exact Dev.transmit_drove (d := d) (f := fun k => (k.nextSlot (d.slotFrame l.val)).tided) h
    (plainFlit 4 (.tide ((d.link l.val).tideQ.take 7)))

theorem Dev.inSlot_hasRoom (h : d.Sends l) : ((d.inSlot l.val).link l.val).full = false := by
  rw [Dev.inSlot_link h.up]
  exact decide_eq_false (Nat.not_le.2 h.room)

theorem Dev.carrySlot_tide (h : d.Sends l) (hq : (d.link l.val).tideQ ≠ []) (hc : (d.link l.val).hasCredit 4 = true)
    (e : PlanLink) (fs : List Byte) (i : Nat) :
    ∃ d' k, (d.inSlot l.val).carrySlot l.val e fs i = d' ∧ Dev.Drove l k (.flit l (d.tideFlit l).wire) d d' ∧
      k.tideQ = (d.link l.val).tideQ.drop 7 ∧ k.txSeq = (d.link l.val).txSeq + 1 ∧
      k.replay = (d.link l.val).replay ++ [d.tideFlit l] ∧ k.txq = (d.link l.val).txq := by
  have hfirst : (!((d.inSlot l.val).link l.val).tideQ.isEmpty && ((d.inSlot l.val).link l.val).hasCredit 4 &&
      !((d.inSlot l.val).link l.val).full) = true := by
    rw [Dev.inSlot_hasRoom h, Dev.inSlot_link h.up]
    have hne : (d.link l.val).tideQ.isEmpty = false := List.isEmpty_eq_false_iff.2 hq
    change (!(d.link l.val).tideQ.isEmpty && (d.link l.val).hasCredit 4 && !false) = true
    rw [hne, hc]
    rfl
  have hsent := Dev.sendTideFlit_inSlot h.up
  rw [Dev.carrySlot, if_pos hfirst]
  by_cases ht : shareOf e i = .tidectl
  · exact ⟨_, _, if_pos ht, hsent, rfl, rfl, rfl, rfl⟩
  · exact ⟨_, _, if_neg ht, hsent.onLink (f := fun k => { k with displaced := k.displaced ++ [i] }) h.up, rfl, rfl, rfl, rfl⟩

/-! ## A waiting flit -/

/-- The record once the first waiting flit that `p` picks has left its queue. -/
def Link.pulled (p : TxFlit → Bool) (k : Link) : Link :=
  { k with txq := k.txq.eraseP fun f => p f && k.hasCredit f.vc }

/-- The first waiting flit that a slot's share picks, and that has a credit, goes out. -/
theorem Dev.sendFirst_sends {e : Dev} (h : (f (d.link l.val)).st = .up) {p : TxFlit → Bool} {x : TxFlit}
    (hx : (f (d.link l.val)).txq.find? (fun y => p y && (f (d.link l.val)).hasCredit y.vc) = some x)
    (he : e = d.onLink l.val f) :
    let sf := ((f (d.link l.val)).pulled p).sealed l.val (d.dstGen l.val x) x
    ∃ d', e.sendFirst l.val p = some d' ∧
      Dev.Drove l (((f (d.link l.val)).pulled p).sends sf) (.flit l sf.wire) d d' := by
  subst he
  have hlink : (d.onLink l.val f).link l.val = f (d.link l.val) := Dev.onLink_link (Link.ne_reset_of_up h)
  have hpull : ((d.onLink l.val f).modLink l.val fun k => { k with
      txq := k.txq.eraseP fun y => p y && (f (d.link l.val)).hasCredit y.vc }) =
      d.onLink l.val fun k => (f k).pulled p :=
    (Dev.onLink_onLink (d := d) (Link.ne_reset_of_up h)).trans (Dev.onLink_congr rfl)
  refine ⟨((d.onLink l.val fun k => (f k).pulled p)).transmit l.val x, ?_,
    Dev.transmit_drove (f := fun k => (f k).pulled p) h x⟩
  rw [Dev.sendFirst, hlink, hx, hpull]

theorem Dev.slotFlit_data {e : PlanLink} {fs : List Byte} {l i n : Nat} (hs : shareOf e i = .data)
    (ho : dataOwner e fs i = some n) (hm : d.linkMatch l = true) (hn : d.quiet n = false) :
    d.slotFlit l e fs i = d.sendFirst l fun f => f.clearing == n && f.vc < 4 && f.vc != 2 := by
  simp only [Dev.slotFlit, hs, ho, hm, hn]
  rfl

/-- What stays of a link's record while a slot begins: the neighbour that it met. -/
theorem Dev.onLink_linkMatch (h : (f (d.link l.val)).st = .up) (hm : d.linkMatch l.val = true)
    (ha : (f (d.link l.val)).farAddr = (d.link l.val).farAddr := by rfl)
    (hl : (f (d.link l.val)).farLink = (d.link l.val).farLink := by rfl) : (d.onLink l.val f).linkMatch l.val = true := by
  have hentry : (d.onLink l.val f).linkEntry l.val = d.linkEntry l.val := rfl
  unfold Dev.linkMatch at hm ⊢
  rw [Dev.onLink_link (Link.ne_reset_of_up h), hentry]
  cases he : d.linkEntry l.val with
  | none => simp [he] at hm
  | some e =>
    simp only [he, Bool.and_eq_true] at hm
    simp only [h, ha, hl, hm, Bool.and_eq_true]
    exact ⟨⟨rfl, trivial⟩, trivial⟩

/-- A DATA slot of a link without tide records, displaced slots or flits to resend sends its share's flit. -/
theorem Dev.carrySlot_fresh {e : PlanLink} {fs : List Byte} {l i : Nat} {d' : Dev}
    (hq : (d.link l).tideQ = [])
    (he : (d.link l).effective e i = (i, [])) (hr : (d.link l).resend = []) (hfull : (d.link l).full = false)
    (hs : shareOf e i = .data)
    (hf : (d.modLink l fun k => { k with displaced := [] }).slotFlit l e fs i = some d') :
    d.carrySlot l e fs i = d' := by
  simp only [Dev.carrySlot, hq, he, hr, hfull, hs, List.isEmpty_nil, Bool.not_true, Bool.false_and, Bool.false_eq_true,
    reduceCtorEq, if_false, hf]

theorem Dev.carrySlot_data (h : d.Sends l) (hr : (d.link l.val).resend = []) (hq : (d.link l.val).tideQ = [])
    (hd : (d.link l.val).displaced = []) {e : PlanLink} {fs : List Byte} {i n : Nat} (hs : shareOf e i = .data)
    (hm : d.linkMatch l.val = true) (ho : dataOwner e fs i = some n) (hn : d.quiet n = false) {x : TxFlit}
    (hx : (d.link l.val).txq.find?
      (fun y => (y.clearing == n && y.vc < 4 && y.vc != 2) && (d.link l.val).hasCredit y.vc) = some x) :
    let p (y : TxFlit) : Bool := y.clearing == n && y.vc < 4 && y.vc != 2
    let k := ((d.link l.val).nextSlot (d.slotFrame l.val)).pulled p
    let sf := k.sealed l.val (d.dstGen l.val x) x
    Dev.Drove l (k.sends sf) (.flit l sf.wire) d ((d.inSlot l.val).carrySlot l.val e fs i) := by
  intro p k sf
  have hlink := Dev.inSlot_link h.up
  let f (k : Link) : Link := { k.nextSlot (d.slotFrame l.val) with displaced := [] }
  have hf : (f (d.link l.val)) = (d.link l.val).nextSlot (d.slotFrame l.val) := by
    unfold f Link.nextSlot
    rw [← hd]
  have hgo : ((d.inSlot l.val).modLink l.val fun k => { k with displaced := [] }) = d.onLink l.val f :=
    Dev.onLink_onLink (d := d) (Link.ne_reset_of_up h.up)
  obtain ⟨d', hd', hdrove⟩ := Dev.sendFirst_sends (d := d) (l := l) (f := f) (p := p) (x := x) h.up hx hgo
  rw [hf] at hdrove
  have hslot : ((d.inSlot l.val).modLink l.val fun k => { k with displaced := [] }).slotFlit l.val e fs i = some d' := by
    rw [hgo]
    rw [hgo] at hd'
    exact (Dev.slotFlit_data hs ho (Dev.onLink_linkMatch (f := f) h.up hm) (show (d.onLink l.val f).quiet n = false from hn)).trans hd'
  have hnot : ((d.inSlot l.val).link l.val).tideQ = [] := by
    rw [hlink]
    exact hq
  have heff : ((d.inSlot l.val).link l.val).effective e i = (i, []) := by
    rw [hlink, Link.effective]
    change (match (d.link l.val).displaced with | _ :: _ => _ | [] => _) = _
    rw [hd]
  have hres : ((d.inSlot l.val).link l.val).resend = [] := by
    rw [hlink]
    exact hr
  rw [Dev.carrySlot_fresh hnot heff hres (Dev.inSlot_hasRoom h) hs hslot]
  exact hdrove

/-! ## The slot of a link that carries control flits alone -/

theorem Dev.ctrlSlot_resends (h : d.Sends l) {sf : SentFlit} {fs : List SentFlit} (hr : (d.link l.val).resend = sf :: fs) :
    (d.inSlot l.val).ctrlSlot l.val = (d.onLink l.val fun k =>
      { k.nextSlot (d.slotFrame l.val) with resend := fs, retx := satInc k.retx }).emit (.flit l sf.wire) := by
  have hres : ((d.inSlot l.val).link l.val).resend = sf :: fs := by
    rw [Dev.inSlot_link h.up]
    exact hr
  have hone : (d.inSlot l.val).resendOne l.val = some ((d.onLink l.val fun k =>
      { k.nextSlot (d.slotFrame l.val) with resend := fs, retx := satInc k.retx }).emit (.flit l sf.wire)) := by
    rw [Dev.resendOne, hres, Output.flit_ofNat]
    exact congrArg (fun e => some (Dev.emit e _)) (Dev.onLink_onLink (d := d) (Link.ne_reset_of_up h.up))
  rw [Dev.ctrlSlot, hres, hone]
  rfl

/-- A link with room and nothing to resend. -/
theorem Dev.ctrlSlot_fresh (h : d.Sends l) (hr : (d.link l.val).resend = []) : (d.inSlot l.val).ctrlSlot l.val =
    match (d.inSlot l.val).sendCtrlSlot l.val with
    | some d => d
    | none => (d.inSlot l.val).emptySlot l.val := by
  have hres : ((d.inSlot l.val).link l.val).resend = [] := by
    rw [Dev.inSlot_link h.up]
    exact hr
  rw [Dev.ctrlSlot, hres, Dev.inSlot_hasRoom h]
  rfl

theorem Dev.ctrlSlot_sends (h : d.Sends l) (hr : (d.link l.val).resend = []) {x : TxFlit}
    (hx : (d.link l.val).txq.find? (fun y => y.vc == 5 && (d.link l.val).hasCredit y.vc) = some x) :
    let k := ((d.link l.val).nextSlot (d.slotFrame l.val)).pulled (·.vc == 5)
    let sf := k.sealed l.val (d.dstGen l.val x) x
    Dev.Drove l (k.sends sf) (.flit l sf.wire) d ((d.inSlot l.val).ctrlSlot l.val) := by
  intro k sf
  obtain ⟨d', hd', hdrove⟩ := Dev.sendFirst_sends (d := d) (l := l) (p := (·.vc == 5)) (x := x) h.up hx
    (rfl : d.inSlot l.val = _)
  rw [Dev.ctrlSlot_fresh h hr, Dev.sendCtrlSlot, hd']
  exact hdrove

theorem Dev.ctrlSlot_empty (h : d.Sends l) (hr : (d.link l.val).resend = [])
    (hx : (d.link l.val).txq.find? (fun y => y.vc == 5 && (d.link l.val).hasCredit y.vc) = none)
    (ho : (d.link l.val).owed = []) (hre : (d.link l.val).released = []) :
    (d.inSlot l.val).ctrlSlot l.val = (d.inSlot l.val).emptySlot l.val := by
  have hfirst : (d.inSlot l.val).sendFirst l.val (·.vc == 5) = none := by
    rw [Dev.sendFirst, Dev.inSlot_link h.up]
    exact congrArg (fun o : Option TxFlit => match o with
      | some f => some (((d.inSlot l.val).modLink l.val fun k => { k with
          txq := k.txq.eraseP fun y => y.vc == 5 && (d.link l.val).hasCredit y.vc }).transmit l.val f)
      | none => none) hx
  have hcredit : (d.inSlot l.val).sendCredit l.val = none := by
    have howed : (((d.inSlot l.val).link l.val).owed.isEmpty && ((d.inSlot l.val).link l.val).released.isEmpty) = true := by
      rw [Dev.inSlot_link h.up]
      change ((d.link l.val).owed.isEmpty && (d.link l.val).released.isEmpty) = true
      rw [ho, hre]
      rfl
    rw [Dev.sendCredit, if_pos (by rw [howed]; rfl)]
  rw [Dev.ctrlSlot_fresh h hr, Dev.sendCtrlSlot, hfirst, hcredit]

theorem Dev.emptySlot_idle (hs : ∀ p, d.plan.active = some p → p.device.shaded ≠ 1) :
    d.emptySlot l.val = d.emit (.idle l) := by
  have hl : Fin.ofNat 64 l.val = l := Fin.ext (Nat.mod_eq_of_lt l.isLt)
  unfold Dev.emptySlot
  rw [hl]
  cases hp : d.plan.active with
  | none => rfl
  | some p => exact if_pos (by simpa using Or.inl (hs p hp))

theorem Dev.emptySlot_shaded {l : Nat} {p : StandPlan} (hp : d.plan.active = some p) (hs : p.device.shaded = 1)
    (hfull : (d.link l).full = false) : d.emptySlot l = d.transmit l (plainFlit 0 .cover) := by
  simp [Dev.emptySlot, hp, hs, hfull]

theorem Dev.emptySlot_cover (h : d.Sends l) {p : StandPlan} (hp : d.plan.active = some p) (hs : p.device.shaded = 1) :
    let k := (d.link l.val).nextSlot (d.slotFrame l.val)
    let sf := k.sealed l.val 0 (plainFlit 0 .cover)
    Dev.Drove l (k.sends sf) (.flit l sf.wire) d ((d.inSlot l.val).emptySlot l.val) := by
  intro k sf
  rw [Dev.emptySlot_shaded (d := d.inSlot l.val) hp hs (Dev.inSlot_hasRoom h)]
  exact Dev.transmit_drove h.up (plainFlit 0 .cover)

end

/-! ## The obligation -/

/-- Settles O37: the slot begins in the link's record alone, and each of its flits is sealed from that record. -/
theorem flitSlots : Obligations.FlitSlots := by
  unfold Obligations.FlitSlots
  intro s l hr d₀ k fr next ack wire hup hkey hmax hcool hroom
  have h : s.dev.Sends l := ⟨hup, hkey, hmax, hcool, hroom⟩
  have hcontrols (hc : s.dev.linkCarries l.val = false) : exec (.flitSlotSend l) s =
      .next { s with dev := (s.dev.inSlot l.val).ctrlSlot l.val } := act_eq_next hr (doFlitSlotSend_controls h hc)
  refine ⟨fun hres hc x hx => ⟨fun hq hcr => ?_, fun hq hd hs hm n f ho hn => ?_⟩,
    fun hres hc => ⟨fun f hf => ?_, fun hf ho hre => ⟨fun hs => ?_, fun p hp hs => ?_⟩⟩, fun f fs hres hc => ?_⟩
  · obtain ⟨d', k', he, hdrove, htide, htx, hrep, htxq⟩ := Dev.carrySlot_tide h hq hcr x.1 x.2 (s.dev.link l.val).slot.toNat
    refine ⟨d', s.dev.tideFlit l, act_eq_next hr ((doFlitSlotSend_carries h hc hx).trans he), rfl, rfl, rfl, hdrove.outbox,
      ?_, rfl, ?_, ?_, ?_, hdrove.frame⟩
    · rw [hdrove.link, htide]
    · rw [hdrove.link, htx]
    · rw [hdrove.link, hrep]
    · rw [hdrove.link, htxq]
  · intro picks hf
    have hdrove := Dev.carrySlot_data h hres hq hd hs hm ho hn hf
    refine ⟨_, _, act_eq_next hr (doFlitSlotSend_carries h hc hx), rfl, rfl, rfl, rfl, hdrove.outbox, ?_, ?_, ?_, hdrove.frame⟩
    · exact (congrArg Link.txSeq hdrove.link :)
    · exact (congrArg Link.replay hdrove.link :)
    · exact (congrArg Link.txq hdrove.link :)
  · intro sf
    have hdrove := Dev.ctrlSlot_sends h hres hf
    refine ⟨_, hcontrols hc, hdrove.outbox, hdrove.link.trans ?_, hdrove.other, hdrove.frame⟩
    exact Link.sends_fresh (k := ((s.dev.link l.val).nextSlot (s.dev.slotFrame l.val)).pulled (·.vc == 5)) hres _
  · rw [hcontrols hc, Dev.ctrlSlot_empty h hres hf ho hre, Dev.emptySlot_idle (d := s.dev.inSlot l.val) hs]
    rfl
  · have hdrove := Dev.emptySlot_cover h hp hs
    rw [hcontrols hc, Dev.ctrlSlot_empty h hres hf ho hre]
    refine ⟨_, _, rfl, rfl, rfl, hdrove.outbox, ?_, ?_⟩
    · exact (congrArg Link.txSeq hdrove.link :)
    · exact (congrArg Link.spent hdrove.link :)
  · rw [hcontrols hc, Dev.ctrlSlot_resends h hres]
    rfl

end Sys2Proof.Machine

/-! PROOFS. What reading and writing an object's bytes may change (R176, R196, R203). -/

namespace Sys2Proof.Machine
open Sys2Proof

/-! ## Counting an access (R195–R197) -/

/-- What counting an access may change, its frame's own counters included. -/
def Dev.CountFrame (d d' : Dev) : Prop :=
  d' = { d with free := d'.free, mem := { d.mem with
    meta_ := d'.mem.meta_, regions := d'.mem.regions, frames := d'.mem.frames, mcache := d'.mem.mcache } }

theorem Dev.CountFrame.trans {a b c : Dev} (h : a.CountFrame b) (h' : b.CountFrame c) : a.CountFrame c := by
  unfold Dev.CountFrame at *
  rw [h', h]

theorem Dev.MetaFrame.counts {a b : Dev} (h : a.MetaFrame b) : a.CountFrame b := by
  unfold Dev.MetaFrame Dev.CountFrame at *
  rw [h]

section
variable (d : Dev) (f r : Nat) (rg : PlanRegion)

theorem Dev.modFrame_counts (n : Nat) (g : McxFrame → McxFrame) : d.CountFrame (d.modFrame n g) := rfl

theorem Dev.touchMeta_counts (ra : Nat) (write : Bool) : d.CountFrame (d.touchMeta f r rg ra write) := by
  have hfill (e : Dev) (ks : List Nat) : e.CountFrame (ks.foldl (fun e k => e.fillMeta f r rg k (rg.metaIdx k ra)) e) :=
    (Dev.MetaFrame.foldl (fun e k => e.fillMeta_metaFrame f r rg k _) ks e).counts
  unfold Dev.touchMeta
  dsimp only
  generalize rg.metaLevels = ks
  have hmiss : d.CountFrame (if ks.any fun k => !d.metaHit f r k (rg.metaIdx k ra) then
      d.modFrame f fun x => { x with nodeMiss := satInc x.nodeMiss } else d) := by
    split <;> rfl
  generalize (if ks.any fun k => !d.metaHit f r k (rg.metaIdx k ra) then
      d.modFrame f fun x => { x with nodeMiss := satInc x.nodeMiss } else d) = e at hmiss
  have hall := hmiss.trans (hfill e ks.reverse)
  generalize ks.reverse.foldl _ e = x at hall
  split
  · exact hall
  · split
    · exact hall.trans (x.dirtyMeta_metaFrame f r 0 _).counts
    · exact hall.trans (x.writeBackMeta_metaFrame f r rg 7 0 _).counts

/-! ## Writing bytes -/

/-- What a write without tampering may change: the memory, the events and the chunks that a strandline has to send
again. -/
def Dev.WriteFrame (d d' : Dev) : Prop :=
  d' = { d with
    free := d'.free, mem := d'.mem, stl := { d.stl with dirty0 := d'.stl.dirty0, dirty1 := d'.stl.dirty1 }, ev := d'.ev,
    pins := d'.pins, outbox := d'.outbox }

theorem Dev.WriteFrame.refl (d : Dev) : d.WriteFrame d := Eq.refl d

theorem Dev.WriteFrame.trans {a b c : Dev} (h : a.WriteFrame b) (h' : b.WriteFrame c) : a.WriteFrame c := by
  unfold Dev.WriteFrame at *
  rw [h', h]

theorem Dev.CountFrame.writes {a b : Dev} (h : a.CountFrame b) : a.WriteFrame b := by
  unfold Dev.CountFrame Dev.WriteFrame at *
  rw [h]

theorem Dev.putByte_writes (pa : Nat) (b : Byte) : d.WriteFrame (d.putByte pa b) := by
  unfold Dev.putByte
  split <;> rfl

theorem Dev.dirtySector_writes (pa : Nat) : d.WriteFrame (d.dirtySector pa) := by
  unfold Dev.dirtySector
  dsimp only
  split <;> rfl

theorem Dev.markDirty_writes (ra : Nat) : d.WriteFrame (d.markDirty f r ra) := by
  unfold Dev.markDirty
  split <;> rfl

theorem Dev.raise_writes (b : Blk) (i : Nat) : d.WriteFrame (d.raise b i) :=
  (d.raise_frame b i).trans (by rw [Dev.raise_mem, Dev.raise_stl, Dev.raise_free])

theorem Dev.countWrite_writes (ra k : Nat) : d.WriteFrame (d.countWrite f r rg ra k).1 := by
  have htouch := d.touchMeta_counts f r rg ra true
  unfold Dev.countWrite
  dsimp only
  generalize d.touchMeta f r rg ra true = e at *
  split
  · split
    · exact (d.modFrame_counts f _).writes.trans (Dev.raise_writes _ .mcx 3)
    · dsimp only
      exact (htouch.trans (e.setMeta_metaFrame f r k _).counts).writes
  · split
    · dsimp only
      have hbump : d.CountFrame (if (d.metaAt f r k).loc = 63 then e.bumpMajor f r rg 1 (rg.metaIdx 1 ra) else e) := by
        split
        · exact htouch.trans (e.bumpMajor_metaFrame f r rg 1 _).counts
        · exact htouch
      exact (hbump.trans (Dev.setMeta_metaFrame _ f r k _).counts).writes
    · exact .refl d

theorem Dev.latchErr_writes (st : Status) (level : Nat) (pw wr : Bool) (line : Nat) :
    d.WriteFrame (d.latchErr f st r level pw wr line) := rfl

theorem Dev.reportUe_writes (pa : Nat) : d.WriteFrame (d.reportUe pa) :=
  .trans (b := d.modStack _ _) rfl (Dev.raise_writes _ .mem 1)

theorem Dev.unitUncorrectable_writes (ra pa k : Nat) (mode : Byte) (pw wr : Bool) :
    d.WriteFrame (d.unitUncorrectable f r ra pa k mode pw wr) := by
  have hlatch := (d.latchErr_writes f r .uncorrectable 0 pw wr (ra / 64)).trans (Dev.reportUe_writes _ pa)
  unfold Dev.unitUncorrectable
  dsimp only
  generalize Dev.reportUe _ pa = e at *
  split
  · exact hlatch.trans rfl
  · exact hlatch.trans (.trans (b := (e.poison k 2).modFrame f _) rfl (Dev.raise_writes _ .mcx 1))

theorem Dev.WriteFrame.foldl {α : Type} {g : Dev → α → Dev} (h : ∀ (d : Dev) (x : α), d.WriteFrame (g d x)) (l : List α)
    (d : Dev) : d.WriteFrame (l.foldl g d) := foldl_frame (R := Dev.WriteFrame) .refl .trans h l d

/-- A unit is written, or the attempt to merge into a tampered one shows TAMPER. -/
theorem Dev.writeUnit_cases (rmw : Bool) (u ra : Nat) (bs : List Byte) :
    d.WriteFrame (d.writeUnit f r rg rmw u ra bs).1 ∨ ((d.writeUnit f r rg rmw u ra bs).2.1 = .tamper ∧
      ∃ k, (d.writeUnit f r rg rmw u ra bs).1 = d.unitTamper f r u k true true) := by
  unfold Dev.writeUnit
  cases hpa : d.phys f r u with
  | none => exact .inl (.refl d)
  | some pa =>
    dsimp only
    have hcount := d.countWrite_writes f r rg u (unitKey rg.unit pa)
    split
    · exact .inl ((Dev.WriteFrame.foldl (fun e b => (e.dirtySector_writes _).trans (Dev.putByte_writes _ _ _)) _ d).trans
        (Dev.markDirty_writes _ f r u))
    · split
      · exact .inl (.refl d)
      · split
        · split
          · exact .inr ⟨rfl, _, rfl⟩
          · exact .inl (d.unitUncorrectable_writes f r u pa _ _ true true)
        · generalize d.countWrite f r rg u (unitKey rg.unit pa) = x at hcount
          split
          · refine .inl (.trans ?_ (Dev.markDirty_writes _ f r u))
            have hput (e : Dev) (bs : List (Byte × Nat)) :
                e.WriteFrame (bs.foldl (fun d b => d.putByte (pa + (max u ra - u) + b.2) b.1) e) :=
              .foldl (fun e b => e.putByte_writes _ _) bs e
            have hclear : d.WriteFrame (x.1.clearFlaw rg.unit pa) := hcount.trans rfl
            exact (hclear.trans (hput _ _)).trans rfl
          · exact .inl hcount

end

/-! ## Ranges and pieces that meet no error -/

theorem Hit.then_ok {a b : Hit} (h : (a.then_ b).status = .ok) : a.status = .ok ∧ b.status = .ok := by
  unfold Hit.then_ at h
  split at h
  next ha => exact ⟨ha, h⟩
  next ha =>
    split at h
    · exact absurd h ha
    next hw =>
      refine absurd ?_ hw
      rw [h]
      cases a.status <;> rfl

/-- A fold of accesses that ends well met no error: each of its steps kept what an access without error keeps. -/
theorem Hit.foldl_ok {α : Type} {R : Dev → Dev → Prop} (hr : ∀ d, R d d) (ht : ∀ {a b c : Dev}, R a b → R b c → R a c)
    {g : Dev → α → Dev × Hit} (h : ∀ d x, (g d x).2.status = .ok → R d (g d x).1) (xs : List α) (y : Dev × Hit)
    (hok : (xs.foldl (fun y x => ((g y.1 x).1, y.2.then_ (g y.1 x).2)) y).2.status = .ok) :
    y.2.status = .ok ∧ R y.1 (xs.foldl (fun y x => ((g y.1 x).1, y.2.then_ (g y.1 x).2)) y).1 := by
  induction xs generalizing y with
  | nil => exact ⟨hok, hr _⟩
  | cons x xs ih =>
    obtain ⟨hone, hrest⟩ := ih _ hok
    obtain ⟨hy, hx⟩ := Hit.then_ok hone
    exact ⟨hy, ht (h _ _ hx) hrest⟩

section
variable (d : Dev)

/-- A unit of a range that is written, with what the write met. -/
def Dev.writeUnitHit (d : Dev) (f r : Nat) (rg : PlanRegion) (u ra : Nat) (bs : List Byte) : Dev × Hit :=
  let y := d.writeUnit f r rg false u ra bs
  (y.1, { status := y.2.1, detail := y.2.2, addr := u })

theorem Dev.writeRange_writes (f r ra : Nat) (bs : List Byte) (h : (d.writeRange f r ra bs).2.status = .ok) :
    d.WriteFrame (d.writeRange f r ra bs).1 := by
  unfold Dev.writeRange at h ⊢
  cases hp : d.planRegion f r with
  | none => exact .refl d
  | some rg =>
    rw [hp] at h
    refine (Hit.foldl_ok (R := Dev.WriteFrame) .refl .trans (g := fun e u => e.writeUnitHit f r rg u ra bs)
      (fun e u hu => ?_) _ (d, Hit.ok) h).2
    refine (e.writeUnit_cases f r rg false u ra bs).resolve_right fun ⟨ht, _⟩ => ?_
    exact nomatch (ht.symm.trans hu : Status.tamper = .ok)

theorem Dev.writeObj_writes (o : Obj) (off : Nat) (bs : List Byte) (h : (d.writeObj o off bs).2.status = .ok) :
    d.WriteFrame (d.writeObj o off bs).1 := d.writeRange_writes _ _ _ bs h

theorem Dev.writePieces_writes (o : Obj) (ws : List (Nat × List Byte)) (h : (d.writePieces o ws).2.status = .ok) :
    d.WriteFrame (d.writePieces o ws).1 := by
  unfold Dev.writePieces at h ⊢
  exact (Hit.foldl_ok (R := Dev.WriteFrame) .refl .trans (g := fun e (w : Nat × List Byte) => e.writeObj o w.1 w.2)
    (fun e w hw => e.writeObj_writes o w.1 w.2 hw) ws (d, Hit.ok) h).2

theorem Dev.checkRange_counts (f r ra n : Nat) (h : (d.checkRange f r ra n).2.status = .ok) :
    d.CountFrame (d.checkRange f r ra n).1 := by
  unfold Dev.checkRange at h ⊢
  cases hp : d.planRegion f r with
  | none => rfl
  | some rg =>
    rw [hp] at h
    refine List.foldlRecOn (motive := fun x : Dev × Hit => x.2.status = .ok → d.CountFrame x.1) _ _ (fun _ => rfl)
      (fun x hx u _ => ?_) h
    cases x.1.phys f r u with
    | none => exact hx
    | some pa =>
      dsimp only
      intro hok
      obtain ⟨hbefore, hst⟩ := Hit.then_ok hok
      refine (hx hbefore).trans ?_
      rw [show (if x.1.cached pa rg.unit = true then Status.ok else x.1.unitStatus f r u rg pa) = .ok from hst]
      simp only [reduceCtorEq, decide_false, Bool.false_and, Bool.false_eq_true, if_false]
      split
      · rfl
      · exact x.1.touchMeta_counts f r rg u false

theorem Dev.checkObj_counts (o : Obj) (off n : Nat) (h : (d.checkObj o off n).2.status = .ok) :
    d.CountFrame (d.checkObj o off n).1 := d.checkRange_counts _ _ _ n h

theorem Dev.checkRanges_counts (o : Obj) (rs : List (Nat × Nat)) (h : (d.checkRanges o rs).2.status = .ok) :
    d.CountFrame (d.checkRanges o rs).1 := by
  unfold Dev.checkRanges at h ⊢
  exact (Hit.foldl_ok (R := Dev.CountFrame) (fun _ => rfl) .trans (g := fun e (w : Nat × Nat) => e.checkObj o w.1 w.2)
    (fun e w hw => e.checkObj_counts o w.1 w.2 hw) rs (d, Hit.ok) h).2

/-! ## No transfer and no save begins -/

/-- No transfer begins, and the strandline unit's state stays. -/
def Dev.StaysCalm (d d' : Dev) : Prop := d'.stl.st = d.stl.st ∧ (d.lnk.xfers = [] → d'.lnk.xfers = [])

variable {d}

theorem Dev.StaysCalm.refl : d.StaysCalm d := ⟨rfl, id⟩

theorem Dev.StaysCalm.trans {a b c : Dev} (h : a.StaysCalm b) (h' : b.StaysCalm c) : a.StaysCalm c :=
  ⟨h'.1.trans h.1, h'.2 ∘ h.2⟩

theorem Dev.StaysCalm.foldl {α : Type} {g : Dev → α → Dev} (h : ∀ (d : Dev) (x : α), d.StaysCalm (g d x)) (l : List α)
    (d : Dev) : d.StaysCalm (l.foldl g d) := foldl_frame (R := Dev.StaysCalm) (fun _ => .refl) .trans h l d

theorem Dev.StaysCalm.of_eq {d' : Dev} (hl : d'.lnk.xfers = d.lnk.xfers) (hs : d'.stl.st = d.stl.st) : d.StaysCalm d' :=
  ⟨hs, fun h => hl.trans h⟩

theorem Dev.WriteFrame.calm {d' : Dev} (h : d.WriteFrame d') : d.StaysCalm d' :=
  .of_eq (congrArg (fun x : Dev => x.lnk.xfers) h :) (congrArg (fun x : Dev => x.stl.st) h :)

theorem Dev.StaysCalm.calm {d' : Dev} (h : d.StaysCalm d') (hc : Machine.Calm d) : Machine.Calm d' :=
  ⟨h.2 hc.1, h.1.trans hc.2⟩

variable (d)

theorem Dev.raise_staysCalm (b : Blk) (i : Nat) : d.StaysCalm (d.raise b i) := (d.raise_writes b i).calm

theorem Dev.raiseIf_staysCalm (c : Bool) (b : Blk) (i : Nat) : d.StaysCalm (d.raiseIf c b i) := by
  unfold Dev.raiseIf
  split
  · exact d.raise_staysCalm b i
  · exact .refl

theorem Dev.releaseSlot_staysCalm (i : StageIn) : d.StaysCalm (d.releaseSlot i) := by
  unfold Dev.releaseSlot
  dsimp only
  split <;> exact .of_eq rfl rfl

theorem Dev.closeXfer_staysCalm (q : Nat) (seq : Word) : d.StaysCalm (d.closeXfer q seq) := by
  have hlone : d.StaysCalm ((d.loneSlots q seq).foldl Dev.releaseSlot d) := .foldl Dev.releaseSlot_staysCalm _ d
  unfold Dev.closeXfer
  generalize (d.loneSlots q seq).foldl Dev.releaseSlot d = x at hlone
  exact hlone.trans ⟨rfl, fun h => (congrArg (List.filter _) h).trans rfl⟩

theorem Dev.dropXfer_staysCalm (q : Nat) (seq : Word) : d.StaysCalm (d.dropXfer q seq) := by
  unfold Dev.dropXfer
  refine .trans ?_ (Dev.closeXfer_staysCalm _ q seq)
  split
  · exact .refl
  · exact .foldl Dev.releaseSlot_staysCalm _ d

theorem Dev.completeCmd_staysCalm (q : Nat) (c : Cmd) (st : Status) (det : Detail) (info : BitVec 64) (rank : BitVec 21) :
    d.StaysCalm (d.completeCmd q c st det info rank) := by
  rw [Dev.completeCmd_hostOnly]
  exact .of_eq rfl rfl

theorem Dev.modTile_staysCalm (t : Nat) (g : TileSt → TileSt) : d.StaysCalm (d.modTile t g) := .of_eq rfl rfl

theorem Dev.discardFlights_staysCalm (fs : List Flight) : d.StaysCalm (d.discardFlights fs) := by
  refine .foldl (fun e f => ?_) fs d
  exact .foldl (fun e x => e.modTile_staysCalm x.1 _) f.start e

theorem Dev.dropProg_staysCalm (t : Nat) : d.StaysCalm (d.dropProg t) :=
  (d.discardFlights_staysCalm _).trans (.of_eq rfl rfl)

theorem Dev.kill_staysCalm (q : Nat) (c : Cmd) (st : Status) (det : Detail) : d.StaysCalm (d.kill q c st det) := by
  have hprog : d.StaysCalm (match d.progTile q c.seq with | some t => d.dropProg t | none => d) := by
    split
    · exact d.dropProg_staysCalm _
    · exact .refl
  have hlaunch (e : Dev) : e.StaysCalm (match e.launchOf q c.seq with | some l => e.freeLaunch l.id | none => e) := by
    split
    · exact .of_eq rfl rfl
    · exact .refl
  exact hprog.trans ((hlaunch _).trans
    ((Dev.dropXfer_staysCalm _ q c.seq).trans (Dev.completeCmd_staysCalm _ q c _ _ _ _)))

theorem Dev.abort_staysCalm (q : Nat) (c : Cmd) (st : Status) (det : Detail) : d.StaysCalm (d.abort q c st det) := by
  unfold Dev.abort
  split
  · split
    · split
      · exact d.kill_staysCalm q c st det
      · exact .of_eq rfl rfl
    · exact d.kill_staysCalm q c st det
  · exact d.kill_staysCalm q c st det

theorem Dev.haltClr_staysCalm (n : Nat) (shown : ClrSt) (st : Status) (det : Detail) : d.StaysCalm (d.haltClr n shown st det) :=
  .trans (b := d.modClr n _) (.of_eq rfl rfl) (.foldl (fun e (x : Nat × Cmd) => e.abort_staysCalm x.1 x.2 st det) _ _)

theorem Dev.haltAll_staysCalm (st : Status) (det : Detail) : d.StaysCalm (d.haltAll st det) :=
  .foldl (fun e n => e.haltClr_staysCalm n .halted st det) _ d

theorem Dev.SlotFrame.staysCalm {d d' : Dev} (h : d.SlotFrame d') : d.StaysCalm d' :=
  .of_eq (congrArg (fun x : Dev => x.lnk.xfers) h :) (congrArg (fun x : Dev => x.stl.st) h :)

theorem Dev.leaveSet_staysCalm : d.StaysCalm d.leaveSet :=
  .trans (b := ({ d with sec := { d.sec with member := none } } : Dev).raiseIf d.sec.member.isSome .sec 5)
    (.trans (.of_eq rfl rfl) (Dev.raiseIf_staysCalm { d with sec := { d.sec with member := none } } _ _ _))
    (Dev.destroySlots_slotFrame _ _).staysCalm

theorem Dev.tamper_staysCalm (f : Nat) : d.StaysCalm (d.tamper f) := by
  have hcount : d.StaysCalm ((d.raise .mcx 0).modFrame f fun x => { x with tamper := satInc x.tamper }) :=
    (d.raise_staysCalm .mcx 0).trans (.of_eq rfl rfl)
  have hlocked (x : Dev) : x.StaysCalm (({ x with mem := { x.mem with lockdown := true } } : Dev).raise .mcx 7) :=
    .trans (b := { x with mem := { x.mem with lockdown := true } }) (.of_eq rfl rfl) (Dev.raise_staysCalm _ .mcx 7)
  have hcontained (x : Dev) : x.StaysCalm (x.modFrame f fun y => { y with contained := true }) := .of_eq rfl rfl
  unfold Dev.tamper
  dsimp only
  generalize (d.raise .mcx 0).modFrame f _ = e at hcount
  refine hcount.trans ?_
  split
  · exact (((e.haltAll_staysCalm .aborted .clearingHalted).trans (Dev.destroySlots_slotFrame _ _).staysCalm).trans
      (Dev.leaveSet_staysCalm _)).trans (hlocked _)
  · split
    · exact (hcontained e).trans (Dev.haltClr_staysCalm _ f .contained .tamper .none)
    · exact hcontained e

theorem Dev.writeUnit_staysCalm (f r : Nat) (rg : PlanRegion) (rmw : Bool) (u ra : Nat) (bs : List Byte) :
    d.StaysCalm (d.writeUnit f r rg rmw u ra bs).1 := by
  rcases d.writeUnit_cases f r rg rmw u ra bs with h | ⟨-, k, h⟩
  · exact h.calm
  · rw [h]
    exact .trans (b := (d.poison k 1).latchErr f .tamper r 0 true true (u / 64)) (.of_eq rfl rfl) (Dev.tamper_staysCalm _ f)

theorem Dev.writeRange_staysCalm (f r ra : Nat) (bs : List Byte) : d.StaysCalm (d.writeRange f r ra bs).1 := by
  unfold Dev.writeRange
  split
  · exact .refl
  next rg hp =>
    refine List.foldlRecOn (motive := fun x : Dev × Hit => d.StaysCalm x.1) _ _ .refl fun x hx u _ => ?_
    exact hx.trans (x.1.writeUnit_staysCalm f r rg false u ra bs)

end

end Sys2Proof.Machine

/-! PROOFS. What an arriving flit does (R249, R258, R261–R263, R266, R330). -/

namespace Sys2Proof.Machine
open Sys2Proof

/-! ## A flit in order -/

section
variable {d : Dev} {l : Nat} {f : Link → Link}

theorem Dev.takeFlit_up (h : (d.link l).st = .up) (x : FlitHdr) (credit : Bool) :
    d.takeFlit l x credit = d.onLink l (Link.takes x credit) := by
  rw [Dev.takeFlit, Dev.rxFlit, h, if_neg (by decide)]
  exact Dev.onLink_onLink (d := d) (Link.ne_reset_of_up h)

/-- What a change of a link's record that keeps its state, its admission and its generation leaves of it. -/
theorem Dev.onLink_linkCarries (h : (f (d.link l)).st = .up) (hst : (d.link l).st = .up)
    (ha : (f (d.link l)).adm = (d.link l).adm := by rfl) : (d.onLink l f).linkCarries l = d.linkCarries l := by
  unfold Dev.linkCarries Dev.linkUsable
  rw [Dev.onLink_link (Link.ne_reset_of_up h), h, ha, hst]
  rfl

theorem Dev.onLink_staleGen (h : (f (d.link l)).st = .up) (x : FlitHdr)
    (hg : (f (d.link l)).roleGen = (d.link l).roleGen := by rfl) : (d.onLink l f).staleGen l x = d.staleGen l x := by
  rw [Dev.staleGen, Dev.onLink_link (Link.ne_reset_of_up h), hg]
  rfl

theorem Dev.onLink_farAddr (h : (f (d.link l)).st = .up) (ha : (f (d.link l)).farAddr = (d.link l).farAddr := by rfl) :
    ((d.onLink l f).link l).farAddr = (d.link l).farAddr := by
  rw [Dev.onLink_link (Link.ne_reset_of_up h), ha]

/-- The device that has taken a flit. -/
def Dev.taking (d : Dev) (l : Nat) (x : FlitHdr) : Dev := d.onLink l (Link.takes x true)

theorem InOrder.up {x : FlitHdr} {b : TxBody} (h : InOrder d l x b) : (d.link l).st = .up := by
  have hc := h.1
  simp only [Dev.linkCarries, Dev.linkUsable, Bool.and_eq_true, beq_iff_eq] at hc
  exact hc.1.1.1

theorem InOrder.receives {x : FlitHdr} {b : TxBody} (h : InOrder d l x b) (p : Dev → Bool) (eff : Dev → Dev) :
    d.receive l x (d.flitOpens l x b) p eff =
      if p (d.taking l x) then eff (d.taking l x) else (d.taking l x).denyFlow l x := by
  obtain ⟨hc, hopen, hseq, hstale⟩ := h
  have hup := InOrder.up ⟨hc, hopen, hseq, hstale⟩
  have hc' := (Dev.onLink_linkCarries (f := Link.takes x true) hup hup).trans hc
  have hs' := (Dev.onLink_staleGen (f := Link.takes x true) hup x).trans hstale
  rw [Dev.receive, hup, hopen, hseq, Dev.takeFlit_up hup, if_neg (by decide), if_neg (by simp)]
  dsimp only
  rw [hc', hs']
  rfl

theorem Dev.receive_stale {x : FlitHdr} {g : BitVec 12} (hup : (d.link l).st = .up) (hseq : x.seq = (d.link l).rxSeq)
    (hc : d.linkCarries l = true) (hg : d.staleGen l x = some g) (p : Dev → Bool) (eff : Dev → Dev) :
    d.receive l x true p eff = (d.taking l x).dropStale l x g := by
  have hc' := (Dev.onLink_linkCarries (f := Link.takes x true) hup hup).trans hc
  have hs' := (Dev.onLink_staleGen (f := Link.takes x true) hup x).trans hg
  rw [Dev.receive, hup, hseq, Dev.takeFlit_up hup, if_neg (by decide), if_neg (by simp)]
  dsimp only
  rw [hc', hs']
  rfl

/-! ## A tag that fails -/

/-- The record of a link that asks for a flit again. -/
def Link.asks (k : Link) : Link := { k with
  awaiting := true, tagFail := satInc k.tagFail, tagRun := k.tagRun + 1, txq := k.txq ++ [ctrlTx (.nak k.rxSeq)] }

theorem Dev.tagFails_asks (hup : (d.link l).st = .up) (hrun : (d.link l).tagRun < 15) (ha : (d.link l).awaiting = false) :
    d.tagFails l false = d.onLink l Link.asks := by
  let g (k : Link) : Link := { k with awaiting := true, tagFail := satInc k.tagFail, tagRun := k.tagRun + 1 }
  have hg : (d.onLink l g).link l = g (d.link l) := Dev.onLink_link (Link.ne_reset_of_up hup)
  have hnak : (d.onLink l g).sendNak l = d.onLink l Link.asks := by
    rw [Dev.sendNak, hg]
    exact (Dev.onLink_onLink (d := d) (f := g) (Link.ne_reset_of_up hup)).trans (Dev.onLink_congr rfl)
  have hlink : (d.onLink l Link.asks).link l = (d.link l).asks := Dev.onLink_link (Link.ne_reset_of_up hup)
  have hfirst : (d.modLink l fun k => { k with
      awaiting := true, tagFail := if false then k.tagFail else satInc k.tagFail,
      tagRun := if false then k.tagRun else k.tagRun + 1 }) = d.onLink l g := rfl
  rw [Dev.tagFails, ha, hfirst, if_neg Bool.false_ne_true, hnak, hlink]
  exact if_neg (Nat.not_le.2 (Nat.succ_lt_succ hrun))

theorem Dev.receive_asks (hup : (d.link l).st = .up) (hrun : (d.link l).tagRun < 15) (ha : (d.link l).awaiting = false)
    (x : FlitHdr) (p : Dev → Bool) (eff : Dev → Dev) : d.receive l x false p eff = d.onLink l Link.asks := by
  rw [Dev.receive, hup, if_neg (by decide), if_pos (by rfl), Dev.tagFails_asks hup hrun ha]

theorem Dev.settleStage_calm (h : d.stl.st = .idle) : d.settleStage = d := by
  have hset : d.stageSet = none := by rw [Dev.stageSet, h]; rfl
  rw [Dev.settleStage, hset]
  split
  next h => exact nomatch h
  · rfl

/-! ## DATA -/

theorem doDataFlit_writes (hcalm : Calm d) {x : FlitHdr} {handle : Word} {off : Nat} {bs : List Byte}
    (h : InOrder d l x (.data handle off bs)) (ha : d.dataAllowed x handle off bs.length = true)
    (hk : d.keyAllows (d.obj (objIndex handle)).clearing.toNat x.dst.toNat true = true)
    (hw : d.objWaits (d.obj (objIndex handle)) off bs.length = false) (hcl : d.flt.cliff = false) :
    doDataFlit l x (d.flitOpens l x (.data handle off bs)) handle off bs d =
      ((d.taking l x).writeObj (d.obj (objIndex handle)) off bs).1 := by
  have htry : ((d.taking l x).tryWrite x.dst.toNat (d.obj (objIndex handle)) [(off, bs)]).1 =
      ((d.taking l x).writeObj (d.obj (objIndex handle)) off bs).1 := by
    have hk' : (d.taking l x).keyAllows (d.obj (objIndex handle)).clearing.toNat x.dst.toNat true = true := hk
    have hw' : (d.taking l x).objWaits (d.obj (objIndex handle)) off bs.length = false := hw
    have hp : (d.taking l x).piecesWait (d.obj (objIndex handle)) [(off, bs)] = false := by
      simp [Dev.piecesWait, hw']
    rw [Dev.tryWrite, hk', hp]
    rfl
  have hquiet : Calm ((d.taking l x).writeObj (d.obj (objIndex handle)) off bs).1 :=
    (Dev.writeRange_staysCalm (d.taking l x) _ _ _ bs).calm hcalm
  have hallowed : (d.taking l x).dataAllowed x handle off bs.length = true := ha
  have hcliff : (d.taking l x).flt.cliff = false := hcl
  rw [doDataFlit, hw, Bool.and_false, if_neg Bool.false_ne_true, h.receives, hallowed, if_pos rfl, hcliff, if_neg Bool.false_ne_true,
    htry]
  exact Dev.settleLinks_calm hquiet.1 hquiet.2

theorem doDataFlit_asks (hcalm : Calm d) (hup : (d.link l).st = .up) (hrun : (d.link l).tagRun < 15)
    (ha : (d.link l).awaiting = false) (x : FlitHdr) (handle : Word) (off : Nat) (bs : List Byte) :
    doDataFlit l x false handle off bs d = d.onLink l Link.asks := by
  rw [doDataFlit, Bool.and_false, Bool.false_and, Bool.false_and, Bool.false_and, Bool.false_and, if_neg Bool.false_ne_true,
    Dev.receive_asks hup hrun ha]
  exact Dev.settleLinks_calm hcalm.1 hcalm.2

/-! ## COLL -/

/-- A collector slot with the elements that a flit brings. -/
def CollSlot.filled (x : CollSlot) (chunk elem : Nat) (ws : List AW) : CollSlot :=
  { chunk := chunk, got := x.got + ws.length, elems := Tab.setRun 0 x.elems elem ws }

theorem Dev.taking_collAllowed (hup : (d.link l).st = .up) (x : FlitHdr) (slot : BitVec 12) (chunk elem n : Nat) :
    (d.taking l x).collAllowed l x slot chunk elem n = d.collAllowed l x slot chunk elem n := by
  unfold Dev.collAllowed
  rw [Dev.taking, Dev.onLink_farAddr (f := Link.takes x true) hup]
  rfl

theorem doCollFlit_fills (hcalm : Calm d) {x : FlitHdr} {slot : BitVec 12} {chunk elem : Nat} {fmt : Byte} {ws : List AW}
    (h : InOrder d l x (.coll slot chunk elem fmt ws)) (ha : d.collAllowed l x slot chunk elem ws.length = true) :
    doCollFlit l x (d.flitOpens l x (.coll slot chunk elem fmt ws)) slot chunk elem ws d =
      { d.taking l x with lnk := { (d.taking l x).lnk with
        colls := Tab.set CollSlot.reset (d.taking l x).lnk.colls slot.toNat ((d.coll slot.toNat).filled chunk elem ws) } } := by
  rw [doCollFlit, h.receives, Dev.taking_collAllowed h.up, ha, if_pos rfl]
  exact Dev.settleLinks_calm (d := (d.taking l x).fillSlot slot.toNat chunk elem ws) hcalm.1 hcalm.2

/-- A flit that its flow rule refuses. -/
theorem Dev.denyFlow_denies {x : FlitHdr} (hup : (d.link l).st = .up) :
    let e := (d.taking l x).denyFlow l x
    e.lnk.colls = d.lnk.colls ∧ e.lnk.flowDeny = satInc d.lnk.flowDeny ∧ (e.ev.get .lnk).ev.getLsbD 7 = true ∧
      ctrlTx (.flowDenied x.stream) ∈ (e.link l).txq ∧ e.mem = d.mem ∧ (Machine.Calm d → Machine.Calm e) := by
  intro e
  have hlnk : ((d.taking l x).countDeny.raise .lnk 7).lnk = (d.taking l x).countDeny.lnk := Dev.raise_lnk _ _ _
  have hlink : ((d.taking l x).countDeny.raise .lnk 7).link l = (d.link l).takes x true := by
    rw [Dev.link, hlnk]
    exact Dev.onLink_link (f := Link.takes x true) (Link.ne_reset_of_up hup)
  refine ⟨(congrArg LnkBlk.colls hlnk :), (congrArg LnkBlk.flowDeny hlnk :), Dev.raise_shows _ _ (by decide), ?_,
    (Dev.raise_mem _ _ _).trans rfl, fun hc => ?_⟩
  · have hsent : e.link l = { ((d.taking l x).countDeny.raise .lnk 7).link l with
        txq := (((d.taking l x).countDeny.raise .lnk 7).link l).txq ++ [ctrlTx (.flowDenied x.stream)] } :=
      Dev.onLink_link (Link.ne_reset_of_up (hlink ▸ hup))
    rw [hsent]
    exact List.mem_append_right _ List.mem_cons_self
  · exact ((Dev.raise_staysCalm _ .lnk 7).trans (.of_eq rfl rfl)).calm (d := (d.taking l x).countDeny) hc

theorem doCollFlit_denies (hcalm : Calm d) {x : FlitHdr} {slot : BitVec 12} {chunk elem : Nat} {fmt : Byte} {ws : List AW}
    (h : InOrder d l x (.coll slot chunk elem fmt ws)) (ha : d.collAllowed l x slot chunk elem ws.length = false) :
    doCollFlit l x (d.flitOpens l x (.coll slot chunk elem fmt ws)) slot chunk elem ws d =
      (d.taking l x).denyFlow l x := by
  obtain ⟨-, -, -, -, -, hc⟩ := Dev.denyFlow_denies (d := d) (l := l) (x := x) h.up
  rw [doCollFlit, h.receives, Dev.taking_collAllowed h.up, ha, if_neg Bool.false_ne_true]
  exact Dev.settleLinks_calm (hc hcalm).1 (hc hcalm).2

/-- A flit of an old generation. -/
theorem Dev.dropStale_drops {x : FlitHdr} {g : BitVec 12} :
    let e := (d.taking l x).dropStale l x g
    e.lnk.colls = d.lnk.colls ∧ e.lnk.stale = satInc d.lnk.stale ∧ (e.ev.get .lnk).ev.getLsbD 6 = true ∧ e.mem = d.mem ∧
      (Machine.Calm d → Machine.Calm e) := by
  intro e
  let counted : Dev := { d.taking l x with lnk := { (d.taking l x).lnk with stale := satInc (d.taking l x).lnk.stale } }
  have hlnk : (counted.raise .lnk 6).lnk = counted.lnk := Dev.raise_lnk _ _ _
  refine ⟨(congrArg LnkBlk.colls hlnk :), (congrArg LnkBlk.stale hlnk :), Dev.raise_shows _ _ (by decide),
    (Dev.raise_mem _ _ _).trans rfl, fun hc => ?_⟩
  exact ((Dev.raise_staysCalm counted .lnk 6).trans (.of_eq rfl rfl)).calm (d := counted) hc

theorem doCollFlit_drops (hcalm : Calm d) {x : FlitHdr} {g : BitVec 12} (hup : (d.link l).st = .up)
    (hseq : x.seq = (d.link l).rxSeq) (hc : d.linkCarries l = true) (hg : d.staleGen l x = some g)
    (slot : BitVec 12) (chunk elem : Nat) (ws : List AW) :
    doCollFlit l x true slot chunk elem ws d = (d.taking l x).dropStale l x g := by
  obtain ⟨-, -, -, -, hc'⟩ := Dev.dropStale_drops (d := d) (l := l) (x := x) (g := g)
  rw [doCollFlit, Dev.receive_stale hup hseq hc hg]
  exact Dev.settleLinks_calm (hc' hcalm).1 (hc' hcalm).2

theorem doCollFlit_asks (hcalm : Calm d) (hup : (d.link l).st = .up) (hrun : (d.link l).tagRun < 15)
    (ha : (d.link l).awaiting = false) (x : FlitHdr) (slot : BitVec 12) (chunk elem : Nat) (ws : List AW) :
    doCollFlit l x false slot chunk elem ws d = d.onLink l Link.asks := by
  rw [doCollFlit, Dev.receive_asks hup hrun ha]
  exact Dev.settleLinks_calm (d := d.onLink l Link.asks) hcalm.1 hcalm.2

/-! ## COVER and reserved kinds -/

theorem doCoverFlit_takes (hcalm : Calm d) (hup : (d.link l).st = .up) {x : FlitHdr} (hseq : x.seq = (d.link l).rxSeq) :
    doCoverFlit l x true false d = d.onLink l (Link.takes x false) := by
  rw [doCoverFlit, if_neg (not_not_intro hup), if_neg (by simp [hseq]), if_neg Bool.false_ne_true, Dev.takeFlit_up hup]
  exact Dev.settleLinks_calm (d := d.onLink l (Link.takes x false)) hcalm.1 hcalm.2

theorem doCoverFlit_reserved (hcalm : Calm d) (hup : (d.link l).st = .up) {x : FlitHdr} (hseq : x.seq = (d.link l).rxSeq) :
    doCoverFlit l x true true d = (d.taking l x).countDeny := by
  rw [doCoverFlit, if_neg (not_not_intro hup), if_neg (by simp [hseq]), if_pos rfl, Dev.takeFlit_up hup]
  exact Dev.settleLinks_calm (d := (d.taking l x).countDeny) hcalm.1 hcalm.2

theorem doCoverFlit_asks (hup : (d.link l).st = .up) (hrun : (d.link l).tagRun < 15)
    (ha : (d.link l).awaiting = false) (x : FlitHdr) (r : Bool) :
    doCoverFlit l x false r d = d.onLink l Link.asks := by
  rw [doCoverFlit, if_neg (not_not_intro hup), if_pos (by rfl), Dev.tagFails_asks hup hrun ha]

/-! ## STRAND -/

/-- The device with another copy of a peer's strandline. -/
def Dev.withPeer (d : Dev) (p : Nat) (c : PeerCopy) : Dev :=
  { d with stl := { d.stl with peers := Tab.set PeerCopy.reset d.stl.peers p c } }

theorem Dev.storeStrand_frame (p clearing part off : Nat) (bs : List Byte) (index : Word) (last : Bool) :
    let x := d.withPeer p ((Tab.get PeerCopy.reset d.stl.peers p).take clearing part off bs index last)
    let e := d.storeStrand p clearing part off bs index last
    e = { x with ev := e.ev, pins := e.pins, outbox := e.outbox } := by
  intro x e
  have he : e = x.raiseIf (part != 3 && (Tab.get PeerCopy.reset d.stl.peers p).index != index &&
    (Tab.get PeerCopy.reset d.stl.peers p).begun) .stl 8 := rfl
  rw [he, Dev.raiseIf]
  split
  · exact x.raise_frame .stl 8
  · rfl

theorem Dev.storeStrand_peersOnly (p clearing part off : Nat) (bs : List Byte) (index : Word) (last : Bool) :
    let e := d.storeStrand p clearing part off bs index last
    e = { d with stl := { d.stl with peers := e.stl.peers }, ev := e.ev, pins := e.pins, outbox := e.outbox } := by
  intro e
  have h : e = { d.withPeer p _ with ev := e.ev, pins := e.pins, outbox := e.outbox } := Dev.storeStrand_frame ..
  generalize e = x at h
  rw [h]
  rfl

/-- The copy of a peer after a flit of its strandline. -/
theorem Dev.storeStrand_peer {p : Nat} (hw : Tab.wf PeerCopy.reset d.stl.peers = true) (clearing part off : Nat)
    (bs : List Byte) (index : Word) (last : Bool) :
    Tab.get PeerCopy.reset (d.storeStrand p clearing part off bs index last).stl.peers p =
      (Tab.get PeerCopy.reset d.stl.peers p).take clearing part off bs index last := by
  rw [Dev.storeStrand_frame]
  exact Tab.get_set PeerCopy.reset d.stl.peers hw p _

theorem PeerCopy.take_bytes {c : PeerCopy} (hw : Tab.wf 0 c.bytes = true) (clearing part off : Nat) (bs : List Byte)
    (index : Word) (last : Bool) {i : Nat} (hi : i < bs.length) :
    Tab.get 0 (c.take clearing part off bs index last).bytes (copyKey clearing part off + i) = bs[i]?.getD 0 := by
  have hb : (c.take clearing part off bs index last).bytes = Tab.setRun 0 c.bytes (copyKey clearing part off) bs := by
    unfold PeerCopy.take
    dsimp only
    split <;> rfl
  rw [hb, Tab.get_setRun hw, if_pos (by omega), Nat.add_sub_cancel_left]

theorem PeerCopy.take_counts {c : PeerCopy} {part : BitVec 3} (hp : part ≠ 3) (clearing off : Nat) (bs : List Byte)
    (index : Word) (last : Bool) : c.take clearing part.toNat off bs index last =
      { index := index, bytes := Tab.setRun 0 c.bytes (copyKey clearing part.toNat off) bs
        complete := (c.index == index && c.complete) || (last && part == 2) } := by
  have h3 : part.toNat ≠ 3 := fun h => hp (BitVec.eq_of_toNat_eq h)
  have h2 : (part.toNat == 2) = (part == 2) := by
    rw [Bool.eq_iff_iff, beq_iff_eq, beq_iff_eq, ← BitVec.toNat_inj]
    rfl
  rw [PeerCopy.take, if_neg h3, h2]

theorem doStrandFlit_stores (hcalm : Calm d) {x : FlitHdr} {cl : Byte} {part : BitVec 3} {off : Nat} {bs : List Byte}
    {index : Word} {last : Bool} {p : PlanStrand} {e : PlanPeer × Nat}
    (h : InOrder d l x (.strand cl part false off bs)) (hp : d.strand = some p)
    (he : peerOf p (d.link l).farAddr = some e) (hf : d.failed = false) (hc : (d.frame 16).contained = false)
    (ha : d.strandAllowed (d.link l).farAddr part.toNat false off bs.length = true) :
    doStrandFlit l x (d.flitOpens l x (.strand cl part false off bs)) cl.toNat part.toNat false off bs index last d =
      (d.taking l x).storeStrand e.2 cl.toNat part.toNat off bs index last := by
  have ha' : (d.taking l x).strandAllowed (d.link l).farAddr part.toNat false off bs.length = true := ha
  have hk : (d.taking l x).keepsCopies = true := by
    change (!d.failed && !(d.frame 16).contained) = true
    rw [hf, hc]
    rfl
  have hp' : (d.taking l x).strand = some p := hp
  have htake : (d.taking l x).takeStrand (d.link l).farAddr cl.toNat part.toNat false off bs index last =
      (d.taking l x).storeStrand e.2 cl.toNat part.toNat off bs index last := by
    rw [Dev.takeStrand, if_neg Bool.false_ne_true, hp', Option.bind_some, he]
  rw [doStrandFlit, h.receives, ha', if_pos rfl, hk, if_pos rfl, htake]
  refine Dev.settleStage_calm ?_
  rw [Dev.storeStrand_frame]
  exact hcalm.2

theorem doStrandFlit_asks (hcalm : Calm d) (hup : (d.link l).st = .up) (hrun : (d.link l).tagRun < 15)
    (ha : (d.link l).awaiting = false) (x : FlitHdr) (clearing part : Nat) (fill : Bool) (off : Nat) (bs : List Byte)
    (index : Word) (last : Bool) :
    doStrandFlit l x false clearing part fill off bs index last d = d.onLink l Link.asks := by
  rw [doStrandFlit, Dev.receive_asks hup hrun ha]
  exact Dev.settleStage_calm (d := d.onLink l Link.asks) hcalm.2

end

/-! ## The instructions -/

section
variable {s : State} {l : Lnk} {h : FlitHdr}

theorem exec_dataFlit_writes (hr : s.dev.running = true) (hcalm : Calm s.dev) {handle : Word} {off : BitVec 48}
    {bs : List Byte} (ho : InOrder s.dev l.val h (.data handle off.toNat bs))
    (ha : s.dev.dataAllowed h handle off.toNat bs.length = true)
    (hk : s.dev.keyAllows (s.dev.obj (objIndex handle)).clearing.toNat h.dst.toNat true = true)
    (hw : s.dev.objWaits (s.dev.obj (objIndex handle)) off.toNat bs.length = false) (hcl : s.dev.flt.cliff = false) :
    exec (.dataFlit l h handle off bs) s = .next { s with
      dev := ((s.dev.taking l.val h).writeObj (s.dev.obj (objIndex handle)) off.toNat bs).1 } :=
  act_eq_next (f := fun d => doDataFlit l.val h (d.flitOpens l.val h (.data handle off.toNat bs)) handle
    off.toNat bs d) hr (doDataFlit_writes hcalm ho ha hk hw hcl)

theorem exec_collFlit_fills (hr : s.dev.running = true) (hcalm : Calm s.dev) {slot : BitVec 12} {chunk : Word}
    {elem : BitVec 10} {fmt : Byte} {ws : List AW}
    (ho : InOrder s.dev l.val h (.coll slot chunk.toNat elem.toNat fmt ws))
    (ha : s.dev.collAllowed l.val h slot chunk.toNat elem.toNat ws.length = true) :
    let d₁ := s.dev.taking l.val h
    let y := (s.dev.coll slot.toNat).filled chunk.toNat elem.toNat ws
    exec (.collFlit l h slot chunk elem fmt ws) s = .next { s with
      dev := { d₁ with lnk := { d₁.lnk with colls := Tab.set CollSlot.reset d₁.lnk.colls slot.toNat y } } } :=
  act_eq_next (f := fun d => doCollFlit l.val h (d.flitOpens l.val h
    (.coll slot chunk.toNat elem.toNat fmt ws)) slot chunk.toNat elem.toNat ws d) hr (doCollFlit_fills hcalm ho ha)

theorem exec_collFlit_denies (hr : s.dev.running = true) (hcalm : Calm s.dev) {slot : BitVec 12} {chunk : Word}
    {elem : BitVec 10} {fmt : Byte} {ws : List AW}
    (ho : InOrder s.dev l.val h (.coll slot chunk.toNat elem.toNat fmt ws))
    (ha : s.dev.collAllowed l.val h slot chunk.toNat elem.toNat ws.length = false) :
    exec (.collFlit l h slot chunk elem fmt ws) s = .next { s with dev := (s.dev.taking l.val h).denyFlow l.val h } :=
  act_eq_next (f := fun d => doCollFlit l.val h (d.flitOpens l.val h
    (.coll slot chunk.toNat elem.toNat fmt ws)) slot chunk.toNat elem.toNat ws d) hr (doCollFlit_denies hcalm ho ha)

theorem exec_coverFlit_takes (hr : s.dev.running = true) (hcalm : Calm s.dev) (hup : (s.dev.link l.val).st = .up)
    (hseq : h.seq = (s.dev.link l.val).rxSeq) (hopen : s.dev.flitOpens l.val h .cover = true) :
    exec (.coverFlit l h) s = .next { s with dev := s.dev.onLink l.val (Link.takes h false) } := by
  refine act_eq_next (f := fun d => doCoverFlit l.val h (d.flitOpens l.val h .cover) false d) hr ?_
  rw [hopen]
  exact doCoverFlit_takes hcalm hup hseq

theorem exec_coverFlit_reserved (hr : s.dev.running = true) (hcalm : Calm s.dev) (hup : (s.dev.link l.val).st = .up)
    (hseq : h.seq = (s.dev.link l.val).rxSeq) {r : Fin 10 × List Byte}
    (hopen : s.dev.wireOpens l.val h (reservedWire r) = true) :
    exec (.coverFlit l h (some r)) s = .next { s with dev := (s.dev.taking l.val h).countDeny } := by
  refine act_eq_next (f := fun d => doCoverFlit l.val h (d.wireOpens l.val h (reservedWire r)) true d) hr ?_
  rw [hopen]
  exact doCoverFlit_reserved hcalm hup hseq

theorem exec_collFlit_drops (hr : s.dev.running = true) (hcalm : Calm s.dev) (hup : (s.dev.link l.val).st = .up)
    (hseq : h.seq = (s.dev.link l.val).rxSeq) (hc : s.dev.linkCarries l.val = true) {slot : BitVec 12} {chunk : Word}
    {elem : BitVec 10} {fmt : Byte} {ws : List AW} {g : BitVec 12}
    (hopen : s.dev.flitOpens l.val h (.coll slot chunk.toNat elem.toNat fmt ws) = true)
    (hg : s.dev.staleGen l.val h = some g) :
    exec (.collFlit l h slot chunk elem fmt ws) s = .next { s with dev := (s.dev.taking l.val h).dropStale l.val h g } := by
  refine act_eq_next (f := fun d => doCollFlit l.val h (d.flitOpens l.val h
    (.coll slot chunk.toNat elem.toNat fmt ws)) slot chunk.toNat elem.toNat ws d) hr ?_
  rw [hopen]
  exact doCollFlit_drops hcalm hup hseq hc hg slot _ _ ws

theorem exec_strandFlit_stores (hr : s.dev.running = true) (hcalm : Calm s.dev) {cl : Byte} {part : BitVec 3}
    {off : BitVec 48} {bs : List Byte} {index : Word} {last : Bool} {p : PlanStrand} {e : PlanPeer × Nat}
    (ho : InOrder s.dev l.val h (.strand cl part false off.toNat bs)) (hp : s.dev.strand = some p)
    (he : peerOf p (s.dev.link l.val).farAddr = some e) (hf : s.dev.failed = false)
    (hc : (s.dev.frame 16).contained = false)
    (ha : s.dev.strandAllowed (s.dev.link l.val).farAddr part.toNat false off.toNat bs.length = true) :
    exec (.strandFlit l h cl part false off bs index last) s = .next { s with
      dev := (s.dev.taking l.val h).storeStrand e.2 cl.toNat part.toNat off.toNat bs index last } :=
  act_eq_next (f := fun d => doStrandFlit l.val h (d.flitOpens l.val h (.strand cl part false off.toNat bs)) cl.toNat
    part.toNat false off.toNat bs index last d) hr (doStrandFlit_stores hcalm ho hp he hf hc ha)

theorem exec_dataFlit_asks (hr : s.dev.running = true) (hcalm : Calm s.dev) (hup : (s.dev.link l.val).st = .up)
    (hrun : (s.dev.link l.val).tagRun < 15) (ha : (s.dev.link l.val).awaiting = false) {handle : Word} {off : BitVec 48}
    {bs : List Byte} (hopen : s.dev.flitOpens l.val h (.data handle off.toNat bs) = false) :
    exec (.dataFlit l h handle off bs) s = .next { s with dev := s.dev.onLink l.val Link.asks } := by
  refine act_eq_next (f := fun d => doDataFlit l.val h (d.flitOpens l.val h (.data handle off.toNat bs)) handle
    off.toNat bs d) hr ?_
  rw [hopen]
  exact doDataFlit_asks hcalm hup hrun ha ..

theorem exec_collFlit_asks (hr : s.dev.running = true) (hcalm : Calm s.dev) (hup : (s.dev.link l.val).st = .up)
    (hrun : (s.dev.link l.val).tagRun < 15) (ha : (s.dev.link l.val).awaiting = false) {slot : BitVec 12} {chunk : Word}
    {elem : BitVec 10} {fmt : Byte} {ws : List AW}
    (hopen : s.dev.flitOpens l.val h (.coll slot chunk.toNat elem.toNat fmt ws) = false) :
    exec (.collFlit l h slot chunk elem fmt ws) s = .next { s with dev := s.dev.onLink l.val Link.asks } := by
  refine act_eq_next (f := fun d => doCollFlit l.val h (d.flitOpens l.val h
    (.coll slot chunk.toNat elem.toNat fmt ws)) slot chunk.toNat elem.toNat ws d) hr ?_
  rw [hopen]
  exact doCollFlit_asks hcalm hup hrun ha ..

theorem exec_strandFlit_asks (hr : s.dev.running = true) (hcalm : Calm s.dev) (hup : (s.dev.link l.val).st = .up)
    (hrun : (s.dev.link l.val).tagRun < 15) (ha : (s.dev.link l.val).awaiting = false) {cl : Byte} {part : BitVec 3}
    {fill : Bool} {off : BitVec 48} {bs : List Byte} (idx : Word) (last : Bool)
    (hopen : s.dev.flitOpens l.val h (.strand cl part fill off.toNat bs) = false) :
    exec (.strandFlit l h cl part fill off bs idx last) s = .next { s with dev := s.dev.onLink l.val Link.asks } := by
  refine act_eq_next (f := fun d => doStrandFlit l.val h (d.flitOpens l.val h
    (.strand cl part fill off.toNat bs)) cl.toNat part.toNat fill off.toNat bs idx last d) hr ?_
  rw [hopen]
  exact doStrandFlit_asks hcalm hup hrun ha ..

theorem exec_coverFlit_asks (hr : s.dev.running = true) (hup : (s.dev.link l.val).st = .up)
    (hrun : (s.dev.link l.val).tagRun < 15) (ha : (s.dev.link l.val).awaiting = false)
    (hopen : s.dev.flitOpens l.val h .cover = false) :
    exec (.coverFlit l h) s = .next { s with dev := s.dev.onLink l.val Link.asks } := by
  refine act_eq_next (f := fun d => doCoverFlit l.val h (d.flitOpens l.val h .cover) false d) hr ?_
  rw [hopen]
  exact doCoverFlit_asks hup hrun ha h false

theorem exec_reservedFlit_asks (hr : s.dev.running = true) (hup : (s.dev.link l.val).st = .up)
    (hrun : (s.dev.link l.val).tagRun < 15) (ha : (s.dev.link l.val).awaiting = false) {r : Fin 10 × List Byte}
    (hopen : s.dev.wireOpens l.val h (reservedWire r) = false) :
    exec (.coverFlit l h (some r)) s = .next { s with dev := s.dev.onLink l.val Link.asks } := by
  refine act_eq_next (f := fun d => doCoverFlit l.val h (d.wireOpens l.val h (reservedWire r)) true d) hr ?_
  rw [hopen]
  exact doCoverFlit_asks hup hrun ha h true

end

/-! ## The obligation -/

/-- Settles O38: a flit in order has its own effect on the device that has taken it, and without a transfer or a save
nothing else moves on. -/
theorem flitsArrive : Obligations.FlitsArrive := by
  unfold Obligations.FlitsArrive
  intro s l h handle off bs slot chunk elem fmt ws cl part idx last hr hcalm d₀ out d₁
  refine ⟨fun ho o hobj ha hk hw hcl => ?_, fun ho => ⟨fun ha => ?_, fun ha => ?_⟩, fun ho p e hp he hf hc ha => ?_,
    fun hup hseq => ⟨fun hopen => ?_, fun r hopen => ?_, fun hopen g hc hg => ?_⟩, fun hup hrun ha => ?_⟩
  · subst hobj
    exact exec_dataFlit_writes hr hcalm ho ha hk hw hcl
  · exact exec_collFlit_fills hr hcalm ho ha
  · obtain ⟨hcolls, hdeny, hev, htx, hmem, -⟩ := Dev.denyFlow_denies (d := s.dev) (l := l.val) (x := h) ho.up
    exact ⟨_, exec_collFlit_denies hr hcalm ho ha, hcolls, hdeny, hev, htx, hmem⟩
  · refine ⟨_, exec_strandFlit_stores hr hcalm ho hp he hf hc ha, fun hw => ?_, ?_⟩
    · intro c c₀
      have hc' : c = c₀.take cl.toNat part.toNat off.toNat bs idx last := Dev.storeStrand_peer (d := s.dev.taking l.val h) hw ..
      refine ⟨fun hb i hi => ?_, fun hp3 => ?_, fun hp3 => ?_⟩
      · rw [hc']
        exact PeerCopy.take_bytes hb _ _ _ _ _ _ hi
      · rw [hc', PeerCopy.take_counts hp3]
        exact ⟨rfl, rfl⟩
      · subst hp3
        rw [hc']
        exact ⟨rfl, rfl⟩
    · exact Dev.storeStrand_peersOnly (d := s.dev.taking l.val h) ..
  · exact exec_coverFlit_takes hr hcalm hup hseq hopen
  · exact exec_coverFlit_reserved hr hcalm hup hseq hopen
  · obtain ⟨hcolls, hstale, hev, hmem, -⟩ := Dev.dropStale_drops (d := s.dev) (l := l.val) (x := h) (g := g)
    exact ⟨_, exec_collFlit_drops hr hcalm hup hseq hc hopen hg, hcolls, hstale, hev, hmem⟩
  · intro asked
    refine ⟨fun x hx hopen => ?_, fun r hopen => ?_⟩
    · simp only [List.mem_cons, List.not_mem_nil, or_false] at hx
      rcases hx with rfl | rfl | rfl | rfl
      · exact exec_dataFlit_asks hr hcalm hup hrun ha hopen
      · exact exec_collFlit_asks hr hcalm hup hrun ha hopen
      · exact exec_strandFlit_asks hr hcalm hup hrun ha idx last hopen
      · exact exec_coverFlit_asks hr hup hrun ha hopen
    · exact exec_reservedFlit_asks hr hup hrun ha hopen

end Sys2Proof.Machine

/-! PROOFS. A sweep program's start, its sweeps' issue and their commits (R98, R99, R123, R129, R130, R135). -/

namespace Sys2Proof.Machine
open Sys2Proof

/-! ## A tile that holds a program, a queue that holds a command -/

section
variable {d : Dev} {t : Nat} {g : Prog}

theorem TileSt.ne_reset_of_prog {x : TileSt} (h : x.prog ≠ none) : x ≠ TileSt.reset := fun e => h (e ▸ rfl)

/-- A change of a tile that keeps a program in it shows in the tile, whatever the table lists beside it. -/
theorem Dev.modTile_tile_of_prog {f : TileSt → TileSt} (h : (f (d.tile t)).prog ≠ none) :
    (d.modTile t f).tile t = f (d.tile t) := Tab.get_set_self _ _ _ (TileSt.ne_reset_of_prog h)

theorem Dev.modProg_tile (h : (d.tile t).prog = some g) (f : Prog → Prog) :
    (d.modProg t f).tile t = { d.tile t with prog := some (f g) } := by
  have hf : ({ d.tile t with prog := (d.tile t).prog.map f } : TileSt) = { d.tile t with prog := some (f g) } := by
    rw [h]
    rfl
  refine (Dev.modTile_tile_of_prog ?_).trans hf
  rw [hf]
  exact Option.some_ne_none _

theorem Dev.modProg_tile_ne {k : Nat} (hk : k ≠ t) (f : Prog → Prog) : (d.modProg t f).tile k = d.tile k :=
  d.modTile_tile_ne _ hk

/-- A program in progress ends nothing. -/
theorem Dev.progEnd_goes (h : (d.tile t).prog = some g) (hs : g.stopped = false) (hd : g.done.length < g.instrs.length) :
    d.progEnd t = d := by
  rw [Dev.progEnd, h]
  refine if_neg fun hall => ?_
  simp only [hs, Bool.false_or, Bool.and_eq_true, decide_eq_true_eq] at hall
  omega

theorem find?_map_cmd {f : Cmd → Cmd} {seq : Word} (hf : ∀ x, (f x).seq = x.seq) {c : Cmd} {cs : List Cmd}
    (h : cs.find? (fun x => x.seq == seq) = some c) :
    (cs.map fun x => if x.seq = seq then f x else x).find? (fun x => x.seq == seq) = some (f c) := by
  induction cs with
  | nil => exact nomatch h
  | cons x cs ih =>
    by_cases hx : x.seq = seq
    · have hc : x = c := by simpa [hx] using h
      subst hc
      simp [hx, hf]
    · simp only [List.find?_cons, beq_eq_false_iff_ne.2 hx, List.map_cons, if_neg hx] at h ⊢
      exact ih h

theorem Dev.modCmd_cmd {q : Nat} {seq : Word} {c : Cmd} {f : Cmd → Cmd} (h : d.cmd q seq = some c)
    (hf : ∀ x, (f x).seq = x.seq) : (d.modCmd q seq f).cmd q seq = some (f c) := by
  have hq : (d.modCmd q seq f).queue q = { d.queue q with
      cmds := (d.queue q).cmds.map fun x => if x.seq = seq then f x else x } := by
    refine Tab.get_set_self _ _ _ fun hv => List.ne_nil_of_mem (List.mem_of_find?_eq_some h) ?_
    exact List.map_eq_nil_iff.1 (congrArg Queue.cmds hv)
  rw [Dev.cmd, hq]
  exact find?_map_cmd hf h

end

/-! ## The start of a program (R123, R136) -/

section
variable {d : Dev}

/-- The program of a command. -/
def Dev.programOf (d : Dev) (n : Nat) (q : Que) (c : Cmd) : Prog :=
  { queue := q, seq := c.seq, clearing := n, members := (d.gangOf (fld c.raw 28 1)).1,
    rows := (d.gangOf (fld c.raw 28 1)).2.1, cols := (d.gangOf (fld c.raw 28 1)).2.2, instrs := c.prog,
    srStream := BitVec.ofNat 16 (fld c.raw 30 2), stepKey := c.stepKey, issued := [], done := [], flights := [],
    epilogues := [], movers := [], stopped := false, status := .ok, detail := .none, info := 0 }

theorem doSweepProgram_installs {q : Que} {c : Cmd} {n : Nat} (hc : d.cmd q.val c.seq = some c)
    (hn : d.queueClr q.val = some n) (ho : c.opcode = 2) (hp : c.ph = .started) (ht : (d.tile (fld c.raw 28 1)).prog = none)
    (hf : d.programFirst q.val c = true) : doSweepProgram q.val c.seq d =
      (d.modTile (fld c.raw 28 1) fun s => { s with prog := some (d.programOf n q c) }).modCmd q.val c.seq
        fun x => { x with ph := .running } := by
  have hq : Fin.ofNat 4096 q.val = q := Fin.ext (Nat.mod_eq_of_lt q.isLt)
  rw [doSweepProgram, hc, hn]
  dsimp only
  rw [ho, hp, ht, hf, if_neg (by decide), if_neg (by decide), if_pos (by rfl), Dev.installProgram, hq]
  rfl

/-! ## The issue of a sweep (R129, R130) -/

theorem doSweep_issues {t idx : Nat} {g : Prog} (hg : (d.tile t).prog = some g) {fa fb bA bB tA tB init epi ao bo as bs slot k ac ef eb ea sk bk rnd dst pr}
    (hn : g.nextCalc = some (idx, .sweep fa fb bA bB tA tB init epi ao bo as bs slot k ac ef eb ea sk bk rnd dst pr))
    (hr : g.calcReady (d.readsOf g) idx (.sweep fa fb bA bB tA tB init epi ao bo as bs slot k ac ef eb ea sk bk rnd dst pr) = true) :
    doSweep t d = d.issueSweep t g idx (.sweep fa fb bA bB tA tB init epi ao bo as bs slot k ac ef eb ea sk bk rnd dst pr) init slot k := by
  rw [doSweep, hg]
  dsimp only
  rw [hn]
  exact if_pos hr

theorem doAccAdd_issues {t idx : Nat} {g : Prog} (hg : (d.tile t).prog = some g) {a b : Nat}
    (hn : g.nextCalc = some (idx, .accAdd a b)) (hr : g.calcReady (d.readsOf g) idx (.accAdd a b) = true) :
    let f : Flight :=
      { idx := idx, isAdd := true, slot := a, start := g.members.map fun m => (m, (d.tile m).slotWords a), work := [],
        replays := 0 }
    doAccAdd t d = d.modProg t fun p => { p with issued := p.issued ++ [idx], flights := p.flights ++ [f] } := by
  intro f
  rw [doAccAdd, hg]
  dsimp only
  rw [hn]
  exact if_pos hr

end

/-- Settles O12: the start and the issue are equations of the tile's program. -/
theorem sweepsIssue : Obligations.SweepsIssue := by
  unfold Obligations.SweepsIssue
  intro s q seq c n t g idx hr d₀
  refine ⟨fun hc hn ho hp ht hf => ?_, fun hg => ⟨?_, fun a b hnext hready => ?_⟩⟩
  · obtain rfl : c.seq = seq := Dev.cmd_seq hc
    let x := s.dev.modTile (fld c.raw 28 1) fun u => { u with prog := some (s.dev.programOf n q c) }
    have hx : x.cmd q.val c.seq = some c := hc
    refine ⟨_, act_eq_next hr (doSweepProgram_installs hc hn ho hp ht hf), ?_, fun k hk => ?_, ?_, rfl⟩
    · exact congrArg TileSt.prog (Dev.modTile_tile_of_prog (d := s.dev)
        (f := fun u => { u with prog := some (s.dev.programOf n q c) }) (Option.some_ne_none (s.dev.programOf n q c)))
    · exact Dev.modTile_tile_ne s.dev (fun u => { u with prog := some (s.dev.programOf n q c) }) hk
    · exact congrArg (Option.map Cmd.ph)
        (Dev.modCmd_cmd (d := x) (f := fun y => { y with ph := .running }) hx fun _ => rfl)
  · intro fa fb bA bB tA tB init epi ao bo as bs slot k ac ef eb ea sk bk rnd dst pr i hnext hready
    exact act_eq_next hr (doSweep_issues hg hnext hready)
  · exact act_eq_next hr (doAccAdd_issues hg hnext hready)

/-! ## A commit (R98, R99, R130) -/

section
variable {d : Dev} {t : Nat} {g : Prog} {f : Flight}

/-- A change of the words of a tile that holds a program leaves the program. -/
theorem Dev.setSlots_prog (os : List (Nat × List ElemRes)) (slot : Nat) (h : (d.tile t).prog = some g) :
    ((os.foldl (fun d o => d.modTile o.1 fun s => s.setSlot slot (o.2.map (·.word))) d).tile t).prog = some g := by
  refine List.foldlRecOn (motive := fun e : Dev => (e.tile t).prog = some g) _ _ h fun e he o _ => ?_
  by_cases ho : t = o.1
  · subst ho
    exact (congrArg TileSt.prog (Dev.modTile_tile_of_prog
      (f := fun s => s.setSlot slot (o.2.map (·.word))) (he ▸ Option.some_ne_none g))).trans he
  · rw [Dev.modTile_tile_ne _ _ ho]
    exact he

/-- Counting in a clearing's NUM block. -/
def Dev.NumsOnly (d d' : Dev) : Prop := d' = { d with clrs := d'.clrs }

theorem Dev.NumsOnly.trans {a b c : Dev} (h : a.NumsOnly b) (h' : b.NumsOnly c) : a.NumsOnly c := by
  unfold Dev.NumsOnly at *
  rw [h', h]

theorem Dev.convNans_numsOnly (n src tile q : Nat) (seq : Word) (sweep : Nat) (ks : List Nat) :
    d.NumsOnly (d.convNans n src tile q seq sweep ks) := by
  unfold Dev.convNans
  split <;> rfl

theorem Dev.strictStarts_numsOnly : d.NumsOnly (d.strictStarts g f) := by
  refine List.foldlRecOn (motive := d.NumsOnly) _ _ rfl fun e he s _ => ?_
  exact (he.trans (Dev.convNans_numsOnly ..)).trans rfl

/-- The device once the words of a flight are written and the conversions of its start words noted. -/
def Dev.committed (d : Dev) (g : Prog) (f : Flight) (outs : List (Nat × List ElemRes)) : Dev :=
  let words := d.commitWords g f outs
  if words.startsStrict g f then words.strictStarts g f else words

/-- An instruction that goes on to its epilogue. -/
def SwInstr.hasEpilogue : Option SwInstr → Bool
  | some (.sweep _ _ _ _ _ _ _ e _ _ _ _ _ _ _ _ _ _ _ _ _ _ _) => e
  | _ => false

/-- A program once its first flight has ended. -/
def Prog.landed (p : Prog) (epi : Bool) (idx : Nat) : Prog :=
  if epi then { p with flights := p.flights.tail, epilogues := p.epilogues ++ [idx] }
  else { p with flights := p.flights.tail, done := p.done ++ [idx] }

theorem Prog.landed_stopped (epi : Bool) (idx : Nat) : (g.landed epi idx).stopped = g.stopped := by
  cases epi <;> rfl

theorem Prog.landed_instrs (epi : Bool) (idx : Nat) : (g.landed epi idx).instrs = g.instrs := by
  cases epi <;> rfl

theorem Prog.landed_done (epi : Bool) (idx : Nat) : (g.landed epi idx).done.length ≤ g.done.length + 1 := by
  cases epi with
  | true => exact Nat.le_succ _
  | false => exact (List.length_append.trans rfl).le

/-- `d'` is `d` with other tiles. -/
def Dev.TilesOf (d' d : Dev) : Prop := d' = { d with tiles := d'.tiles }

theorem Dev.TilesOf.trans {a b c : Dev} (h : c.TilesOf b) (h' : b.TilesOf a) : c.TilesOf a := by
  unfold Dev.TilesOf at *
  rw [h, h']

theorem Dev.modTile_tilesOf (d : Dev) (t : Nat) (f : TileSt → TileSt) : (d.modTile t f).TilesOf d := rfl

theorem Dev.commitWords_frame (outs : List (Nat × List ElemRes)) : d.commitWords g f outs =
    { d with tiles := (d.commitWords g f outs).tiles, clrs := (d.commitWords g f outs).clrs } := by
  have hslots (e : Dev) : (outs.foldl (fun d o => d.modTile o.1 fun s => s.setSlot f.slot (o.2.map (·.word))) e).TilesOf e :=
    foldl_frame (R := fun a b => Dev.TilesOf b a) (fun _ => rfl) (fun h h' => h'.trans h) (fun d o => d.modTile_tilesOf o.1 _) outs e
  have hd := hslots d
  unfold Dev.commitWords
  dsimp only
  generalize outs.foldl _ d = e at hd
  unfold Dev.TilesOf at hd
  rw [hd]
  rfl

theorem Dev.committed_numsOnly (outs : List (Nat × List ElemRes)) :
    (d.commitWords g f outs).NumsOnly (d.committed g f outs) := by
  unfold Dev.committed
  dsimp only
  split
  · exact Dev.strictStarts_numsOnly
  · rfl

theorem Dev.committed_plan (outs : List (Nat × List ElemRes)) : (d.committed g f outs).plan = d.plan :=
  (congrArg Dev.plan (Dev.committed_numsOnly outs) :).trans (congrArg Dev.plan (d.commitWords_frame (g := g) (f := f) outs) :)

theorem Dev.mode_of_plan {e : Dev} (h : e.plan = d.plan) (n : Nat) : e.mode n = d.mode n := by
  unfold Dev.mode Dev.arithMode Dev.planClr
  rw [h]

theorem Dev.committed_prog (outs : List (Nat × List ElemRes)) (h : (d.tile t).prog = some g) :
    ((d.committed g f outs).tile t).prog = some g := by
  have htiles : (d.committed g f outs).tiles = (d.commitWords g f outs).tiles :=
    (congrArg Dev.tiles (Dev.committed_numsOnly outs) :)
  rw [Dev.tile, htiles]
  exact Dev.setSlots_prog outs f.slot h

theorem Dev.commitFlight_commits {outs : List (Nat × List ElemRes)} (hg : (d.tile t).prog = some g)
    (hnan : firstNan (commitEvents g f (d.mode g.clearing == .strict && !f.isAdd) (d.nanTrap g.clearing == 1) outs) = none)
    (hs : g.stopped = false) (hd : g.done.length + 1 < g.instrs.length)
    (hstart : d.startsStrict g f = true → d.nanTrap g.clearing ≠ 1 ∨ ∀ x ∈ f.start, strictNans x.2 = []) :
    d.commitFlight t g f outs = (d.committed g f outs).modProg t fun p =>
      p.landed (SwInstr.hasEpilogue g.instrs[f.idx]?) f.idx := by
  have hmode : (d.committed g f outs).mode g.clearing = d.mode g.clearing :=
    Dev.mode_of_plan (Dev.committed_plan outs) _
  have hstrict : (d.commitWords g f outs).startsStrict g f = d.startsStrict g f := by
    rw [Dev.startsStrict, Dev.mode_of_plan (congrArg Dev.plan (Dev.commitWords_frame outs) :)]
    rfl
  have hgood : (d.nanTrap g.clearing == 1 && d.startsStrict g f && f.start.any fun s => !(strictNans s.2).isEmpty) = false := by
    cases hst : d.startsStrict g f with
    | false => rw [Bool.and_false, Bool.false_and]
    | true =>
      rcases hstart hst with h1 | hnone
      · rw [beq_false_of_ne h1, Bool.false_and, Bool.false_and]
      · rw [List.any_eq_false.2 fun x hx => by rw [hnone x hx]; decide, Bool.and_false]
  have hgoes : ((d.committed g f outs).modProg t fun p => p.landed (SwInstr.hasEpilogue g.instrs[f.idx]?) f.idx).progEnd t =
      (d.committed g f outs).modProg t fun p => p.landed (SwInstr.hasEpilogue g.instrs[f.idx]?) f.idx := by
    refine Dev.progEnd_goes (congrArg TileSt.prog (Dev.modProg_tile (Dev.committed_prog outs hg) _)) ?_ ?_
    · exact (g.landed_stopped _ _).trans hs
    · rw [Prog.landed_instrs]
      exact Nat.lt_of_le_of_lt (g.landed_done _ _) hd
  refine Eq.trans ?_ hgoes
  unfold Dev.commitFlight
  dsimp only
  rw [show (if (d.commitWords g f outs).startsStrict g f = true then (d.commitWords g f outs).strictStarts g f
    else d.commitWords g f outs) = d.committed g f outs from rfl, hmode, hnan, hstrict, hgood]
  rfl

theorem doSweepCommit_commits {fs : List Flight} (hg : (d.tile t).prog = some g) (hf : g.flights = f :: fs)
    (ho : ∀ o ∈ d.flightPass g f, ∀ e ∈ o.2, e.ovf = false) :
    doSweepCommit t d = d.commitFlight t g f (d.flightPass g f) := by
  have hany : ((d.flightPass g f).any fun o => o.2.any (·.ovf)) = false :=
    List.any_eq_false.2 fun o h => by simpa using ho o h
  rw [doSweepCommit, hg]
  dsimp only
  rw [hf]
  dsimp only
  rw [hany]
  rfl

/-- The words that a flight starts its next pass with. -/
def Flight.redone (f : Flight) (outs : List (Nat × List ElemRes)) : List (Nat × List AW) :=
  (f.work.zip outs).map fun x => (x.1.1, (x.1.2.zip x.2.2).map fun y => if y.2.ovf then y.2.word else y.1)

theorem Dev.modNum_num {n : Nat} {f : Num → Num} (h : f (d.clr n).num ≠ Clearing.reset.num) :
    ((d.modNum n f).clr n).num = f (d.clr n).num := by
  have hne : ({ d.clr n with num := f (d.clr n).num } : Clearing) ≠ Clearing.reset := fun e => h (congrArg Clearing.num e)
  exact congrArg Clearing.num (Tab.get_set_self Clearing.reset d.clrs n hne)

/-- The NUM block once a sweep has replayed. -/
def Num.replayed (x : Num) : Num := { x with replay := satInc x.replay, status := setBit x.status 4 }

/-- A replay changes the flight's words and the clearing's counters alone. -/
theorem Dev.replayFlight_replays {fs : List Flight} (hg : (d.tile t).prog = some g) (hf : g.flights = f :: fs)
    (outs : List (Nat × List ElemRes)) :
    let e := d.replayFlight t g f outs
    (e.tile t).prog = some { g with flights := { f with work := f.redone outs, replays := f.replays + 1 } :: fs } ∧
      (∀ k, (e.tile k).acc = (d.tile k).acc ∧ (e.tile k).op = (d.tile k).op) ∧
      (e.clr g.clearing).num = { (d.clr g.clearing).num with
        replay := satInc (d.clr g.clearing).num.replay, status := setBit (d.clr g.clearing).num.status 4 } ∧
      e = { d with tiles := e.tiles, clrs := e.clrs } := by
  intro e
  let x := d.modNum g.clearing Num.replayed
  have htile : e.tile t = { d.tile t with prog := some { g with
      flights := { f with work := f.redone outs, replays := f.replays + 1 } :: g.flights.tail } } :=
    Dev.modProg_tile (d := x) hg _
  refine ⟨?_, fun k => ?_, ?_, rfl⟩
  · rw [htile, hf]
    rfl
  · by_cases hk : k = t
    · subst hk
      rw [htile]
      exact ⟨rfl, rfl⟩
    · have hne : e.tile k = d.tile k := Dev.modProg_tile_ne (d := x) hk _
      rw [hne]
      exact ⟨rfl, rfl⟩
  · refine Dev.modNum_num (d := d) (f := Num.replayed) fun h => ?_
    have hbit := getLsbD_setBit (d.clr g.clearing).num.status 4 (i := 4) (by decide)
    have hst : setBit (d.clr g.clearing).num.status 4 = Clearing.reset.num.status := congrArg Num.status h
    rw [hst] at hbit
    simp [Clearing.reset, Num.reset] at hbit

theorem doSweepCommit_replays {fs : List Flight} (hg : (d.tile t).prog = some g) (hf : g.flights = f :: fs)
    (ho : ∃ o ∈ d.flightPass g f, ∃ e ∈ o.2, e.ovf = true) :
    doSweepCommit t d = d.replayFlight t g f (d.flightPass g f) := by
  have hany : ((d.flightPass g f).any fun o => o.2.any (·.ovf)) = true := by
    obtain ⟨o, ho, e, he, hovf⟩ := ho
    exact List.any_eq_true.2 ⟨o, ho, List.any_eq_true.2 ⟨e, he, hovf⟩⟩
  rw [doSweepCommit, hg]
  dsimp only
  rw [hf]
  exact if_pos hany

end

/-- Settles O13: a commit and a replay are equations of the tile's program. -/
theorem sweepsCommit : Obligations.SweepsCommit := by
  unfold Obligations.SweepsCommit
  intro s t g f fs hr d₀ hg hf outs
  refine ⟨fun ho hnan hs hd hstart => ?_, fun ho => ?_⟩
  · intro words noted
    refine ⟨SwInstr.hasEpilogue g.instrs[f.idx]?, ?_, fun a b hi => by rw [hi]; rfl,
      act_eq_next (f := doSweepCommit t.val) hr
        ((doSweepCommit_commits hg hf ho).trans (Dev.commitFlight_commits hg hnan hs hd hstart))⟩
    intro fa fb bA bB tA tB init e ao bo as bs slot k ac ef eb ea sk bk rnd dst pr hi
    rw [hi]
    rfl
  · have hreplay := Dev.replayFlight_replays (d := s.dev) hg hf outs
    exact ⟨_, _, act_eq_next hr (doSweepCommit_replays hg hf ho), hreplay⟩

end Sys2Proof.Machine

/-! PROOFS. What epilogues and the movers write (R126, R131–R133). -/

namespace Sys2Proof.Machine
open Sys2Proof

/-! ## The operand store of a tile -/

/-- A tile with other operand bytes. -/
def TileSt.OpOnly (s s' : TileSt) : Prop := s' = { s with op := s'.op, bounds := s'.bounds }

theorem TileSt.OpOnly.refl (s : TileSt) : s.OpOnly s := Eq.refl s

theorem TileSt.OpOnly.trans {a b c : TileSt} (h : a.OpOnly b) (h' : b.OpOnly c) : a.OpOnly c := by
  unfold TileSt.OpOnly at *
  rw [h', h]

theorem TileSt.OpOnly.foldl {α : Type} {f : TileSt → α → TileSt} (h : ∀ s x, TileSt.OpOnly s (f s x)) (xs : List α)
    (s : TileSt) : s.OpOnly (xs.foldl f s) :=
  List.foldlRecOn (motive := s.OpOnly) xs f (.refl s) fun b hb x _ => hb.trans (h b x)

theorem TileSt.write_opOnly (s : TileSt) (off : Nat) (bs : List Byte) : s.OpOnly (s.write off bs) := rfl

theorem TileSt.recordBounds_opOnly (s : TileSt) (f : Fmt) (off cols : Nat) (codes : List (List Nat)) :
    s.OpOnly (s.recordBounds f off cols codes) := rfl

theorem TileSt.putPanel_opOnly (s : TileSt) (f : Fmt) (blk kax : Bool) (off rows cols : Nat) (limit : Option Nat)
    (c : Conv) : s.OpOnly (s.putPanel f blk kax off rows cols limit c) := by
  have hall (ws : List (Nat × List Byte)) : s.OpOnly (ws.foldl (fun s w => s.write w.1 w.2) s) :=
    .foldl (fun s w => s.write_opOnly w.1 w.2) ws s
  unfold TileSt.putPanel
  dsimp only
  split
  · exact hall _
  · exact (hall _).trans (TileSt.recordBounds_opOnly _ f off cols c.codes)

theorem TileSt.putEpilogue_opOnly (s : TileSt) (f : Fmt) (blk cols : Bool) (dst : Nat) (limit : Option Nat) (c : Conv) :
    s.OpOnly (s.putEpilogue f blk cols dst limit c) := by
  have hrows : s.OpOnly (c.codes.zipIdx.foldl (fun s r =>
      let k := keptInRow limit 32 r.2
      let bs := f.pack (r.1.take k)
      s.write (dst + r.2 * rowPitch f 32) (if k = 32 then bs ++ List.replicate (rowPitch f 32 - bs.length) 0 else bs)) s) :=
    .foldl (fun s r => s.write_opOnly _ _) _ s
  unfold TileSt.putEpilogue
  dsimp only at hrows ⊢
  generalize c.codes.zipIdx.foldl _ s = x at hrows
  have hscales (p : List Nat × Nat → Prop) [DecidablePred p] : x.OpOnly (c.scales.zipIdx.foldl (fun s l =>
      if p l then s.write (dst + roundTo64 (panelBytes f 32 32) + 16 * l.2)
        (BitVec.ofNat 8 (l.1.headD 0) :: List.replicate 15 0) else s) x) := by
    refine .foldl (fun s l => ?_) _ x
    split
    · exact s.write_opOnly _ _
    · exact .refl s
  have hplane (b : Bool) (p : List Nat × Nat → Prop) [DecidablePred p] : s.OpOnly (if b then c.scales.zipIdx.foldl (fun s l =>
      if p l then s.write (dst + roundTo64 (panelBytes f 32 32) + 16 * l.2)
        (BitVec.ofNat 8 (l.1.headD 0) :: List.replicate 15 0) else s) x else x) := by
    cases b with
    | true => exact hrows.trans (hscales p)
    | false => exact hrows
  split
  · exact hplane blk _
  · exact (hplane blk _).trans (TileSt.recordBounds_opOnly _ f dst 32 c.codes)

/-! ## The random draws of a conversion -/

theorem Dev.loseHeld_held (d : Dev) : d.loseHeld = { d with
    plan := { d.plan with held := d.loseHeld.plan.held }, ev := d.loseHeld.ev, pins := d.loseHeld.pins,
    outbox := d.loseHeld.outbox } := by
  unfold Dev.loseHeld
  split
  · exact (Dev.raise_frame _ .plan 2).trans (by rw [Dev.raise_plan])
  · rfl

theorem Dev.drew_frame (d : Dev) (used : Bool) (stream : BitVec 16) : d.drew used stream = { d with
    free := (d.drew used stream).free, plan := { d.plan with held := (d.drew used stream).plan.held },
    ev := (d.drew used stream).ev, pins := (d.drew used stream).pins, outbox := (d.drew used stream).outbox } := by
  unfold Dev.drew
  split
  · have h := d.loseHeld_held
    generalize d.loseHeld = e at h
    rw [h]
    rfl
  · rfl

theorem Dev.drew_tile (d : Dev) (used : Bool) (stream : BitVec 16) (m : Nat) : (d.drew used stream).tile m = d.tile m := by
  rw [Dev.tile, (congrArg Dev.tiles (d.drew_frame used stream) :)]
  rfl

/-! ## The end of a transfer (R126) -/

section
variable {d : Dev} {t idx : Nat} {g : Prog}

theorem doMoverTransferDone_ends {m : MoveRun} (hg : (d.tile t).prog = some g) (hs : g.stopped = false)
    (hm : g.movers.find? (fun r => r.idx == idx) = some m) (hok : m.status = .ok)
    (hd : g.done.length + 1 < g.instrs.length) : doMoverTransferDone t idx d = d.modProg t fun p =>
      { p with movers := p.movers.filter (fun r => r.idx != idx), done := p.done ++ [idx] } := by
  rw [doMoverTransferDone, hg]
  dsimp only
  rw [hm]
  dsimp only
  rw [hok]
  refine Dev.progEnd_goes (congrArg TileSt.prog (Dev.modProg_tile hg _)) hs ?_
  change (g.done ++ [idx]).length < g.instrs.length
  rw [List.length_append]
  exact hd

end

/-! ## Epilogues (R131–R133) -/

section
variable {d : Dev} {t idx : Nat} {g : Prog}

/-- What an epilogue's conversions have left so far: operand bytes of the program's members alone, and counts. -/
structure Dev.Converts (g : Prog) (t : Nat) (d d' : Dev) : Prop where
  wf : Tab.wf TileSt.reset d'.tiles = true
  acc : ∀ m, (d'.tile m).acc = (d.tile m).acc
  op : ∀ m, m ∉ g.members → (d'.tile m).op = (d.tile m).op
  prog : (d'.tile t).prog = (d.tile t).prog
  frame : d' = { d with tiles := d'.tiles, clrs := d'.clrs }

theorem Dev.Converts.refl (hw : Tab.wf TileSt.reset d.tiles = true) : Dev.Converts g t d d :=
  ⟨hw, fun _ => rfl, fun _ _ => rfl, rfl, rfl⟩

theorem Dev.Converts.trans {a b c : Dev} (h : Dev.Converts g t a b) (h' : Dev.Converts g t b c) : Dev.Converts g t a c :=
  ⟨h'.wf, fun m => (h'.acc m).trans (h.acc m), fun m hm => (h'.op m hm).trans (h.op m hm), h'.prog.trans h.prog,
    by rw [h'.frame, h.frame]⟩

theorem Dev.NumsOnly.converts {d' : Dev} (h : d.NumsOnly d') (hw : Tab.wf TileSt.reset d.tiles = true) :
    Dev.Converts g t d d' := by
  unfold Dev.NumsOnly at h
  rw [h]
  exact ⟨hw, fun _ => rfl, fun _ _ => rfl, rfl, rfl⟩

theorem Dev.modTile_converts {m : Nat} (hm : m ∈ g.members) {f : TileSt → TileSt} (hf : ∀ s, TileSt.OpOnly s (f s))
    (hw : Tab.wf TileSt.reset d.tiles = true) : Dev.Converts g t d (d.modTile m f) := by
  have htile (k : Nat) : (d.modTile m f).tile k = if k = m then f (d.tile m) else d.tile k := Tab.get_mod hw m k f
  refine ⟨Tab.mod_wf _ _ hw m f, fun k => ?_, fun k hk => ?_, ?_, rfl⟩
  · rw [htile]
    split
    next h =>
      subst h
      rw [hf (d.tile k)]
    · rfl
  · rw [htile, if_neg fun h : k = m => hk (h ▸ hm)]
  · rw [htile]
    split
    next h =>
      subst h
      rw [hf (d.tile t)]
    · rfl

/-- An epilogue's conversion on one member. -/
def Dev.convertMember (d : Dev) (g : Prog) (idx ef : Nat) (eb ea : Bool) (dst : Nat) (c : Nat × Conv × Nat) : Dev :=
  let n := g.clearing
  let e := d.modTile c.1 fun s => s.putEpilogue (fmtOr ef) eb ea dst (d.trapLimit n c.2.1.nans) c.2.1
  (e.convNans n 2 c.1 g.queue.val g.seq idx c.2.1.nans).lossConversions n c.2.2

theorem Dev.convertMember_converts {c : Nat × Conv × Nat} (hm : c.1 ∈ g.members)
    (hw : Tab.wf TileSt.reset d.tiles = true) (ef : Nat) (eb ea : Bool) (dst : Nat) :
    Dev.Converts g t d (d.convertMember g idx ef eb ea dst c) := by
  have hput := Dev.modTile_converts (t := t) hm
    (fun s => s.putEpilogue_opOnly (fmtOr ef) eb ea dst (d.trapLimit g.clearing c.2.1.nans) c.2.1) hw
  have hnums (e : Dev) : e.NumsOnly ((e.convNans g.clearing 2 c.1 g.queue.val g.seq idx c.2.1.nans).lossConversions
      g.clearing c.2.2) := (Dev.convNans_numsOnly ..).trans rfl
  exact hput.trans ((hnums _).converts hput.wf)

theorem Dev.epiConvs_members {i : SwInstr} {c : Nat × Conv × Nat} (h : c ∈ d.epiConvs g idx i) : c.1 ∈ g.members := by
  unfold Dev.epiConvs at h
  split at h
  · obtain ⟨m, hm, rfl⟩ := List.mem_map.1 h
    exact List.fst_mem_of_mem_zipIdx hm
  · exact absurd h List.not_mem_nil

/-- A program's record changes after the conversions and their draws. -/
theorem Dev.Converts.ended {x : Dev} (h : Dev.Converts g t d x) (used : Bool) (stream : BitVec 16) (f : Prog → Prog) :
    let e := (x.drew used stream).modProg t f
    e = { d with
      tiles := e.tiles, clrs := e.clrs, plan := { d.plan with held := e.plan.held }, free := e.free, ev := e.ev,
      pins := e.pins, outbox := e.outbox } := by
  intro e
  have hd := x.drew_frame used stream
  have hx := h.frame
  unfold e
  generalize x.drew used stream = y at hd
  rw [hd, hx]
  rfl

theorem Dev.convertMembers_converts {cs : List (Nat × Conv × Nat)} (hcs : ∀ c ∈ cs, c.1 ∈ g.members)
    (hw : Tab.wf TileSt.reset d.tiles = true) (ef : Nat) (eb ea : Bool) (dst : Nat) :
    Dev.Converts g t d (cs.foldl (fun d c => d.convertMember g idx ef eb ea dst c) d) :=
  List.foldlRecOn (motive := Dev.Converts g t d) _ _ (.refl hw) fun _ he c hc =>
    he.trans (Dev.convertMember_converts (hcs c hc) he.wf ef eb ea dst)

/-- A program once an epilogue has ended. -/
def Prog.epilogueEnded (p : Prog) (idx : Nat) : Prog := { p with epilogues := p.epilogues.tail, done := p.done ++ [idx] }

theorem doEpilogueDone_ends {is : List Nat} {fa fb bA bB tA tB init e ao bo as bs slot k ac ef eb ea sk bk rnd dst pr}
    (hg : (d.tile t).prog = some g) (he : g.epilogues = idx :: is)
    (hi : g.instrs[idx]? = some (.sweep fa fb bA bB tA tB init e ao bo as bs slot k ac ef eb ea sk bk rnd dst pr))
    (hn : d.nanTrap g.clearing ≠ 1) (hw : Tab.wf TileSt.reset d.tiles = true) (hs : g.stopped = false)
    (hd : g.done.length + 1 < g.instrs.length) :
    ∃ x y used, Dev.Converts g t d x ∧ x.drew used g.srStream = y ∧
      doEpilogueDone t d = y.modProg t fun p => p.epilogueEnded idx := by
  let i : SwInstr := .sweep fa fb bA bB tA tB init e ao bo as bs slot k ac ef eb ea sk bk rnd dst pr
  let x := (d.epiConvs g idx i).foldl (fun d c => d.convertMember g idx ef eb ea dst c) d
  let y := x.drew (x.rounding g.clearing rnd.toNat == .sr) g.srStream
  have hconv : Dev.Converts g t d x := Dev.convertMembers_converts (fun c hc => Dev.epiConvs_members hc) hw ef eb ea dst
  refine ⟨x, y, _, hconv, rfl, ?_⟩
  have hstops : (d.nanTrap g.clearing == 1 && (d.epiConvs g idx i).any fun c => !c.2.1.nans.isEmpty) = false := by
    rw [beq_false_of_ne hn, Bool.false_and]
  have hy : (y.tile t).prog = some g := by
    have htiles : y.tiles = x.tiles := (congrArg Dev.tiles (x.drew_frame _ g.srStream) :)
    rw [Dev.tile, htiles]
    exact hconv.prog.trans hg
  have hend : doEpilogueDone t d = (y.modProg t fun p =>
      if d.nanTrap g.clearing == 1 && (d.epiConvs g idx i).any fun c => !c.2.1.nans.isEmpty then
        (p.epilogueEnded idx).stop .nanTrap .none 0 else p.epilogueEnded idx).progEnd t := by
    rw [doEpilogueDone, hg]
    dsimp only
    rw [he]
    dsimp only
    rw [hi]
    rfl
  rw [hend, hstops]
  refine Dev.progEnd_goes (congrArg TileSt.prog (Dev.modProg_tile hy _)) hs ?_
  change (g.done ++ [idx]).length < g.instrs.length
  rw [List.length_append]
  exact hd

end

/-! ## LOADs (R126) -/

section
variable {d : Dev} {t idx : Nat} {g : Prog}

/-- The words or the panel of a LOAD in a member's stores. -/
def TileSt.loaded (s : TileSt) (acc : Bool) (f : Fmt) (blk kax : Bool) (sram rows cols : Nat) (c : Conv) : TileSt :=
  if acc then s.putWords sram c else s.putPanel f blk kax sram rows cols none c

theorem TileSt.loaded_prog (s : TileSt) (acc : Bool) (f : Fmt) (blk kax : Bool) (sram rows cols : Nat) (c : Conv) :
    (s.loaded acc f blk kax sram rows cols c).prog = s.prog := by
  unfold TileSt.loaded
  split
  · rfl
  · exact (congrArg TileSt.prog (s.putPanel_opOnly f blk kax sram rows cols none c) :)

theorem loadMembers_sublist (g : List Nat × Nat × Nat) (bcast member : Nat) : (loadMembers g bcast member).Sublist g.1 := by
  unfold loadMembers
  refine (List.filter_sublist.map Prod.fst).trans ?_
  rw [List.zipIdx_map_fst]

theorem Dev.moveNotes_frame (sr : Bool) (y : Conv × Nat) :
    let e := d.moveNotes t g idx sr y
    e = { d with
      clrs := e.clrs, free := e.free, plan := { d.plan with held := e.plan.held }, ev := e.ev, pins := e.pins,
      outbox := e.outbox } := by
  intro e
  have hnums : d.NumsOnly ((d.convNans g.clearing 3 t g.queue.val g.seq idx y.1.nans).lossConversions g.clearing y.2) :=
    (Dev.convNans_numsOnly ..).trans rfl
  have hdrew := Dev.drew_frame ((d.convNans g.clearing 3 t g.queue.val g.seq idx y.1.nans).lossConversions g.clearing y.2)
    sr g.srStream
  unfold e Dev.moveNotes
  generalize (d.convNans g.clearing 3 t g.queue.val g.seq idx y.1.nans).lossConversions g.clearing y.2 = x at *
  unfold Dev.NumsOnly at hnums
  rw [hdrew, hnums]

theorem Dev.TilesOf.noted {z : Dev} (h : z.TilesOf d) (sr : Bool) (y : Conv × Nat) :
    let e := z.moveNotes t g idx sr y
    e = { d with
      tiles := e.tiles, clrs := e.clrs, free := e.free, plan := { d.plan with held := e.plan.held }, ev := e.ev,
      pins := e.pins, outbox := e.outbox } := by
  intro e
  have he : e = _ := z.moveNotes_frame sr y
  generalize e = x at he
  unfold Dev.TilesOf at h
  rw [he, h]

/-- Members take a change of their stores in turn. -/
def Dev.putAll (d : Dev) (ms : List Nat) (put : TileSt → TileSt) : Dev := ms.foldl (fun d m => d.modTile m put) d

theorem Dev.putAll_tilesOf (ms : List Nat) (put : TileSt → TileSt) : (d.putAll ms put).TilesOf d :=
  foldl_frame (R := fun a b => Dev.TilesOf b a) (fun _ => rfl) (fun h h' => h'.trans h) (fun d m => d.modTile_tilesOf m _) ms d

theorem Dev.putAll_tile_ne {ms : List Nat} {m : Nat} (hm : m ∉ ms) (put : TileSt → TileSt) :
    (d.putAll ms put).tile m = d.tile m :=
  List.foldlRecOn (motive := fun e : Dev => e.tile m = d.tile m) _ _ rfl fun e he k hk =>
    (e.modTile_tile_ne put fun h : m = k => hm (h ▸ hk)).trans he

theorem Dev.putAll_prog {ms : List Nat} {put : TileSt → TileSt} (hput : ∀ s, (put s).prog = s.prog)
    (hg : (d.tile t).prog = some g) : ((d.putAll ms put).tile t).prog = some g := by
  refine List.foldlRecOn (motive := fun e : Dev => (e.tile t).prog = some g) _ _ hg fun e he m _ => ?_
  by_cases hm : t = m
  · subst hm
    rw [Dev.modTile_tile_of_prog (by rw [hput, he]; exact Option.some_ne_none g), hput, he]
  · rw [Dev.modTile_tile_ne _ _ hm, he]

theorem Dev.putAll_tile {ms : List Nat} (hn : ms.Nodup) (hw : Tab.wf TileSt.reset d.tiles = true) (put : TileSt → TileSt)
    {m : Nat} (hm : m ∈ ms) : (d.putAll ms put).tile m = put (d.tile m) := by
  have htiles : (d.putAll ms put).tiles = ms.foldl (fun t k => Tab.mod TileSt.reset t k put) d.tiles := by
    unfold Dev.putAll
    clear hm hn hw
    induction ms generalizing d with
    | nil => rfl
    | cons k ks ih => exact ih (d := d.modTile k put)
  rw [Dev.tile, htiles, Tab.get_foldl_mod_nodup put hn hw, if_pos hm]
  rfl

theorem Dev.tryRead_ok {n : Nat} {who : Option (Nat × Word)} {h : Word} {o : Obj} {rs : List (Nat × Nat)}
    (hk : d.keyAllows o.clearing.toNat n false = true) (hok : (d.checkRanges o rs).2.status = .ok) :
    d.tryRead n who h o rs = ((d.checkRanges o rs).1.tick, some (d.checkRanges o rs).2) := by
  rw [Dev.tryRead, hk, if_neg (by decide)]
  dsimp only
  split
  · rw [hok, if_neg (by simp)]
  · rfl

theorem Dev.rounding_of_plan {e : Dev} (h : e.plan = d.plan) (n code : Nat) : e.rounding n code = d.rounding n code := by
  unfold Dev.rounding Dev.defRound Dev.planClr
  rw [h]

theorem Dev.nanTrap_of_plan {e : Dev} (h : e.plan = d.plan) (n : Nat) : e.nanTrap n = d.nanTrap n := by
  unfold Dev.nanTrap Dev.planClr
  rw [h]

theorem doLoad_loads {fm blkM fs blkS acc kax rnd bcast member sram mv h off rows cols pitch delta}
    (hg : (d.tile t).prog = some g)
    (hi : g.instrs[idx]? = some (.load fm blkM fs blkS acc kax rnd bcast member sram mv h off rows cols pitch delta))
    (hr : g.moveReady (d.readsOf g) idx
      (.load fm blkM fs blkS acc kax rnd bcast member sram mv h off rows cols pitch delta) false = true)
    (hn : d.nanTrap g.clearing ≠ 1)
    (hk : d.keyAllows (d.obj (objIndex h)).clearing.toNat g.clearing false = true)
    (hok : (d.checkRanges (d.obj (objIndex h)) (windowRanges (fmtOr fm) blkM kax off rows cols pitch delta)).2.status = .ok) :
    let o := d.obj (objIndex h)
    let e := (d.checkRanges o (windowRanges (fmtOr fm) blkM kax off rows cols pitch delta)).1.tick
    let y := convertRaw (fmtOr fm) (fmtOr fs) blkM blkS kax (d.mode g.clearing) (d.rounding g.clearing rnd.toNat)
      cols (fun k => e.drawAt g.stepKey g.srStream 0 (2 ^ 24 * idx + k))
      (e.rawWindow o (fmtOr fm) blkM kax off rows cols pitch delta)
    let z := e.putAll (loadMembers (g.members, g.rows, g.cols) bcast member) fun s =>
      s.loaded acc (fmtOr fs) blkS kax sram rows cols y.1
    let sr := z.usesSr g.clearing (.load fm blkM fs blkS acc kax rnd bcast member sram mv h off rows cols pitch delta)
    doLoad t idx d = (z.moveNotes t g idx sr y).startMove t idx .ok .none 0 := by
  intro o e y z sr
  have hplan : e.plan = d.plan :=
    (congrArg Dev.plan (d.checkRanges_counts o (windowRanges (fmtOr fm) blkM kax off rows cols pitch delta) hok) :)
  have hread : d.tryRead g.clearing (d.progHolder g) h o (windowRanges (fmtOr fm) blkM kax off rows cols pitch delta) =
      (e, some (d.checkRanges o (windowRanges (fmtOr fm) blkM kax off rows cols pitch delta)).2) := Dev.tryRead_ok hk hok
  have hlimit (nans : List Nat) : e.trapLimit g.clearing nans = none :=
    if_neg ((Dev.nanTrap_of_plan hplan g.clearing).symm ▸ hn)
  rw [doLoad, hg]
  dsimp only
  rw [hi]
  dsimp only
  rw [hr, if_pos rfl, Dev.runLoad]
  dsimp only
  rw [hread]
  dsimp only
  rw [hok, if_neg (not_not_intro rfl), hlimit, Dev.mode_of_plan hplan, Dev.rounding_of_plan hplan]
  rfl

/-- A program's record changes and its tile's stores stay. -/
theorem Dev.modProg_stores (f : Prog → Prog) (hg : (d.tile t).prog = some g) (k : Nat) :
    ((d.modProg t f).tile k).op = (d.tile k).op ∧ ((d.modProg t f).tile k).acc = (d.tile k).acc := by
  by_cases hk : k = t
  · subst hk
    rw [Dev.modProg_tile hg]
    exact ⟨rfl, rfl⟩
  · rw [Dev.modProg_tile_ne hk]
    exact ⟨rfl, rfl⟩

end

/-- Settles O14: an epilogue's members take its conversions in turn, and a LOAD's members its window. -/
theorem panelsMove : Obligations.PanelsMove := by
  unfold Obligations.PanelsMove
  intro s t g idx hr d₀ hg hs hn hw
  refine ⟨?_, ?_, fun m hm hok hd => act_eq_next hr (doMoverTransferDone_ends hg hs hm hok hd)⟩
  · intro is fa fb bA bB tA tB init e ao bo as bs slot k ac ef eb ea sk bk rnd dst pr he hd hi
    obtain ⟨x, y, used, hconv, hy, hend⟩ := doEpilogueDone_ends hg he hi hn hw hs hd
    subst hy
    have hprog : ((x.drew used g.srStream).tile t.val).prog = some g :=
      (congrArg TileSt.prog (x.drew_tile used g.srStream t.val)).trans (hconv.prog.trans hg)
    refine ⟨_, act_eq_next hr hend, ?_, fun m => ?_, fun m hm => ?_, ?_⟩
    · rw [Dev.modProg_tile hprog]
      exact congrArg (fun is => some { g with epilogues := is, done := g.done ++ [idx] }) (congrArg List.tail he)
    · exact (Dev.modProg_stores _ hprog m).2.trans ((congrArg TileSt.acc (x.drew_tile ..)).trans (hconv.acc m))
    · exact (Dev.modProg_stores _ hprog m).1.trans ((congrArg TileSt.op (x.drew_tile ..)).trans (hconv.op m hm))
    · exact hconv.ended used g.srStream _
  · intro fm blkM fs blkS acc kax rnd bcast member sram mv h off rows cols pitch delta i hi hready o x e hk hok y
    let z := e.putAll (loadMembers (g.members, g.rows, g.cols) bcast member) fun u =>
      u.loaded acc (fmtOr fs) blkS kax sram rows cols y.1
    let w := z.moveNotes t.val g idx (z.usesSr g.clearing i) y
    have hload : exec (.load t idx) s = .next { s with dev := w.startMove t.val idx .ok .none 0 } :=
      act_eq_next hr (doLoad_loads hg hi hready hn hk hok)
    have hcount := s.dev.checkRanges_counts o _ hok
    have he (m : Nat) : e.tile m = s.dev.tile m := (congrArg (fun x : Dev => x.tile m) hcount :)
    have hz : z.TilesOf e := e.putAll_tilesOf _ _
    have hwz (m : Nat) : w.tile m = z.tile m :=
      (congrArg (fun x : Dev => x.tile m) (z.moveNotes_frame (z.usesSr g.clearing i) y) :)
    have hprog : (w.tile t.val).prog = some g := by
      rw [hwz]
      exact Dev.putAll_prog (fun u => u.loaded_prog ..) ((congrArg TileSt.prog (he t.val)).trans hg)
    have hstores (m : Nat) := Dev.modProg_stores (fun p => { p with
      issued := p.issued ++ [idx], movers := p.movers ++ [{ idx := idx, status := .ok, detail := .none, info := 0 }] }) hprog m
    have hput (hnd : g.members.Nodup) {m : Nat} (hm : m ∈ loadMembers (g.members, g.rows, g.cols) bcast member) :
        z.tile m = (s.dev.tile m).loaded acc (fmtOr fs) blkS kax sram rows cols y.1 := by
      have hwe : Tab.wf TileSt.reset e.tiles = true := (congrArg Dev.tiles hcount :) ▸ hw
      exact (Dev.putAll_tile ((loadMembers_sublist (g.members, g.rows, g.cols) bcast member).nodup hnd) hwe _ hm).trans
        (congrArg (TileSt.loaded · acc (fmtOr fs) blkS kax sram rows cols y.1) (he m))
    have hwe := hz.noted (t := t.val) (idx := idx) (g := g) (z.usesSr g.clearing i) y
    refine ⟨_, hload, ?_, fun m hm => ?_, fun hnd m hm => ⟨fun hacc => ?_, fun hacc => ?_⟩, ?_, ?_, ?_, ?_, hcount⟩
    · exact congrArg TileSt.prog (Dev.modProg_tile hprog _)
    · have htile : w.tile m = s.dev.tile m := ((hwz m).trans (Dev.putAll_tile_ne hm _)).trans (he m)
      exact ⟨(hstores m).1.trans (congrArg TileSt.op htile), (hstores m).2.trans (congrArg TileSt.acc htile)⟩
    · have htile := (hwz m).trans (hput hnd hm)
      subst hacc
      exact (hstores m).2.trans (congrArg TileSt.acc htile)
    · have htile := (hwz m).trans (hput hnd hm)
      subst hacc
      exact (hstores m).1.trans (congrArg TileSt.op htile)
    · exact (congrArg Dev.mem hwe :)
    · exact (congrArg Dev.host hwe :).trans (congrArg Dev.host hcount :)
    · exact (congrArg Dev.sec hwe :).trans (congrArg Dev.sec hcount :)
    · exact (congrArg Dev.lnk hwe :).trans (congrArg Dev.lnk hcount :)

end Sys2Proof.Machine

/-! PROOFS. STORE and COPY_CONVERT on the device (R90, R126, R223). -/

namespace Sys2Proof.Machine
open Sys2Proof

section
variable {d : Dev}

theorem Dev.tryWrite_written {n : Nat} {o : Obj} {ws : List (Nat × List Byte)}
    (hk : d.keyAllows o.clearing.toNat n true = true) (hw : d.piecesWait o ws = false) :
    d.tryWrite n o ws = ((d.writePieces o ws).1, some (d.writePieces o ws).2) := by
  rw [Dev.tryWrite, hk, hw]
  rfl

theorem Dev.trapLimit_none {n : Nat} (h : d.nanTrap n ≠ 1) (nans : List Nat) : d.trapLimit n nans = none := if_neg h

/-! ## STORE -/

/-- The elements that a STORE converts. -/
def Dev.storeRaw (d : Dev) (t : Nat) (g : Prog) (fs : Nat) (blkS acc kax : Bool) (member sram rows cols : Nat) : Raw :=
  let src := d.tile (g.members[member]?.getD t)
  if acc then src.rawWords sram rows cols else src.rawPanel d.free (fmtOr fs) blkS kax sram rows cols

theorem doStore_stores {t idx : Nat} {g : Prog} {fm blkM fs blkS acc kax rnd member sram mv h off rows cols pitch delta}
    (hg : (d.tile t).prog = some g)
    (hi : g.instrs[idx]? = some (.store fm blkM fs blkS acc kax rnd member sram mv h off rows cols pitch delta))
    (hr : g.moveReady (d.readsOf g) idx
      (.store fm blkM fs blkS acc kax rnd member sram mv h off rows cols pitch delta) true = true)
    (hn : d.nanTrap g.clearing ≠ 1)
    (hk : d.keyAllows (d.obj (objIndex h)).clearing.toNat g.clearing true = true) :
    let o := d.obj (objIndex h)
    let y := convertRaw (fmtOr fs) (fmtOr fm) blkS blkM kax (d.mode g.clearing) (d.rounding g.clearing rnd.toNat) cols
      (fun e => d.drawAt g.stepKey g.srStream 0 (2 ^ 24 * idx + e))
      (d.storeRaw t g fs blkS acc kax member sram rows cols)
    let ws := windowWrites (fmtOr fm) blkM kax cols (fun r => off + r * pitch) (off + delta)
      (planeShape kax rows cols).2 none y.1
    let z := (d.writePieces o ws).1
    let sr := z.usesSr g.clearing (.store fm blkM fs blkS acc kax rnd member sram mv h off rows cols pitch delta)
    d.piecesWait o ws = false → (d.writePieces o ws).2.status = .ok →
    doStore t idx d = (z.moveNotes t g idx sr y).startMove t idx .ok .none 0 := by
  intro o y ws z sr hw hok
  have hwrite : d.tryWrite g.clearing o ws = (z, some (d.writePieces o ws).2) := Dev.tryWrite_written hk hw
  rw [doStore, hg]
  dsimp only
  rw [hi]
  dsimp only
  rw [hr, if_pos rfl, Dev.runStore]
  dsimp only
  rw [Dev.trapLimit_none hn]
  change (match d.tryWrite g.clearing o ws with | (d, none) => d | (d', some x) => _) = _
  rw [hwrite]
  dsimp only
  rw [hok, if_neg (not_not_intro rfl)]
  rfl

/-! ## COPY_CONVERT -/

theorem Dev.completeCmd_ends {q : Nat} {c : Cmd} {e : Dev} (hc : d.cmd q c.seq = some c) (hh : e.host = d.host) (st : Status)
    (det : Detail) (info : BitVec 64) : Completes d q c st det info (e.completeCmd q c st det info 0) := by
  have he : (e.cmd q c.seq).isSome = true := by
    rw [Dev.cmd, Dev.queue, hh]
    exact Dev.cmd_isSome hc
  have hends := Dev.completeCmd_completes he st det info
  unfold Completes at hends ⊢
  rwa [hh] at hends

/-- What a conversion leaves in the NUM block, and its draws. -/
def Dev.copyNotes (d : Dev) (n q : Nat) (c : Cmd) (used : Bool) (y : Conv × Nat) : Dev :=
  ((d.convNans n 3 0 q c.seq 0 y.1.nans).lossConversions n y.2).drew used (BitVec.ofNat 16 (fld c.raw 46 2))

theorem Dev.copyNotes_frame (n q : Nat) (c : Cmd) (used : Bool) (y : Conv × Nat) :
    let e := d.copyNotes n q c used y
    e = { d with
      clrs := e.clrs, free := e.free, plan := { d.plan with held := e.plan.held }, ev := e.ev, pins := e.pins,
      outbox := e.outbox } := by
  intro e
  have hnums : d.NumsOnly ((d.convNans n 3 0 q c.seq 0 y.1.nans).lossConversions n y.2) := (Dev.convNans_numsOnly ..).trans rfl
  have hdrew := Dev.drew_frame ((d.convNans n 3 0 q c.seq 0 y.1.nans).lossConversions n y.2) used
    (BitVec.ofNat 16 (fld c.raw 46 2))
  unfold e Dev.copyNotes
  generalize (d.convNans n 3 0 q c.seq 0 y.1.nans).lossConversions n y.2 = x at *
  unfold Dev.NumsOnly at hnums
  rw [hdrew, hnums]

theorem Dev.copyTo_copies {n q : Nat} {c : Cmd} {a : CopyArgs} (hdir : a.dir = 0) (hn : d.nanTrap n ≠ 1)
    (hk : d.keyAllows (d.obj (objIndex a.dstH)).clearing.toNat n true = true) (x : Raw) :
    let o := d.obj (objIndex a.dstH)
    let y := convertRaw a.src a.dst a.blkS a.blkD false (d.mode n) (d.rounding n (fld c.raw 38 1)) a.count
      (d.drawAt c.stepKey (BitVec.ofNat 16 (fld c.raw 46 2)) 0) x
    let ws := windowWrites a.dst a.blkD false a.count (fun _ => a.dstOff) (a.dstOff + a.dstDelta) 0 none y.1
    d.piecesWait o ws = false → (d.writePieces o ws).2.status = .ok →
    ∃ used, d.copyTo n q c a x = ((d.writePieces o ws).1.copyNotes n q c used y).completeCmd q c .ok .none 0 0 := by
  intro o y ws hw hok
  have hwrite : d.tryWrite n o ws = ((d.writePieces o ws).1, some (d.writePieces o ws).2) := Dev.tryWrite_written hk hw
  refine ⟨d.rounding n (fld c.raw 38 1) == .sr && !(a.src == a.dst && a.blkS == a.blkD), ?_⟩
  rw [Dev.copyTo]
  dsimp only
  rw [Dev.trapLimit_none hn, hdir, if_neg (by decide), if_neg (by decide)]
  change (match d.tryWrite n o ws with | (d, none) => d | (d', some h) => _) = _
  rw [hwrite]
  dsimp only
  rw [hok, if_pos rfl]
  rfl

theorem doCopyConvert_copies {n q : Nat} {c : Cmd} (hc : d.cmd q c.seq = some c) (hq : d.queueClr q = some n)
    (ho : c.opcode = 1) (hp : c.ph = .started) (hdir : c.copyArgs.dir = 0)
    (hk : d.keyAllows (d.obj (objIndex c.copyArgs.srcH)).clearing.toNat n false = true) :
    let a := c.copyArgs
    let x := d.obj (objIndex a.srcH)
    let came := d.checkRanges x (lineRanges a.src a.blkS a.srcOff a.count a.srcDelta)
    came.2.status = .ok → ∀ env tagOk, doCopyConvert q c.seq env tagOk d =
      came.1.tick.copyTo n q c a (came.1.tick.rawWindow x a.src a.blkS false a.srcOff 1 a.count 0 a.srcDelta) := by
  intro a x came hok env tagOk
  have hread : d.tryRead n (c.holder q) a.srcH x (lineRanges a.src a.blkS a.srcOff a.count a.srcDelta) =
      (came.1.tick, some came.2) := Dev.tryRead_ok hk hok
  rw [doCopyConvert, hc, hq]
  dsimp only
  rw [ho, hp, if_neg (by decide), hdir, if_neg (by decide), if_neg (by simp)]
  change (match d.tryRead n (c.holder q) a.srcH x (lineRanges a.src a.blkS a.srcOff a.count a.srcDelta) with
    | (d, none) => d | (d', some h) => _) = _
  rw [hread]
  dsimp only
  rw [if_pos hok]

end

/-- A COPY_CONVERT whose outcome does not turn on an envelope. -/
theorem exec_copyConvert {s : State} {q : Que} {seq : Word} {e : Dev} (hr : s.dev.running = true)
    (h : ∀ env tagOk, doCopyConvert q.val seq env tagOk s.dev = e) (hd pl : List Byte) :
    exec (.copyConvert q seq hd pl) s = .next { s with dev := e } :=
  act_eq_next (f := fun d => doCopyConvert q.val seq (readEnvelope (d.ingressKeyOf q.val (hd ++ pl)) (hd ++ pl))
    (envelopeOpens (d.ingressKeyOf q.val (hd ++ pl)) (hd ++ pl)) d) hr (h _ _)

/-- Settles O15: the pieces written are the only bytes that a STORE and a COPY_CONVERT leave. -/
theorem windowsWritten : Obligations.WindowsWritten := by
  unfold Obligations.WindowsWritten
  intro s n hr hn d₀
  refine ⟨?_, ?_⟩
  · intro t g idx fm blkM fs blkS acc kax rnd member sram mv h off rows cols pitch delta i hg hcl hi hready o src raw y ws hk
      hw hok
    subst hcl
    let z := (s.dev.writePieces o ws).1
    let w := z.moveNotes t.val g idx (z.usesSr g.clearing i) y
    have hstore : exec (.store t idx) s = .next { s with dev := w.startMove t.val idx .ok .none 0 } :=
      act_eq_next hr (doStore_stores hg hi hready hn hk hw hok)
    have hz := s.dev.writePieces_writes o ws hok
    have hnote := z.moveNotes_frame (t := t.val) (idx := idx) (g := g) (z.usesSr g.clearing i) y
    have htile (m : Nat) : w.tile m = s.dev.tile m :=
      (congrArg (fun x : Dev => x.tile m) hnote :).trans (congrArg (fun x : Dev => x.tile m) hz :)
    have hprog : (w.tile t.val).prog = some g := (congrArg TileSt.prog (htile t.val)).trans hg
    refine ⟨_, hstore, congrArg TileSt.prog (Dev.modProg_tile hprog _), fun m => ?_, (congrArg Dev.mem hnote :),
      (congrArg Dev.host hnote :).trans (congrArg Dev.host hz :), (congrArg Dev.sec hnote :).trans (congrArg Dev.sec hz :),
      (congrArg Dev.lnk hnote :).trans (congrArg Dev.lnk hz :)⟩
    obtain ⟨hop, hacc⟩ := Dev.modProg_stores (fun p => { p with
      issued := p.issued ++ [idx], movers := p.movers ++ [{ idx := idx, status := .ok, detail := .none, info := 0 }] }) hprog m
    exact ⟨hop.trans (congrArg TileSt.op (htile m)), hacc.trans (congrArg TileSt.acc (htile m))⟩
  · intro q seq hd pl c hc hq ho hp a hdir x o hkr hkw came e hread y ws hw hok
    obtain rfl : c.seq = seq := Dev.cmd_seq hc
    have hcount : s.dev.CountFrame came.1 := s.dev.checkRanges_counts x _ hread
    have hplan : e.plan = s.dev.plan := (congrArg Dev.plan hcount :)
    have hobj : e.obj (objIndex a.dstH) = o := (congrArg (fun x : Dev => x.obj (objIndex a.dstH)) hcount :)
    have hke : e.keyAllows (e.obj (objIndex a.dstH)).clearing.toNat n true = true :=
      (congrArg (fun x : Dev => x.keyAllows (x.obj (objIndex a.dstH)).clearing.toNat n true) hcount :).trans hkw
    have hcopy := Dev.copyTo_copies (d := e) (q := q.val) (c := c) hdir
      ((Dev.nanTrap_of_plan hplan n).symm ▸ hn) hke (e.rawWindow x a.src a.blkS false a.srcOff 1 a.count 0 a.srcDelta)
    rw [hobj, Dev.mode_of_plan hplan, Dev.rounding_of_plan hplan] at hcopy
    obtain ⟨used, hcopy⟩ := hcopy hw hok
    have hz := e.writePieces_writes o ws hok
    have hnote := (e.writePieces o ws).1.copyNotes_frame n q.val c used y
    generalize (e.writePieces o ws).1.copyNotes n q.val c used y = w at hcopy hnote
    have hhost : w.host = s.dev.host := ((congrArg Dev.host hnote :).trans (congrArg Dev.host hz :)).trans (congrArg Dev.host hcount :)
    have hfin := w.completeCmd_hostOnly q.val c .ok .none 0 0
    refine ⟨_, exec_copyConvert hr (fun env tagOk => (doCopyConvert_copies hc hq ho hp hdir hkr hread env tagOk).trans hcopy) hd pl,
      Dev.completeCmd_ends hc hhost .ok .none 0, ?_, ?_, ?_, ?_⟩
    · exact (congrArg Dev.mem hfin :).trans (congrArg Dev.mem hnote :)
    · exact (((congrArg Dev.tiles hfin :).trans (congrArg Dev.tiles hnote :)).trans (congrArg Dev.tiles hz :)).trans
        (congrArg Dev.tiles hcount :)
    · exact (((congrArg Dev.sec hfin :).trans (congrArg Dev.sec hnote :)).trans (congrArg Dev.sec hz :)).trans
        (congrArg Dev.sec hcount :)
    · exact (((congrArg Dev.lnk hfin :).trans (congrArg Dev.lnk hnote :)).trans (congrArg Dev.lnk hz :)).trans
        (congrArg Dev.lnk hcount :)

end Sys2Proof.Machine

/-! PROOFS. A confluence of one holding with two slots under QUORUM 2 (R270): a counterexample. -/

namespace Sys2Proof.Machine
open Sys2Proof

/-- The two slots of clearing 0 of the neighbour at address 1. -/
def holdingSlots : List StageIn := [{ slot := 0, addr := 1, clr := 0 }, { slot := 1, addr := 1, clr := 0 }]

/-- A plan of QUORUM 2, whose activity 0 receives a confluence into clearing 0 from one holding, in two slots. -/
def quorumPlan : StandPlan :=
  { onePlan with
    quorum := 2
    flows := [{ src := 0, dst := 0, kind := 2, contributors := 1 }]
    templates := [{ templateId := 0, base := 0, length := 0, acts := [
      { actId := 0, kind := 0, clearing := 0, startOff := 0, deadlineOff := 0, preds := [], queue := 0, rflags := 0
        stage := { ins := holdingSlots, outs := [], partialOf := none } }] }] }

/-- A started CONFLUENCE that receives one element. -/
def receiveCmd : Cmd :=
  { heldCmd with raw := BitVec.ofNat 512 (5 + 2 ^ (8 * 16) + 2 ^ (8 * 32)), ph := .started }

/-- The stand with the confluence started. -/
def oneHolding : State :=
  { State.reset with dev := { Dev.reset with
      plan := { PlanRegs.reset with active := some quorumPlan }
      host := { HostBlk.reset with queues := [(0, { Queue.reset with cmds := [receiveCmd] })] } } }

theorem oneHolding_unmet : (doConfluence 0 0 oneHolding.dev).lnk.xfers = [] := by
  decide +kernel

/-- Refutes O40: on `oneHolding` two slots are in service, which the statement counts against QUORUM, and the stage does not
begin: they belong to one holding. -/
theorem not_stagesRun : ¬ Obligations.StagesRun := by
  intro h
  obtain ⟨-, hconfl⟩ := (h oneHolding 0 0 (by decide +kernel)).1 receiveCmd 0 (by decide +kernel) (by decide +kernel)
    (by decide +kernel)
  obtain ⟨d, hout, x, hx, -⟩ := (hconfl (by decide +kernel) (by decide +kernel) (by decide +kernel) quorumPlan
    (by decide +kernel)).2 (by decide +kernel) (by decide +kernel) (by decide +kernel) (by decide +kernel)
  have hd : doConfluence 0 0 oneHolding.dev = d := dev_of_act_eq (s := oneHolding) (by decide +kernel) hout
  rw [← hd, oneHolding_unmet] at hx
  exact absurd hx List.not_mem_nil

end Sys2Proof.Machine
